-- ==== Sys2Proof/Word.lean ====
section
/-! DEFINITION. The machine's words and the plainest operations on them (spec/02_encoding.md, R6, R68). -/

namespace Sys2Proof

/-- A byte of memory (R6). -/
abbrev Byte := BitVec 8

/-- A lane register (R20). -/
abbrev Half := BitVec 32

/-- A group register, an address, an instruction word (R20, R33). -/
abbrev Word := BitVec 64

/-- A mask over the 64 lanes of a group; bit l is lane l. -/
abbrev Mask := BitVec 64

/-- The mask that holds lane `l` alone. -/
def laneBit (l : Nat) : Mask := BitVec.ofNat 64 (2 ^ l)

/-- The lanes of a mask, ascending. -/
def lanesOf (m : Mask) : List Nat := (List.range 64).filter (fun l => m.getLsbD l)

/-- The mask of a list of lanes. -/
def maskOf (ls : List Nat) : Mask := ls.foldl (fun m l => m ||| laneBit l) 0

/-- The number of lanes of a mask. -/
def laneCount (m : Mask) : Nat := (lanesOf m).length

/-- The signed value of the low `w` bits of `x` (two's complement, R72). -/
def signedOf (w x : Nat) : Int :=
  let r := x % 2 ^ w
  if r < 2 ^ (w - 1) then (r : Int) else (r : Int) - (2 ^ w : Nat)

/-- An integer narrowed to `w` bits (wrapping modulo 2^w). -/
def wrapTo (w : Nat) (x : Int) : Nat := (x % ((2 ^ w : Nat) : Int)).toNat

/-- Bits `[hi:lo]` of a number. -/
def bitsOf (x hi lo : Nat) : Nat := (x / 2 ^ lo) % 2 ^ (hi + 1 - lo)

/-- `sext(x, n)` of R68 on numbers, to 64 bits. -/
def sext64 (n x : Nat) : Word := BitVec.ofNat 64 (wrapTo 64 (signedOf n x))

/-- The `n` little-endian bytes of a number (R6). -/
def toBytes : Nat → Nat → List Byte
  | 0, _ => []
  | n + 1, x => BitVec.ofNat 8 x :: toBytes n (x / 256)

/-- The number whose little-endian bytes are given (R6). -/
def fromBytes : List Byte → Nat
  | [] => 0
  | b :: bs => b.toNat + 256 * fromBytes bs

/-- Rounds `x` up to a multiple of `m`. -/
def ceilDiv (x m : Nat) : Nat := (x + m - 1) / m

/-- Canonical form of a glb virtual address: bits [63:55] all equal bit 54 (R345). -/
def canonical (va : Word) : Bool := va.toNat / 2 ^ 54 == 0 || va.toNat / 2 ^ 54 == 2 ^ 10 - 1

end Sys2Proof
end

