-- ==== Sys2Proof/Machine/Crypto.lean ====
section
/-! DEFINITION. AES-256 in Galois counter mode, which the manual names for BTG (spec/08_memory_instructions.md R237) and does not
restate: FIPS 197 and SP 800-38D (log 9). Bytes are numbers below 256. -/

namespace Sys2Proof.Machine

open Sys2Proof

/-! ### AES-256 -/

/-- Multiplication by x in the field of bytes. -/
def xtime (b : Nat) : Nat := if 128 ≤ b then (2 * b) ^^^ 0x11B else 2 * b

/-- Multiplication in the field of bytes: `n` bits of `y`. -/
def byteMul (x y : Nat) : Nat → Nat
  | 0 => 0
  | n + 1 => (if y % 2 = 1 then x else 0) ^^^ byteMul (xtime x) (y / 2) n

/-- Powers: x squared `n` times. -/
def byteSq (x : Nat) : Nat → Nat
  | 0 => x
  | n + 1 => let y := byteSq x n; byteMul y y 8

/-- The inverse in the field of bytes: the power 254. -/
def byteInv (x : Nat) : Nat := (List.range 7).foldl (fun p i => byteMul p (byteSq x (i + 1)) 8) 1

/-- Rotation of a byte to the left. -/
def byteRot (x n : Nat) : Nat := (x * 2 ^ n) % 256 + (x * 2 ^ n) / 256

/-- The substitution of one byte. -/
def subByteOf (x : Nat) : Nat :=
  let y := byteInv x
  y ^^^ byteRot y 1 ^^^ byteRot y 2 ^^^ byteRot y 3 ^^^ byteRot y 4 ^^^ 0x63

/-- The substitution box. -/
def subBox : Array Nat := ((List.range 256).map subByteOf).toArray

/-- The substitution of one byte, by the box. -/
def subByte (x : Nat) : Nat := subBox.getD x 0

/-- Byte-wise exclusive or. -/
def xorBytes (a b : List Nat) : List Nat := List.zipWith (fun x y => x ^^^ y) a b

/-- The round constants of the key schedule: seven are used. -/
def roundConst (i : Nat) : Nat := 2 ^ i

/-- The key schedule: words in reverse order, `n` more to make. -/
def keyWords (ws : List (List Nat)) : Nat → List (List Nat)
  | 0 => ws
  | n + 1 =>
    let i := ws.length
    let t := ws.headD []
    let t1 := if i % 8 = 0 then xorBytes ((t.drop 1 ++ t.take 1).map subByte) [roundConst (i / 8 - 1), 0, 0, 0]
              else if i % 8 = 4 then t.map subByte else t
    keyWords (xorBytes (ws.getD 7 []) t1 :: ws) n

/-- The four-byte words of a key. -/
def wordsOfKey (k : List Nat) : List (List Nat) := (List.range 8).map (fun i => (k.drop (4 * i)).take 4)

/-- The fifteen round keys of a 32-byte key. -/
def roundKeys (k : List Nat) : List (List Nat) :=
  let ws := (keyWords (wordsOfKey k).reverse 52).reverse
  (List.range 15).map (fun i => ((ws.drop (4 * i)).take 4).flatten)

/-- The rows of a block shifted. -/
def shiftRows (b : List Nat) : List Nat := (List.range 16).map (fun i => b.getD ((i % 4) + 4 * ((i / 4 + i % 4) % 4)) 0)

/-- One column mixed. -/
def mixColumn (c : List Nat) : List Nat :=
  (List.range 4).map (fun i =>
    byteMul (c.getD i 0) 2 8 ^^^ byteMul (c.getD ((i + 1) % 4) 0) 3 8 ^^^ c.getD ((i + 2) % 4) 0 ^^^ c.getD ((i + 3) % 4) 0)

/-- The columns of a block mixed. -/
def mixColumns (b : List Nat) : List Nat := (List.range 4).flatMap (fun c => mixColumn ((b.drop (4 * c)).take 4))

/-- One 16-byte block under the round keys. -/
def aesBlock (ks : List (List Nat)) (b : List Nat) : List Nat :=
  let s0 := xorBytes b (ks.headD [])
  let s1 := (List.range 13).foldl (fun s i => xorBytes (mixColumns (shiftRows (s.map subByte))) (ks.getD (i + 1) [])) s0
  xorBytes (shiftRows (s1.map subByte)) (ks.getD 14 [])

/-! ### Galois counter mode -/

/-- A 16-byte block as a number, first byte highest. -/
def blockNum (b : List Nat) : Nat := b.foldl (fun x y => 256 * x + y) 0

/-- The block of a number. -/
def numBlock (x : Nat) : List Nat := (List.range 16).map (fun i => x / 256 ^ (15 - i) % 256)

/-- Multiplication in the field of blocks: the `n` low bits of `x` from the highest on. -/
def blockMul (x v : Nat) : Nat → Nat
  | 0 => 0
  | n + 1 =>
    let v1 := if v % 2 = 1 then v / 2 ^^^ 0xE1000000000000000000000000000000 else v / 2
    (if (x / 2 ^ n) % 2 = 1 then v else 0) ^^^ blockMul x v1 n

/-- The hash of blocks under H. -/
def ghash (h : Nat) (bs : List Nat) : Nat := bs.foldl (fun y b => blockMul (y ^^^ b) h 128) 0

/-- Blocks of at most 16 bytes. -/
def blocksOf (l : List Nat) : Nat → List (List Nat)
  | 0 => []
  | n + 1 => if l.isEmpty then [] else l.take 16 :: blocksOf (l.drop 16) n

/-- Decryption of a ciphertext: the tag it should carry, and the plaintext. `iv` is the 96-bit nonce. -/
def gcmOpen (key : List Nat) (iv : Nat) (c : List Nat) : List Nat × List Nat :=
  let ks := roundKeys key
  let h := blockNum (aesBlock ks (List.replicate 16 0))
  let bs := blocksOf c (c.length / 16 + 1)
  let j0 := iv * 2 ^ 32 + 1
  let ctr := fun (i : Nat) => numBlock (iv * 2 ^ 32 + (1 + i) % 2 ^ 32)
  let plain := (List.zip bs (List.range bs.length)).flatMap (fun x => xorBytes x.1 (aesBlock ks (ctr (x.2 + 1))))
  let padded := bs.map (fun b => blockNum (b ++ List.replicate (16 - b.length) 0))
  let s := ghash h (padded ++ [8 * c.length])
  (xorBytes (numBlock s) (aesBlock ks (numBlock j0)), plain)

/-- BTG's decryption (R237): key byte i is bits [8i + 7 : 8i] of the slot, the IV the salt then the counter. None when the tag
does not verify. -/
def btgOpen (key : BitVec 256) (salt ctr : Nat) (cipher tag : List Byte) : Option (List Byte) :=
  let k := (toBytes 32 key.toNat).map BitVec.toNat
  let (t, p) := gcmOpen k (salt % 2 ^ 32 * 2 ^ 64 + ctr % 2 ^ 64) (cipher.map BitVec.toNat)
  if t = tag.map BitVec.toNat then some (p.map (BitVec.ofNat 8)) else none

end Sys2Proof.Machine
end

