-- ==== Sys2Proof/Syntax.lean ====
section
/-! DEFINITION. The abstract syntax: one constructor of `Instr` per row of spec/opcode_table.json.
Instruction rows carry the fields of their word (R33 to R56); event rows carry the parameters that say
which unit acts, on what (spec/95_what_each_step_holds.md). -/

namespace Sys2Proof

/-- Integer element types, TY of R43. -/
inductive IntTy where
  | i32 | ui32 | i64 | ui64 | i16x2 | ui16x2
deriving DecidableEq, Repr

/-- Floating-point element types, TY of R43. -/
inductive FTy where
  | f32 | f64 | f16x2 | bf16x2 | f16 | bf16
deriving DecidableEq, Repr

/-- Kind of the C field, CK of R43. -/
inductive CKind where
  | vreg | kreg | immZ | immS
deriving DecidableEq, Repr

/-- Integer conditions, CC of R44. -/
inductive ICond where
  | eq | ne | lt | le | gt | ge
deriving DecidableEq, Repr

/-- Floating-point conditions, CC of R44. -/
inductive FCond where
  | eq | ne | lt | le | gt | ge | ord | uno
deriving DecidableEq, Repr

/-- Rounding modes of R43 and R45; `sr` is stochastic rounding (R79). -/
inductive Rm where
  | rne | rtz | rdn | rup | sr
deriving DecidableEq, Repr

/-- FP8 pairs of FDOT4 (R44). -/
inductive Fp8Pair where
  | e4e4 | e5e5 | e4e5 | e5e4
deriving DecidableEq, Repr

/-- Conversion formats, the DF and SF codes of R45. -/
inductive Fmt where
  | f32 | f64 | f16 | bf16 | e4m3 | e5m2 | n4 | i8 | ui8 | i16 | ui16 | i32 | ui32 | i64 | ui64
deriving DecidableEq, Repr

/-- Exchange types, TY of R46. -/
inductive XTy where
  | b32 | i32 | ui32 | f32 | b64 | i64 | ui64 | f64
deriving DecidableEq, Repr

/-- Consistency domains (R4). -/
inductive Dom where
  | bulk | rel | cau | tso | seq
deriving DecidableEq, Repr

/-- Scopes (R5). -/
inductive Scope where
  | grp | blk | cls | dev | sys
deriving DecidableEq, Repr

/-- Access sizes (R49). -/
inductive Size where
  | b1 | b2 | b4 | b8 | b16
deriving DecidableEq, Repr

/-- Order field (R49). -/
inductive Ord where
  | none | acq | rls | ar
deriving DecidableEq, Repr

/-- Atomic operations (R52). -/
inductive AtOp where
  | add | smin | smax | umin | umax | and | or | xor | exch | cas | fadd
deriving DecidableEq, Repr

/-- Block-transfer directions, DIR of R53. -/
inductive Dir where
  | glbLoc | locGlb | glbWbuf | glbAbuf | abufGlb | zbufGlb | locAbuf | abufLoc | peerLoc | locPeer
  | glbGlb | zbufLoc | locWbuf
deriving DecidableEq, Repr

/-- The fields of an instruction word that no class moves, less OP and MOD (R33). -/
structure Hdr where
  u  : Bool
  la : BitVec 4
  ps : BitVec 3
  pn : Bool
  d  : BitVec 8
  a  : BitVec 8
  b  : BitVec 8
  c  : BitVec 8
deriving DecidableEq, Repr

/-- MOD of the integer class, less CC (R43). -/
structure IntMod where
  ty  : IntTy
  sat : Bool
  bk  : Bool
  ck  : CKind
  swa : BitVec 2
  swb : BitVec 2
deriving DecidableEq, Repr

/-- MOD of the floating-point class, less CC (R43). -/
structure FpMod where
  ty  : FTy
  sat : Bool
  bk  : Bool
  ck  : CKind
  swa : BitVec 2
  swb : BitVec 2
  na  : Bool
  nb  : Bool
  rm  : Rm
deriving DecidableEq, Repr

/-- MOD of the conversion class (R45). -/
structure CvMod where
  df   : Fmt
  sf   : Fmt
  rm   : Rm
  sat  : Bool
  bs   : BitVec 2
  auto : Bool
deriving DecidableEq, Repr

/-- MOD of the exchange class (R46). -/
structure XMod where
  opk : BitVec 3
  ty  : XTy
  bk  : Bool
  seg : BitVec 3
  inc : Bool
deriving DecidableEq, Repr

/-- MOD of BARA, BARW and BARS (R48). -/
structure BarMod where
  cnt : Bool
  cl  : Bool
  n   : BitVec 4
deriving DecidableEq, Repr

/-- MOD of the memory class (R49). `rp` 7 means no residency predicate. -/
structure MemMod where
  dom  : Dom
  sc   : Scope
  size : Size
  ord  : Ord
  rp   : BitVec 3
  na   : Bool
deriving DecidableEq, Repr

/-- MOD of GLD and GST (R51). -/
structure GatMod where
  dom  : Dom
  sc   : Scope
  size : Size
  iw   : Bool
  sx   : Bool
  scl  : BitVec 3
  na   : Bool
deriving DecidableEq, Repr

/-- MOD of BT and BTG (R53). -/
structure BtMod where
  dom  : Dom
  sc   : Scope
  dir  : Dir
  g    : Bool
  slot : BitVec 3
deriving DecidableEq, Repr

/-- MOD of MMA (R54); `fmt` is interpreted under the opcode's class (R137). -/
structure MmaMod where
  fmt  : BitVec 4
  pr   : Bool
  zi   : Bool
  g    : Bool
  slot : BitVec 3
deriving DecidableEq, Repr

/-- MOD of the fabric class (R55); SCOPE is sys in every legal word (R264). -/
structure FabMod where
  dom  : Dom
  size : Size
  ord  : Ord
  op   : AtOp
deriving DecidableEq, Repr

/-- A group of a block, or one ejected lane of it (R159, R300). -/
structure AgentRef where
  blk  : Nat
  grp  : Nat
  lane : Option Nat
deriving DecidableEq, Repr

/-- A home of the coherence protocol: the L2 slices, or the cluster cache of a cluster (R193). -/
inductive HomeRef where
  | l2
  | cc (cluster : Nat)
deriving DecidableEq, Repr

/-- A cache of the coherence protocol. -/
inductive CacheRef where
  | l1 (core : Nat)
  | cc (cluster : Nat)
deriving DecidableEq, Repr

/-- A byte-masked write to one 32-byte sector (R162): sector number, data, byte mask, domain. -/
structure SecWrite where
  sec  : Nat
  data : BitVec 256
  mask : BitVec 32
  dom  : Dom
deriving DecidableEq, Repr

/-- An atomic carried to a home (R164): physical address, width, operation, operands. -/
structure HomeAtomic where
  pa   : Nat
  wide : Bool
  op   : AtOp
  x    : Word
  cmp  : Word
  dom  : Dom
deriving DecidableEq, Repr

/-- The context and the object index that a request names (R196). -/
structure ObjTag where
  ctx : Nat
  obj : Nat
deriving DecidableEq, Repr

/-- Who asks a home (R196): the cache below it, and the object that its request names. -/
structure Requester where
  child : Nat
  tag   : ObjTag
deriving DecidableEq, Repr

/-- What a doorbell write comes through: a function of the device (R352), inside its IDE stream or outside it (R354). -/
structure HostFn where
  fn  : Nat
  ide : Bool
deriving DecidableEq, Repr

/-- One item of a packet (R257). -/
structure Item where
  off    : Nat
  size   : Size
  lane   : Nat
  op     : AtOp
  run    : Nat
  status : Nat
  data   : List Byte
deriving DecidableEq, Repr

/-- Virtual networks as NET of R256. -/
inductive Net where
  | dom (d : Dom)
  | fwd
  | rsp
  | idle
deriving DecidableEq, Repr

/-- Flit operations, OPC of R256: codes 12 to 15 are reserved. -/
inductive FOp where
  | idle | load | store | atomic | put | btRead | btWrite | data | ack | pull | resend | error
  | reserved (n : BitVec 2)
deriving DecidableEq, Repr

/-- A flit: the fields of the header (R256), of the prologue, which stands in the first flit of a packet, and the items (R257). A packet that is
not yet cut into flits is one such record. Beside the format (log 11): `acks`, the link acknowledgements that it carries back, each a source,
destination and network with a sequence number (R258); `vt`, the target's VTIME of an answer (R260); `req`, the number of the request; `ref`, the
sequence number of the flit that a pull asks for and a resend carries (R261). `arr` is the receiver's own stamp (R274). -/
structure Flit where
  cr     : List Nat
  acks   : List (Nat × Nat)
  seq    : Nat
  src    : Nat
  dst    : Nat
  net    : Net
  opc    : FOp
  tr     : Bool
  mark   : Bool
  hp     : Bool
  fst    : Bool
  lst    : Bool
  agent  : Nat
  chain  : Nat
  win    : Nat
  key    : Nat
  ten    : Nat
  vt     : Nat
  req    : Nat
  items  : List Item
  nitems : Nat
  nflits : Nat
  ref    : Nat
  arr    : Nat
  crc    : BitVec 32
deriving DecidableEq, Repr

/-- The fabric schedule that firmware loads (R252, R253): register images, slot and route tables. -/
structure FabricImage where
  fsched : Word
  fepoch : Word
  slots  : List (List (BitVec 16))
  routes : List (BitVec 16)
deriving DecidableEq, Repr

/-- One refresh of a die's ageing indicators (R383), as the sensors measured them. -/
structure Ageing where
  rod  : BitVec 32
  cew  : BitVec 32
  widx : BitVec 16
  lbd  : BitVec 16
  eol  : BitVec 16
  wear : BitVec 10
deriving DecidableEq, Repr

/-- Where an uncorrectable error strikes (R148, R379). -/
inductive ErrorSite where
  | bte (core : Nat) (store : Bool) (i : Nat)
  | cleanLine (c : CacheRef) (line : Nat)
  | regGranule (blk gr : Nat)
  | kregs (blk grp : Nat)
  | stack (blk grp : Nat)
  | lspace (blk gr : Nat)
  | abuf (blk gr : Nat)
  | wbuf (blk gr : Nat)
  | matrix (core i : Nat)
  | mirror (blk grp : Nat) (lanes : BitVec 64)
deriving DecidableEq, Repr

/-- How a boot stage ends (R422): success with what it measured (flight times, fibres
without light, the RDIMMs of each channel in GiB, link width and rate) and the image of the context that firmware creates at stage 5, or failure with its FAIL
code. -/
inductive BootResult where
  | ok (flights : List Nat) (absent : List Nat) (dimms : List (List Nat)) (width rate : Nat) (image : List Byte)
  | fail (code : Nat)
deriving DecidableEq, Repr

/-- What the module's sensors read (R424): VBULK voltage in mV and current in mA, module power in W, junction temperatures of the dies and coolant
inlet temperature in °C. -/
structure Sensors where
  volts    : Nat
  amps     : Nat
  watts    : Nat
  junction : List Nat
  inlet    : Nat
deriving DecidableEq, Repr

/-- Registers that have no row of their own (R252, R253, R392, R22); BAR0 of a function (R418), and what the sensors read (R424). -/
inductive RegWriteTarget where
  | fsched (x : Word)
  | fepoch (x : Word)
  | slot (s f : Nat) (x : BitVec 16)
  | route (d : Nat) (x : BitVec 16)
  | device (n : Nat)
  | quantum (us : Nat)
  | bootst (x : Word)
  | swrq (x : Word)
  | swhead (x : Word)
  | swft (x : Word)
  | bar0 (fn : HostFn) (off : Nat) (x : List Byte)
  | sensors (x : Sensors)
deriving DecidableEq, Repr

/-- Targets of HALT and RESUME (R386). -/
inductive DbgTarget where
  | group (b g : Nat)
  | block (b : Nat)
  | context
deriving DecidableEq, Repr

/-- Kinds of STEP (R389). -/
inductive StepKind where
  | insn | over | out
deriving DecidableEq, Repr

/-- Items of READ and WRITE (R386). -/
inductive DbgItem where
  | v (lane n : Nat)
  | k (n : Nat)
  | p (lane n : Nat)
  | q (n : Nat)
  | g (n : Nat)
  | path
  | entry (i : Nat)
  | fpf
  | local (off len : Nat)
  | abuf (off len : Nat)
  | wbuf (off len : Nat)
  | zbuf (off len : Nat)
  | glb (va : Word) (len : Nat)
deriving DecidableEq, Repr

/-- The instructions and events of the SK4: one constructor per row of spec/opcode_table.json. -/
inductive Instr where
  /-- ADD (R100). Integer add per element, wrapping, or clamping under .sat. -/
  | add (h : Hdr) (m : IntMod)
  /-- SUB (R100). Integer subtract per element, wrapping, or clamping under .sat. -/
  | sub (h : Hdr) (m : IntMod)
  /-- MIN (R100). Smaller of two integer elements by TY signedness. -/
  | min (h : Hdr) (m : IntMod)
  /-- MAX (R100). Larger of two integer elements by TY signedness. -/
  | max (h : Hdr) (m : IntMod)
  /-- ABS (R101). Integer absolute value, wrapping or saturating at the most negative value. -/
  | abs (h : Hdr) (m : IntMod)
  /-- MUL (R100). Low w bits of the integer product. -/
  | mul (h : Hdr) (m : IntMod)
  /-- MULH (R100). High w bits of the exact 2w-bit integer product. -/
  | mulh (h : Hdr) (m : IntMod)
  /-- MAD (R100). Low w bits of a times b plus c. -/
  | mad (h : Hdr) (m : IntMod)
  /-- DIVU (R102). Unsigned integer quotient that never traps, all ones on division by zero. -/
  | divu (h : Hdr) (m : IntMod)
  /-- DIVS (R102). Signed integer quotient truncated towards zero that never traps. -/
  | divs (h : Hdr) (m : IntMod)
  /-- REMU (R102). Unsigned integer remainder, a on division by zero. -/
  | remu (h : Hdr) (m : IntMod)
  /-- REMS (R102). Signed integer remainder with the sign of a. -/
  | rems (h : Hdr) (m : IntMod)
  /-- AND (R100). Bitwise and. -/
  | and (h : Hdr) (m : IntMod)
  /-- OR (R100). Bitwise or. -/
  | or (h : Hdr) (m : IntMod)
  /-- XOR (R100). Bitwise exclusive or. -/
  | xor (h : Hdr) (m : IntMod)
  /-- BLUT (R104). Bitwise three-input lookup through the 8-bit table in MOD. -/
  | blut (h : Hdr) (tt : BitVec 8)
  /-- SHL (R103). Shift left by b mod w, filling with zeros. -/
  | shl (h : Hdr) (m : IntMod)
  /-- SHR (R103). Logical shift right by b mod w. -/
  | shr (h : Hdr) (m : IntMod)
  /-- SAR (R103). Arithmetic shift right by b mod w. -/
  | sar (h : Hdr) (m : IntMod)
  /-- FSH (R103). Funnel shift of the pair {b, a} right by c mod w. -/
  | fsh (h : Hdr) (m : IntMod)
  /-- BFX (R103). Extract a bit field, sign- or zero-extended by TY. -/
  | bfx (h : Hdr) (m : IntMod)
  /-- BFI (R103). Insert the low bits of a into the destination's bit field. -/
  | bfi (h : Hdr) (m : IntMod)
  /-- POPC (R100). Count of one bits. -/
  | popc (h : Hdr) (m : IntMod)
  /-- CLZ (R100). Count of leading zero bits. -/
  | clz (h : Hdr) (m : IntMod)
  /-- CTZ (R100). Count of trailing zero bits. -/
  | ctz (h : Hdr) (m : IntMod)
  /-- BREV (R100). Bit reversal within the element. -/
  | brev (h : Hdr) (m : IntMod)
  /-- SEL (R105). Select a or b by the predicate named in C. -/
  | sel (h : Hdr) (m : IntMod)
  /-- ISET (R105). Integer compare writing 1 or 0 per element. -/
  | iset (h : Hdr) (m : IntMod) (cc : ICond)
  /-- CMP (R105). Integer compare writing a predicate. -/
  | cmp (h : Hdr) (m : IntMod) (cc : ICond)
  /-- LEA (R106). Address computation a plus b shifted left by n. -/
  | lea (h : Hdr) (m : IntMod)
  /-- MOV (R107). Register copy with the width of TY and the swizzle of source A. -/
  | mov (h : Hdr) (m : IntMod)
  /-- MOVI (R107). Write the 64-bit X-word immediate to a register. -/
  | movi (h : Hdr) (w : Bool) (x : Word)
  /-- FADD (R110). Floating-point add rounded once. -/
  | fadd (h : Hdr) (m : FpMod)
  /-- FMUL (R110). Floating-point multiply rounded once. -/
  | fmul (h : Hdr) (m : FpMod)
  /-- FFMA (R110). Fused multiply-add rounded once. -/
  | ffma (h : Hdr) (m : FpMod)
  /-- FMIN (R111). Floating-point minimum with NaN handling. -/
  | fmin (h : Hdr) (m : FpMod)
  /-- FMAX (R111). Floating-point maximum with NaN handling. -/
  | fmax (h : Hdr) (m : FpMod)
  /-- FCMP (R112). Floating-point compare writing a predicate. -/
  | fcmp (h : Hdr) (m : FpMod) (cc : FCond)
  /-- FSET (R112). Floating-point compare writing 1.0 or +0.0. -/
  | fset (h : Hdr) (m : FpMod) (cc : FCond)
  /-- FRCP (R113). Correctly rounded reciprocal. -/
  | frcp (h : Hdr) (m : FpMod)
  /-- FRSQ (R113). Reciprocal square root correctly rounded under RNE. -/
  | frsq (h : Hdr) (m : FpMod)
  /-- FSQRT (R113). Correctly rounded square root. -/
  | fsqrt (h : Hdr) (m : FpMod)
  /-- FDIV (R113). Correctly rounded division. -/
  | fdiv (h : Hdr) (m : FpMod)
  /-- FEXP2 (R113). Base-2 exponential correctly rounded under RNE. -/
  | fexp2 (h : Hdr) (m : FpMod)
  /-- FLOG2 (R113). Base-2 logarithm correctly rounded under RNE. -/
  | flog2 (h : Hdr) (m : FpMod)
  /-- FSIN (R113). Sine correctly rounded with exact argument reduction. -/
  | fsin (h : Hdr) (m : FpMod)
  /-- FCOS (R113). Cosine correctly rounded with exact argument reduction. -/
  | fcos (h : Hdr) (m : FpMod)
  /-- FRND (R115). Round to an integral value in the same format. -/
  | frnd (h : Hdr) (m : FpMod)
  /-- FCLASS (R115). Write a 10-bit class mask of the operand. -/
  | fclass (h : Hdr) (m : FpMod)
  /-- FSCALE (R115). Multiply by two to an integer power and round. -/
  | fscale (h : Hdr) (m : FpMod)
  /-- FDOT2 (R116). Two-element 16-bit dot product added to an f32 accumulator as one chunk. -/
  | fdot2 (h : Hdr) (m : FpMod)
  /-- FDOT4 (R116). Four-element FP8 dot product added to an f32 accumulator as one chunk. -/
  | fdot4 (h : Hdr) (m : FpMod) (pr : Fp8Pair)
  /-- CVT (R117). Convert one scalar between formats. -/
  | cvt (h : Hdr) (m : CvMod)
  /-- PACK (R118). Convert and pack two or four source elements into a narrower format. -/
  | pack (h : Hdr) (m : CvMod)
  /-- UNPACK (R119). Convert selected packed elements exactly to a wider format. -/
  | unpack (h : Hdr) (m : CvMod)
  /-- AMAX (R120). Largest magnitude over each four-lane n4 block, written as f32. -/
  | amax (h : Hdr) (m : CvMod)
  /-- QSCALE (R121). Derive a block scale byte from the lead lane's amax. -/
  | qscale (h : Hdr) (m : CvMod)
  /-- QUANT (R122). Quantise wide registers into n4 or FP8 codes under a block scale. -/
  | quant (h : Hdr) (m : CvMod)
  /-- DEQ (R122). Dequantise n4 or FP8 codes into wide registers. -/
  | deq (h : Hdr) (m : CvMod)
  /-- SROUND (R123). Seed each active lane's stochastic-rounding generator. -/
  | sround (h : Hdr)
  /-- PRMT (R124). Build each result byte from a selected byte of a and b. -/
  | prmt (h : Hdr) (ck : CKind)
  /-- SHFL (R127). Read the A register of a source lane chosen within a segment. -/
  | shfl (h : Hdr) (m : XMod)
  /-- QXCH (R127). Exchange values within a quad. -/
  | qxch (h : Hdr) (m : XMod)
  /-- QBCAST (R127). Broadcast one lane of each quad. -/
  | qbcast (h : Hdr) (m : XMod)
  /-- VOTE (R128). Combine a lane predicate over active lanes into a q predicate or k register. -/
  | vote (h : Hdr) (m : XMod)
  /-- MATCH (R129). Find active lanes of the segment holding an equal value. -/
  | matchLanes (h : Hdr) (m : XMod)
  /-- REDUX (R130). Reduce active lanes in ascending order into a k register. -/
  | redux (h : Hdr) (m : XMod)
  /-- SCAN (R130). Inclusive or exclusive prefix combination within segments. -/
  | scan (h : Hdr) (m : XMod)
  /-- BRA (R323). Uniform near branch for the whole current path. -/
  | bra (h : Hdr) (lo : BitVec 15)
  /-- BRA_FAR (R323). Uniform branch to the absolute target in the X-word. -/
  | braFar (h : Hdr) (x : Word)
  /-- BRX (R324). Split the current path by predicate, pushing or ejecting the minority. -/
  | brx (h : Hdr) (live : BitVec 10)
  /-- JOIN (R325). End the path at its rejoin point or return an ejected lane. -/
  | join (h : Hdr)
  /-- CALL (R326). Write the link register and branch to a near target. -/
  | call (h : Hdr) (lo : BitVec 15)
  /-- CALL_FAR (R326). Write the link register and branch to the X-word target. -/
  | callFar (h : Hdr) (x : Word)
  /-- RET (R326). Branch to the k register target, marked as a return. -/
  | ret (h : Hdr)
  /-- JMPI (R326). Branch to the k register target. -/
  | jmpi (h : Hdr)
  /-- EXIT (R328). End the lanes of the current path, waiting for engines on the last path. -/
  | exit (h : Hdr)
  /-- RECALL (R329). Recall every ejected lane of the group and wait for their state. -/
  | recall (h : Hdr)
  /-- BARA (R330). Arrive at a block or cluster barrier. -/
  | bara (h : Hdr) (m : BarMod)
  /-- BARW (R330). Wait for the phase of the group's latest arrival. -/
  | barw (h : Hdr) (m : BarMod)
  /-- BARS (R330). Arrive at a barrier and then wait. -/
  | bars (h : Hdr) (m : BarMod)
  /-- TBINIT (R332). Initialise a transaction barrier in L-space. -/
  | tbinit (h : Hdr)
  /-- TBARR (R333). Arrive n times at a transaction barrier as a release. -/
  | tbarr (h : Hdr)
  /-- TBEXP (R333). Add expected sectors to a transaction barrier. -/
  | tbexp (h : Hdr)
  /-- TBWAIT (R334). Wait until a transaction barrier reaches a phase. -/
  | tbwait (h : Hdr)
  /-- TBTEST (R334). Test once whether a transaction barrier has reached a phase. -/
  | tbtest (h : Hdr)
  /-- WAITV (R228). Load a location and wait until a condition holds in every lane. -/
  | waitv (h : Hdr) (m : MemMod)
  /-- FENCE (R226). Order earlier accesses of a domain, or all domains, before later ones. -/
  | fence (h : Hdr) (dom : Dom) (sc : Scope) (all : Bool)
  /-- BRG (R227). Order earlier d1 accesses before later d2 accesses of the lane. -/
  | brg (h : Hdr) (d1 : Dom) (sc : Scope) (d2 : Dom)
  /-- GSET (R335). Resolve a guard slot, running or discarding its held commands. -/
  | gset (h : Hdr)
  /-- LD_GLB (R216). Load from global memory in a stated domain and scope. -/
  | ldGlb (h : Hdr) (m : MemMod)
  /-- LD_LOC (R216). Load from the block's L-space. -/
  | ldLoc (h : Hdr) (m : MemMod)
  /-- LD_NBR (R216). Load through the neighbour window. -/
  | ldNbr (h : Hdr) (m : MemMod)
  /-- LD_ABUF (R216). Load from the A-buffer. -/
  | ldAbuf (h : Hdr) (m : MemMod)
  /-- LD_ZBUF (R216). Load from the Z-buffer. -/
  | ldZbuf (h : Hdr) (m : MemMod)
  /-- ST_GLB (R216). Store to global memory in a stated domain and scope. -/
  | stGlb (h : Hdr) (m : MemMod)
  /-- ST_LOC (R216). Store to the block's L-space. -/
  | stLoc (h : Hdr) (m : MemMod)
  /-- ST_NBR (R216). Store through the neighbour window. -/
  | stNbr (h : Hdr) (m : MemMod)
  /-- ST_ABUF (R216). Store to the A-buffer. -/
  | stAbuf (h : Hdr) (m : MemMod)
  /-- ST_ZBUF (R216). Store to the Z-buffer. -/
  | stZbuf (h : Hdr) (m : MemMod)
  /-- GLD_GLB (R218). Gather load from global memory by per-lane index. -/
  | gldGlb (h : Hdr) (m : GatMod)
  /-- GLD_LOC (R218). Gather load from L-space by per-lane index. -/
  | gldLoc (h : Hdr) (m : GatMod)
  /-- GST_GLB (R218). Scatter store to global memory by per-lane index. -/
  | gstGlb (h : Hdr) (m : GatMod)
  /-- GST_LOC (R218). Scatter store to L-space by per-lane index. -/
  | gstLoc (h : Hdr) (m : GatMod)
  /-- ATOM_GLB (R219). Atomic read-modify-write on global memory returning the old value. -/
  | atomGlb (h : Hdr) (m : MemMod)
  /-- ATOM_LOC (R219). Atomic read-modify-write on L-space returning the old value. -/
  | atomLoc (h : Hdr) (m : MemMod)
  /-- RED_GLB (R219). Atomic reduction on global memory without a result. -/
  | redGlb (h : Hdr) (m : MemMod)
  /-- RED_LOC (R219). Atomic reduction on L-space without a result. -/
  | redLoc (h : Hdr) (m : MemMod)
  /-- LR (R220). Load and set the lane's reservation. -/
  | lr (h : Hdr) (m : MemMod)
  /-- SC (R220). Store only if the reservation holds, and write a status. -/
  | sc (h : Hdr) (m : MemMod)
  /-- MXLD_GLB (R221). Load MX units with their scale words from global memory. -/
  | mxldGlb (h : Hdr) (m : MemMod)
  /-- MXST_GLB (R221). Store MX units with their scale words to global memory. -/
  | mxstGlb (h : Hdr) (m : MemMod)
  /-- MXLD_LOC (R221). Load MX units with their scale words from L-space. -/
  | mxldLoc (h : Hdr) (m : MemMod)
  /-- MXST_LOC (R221). Store MX units with their scale words to L-space. -/
  | mxstLoc (h : Hdr) (m : MemMod)
  /-- PROBE (R222). Write a predicate telling whether the address's page is resident and readable. -/
  | probe (h : Hdr) (m : MemMod)
  /-- PGIN (R223). Post a population request for a non-resident page. -/
  | pgin (h : Hdr) (m : MemMod)
  /-- PFCH (R224). Prefetch a line into L1 or the cluster cache as a hint. -/
  | pfch (h : Hdr) (m : MemMod)
  /-- WBINV (R225). Write back and invalidate a line to the visibility point of a scope. -/
  | wbinv (h : Hdr) (m : MemMod)
  /-- BT (R231). Queue a block transfer counting into a transaction barrier. -/
  | bt (h : Hdr) (m : BtMod)
  /-- BTG (R237). Queue an AES-256-GCM decrypting block transfer. -/
  | btg (h : Hdr) (m : BtMod)
  /-- TILE (R244). Bind a tile-table entry to a descriptor and barrier and set it FILLING. -/
  | tile (h : Hdr)
  /-- TILEQ (R245). Read a tile-table entry's state, fill phase and barrier offset. -/
  | tileq (h : Hdr)
  /-- OBJDCL (R249). Declare a coherence object over a page-aligned range. -/
  | objdcl (h : Hdr) (slot : BitVec 3)
  /-- OBJREL (R250). Release a coherence object. -/
  | objrel (h : Hdr)
  /-- MMA_F16 (R153). Queue a BF16 or FP16 matrix multiply-accumulate command. -/
  | mmaF16 (h : Hdr) (m : MmaMod)
  /-- MMA_F8 (R153). Queue an unscaled FP8 matrix multiply-accumulate command. -/
  | mmaF8 (h : Hdr) (m : MmaMod)
  /-- MMA_I8 (R153). Queue an 8-bit integer matrix multiply-accumulate command. -/
  | mmaI8 (h : Hdr) (m : MmaMod)
  /-- MMA_N4 (R153). Queue an n4 matrix multiply-accumulate command. -/
  | mmaN4 (h : Hdr) (m : MmaMod)
  /-- MMA_MX8 (R153). Queue a scaled FP8 matrix multiply-accumulate command. -/
  | mmaMx8 (h : Hdr) (m : MmaMod)
  /-- MZERO (R154). Queue a command that zeroes a Z region. -/
  | mzero (h : Hdr)
  /-- MRDY (R155). Place a marker ordering earlier buffer stores before later matrix commands. -/
  | mrdy (h : Hdr)
  /-- MBATCH (R156). Close the open batch and return its number. -/
  | mbatch (h : Hdr)
  /-- MWAIT (R157). Wait until a batch retires. -/
  | mwait (h : Hdr)
  /-- MQNT (R158). Queue a command that quantises Z accumulators into a tile. -/
  | mqnt (h : Hdr) (df : Fmt)
  /-- RMLD (R265). Remote load from peer windows in one pass per peer. -/
  | rmld (h : Hdr) (m : FabMod)
  /-- RMST (R265). Remote store to peer windows in one pass per peer. -/
  | rmst (h : Hdr) (m : FabMod)
  /-- RMAT (R265). Remote atomic at the peers' home slices. -/
  | rmat (h : Hdr) (m : FabMod)
  /-- XCH (R267). Put each lane's data to a peer window and write receipts. -/
  | xch (h : Hdr) (m : FabMod)
  /-- XEXP (R269). Put each lane's data to the least-loaded replica of its expert. -/
  | xexp (h : Hdr) (m : FabMod)
  /-- RFENCE (R272). Wait for earlier remote accesses of a domain and raise held failures. -/
  | rfence (h : Hdr) (dom : Dom)
  /-- SLOTQ (R273). Read the fabric schedule for a peer. -/
  | slotq (h : Hdr)
  /-- LAUNCH (R336). Enqueue a launch packet on a software queue. -/
  | launch (h : Hdr) (x : Word)
  /-- TRIG (R337). Count the group towards its grid's trigger as a release. -/
  | trig (h : Hdr)
  /-- YIELD (R338). Make the group unselectable until other ready groups issue or 64 cycles pass. -/
  | yield (h : Hdr)
  /-- SLEEP (R339). Make the group not ready until a wake time. -/
  | sleep (h : Hdr)
  /-- STEPB (R340). Open a Chain step with a label. -/
  | stepb (h : Hdr) (x : Word)
  /-- STEPE (R340). Close the Chain step and start the critical-path walk. -/
  | stepe (h : Hdr)
  /-- NOP (R57). Advance the PC and change nothing else. -/
  | nop (h : Hdr)
  /-- SVC (R374). Release, write a service-ring entry and park the group for the host. -/
  | svc (h : Hdr) (num : BitVec 12)
  /-- BRK (R377). Raise BRKP with a break code. -/
  | brk (h : Hdr) (code : BitVec 8)
  /-- TRET (R370). Return from a trap handler to the record's RESUME. -/
  | tret (h : Hdr)
  /-- SYSRD (R378). Read a system register. -/
  | sysrd (h : Hdr)
  /-- SYSWR (R358). Write a system register: clear FPF bits or write a privileged register. -/
  | syswr (h : Hdr)
  /-- PTLOAD (R359). Pass a protocol table to the validator for slot 4 to 7. -/
  | ptload (h : Hdr)
  /-- CTXCTL_CREATE (R343). Create a context from a descriptor image. -/
  | ctxctlCreate (h : Hdr)
  /-- CTXCTL_DESTROY (R344). Destroy a context, aborting its grids and freeing its state. -/
  | ctxctlDestroy (h : Hdr)
  /-- CTXCTL_TENANT (R342). Write a tenant descriptor. -/
  | ctxctlTenant (h : Hdr)
  /-- CTXCTL_QUEUE (R281). Write a software queue descriptor. -/
  | ctxctlQueue (h : Hdr)
  /-- CTXCTL_WINDOW (R360). Write a peer window table entry under tenant checks. -/
  | ctxctlWindow (h : Hdr)
  /-- CTXCTL_EXPASG (R268). Assign the expert table to a context and clear it. -/
  | ctxctlExpasg (h : Hdr)
  /-- CTXCTL_EXPWR (R268). Write an expert table entry and clear its loads. -/
  | ctxctlExpwr (h : Hdr)
  /-- CTXCTL_TLBINV (R347). Invalidate TLB entries, optionally writing back cached lines. -/
  | ctxctlTlbinv (h : Hdr)
  /-- CTXCTL_POPDONE (R349). Report a page populated, replaying its waiters. -/
  | ctxctlPopdone (h : Hdr)
  /-- UNALLOCATED_OPCODE (R41). A group fetches a word whose OP value is not allocated, or a reserved CTXCTL operation, and raises ILL. -/
  | unallocatedOpcode (w : Word)
  /-- LONG_LATENCY_WRITEBACK (R38). A long-latency instruction writes its destination, closing its lookahead window. -/
  | longLatencyWriteback (ag : AgentRef) (i : Nat)
  /-- STORE_ACKNOWLEDGEMENT (R177). A store becomes visible at its scope's point and its acknowledgement carries the VTIME. -/
  | storeAcknowledgement (core : Nat) (dom : Dom) (i : Nat)
  /-- BULK_COMBINING_TIMEOUT (R427). A BULK combining entry leaves its queue after waiting 1,024 issue cycles. -/
  | bulkCombiningTimeout (core : Nat) (i : Nat)
  /-- SIV_LINE_AGE_OUT (R427). An SIV line held 65,536 cycles is treated as a miss and written back if dirty. -/
  | sivLineAgeOut (cache : CacheRef) (sec : Nat)
  /-- BARRIER_ARRIVAL_APPLY (R331). A barrier arrival is recorded once its ordered accesses are acknowledged. -/
  | barrierArrivalApply (b : Nat) (g : Nat)
  /-- TBARR_APPLY (R333). A TBARR update is applied once its ordered accesses are acknowledged. -/
  | tbarrApply (b : Nat) (g : Nat)
  /-- TRIG_COUNT_APPLY (R337). A TRIG is counted towards TRIGCNT once its accesses are acknowledged. -/
  | trigCountApply (b : Nat) (g : Nat)
  /-- WAITV_REEVALUATION (R228). A waiting WAITV reloads its location on a write to the sector or every 1,024 cycles. -/
  | waitvReevaluation (ag : AgentRef)
  /-- BT_COMMAND_START (R232). The BTE starts a queued command when it is at its block's head and not held. -/
  | btCommandStart (core : Nat) (store : Bool) (i : Nat)
  /-- BT_ROW_WRITE (R234). The BTE checks and writes one row of a command and subtracts its sectors. -/
  | btRowWrite (core : Nat) (store : Bool) (i : Nat)
  /-- MATRIX_COMMAND_START (R136). The engine starts an accepted matrix command once its tiles are READY and its guard allows. -/
  | matrixCommandStart (core : Nat) (i : Nat)
  /-- MATRIX_COMMAND_COMPLETE (R138). A matrix command writes its results and releases its tiles from DRAINING. -/
  | matrixCommandComplete (core : Nat) (i : Nat)
  /-- SCRUPLE_THREAD_START (R302). An ejected lane begins running on its scruple thread after hand-over. -/
  | scrupleThreadStart (ag : AgentRef)
  /-- LANE_RETURN_COMPLETE (R305). A returned lane's registers are back, its EJ bit clears and the group may merge. -/
  | laneReturnComplete (ag : AgentRef)
  /-- LANE_RECALL_COMPLETE (R307). A recalled lane's state returns and its pending entry is placed. -/
  | laneRecallComplete (ag : AgentRef)
  /-- REJOIN_TIMEOUT (R305). The rejoin count reaches RJT and the entry's ejected lanes are recalled. -/
  | rejoinTimeout (b : Nat) (g : Nat)
  /-- FAIRNESS_ROTATION (R310). The path count reaches 4,096 and the group rotates to a sibling path. -/
  | fairnessRotation (b : Nat) (g : Nat)
  /-- HANG_WATCHDOG_EXPIRY (R318). A wait's count reaches HANGT and raises HANG. -/
  | hangWatchdogExpiry (ag : AgentRef)
  /-- STARVATION_TIMEOUT (R287). A ready group unissued for 256 cycles is taken first by its quarter. -/
  | starvationTimeout (b : Nat) (g : Nat)
  /-- CONTEXT_SWITCH (R288). The core switches its active context between its two shadow contexts. -/
  | contextSwitch (core : Nat)
  /-- SLEEP_WAKE (R339). VTIME reaches a sleeping group's wake time and it becomes ready. -/
  | sleepWake (b : Nat) (g : Nat)
  /-- YIELD_END (R338). A yielding group becomes selectable again. -/
  | yieldEnd (b : Nat) (g : Nat)
  /-- MAPPING_QUANTUM_END (R282). At each 100 µs quantum end the scheduler remaps hardware queue slots. -/
  | mappingQuantumEnd
  /-- QUEUE_SLOT_MAP (R282). An idle hardware slot is mapped at once to a queue with work. -/
  | queueSlotMap (slot : Nat)
  /-- GRID_LAUNCH (R283). A mapped slot checks and launches, or rejects, its queue's head packet. -/
  | gridLaunch (slot : Nat)
  /-- TIMESLICE_QUANTUM_END (R294). At a time-slice quantum end waiting blocks age and are placed, pre-empting as needed. -/
  | timesliceQuantumEnd
  /-- BLOCK_PLACE (R286). The scheduler places a waiting block on a core and starts it. -/
  | blockPlace (b : Nat) (cores : List Nat) (f : Nat)
  /-- PREEMPT (R291). The scheduler stops a block, drains its engines and saves its state. -/
  | preempt (b : Nat)
  /-- BLOCK_RESUME (R292). A pre-empted block is restored on a core and issues again. -/
  | blockResume (b : Nat) (cores : List Nat) (f : Nat)
  /-- GRANULE_STREAM_OPERATION (R290). The stream engine writes out, restores or scrubs one granule in 256 cycles. -/
  | granuleStreamOperation (core : Nat) (gr : Nat)
  /-- PARKED_GROUP_RELOAD (R293). A parked group that may resume reloads into a free group slot. -/
  | parkedGroupReload (b : Nat) (g : Nat)
  /-- HELD_TRAP_DELIVERY (R375). An ejected lane's held trap is delivered after recalling the lane. -/
  | heldTrapDelivery (b : Nat) (g : Nat)
  /-- ASYNC_TRAP_DELIVERY (R365). A block-transfer fault is delivered at the producer group's next boundary. -/
  | asyncTrapDelivery (b : Nat) (g : Nat)
  /-- SERVICE_RING_ENTRY_WRITE (R372). A waiting service entry is written when the ring has room and TAIL advances. -/
  | serviceRingEntryWrite (ctx : Nat)
  /-- POPULATION_REQUEST_WRITE (R349). A population request is written to the ring when it has room and vector 1 sent. -/
  | populationRequestWrite (tenant : Nat)
  /-- VALIDATOR_COMPLETE (R206). The firmware validator accepts or rejects a protocol table and PTLOAD resumes. -/
  | validatorComplete
  /-- CHAIN_WALK_COMPLETE (R396). The Chain walk writes the step's critical-path report. -/
  | chainWalkComplete (ctx : Nat)
  /-- PC_SAMPLE (R392). Every 2^N cycles each quarter and scruple pool writes one PC sample. -/
  | pcSample (core : Nat)
  /-- SWEEPER_STEP (R350). The clock sweeper reads one frame-table entry, clearing A or queuing the frame. -/
  | sweeperStep
  /-- GETS (R204). A read request reaches the home protocol engine and its table entry is applied. -/
  | gets (home : HomeRef) (child : Requester) (sec : Nat)
  /-- GETX (R204). A write request without a copy reaches the home. -/
  | getx (home : HomeRef) (child : Requester) (sec : Nat)
  /-- UPG (R201). An upgrade request reaches the home and is classified UPG or UPGN. -/
  | upg (home : HomeRef) (child : Requester) (sec : Nat)
  /-- PUTS (R204). A clean eviction reaches the home. -/
  | puts (home : HomeRef) (child : Requester) (sec : Nat)
  /-- PUTX (R201). A dirty write-back reaches the home and is classified PUTX_O or PUTX_N. -/
  | putx (home : HomeRef) (child : Requester) (sec : Nat)
  /-- WT (R204). A write-through reaches the home. -/
  | wt (home : HomeRef) (child : Requester) (w : SecWrite)
  /-- ATOMH (R204). A dev or sys scope atomic is performed at the home. -/
  | atomh (home : HomeRef) (child : Requester) (op : HomeAtomic)
  /-- NTWB (R204). A non-tracked write-back reaches the home, invalidating tracked sharers. -/
  | ntwb (home : HomeRef) (child : Requester) (w : SecWrite)
  /-- INVALIDATION_ACK (R203). An acknowledgement of an invalidation or update reaches the home or requester. -/
  | invalidationAck (i : Nat)
  /-- DATA_S (R202). A cache receives data with read permission. -/
  | dataS (i : Nat)
  /-- DATA_SW (R202). A cache receives data with read permission and write-through. -/
  | dataSw (i : Nat)
  /-- DATA_E (R202). A cache receives data as owner with write permission. -/
  | dataE (i : Nat)
  /-- ACK (R202). A cache receives an acknowledgement of an upgrade or eviction. -/
  | ack (i : Nat)
  /-- WTACK (R202). A cache learns its write-through is complete. -/
  | wtack (i : Nat)
  /-- ATOMR (R202). A requester receives an atomic's old value and visibility time. -/
  | atomr (i : Nat)
  /-- INV (R202). A cache drops sectors and acknowledges. -/
  | inv (i : Nat)
  /-- UPDATE (R202). A cache applies updated bytes and acknowledges to the writer. -/
  | update (i : Nat)
  /-- FWD_GETS (R202). An owner sends data to a reader and the home and keeps a read copy. -/
  | fwdGets (i : Nat)
  /-- FWD_GETX (R202). An owner sends data to a writer and drops its sectors. -/
  | fwdGetx (i : Nat)
  /-- SLOT_START (R259). A new rotor slot begins and link credit counts reset. -/
  | slotStart
  /-- FIBRE_STOP (R258). A fibre stops sending before the guard and unacknowledged flits return to their queues. -/
  | fibreStop (f : Nat)
  /-- FIBRE_FLIT_SEND (R255). A fibre chooses and sends its next flit. -/
  | fibreFlitSend (f : Nat)
  /-- REMOTE_ANSWER_TIMEOUT (R260). A request unanswered after 8 rotations fails with status 0x06. -/
  | remoteAnswerTimeout (i : Nat)
  /-- INTERIM_ANSWER_REPEAT (R263). A target repeats the interim 0x09 every 8 rotations for a non-resident page. -/
  | interimAnswerRepeat (i : Nat)
  /-- REMOTE_PASS_SEND (R265). A stalled remote pass is sent once send storage has room. -/
  | remotePassSend (ag : AgentRef)
  /-- SDOOR (R373). The host's service doorbell resumes or aborts the parked group per ACTION. -/
  | sdoor (fn : HostFn) (i : Nat)
  /-- QDOOR (R281). The host's queue doorbell advances a queue's TAIL. -/
  | qdoor (fn : HostFn) (q : Nat) (tail : Nat)
  /-- AGEING_REFRESH (R383). The ageing indicators are refreshed once a second. -/
  | ageingRefresh (die : Nat) (m : Ageing)
  /-- FABRIC_SCHEDULE_LOAD (R252). Firmware loads the fabric schedule while the port is quiesced. -/
  | fabricScheduleLoad (img : FabricImage)
  /-- LOAD_REQUEST (R263). A remote load item reaches its target and is checked and performed. -/
  | loadRequest (f : Nat) (fl : Flit)
  /-- FLIT_STORE (R263). A remote store item reaches its target. -/
  | flitStore (f : Nat) (fl : Flit)
  /-- FLIT_ATOMIC (R263). A remote atomic item reaches its target. -/
  | flitAtomic (f : Nat) (fl : Flit)
  /-- FLIT_PUT (R267). An XCH or XEXP put reaches its target. -/
  | flitPut (f : Nat) (fl : Flit)
  /-- BLOCK_TRANSFER_READ_REQUEST (R263). A peer block-transfer read request reaches its target. -/
  | blockTransferReadRequest (f : Nat) (fl : Flit)
  /-- BLOCK_TRANSFER_WRITE (R263). A peer block-transfer write reaches its target. -/
  | blockTransferWrite (f : Nat) (fl : Flit)
  /-- DATA_RESPONSE (R260). A remote data response reaches the requester. -/
  | dataResponse (f : Nat) (fl : Flit)
  /-- END_TO_END_ACKNOWLEDGEMENT (R260). A target's end-to-end acknowledgement frees the send record. -/
  | endToEndAcknowledgement (f : Nat) (fl : Flit)
  /-- ERROR_RESPONSE (R263). A target's error or interim status reaches the requester. -/
  | errorResponse (f : Nat) (fl : Flit)
  /-- PULL (R261). A target's pull for a trimmed payload reaches the source. -/
  | pull (f : Nat) (fl : Flit)
  /-- RESEND (R261). A resent payload reaches its target. -/
  | resend (f : Nat) (fl : Flit)
  /-- IDLE_FLIT (R255). An idle flit arrives carrying credit counts. -/
  | idleFlit (f : Nat) (fl : Flit)
  /-- HOST_POSTED_WRITE (R190). A host write to device memory takes its place as a sys-scope release. -/
  | hostPostedWrite (fn : Nat) (pa : Nat) (bytes : List Byte) (ide : Bool)
  /-- PRI_RESPONSE (R353). A PRI response arrives and the device's population request is written. -/
  | priResponse (i : Nat)
  /-- ATS_INVALIDATION (R353). A host invalidation request completes after accesses using it are acknowledged. -/
  | atsInvalidation (fn : Nat) (hostPage : Nat)
  /-- TDISP_LEAVE_RUN (R354). A tenant's interface leaves RUN and its confidential contexts are destroyed. -/
  | tdispLeaveRun (t : Nat)
  /-- KEY_INSTALL (R356). A key owner installs a key in a slot over SPDM, resetting its counters. -/
  | keyInstall (slot : Nat) (key : BitVec 256) (t : Nat)
  /-- SPDM_MEASUREMENT (R362). The device answers an SPDM measurement request with a signed answer. -/
  | spdmMeasurement (fn : Nat)
  /-- UNCORRECTABLE_ERROR (R379). An uncorrectable error is replayed, or raises SOFT and zeroes the lost state. -/
  | uncorrectableError (site : ErrorSite)
  /-- CORRECTABLE_ERROR (R383). SECDED corrects an SRAM error and it is counted and logged. -/
  | correctableError (die : Nat) (ctx : Nat)
  /-- MEMORY_POISON (R381). An uncorrectable memory or dirty-sector error poisons the sector at its home. -/
  | memoryPoison (sec : Nat)
  /-- COLD_RESET (R421). VAUX applied, VBULK loss or power cycling resets all state and boots from stage 0. -/
  | coldReset (vaux : Bool)
  /-- WARM_RESET (R421). A management command or PF reset resets state and boots from stage 2. -/
  | warmReset
  /-- VF_FUNCTION_LEVEL_RESET (R421). A VF reset destroys the tenant's contexts and disables its queues. -/
  | vfFunctionLevelReset (t : Nat)
  /-- BOOT_STAGE_COMPLETE (R422). A boot stage finishes or fails and BOOTST advances. -/
  | bootStageComplete (r : BootResult)
  /-- LINK_TRAIN_RETRY (R422). A failed host link retrains every second. -/
  | linkTrainRetry (width : Nat) (rate : Nat)
  /-- PCIE_LINK_DOWN (R421). The host link goes down and host accesses wait. -/
  | pcieLinkDown
  /-- PCIE_LINK_UP (R421). The host link returns and waiting host accesses proceed. -/
  | pcieLinkUp
  /-- VBULK_LOSS (R414). VBULK below 44 V for 1 ms stops the module and records FAIL 8. -/
  | vbulkLoss
  /-- THERMAL_THROTTLE (R416). A die junction at 105 °C causes issue withholding. -/
  | thermalThrottle (die : Nat)
  /-- THERMAL_TRIP (R416). A die junction at 115 °C removes power and records FAIL 9. -/
  | thermalTrip (die : Nat)
  /-- PLIM_WRITE (R415). A management write sets the module power limit. -/
  | plimWrite (watts : Nat)
  /-- SWCTL_WRITE (R361). A write enables the sweeper and sets its watermarks, or is ignored. -/
  | swctlWrite (x : Word)
  /-- FIRMWARE_IMAGE_DELIVERY (R424). A firmware image is written to the inactive flash copy. -/
  | firmwareImageDelivery (bytes : List Byte)
  /-- REGISTER_WRITE (R252). A write to a register without a row of its own applies its field rules. -/
  | registerWrite (r : RegWriteTarget)
  /-- ATTACH (R386). A debugger takes hold of a context. -/
  | attach (ctx : Nat) (allstop : Bool)
  /-- DETACH (R386). A debugger releases a context, clearing breakpoints and resuming groups. -/
  | detach (ctx : Nat)
  /-- HALT (R386). Halt target groups at their next instruction boundary. -/
  | halt (ctx : Nat) (t : DbgTarget)
  /-- RESUME (R386). Resume halted targets. -/
  | resume (ctx : Nat) (t : DbgTarget)
  /-- STEP (R389). Run a halted group by INSN, OVER or OUT and halt it again. -/
  | step (ctx : Nat) (b : Nat) (g : Nat) (k : StepKind)
  /-- FOCUS (R390). Confine a halted group's execution to one lane. -/
  | focus (ctx : Nat) (b : Nat) (g : Nat) (l : Nat)
  /-- UNFOCUS (R390). End lane focus, merging paths where their PCs agree. -/
  | unfocus (ctx : Nat) (b : Nat) (g : Nat)
  /-- CATCHUP (R390). Run the deferred lanes up to the focused lane's PC. -/
  | catchup (ctx : Nat) (b : Nat) (g : Nat)
  /-- READ (R386). Read registers, paths or memory of a halted group. -/
  | read (ctx : Nat) (b : Nat) (g : Nat) (it : DbgItem)
  /-- WRITE (R386). Write registers, paths or memory of a halted group. -/
  | write (ctx : Nat) (b : Nat) (g : Nat) (it : DbgItem) (x : List Byte)
  /-- SETBP (R387). Write a breakpoint register. -/
  | setbp (ctx : Nat) (n : Nat) (x : Word)
  /-- SETWP (R387). Write a watchpoint register. -/
  | setwp (ctx : Nat) (n : Nat) (w1 : Word) (w0 : Word)
  /-- TDISP_INTERFACE_RUN (R354). A tenant's TDISP device interface enters the RUN state, permitting confidential contexts and refusing the tenant's host traffic outside its IDE stream. -/
  | tdispInterfaceRun (t : Nat)
  /-- THERMAL_THROTTLE_END (R416). A die's junction temperature falls below 105 °C and issue withholding for throttling stops. -/
  | thermalThrottleEnd (die : Nat)
  /-- UCIE_RETRY (R210). A die-to-die UCIe link detects a CRC error and replays flits in their original order on each network. -/
  | ucieRetry (link : Nat)
  /-- CONFIGURATION_REQUEST (R422). A host configuration request reaches a function and receives Request Retry Status until stage 8 ends, and is served afterwards. -/
  | configurationRequest (fn : Nat)
deriving DecidableEq, Repr

end Sys2Proof
end

