-- ==== Sys2Proof/Machine/Legal.lean ====
section
/-! DEFINITION. The encoding checks of spec/02_encoding.md (R33 to R57) and of
each class. A word whose instruction fails a check raises ILL (R12, R42). Checks that need the launch's
allocation or a register's value are made by the meanings. -/

namespace Sys2Proof

/-! ### Common checks -/

/-- Header checks: PN needs a predicate (R36), LA needs a long-latency instruction (R38), U needs the form (R37). -/
def Hdr.ok (h : Hdr) (long lane group : Bool) : Bool :=
  (h.ps != 7 || !h.pn) && (long || h.la == 0) && (if h.u then group else lane)

/-- A register field of the instruction's form: v0 to v255, or k0 to k63 in the group-wide form (R35). -/
def regOk (u : Bool) (n : BitVec 8) : Bool := !u || n.toNat < 64

/-- A register field that holds a 64-bit value: even in the lane form (R21, R95). -/
def pairOk (u : Bool) (n : BitVec 8) : Bool := if u then n.toNat < 64 else n.toNat % 2 == 0

/-- A register field of the form, 64 bits wide when `wide`. -/
def fieldOk (u wide : Bool) (n : BitVec 8) : Bool := if wide then pairOk u n else regOk u n

/-- A field that names a k register in every form (R35). -/
def kOk (n : BitVec 8) : Bool := n.toNat < 64

/-- A field that names p0 to p6 or q0 to q6 (R35). -/
def predOk (n : BitVec 8) : Bool := n.toNat < 7

/-- Data register of a memory access of the given size (R21, R49, R216). -/
def sizedOk (u : Bool) (s : Size) (n : BitVec 8) : Bool :=
  if u then (match s with | .b16 => n.toNat < 64 && n.toNat % 2 == 0 | _ => n.toNat < 64)
  else match s with | .b8 => n.toNat % 2 == 0 | .b16 => n.toNat % 4 == 0 | _ => true

/-! ### Integer and floating-point classes (R43, R44, R96, R100, R108, R109) -/

/-- Packed integer types. -/
def IntTy.packed : IntTy → Bool
  | .i16x2 | .ui16x2 => true
  | _ => false

/-- 64-bit integer types. -/
def IntTy.wide : IntTy → Bool
  | .i64 | .ui64 => true
  | _ => false

/-- Signed integer types. -/
def IntTy.signed : IntTy → Bool
  | .i32 | .i64 | .i16x2 => true
  | _ => false

/-- Does a group-wide result of the type copy its sign bit into kD[63:32]? Only a signed integer scalar does (R95). -/
def IntTy.copiesSign (ty : IntTy) : Bool := ty.signed && !ty.packed

/-- Element width of an integer type. -/
def IntTy.width : IntTy → Nat
  | .i32 | .ui32 => 32
  | .i64 | .ui64 => 64
  | .i16x2 | .ui16x2 => 16

/-- Packed floating-point types. -/
def FTy.packed : FTy → Bool
  | .f16x2 | .bf16x2 => true
  | _ => false

/-- Scalar 16-bit floating-point types. -/
def FTy.half : FTy → Bool
  | .f16 | .bf16 => true
  | _ => false

/-- Swizzle values a type accepts (R43). -/
def swzOk (packed half : Bool) (s : BitVec 2) : Bool := packed || (if half then s.toNat < 2 else s == 0)

/-- The C field is an immediate. -/
def CKind.imm : CKind → Bool
  | .immZ | .immS => true
  | _ => false

/-- BK and CK are 0 where the group-wide form requires it (R43). -/
def kindsOk (u bk : Bool) (ck : CKind) : Bool := !u || (!bk && ck != .kreg)

/-- One source: B, C, BK and CK unused, SWB 0 (R96). -/
def oneSrc (h : Hdr) (bk : Bool) (ck : CKind) (swb : BitVec 2) : Bool :=
  h.b == 0 && h.c == 0 && !bk && ck == .vreg && swb == 0

/-- Two sources: the second from B under BK, or from C under CK (R96). -/
def twoSrc (h : Hdr) (wide bk : Bool) (ck : CKind) (swb : BitVec 2) : Bool :=
  kindsOk h.u bk ck &&
  (match ck with
   | .vreg => h.c == 0 && (if bk then kOk h.b else fieldOk h.u wide h.b)
   | .kreg => h.b == 0 && !bk && kOk h.c
   | .immZ | .immS => h.b == 0 && !bk && swb == 0)

/-- Three sources: the second from B under BK, the third from C under CK (R96). -/
def threeSrc (h : Hdr) (wide bk : Bool) (ck : CKind) : Bool :=
  kindsOk h.u bk ck && (if bk then kOk h.b else fieldOk h.u wide h.b) &&
  (match ck with
   | .vreg => fieldOk h.u wide h.c
   | .kreg => kOk h.c
   | .immZ | .immS => true)

/-- Integer instruction of two sources with a register destination. -/
def intTwo (h : Hdr) (m : IntMod) (long sat : Bool) (tys : List IntTy) : Bool :=
  h.ok long true true && tys.contains m.ty && (sat || !m.sat) && fieldOk h.u m.ty.wide h.d && fieldOk h.u m.ty.wide h.a &&
  swzOk m.ty.packed false m.swa && swzOk m.ty.packed false m.swb && twoSrc h m.ty.wide m.bk m.ck m.swb

/-- Integer instruction of one source. -/
def intOne (h : Hdr) (m : IntMod) (sat : Bool) (tys : List IntTy) : Bool :=
  h.ok false true true && tys.contains m.ty && (sat || !m.sat) && fieldOk h.u m.ty.wide h.d && fieldOk h.u m.ty.wide h.a &&
  swzOk m.ty.packed false m.swa && oneSrc h m.bk m.ck m.swb

/-- Integer instruction of three sources. -/
def intThree (h : Hdr) (m : IntMod) (sat : Bool) (tys : List IntTy) : Bool :=
  h.ok false true true && tys.contains m.ty && (sat || !m.sat) && fieldOk h.u m.ty.wide h.d && fieldOk h.u m.ty.wide h.a &&
  swzOk m.ty.packed false m.swa && swzOk m.ty.packed false m.swb && threeSrc h m.ty.wide m.bk m.ck

/-- TY 1 to 6. -/
def tyAll : List IntTy := [.i32, .ui32, .i64, .ui64, .i16x2, .ui16x2]
/-- TY 1 to 4. -/
def tyScalar : List IntTy := [.i32, .ui32, .i64, .ui64]

/-- CMP: a predicate destination and scalar types (R105). -/
def cmpOk (h : Hdr) (m : IntMod) : Bool :=
  h.ok false true true && tyScalar.contains m.ty && !m.sat && predOk h.d && fieldOk h.u m.ty.wide h.a &&
  m.swa == 0 && m.swb == 0 && twoSrc h m.ty.wide m.bk m.ck m.swb

/-- SEL: C names a predicate and CK is 0 (R105). -/
def selOk (h : Hdr) (m : IntMod) : Bool :=
  h.ok false true true && !m.sat && fieldOk h.u m.ty.wide h.d && fieldOk h.u m.ty.wide h.a &&
  swzOk m.ty.packed false m.swa && swzOk m.ty.packed false m.swb && m.ck == .vreg && predOk h.c && (!h.u || !m.bk) &&
  (if m.bk then kOk h.b else fieldOk h.u m.ty.wide h.b)

/-- LEA: CK is 2 and the shift at most 7; b is one 32-bit register (R106). -/
def leaOk (h : Hdr) (m : IntMod) : Bool :=
  h.ok false true true && tyScalar.contains m.ty && !m.sat && fieldOk h.u m.ty.wide h.d && fieldOk h.u m.ty.wide h.a &&
  m.swa == 0 && m.swb == 0 && m.ck == .immZ && h.c.toNat ≤ 7 && (!h.u || !m.bk) && (if m.bk then kOk h.b else regOk h.u h.b)

/-- BLUT (R44, R104). -/
def blutOk (h : Hdr) : Bool := h.ok false true true && regOk h.u h.d && regOk h.u h.a && regOk h.u h.b && regOk h.u h.c

/-- MOVI (R44, R107). -/
def moviOk (h : Hdr) (w : Bool) : Bool :=
  h.ok false true true && h.a == 0 && h.b == 0 && h.c == 0 && (!h.u || !w) && fieldOk h.u w h.d

/-- f64 uses register pairs. -/
def FTy.wide : FTy → Bool
  | .f64 => true
  | _ => false

/-- RM 0 where the instruction takes no mode; SR is never a mode of this class (R43, R108). -/
def rmOk (mode : Bool) (rm : Rm) : Bool := if mode then rm != .sr else rm == .rne

/-- Floating-point instruction of two sources. -/
def fpTwo (h : Hdr) (m : FpMod) (long mode sat : Bool) : Bool :=
  h.ok long true true && (sat || !m.sat) && rmOk mode m.rm && fieldOk h.u m.ty.wide h.d && fieldOk h.u m.ty.wide h.a &&
  swzOk m.ty.packed m.ty.half m.swa && swzOk m.ty.packed m.ty.half m.swb && twoSrc h m.ty.wide m.bk m.ck m.swb

/-- Floating-point instruction of one source; `anyD` frees the destination's parity (FCLASS, R115). -/
def fpOne (h : Hdr) (m : FpMod) (long mode sat anyD : Bool) : Bool :=
  h.ok long true true && (sat || !m.sat) && rmOk mode m.rm && fieldOk h.u (m.ty.wide && !anyD) h.d && fieldOk h.u m.ty.wide h.a &&
  swzOk m.ty.packed m.ty.half m.swa && !m.nb && oneSrc h m.bk m.ck m.swb

/-- FFMA. -/
def ffmaOk (h : Hdr) (m : FpMod) : Bool :=
  h.ok false true true && rmOk true m.rm && fieldOk h.u m.ty.wide h.d && fieldOk h.u m.ty.wide h.a &&
  swzOk m.ty.packed m.ty.half m.swa && swzOk m.ty.packed m.ty.half m.swb && threeSrc h m.ty.wide m.bk m.ck

/-- FCMP and FSET: MOD[3:0] holds CC, so NA, NB and RM are absent (R43, R112). -/
def fccOk (h : Hdr) (m : FpMod) (pred : Bool) : Bool :=
  h.ok false true true && !m.sat && !m.na && !m.nb && m.rm == .rne && (if pred then predOk h.d && !m.ty.packed else fieldOk h.u m.ty.wide h.d) &&
  fieldOk h.u m.ty.wide h.a && swzOk m.ty.packed m.ty.half m.swa && swzOk m.ty.packed m.ty.half m.swb &&
  twoSrc h m.ty.wide m.bk m.ck m.swb

/-- FSCALE: the scale is an integer, one register, swizzled only for packed types (R115). -/
def fscaleOk (h : Hdr) (m : FpMod) : Bool :=
  h.ok false true true && rmOk true m.rm && !m.nb && fieldOk h.u m.ty.wide h.d && fieldOk h.u m.ty.wide h.a &&
  swzOk m.ty.packed m.ty.half m.swa && swzOk m.ty.packed false m.swb && twoSrc h false m.bk m.ck m.swb

/-- FDOT2 and FDOT4: C is a register of the form (R116). -/
def fdotOk (h : Hdr) (m : FpMod) (two : Bool) : Bool :=
  h.ok false true true && m.rm == .rne && m.ck == .vreg && (!h.u || !m.bk) && regOk h.u h.d && regOk h.u h.a && regOk h.u h.c &&
  (if m.bk then kOk h.b else regOk h.u h.b) &&
  (if two then m.ty.packed else m.ty == .f32 && m.swa == 0 && m.swb == 0)

/-! ### Conversion class (R45, R79, R81 to R84, R117 to R124) -/

/-- Width in bits of a format's element. -/
def Fmt.width : Fmt → Nat
  | .f64 | .i64 | .ui64 => 64
  | .f32 | .i32 | .ui32 => 32
  | .f16 | .bf16 | .i16 | .ui16 => 16
  | .e4m3 | .e5m2 | .i8 | .ui8 => 8
  | .n4 => 4

/-- Floating-point formats. -/
def Fmt.isFloat : Fmt → Bool
  | .f32 | .f64 | .f16 | .bf16 | .e4m3 | .e5m2 => true
  | _ => false

/-- Integer formats. -/
def Fmt.isInt : Fmt → Bool
  | .i8 | .ui8 | .i16 | .ui16 | .i32 | .ui32 | .i64 | .ui64 => true
  | _ => false

/-- Signed integer formats. -/
def Fmt.signed : Fmt → Bool
  | .i8 | .i16 | .i32 | .i64 => true
  | _ => false

/-- The conversion classes of R81. -/
inductive CvClass where
  | widen | narrow | same
deriving DecidableEq, Repr

/-- The table of R81: source, then destination. -/
def cvClass (sf df : Fmt) : CvClass :=
  if sf == df then .same
  else match sf, df with
    | .f32, .f64 | .f16, .f64 | .f16, .f32 | .bf16, .f64 | .bf16, .f32 => .widen
    | .e4m3, .e5m2 | .e5m2, .e4m3 => .narrow
    | .e4m3, _ | .e5m2, _ => .widen
    | _, _ => .narrow

/-- Rounding modes a conversion accepts (R79, R81 to R83): SR only when a floating-point source narrows in the lane
form, and only RNE between integers. -/
def cvRmOk (u : Bool) (df sf : Fmt) (rm : Rm) : Bool :=
  (rm != .sr || (!u && sf.isFloat && df.isFloat && cvClass sf df == .narrow)) && (!(sf.isInt && df.isInt) || rm == .rne)

/-- CVT (R117). -/
def cvtOk (h : Hdr) (m : CvMod) : Bool :=
  h.ok false true true && m.df != .n4 && m.sf != .n4 && cvRmOk h.u m.df m.sf m.rm && m.bs == 0 && !m.auto && h.b == 0 && h.c == 0 &&
  fieldOk h.u (m.df.width == 64) h.d && fieldOk h.u (m.sf.width == 64) h.a

/-- PACK (R118). -/
def packOk (h : Hdr) (m : CvMod) : Bool :=
  h.ok false true true && m.df != .n4 && m.sf != .n4 && cvRmOk h.u m.df m.sf m.rm && !m.auto && h.c == 0 &&
  regOk h.u h.d && regOk h.u h.a && regOk h.u h.b &&
  ((m.sf.width == 32 && m.df.width == 16 && m.bs == 0) || (m.sf.width == 16 && m.df.width == 8 && m.bs == 0) ||
   (m.sf.width == 32 && m.df.width == 8 && m.bs.toNat < 2))

/-- The pairs UNPACK accepts (R119). -/
def unpackPair (df sf : Fmt) : Bool :=
  (sf.width == 8 || sf.width == 16) && df.width > sf.width &&
  ((sf.isFloat && df.isFloat && cvClass sf df == .widen) || (sf.isInt && df.isInt && sf.signed == df.signed) ||
   ((sf == .i8 || sf == .ui8) && df.isFloat) || ((sf == .i16 || sf == .ui16) && (df == .f32 || df == .f64)))

/-- UNPACK (R119). -/
def unpackOk (h : Hdr) (m : CvMod) : Bool :=
  h.ok false true true && unpackPair m.df m.sf && m.rm == .rne && !m.sat && !m.auto && h.b == 0 && h.c == 0 &&
  (if m.sf.width == 8 && m.df.width ≥ 32 then true else m.bs.toNat < 2) &&
  fieldOk h.u (m.df.width == 64) h.d && regOk h.u h.a

/-- AMAX (R120). -/
def amaxOk (h : Hdr) (m : CvMod) : Bool :=
  h.ok false true false && m.df == .f32 && (m.sf == .f32 || m.sf == .f16 || m.sf == .bf16) && m.rm == .rne && !m.sat && m.bs == 0 && !m.auto &&
  h.b == 0 && h.c == 0

/-- Block-scaled element formats. -/
def Fmt.blocked : Fmt → Bool
  | .e4m3 | .e5m2 | .n4 => true
  | _ => false

/-- QSCALE (R42, R45, R87, R121): C[1:0] is used with n4 and without AUTO alone. -/
def qscaleOk (h : Hdr) (m : CvMod) : Bool :=
  h.ok false true false && m.df.blocked && (m.sf == .f32 || m.sf == .f64 || m.sf == .f16 || m.sf == .bf16) && m.rm == .rne && !m.sat && m.bs == 0 &&
  h.b == 0 && h.c.toNat < 4 && (m.df == .n4 || !m.auto) && ((m.df == .n4 && !m.auto) || h.c == 0) && (m.sf != .f64 || h.a.toNat % 2 == 0)

/-- Wide formats of QUANT and DEQ. -/
def Fmt.wideQ : Fmt → Bool
  | .f32 | .f16 | .bf16 => true
  | _ => false

/-- Consecutive wide registers of QUANT and DEQ: m ÷ e (R122). -/
def quantRegs (narrow wide : Fmt) : Nat := (if narrow == .n4 then 8 else 4) / (if wide == .f32 then 1 else 2)

/-- QUANT (R122). -/
def quantOk (h : Hdr) (m : CvMod) : Bool :=
  h.ok false true false && m.df.blocked && m.sf.wideQ && !m.auto && h.c == 0 && h.a.toNat % quantRegs m.df m.sf == 0

/-- DEQ (R122). -/
def deqOk (h : Hdr) (m : CvMod) : Bool :=
  h.ok false true false && m.sf.blocked && m.df.wideQ && m.rm == .rne && !m.sat && !m.auto && h.c == 0 && h.d.toNat % quantRegs m.sf m.df == 0

/-- SROUND (R123). -/
def sroundOk (h : Hdr) : Bool := h.ok false true false && h.d == 0 && h.b == 0 && h.c == 0

/-- PRMT (R45, R124). -/
def prmtOk (h : Hdr) (ck : CKind) : Bool :=
  h.ok false true true && !ck.imm && kindsOk h.u false ck && regOk h.u h.d && regOk h.u h.a && regOk h.u h.b &&
  (if ck == .kreg then kOk h.c else regOk h.u h.c)

/-! ### Exchange class (R46, R125, R128) -/

/-- 64-bit exchange types. -/
def XTy.wide : XTy → Bool
  | .b64 | .i64 | .ui64 | .f64 => true
  | _ => false

/-- B of an exchange instruction: a lane or k register, or unused. -/
def xB (h : Hdr) (m : XMod) (used : Bool) : Bool := if used then !m.bk || kOk h.b else h.b == 0 && !m.bk

/-- SHFL. REV does not read b, so B must be zero there. -/
def shflOk (h : Hdr) (m : XMod) : Bool :=
  h.ok true true false && m.opk.toNat ≤ 5 && xB h m (m.opk != 5) && m.seg.toNat ≤ 6 && !m.inc && h.c == 0 &&
  fieldOk false m.ty.wide h.d && fieldOk false m.ty.wide h.a

/-- QXCH. -/
def qxchOk (h : Hdr) (m : XMod) : Bool :=
  h.ok false true false && m.opk.toNat ≤ 2 && xB h m false && m.seg == 6 && !m.inc && h.c == 0 &&
  fieldOk false m.ty.wide h.d && fieldOk false m.ty.wide h.a

/-- QBCAST. -/
def qbcastOk (h : Hdr) (m : XMod) : Bool :=
  h.ok false true false && m.opk == 0 && xB h m true && m.seg == 6 && !m.inc && h.c == 0 &&
  fieldOk false m.ty.wide h.d && fieldOk false m.ty.wide h.a

/-- VOTE. -/
def voteOk (h : Hdr) (m : XMod) : Bool :=
  h.ok false true false && m.opk.toNat ≤ 5 && m.ty == .b32 && xB h m false && m.seg == 6 && !m.inc && h.c == 0 && h.a.toNat < 8 &&
  (if m.opk.toNat < 3 then predOk h.d else kOk h.d)

/-- MATCH. -/
def matchOk (h : Hdr) (m : XMod) : Bool :=
  h.ok true true false && m.opk.toNat ≤ 3 && xB h m false && m.seg.toNat ≤ 6 && !m.inc && h.c == 0 &&
  fieldOk false (m.opk == 0) h.d && fieldOk false m.ty.wide h.a

/-- OPK and TY of REDUX and SCAN: bitwise operations take b32 or b64 and the others do not. -/
def redOpOk (m : XMod) : Bool :=
  m.opk.toNat ≤ 5 && (m.ty == .b32 || m.ty == .b64) == (3 ≤ m.opk.toNat)

/-- REDUX. -/
def reduxOk (h : Hdr) (m : XMod) : Bool :=
  h.ok true true false && redOpOk m && xB h m false && m.seg == 6 && !m.inc && h.c == 0 && kOk h.d && fieldOk false m.ty.wide h.a

/-- SCAN. -/
def scanOk (h : Hdr) (m : XMod) : Bool :=
  h.ok true true false && redOpOk m && xB h m false && m.seg.toNat ≤ 6 && h.c == 0 &&
  fieldOk false m.ty.wide h.d && fieldOk false m.ty.wide h.a

/-! ### Control and synchronisation (R47, R48, R320, R325) -/

/-- Every operand field zero. -/
def noOps (h : Hdr) : Bool := h.d == 0 && h.a == 0 && h.b == 0 && h.c == 0

/-- BRA: offset in C and MOD. -/
def braOk (h : Hdr) : Bool := h.ok false true true && h.d == 0 && h.a == 0 && h.b == 0
/-- BRA.far. -/
def braFarOk (h : Hdr) : Bool := h.ok false true true && noOps h
/-- BRX. -/
def brxOk (h : Hdr) : Bool := h.ok false true false
/-- JOIN is unconditional. -/
def joinOk (h : Hdr) : Bool := h.ok false true false && noOps h && h.ps == 7
/-- CALL. -/
def callOk (h : Hdr) : Bool := h.ok false false true && kOk h.d && h.a == 0 && h.b == 0
/-- CALL.far. -/
def callFarOk (h : Hdr) : Bool := h.ok false false true && kOk h.d && h.a == 0 && h.b == 0 && h.c == 0
/-- RET and JMPI. -/
def jmpiOk (h : Hdr) : Bool := h.ok false false true && h.d == 0 && kOk h.a && h.b == 0 && h.c == 0
/-- Group-wide instructions without operands. -/
def groupNoOps (h : Hdr) : Bool := h.ok false false true && noOps h

/-- BARA, BARW, BARS. -/
def barOk (h : Hdr) (m : BarMod) (arrives : Bool) : Bool :=
  h.ok false false true && h.d == 0 && h.a == 0 && h.c == 0 && (!m.cl || m.n.toNat < 4) &&
  (if m.cnt then arrives && kOk h.b else h.b == 0)

/-- TBINIT and TBEXP. -/
def tbABOk (h : Hdr) : Bool := h.ok false false true && h.d == 0 && kOk h.a && kOk h.b && h.c == 0
/-- TBARR. -/
def tbarrOk (h : Hdr) : Bool := h.ok false false true && h.d == 0 && kOk h.a && h.b == 0 && h.c != 0
/-- TBWAIT. -/
def tbwaitOk (h : Hdr) : Bool := h.ok false false true && h.d == 0 && kOk h.a && h.b == 0 && h.c.toNat < 16
/-- TBTEST. -/
def tbtestOk (h : Hdr) : Bool := h.ok false false true && predOk h.d && kOk h.a && h.b == 0 && h.c.toNat < 16

/-- ORD other than none needs REL (R49). -/
def ordOk (d : Dom) (o : Ord) : Bool := o == .none || d == .rel

/-- SIZE 2 or 3. -/
def size23 (s : Size) : Bool := s == .b4 || s == .b8

/-- WAITV (R48, R228). -/
def waitvOk (h : Hdr) (m : MemMod) : Bool :=
  h.ok false true true && h.d == 0 && kOk h.a && size23 m.size && m.ord == .none && m.rp == 7 && !m.na && h.c.toNat < 6 &&
  fieldOk h.u (m.size == .b8) h.b

/-- FENCE (R226). -/
def fenceOk (h : Hdr) (dom : Dom) (all : Bool) : Bool := h.ok false true true && noOps h && (!all || dom == .bulk)
/-- BRG (R227). -/
def brgOk (h : Hdr) (d1 d2 : Dom) : Bool := h.ok false true true && noOps h && d1 != d2
/-- GSET (R48). -/
def gsetOk (h : Hdr) : Bool := h.ok false false true && h.d.toNat < 8 && h.a.toNat < 8 && h.b == 0 && h.c == 0

/-! ### Memory class (R49 to R52, R212 to R225) -/

/-- Spaces of the memory opcodes. -/
inductive Space where
  | glb | loc | nbr | abuf | zbuf | wbuf
deriving DecidableEq, Repr

/-- Scopes a space accepts (R212). -/
def scopeOk (sp : Space) (sc : Scope) : Bool :=
  match sp with
  | .glb => true
  | .loc | .nbr => sc == .grp || sc == .blk || sc == .cls
  | _ => sc == .grp || sc == .blk

/-- Spaces that have the group-wide form of LD and ST. -/
def Space.group : Space → Bool
  | .glb | .loc => true
  | _ => false

/-- LD and ST (R216). -/
def ldstOk (h : Hdr) (m : MemMod) (sp : Space) (load : Bool) : Bool :=
  h.ok load true sp.group && kOk h.a && regOk h.u h.b && sizedOk h.u m.size h.d && ordOk m.dom m.ord &&
  (m.ord == .none || m.ord == (if load then .acq else .rls)) && scopeOk sp m.sc && (m.rp == 7 || (load && sp == .glb))

/-- GLD and GST (R51, R218). -/
def gatOk (h : Hdr) (m : GatMod) (sp : Space) (load : Bool) : Bool :=
  h.ok load true false && kOk h.a && (!m.iw || h.b.toNat % 2 == 0) && !(m.sx && m.iw) && m.scl.toNat ≤ 4 && sizedOk false m.size h.d &&
  scopeOk sp m.sc

/-- Data registers of an atomic (R219). -/
def atDataOk (u : Bool) (op : AtOp) (s : Size) (d : BitVec 8) : Bool :=
  if u then (if op == .cas then d.toNat ≤ 62 else d.toNat < 64)
  else if op == .cas then (if s == .b8 then d.toNat % 4 == 0 else d.toNat % 2 == 0)
  else (s != .b8 || d.toNat % 2 == 0)

/-- The atomic operation whose code is in a field (R52). -/
def atOpOf (c : Nat) : Option AtOp :=
  match c with
  | 0 => some .add | 1 => some .smin | 2 => some .smax | 3 => some .umin | 4 => some .umax | 5 => some .and | 6 => some .or
  | 7 => some .xor | 8 => some .exch | 9 => some .cas | 10 => some .fadd
  | _ => none

/-- ATOM and RED (R219). -/
def atomOk (h : Hdr) (m : MemMod) (sp : Space) (red : Bool) : Bool :=
  match atOpOf h.c.toNat with
  | none => false
  | some op =>
    h.ok (!red) true true && kOk h.a && regOk h.u h.b && size23 m.size && atDataOk h.u op m.size h.d && ordOk m.dom m.ord && m.rp == 7 && !m.na &&
    scopeOk sp m.sc && (!red || (op != .exch && op != .cas && (m.ord == .none || m.ord == .rls)))

/-- LR and SC (R220). -/
def lrscOk (h : Hdr) (m : MemMod) (lr : Bool) : Bool :=
  h.ok true true false && kOk h.a && size23 m.size && sizedOk false m.size h.d && ordOk m.dom m.ord &&
  (m.ord == .none || m.ord == (if lr then .acq else .rls)) && m.rp == 7 && !m.na

/-- MXLD and MXST (R221). -/
def mxOk (h : Hdr) (m : MemMod) (sp : Space) (load : Bool) : Bool :=
  h.ok load true false && h.a.toNat ≤ 62 && m.size == .b4 && ordOk m.dom m.ord && (m.ord == .none || m.ord == (if load then .acq else .rls)) &&
  scopeOk sp m.sc && (m.rp == 7 || (load && sp == .glb)) && !m.na

/-- DOM, SCOPE, SIZE and ORD zero and no residency predicate. -/
def bareMem (m : MemMod) : Bool := m.dom == .bulk && m.sc == .grp && m.size == .b1 && m.ord == .none && m.rp == 7

/-- PROBE (R222). -/
def probeOk (h : Hdr) (m : MemMod) : Bool := h.ok true true true && predOk h.d && kOk h.a && regOk h.u h.b && bareMem m && !m.na
/-- PGIN (R223). -/
def pginOk (h : Hdr) (m : MemMod) : Bool := h.ok false false true && h.d == 0 && kOk h.a && kOk h.b && bareMem m && !m.na
/-- PFCH (R224). -/
def pfchOk (h : Hdr) (m : MemMod) : Bool := h.ok false true true && h.d == 0 && kOk h.a && regOk h.u h.b && bareMem m
/-- WBINV (R225). -/
def wbinvOk (h : Hdr) (m : MemMod) : Bool :=
  h.ok false false true && h.d == 0 && kOk h.a && kOk h.b && (m.sc == .cls || m.sc == .dev || m.sc == .sys) && m.size == .b1 && m.ord == .none &&
  m.rp == 7 && !m.na

/-! ### Block transfer, objects, matrix (R53, R54, R231, R237, R249, R153 to R158) -/

/-- BT (R231). A peer side uses the register after its offset. -/
def btOk (h : Hdr) (m : BtMod) : Bool :=
  h.ok false false true && kOk h.d && kOk h.a && h.b.toNat ≤ 60 && kOk h.c && (m.g || m.slot == 0) &&
  (m.dir != .peerLoc || h.a.toNat ≤ 62) && (m.dir != .locPeer || h.d.toNat ≤ 62)

/-- BTG (R237). -/
def btgOk (h : Hdr) (m : BtMod) : Bool :=
  h.ok false false true && kOk h.d && kOk h.a && h.b.toNat ≤ 58 && kOk h.c && (m.g || m.slot == 0) &&
  (m.dir == .glbLoc || m.dir == .glbWbuf || m.dir == .glbAbuf)

/-- TILE (R244): D is a tile index. -/
def tileOk (h : Hdr) : Bool := h.ok false false true && kOk h.d && kOk h.a && kOk h.b && h.c == 0
/-- TILEQ (R245). -/
def tileqOk (h : Hdr) : Bool := h.ok true false true && kOk h.d && kOk h.a && h.b == 0 && h.c == 0
/-- OBJDCL (R249). -/
def objdclOk (h : Hdr) : Bool := h.ok false false true && kOk h.d && kOk h.a && kOk h.b && h.c.toNat ≤ 62
/-- OBJREL (R250). -/
def objrelOk (h : Hdr) : Bool := h.ok false false true && h.d == 0 && kOk h.a && h.b == 0 && h.c == 0

/-- MMA: `fmts` is the number of format pairs of the class (R137). -/
def mmaOk (h : Hdr) (m : MmaMod) (fmts : Nat) : Bool :=
  h.ok false false true && kOk h.d && kOk h.a && kOk h.b && kOk h.c && m.fmt.toNat < fmts && (m.g || m.slot == 0)
/-- MZERO (R154). -/
def mzeroOk (h : Hdr) : Bool := h.ok false false true && kOk h.d && h.a == 0 && h.b == 0 && kOk h.c
/-- MBATCH (R156). -/
def mbatchOk (h : Hdr) : Bool := h.ok false false true && kOk h.d && h.a == 0 && h.b == 0 && h.c == 0
/-- MQNT (R158). -/
def mqntOk (h : Hdr) (df : Fmt) : Bool := h.ok false false true && kOk h.d && kOk h.a && h.b == 0 && kOk h.c && df.blocked

/-! ### Fabric, scheduling, system (R55 to R57, R264, R357, R374, R377, R378) -/

/-- RMLD and RMST. -/
def rmOkOf (h : Hdr) (m : FabMod) (load : Bool) : Bool :=
  h.ok load true false && kOk h.c && sizedOk false m.size h.d && ordOk m.dom m.ord && (m.ord == .none || m.ord == (if load then .acq else .rls)) && m.op == .add
/-- RMAT. -/
def rmatOk (h : Hdr) (m : FabMod) : Bool :=
  h.ok true true false && kOk h.c && size23 m.size && atDataOk false m.op m.size h.d && ordOk m.dom m.ord
/-- XCH and XEXP. -/
def xchOk (h : Hdr) (m : FabMod) : Bool :=
  h.ok true true false && kOk h.c && (m.size == .b4 || m.size == .b8 || m.size == .b16) && sizedOk false m.size h.d && ordOk m.dom m.ord &&
  (m.ord == .none || m.ord == .rls) && m.op == .add
/-- RFENCE. -/
def rfenceOk (h : Hdr) : Bool := h.ok false true true && noOps h
/-- SLOTQ. -/
def slotqOk (h : Hdr) : Bool := h.ok true false true && kOk h.d && kOk h.a && h.b == 0 && h.c == 0
/-- LAUNCH. -/
def launchOk (h : Hdr) : Bool := h.ok false false true && kOk h.d && h.a == 0 && h.b == 0 && h.c == 0
/-- SLEEP. -/
def sleepOk (h : Hdr) : Bool := h.ok false false true && h.d == 0 && kOk h.a && h.b == 0
/-- NOP. -/
def nopOk (h : Hdr) : Bool := h.ok false true true && noOps h
/-- SVC (R374). -/
def svcOk (h : Hdr) : Bool := h.ok false true false && h.d.toNat % 2 == 0 && h.b == 0 && h.c.toNat ≤ 8 && (h.c != 0 || h.a == 0)
/-- BRK (R377). -/
def brkOk (h : Hdr) : Bool := h.ok false true true && noOps h
/-- SYSRD (R378). -/
def sysrdOk (h : Hdr) : Bool := h.ok true true true && pairOk h.u h.d && h.b == 0 && h.c == 0 && (!h.u || h.a != 0)
/-- SYSWR (R358). -/
def syswrOk (h : Hdr) : Bool := h.ok false false true && h.d == 0 && kOk h.b && h.c == 0
/-- PTLOAD (R359). -/
def ptloadOk (h : Hdr) : Bool := h.ok false false true && h.d == 0 && kOk h.a && h.b == 0 && 4 ≤ h.c.toNat && h.c.toNat ≤ 7
/-- CTXCTL (R360). -/
def ctxctlOk (h : Hdr) : Bool := h.ok false false true && kOk h.d && kOk h.a && kOk h.b && h.c == 0

/-- The OP values of the opcode map (R41). -/
def allocatedOp (n : Nat) : Bool :=
  n ≤ 0x33 || (0x40 ≤ n && n ≤ 0x48) || (0x50 ≤ n && n ≤ 0x56) || (0x60 ≤ n && n ≤ 0x69) || (0x70 ≤ n && n ≤ 0x7B) ||
  (0x80 ≤ n && n ≤ 0x9B) || (0xA0 ≤ n && n ≤ 0xA5) || (0xB0 ≤ n && n ≤ 0xB9) || (0xC0 ≤ n && n ≤ 0xC6) ||
  (0xD0 ≤ n && n ≤ 0xD5) || (0xE0 ≤ n && n ≤ 0xE7)

/-- A word whose OP is not allocated, or that names a reserved CTXCTL operation (R41, R360). -/
def unallocated (w : Word) : Bool :=
  let op := w.toNat / 2 ^ 47 % 256
  !allocatedOp op || (op == 0xE7 && w.toNat % 16 ≥ 9)

end Sys2Proof
end

