-- ==== Sys2Proof/Config.lean ====
section
/-! DEFINITION. What the SK4 fixes (spec/01_machine.md R17, R31; 09_fabric.md R251; 10_scheduling.md), and the
free values: constants without a body, about which nothing can be proved but that they exist. -/

namespace Sys2Proof.Config

/-- Cores of the device (R31). -/
def cores : Nat := 256
/-- Compute dies (R31). -/
def dies : Nat := 4
/-- Hardware clusters (R31). -/
def clusters : Nat := 64
/-- Reconvergence-stack entries of a group (R296). -/
def stackEntries : Nat := 32
/-- Scruple threads of a core (R17, R301). -/
def threads : Nat := 32
/-- Matrix commands a core's engine holds (R131). -/
def matrixQueue : Nat := 32
/-- Closed batches a group may have outstanding (R141). -/
def batchLimit : Nat := 16
/-- Entries of each block-transfer queue (R232). -/
def btQueue : Nat := 16
/-- Lane registers a scruple thread holds (R302). -/
def threadRegs : Nat := 64
/-- Instructions of a path before a fairness rotation (R310). -/
def fairness : Nat := 4096
/-- Instructions by which an LR may defer a rotation (R311). -/
def fairnessDefer : Nat := 16
/-- Issue cycles after which a ready group is starved (R287). -/
def starve : Nat := 256
/-- Cycles after which a YIELD ends (R338). -/
def yieldCycles : Nat := 64
/-- Lines of 128 bytes in an L1 instruction cache of 128 KiB (R17). -/
def codeLines : Nat := 1024
/-- Lines of 128 bytes in an L1 data cache of 256 KiB (R17). -/
def l1Lines : Nat := 2048
/-- Lines of 128 bytes in a cluster cache of 4 MiB (R32: 256 MiB over 64 clusters). -/
def ccLines : Nat := 32768
/-- Cycles an SIV line serves before it is fetched again (R427). -/
def sivAge : Nat := 65536
/-- Issue cycles a BULK combining entry waits (R427). -/
def bulkWait : Nat := 1024
/-- Grids the device's grid table holds (R283). -/
def gridTable : Nat := 512
/-- Bytes of a storage granule (R18). -/
def granule : Nat := 65536
/-- Rejoin timeout selected by an RJT of 0 (R305, R343). -/
def rjtDefault : Nat := 100000
/-- Cycles of a mapping quantum (R282). -/
def mappingQuantum : Nat := 140000
/-- Entries of a tenant's population ring (R349). -/
def popRing : Nat := 4096
/-- Entries of the TLB of a quarter (R347). -/
def tlbQuarter : Nat := 64
/-- Entries of the L2 TLB of a core (R347). -/
def tlbShared : Nat := 4096
/-- Frames of HBM (R350). -/
def hbmFrames : Nat := 6291456
/-- Fibres of the port (R251). -/
def fibres : Nat := 48
/-- Bytes of send storage (R251). -/
def sendStorage : Nat := 16777216
/-- Bytes a flit occupies (R251). -/
def flitBytes : Nat := 256
/-- Times a replayable block is replayed (R380). -/
def replayLimit : Nat := 3
/-- Start value of every generator and the seed that replaces zero (R80). -/
def generatorSeed : Half := 0x6A09E667

/-- Capacity of each domain store queue (R17). -/
def storeQueue : Dom → Nat
  | .seq => 16
  | .tso => 32
  | .rel => 32
  | .cau => 32
  | .bulk => 64

/-- FREE VALUE. Bits that the manual does not state, drawn by the counter `free` of State (log 2). -/
opaque freeWord : Nat → Word

/-- FREE VALUE. The tile of the byte at an offset of an object whose shape gives no division: a row stride of 0 (R194, R195, log 41). -/
opaque freeTile : Nat → Nat × Nat

/-- FREE VALUE. Which of several G = 1 mappings of a page an access at a VTIME uses (R348, log 42). -/
opaque sharedPick : Nat → Nat → Nat

/-- FREE VALUE. By how many times 2^32 a time of an edge record is widened in a step longer than 2^32 cycles (R396, log 43); the arguments are the
VTIME of STEPE and the time. -/
opaque widenPick : Nat → Nat → Nat

/-- FREE VALUE. The signature over an SPDM measurement answer (R362); the device's identity key and the signing
function are not in the manual. -/
opaque spdmSignature : Nat → List Byte → List Byte

/-- FREE VALUE. Digest of a firmware image that SPDM reports (R362). -/
opaque firmwareDigest : List Byte → List Byte

/-- FREE VALUE. Digest of the validator that SPDM reports (R362). -/
opaque validatorDigest : List Byte

/-- FREE VALUE. Does a firmware image carry an SLH-DSA-SHA2-128s signature under the fused key (R422)? Key and format are not in the manual. -/
opaque firmwareSigned : List Byte → Bool

/-- FREE VALUE. The version of a firmware image (R422). -/
opaque firmwareVersion : List Byte → Nat

/-- FREE VALUE. The fused rollback counter (R422). -/
opaque rollbackFuse : Nat
end Sys2Proof.Config
end

