-- ==== Sys2Proof/Machine/Formats.lean ====
section
/-! DEFINITION. Number formats, exact values and the one rounding rule (spec/03_formats.md R69 to R80). Every
operation forms an exact value first and `rnd` narrows it. -/

namespace Sys2Proof.Machine

open Sys2Proof

/-- FPF flags, at the bit positions of R23: NV 0, DZ 1, OF 2, UF 3, NX 4. -/
abbrev Flags := BitVec 5

/-- No flag. -/
def fNone : Flags := 0
/-- Invalid operation. -/
def fNV : Flags := 1
/-- Division by zero. -/
def fDZ : Flags := 2
/-- Overflow. -/
def fOF : Flags := 4
/-- Underflow. -/
def fUF : Flags := 8
/-- Inexact. -/
def fNX : Flags := 16

/-- Number of bits of a number; 0 for 0. -/
def bitLen (n : Nat) : Nat := if n = 0 then 0 else Nat.log2 n + 1

/-- A binary floating-point format (R69). `ieee` formats have infinities (R70). -/
structure FFmt where
  ebits : Nat
  mbits : Nat
  bias  : Nat
  ieee  : Bool
deriving DecidableEq, Repr

/-- binary64. -/
def f64F : FFmt := { ebits := 11, mbits := 52, bias := 1023, ieee := true }
/-- binary32. -/
def f32F : FFmt := { ebits := 8, mbits := 23, bias := 127, ieee := true }
/-- binary16. -/
def f16F : FFmt := { ebits := 5, mbits := 10, bias := 15, ieee := true }
/-- bf16. -/
def bf16F : FFmt := { ebits := 8, mbits := 7, bias := 127, ieee := true }
/-- e4m3: no infinity, one NaN significand (R70). -/
def e4m3F : FFmt := { ebits := 4, mbits := 3, bias := 7, ieee := false }
/-- e5m2. -/
def e5m2F : FFmt := { ebits := 5, mbits := 2, bias := 15, ieee := true }

/-- The format of a conversion code; integer and n4 codes have none and give f32. -/
def fmtFormat : Fmt → FFmt
  | .f64 => f64F | .f16 => f16F | .bf16 => bf16F | .e4m3 => e4m3F | .e5m2 => e5m2F | _ => f32F

/-- The format of an element of a floating-point type. -/
def ftyFormat : FTy → FFmt
  | .f32 => f32F | .f64 => f64F | .f16x2 | .f16 => f16F | .bf16x2 | .bf16 => bf16F

/-- Width in bits of a format. -/
def FFmt.width (f : FFmt) : Nat := 1 + f.ebits + f.mbits

/-- Encoding of positive infinity. -/
def FFmt.infBits (f : FFmt) : Nat := (2 ^ f.ebits - 1) * 2 ^ f.mbits

/-- Encoding of the canonical quiet NaN (R70, R71). -/
def FFmt.nanBits (f : FFmt) : Nat := if f.ieee then f.infBits + 2 ^ (f.mbits - 1) else f.infBits + (2 ^ f.mbits - 1)

/-- Encoding of the largest finite value (R69). -/
def FFmt.maxBits (f : FFmt) : Nat := if f.ieee then f.infBits - 1 else f.nanBits - 1

/-- The sign bit of a format. -/
def FFmt.signBit (f : FFmt) : Nat := 2 ^ (f.width - 1)

/-- Exponent of the smallest normal value. -/
def FFmt.emin (f : FFmt) : Int := 1 - (f.bias : Int)

/-- An exact value: a NaN, an infinity, a zero, or ±m × 2^e with m ≠ 0. `sticky` says that the magnitude lies
strictly between m × 2^e and (m + 1) × 2^e, for results that are not dyadic. -/
inductive Exact where
  | nan (signalling : Bool)
  | inf (neg : Bool)
  | zero (neg : Bool)
  | fin (neg : Bool) (m : Nat) (e : Int) (sticky : Bool)
deriving DecidableEq, Repr

/-- The value of an encoding (R69, R70). -/
def FFmt.decode (f : FFmt) (b : Nat) : Exact :=
  let x := b % 2 ^ f.width
  let neg := f.signBit ≤ x
  let y := x % f.signBit
  let ex := y / 2 ^ f.mbits
  let mant := y % 2 ^ f.mbits
  if f.ieee && ex == 2 ^ f.ebits - 1 then
    if mant = 0 then .inf neg else .nan (mant < 2 ^ (f.mbits - 1))
  else if !f.ieee && y == f.nanBits then .nan false
  else if ex = 0 then
    if mant = 0 then .zero neg else .fin neg mant (f.emin - f.mbits) false
  else .fin neg (mant + 2 ^ f.mbits) ((ex : Int) - f.bias - f.mbits) false

/-- An exact dyadic value from a signed significand; an exact zero has the sign `zneg`. -/
def ofInt (zneg : Bool) (m e : Int) : Exact :=
  if m = 0 then .zero zneg else .fin (decide (m < 0)) m.natAbs e false

/-- How a magnitude is rounded to a multiple of 2^q. -/
structure Rounded where
  n     : Nat
  exact : Bool
deriving DecidableEq, Repr

/-- Rounds ±m × 2^e (plus sticky) to a multiple of 2^q in magnitude (R77, R79); `draw` is the 16-bit draw of SR. -/
def roundAt (mode : Rm) (draw : Nat) (neg : Bool) (m : Nat) (e : Int) (sticky : Bool) (q : Int) : Rounded :=
  if q ≤ e then { n := m * 2 ^ (e - q).toNat, exact := !sticky }
  else
    let sh := (q - e).toNat
    let lo := m / 2 ^ sh
    let rem := m % 2 ^ sh
    if rem = 0 && !sticky then { n := lo, exact := true }
    else
      let half := 2 ^ (sh - 1)
      let up : Bool :=
        match mode with
        | .rne => decide (half < rem) || (rem == half && (sticky || lo % 2 == 1))
        | .rtz => false
        | .rdn => neg
        | .rup => !neg
        | .sr => if neg then !decide (draw * 2 ^ sh < (2 ^ sh - rem) * 2 ^ 16) else decide (draw * 2 ^ sh < rem * 2 ^ 16)
      { n := if up then lo + 1 else lo, exact := false }

/-- Is n × 2^q greater than the format's largest finite magnitude? -/
def FFmt.over (f : FFmt) (n : Nat) (q : Int) : Bool :=
  match f.decode f.maxBits with
  | .fin _ m e _ =>
    if e ≤ q then decide (m < n * 2 ^ (q - e).toNat) else decide (m * 2 ^ (e - q).toNat < n)
  | _ => false

/-- The result of an overflow (R78). -/
def FFmt.overflow (f : FFmt) (mode : Rm) (sat neg : Bool) : Nat :=
  let big : Bool := !sat && (match mode with | .rne | .sr => true | .rtz => false | .rdn => neg | .rup => !neg)
  let s := if neg then f.signBit else 0
  if big then (if f.ieee then s + f.infBits else f.nanBits) else s + f.maxBits

/-- `rnd(x, fmt, mode)` of R77 to R79: the encoding and the flags it raises. -/
def rnd (f : FFmt) (mode : Rm) (sat : Bool) (draw : Nat) (x : Exact) : Nat × Flags :=
  match x with
  | .nan _ => (f.nanBits, 0)
  | .inf neg =>
    let s := if neg then f.signBit else 0
    if sat then (s + f.maxBits, fOF ||| fNX)
    else if f.ieee then (s + f.infBits, 0) else (f.nanBits, fNV)
  | .zero neg => (if neg then f.signBit else 0, 0)
  | .fin neg m e sticky =>
    let s := if neg then f.signBit else 0
    let top : Int := e + bitLen m - 1
    let qu : Int := top - f.mbits
    let qs : Int := f.emin - f.mbits
    let q : Int := if qu < qs then qs else qu
    let r := roundAt mode draw neg m e sticky q
    if f.over r.n q then (f.overflow mode sat neg, fOF ||| fNX)
    else
      let u := roundAt mode draw neg m e sticky qu
      let tiny : Bool := decide (qu < qs) && decide (u.n < 2 ^ ((f.emin - qu).toNat))
      let flags : Flags := if r.exact then 0 else if tiny then fNX ||| fUF else fNX
      let carry : Bool := decide (2 ^ (f.mbits + 1) ≤ r.n)
      let n := if carry then r.n / 2 else r.n
      let qn := if carry then q + 1 else q
      let mag := if n < 2 ^ f.mbits then n else (qn + f.mbits + f.bias - 1).toNat * 2 ^ f.mbits + n
      (s + mag, flags)

/-- Negates an exact value. -/
def Exact.negate : Exact → Exact
  | .nan g => .nan g
  | .inf b => .inf (!b)
  | .zero b => .zero (!b)
  | .fin b m e s => .fin (!b) m e s

/-- The exact value as the real number it is: a zero has no sign of its own, so `rnd` gives +0 where the operation's own rule gives none (R77). -/
def Exact.real : Exact → Exact
  | .zero _ => .zero false
  | x => x

/-- The sign of an exact value; a NaN has sign 0. -/
def Exact.isNeg : Exact → Bool
  | .nan _ => false
  | .inf b | .zero b | .fin b _ _ _ => b

/-- Is it a NaN? -/
def Exact.isNan : Exact → Bool
  | .nan _ => true
  | _ => false

/-- NV for a signalling NaN (R71). -/
def sigFlag : Exact → Flags
  | .nan true => fNV
  | _ => 0

/-- Signed significand at exponent `e`, for a value whose own exponent is not below `e`. -/
def Exact.scaled (x : Exact) (e : Int) : Int :=
  match x with
  | .fin neg m e' _ => (if neg then -1 else 1) * ((m * 2 ^ (e' - e).toNat : Nat) : Int)
  | _ => 0

/-- Exponent of a finite value, or `d`. -/
def Exact.expOr (x : Exact) (d : Int) : Int :=
  match x with
  | .fin _ _ e _ => e
  | _ => d

/-- The exact sum (R110). An exact zero sum is −0 under RDN when the operands differ in sign or cancel. -/
def exAdd (mode : Rm) (x y : Exact) : Exact × Flags :=
  match x, y with
  | .nan g, y => (.nan false, sigFlag (.nan g) ||| sigFlag y)
  | x, .nan g => (.nan false, sigFlag x ||| sigFlag (.nan g))
  | .inf a, .inf b => if a == b then (.inf a, 0) else (.nan false, fNV)
  | .inf a, _ => (.inf a, 0)
  | _, .inf b => (.inf b, 0)
  | .zero a, .zero b => (.zero (if a == b then a else mode == .rdn), 0)
  | .zero _, y => (y, 0)
  | x, .zero _ => (x, 0)
  | .fin a m e s, .fin b n k t =>
    let lo := if e ≤ k then e else k
    (ofInt (mode == .rdn) ((Exact.fin a m e s).scaled lo + (Exact.fin b n k t).scaled lo) lo, 0)

/-- The exact product (R110). -/
def exMul (x y : Exact) : Exact × Flags :=
  match x, y with
  | .nan g, y => (.nan false, sigFlag (.nan g) ||| sigFlag y)
  | x, .nan g => (.nan false, sigFlag x ||| sigFlag (.nan g))
  | .inf a, .inf b => (.inf (a != b), 0)
  | .inf _, .zero _ => (.nan false, fNV)
  | .zero _, .inf _ => (.nan false, fNV)
  | .inf a, .fin b _ _ _ => (.inf (a != b), 0)
  | .fin a _ _ _, .inf b => (.inf (a != b), 0)
  | .zero a, .zero b => (.zero (a != b), 0)
  | .zero a, .fin b _ _ _ => (.zero (a != b), 0)
  | .fin a _ _ _, .zero b => (.zero (a != b), 0)
  | .fin a m e _, .fin b n k _ => (.fin (a != b) (m * n) (e + k) false, 0)

/-- Exact a × b + c, with the invalid cases of R110: ∞ × 0 sets NV also when c is a quiet NaN. -/
def exFma (mode : Rm) (a b c : Exact) : Exact × Flags :=
  let p := exMul a b
  let r := exAdd mode p.1 c
  (r.1, p.2 ||| r.2)

/-- Compares two finite or infinite values: −1, 0 or 1, with −0 equal to +0. -/
def exCmp (x y : Exact) : Int :=
  let lo := if x.expOr (y.expOr 0) ≤ y.expOr (x.expOr 0) then x.expOr (y.expOr 0) else y.expOr (x.expOr 0)
  match x, y with
  | .inf a, .inf b => if a == b then 0 else if a then -1 else 1
  | .inf a, _ => if a then -1 else 1
  | _, .inf b => if b then 1 else -1
  | x, y =>
    let d := x.scaled lo - y.scaled lo
    if d < 0 then -1 else if d = 0 then 0 else 1

/-- Floor of a square root, one bit at a time. -/
def isqrtBits (n : Nat) : Nat → Nat → Nat
  | 0, acc => acc
  | k + 1, acc =>
    let t := acc + 2 ^ k
    isqrtBits n k (if t * t ≤ n then t else acc)

/-- Floor of the square root of a number. -/
def isqrt (n : Nat) : Nat := isqrtBits n (bitLen n / 2 + 1) 0

/-- The quotient of two finite nonzero magnitudes, to at least 128 bits, with a sticky bit. -/
def divFin (neg : Bool) (m : Nat) (e : Int) (n : Nat) (k : Int) : Exact :=
  let sh := 130 + bitLen n
  let q := m * 2 ^ sh / n
  .fin neg q (e - k - sh) (m * 2 ^ sh % n != 0)

/-- Division (R113, R114): zero by a finite value is +0, since neither rule gives it a sign (R77; DEDUCED, log 44). -/
def exDiv (x y : Exact) : Exact × Flags :=
  match x, y with
  | .nan g, y => (.nan false, sigFlag (.nan g) ||| sigFlag y)
  | x, .nan g => (.nan false, sigFlag x ||| sigFlag (.nan g))
  | .inf _, .inf _ => (.nan false, fNV)
  | .zero _, .zero _ => (.nan false, fNV)
  | .inf a, y => (.inf (a != y.isNeg), 0)
  | x, .inf b => (.zero (x.isNeg != b), 0)
  | .zero _, .fin .. => (.zero false, 0)
  | x, .zero b => (.inf (x.isNeg != b), fDZ)
  | .fin a m e _, .fin b n k _ => (divFin (a != b) m e n k, 0)

/-- Square root (R113, R114). -/
def exSqrt (x : Exact) : Exact × Flags :=
  match x with
  | .nan g => (.nan false, sigFlag (.nan g))
  | .inf true => (.nan false, fNV)
  | .inf false => (.inf false, 0)
  | .zero a => (.zero a, 0)
  | .fin true _ _ _ => (.nan false, fNV)
  | .fin false m e _ =>
    let odd : Bool := e % 2 != 0
    let m' := (if odd then m * 2 else m) * 2 ^ 260
    let e' := (if odd then e - 1 else e) - 260
    let r := isqrt m'
    (.fin false r (e' / 2) (r * r != m'), 0)

/-- Reciprocal square root (R113, R114): v = 2^k ÷ √m with floor √⌊2^2k ÷ m⌋. -/
def exRsqrt (x : Exact) : Exact × Flags :=
  match x with
  | .nan g => (.nan false, sigFlag (.nan g))
  | .inf true => (.nan false, fNV)
  | .inf false => (.zero false, 0)
  | .zero a => (.inf a, fDZ)
  | .fin true _ _ _ => (.nan false, fNV)
  | .fin false m e _ =>
    let odd : Bool := e % 2 != 0
    let m' := if odd then m * 2 else m
    let e' := if odd then e - 1 else e
    let k := 130 + bitLen m'
    let r := isqrt (2 ^ (2 * k) / m')
    (.fin false r (-(e' / 2) - k) (r * r * m' != 2 ^ (2 * k)), 0)

/-! ### The stochastic-rounding generator (R80) -/

/-- One step of the generator. -/
def genStep (s : Half) : Half :=
  let a := s ^^^ (s <<< 13)
  let b := a ^^^ (a >>> 17)
  b ^^^ (b <<< 5)

/-- The draw that a generator state gives: its top half. -/
def genDraw (s : Half) : Nat := s.toNat / 2 ^ 16

/-- The state a source seeds (SROUND): zero seeds the constant. -/
def genSeed (x : Half) : Half := if x = 0 then Config.generatorSeed else x

/-- The generator of a lane at block start. -/
def genStart (grp lane : Nat) : Half := Config.generatorSeed ^^^ BitVec.ofNat 32 (grp * 256) ^^^ BitVec.ofNat 32 lane

end Sys2Proof.Machine
end

