-- ==== Sys2Proof/WellFormed.lean ====
section
/-! DEFINITION. Which instructions have a legal word (spec/02_encoding.md R12, R42): every constructor of `Instr` with
the checks of Machine/Legal.lean that its class makes. -/

namespace Sys2Proof

/-- The instruction has a legal word. Events have no word. -/
def WellFormed (i : Instr) : Bool :=
  match i with
  | .add h m | .sub h m | .mul h m => intTwo h m false true tyAll
  | .min h m | .max h m | .and h m | .or h m | .xor h m | .shl h m | .shr h m | .sar h m => intTwo h m false false tyAll
  | .iset h m _ => intTwo h m false false tyAll
  | .abs h m => intOne h m true [.i32, .i64, .i16x2]
  | .mulh h m => intTwo h m false false tyScalar
  | .mad h m => intThree h m true tyAll
  | .divu h m | .remu h m => intTwo h m true false [.ui32, .ui64]
  | .divs h m | .rems h m => intTwo h m true false [.i32, .i64]
  | .blut h _ => blutOk h
  | .fsh h m | .bfx h m | .bfi h m => intThree h m false tyScalar
  | .popc h m | .clz h m | .ctz h m | .brev h m | .mov h m => intOne h m false tyAll
  | .sel h m => selOk h m
  | .cmp h m _ => cmpOk h m
  | .lea h m => leaOk h m
  | .movi h w _ => moviOk h w
  | .fadd h m | .fmul h m => fpTwo h m false true true
  | .ffma h m => ffmaOk h m
  | .fmin h m | .fmax h m => fpTwo h m false false false
  | .fcmp h m _ => fccOk h m true
  | .fset h m _ => fccOk h m false
  | .frcp h m => fpOne h m true true true false
  | .frsq h m => fpOne h m true false false false
  | .fsqrt h m => fpOne h m true true false false
  | .fdiv h m => fpTwo h m true true true
  | .fexp2 h m => fpOne h m true false true false
  | .flog2 h m | .fsin h m | .fcos h m => fpOne h m true false false false
  | .frnd h m => fpOne h m false true false false
  | .fclass h m => fpOne h m false false false true
  | .fscale h m => fscaleOk h m
  | .fdot2 h m => fdotOk h m true
  | .fdot4 h m _ => fdotOk h m false
  | .cvt h m => cvtOk h m
  | .pack h m => packOk h m
  | .unpack h m => unpackOk h m
  | .amax h m => amaxOk h m
  | .qscale h m => qscaleOk h m
  | .quant h m => quantOk h m
  | .deq h m => deqOk h m
  | .sround h => sroundOk h
  | .prmt h ck => prmtOk h ck
  | .shfl h m => shflOk h m
  | .qxch h m => qxchOk h m
  | .qbcast h m => qbcastOk h m
  | .vote h m => voteOk h m
  | .matchLanes h m => matchOk h m
  | .redux h m => reduxOk h m
  | .scan h m => scanOk h m
  | .bra h _ => braOk h
  | .braFar h _ => braFarOk h
  | .brx h _ => brxOk h
  | .join h => joinOk h
  | .call h _ => callOk h
  | .callFar h _ => callFarOk h
  | .ret h | .jmpi h => jmpiOk h
  | .exit h | .recall h | .trig h | .yield h | .stepe h | .tret h | .mrdy h => groupNoOps h
  | .stepb h _ => groupNoOps h
  | .bara h m | .bars h m => barOk h m true
  | .barw h m => barOk h m false
  | .tbinit h | .tbexp h => tbABOk h
  | .tbarr h => tbarrOk h
  | .tbwait h => tbwaitOk h
  | .tbtest h => tbtestOk h
  | .waitv h m => waitvOk h m
  | .fence h d _ all => fenceOk h d all
  | .brg h d1 _ d2 => brgOk h d1 d2
  | .gset h => gsetOk h
  | .ldGlb h m => ldstOk h m .glb true
  | .ldLoc h m => ldstOk h m .loc true
  | .ldNbr h m => ldstOk h m .nbr true
  | .ldAbuf h m => ldstOk h m .abuf true
  | .ldZbuf h m => ldstOk h m .zbuf true
  | .stGlb h m => ldstOk h m .glb false
  | .stLoc h m => ldstOk h m .loc false
  | .stNbr h m => ldstOk h m .nbr false
  | .stAbuf h m => ldstOk h m .abuf false
  | .stZbuf h m => ldstOk h m .zbuf false
  | .gldGlb h m => gatOk h m .glb true
  | .gldLoc h m => gatOk h m .loc true
  | .gstGlb h m => gatOk h m .glb false
  | .gstLoc h m => gatOk h m .loc false
  | .atomGlb h m => atomOk h m .glb false
  | .atomLoc h m => atomOk h m .loc false
  | .redGlb h m => atomOk h m .glb true
  | .redLoc h m => atomOk h m .loc true
  | .lr h m => lrscOk h m true
  | .sc h m => lrscOk h m false
  | .mxldGlb h m => mxOk h m .glb true
  | .mxstGlb h m => mxOk h m .glb false
  | .mxldLoc h m => mxOk h m .loc true
  | .mxstLoc h m => mxOk h m .loc false
  | .probe h m => probeOk h m
  | .pgin h m => pginOk h m
  | .pfch h m => pfchOk h m
  | .wbinv h m => wbinvOk h m
  | .bt h m => btOk h m
  | .btg h m => btgOk h m
  | .tile h => tileOk h
  | .tileq h => tileqOk h
  | .objdcl h _ => objdclOk h
  | .objrel h => objrelOk h
  | .mmaF16 h m => mmaOk h m 2
  | .mmaF8 h m | .mmaI8 h m | .mmaMx8 h m => mmaOk h m 4
  | .mmaN4 h m => mmaOk h m 3
  | .mzero h => mzeroOk h
  | .mbatch h => mbatchOk h
  | .mwait h => jmpiOk h
  | .mqnt h df => mqntOk h df
  | .rmld h m => rmOkOf h m true
  | .rmst h m => rmOkOf h m false
  | .rmat h m => rmatOk h m
  | .xch h m | .xexp h m => xchOk h m
  | .rfence h _ => rfenceOk h
  | .slotq h => slotqOk h
  | .launch h _ => launchOk h
  | .sleep h => sleepOk h
  | .nop h => nopOk h
  | .svc h _ => svcOk h
  | .brk h _ => brkOk h
  | .sysrd h => sysrdOk h
  | .syswr h => syswrOk h
  | .ptload h => ptloadOk h
  | .ctxctlCreate h | .ctxctlDestroy h | .ctxctlTenant h | .ctxctlQueue h | .ctxctlWindow h | .ctxctlExpasg h | .ctxctlExpwr h
  | .ctxctlTlbinv h | .ctxctlPopdone h => ctxctlOk h
  | .unallocatedOpcode w => unallocated w
  | .longLatencyWriteback .. | .storeAcknowledgement .. | .bulkCombiningTimeout .. | .sivLineAgeOut ..
  | .barrierArrivalApply .. | .tbarrApply .. | .trigCountApply .. | .waitvReevaluation .. | .btCommandStart ..
  | .btRowWrite .. | .matrixCommandStart .. | .matrixCommandComplete .. | .scrupleThreadStart ..
  | .laneReturnComplete .. | .laneRecallComplete .. | .rejoinTimeout .. | .fairnessRotation ..
  | .hangWatchdogExpiry .. | .starvationTimeout .. | .contextSwitch .. | .sleepWake .. | .yieldEnd ..
  | .mappingQuantumEnd .. | .queueSlotMap .. | .gridLaunch .. | .timesliceQuantumEnd .. | .blockPlace ..
  | .preempt .. | .blockResume .. | .granuleStreamOperation .. | .parkedGroupReload .. | .heldTrapDelivery ..
  | .asyncTrapDelivery .. | .serviceRingEntryWrite .. | .sdoor .. | .qdoor .. | .populationRequestWrite ..
  | .validatorComplete .. | .chainWalkComplete .. | .pcSample .. | .sweeperStep .. | .ageingRefresh .. | .gets ..
  | .getx .. | .upg .. | .puts .. | .putx .. | .wt .. | .atomh .. | .ntwb .. | .invalidationAck .. | .dataS ..
  | .dataSw .. | .dataE .. | .ack .. | .wtack .. | .atomr .. | .inv .. | .update .. | .fwdGets .. | .fwdGetx ..
  | .fabricScheduleLoad .. | .slotStart .. | .fibreStop .. | .fibreFlitSend .. | .loadRequest .. | .flitStore ..
  | .flitAtomic .. | .flitPut .. | .blockTransferReadRequest .. | .blockTransferWrite .. | .dataResponse ..
  | .endToEndAcknowledgement .. | .errorResponse .. | .pull .. | .resend .. | .idleFlit .. | .remoteAnswerTimeout ..
  | .interimAnswerRepeat .. | .remotePassSend .. | .hostPostedWrite .. | .priResponse .. | .atsInvalidation ..
  | .tdispLeaveRun .. | .keyInstall .. | .spdmMeasurement .. | .uncorrectableError .. | .correctableError ..
  | .memoryPoison .. | .coldReset .. | .warmReset .. | .vfFunctionLevelReset .. | .bootStageComplete ..
  | .linkTrainRetry .. | .pcieLinkDown .. | .pcieLinkUp .. | .vbulkLoss .. | .thermalThrottle .. | .thermalTrip ..
  | .plimWrite .. | .swctlWrite .. | .firmwareImageDelivery .. | .registerWrite .. | .attach .. | .detach ..
  | .halt .. | .resume .. | .step .. | .focus .. | .unfocus .. | .catchup .. | .read .. | .write .. | .setbp ..
  | .setwp .. | .tdispInterfaceRun .. | .thermalThrottleEnd .. | .ucieRetry .. | .configurationRequest .. => false

end Sys2Proof
end

