-- ==== Sys2Proof/Decode.lean ====
section
/-! DEFINITION. The decoder and the encoder (spec/02_encoding.md R33 to R57). An instruction is one 64-bit word and,
for five opcodes, an X-word (R40). Memory is little-endian (R6). -/

namespace Sys2Proof

/-- Why a word list is no instruction. Each raises ILL but the two that lack words (R12, R41, R42). -/
inductive DecodeErr where
  /-- No word is left. -/
  | noWord
  /-- The opcode takes an X-word and none is left. -/
  | noExtension (op : Nat)
  /-- A field of the word holds a reserved value. -/
  | reservedField (op : Nat)
  /-- The fields are defined values that the instruction does not accept. -/
  | illFormed (op : Nat)
deriving DecidableEq, Repr

/-- The fields of a word (R33). -/
structure Raw where
  u  : Bool
  la : BitVec 4
  ps : BitVec 3
  pn : Bool
  op : BitVec 8
  d  : BitVec 8
  a  : BitVec 8
  b  : BitVec 8
  c  : BitVec 8
  md : BitVec 15
deriving DecidableEq, Repr

/-- Splits a word into its fields (R33). -/
def rawOf (w : Word) : Raw :=
  { u := w.getLsbD 63, la := w.extractLsb' 59 4, ps := w.extractLsb' 56 3, pn := w.getLsbD 55, op := w.extractLsb' 47 8,
    d := w.extractLsb' 39 8, a := w.extractLsb' 31 8, b := w.extractLsb' 23 8, c := w.extractLsb' 15 8, md := w.extractLsb' 0 15 }

/-- Joins the fields into a word (R33). -/
def packRaw (r : Raw) : Word :=
  (BitVec.ofBool r.u ++ r.la ++ r.ps ++ BitVec.ofBool r.pn ++ r.op ++ r.d ++ r.a ++ r.b ++ r.c ++ r.md : BitVec 64)

/-- The header of a word. -/
def Raw.hdr (r : Raw) : Hdr := { u := r.u, la := r.la, ps := r.ps, pn := r.pn, d := r.d, a := r.a, b := r.b, c := r.c }

/-- The word with the given header, opcode and MOD. -/
def wordOf (h : Hdr) (op : BitVec 8) (md : BitVec 15) : Word :=
  packRaw { u := h.u, la := h.la, ps := h.ps, pn := h.pn, op := op, d := h.d, a := h.a, b := h.b, c := h.c, md := md }

/-! ### Field codes -/

/-- TY of the integer class (R43). -/
def intTyOf (n : BitVec 3) : Option IntTy :=
  match n.toNat with
  | 1 => some .i32 | 2 => some .ui32 | 3 => some .i64 | 4 => some .ui64 | 5 => some .i16x2 | 6 => some .ui16x2
  | _ => none

/-- Code of an integer type. -/
def intTyBits : IntTy → BitVec 3
  | .i32 => 1 | .ui32 => 2 | .i64 => 3 | .ui64 => 4 | .i16x2 => 5 | .ui16x2 => 6

/-- TY of the floating-point class (R43). -/
def fTyOf (n : BitVec 3) : Option FTy :=
  match n.toNat with
  | 0 => some .f32 | 1 => some .f64 | 2 => some .f16x2 | 3 => some .bf16x2 | 4 => some .f16 | 5 => some .bf16
  | _ => none

/-- Code of a floating-point type. -/
def fTyBits : FTy → BitVec 3
  | .f32 => 0 | .f64 => 1 | .f16x2 => 2 | .bf16x2 => 3 | .f16 => 4 | .bf16 => 5

/-- CK (R43). -/
def ckOf (n : BitVec 2) : CKind :=
  match n.toNat with
  | 0 => .vreg | 1 => .kreg | 2 => .immZ | _ => .immS

/-- Code of CK. -/
def ckBits : CKind → BitVec 2
  | .vreg => 0 | .kreg => 1 | .immZ => 2 | .immS => 3

/-- CC of ISET and CMP (R44). -/
def icondOf (n : BitVec 4) : Option ICond :=
  match n.toNat with
  | 0 => some .eq | 1 => some .ne | 2 => some .lt | 3 => some .le | 4 => some .gt | 5 => some .ge
  | _ => none

/-- Code of an integer condition. -/
def icondBits : ICond → BitVec 4
  | .eq => 0 | .ne => 1 | .lt => 2 | .le => 3 | .gt => 4 | .ge => 5

/-- CC of FCMP and FSET (R44). -/
def fcondOf (n : BitVec 4) : Option FCond :=
  match n.toNat with
  | 0 => some .eq | 1 => some .ne | 2 => some .lt | 3 => some .le | 4 => some .gt | 5 => some .ge | 6 => some .ord | 7 => some .uno
  | _ => none

/-- Code of a floating-point condition. -/
def fcondBits : FCond → BitVec 4
  | .eq => 0 | .ne => 1 | .lt => 2 | .le => 3 | .gt => 4 | .ge => 5 | .ord => 6 | .uno => 7

/-- RM of the floating-point class (R43). -/
def rm2Of (n : BitVec 2) : Rm :=
  match n.toNat with
  | 0 => .rne | 1 => .rtz | 2 => .rdn | _ => .rup

/-- RM of the conversion class (R45). -/
def rm3Of (n : BitVec 3) : Option Rm :=
  match n.toNat with
  | 0 => some .rne | 1 => some .rtz | 2 => some .rdn | 3 => some .rup | 4 => some .sr
  | _ => none

/-- Code of a rounding mode. -/
def rm3Bits : Rm → BitVec 3
  | .rne => 0 | .rtz => 1 | .rdn => 2 | .rup => 3 | .sr => 4

/-- Code of a rounding mode of two bits. -/
def rm2Bits (r : Rm) : BitVec 2 := (rm3Bits r).extractLsb' 0 2

/-- TY of FDOT4 (R44). -/
def fp8PairOf (n : BitVec 3) : Option Fp8Pair :=
  match n.toNat with
  | 0 => some .e4e4 | 1 => some .e5e5 | 2 => some .e4e5 | 3 => some .e5e4
  | _ => none

/-- Code of an FP8 pair. -/
def fp8PairBits : Fp8Pair → BitVec 3
  | .e4e4 => 0 | .e5e5 => 1 | .e4e5 => 2 | .e5e4 => 3

/-- DF and SF (R45). -/
def fmtOf (n : BitVec 4) : Option Fmt :=
  match n.toNat with
  | 0 => some .f32 | 1 => some .f64 | 2 => some .f16 | 3 => some .bf16 | 4 => some .e4m3 | 5 => some .e5m2 | 6 => some .n4
  | 8 => some .i8 | 9 => some .ui8 | 10 => some .i16 | 11 => some .ui16 | 12 => some .i32 | 13 => some .ui32 | 14 => some .i64
  | 15 => some .ui64
  | _ => none

/-- Code of a format. -/
def fmtBits : Fmt → BitVec 4
  | .f32 => 0 | .f64 => 1 | .f16 => 2 | .bf16 => 3 | .e4m3 => 4 | .e5m2 => 5 | .n4 => 6 | .i8 => 8 | .ui8 => 9 | .i16 => 10
  | .ui16 => 11 | .i32 => 12 | .ui32 => 13 | .i64 => 14 | .ui64 => 15

/-- TY of the exchange class (R46). -/
def xTyOf (n : BitVec 3) : XTy :=
  match n.toNat with
  | 0 => .b32 | 1 => .i32 | 2 => .ui32 | 3 => .f32 | 4 => .b64 | 5 => .i64 | 6 => .ui64 | _ => .f64

/-- Code of an exchange type. -/
def xTyBits : XTy → BitVec 3
  | .b32 => 0 | .i32 => 1 | .ui32 => 2 | .f32 => 3 | .b64 => 4 | .i64 => 5 | .ui64 => 6 | .f64 => 7

/-- DOM (R4). -/
def domOf (n : BitVec 3) : Option Dom :=
  match n.toNat with
  | 0 => some .bulk | 1 => some .rel | 2 => some .cau | 3 => some .tso | 4 => some .seq
  | _ => none

/-- Code of a domain (R4). -/
def domBits : Dom → BitVec 3
  | .bulk => 0 | .rel => 1 | .cau => 2 | .tso => 3 | .seq => 4

/-- SCOPE (R5). -/
def scopeOf (n : BitVec 3) : Option Scope :=
  match n.toNat with
  | 0 => some .grp | 1 => some .blk | 2 => some .cls | 3 => some .dev | 4 => some .sys
  | _ => none

/-- Code of a scope (R5). -/
def scopeBits : Scope → BitVec 3
  | .grp => 0 | .blk => 1 | .cls => 2 | .dev => 3 | .sys => 4

/-- SIZE (R49). -/
def sizeOf' (n : BitVec 3) : Option Size :=
  match n.toNat with
  | 0 => some .b1 | 1 => some .b2 | 2 => some .b4 | 3 => some .b8 | 4 => some .b16
  | _ => none

/-- Code of a size. -/
def sizeBits : Size → BitVec 3
  | .b1 => 0 | .b2 => 1 | .b4 => 2 | .b8 => 3 | .b16 => 4

/-- ORD (R49). -/
def ordOf (n : BitVec 2) : Ord :=
  match n.toNat with
  | 0 => .none | 1 => .acq | 2 => .rls | _ => .ar

/-- Code of ORD. -/
def ordBits : Ord → BitVec 2
  | .none => 0 | .acq => 1 | .rls => 2 | .ar => 3

/-- Code of an atomic operation (R52). -/
def atOpBits : AtOp → BitVec 4
  | .add => 0 | .smin => 1 | .smax => 2 | .umin => 3 | .umax => 4 | .and => 5 | .or => 6 | .xor => 7 | .exch => 8 | .cas => 9 | .fadd => 10

/-- DIR (R53). -/
def dirOf (n : BitVec 4) : Option Dir :=
  match n.toNat with
  | 0 => some .glbLoc | 1 => some .locGlb | 2 => some .glbWbuf | 3 => some .glbAbuf | 4 => some .abufGlb | 5 => some .zbufGlb
  | 6 => some .locAbuf | 7 => some .abufLoc | 8 => some .peerLoc | 9 => some .locPeer | 10 => some .glbGlb | 11 => some .zbufLoc
  | 12 => some .locWbuf
  | _ => none

/-- Code of a direction. -/
def dirBits : Dir → BitVec 4
  | .glbLoc => 0 | .locGlb => 1 | .glbWbuf => 2 | .glbAbuf => 3 | .abufGlb => 4 | .zbufGlb => 5 | .locAbuf => 6 | .abufLoc => 7
  | .peerLoc => 8 | .locPeer => 9 | .glbGlb => 10 | .zbufLoc => 11 | .locWbuf => 12

/-! ### MOD layouts -/

/-- MOD of the integer class without its low four bits (R43). -/
def intModOf (md : BitVec 15) : Option IntMod :=
  (intTyOf (md.extractLsb' 12 3)).map (fun ty =>
    { ty := ty, sat := md.getLsbD 11, bk := md.getLsbD 10, ck := ckOf (md.extractLsb' 8 2), swa := md.extractLsb' 6 2,
      swb := md.extractLsb' 4 2 })

/-- MOD bits of the integer class. -/
def intModBits (m : IntMod) (cc : BitVec 4) : BitVec 15 :=
  (intTyBits m.ty ++ BitVec.ofBool m.sat ++ BitVec.ofBool m.bk ++ ckBits m.ck ++ m.swa ++ m.swb ++ cc : BitVec 15)

/-- MOD of an integer instruction whose MOD[3:0] is reserved. -/
def intMod0 (md : BitVec 15) : Option IntMod := if md.extractLsb' 0 4 == 0 then intModOf md else none

/-- MOD of the floating-point class with NA, NB and RM (R43). -/
def fpModOf (md : BitVec 15) : Option FpMod :=
  (fTyOf (md.extractLsb' 12 3)).map (fun ty =>
    { ty := ty, sat := md.getLsbD 11, bk := md.getLsbD 10, ck := ckOf (md.extractLsb' 8 2), swa := md.extractLsb' 6 2,
      swb := md.extractLsb' 4 2, na := md.getLsbD 3, nb := md.getLsbD 2, rm := rm2Of (md.extractLsb' 0 2) })

/-- MOD bits of the floating-point class. -/
def fpModBits (m : FpMod) : BitVec 15 :=
  (fTyBits m.ty ++ BitVec.ofBool m.sat ++ BitVec.ofBool m.bk ++ ckBits m.ck ++ m.swa ++ m.swb ++ BitVec.ofBool m.na ++
    BitVec.ofBool m.nb ++ rm2Bits m.rm : BitVec 15)

/-- MOD of FCMP and FSET: MOD[3:0] is CC. -/
def fccModOf (md : BitVec 15) : Option FpMod := fpModOf (md &&& 0x7FF0)

/-- MOD bits of FCMP and FSET. -/
def fccModBits (m : FpMod) (cc : FCond) : BitVec 15 :=
  (fTyBits m.ty ++ BitVec.ofBool m.sat ++ BitVec.ofBool m.bk ++ ckBits m.ck ++ m.swa ++ m.swb ++ fcondBits cc : BitVec 15)

/-- MOD of FDOT4: MOD[14:12] is the FP8 pair; TY reads as f32. -/
def dot4ModOf (md : BitVec 15) : Option FpMod := fpModOf (md &&& 0x0FFF)

/-- MOD bits of FDOT4. -/
def dot4ModBits (m : FpMod) (p : Fp8Pair) : BitVec 15 :=
  (fp8PairBits p ++ BitVec.ofBool m.sat ++ BitVec.ofBool m.bk ++ ckBits m.ck ++ m.swa ++ m.swb ++ BitVec.ofBool m.na ++
    BitVec.ofBool m.nb ++ rm2Bits m.rm : BitVec 15)

/-- MOD of the conversion class (R45). -/
def cvModOf (md : BitVec 15) : Option CvMod :=
  match fmtOf (md.extractLsb' 11 4), fmtOf (md.extractLsb' 7 4), rm3Of (md.extractLsb' 4 3) with
  | some df, some sf, some rm =>
    some { df := df, sf := sf, rm := rm, sat := md.getLsbD 3, bs := md.extractLsb' 1 2, auto := md.getLsbD 0 }
  | _, _, _ => none

/-- MOD bits of the conversion class. -/
def cvModBits (m : CvMod) : BitVec 15 :=
  (fmtBits m.df ++ fmtBits m.sf ++ rm3Bits m.rm ++ BitVec.ofBool m.sat ++ m.bs ++ BitVec.ofBool m.auto : BitVec 15)

/-- MOD of the exchange class (R46). -/
def xModOf (md : BitVec 15) : Option XMod :=
  if md.extractLsb' 0 4 == 0 then
    some { opk := md.extractLsb' 12 3, ty := xTyOf (md.extractLsb' 9 3), bk := md.getLsbD 8, seg := md.extractLsb' 5 3, inc := md.getLsbD 4 }
  else none

/-- MOD bits of the exchange class. -/
def xModBits (m : XMod) : BitVec 15 :=
  (m.opk ++ xTyBits m.ty ++ BitVec.ofBool m.bk ++ m.seg ++ BitVec.ofBool m.inc ++ (0 : BitVec 4) : BitVec 15)

/-- MOD of BARA, BARW and BARS (R48). -/
def barModOf (md : BitVec 15) : Option BarMod :=
  if md.extractLsb' 6 9 == 0 then some { cnt := md.getLsbD 5, cl := md.getLsbD 4, n := md.extractLsb' 0 4 } else none

/-- MOD bits of the barrier instructions. -/
def barModBits (m : BarMod) : BitVec 15 := ((0 : BitVec 9) ++ BitVec.ofBool m.cnt ++ BitVec.ofBool m.cl ++ m.n : BitVec 15)

/-- MOD of the memory class (R49). -/
def memModOf (md : BitVec 15) : Option MemMod :=
  match domOf (md.extractLsb' 12 3), scopeOf (md.extractLsb' 9 3), sizeOf' (md.extractLsb' 6 3) with
  | some dm, some sc, some sz =>
    some { dom := dm, sc := sc, size := sz, ord := ordOf (md.extractLsb' 4 2), rp := md.extractLsb' 1 3, na := md.getLsbD 0 }
  | _, _, _ => none

/-- MOD bits of the memory class. -/
def memModBits (m : MemMod) : BitVec 15 :=
  (domBits m.dom ++ scopeBits m.sc ++ sizeBits m.size ++ ordBits m.ord ++ m.rp ++ BitVec.ofBool m.na : BitVec 15)

/-- MOD of GLD and GST (R51). -/
def gatModOf (md : BitVec 15) : Option GatMod :=
  match domOf (md.extractLsb' 12 3), scopeOf (md.extractLsb' 9 3), sizeOf' (md.extractLsb' 6 3) with
  | some dm, some sc, some sz =>
    some { dom := dm, sc := sc, size := sz, iw := md.getLsbD 5, sx := md.getLsbD 4, scl := md.extractLsb' 1 3, na := md.getLsbD 0 }
  | _, _, _ => none

/-- MOD bits of GLD and GST. -/
def gatModBits (m : GatMod) : BitVec 15 :=
  (domBits m.dom ++ scopeBits m.sc ++ sizeBits m.size ++ BitVec.ofBool m.iw ++ BitVec.ofBool m.sx ++ m.scl ++ BitVec.ofBool m.na : BitVec 15)

/-- MOD of BT and BTG (R53). -/
def btModOf (md : BitVec 15) : Option BtMod :=
  match domOf (md.extractLsb' 12 3), scopeOf (md.extractLsb' 9 3), dirOf (md.extractLsb' 5 4) with
  | some dm, some sc, some dr =>
    if md.getLsbD 0 then none else some { dom := dm, sc := sc, dir := dr, g := md.getLsbD 4, slot := md.extractLsb' 1 3 }
  | _, _, _ => none

/-- MOD bits of BT and BTG. -/
def btModBits (m : BtMod) : BitVec 15 :=
  (domBits m.dom ++ scopeBits m.sc ++ dirBits m.dir ++ BitVec.ofBool m.g ++ m.slot ++ (0 : BitVec 1) : BitVec 15)

/-- MOD of MMA (R54). -/
def mmaModOf (md : BitVec 15) : Option MmaMod :=
  if md.extractLsb' 5 4 == 0 && !md.getLsbD 0 then
    some { fmt := md.extractLsb' 11 4, pr := md.getLsbD 10, zi := md.getLsbD 9, g := md.getLsbD 4, slot := md.extractLsb' 1 3 }
  else none

/-- MOD bits of MMA. -/
def mmaModBits (m : MmaMod) : BitVec 15 :=
  (m.fmt ++ BitVec.ofBool m.pr ++ BitVec.ofBool m.zi ++ (0 : BitVec 4) ++ BitVec.ofBool m.g ++ m.slot ++ (0 : BitVec 1) : BitVec 15)

/-- MOD of the remote instructions: SCOPE is sys (R55, R264). -/
def fabModOf (md : BitVec 15) : Option FabMod :=
  match domOf (md.extractLsb' 12 3), sizeOf' (md.extractLsb' 6 3), atOpOf (md.extractLsb' 0 4).toNat with
  | some dm, some sz, some op =>
    if md.extractLsb' 9 3 == 4 then some { dom := dm, size := sz, ord := ordOf (md.extractLsb' 4 2), op := op } else none
  | _, _, _ => none

/-- MOD bits of the remote instructions. -/
def fabModBits (m : FabMod) : BitVec 15 :=
  (domBits m.dom ++ (4 : BitVec 3) ++ sizeBits m.size ++ ordBits m.ord ++ atOpBits m.op : BitVec 15)

/-- `i` when MOD is zero. -/
def bare (md : BitVec 15) (i : Instr) : Option Instr := if md == 0 then some i else none

/-! ### Opcode map (R41) -/

/-- Opcodes that take an X-word (R40). -/
def takesX (op : Nat) : Bool := op == 0x1F || op == 0x61 || op == 0x65 || op == 0xD0 || op == 0xD4

/-- OP 0x00 to 0x1F. -/
def decInt (op : Nat) (h : Hdr) (md : BitVec 15) (x : Word) : Option Instr :=
  match op with
  | 0x00 => (intMod0 md).map (Instr.add h)
  | 0x01 => (intMod0 md).map (Instr.sub h)
  | 0x02 => (intMod0 md).map (Instr.min h)
  | 0x03 => (intMod0 md).map (Instr.max h)
  | 0x04 => (intMod0 md).map (Instr.abs h)
  | 0x05 => (intMod0 md).map (Instr.mul h)
  | 0x06 => (intMod0 md).map (Instr.mulh h)
  | 0x07 => (intMod0 md).map (Instr.mad h)
  | 0x08 => (intMod0 md).map (Instr.divu h)
  | 0x09 => (intMod0 md).map (Instr.divs h)
  | 0x0A => (intMod0 md).map (Instr.remu h)
  | 0x0B => (intMod0 md).map (Instr.rems h)
  | 0x0C => (intMod0 md).map (Instr.and h)
  | 0x0D => (intMod0 md).map (Instr.or h)
  | 0x0E => (intMod0 md).map (Instr.xor h)
  | 0x0F => if md.extractLsb' 0 4 == 0 && md.extractLsb' 12 3 == 0 then some (.blut h (md.extractLsb' 4 8)) else none
  | 0x10 => (intMod0 md).map (Instr.shl h)
  | 0x11 => (intMod0 md).map (Instr.shr h)
  | 0x12 => (intMod0 md).map (Instr.sar h)
  | 0x13 => (intMod0 md).map (Instr.fsh h)
  | 0x14 => (intMod0 md).map (Instr.bfx h)
  | 0x15 => (intMod0 md).map (Instr.bfi h)
  | 0x16 => (intMod0 md).map (Instr.popc h)
  | 0x17 => (intMod0 md).map (Instr.clz h)
  | 0x18 => (intMod0 md).map (Instr.ctz h)
  | 0x19 => (intMod0 md).map (Instr.brev h)
  | 0x1A => (intMod0 md).map (Instr.sel h)
  | 0x1B => (intModOf md).bind (fun m => (icondOf (md.extractLsb' 0 4)).map (Instr.iset h m))
  | 0x1C => (intModOf md).bind (fun m => (icondOf (md.extractLsb' 0 4)).map (Instr.cmp h m))
  | 0x1D => (intMod0 md).map (Instr.lea h)
  | 0x1E => (intMod0 md).map (Instr.mov h)
  | 0x1F => if md.extractLsb' 1 14 == 0 then some (.movi h (md.getLsbD 0) x) else none
  | _ => none

/-- OP 0x20 to 0x33. -/
def decFp (op : Nat) (h : Hdr) (md : BitVec 15) : Option Instr :=
  match op with
  | 0x20 => (fpModOf md).map (Instr.fadd h)
  | 0x21 => (fpModOf md).map (Instr.fmul h)
  | 0x22 => (fpModOf md).map (Instr.ffma h)
  | 0x23 => (fpModOf md).map (Instr.fmin h)
  | 0x24 => (fpModOf md).map (Instr.fmax h)
  | 0x25 => (fccModOf md).bind (fun m => (fcondOf (md.extractLsb' 0 4)).map (Instr.fcmp h m))
  | 0x26 => (fccModOf md).bind (fun m => (fcondOf (md.extractLsb' 0 4)).map (Instr.fset h m))
  | 0x27 => (fpModOf md).map (Instr.frcp h)
  | 0x28 => (fpModOf md).map (Instr.frsq h)
  | 0x29 => (fpModOf md).map (Instr.fsqrt h)
  | 0x2A => (fpModOf md).map (Instr.fdiv h)
  | 0x2B => (fpModOf md).map (Instr.fexp2 h)
  | 0x2C => (fpModOf md).map (Instr.flog2 h)
  | 0x2D => (fpModOf md).map (Instr.fsin h)
  | 0x2E => (fpModOf md).map (Instr.fcos h)
  | 0x2F => (fpModOf md).map (Instr.frnd h)
  | 0x30 => (fpModOf md).map (Instr.fclass h)
  | 0x31 => (fpModOf md).map (Instr.fscale h)
  | 0x32 => (fpModOf md).map (Instr.fdot2 h)
  | 0x33 => (dot4ModOf md).bind (fun m => (fp8PairOf (md.extractLsb' 12 3)).map (Instr.fdot4 h m))
  | _ => none

/-- OP 0x40 to 0x56. -/
def decCv (op : Nat) (h : Hdr) (md : BitVec 15) : Option Instr :=
  match op with
  | 0x40 => (cvModOf md).map (Instr.cvt h)
  | 0x41 => (cvModOf md).map (Instr.pack h)
  | 0x42 => (cvModOf md).map (Instr.unpack h)
  | 0x43 => (cvModOf md).map (Instr.amax h)
  | 0x44 => (cvModOf md).map (Instr.qscale h)
  | 0x45 => (cvModOf md).map (Instr.quant h)
  | 0x46 => (cvModOf md).map (Instr.deq h)
  | 0x47 => bare md (.sround h)
  | 0x48 => if md.extractLsb' 10 5 == 0 && md.extractLsb' 0 8 == 0 then some (.prmt h (ckOf (md.extractLsb' 8 2))) else none
  | 0x50 => (xModOf md).map (Instr.shfl h)
  | 0x51 => (xModOf md).map (Instr.qxch h)
  | 0x52 => (xModOf md).map (Instr.qbcast h)
  | 0x53 => (xModOf md).map (Instr.vote h)
  | 0x54 => (xModOf md).map (Instr.matchLanes h)
  | 0x55 => (xModOf md).map (Instr.redux h)
  | 0x56 => (xModOf md).map (Instr.scan h)
  | _ => none

/-- OP 0x60 to 0x7B. -/
def decCtl (op : Nat) (h : Hdr) (md : BitVec 15) (x : Word) : Option Instr :=
  match op with
  | 0x60 => some (.bra h md)
  | 0x61 => bare md (.braFar h x)
  | 0x62 => if md.extractLsb' 0 5 == 0 then some (.brx h (md.extractLsb' 5 10)) else none
  | 0x63 => bare md (.join h)
  | 0x64 => some (.call h md)
  | 0x65 => bare md (.callFar h x)
  | 0x66 => bare md (.ret h)
  | 0x67 => bare md (.jmpi h)
  | 0x68 => bare md (.exit h)
  | 0x69 => bare md (.recall h)
  | 0x70 => (barModOf md).map (Instr.bara h)
  | 0x71 => (barModOf md).map (Instr.barw h)
  | 0x72 => (barModOf md).map (Instr.bars h)
  | 0x73 => bare md (.tbinit h)
  | 0x74 => bare md (.tbarr h)
  | 0x75 => bare md (.tbexp h)
  | 0x76 => bare md (.tbwait h)
  | 0x77 => bare md (.tbtest h)
  | 0x78 => (memModOf md).map (Instr.waitv h)
  | 0x79 =>
    if md.extractLsb' 0 8 == 0 then
      (domOf (md.extractLsb' 12 3)).bind (fun d => (scopeOf (md.extractLsb' 9 3)).map (fun sc => Instr.fence h d sc (md.getLsbD 8)))
    else none
  | 0x7A =>
    if md.extractLsb' 0 6 == 0 then
      (domOf (md.extractLsb' 12 3)).bind (fun d1 => (scopeOf (md.extractLsb' 9 3)).bind (fun sc =>
        (domOf (md.extractLsb' 6 3)).map (fun d2 => Instr.brg h d1 sc d2)))
    else none
  | 0x7B => bare md (.gset h)
  | _ => none

/-- OP 0x80 to 0x9B. -/
def decMem (op : Nat) (h : Hdr) (md : BitVec 15) : Option Instr :=
  match op with
  | 0x80 => (memModOf md).map (Instr.ldGlb h)
  | 0x81 => (memModOf md).map (Instr.ldLoc h)
  | 0x82 => (memModOf md).map (Instr.ldNbr h)
  | 0x83 => (memModOf md).map (Instr.ldAbuf h)
  | 0x84 => (memModOf md).map (Instr.ldZbuf h)
  | 0x85 => (memModOf md).map (Instr.stGlb h)
  | 0x86 => (memModOf md).map (Instr.stLoc h)
  | 0x87 => (memModOf md).map (Instr.stNbr h)
  | 0x88 => (memModOf md).map (Instr.stAbuf h)
  | 0x89 => (memModOf md).map (Instr.stZbuf h)
  | 0x8A => (gatModOf md).map (Instr.gldGlb h)
  | 0x8B => (gatModOf md).map (Instr.gldLoc h)
  | 0x8C => (gatModOf md).map (Instr.gstGlb h)
  | 0x8D => (gatModOf md).map (Instr.gstLoc h)
  | 0x8E => (memModOf md).map (Instr.atomGlb h)
  | 0x8F => (memModOf md).map (Instr.atomLoc h)
  | 0x90 => (memModOf md).map (Instr.redGlb h)
  | 0x91 => (memModOf md).map (Instr.redLoc h)
  | 0x92 => (memModOf md).map (Instr.lr h)
  | 0x93 => (memModOf md).map (Instr.sc h)
  | 0x94 => (memModOf md).map (Instr.mxldGlb h)
  | 0x95 => (memModOf md).map (Instr.mxstGlb h)
  | 0x96 => (memModOf md).map (Instr.mxldLoc h)
  | 0x97 => (memModOf md).map (Instr.mxstLoc h)
  | 0x98 => (memModOf md).map (Instr.probe h)
  | 0x99 => (memModOf md).map (Instr.pgin h)
  | 0x9A => (memModOf md).map (Instr.pfch h)
  | 0x9B => (memModOf md).map (Instr.wbinv h)
  | _ => none

/-- OP 0xA0 to 0xC6. -/
def decEng (op : Nat) (h : Hdr) (md : BitVec 15) : Option Instr :=
  match op with
  | 0xA0 => (btModOf md).map (Instr.bt h)
  | 0xA1 => (btModOf md).map (Instr.btg h)
  | 0xA2 => bare md (.tile h)
  | 0xA3 => bare md (.tileq h)
  | 0xA4 => if md.extractLsb' 3 12 == 0 then some (.objdcl h (md.extractLsb' 0 3)) else none
  | 0xA5 => bare md (.objrel h)
  | 0xB0 => (mmaModOf md).map (Instr.mmaF16 h)
  | 0xB1 => (mmaModOf md).map (Instr.mmaF8 h)
  | 0xB2 => (mmaModOf md).map (Instr.mmaI8 h)
  | 0xB3 => (mmaModOf md).map (Instr.mmaN4 h)
  | 0xB4 => (mmaModOf md).map (Instr.mmaMx8 h)
  | 0xB5 => bare md (.mzero h)
  | 0xB6 => bare md (.mrdy h)
  | 0xB7 => bare md (.mbatch h)
  | 0xB8 => bare md (.mwait h)
  | 0xB9 => if md.extractLsb' 0 11 == 0 then (fmtOf (md.extractLsb' 11 4)).map (Instr.mqnt h) else none
  | 0xC0 => (fabModOf md).map (Instr.rmld h)
  | 0xC1 => (fabModOf md).map (Instr.rmst h)
  | 0xC2 => (fabModOf md).map (Instr.rmat h)
  | 0xC3 => (fabModOf md).map (Instr.xch h)
  | 0xC4 => (fabModOf md).map (Instr.xexp h)
  | 0xC5 =>
    if md.extractLsb' 0 9 == 0 && md.extractLsb' 9 3 == 4 then (domOf (md.extractLsb' 12 3)).map (Instr.rfence h) else none
  | 0xC6 => bare md (.slotq h)
  | _ => none

/-- OP 0xD0 to 0xE7. -/
def decSys (op : Nat) (h : Hdr) (md : BitVec 15) (x : Word) : Option Instr :=
  match op with
  | 0xD0 => bare md (.launch h x)
  | 0xD1 => bare md (.trig h)
  | 0xD2 => bare md (.yield h)
  | 0xD3 => bare md (.sleep h)
  | 0xD4 => bare md (.stepb h x)
  | 0xD5 => bare md (.stepe h)
  | 0xE0 => bare md (.nop h)
  | 0xE1 => if md.extractLsb' 12 3 == 0 then some (.svc h (md.extractLsb' 0 12)) else none
  | 0xE2 => if md.extractLsb' 8 7 == 0 then some (.brk h (md.extractLsb' 0 8)) else none
  | 0xE3 => bare md (.tret h)
  | 0xE4 => bare md (.sysrd h)
  | 0xE5 => bare md (.syswr h)
  | 0xE6 => bare md (.ptload h)
  | 0xE7 =>
    match md.toNat with
    | 0 => some (.ctxctlCreate h)
    | 1 => some (.ctxctlDestroy h)
    | 2 => some (.ctxctlTenant h)
    | 3 => some (.ctxctlQueue h)
    | 4 => some (.ctxctlWindow h)
    | 5 => some (.ctxctlExpasg h)
    | 6 => some (.ctxctlExpwr h)
    | 7 => some (.ctxctlTlbinv h)
    | 8 => some (.ctxctlPopdone h)
    | _ => none
  | _ => none

/-- The instruction of a word and its X-word, before the checks of `WellFormed`. -/
def fieldsOf (w x : Word) : Option Instr :=
  let r := rawOf w
  let op := r.op.toNat
  if unallocated w then some (.unallocatedOpcode w)
  else if op < 0x20 then decInt op r.hdr r.md x
  else if op < 0x40 then decFp op r.hdr r.md
  else if op < 0x60 then decCv op r.hdr r.md
  else if op < 0x80 then decCtl op r.hdr r.md x
  else if op < 0xA0 then decMem op r.hdr r.md
  else if op < 0xD0 then decEng op r.hdr r.md
  else decSys op r.hdr r.md x

/-- The instruction of a word and its X-word, checked. -/
def decodeWord (w x : Word) : Except DecodeErr Instr :=
  match fieldsOf w x with
  | none => .error (.reservedField (rawOf w).op.toNat)
  | some i => if WellFormed i then .ok i else .error (.illFormed (rawOf w).op.toNat)

/-- Reads one instruction from a list of words and gives the words after it. -/
def decodeWords (ws : List Word) : Except DecodeErr (Instr × List Word) :=
  match ws with
  | [] => .error .noWord
  | w :: rest =>
    if takesX (rawOf w).op.toNat then
      match rest with
      | [] => .error (.noExtension (rawOf w).op.toNat)
      | x :: rest' => (decodeWord w x).map (fun i => (i, rest'))
    else (decodeWord w 0).map (fun i => (i, rest))

/-- The little-endian word at the front of a byte list (R6, R33). -/
def wordOfBytes (bs : List Byte) : Word := BitVec.ofNat 64 (fromBytes (bs.take 8))

/-- Reads one instruction from bytes in memory order: total on any bytes. -/
def decodeBytes (bs : List Byte) : Except DecodeErr Instr :=
  if bs.length < 8 then .error .noWord
  else
    let w := wordOfBytes bs
    if takesX (rawOf w).op.toNat then
      if bs.length < 16 then .error (.noExtension (rawOf w).op.toNat) else decodeWord w (wordOfBytes (bs.drop 8))
    else decodeWord w 0

/-- The bytes of an instruction whose bits are `w`: its first word and, above it, its X-word. -/
def tableBytes (nbits w : Nat) : List Byte := toBytes 16 (w % 2 ^ (min nbits 128))

/-- The instruction the decoder reads from an instruction whose bits are `w`. -/
def decodeTableWord (nbits w : Nat) : Option Instr :=
  match decodeBytes (tableBytes nbits w) with
  | .ok i => some i
  | .error _ => none

/-! ### The encoder -/

/-- An integer instruction with reserved MOD[3:0]. -/
def encInt (op : BitVec 8) (h : Hdr) (m : IntMod) : List Word := [wordOf h op (intModBits m 0)]

/-- A floating-point instruction. -/
def encFp (op : BitVec 8) (h : Hdr) (m : FpMod) : List Word := [wordOf h op (fpModBits m)]

/-- A conversion instruction. -/
def encCv (op : BitVec 8) (h : Hdr) (m : CvMod) : List Word := [wordOf h op (cvModBits m)]

/-- An exchange instruction. -/
def encX (op : BitVec 8) (h : Hdr) (m : XMod) : List Word := [wordOf h op (xModBits m)]

/-- A memory instruction. -/
def encMem (op : BitVec 8) (h : Hdr) (m : MemMod) : List Word := [wordOf h op (memModBits m)]

/-- The words of an instruction, from the tables of spec/02_encoding.md. Events have none. -/
def encode (i : Instr) : List Word :=
  match i with
  | .add h m => encInt 0x00 h m
  | .sub h m => encInt 0x01 h m
  | .min h m => encInt 0x02 h m
  | .max h m => encInt 0x03 h m
  | .abs h m => encInt 0x04 h m
  | .mul h m => encInt 0x05 h m
  | .mulh h m => encInt 0x06 h m
  | .mad h m => encInt 0x07 h m
  | .divu h m => encInt 0x08 h m
  | .divs h m => encInt 0x09 h m
  | .remu h m => encInt 0x0A h m
  | .rems h m => encInt 0x0B h m
  | .and h m => encInt 0x0C h m
  | .or h m => encInt 0x0D h m
  | .xor h m => encInt 0x0E h m
  | .blut h tt => [wordOf h 0x0F ((0 : BitVec 3) ++ tt ++ (0 : BitVec 4) : BitVec 15)]
  | .shl h m => encInt 0x10 h m
  | .shr h m => encInt 0x11 h m
  | .sar h m => encInt 0x12 h m
  | .fsh h m => encInt 0x13 h m
  | .bfx h m => encInt 0x14 h m
  | .bfi h m => encInt 0x15 h m
  | .popc h m => encInt 0x16 h m
  | .clz h m => encInt 0x17 h m
  | .ctz h m => encInt 0x18 h m
  | .brev h m => encInt 0x19 h m
  | .sel h m => encInt 0x1A h m
  | .iset h m cc => [wordOf h 0x1B (intModBits m (icondBits cc))]
  | .cmp h m cc => [wordOf h 0x1C (intModBits m (icondBits cc))]
  | .lea h m => encInt 0x1D h m
  | .mov h m => encInt 0x1E h m
  | .movi h w x => [wordOf h 0x1F ((0 : BitVec 14) ++ BitVec.ofBool w : BitVec 15), x]
  | .fadd h m => encFp 0x20 h m
  | .fmul h m => encFp 0x21 h m
  | .ffma h m => encFp 0x22 h m
  | .fmin h m => encFp 0x23 h m
  | .fmax h m => encFp 0x24 h m
  | .fcmp h m cc => [wordOf h 0x25 (fccModBits m cc)]
  | .fset h m cc => [wordOf h 0x26 (fccModBits m cc)]
  | .frcp h m => encFp 0x27 h m
  | .frsq h m => encFp 0x28 h m
  | .fsqrt h m => encFp 0x29 h m
  | .fdiv h m => encFp 0x2A h m
  | .fexp2 h m => encFp 0x2B h m
  | .flog2 h m => encFp 0x2C h m
  | .fsin h m => encFp 0x2D h m
  | .fcos h m => encFp 0x2E h m
  | .frnd h m => encFp 0x2F h m
  | .fclass h m => encFp 0x30 h m
  | .fscale h m => encFp 0x31 h m
  | .fdot2 h m => encFp 0x32 h m
  | .fdot4 h m p => [wordOf h 0x33 (dot4ModBits m p)]
  | .cvt h m => encCv 0x40 h m
  | .pack h m => encCv 0x41 h m
  | .unpack h m => encCv 0x42 h m
  | .amax h m => encCv 0x43 h m
  | .qscale h m => encCv 0x44 h m
  | .quant h m => encCv 0x45 h m
  | .deq h m => encCv 0x46 h m
  | .sround h => [wordOf h 0x47 0]
  | .prmt h ck => [wordOf h 0x48 ((0 : BitVec 5) ++ ckBits ck ++ (0 : BitVec 8) : BitVec 15)]
  | .shfl h m => encX 0x50 h m
  | .qxch h m => encX 0x51 h m
  | .qbcast h m => encX 0x52 h m
  | .vote h m => encX 0x53 h m
  | .matchLanes h m => encX 0x54 h m
  | .redux h m => encX 0x55 h m
  | .scan h m => encX 0x56 h m
  | .bra h lo => [wordOf h 0x60 lo]
  | .braFar h x => [wordOf h 0x61 0, x]
  | .brx h live => [wordOf h 0x62 (live ++ (0 : BitVec 5) : BitVec 15)]
  | .join h => [wordOf h 0x63 0]
  | .call h lo => [wordOf h 0x64 lo]
  | .callFar h x => [wordOf h 0x65 0, x]
  | .ret h => [wordOf h 0x66 0]
  | .jmpi h => [wordOf h 0x67 0]
  | .exit h => [wordOf h 0x68 0]
  | .recall h => [wordOf h 0x69 0]
  | .bara h m => [wordOf h 0x70 (barModBits m)]
  | .barw h m => [wordOf h 0x71 (barModBits m)]
  | .bars h m => [wordOf h 0x72 (barModBits m)]
  | .tbinit h => [wordOf h 0x73 0]
  | .tbarr h => [wordOf h 0x74 0]
  | .tbexp h => [wordOf h 0x75 0]
  | .tbwait h => [wordOf h 0x76 0]
  | .tbtest h => [wordOf h 0x77 0]
  | .waitv h m => encMem 0x78 h m
  | .fence h d sc all => [wordOf h 0x79 (domBits d ++ scopeBits sc ++ BitVec.ofBool all ++ (0 : BitVec 8) : BitVec 15)]
  | .brg h d1 sc d2 => [wordOf h 0x7A (domBits d1 ++ scopeBits sc ++ domBits d2 ++ (0 : BitVec 6) : BitVec 15)]
  | .gset h => [wordOf h 0x7B 0]
  | .ldGlb h m => encMem 0x80 h m
  | .ldLoc h m => encMem 0x81 h m
  | .ldNbr h m => encMem 0x82 h m
  | .ldAbuf h m => encMem 0x83 h m
  | .ldZbuf h m => encMem 0x84 h m
  | .stGlb h m => encMem 0x85 h m
  | .stLoc h m => encMem 0x86 h m
  | .stNbr h m => encMem 0x87 h m
  | .stAbuf h m => encMem 0x88 h m
  | .stZbuf h m => encMem 0x89 h m
  | .gldGlb h m => [wordOf h 0x8A (gatModBits m)]
  | .gldLoc h m => [wordOf h 0x8B (gatModBits m)]
  | .gstGlb h m => [wordOf h 0x8C (gatModBits m)]
  | .gstLoc h m => [wordOf h 0x8D (gatModBits m)]
  | .atomGlb h m => encMem 0x8E h m
  | .atomLoc h m => encMem 0x8F h m
  | .redGlb h m => encMem 0x90 h m
  | .redLoc h m => encMem 0x91 h m
  | .lr h m => encMem 0x92 h m
  | .sc h m => encMem 0x93 h m
  | .mxldGlb h m => encMem 0x94 h m
  | .mxstGlb h m => encMem 0x95 h m
  | .mxldLoc h m => encMem 0x96 h m
  | .mxstLoc h m => encMem 0x97 h m
  | .probe h m => encMem 0x98 h m
  | .pgin h m => encMem 0x99 h m
  | .pfch h m => encMem 0x9A h m
  | .wbinv h m => encMem 0x9B h m
  | .bt h m => [wordOf h 0xA0 (btModBits m)]
  | .btg h m => [wordOf h 0xA1 (btModBits m)]
  | .tile h => [wordOf h 0xA2 0]
  | .tileq h => [wordOf h 0xA3 0]
  | .objdcl h slot => [wordOf h 0xA4 ((0 : BitVec 12) ++ slot : BitVec 15)]
  | .objrel h => [wordOf h 0xA5 0]
  | .mmaF16 h m => [wordOf h 0xB0 (mmaModBits m)]
  | .mmaF8 h m => [wordOf h 0xB1 (mmaModBits m)]
  | .mmaI8 h m => [wordOf h 0xB2 (mmaModBits m)]
  | .mmaN4 h m => [wordOf h 0xB3 (mmaModBits m)]
  | .mmaMx8 h m => [wordOf h 0xB4 (mmaModBits m)]
  | .mzero h => [wordOf h 0xB5 0]
  | .mrdy h => [wordOf h 0xB6 0]
  | .mbatch h => [wordOf h 0xB7 0]
  | .mwait h => [wordOf h 0xB8 0]
  | .mqnt h df => [wordOf h 0xB9 (fmtBits df ++ (0 : BitVec 11) : BitVec 15)]
  | .rmld h m => [wordOf h 0xC0 (fabModBits m)]
  | .rmst h m => [wordOf h 0xC1 (fabModBits m)]
  | .rmat h m => [wordOf h 0xC2 (fabModBits m)]
  | .xch h m => [wordOf h 0xC3 (fabModBits m)]
  | .xexp h m => [wordOf h 0xC4 (fabModBits m)]
  | .rfence h d => [wordOf h 0xC5 (domBits d ++ (4 : BitVec 3) ++ (0 : BitVec 9) : BitVec 15)]
  | .slotq h => [wordOf h 0xC6 0]
  | .launch h x => [wordOf h 0xD0 0, x]
  | .trig h => [wordOf h 0xD1 0]
  | .yield h => [wordOf h 0xD2 0]
  | .sleep h => [wordOf h 0xD3 0]
  | .stepb h x => [wordOf h 0xD4 0, x]
  | .stepe h => [wordOf h 0xD5 0]
  | .nop h => [wordOf h 0xE0 0]
  | .svc h n => [wordOf h 0xE1 ((0 : BitVec 3) ++ n : BitVec 15)]
  | .brk h c => [wordOf h 0xE2 ((0 : BitVec 7) ++ c : BitVec 15)]
  | .tret h => [wordOf h 0xE3 0]
  | .sysrd h => [wordOf h 0xE4 0]
  | .syswr h => [wordOf h 0xE5 0]
  | .ptload h => [wordOf h 0xE6 0]
  | .ctxctlCreate h => [wordOf h 0xE7 0]
  | .ctxctlDestroy h => [wordOf h 0xE7 1]
  | .ctxctlTenant h => [wordOf h 0xE7 2]
  | .ctxctlQueue h => [wordOf h 0xE7 3]
  | .ctxctlWindow h => [wordOf h 0xE7 4]
  | .ctxctlExpasg h => [wordOf h 0xE7 5]
  | .ctxctlExpwr h => [wordOf h 0xE7 6]
  | .ctxctlTlbinv h => [wordOf h 0xE7 7]
  | .ctxctlPopdone h => [wordOf h 0xE7 8]
  | .unallocatedOpcode w => [w]
  | .longLatencyWriteback .. | .storeAcknowledgement .. | .bulkCombiningTimeout .. | .sivLineAgeOut ..
  | .barrierArrivalApply .. | .tbarrApply .. | .trigCountApply .. | .waitvReevaluation .. | .btCommandStart ..
  | .btRowWrite .. | .matrixCommandStart .. | .matrixCommandComplete .. | .scrupleThreadStart ..
  | .laneReturnComplete .. | .laneRecallComplete .. | .rejoinTimeout .. | .fairnessRotation ..
  | .hangWatchdogExpiry .. | .starvationTimeout .. | .contextSwitch .. | .sleepWake .. | .yieldEnd ..
  | .mappingQuantumEnd .. | .queueSlotMap .. | .gridLaunch .. | .timesliceQuantumEnd .. | .blockPlace ..
  | .preempt .. | .blockResume .. | .granuleStreamOperation .. | .parkedGroupReload .. | .heldTrapDelivery ..
  | .asyncTrapDelivery .. | .serviceRingEntryWrite .. | .sdoor .. | .qdoor .. | .populationRequestWrite ..
  | .validatorComplete .. | .chainWalkComplete .. | .pcSample .. | .sweeperStep .. | .ageingRefresh .. | .gets ..
  | .getx .. | .upg .. | .puts .. | .putx .. | .wt .. | .atomh .. | .ntwb .. | .invalidationAck .. | .dataS ..
  | .dataSw .. | .dataE .. | .ack .. | .wtack .. | .atomr .. | .inv .. | .update .. | .fwdGets .. | .fwdGetx ..
  | .fabricScheduleLoad .. | .slotStart .. | .fibreStop .. | .fibreFlitSend .. | .loadRequest .. | .flitStore ..
  | .flitAtomic .. | .flitPut .. | .blockTransferReadRequest .. | .blockTransferWrite .. | .dataResponse ..
  | .endToEndAcknowledgement .. | .errorResponse .. | .pull .. | .resend .. | .idleFlit .. | .remoteAnswerTimeout ..
  | .interimAnswerRepeat .. | .remotePassSend .. | .hostPostedWrite .. | .priResponse .. | .atsInvalidation ..
  | .tdispLeaveRun .. | .keyInstall .. | .spdmMeasurement .. | .uncorrectableError .. | .correctableError ..
  | .memoryPoison .. | .coldReset .. | .warmReset .. | .vfFunctionLevelReset .. | .bootStageComplete ..
  | .linkTrainRetry .. | .pcieLinkDown .. | .pcieLinkUp .. | .vbulkLoss .. | .thermalThrottle .. | .thermalTrip ..
  | .plimWrite .. | .swctlWrite .. | .firmwareImageDelivery .. | .registerWrite .. | .attach .. | .detach ..
  | .halt .. | .resume .. | .step .. | .focus .. | .unfocus .. | .catchup .. | .read .. | .write .. | .setbp ..
  | .setwp .. | .tdispInterfaceRun .. | .thermalThrottleEnd .. | .ucieRetry .. | .configurationRequest .. => []

end Sys2Proof
end

