-- ==== Sys2Proof/Machine/Table.lean ====
section
/-! DEFINITION. Finite maps as plain data: association lists in one canonical form, keys strictly rising.
`Sparse w` drops entries equal to what an unlisted key reads as (0), so equal maps are equal lists. -/

namespace Sys2Proof.Machine

/-- A map from numbers to `w`-bit values; an unlisted key reads 0. -/
abbrev Sparse (w : Nat) := List (Nat × BitVec w)

/-- A map from numbers to records; an unlisted key holds nothing. -/
abbrev Table (α : Type) := List (Nat × α)

/-- The value at `k`. -/
def sget {w : Nat} (m : Sparse w) (k : Nat) : BitVec w :=
  match m with
  | [] => 0
  | (j, y) :: t => if j = k then y else sget t k

/-- Puts a value at `k`, before the first greater key. -/
def sput {w : Nat} (m : Sparse w) (k : Nat) (x : BitVec w) : Sparse w :=
  match m with
  | [] => [(k, x)]
  | (j, y) :: t =>
    if k < j then (k, x) :: (j, y) :: t
    else if k = j then (k, x) :: t
    else (j, y) :: sput t k x

/-- Writes `x` at `k`, keeping the canonical form: 0 is what an unlisted key reads as, and is not listed. -/
def sset {w : Nat} (m : Sparse w) (k : Nat) (x : BitVec w) : Sparse w :=
  if x = 0 then m.filter (fun e => e.1 != k) else sput m k x

/-- The record at `k`, if any. -/
def tget {α : Type} (m : Table α) (k : Nat) : Option α :=
  match m with
  | [] => none
  | (j, y) :: t => if j = k then some y else tget t k

/-- Writes the record `x` at `k`. -/
def tset {α : Type} (m : Table α) (k : Nat) (x : α) : Table α :=
  match m with
  | [] => [(k, x)]
  | (j, y) :: t =>
    if k < j then (k, x) :: (j, y) :: t
    else if k = j then (k, x) :: t
    else (j, y) :: tset t k x

/-- Removes the record at `k`. -/
def terase {α : Type} (m : Table α) (k : Nat) : Table α := m.filter (fun e => e.1 != k)

/-- The records of a table, by rising key. -/
def tvals {α : Type} (m : Table α) : List α := m.map Prod.snd

/-- Applies `f` to every record. -/
def tmap {α : Type} (f : α → α) (m : Table α) : Table α := m.map (fun e => (e.1, f e.2))

/-- Replaces the element at position `i` of a list. -/
def listSet {α : Type} (l : List α) (i : Nat) (x : α) : List α := l.set i x

/-- Puts an element before the first that it does not follow. -/
def insertBy {α : Type} (le : α → α → Bool) (x : α) (l : List α) : List α :=
  match l with
  | [] => [x]
  | y :: t => if le x y then x :: y :: t else y :: insertBy le x t

/-- A list in order; equals keep their places. -/
def sortBy {α : Type} (le : α → α → Bool) (l : List α) : List α := l.foldr (insertBy le) []

/-- The canonical form of a sparse map: keys strictly rising, no entry equal to 0. -/
def sparseWf {w : Nat} : Sparse w → Bool
  | [] => true
  | (k, x) :: t => x != 0 && (match t with | [] => true | (j, _) :: _ => decide (k < j)) && sparseWf t

end Sys2Proof.Machine
end

