-- ==== Sys2Proof/Machine/State.lean ====
section
/-! DEFINITION. The state of the SK4 as plain data. Each record's docstring cites the rule of spec/ that names it;
INVENTORY.md lists every piece with its width and reset value. -/

namespace Sys2Proof.Machine

open Sys2Proof

/-- Why the machine stops. -/
inductive Fault where
  /-- Raised by an instruction's meaning when no group or ejected lane is executing. Safe. -/
  | noAgent
deriving DecidableEq, Repr

/-- Why an instruction has no meaning. -/
inductive Refusal where
  /-- An instruction not modelled yet. No arm answers with it in the finished model. Safe. -/
  | notModelled (mnemonic : String)
deriving DecidableEq, Repr

/-- The sixteen trap causes (R363). -/
inductive Cause where
  | ill | priv | stream | brkp | watch | align | xlat | perm | floor | nres | svc | guard | hang | soft | batch | remote
deriving DecidableEq, Repr

/-- A record pointer of the Chain (R393): the address of an edge record, and the lap of the edge ring in which it was written, by which a record that
has been overwritten since is told from it (R396). -/
structure Ptr where
  va  : Word
  lap : Nat
deriving DecidableEq, Repr

/-- A noted arrival (R393): the arriver's id, its record pointer, the VTIME. -/
abbrev Note := Nat × Ptr × Nat

/-- One register write: the results of an instruction are a list of these (R94). -/
inductive RegWrite where
  | v (lane n : Nat) (x : Half)
  | k (n : Nat) (x : Word)
  | p (lane n : Nat) (b : Bool)
  | q (n : Nat) (b : Bool)
  | gen (lane : Nat) (x : Half)
deriving DecidableEq, Repr

/-- One lane's remote failure: lane, peer, status (R263, R270). -/
structure RemFail where
  lane   : Nat
  peer   : Nat
  status : Nat
deriving DecidableEq, Repr

/-- An open lookahead window (R38): instructions left, the results to be written, the answers still
awaited and the failures of a remote instruction (R270). -/
structure Pend where
  left   : Nat
  pc     : Word
  iword  : Word
  ecsn   : Word
  writes : List RegWrite
  await  : List Nat
  fails  : List RemFail
  acq    : Option Dom
deriving DecidableEq, Repr

/-- What a fence or bridge left to do (R172, R173): later accesses of `dom` by `lane` (64 for the group) wait until the
stores `ids` are acknowledged, and the dirty SIV lines of `src` reach the visibility point of `sc` before them. -/
structure Gate where
  lane : Nat
  dom  : Dom
  src  : Dom
  sc   : Scope
  ids  : List Nat
deriving DecidableEq, Repr

/-- An LR reservation (R220). -/
structure Resv where
  lane : Nat
  va   : Word
  size : Size
  sec  : Nat
deriving DecidableEq, Repr

/-- The registers of a group, or of an ejected lane on its thread (R20, R296, R302). Lane register n of lane l has
key 256 l + n; predicate pn is a lane mask under key n. -/
structure Regs where
  v     : Sparse 32
  k     : Sparse 64
  p     : Sparse 64
  q     : BitVec 8
  gen   : Sparse 32
  pc    : Word
  mask  : Mask
  rpc   : Word
  fpf   : BitVec 5
  pend  : List Pend
deriving DecidableEq, Repr

/-- A reconvergence-stack entry (R296). `recalled` marks a pending entry placed by a recall that has not started
(R307); it is the model's own bit. -/
structure StackEntry where
  ej   : Mask
  rpc  : Word
  mask : Mask
  pc   : Word
  kd   : Bool
  recalled : Bool
deriving DecidableEq, Repr

/-- A guard slot (R247). -/
inductive Guard where
  | free
  | armed (n : Nat)
  | resolved (v : Bool) (n : Nat)
deriving DecidableEq, Repr

/-- What a group that is not ready waits for (R317, R321, R392). -/
inductive WaitKind where
  | barrier | tb | waitv | mwait | mbatch | queue | tile | arrival | rfence | remote | validator | recall | walk
  | engines | transfer | launch
deriving DecidableEq, Repr

/-- The 64-byte trap record (R366). -/
structure TrapRecord where
  info   : Word
  lanes  : Mask
  pc     : Word
  addr   : Word
  iword  : Word
  ecsn   : Word
  resume : Word
  vt     : Word
deriving DecidableEq, Repr

/-- How a parked group waits (R293, R349, R371): for pages, or for the host's answer to a service entry.
`entry` is the index of the written ring entry; none while the entry waits for room. -/
inductive Park where
  | pages (vas : List Word)
  | service (entry : Option Nat) (isSvc : Bool) (d : Nat) (lanes : Mask) (record : TrapRecord)
  | resumed
deriving DecidableEq, Repr

/-- The issue state of a group or thread. -/
inductive RunState where
  | ready
  | starting
  | waiting (k : WaitKind) (since : Nat)
  | sleeping (w : Nat)
  | yielding (til : Nat) (others : List (Nat × Nat))
  | parkedJoin (count : Nat)
  | parkedOff (p : Park)
  | trapHeld
  | recalling
  | returning
  | retired
deriving DecidableEq, Repr

/-- An ejected lane on scruple thread `num` (R300 to R303). `out` and `back` are the live maps; `slots` names the
lane registers that hold a slot of the thread. -/
structure Thread where
  num    : Nat
  lane   : Nat
  rejoin : Word
  out    : BitVec 256
  back   : BitVec 256
  slots  : List Nat
  r      : Regs
  run    : RunState
  hang   : Nat
  chain  : Ptr
  lastIss : Nat
deriving DecidableEq, Repr

/-- A group's arrival record at a barrier (R312). `last` is the arrival that completed its phase (R331). -/
structure ArrRec where
  phase : Nat
  done  : Bool
  last  : Option Note
deriving DecidableEq, Repr

/-- A barrier arrival that is applied once the accesses it orders are acknowledged (R331). -/
structure Deferred where
  ids   : List Nat
  bar   : Nat
  cl    : Bool
  count : Nat
  cnt   : Bool
deriving DecidableEq, Repr

/-- Updates of a transaction barrier by a group (R332, R333). -/
inductive TbOp where
  | init (n : Nat)
  | arrive (n : Nat)
  | expect (n : Nat)
deriving DecidableEq, Repr

/-- An update of the transaction barrier at `off`, applied once the accesses it orders are acknowledged and after the group's
earlier updates of the barrier (R333). -/
structure TbDeferred where
  ids : List Nat
  off : Nat
  op  : TbOp
deriving DecidableEq, Repr

/-- A closed batch that has not retired (R141, R142): its commands not yet complete. -/
structure Batch where
  num  : Nat
  cmds : List Nat
deriving DecidableEq, Repr

/-- A failed batch not yet reported (R150). `num` is none for the open batch; `age` counts the batches closed since, its own among them. -/
structure BatchFail where
  num  : Option Nat
  z    : Nat
  ecsn : Word
  age  : Nat
deriving DecidableEq, Repr

/-- The path {PC, MASK, RPC} and depth saved at handler entry (R368), with the count of the wait that the trap interrupted, its PC, the wake time
of a SLEEP (R317, R321, R339), and the BARS that had arrived (R318). -/
structure Handler where
  pc     : Word
  mask   : Mask
  rpc    : Word
  depth  : Nat
  recVa  : Word
  hang   : Nat
  waitAt : Option Word
  wake   : Option (Word × Nat)
  bars   : Table (Word × Mask)
  pend   : List Pend
deriving DecidableEq, Repr

/-- The spent bit of a group (R376): the breakpoint or watchpoint, its number, and the instruction instance: its address, the lanes of its path, and
whether it is an instruction of a handler. -/
structure Spent where
  isBp : Bool
  n    : Nat
  pc   : Word
  mask : Mask
  nest : Bool
deriving DecidableEq, Repr

/-- A trap waiting to be delivered: of an ejected lane (R375) or of a block transfer (R234, R365). `wsp` is the spent bit when it was raised
(R366, R376), `resume` where the lane or group resumes (R363). -/
structure HeldTrap where
  cause : Cause
  code  : Nat
  lane  : Option Nat
  addr  : Word
  acc   : Option (Dom × Scope)
  ecsn  : Word
  pc    : Word
  iword : Word
  vt    : Nat
  write : Bool
  wsp   : Bool
  resume : Word
deriving DecidableEq, Repr

/-- A failed RMST held for RFENCE or EXIT (R270). -/
structure HeldRemote where
  instr : Nat
  pc    : Word
  iword : Word
  ecsn  : Word
  fails : List RemFail
deriving DecidableEq, Repr

/-- A debugger step in progress (R389): kind, link value and stack depth for OVER, nesting for OUT, and the lanes of the path that is stepped. -/
structure Stepping where
  kind  : StepKind
  link  : Option Word
  depth : Nat
  nest  : Nat
  mask  : Mask
deriving DecidableEq, Repr

/-- Lane focus (R390, R391): the focused lane, whether an entry was pushed for the other lanes, whether it is a thread, whether the
latest halt was before a group-wide instruction (stall reason 28), and the PC and depth that CATCHUP runs to. -/
structure Focus where
  lane    : Nat
  pushed  : Bool
  isThread : Bool
  atWide  : Bool
  catchUp : Option (Word × Nat)
deriving DecidableEq, Repr

/-- A load that is satisfied ahead of program order (R165, R171): the sector that an agent's later load will return, with its stamp and
the time at which it was read. `lane` is 64 for the group; a unit of MXLD is two entries of number 65, each with the sector of the other as its `mate`
(R162). -/
structure Ahead where
  lane  : Nat
  sec   : Nat
  data  : BitVec 256
  stamp : Nat
  time  : Nat
  mate  : Option Nat
deriving DecidableEq, Repr

/-- A group (R16, R20). `zdone` holds, for each command completed in a batch that has not retired, its batch, its `seg` and the Z
elements that it wrote, which later commands of the batch start from (R145). `waitAt` and `wake` name the waiting instruction by its PC,
`wake` with the wake time of a SLEEP (R339). `gates` and `resv` are those of its lanes, ejected or not, and of the group itself; `seenT` is
the latest stamp that an agent's loads in a domain have returned and `doneT` the latest visibility time of its acknowledged writes in a
domain (R178, R179), under key 5 × lane + domain, with 64 for the group; `lastIss` is the time of its latest issue but YIELD (R287), `issAt` with YIELD (R338); `barsAt` names for a barrier the BARS, by PC and path, that has
arrived and not completed (R318); `want` says what the waiting instruction waits for (see
`waitOver`), `tbMet` that an update has reached the phase of a waiting TBWAIT (R334). `later` numbers the agents whose next load is performed later than it issues (R165). `strike` holds the lanes in which an error will make the next mirror
comparison fail (R319). `called` is the service wait from which a held trap called the group back (R375), and whether its doorbell has come since. -/
structure Group where
  r       : Regs
  gates   : List Gate
  resv    : List Resv
  ahead   : List Ahead
  later   : List Nat
  seenT   : Sparse 64
  doneT   : Sparse 64
  stack   : List StackEntry
  guards  : Table Guard
  run     : RunState
  slot    : Nat
  fair    : Nat
  defer   : Nat
  hang    : Nat
  lastIss : Nat
  issAt   : Nat
  handler : Option Handler
  spent   : Option Spent
  noEj    : List (Nat × Word)
  threads : List Thread
  arr     : Table ArrRec
  barsAt  : Table (Word × Mask)
  barQ    : List Deferred
  tbQ     : List TbDeferred
  trigQ   : List (List Nat)
  trigd   : Bool
  want    : List Nat
  tbMet   : Bool
  waitAt  : Option Word
  wake    : Option (Word × Nat)
  bctr    : Nat
  openB   : List Nat
  closed  : List Batch
  bfails  : List BatchFail
  bnotes  : Table Note
  mseg    : Nat
  zdone   : List (Nat × Nat × List (Bool × Nat × BitVec 32))
  exited  : Bool
  held    : List HeldTrap
  async   : List HeldTrap
  remHeld : List HeldRemote
  chain   : Ptr
  called  : Option (Park × Bool)
  halted  : Bool
  stepping : Option Stepping
  focus   : Option Focus
  rejoins : Nat
  strike  : Mask
deriving DecidableEq, Repr

/-- A named or cluster barrier (R312), with the arrival that the Chain notes (R393). -/
structure Barrier where
  phase    : Nat
  pending  : Nat
  expected : Nat
  set      : Bool
  fixed    : Bool
  last     : Option Note
deriving DecidableEq, Repr

/-- A storage kind that is allocated in granules (R18, R290). -/
inductive Store where
  | reg | loc | wbuf | abuf | zbuf
deriving DecidableEq, Repr

/-- State of a granule (R290). -/
inductive GState where
  | free | live | shadow
deriving DecidableEq, Repr

/-- A 64 KiB granule of a core (R290). `data` is the residue of its last owner while the granule is FREE,
`order` its place in the owner's allocation, `fol` that it is a follower granule of a pair (R139), `claim` the block that has
claimed it, with its order and half, while the stream engine has still to write it out, scrub or restore it. -/
structure Granule where
  kind  : Store
  st    : GState
  owner : Option Nat
  last  : Option Nat
  data  : Sparse 8
  order : Nat
  fol   : Bool
  claim : Option (Nat × Nat × Bool)
deriving DecidableEq, Repr

/-- State of a tile-table entry (R243). -/
inductive TileSt where
  | empty | filling | ready | draining
deriving DecidableEq, Repr

/-- A tile-table entry (R241, R242, R244). `users` counts started MMAs that still read the tile. -/
structure Tile where
  blk   : Option Nat
  desc  : Word
  tb    : Nat
  phi   : Nat
  st    : TileSt
  users : Nat
deriving DecidableEq, Repr

/-- Coherence modes of a page (R192). -/
inductive Cm where
  | trk | siv | unc
deriving DecidableEq, Repr

/-- How an access reaches a page (R192): its coherence mode, and the context and object index of the TLB. -/
structure PageKind where
  cm  : Cm
  tag : ObjTag
deriving DecidableEq, Repr

/-- A store waiting in a domain store queue (R176): one sector piece of one lane's store. `path` is the group's path at its issue (R160).
Entries with one `ent` are one entry of a combining queue. `after` holds the stores that must be acknowledged before it leaves, `rt` the
latest visibility time of those that have been (R178), `wb` the SIV write-backs made before it becomes visible (R425), `seen` the agents
other than its own that observe it already (R167), `also` the other domains in which a load of its agent has returned it (R170). `thr` says that it was
issued on a scruple thread, and `unit` names the codes and the scale of the MX unit of which it is a part (R162). -/
structure StoreEntry where
  id    : Nat
  ag    : AgentRef
  dom   : Dom
  enc   : Dom
  sc    : Scope
  rls   : Bool
  sec   : Nat
  data  : BitVec 256
  mask  : BitVec 32
  kind  : PageKind
  path  : Mask
  ent   : Nat
  seen  : List AgentRef
  rt    : Nat
  after : List Nat
  wb    : List (Dom × Scope)
  also  : List Dom
  thr   : Bool
  unit  : Option (Word × Word)
  vt    : Nat
deriving DecidableEq, Repr

/-- A load of global memory that is performed later than its instruction issues (R165, R171): the agent whose window awaits it, the numbers of the agents
that load (64 for the group), the path, the domains and the scope, the sector pieces to read with how each page is reached, where the bytes read go
(register, first byte, number of bytes), what is performed before it (R163, R166 to R169) and the SIV write-backs made before it. `unit` names the codes and
the scale of the MX unit that it reads (R162). -/
structure Late where
  id    : Nat
  ag    : AgentRef
  lanes : List Nat
  path  : Mask
  dom   : Dom
  enc   : Dom
  sc    : Scope
  acq   : Bool
  unit  : Option (Word × Word)
  parts : List (Nat × Nat × Nat × PageKind)
  dest  : List (RegWrite × Nat × Nat)
  after : List Nat
  wb    : List (Dom × Scope)
deriving DecidableEq, Repr

/-- A cache's permission for a sector (R202). -/
inductive Permission where
  | read | writeThrough | own
deriving DecidableEq, Repr

/-- A sector held in a cache (R195): data, dirty bytes and the domains that dirtied them (bit n for the domain with
encoding n), the latest of these (R209), fetch time, stamp of the write read, permission and mode. `who` is the only agent that dirtied it,
if there is one; `mates` are the sectors of the MX units that it was written with (R162), `tag` the object it is held under (R196). -/
structure CSector where
  sec     : Nat
  data    : BitVec 256
  dirty   : BitVec 32
  doms    : BitVec 5
  net     : Dom
  who     : Option AgentRef
  mates   : List Nat
  fetched : Nat
  stamp   : Nat
  perm    : Permission
  mode    : Cm
  tag     : ObjTag
deriving DecidableEq, Repr

/-- A request to a home (R196, R201): its event, the requesting child, the sector, context and object index that it names, the domain whose network
carries it (R209), the writes and the atomic that it carries. -/
structure HeldReq where
  event : Nat
  child : Nat
  tag   : ObjTag
  sec   : Nat
  dom   : Dom
  ws    : List SecWrite
  op    : Option HomeAtomic
deriving DecidableEq, Repr

/-- A directory entry for a piece (R208), with the protocol slot of its object; `cont` is the request whose FAN = 3 acknowledgements are
pending. -/
structure DirEntry where
  slot    : Nat
  piece   : List Nat
  st      : Nat
  owner   : Option Nat
  sharers : BitVec 64
  acks    : Nat
  cont    : Option HeldReq
  held    : List HeldReq
  used    : Nat
deriving DecidableEq, Repr

/-- Message kinds on the forward and response networks (R202, R209). -/
inductive MsgKind where
  | dataS | dataSW | dataE | ack | wtack | atomr | inv | update | fwdGets | fwdGetx | invAck
deriving DecidableEq, Repr

/-- A coherence message in flight (R209), for cache `child` of `home`, or for the home itself when `toHome`. `fan3`
marks an INV of FAN = 3 and its acknowledgement, `up` an ACK that answers an upgrade; `nets` names the domains that dirtied the sectors of
`dirty` (R209), `tag` the object of the request, `void` the sectors that its requester does not keep, since an invalidation has overtaken them (R203). -/
structure Msg where
  kind   : MsgKind
  home   : HomeRef
  child  : Nat
  toHome : Bool
  req    : Nat
  slot   : Nat
  piece  : List Nat
  sec    : Nat
  tag    : ObjTag
  data   : List (Nat × BitVec 256)
  dirty  : List (Nat × BitVec 32)
  nets   : List (Nat × Dom)
  acks   : Nat
  fan3   : Bool
  up     : Bool
  void   : List Nat
  vt     : Nat
deriving DecidableEq, Repr

/-- A request of a cache that is not complete (R203): the response, the acknowledgements that it announces and those received, with the
latest visibility time among them; `wt` is the sector of a write-through, `own` marks a request for a copy or for ownership. -/
structure Outst where
  home  : HomeRef
  child : Nat
  piece : List Nat
  resp  : Bool
  need  : Nat
  got   : Nat
  vt    : Nat
  wt    : Option Nat
  own   : Bool
deriving DecidableEq, Repr

/-- A write-back buffer entry (R202, R203): the sectors that a cache has sent to a home, until the home acknowledges them. -/
structure WriteBack where
  home  : HomeRef
  child : Nat
  piece : List Nat
  xs    : List CSector
deriving DecidableEq, Repr

/-- A block-transfer command (R231, R232, R234, R237). -/
structure BtCmd where
  id     : Nat
  blk    : Nat
  grp    : Nat
  btg    : Bool
  ecsn   : Nat
  pc     : Word
  iword  : Word
  dom    : Dom
  sc     : Scope
  dir    : Dir
  dst    : Word
  src    : Word
  shape  : List Word
  peer   : Word
  tb     : Nat
  guard  : Option Nat
  row    : Nat
  owed   : Nat
  started : Bool
  stopped : Bool
  popWait : Option Word
  plain  : Option (List Byte)
  key    : Word
  tagVa  : Word
  ctrOk  : Bool
deriving DecidableEq, Repr

/-- The kinds of matrix command (R131); `mrdy` is the marker of R143. -/
inductive MKind where
  | mrdy
  | mma (zi : Bool) (fa fb : Nat)
  | mzero
  | mqnt (df : Fmt) (t : Nat) (auto : Bool)
deriving DecidableEq, Repr

/-- A matrix command (R131, R134, R135). `da` and `db` are the captured tile descriptions; `res` the results
computed at the start, written at completion: follower half, Z offset or buffer byte, value. `batch` is the number that its
batch takes and `seg` the count of the group's MRDYs before it. -/
structure MCmd where
  id      : Nat
  blk     : Nat
  grp     : Nat
  ecsn    : Nat
  kind    : MKind
  z       : Nat
  m       : Nat
  n       : Nat
  kd      : Nat
  pitch   : Nat
  pr      : Bool
  ta      : Nat
  tb      : Nat
  da      : Word
  db      : Word
  guard   : Option Nat
  started : Bool
  failed  : Bool
  res     : List (Bool × Nat × BitVec 32)
  bytes   : List (Bool × Nat × Byte)
  flags   : BitVec 5
  batch   : Nat
  seg     : Nat
deriving DecidableEq, Repr

/-- A block's place in the scheduler (R289, R294). -/
inductive Residency where
  | waiting | resident | preempted | retired
deriving DecidableEq, Repr

/-- A block (R16, R18, R286). Its L-space and buffers are kept with it, resident or saved (R28, R289, R290). `image` holds the
sectors of its save slot that the device has written and has still to reload (R289, log 12). `tbTime` holds for each transaction barrier
the time of its latest arrival, then that of the latest subtraction by a command of each domain (R175, R184). `stopping`
says that its pre-emption has begun: its groups issue nothing more while its accesses drain (R291). -/
structure Block where
  grid    : Nat
  index   : Nat
  rank    : Nat
  core    : Nat
  first   : Nat
  ctx     : Nat
  res     : Residency
  groups  : Table Group
  bars    : Table Barrier
  loc     : Sparse 8
  abuf    : Sparse 8
  wbuf    : Sparse 8
  zbuf    : Sparse 8
  fw      : Sparse 8
  fz      : Sparse 8
  zpoison : List Nat
  fpoison : List Nat
  prio    : Nat
  placed  : Nat
  waited  : Nat
  replays : Nat
  save    : Option Nat
  image   : Table (BitVec 256)
  tiles   : Table Tile
  bt      : List (Bool × BtCmd)
  mtx     : List MCmd
  hor     : List Nat
  tbNote  : Table Note
  tbTime  : Table (List Nat)
  started : Bool
  stopping : Bool
deriving DecidableEq, Repr

/-- A launch packet's fields (R276, R277). -/
structure Packet where
  entry : Word
  gx : Nat
  gy : Nat
  gz : Nat
  regs : Nat
  kregs : Nat
  groups : Nat
  cluster : Nat
  producer : Nat
  prio : Nat
  nbv : Nat
  ejt : Nat
  flags : BitVec 8
  loc : Nat
  wbuf : Nat
  abuf : Nat
  zbuf : Nat
  trigcnt : Nat
  done : Word
  deps : List Word
  live : Word
  liven : Nat
  params : List Word
deriving DecidableEq, Repr

/-- A launched grid (R283 to R285). `bars` holds the cluster barriers: cluster index × 4 + number (R312); `note` the
latest TRIG or block retirement that the Chain noted (R393); `since` and `waited` when it was launched and the quanta that its
unplaced blocks have waited (R294). Its key in the grid table is its handle (R278), and block i's key is handle × 2^32 + i. -/
structure Grid where
  queue   : Nat
  seq     : Nat
  ctx     : Nat
  pkt     : Packet
  trigs   : Nat
  trigged : Bool
  next    : Nat
  done    : Bool
  status  : Nat
  bars    : Table Barrier
  note    : Option Note
  since   : Nat
  waited  : Nat
deriving DecidableEq, Repr

/-- A TLB entry (R347): tag (context, or tenant under G), level-2 page or not, page number, PTE, its address. -/
structure TlbEntry where
  g    : Bool
  tag  : Nat
  big  : Bool
  page : Nat
  pte  : Word
  addr : Nat
deriving DecidableEq, Repr

/-- A core (R17). `brot` holds for each queue of the BTE the block whose command started last (R232); `sample` holds the next group slot of each quarter and the next thread of the scruple pool to be sampled, `sampled`
the cycle of the latest sampling (R392); `tlb` is its L2 TLB and `qtlb` the TLB of each quarter (R347); `code` holds the lines of its L1 instruction cache, newest first (R17); `used` names the block and group in each occupied group slot (R18, R293); `idle` counts the cycles in which its active context has had no ready group (R288). -/
structure Core where
  active   : Option Nat
  ecsn     : Nat
  sq       : List StoreEntry
  hor      : List Nat
  l1       : Table CSector
  tiles    : Table Tile
  btl      : List BtCmd
  bts      : List BtCmd
  mtx      : List MCmd
  used     : Table (Nat × Nat)
  gran     : Table Granule
  tlb      : List TlbEntry
  qtlb     : Table (List TlbEntry)
  code     : List (Nat × List Byte)
  greedy   : Table (Nat × Nat)
  mrot     : Nat
  brot     : Nat × Nat
  sample   : List Nat
  sampled  : Nat
  idle     : Nat
deriving DecidableEq, Repr

/-- A tenant's physical window (R342). -/
structure PWindow where
  base : Nat
  units : Nat
  tier : Nat
deriving DecidableEq, Repr

/-- A tenant descriptor (R342). -/
structure Tenant where
  flags : BitVec 8
  qslots : Nat
  proto : BitVec 8
  msixn : Nat
  keys : Word
  sample : Nat
  popring : Nat
  wins : List PWindow
deriving DecidableEq, Repr

/-- A context descriptor (R343). -/
structure Ctx where
  ptroot : Nat
  tenant : Option Nat
  conf : Bool
  mgr : Bool
  cres : Nat
  resv : List Nat
  salt : Half
  pool : Nat
  poolsz : Nat
  objtab : Nat
  traprt : Word
  svcring : Word
  chain : Word
  rjt : Nat
  hangt : Nat
  protbase : Nat
  protlen : Nat
deriving DecidableEq, Repr

/-- A software queue descriptor (R281). -/
structure Queue where
  ring : Word
  en : Bool
  ctx : Nat
  log2n : Nat
  err : Nat
  head : Nat
  tail : Nat
deriving DecidableEq, Repr

/-- A window-table entry (R262). -/
structure Window where
  v : Bool
  rdp : Bool
  wrp : Bool
  atp : Bool
  ten : Nat
  ctx : Nat
  key : Nat
  len : Nat
  base : Word
deriving DecidableEq, Repr

/-- An expert-table entry (R268). -/
structure Expert where
  v : Bool
  nr : Nat
  dev : List Nat
  load : List Nat
deriving DecidableEq, Repr

/-- A protocol table (R199): number of states, UPDS, name, 256 entry words. -/
structure Proto where
  states : Nat
  upds : Bool
  name : Word
  entries : List (BitVec 32)
deriving DecidableEq, Repr

/-- A declared coherence object (R194, R249): its range. Its shape and slot stand in the context's object table. -/
structure Obj where
  base : Word
  extent : Nat
deriving DecidableEq, Repr

/-- A service entry waiting for room in its ring (R372): what is to be written, and whether its group still waits for it; that of a replayed block does
not (R380). -/
structure SvcWait where
  ctx : Nat
  blk : Nat
  grp : Nat
  parks : Bool
  isSvc : Bool
  kind : Word
  who : Word
  lanes : Mask
  record : TrapRecord
  args : List (Nat × List Half)
deriving DecidableEq, Repr

/-- A population request (R349): `written` is the number of its ring entry, `big` says that its page has 512 MiB. -/
structure PopReq where
  ctx : Nat
  page : Word
  big : Bool
  kind : Nat
  written : Option Nat
  pri : Bool
deriving DecidableEq, Repr

/-- A remote request awaiting its answer (R260): the items not yet answered, with the lanes that each covers by its first lane;
whether its flit has entered send storage; the group's path at its issue (R160); when its answer count began; the command of a block-transfer row; and for
XEXP the entry and replica of each lane (R269). -/
structure RemReq where
  id : Nat
  instr : Nat
  ag : AgentRef
  path : Mask
  core : Nat
  op : FOp
  peer : Nat
  dom : Dom
  rls : Bool
  flit : Flit
  items : List Item
  sent : Bool
  since : Nat
  posted : Bool
  ecsn : Nat
  pc : Word
  iword : Word
  bt : Option Nat
  dreg : Nat
  size : Size
  acq : Bool
  cover : List (Nat × Nat)
  experts : List (Nat × Nat × Nat)
deriving DecidableEq, Repr

/-- An item of a peer held under an interim status 0x09 (R263). -/
structure HeldItem where
  flit : Flit
  page : Word
  ctx : Nat
  since : Nat
deriving DecidableEq, Repr

/-- The fabric port (R251 to R261). Tables are keyed: slot table slot × 48 + fibre; sequence numbers peer × 8 + NET;
credits fibre × 8 + NET. `hosted` holds the items that wait for the host link (R421), `owed` the answers of this device's windows that wait for send storage (R251). `slotNow` is the number of the slot that has started, plus 1; `replay` holds the flits of a fibre
that are not link-acknowledged, `lost` those of them that a gap shows to be lost, `ackq` the acknowledgements it owes,
`wire` the flit that it sent last. -/
structure Fabric where
  loaded : Bool
  trimth : Nat
  slotlen : Nat
  nslot : Nat
  t0 : Nat
  slots : Sparse 16
  routes : Sparse 16
  absent : List Nat
  flights : List Nat
  sendq : List Flit
  owed : List Flit
  relayq : List (Nat × Flit)
  rwait : List (Nat × Flit)
  asm : List Flit
  replay : Table (List Flit)
  recs : List RemReq
  txseq : Table Nat
  rxseq : Table (List Nat)
  credit : Table (Nat × Nat)
  freed : Table Nat
  dead : List Nat
  stopped : List Nat
  rr : Table Nat
  items : List HeldItem
  hosted : List HeldItem
  pulled : List (Nat × Flit)
  heard : List Nat
  got : Table (List (Nat × Nat))
  slotNow : Nat
  lost : Table (List Flit)
  ackq : Table (List (Nat × Nat))
  wire : Table Flit
deriving DecidableEq, Repr

/-- A debugger's hold on a context (R386, R387). -/
structure Dbg where
  attached : Bool
  allstop : Bool
  bp : Table Word
  wp : Table (Word × Word)
deriving DecidableEq, Repr

/-- The Chain's state of a context (R340, R396): open step, walk in progress, groups stalled at STEPB. `laps` tells an overwritten record
from the one that a pointer names: for each place of the edge ring, the lap of its record and of the pointer in it. -/
structure Chain where
  step : Option (Word × Nat)
  walk : Option (Word × Nat × Nat × Nat × Ptr)
  stalled : List (Nat × Nat × Word × Nat × Nat)
  laps : Table (Nat × Nat)
deriving DecidableEq, Repr

/-- The scheduler's queue mapping (R282): slot to queue, quanta waited, rotating pointers by tenant and level;
the mapping quanta and the time-slice quanta that have ended. -/
structure Sched where
  map : Table Nat
  age : Table Nat
  ptr : Table Nat
  mapped : Nat
  sliced : Nat
deriving DecidableEq, Repr

/-- The privileged registers (R361) and the sweeper's position (R350): whether it pauses, and the 4-cycle periods that it has
used; `swheld` counts the entries of its ready queue, a ring of 8,192 that can be full; `loads` holds the PTLOADs that the validator has still to serve (R206). -/
structure Priv where
  ptstat : Nat
  swpause : Bool
  swept : Nat
  swctl : Word
  swrq : Word
  swtail : Nat
  swhead : Nat
  swheld : Nat
  swft : Word
  frame : Nat
  loads : List (Nat × Nat × Nat × List Byte)
deriving DecidableEq, Repr

/-- An entry of an MSI-X table (R418): address, data and vector control, whose bit 0 masks the vector. -/
structure MsixEntry where
  addr : Word
  data : BitVec 32
  ctl  : BitVec 32
deriving DecidableEq, Repr

/-- The host link (R352 to R354, R417, R418): MSI-X vectors sent, with the tables of the functions (64 × function + entry), the vectors pending, the debug
mailbox's command area and its status byte; interfaces in RUN, answers sent; `absent` holds the
host frames that ATS reports as not present, each with the function (16 for the physical one) that asked, `aborts` counts completer aborts. -/
structure HostLink where
  up : Bool
  width : Nat
  rate : Nat
  msix : List (Nat × Nat)
  msixTab : Table MsixEntry
  msixPend : List (Nat × Nat)
  mbx : Sparse 8
  mbxStatus : Byte
  run : List Nat
  answers : List (List Byte)
  status : List Nat
  retried : Nat
  pending : List (Nat × List Byte)
  absent : List (Nat × Nat)
  aborts : Nat
deriving DecidableEq, Repr

/-- The boot flash (R422, R424): copy A, which stage 1 tries first, copy B, and whether B is the copy that runs. -/
structure Flash where
  a     : List Byte
  b     : List Byte
  runsB : Bool
deriving DecidableEq, Repr

/-- The management core (R382, R383, R415, R416, R421 to R424). `dimms` holds the RDIMMs of each channel that training found, in GiB (R419). -/
structure Mgmt where
  fail : Nat
  stage : Nat
  ready : Bool
  plim : Nat
  ageing : Table Ageing
  cet : Table (BitVec 32)
  cew : Table (List Nat)
  ring : List (List Byte)
  lost : Nat
  conflicts : Table Nat
  flash : Flash
  throttled : List Nat
  powered : Bool
  dimms : List (List Nat)
  sensors : Sensors
  device : Nat
  quantumUs : Nat
  ucie : Nat
  bootHalt : Bool
deriving DecidableEq, Repr

/-- Who acts next (log 1): an event, the group a quarter selects, a scruple thread, a load at an address that is satisfied ahead of program
order (R165, R171), alone or as a unit of MXLD, one that will be performed later than it issues, and its performance, a request that reaches its home (R209), a store that an agent observes before others do (R167), the eviction of a sector from a cache (R425) or of an entry from a TLB (R347), a line of code that the instruction cache keeps or gives up (R17), the end of a core's own reset (R15), or the clock alone. -/
inductive Turn where
  | event (i : Instr)
  | issue (core quarter : Nat)
  | thread (blk grp lane : Nat)
  | ahead (ag : AgentRef) (va : Word) (d : Dom) (sc : Scope)
  | aheadUnit (ag : AgentRef) (u sc_ : Word) (d : Dom) (sc : Scope)
  | defer (ag : AgentRef)
  | perform (id : Nat)
  | arrive (i : Nat)
  | spread (core id : Nat) (ag : AgentRef)
  | evict (c : CacheRef) (sec : Nat)
  | forget (core : Nat) (quarter : Option Nat) (i : Nat)
  | keepCode (ag : AgentRef)
  | dropCode (core i : Nat)
  | coreReset (core : Nat)
  | tick
deriving DecidableEq, Repr

/-- The whole device. `cur` is the agent that executes, `word` its instruction's first word and `raised` the cause of the trap that it has raised. `cyc0` holds
for each core the value of `clk` at its reset, from which its CYCLE counts (R15). -/
structure State where
  vtime   : Word
  clk     : Word
  cyc0    : Sparse 64
  agenda  : List Turn
  turn    : Nat × Nat
  cur     : Option AgentRef
  word    : Word
  raised  : Option Cause
  free    : Nat
  ids     : Nat
  evt     : Nat
  mem     : List Host.Cell
  poison  : List Nat
  stamps  : Sparse 64
  late    : List Late
  notes   : Table (Note × Nat)
  cores   : Table Core
  ccs     : Table (Table CSector)
  dir     : Table (Table DirEntry)
  net     : List Msg
  reqs    : List (HomeRef × HeldReq)
  setq    : List HeldReq
  outst   : List Outst
  wbacks  : List WriteBack
  protos  : Table Proto
  objs    : Table Obj
  blocks  : Table Block
  grids   : Table Grid
  sched   : Sched
  queues  : Table Queue
  ctxs    : Table Ctx
  tenants : Table Tenant
  windows : Table Window
  experts : Table Expert
  expCtx  : Option Nat
  keys    : Table (BitVec 256)
  ctrs    : Table Nat
  svcq    : List SvcWait
  pops    : List PopReq
  popIdx  : Table Nat
  priv    : Priv
  fab     : Fabric
  dbg     : Table Dbg
  chains  : Table Chain
  host    : HostLink
  mgmt    : Mgmt
deriving DecidableEq, Repr

/-- A core at reset (R15, R17, R176, R179, R241, R290): log 3 for the horizons and granules. -/
def Core.fresh : Core :=
  { active := none, ecsn := 0, sq := [], hor := [0, 0, 0, 0, 0], l1 := [], tiles := [], btl := [], bts := [], mtx := [],
    used := [], gran := [], tlb := [], qtlb := [], code := [], greedy := [], mrot := 0, brot := (0, 0), sample := [0, 64, 128, 192, 0], sampled := 0, idle := 0 }

/-- The pointer of an agent without an edge record. -/
def Ptr.none : Ptr := { va := 0, lap := 0 }

/-- Registers with nothing in them. -/
def Regs.fresh : Regs :=
  { v := [], k := [], p := [], q := 0, gen := [], pc := 0, mask := 0, rpc := BitVec.allOnes 64, fpf := 0, pend := [] }

/-- A tile-table entry at block start (R241): untagged and EMPTY. -/
def Tile.fresh : Tile := { blk := none, desc := 0, tb := 0, phi := 0, st := .empty, users := 0 }

/-- A barrier at block start (R312). -/
def Barrier.fresh : Barrier := { phase := 0, pending := 0, expected := 0, set := false, fixed := false, last := none }

/-- The fabric port at reset (R252, R253). -/
def Fabric.fresh : Fabric :=
  { loaded := false, trimth := 8192, slotlen := 11200, nslot := 21, t0 := 0, slots := [], routes := [], absent := [],
    flights := [], sendq := [], owed := [], relayq := [], rwait := [], asm := [], replay := [], recs := [], txseq := [], rxseq := [], credit := [], freed := [],
    dead := [], stopped := [], rr := [], items := [], hosted := [], pulled := [], heard := [], got := [], slotNow := 0, lost := [], ackq := [], wire := [] }

/-- A queue descriptor at reset (R281). -/
def Queue.fresh : Queue := { ring := 0, en := false, ctx := 0, log2n := 4, err := 0, head := 0, tail := 0 }

/-- The ageing indicators at reset (R383). -/
def Ageing.fresh : Ageing := { rod := 0, cew := 0, widx := 0, lbd := 0, eol := 0xFFFF, wear := 0 }

/-- The device right after a cold reset with VAUX just applied (R421): every table empty, no context, boot stage 0. -/
def State.reset : State :=
  { vtime := 0, clk := 0, cyc0 := [], agenda := [], turn := (0, 0), cur := none, word := 0, raised := none, free := 0, ids := 0, evt := 0, mem := [], poison := [],
    stamps := [], late := [], notes := [], cores := [], ccs := [], dir := [], net := [], reqs := [], setq := [], outst := [], wbacks := [], protos := [], objs := [], blocks := [], grids := [],
    sched := { map := [], age := [], ptr := [], mapped := 0, sliced := 0 }, queues := [], ctxs := [], tenants := [], windows := [], experts := [],
    expCtx := none, keys := [], ctrs := [], svcq := [], pops := [], popIdx := [],
    priv := { ptstat := 0, swpause := false, swept := 0, swctl := 0, swrq := 0, swtail := 0, swhead := 0, swheld := 0, swft := 0, frame := 0, loads := [] },
    fab := Fabric.fresh, dbg := [], chains := [],
    host := { up := false, width := 0, rate := 0, msix := [], msixTab := [], msixPend := [], mbx := [], mbxStatus := 0, run := [], answers := [], status := [], retried := 0, pending := [], absent := [], aborts := 0 },
    mgmt := { fail := 0, stage := 0, ready := false, plim := 2200, ageing := (List.range 5).map (fun d => (d, Ageing.fresh)), cet := [], cew := [], ring := [], lost := 0,
              conflicts := [], flash := { a := [], b := [], runsB := false }, throttled := [], powered := true, dimms := [],
              sensors := { volts := 0, amps := 0, watts := 0, junction := [], inlet := 0 }, device := 0, quantumUs := 50,
              ucie := 0, bootHalt := false } }

end Sys2Proof.Machine
end

