-- ==== Sys2Proof/Machine/Mem.lean ====
section
/-! DEFINITION. Physical memory as one list of cells, its bytes, words and 32-byte sectors (R6, R162), and the accessors
of the records of State. Host memory (TIER 2, R346) lies above the 52-bit device addresses. -/

namespace Sys2Proof.Machine

open Sys2Proof

/-- Key of host address 0 in the cell list: above every 52-bit device address (R345, R346). -/
def hostBase : Nat := 2 ^ 52

/-- The byte at an address; an unlisted address reads 0 (log 4). -/
def memGet (m : List Host.Cell) (a : Nat) : Byte := sget m a

/-- Writes a byte, keeping the canonical form. -/
def memSet (m : List Host.Cell) (a : Nat) (x : Byte) : List Host.Cell := sset m a x

/-- The canonical form of memory: addresses strictly rising, no entry equal to 0. -/
def Memory.wf (m : List Host.Cell) : Bool := sparseWf m

/-- `n` bytes from `a` up, of any byte map. -/
def getBytes (m : Sparse 8) (a : Nat) : Nat → List Byte
  | 0 => []
  | n + 1 => sget m a :: getBytes m (a + 1) n

/-- Writes bytes from `a` up into any byte map. -/
def putBytes (m : Sparse 8) (a : Nat) : List Byte → Sparse 8
  | [] => m
  | b :: bs => putBytes (sset m a b) (a + 1) bs

/-- A little-endian number of `n` bytes (R6). -/
def getNum (m : Sparse 8) (a n : Nat) : Nat := fromBytes (getBytes m a n)

/-- Writes the `n` low bytes of a number, little-endian (R6). -/
def putNum (m : Sparse 8) (a n x : Nat) : Sparse 8 := putBytes m a (toBytes n x)

/-- Bytes of a byte map cleared. -/
def clearBytes (m : Sparse 8) (a n : Nat) : Sparse 8 := m.filter (fun e => decide (e.1 < a) || decide (a + n ≤ e.1))

/-- The bit mask of the bytes that a byte mask selects. -/
def byteBits (mask : BitVec 32) : BitVec 256 :=
  BitVec.ofNat 256 (fromBytes ((List.range 32).map (fun i => if mask.getLsbD i then 255#8 else 0#8)))

/-- `new` where the byte mask is set, `old` elsewhere. -/
def overlay (old new : BitVec 256) (mask : BitVec 32) : BitVec 256 :=
  (old &&& ~~~ byteBits mask) ||| (new &&& byteBits mask)

/-- The sector number of a physical address. -/
def secOf (pa : Nat) : Nat := pa / 32

/-- The cells of `n` bytes from `a` up. -/
def cellsIn (m : List Host.Cell) (a n : Nat) : List Host.Cell := m.filter (fun e => decide (a ≤ e.1) && decide (e.1 < a + n))

/-- The 32 bytes of a sector as held in memory. -/
def memSector (m : List Host.Cell) (sec : Nat) : BitVec 256 := BitVec.ofNat 256 (getNum (cellsIn m (32 * sec) 32) (32 * sec) 32)

/-- Byte `i` of a sector. -/
def sectorByte (d : BitVec 256) (i : Nat) : Byte := d.extractLsb' (8 * i) 8

/-- Writes the masked bytes of a sector into memory. -/
def memPutSector (m : List Host.Cell) (sec : Nat) (d : BitVec 256) (mask : BitVec 32) : List Host.Cell :=
  (List.range 32).foldl (fun m i => if mask.getLsbD i then sset m (32 * sec + i) (sectorByte d i) else m) m

/-- The mask of `n` bytes from offset `o` of a sector. -/
def spanMask (o n : Nat) : BitVec 32 := BitVec.ofNat 32 (((2 ^ n - 1) * 2 ^ o) % 2 ^ 32)

/-- The `n`-byte number at offset `o` of a sector. -/
def secNum (d : BitVec 256) (o n : Nat) : Nat := d.toNat / 2 ^ (8 * o) % 2 ^ (8 * n)

/-- Bytes placed at offset `o` of an otherwise zero sector. -/
def placeBytes (o : Nat) (bs : List Byte) : BitVec 256 := BitVec.ofNat 256 (fromBytes bs * 2 ^ (8 * o))

/-- A piece of an access in one sector: sector, offset in it, length, offset in the access (R162). -/
structure Piece where
  sec : Nat
  off : Nat
  len : Nat
  at_ : Nat
deriving DecidableEq, Repr

/-- The sector pieces of `n` bytes at `pa`; `fuel` bounds their number. -/
def piecesOf (pa n done : Nat) : Nat → List Piece
  | 0 => []
  | fuel + 1 =>
    if n = 0 then []
    else
      let o := pa % 32
      let l := min n (32 - o)
      { sec := pa / 32, off := o, len := l, at_ := done } :: piecesOf (pa + l) (n - l) (done + l) fuel

/-! ### Records -/

/-- The block `b`. -/
def State.block? (s : State) (b : Nat) : Option Block := tget s.blocks b

/-- Group `g` of block `b`. -/
def State.group? (s : State) (b g : Nat) : Option Group := (tget s.blocks b).bind (fun x => tget x.groups g)

/-- Replaces a block. -/
def State.setBlock (s : State) (b : Nat) (x : Block) : State := { s with blocks := tset s.blocks b x }

/-- Replaces a group of a block. -/
def State.setGroup (s : State) (b g : Nat) (x : Group) : State :=
  match tget s.blocks b with
  | none => s
  | some bl => s.setBlock b { bl with groups := tset bl.groups g x }

/-- Applies a function to a block. -/
def State.mapBlock (s : State) (b : Nat) (f : Block → Block) : State :=
  match tget s.blocks b with
  | none => s
  | some x => s.setBlock b (f x)

/-- Applies a function to a group. -/
def State.mapGroup (s : State) (b g : Nat) (f : Group → Group) : State :=
  match s.group? b g with
  | none => s
  | some x => s.setGroup b g (f x)

/-- The record of a core; a core that nothing has touched is fresh. -/
def State.core (s : State) (c : Nat) : Core := (tget s.cores c).getD Core.fresh

/-- Replaces a core. -/
def State.setCore (s : State) (c : Nat) (x : Core) : State := { s with cores := tset s.cores c x }

/-- Applies a function to a core. -/
def State.mapCore (s : State) (c : Nat) (f : Core → Core) : State := s.setCore c (f (s.core c))

/-- The context a block runs in. -/
def State.ctx? (s : State) (n : Nat) : Option Ctx := tget s.ctxs n

/-- The grid of a block. -/
def State.gridOf (s : State) (b : Nat) : Option Grid := (tget s.blocks b).bind (fun x => tget s.grids x.grid)

/-- A fresh name, and the state that has used it. -/
def State.newId (s : State) : Nat × State := (s.ids, { s with ids := s.ids + 1 })

/-- VTIME as a number. -/
def State.now (s : State) : Nat := s.vtime.toNat

/-- The domain's place in lists of five, its encoding (R4). -/
def domIdx : Dom → Nat
  | .bulk => 0 | .rel => 1 | .cau => 2 | .tso => 3 | .seq => 4

/-- The scope's encoding (R5). -/
def scopeIdx : Scope → Nat
  | .grp => 0 | .blk => 1 | .cls => 2 | .dev => 3 | .sys => 4

/-- The five domains. -/
def allDoms : List Dom := [.bulk, .rel, .cau, .tso, .seq]

/-- The bit of a domain. -/
def domBit (d : Dom) : BitVec 5 := BitVec.ofNat 5 (2 ^ domIdx d)

/-- The horizon of a core for a domain (R179). -/
def Core.horizon (c : Core) (d : Dom) : Nat := c.hor.getD (domIdx d) 0

/-- Raises a horizon to at least `t` (R179). -/
def Core.raise (c : Core) (d : Dom) (t : Nat) : Core := { c with hor := c.hor.set (domIdx d) (max t (c.horizon d)) }

/-- Raises a horizon of core `c`. -/
def State.raise (s : State) (c : Nat) (d : Dom) (t : Nat) : State := s.mapCore c (fun x => x.raise d t)

/-- Raises all five horizons of core `c`. -/
def State.raiseAll (s : State) (c t : Nat) : State := allDoms.foldl (fun s d => s.raise c d t) s

/-- The cluster of a core (R8). -/
def clusterOf (core : Nat) : Nat := core / 4

/-- The cluster cache of cluster `n`. -/
def State.cc (s : State) (n : Nat) : Table CSector := (tget s.ccs n).getD []

/-- Replaces a cluster cache. -/
def State.setCc (s : State) (n : Nat) (x : Table CSector) : State := { s with ccs := tset s.ccs n x }

/-- Element type of a list position, replaced by a function. -/
def listMod {α : Type} (l : List α) (i : Nat) (f : α → α) : List α :=
  match l[i]? with
  | none => l
  | some x => l.set i (f x)

/-- A 32-byte record for the firmware event ring of 4,096 entries (R382). -/
def State.logEvent (s : State) (kind slot st ev ctx pa : Nat) : State :=
  let r := toBytes 2 kind ++ toBytes 1 slot ++ toBytes 1 st ++ toBytes 1 ev ++ [0#8] ++ toBytes 2 ctx ++ toBytes 8 pa ++
    toBytes 8 s.now ++ toBytes 8 0
  if s.mgmt.ring.length < 4096 then { s with mgmt := { s.mgmt with ring := s.mgmt.ring ++ [r] } }
  else { s with mgmt := { s.mgmt with ring := s.mgmt.ring.drop 1 ++ [r], lost := s.mgmt.lost + 1 } }

/-- The meaning of an event: what it does where its condition holds; where it does not, the event does not occur, and nothing changes (log 37). -/
def happen (s : State) (o : Option State) : Host.Outcome State Fault Refusal := .next (o.getD s)

end Sys2Proof.Machine
end

