-- ==== Sys2Proof/Machine/Registers.lean ====
section
/-! DEFINITION. The registers of a group or an ejected lane, and the writes that instructions and their windows leave in them (spec/01_machine.md R20, R21;
02_encoding.md R38, R39). -/

namespace Sys2Proof.Machine

open Sys2Proof

/-- V(l, n). -/
def Regs.vget (r : Regs) (l n : Nat) : Half := sget r.v (256 * l + n)
/-- V64(l, n). -/
def Regs.v64 (r : Regs) (l n : Nat) : Word := r.vget l (n + 1) ++ r.vget l n
/-- K(n); K(63) is 0. -/
def Regs.kget (r : Regs) (n : Nat) : Word := if n = 63 then 0 else sget r.k n
/-- Predicate pn of lane l. -/
def Regs.pget (r : Regs) (l n : Nat) : Bool := (sget r.p n).getLsbD l
/-- Predicate qn. -/
def Regs.qget (r : Regs) (n : Nat) : Bool := r.q.getLsbD n

/-- One register write; writes to k63 are ignored (R20). -/
def Regs.write (r : Regs) (w : RegWrite) : Regs :=
  match w with
  | .v l n x => { r with v := sset r.v (256 * l + n) x }
  | .k n x => if n = 63 then r else { r with k := sset r.k n x }
  | .p l n b => { r with p := sset r.p n (if b then sget r.p n ||| laneBit l else sget r.p n &&& ~~~ laneBit l) }
  | .q n b => { r with q := if b then r.q ||| BitVec.ofNat 8 (2 ^ n) else r.q &&& ~~~ BitVec.ofNat 8 (2 ^ n) }
  | .gen l x => { r with gen := sset r.gen l x }

/-- Several register writes in turn. -/
def Regs.writes (r : Regs) (ws : List RegWrite) : Regs := ws.foldl Regs.write r

/-- Do two writes go to one register? -/
def RegWrite.same : RegWrite → RegWrite → Bool
  | .v l n _, .v l' n' _ => l == l' && n == n'
  | .k n _, .k n' _ => n == n'
  | .p l n _, .p l' n' _ => l == l' && n == n'
  | .q n _, .q n' _ => n == n'
  | .gen l _, .gen l' _ => l == l'
  | _, _ => false

/-- A register write with another value. -/
def RegWrite.withNum (w : RegWrite) (x : Nat) : RegWrite :=
  match w with
  | .v l n _ => .v l n (BitVec.ofNat 32 x)
  | .k n _ => .k n (BitVec.ofNat 64 x)
  | .gen l _ => .gen l (BitVec.ofNat 32 x)
  | w => w

/-- Writes every destination of the open windows whose answers are all there (R38). A window with failures stays, since
its REMOTE is delivered at its own boundary (R270). -/
def Regs.flush (r : Regs) : Regs :=
  { (r.writes ((r.pend.filter (fun p => p.await.isEmpty)).flatMap (fun p => p.writes))) with
    pend := (r.pend.filter (fun p => !p.await.isEmpty || !p.fails.isEmpty)).map (fun p => if p.await.isEmpty then { p with writes := [] } else p) }

/-- Writes the destinations of the windows that are used up (R38). -/
def Regs.flushDone (r : Regs) : Regs :=
  let ok := fun (p : Pend) => p.await.isEmpty && p.left == 0
  { (r.writes ((r.pend.filter ok).flatMap (fun p => p.writes))) with pend := r.pend.filter (fun p => !ok p) }

/-- Is a remote answer outstanding in a window? -/
def Regs.awaiting (r : Regs) : Bool := r.pend.any (fun p => !p.await.isEmpty)

/-- An answer reaches a window that awaits it: the values of the destinations that no later instruction has overtaken (R38, R39). -/
def Regs.answer (r : Regs) (id : Nat) (ws : List RegWrite) : Regs :=
  { r with pend := r.pend.map (fun p =>
      if p.await.contains id then { p with await := p.await.filter (fun n => n != id), writes := p.writes.map (fun w => (ws.find? (fun y => y.same w)).getD w) } else p) }

end Sys2Proof.Machine
end

