-- ==== Sys2Proof/Machine/Walk.lean ====
section
/-! DEFINITION. The caches and the directory as tables, the coherent value of a sector, and the walk of a context's page tables
(spec/13_isolation.md R342 to R346, R355; spec/07_coherence.md R192, R193, R208). -/

namespace Sys2Proof.Machine

open Sys2Proof

/-! ### Caches and directories -/

/-- The key of a piece: its lowest sector. -/
def pieceKey (p : List Nat) : Nat := p.headD 0

/-- The sectors of a cache. -/
def cacheOf (s : State) (c : CacheRef) : Table CSector :=
  match c with
  | .l1 n => (s.core n).l1
  | .cc n => s.cc n

/-- Replaces the sectors of a cache. -/
def setCache (s : State) (c : CacheRef) (t : Table CSector) : State :=
  match c with
  | .l1 n => s.mapCore n (fun x => { x with l1 := t })
  | .cc n => s.setCc n t

/-- A sector of a cache. -/
def cacheGet (s : State) (c : CacheRef) (sec : Nat) : Option CSector := tget (cacheOf s c) sec

/-- Writes a sector of a cache. -/
def cachePut (s : State) (c : CacheRef) (x : CSector) : State := setCache s c (tset (cacheOf s c) x.sec x)

/-- Drops sectors of a cache. -/
def cacheDrop (s : State) (c : CacheRef) (secs : List Nat) : State :=
  setCache s c ((cacheOf s c).filter (fun e => !secs.contains e.1))

/-- Drops the tracked copies of sectors; SIV copies of a mixed mapping stay (R189). -/
def trkDrop (s : State) (c : CacheRef) (secs : List Nat) : State :=
  setCache s c ((cacheOf s c).filter (fun e => !(secs.contains e.1 && e.2.mode == .trk)))

/-- Applies a change to the tracked copy of a sector, if the cache holds one. -/
def trkMap (s : State) (c : CacheRef) (sec : Nat) (f : CSector → CSector) : State :=
  match cacheGet s c sec with
  | some x => if x.mode = .trk then setCache s c (tset (cacheOf s c) sec (f x)) else s
  | none => s

/-- The cache that is child `c` of a home (R193). -/
def childCache (h : HomeRef) (c : Nat) : CacheRef :=
  match h with
  | .l2 => .cc c
  | .cc n => .l1 (4 * n + c)

/-- The key of a home in the directory. -/
def homeKey : HomeRef → Nat
  | .l2 => 0
  | .cc n => n + 1

/-- An entry whose piece is in state 0 with neither owner nor sharer (R208). -/
def DirEntry.fresh (slot : Nat) (piece : List Nat) : DirEntry :=
  { slot := slot, piece := piece, st := 0, owner := none, sharers := 0, acks := 0, cont := none, held := [], used := 0 }

/-- The directory of a home. -/
def dirOf (s : State) (h : HomeRef) : Table DirEntry := (tget s.dir (homeKey h)).getD []

/-- The directory entry of a piece; none stands for state 0 (R208). -/
def dirGet (s : State) (h : HomeRef) (slot : Nat) (piece : List Nat) : DirEntry :=
  (tget (dirOf s h) (pieceKey piece)).getD (DirEntry.fresh slot piece)

/-- Has a piece a request in progress (R208)? -/
def DirEntry.busy (d : DirEntry) : Bool := d.acks != 0 || !d.held.isEmpty

/-- Writes a directory entry; an entry back in state 0 with nobody is freed at once (R208). -/
def dirPut (s : State) (h : HomeRef) (d : DirEntry) : State :=
  let t := dirOf s h
  let t' := if d.st = 0 && d.owner.isNone && d.sharers = 0 && !d.busy then terase t (pieceKey d.piece)
            else tset t (pieceKey d.piece) { d with used := s.now }
  { s with dir := tset s.dir (homeKey h) t' }

/-! ### The coherent value of a sector -/

/-- Is it a message of the forward network? -/
def MsgKind.forward (k : MsgKind) : Bool := k == .inv || k == .update || k == .fwdGets || k == .fwdGetx

/-- Is it data on its way to a cache? -/
def Msg.fill (m : Msg) : Bool := !m.toHome && (m.kind == .dataS || m.kind == .dataSW || m.kind == .dataE)

/-- Do two messages go between one home and one child, over a common sector? -/
def Msg.meets (m n : Msg) : Bool := m.home == n.home && m.child == n.child && m.piece.any (fun k => n.piece.contains k)

/-- Is a sector of a write-back buffer still to be taken by the home: a forward for it is on its way to the cache, or its request is on its way, or
held at the home (R203)? -/
def WriteBack.live (b : WriteBack) (s : State) (sec : Nat) : Bool :=
  s.net.any (fun m => (m.kind == .fwdGets || m.kind == .fwdGetx || m.fan3) && !m.toHome && m.home == b.home && m.child == b.child && m.piece.contains sec) ||
  (dirOf s b.home).any (fun e => e.2.held.any (fun r => r.event == 5 && r.child == b.child && r.ws.any (fun w => w.sec == sec))) ||
  (b.home == .l2 && s.setq.any (fun r => r.event == 5 && r.child == b.child && r.ws.any (fun w => w.sec == sec))) ||
  s.reqs.any (fun x => x.1 == b.home && x.2.event == 5 && x.2.child == b.child && x.2.ws.any (fun w => w.sec == sec))

/-- The coherent value of a sector: memory under the dirty bytes that TRK copies hold, in caches, in write-back buffers or on their way, and under
the writes of caches that go through and have not reached their home. -/
def cohSector (s : State) (sec : Nat) : BitVec 256 :=
  let onto := fun (d : BitVec 256) (x : Option CSector) =>
    match x with
    | some c => if c.mode = .trk then overlay d c.data c.dirty else d
    | none => d
  let d1 := (s.ccs.map Prod.fst).foldl (fun d n => onto d (cacheGet s (.cc n) sec)) (memSector s.mem sec)
  let d2 := (s.cores.map Prod.fst).foldl (fun d n => onto d (cacheGet s (.l1 n) sec)) d1
  let d3 := s.wbacks.foldl (fun d b => if b.live s sec then onto d (b.xs.find? (fun x => x.sec == sec)) else d) d2
  let d4 := s.net.foldl (fun d m => match m.data.lookup sec, m.dirty.lookup sec with | some x, some k => if m.kind = .update then d else overlay d x k | _, _ => d) d3
  s.reqs.foldl (fun d x => if x.2.event = 7 ∧ x.2.child < 64 then x.2.ws.foldl (fun d w => if w.sec = sec then overlay d w.data w.mask else d) d else d) d4

/-! ### PTEs (R346) -/

/-- V. -/
def pteV (p : Word) : Bool := p.getLsbD 0
/-- RD. -/
def pteRd (p : Word) : Bool := p.getLsbD 1
/-- WR. -/
def pteWr (p : Word) : Bool := p.getLsbD 2
/-- EX. -/
def pteEx (p : Word) : Bool := p.getLsbD 3
/-- G. -/
def pteG (p : Word) : Bool := p.getLsbD 4
/-- RES. -/
def pteRes (p : Word) : Bool := p.getLsbD 7
/-- CM: 3 is reserved and never reaches a translation. -/
def pteCm (p : Word) : Cm := match bitsOf p.toNat 9 8 with | 0 => .trk | 1 => .siv | _ => .unc
/-- FLR as a number; 5 to 7 are reserved. -/
def pteFlr (p : Word) : Nat := bitsOf p.toNat 12 10
/-- FLA. -/
def pteFla (p : Word) : Bool := p.getLsbD 13
/-- TIER. -/
def pteTier (p : Word) : Nat := bitsOf p.toNat 15 14
/-- OBJ. -/
def pteObj (p : Word) : Nat := bitsOf p.toNat 27 16
/-- PFN. -/
def ptePfn (p : Word) : Nat := p.toNat / 2 ^ 28
/-- A leaf has RD, WR or EX set (R345). -/
def pteLeaf (p : Word) : Bool := pteRd p || pteWr p || pteEx p

/-- The key in the cell list of a physical frame of a tier (R346). -/
def frameKey (tier pfn : Nat) : Nat := (if tier = 2 then hostBase else 0) + pfn * 65536

/-! ### Windows (R342, R346, R355) -/

/-- Does a window hold the `n` bytes at `a`? -/
def PWindow.holds (w : PWindow) (a n : Nat) : Bool := decide (w.base ≤ a) && decide (a + n ≤ w.base + w.units * 65536)

/-- The tenant of a context; context 0 has none. -/
def tenantOf (s : State) (ctx : Nat) : Option Tenant := (tget s.ctxs ctx).bind (fun c => c.tenant.bind (fun t => tget s.tenants t))

/-- The window of a tenant that holds a range, for host addresses or device addresses. -/
def Tenant.window (t : Tenant) (host : Bool) (a n : Nat) : Option PWindow := t.wins.find? (fun w => w.holds a n && (w.tier == 2) == host)

/-- Does the range lie in the protected window of a context other than `ctx` (R355)? -/
def protectedFrom (s : State) (ctx a n : Nat) : Bool :=
  s.ctxs.any (fun e => e.1 != ctx && e.2.conf && decide (e.2.protbase < a + n) && decide (a < e.2.protbase + e.2.protlen))

/-- May the context use the device range at all (R346)? The privileged context is bound only by R355. -/
def ownsRange (s : State) (ctx a n : Nat) : Bool :=
  !protectedFrom s ctx a n &&
  (match tget s.ctxs ctx with
   | none => false
   | some c => match c.tenant with
     | none => ctx == 0
     | some t => match tget s.tenants t with | none => false | some t => (t.window false a n).isSome)

/-! ### The walk (R345, R346) -/

/-- The coherent 8-byte word at a physical address. -/
def physWord (s : State) (pa : Nat) : Word := BitVec.ofNat 64 (secNum (cohSector s (secOf pa)) (pa % 32) 8)

/-- The coherent bytes at a physical address. -/
def physBytes (s : State) (pa n : Nat) : List Byte :=
  (piecesOf pa n 0 (n / 32 + 2)).flatMap (fun p => (List.range p.len).map (fun i => sectorByte (cohSector s p.sec) (p.off + i)))

/-- A translated page: the context that asked, the leaf, where the leaf lies, its size, and the physical key of its first byte. -/
structure Page where
  ctx  : Nat
  pte  : Word
  addr : Nat
  big  : Bool
  va   : Nat
  base : Nat
deriving DecidableEq, Repr

/-- Bytes of a page. -/
def pageBytes (big : Bool) : Nat := if big then 2 ^ 29 else 65536

/-- The page of a leaf for a virtual address. -/
def pageOf (ctx : Nat) (pte : Word) (addr : Nat) (big : Bool) (va : Word) : Page :=
  { ctx := ctx, pte := pte, addr := addr, big := big, va := va.toNat / pageBytes big * pageBytes big, base := frameKey (pteTier pte) (ptePfn pte) }

/-- How accesses reach the page: the object index counts on TRK pages only (R192). -/
def Page.kind (p : Page) : PageKind :=
  { cm := pteCm p.pte, tag := { ctx := p.ctx, obj := if pteCm p.pte = .trk then pteObj p.pte else 0 } }

/-- The physical key of a virtual address in its page. -/
def Page.pa (p : Page) (va : Word) : Nat := p.base + va.toNat % pageBytes p.big

/-- A malformed leaf (R346). -/
def leafBad (p : Word) (big : Bool) : Bool :=
  (pteWr p && !pteRd p) || pteTier p == 3 || bitsOf p.toNat 9 8 == 3 || decide (5 ≤ pteFlr p) || (big && ptePfn p % 2 ^ 13 != 0)

/-- Is a DIMM population one that R419 accepts: the same on all eight channels, each with at most two RDIMMs of 32, 64, 96 or 128 GiB? -/
def dimmsOk (l : List (List Nat)) : Bool :=
  l.length == 8 && l.all (fun c => some c == l.head? && decide (c.length ≤ 2) && c.all (fun n => n == 32 || n == 64 || n == 96 || n == 128))

/-- Is the DIMM tier present (R419)? -/
def Mgmt.dimm (m : Mgmt) : Bool := dimmsOk m.dimms && m.dimms.any (fun c => !c.isEmpty)

/-- May a table lie there? A pointer outside the tenant's windows raises XLAT (R346), and so does one into a window of an absent DIMM tier (R419). -/
def tableOk (s : State) (ctx pa : Nat) : Bool :=
  match (tget s.ctxs ctx).bind (fun c => c.tenant) with
  | none => ctx == 0
  | some t => match tget s.tenants t with
    | none => false
    | some t => match t.window false pa 65536 with | none => false | some w => w.tier != 1 || s.mgmt.dimm

/-- A table entry that the walker reads for a context: PERM in another context's protected window (R355). -/
def tableWord (s : State) (ctx pa : Nat) : Cause ⊕ Word := if protectedFrom s ctx pa 8 then .inl .perm else .inr (physWord s pa)

/-- The table that a valid pointer entry names; XLAT for a leaf where `leaf` allows none, or a table outside the tenant's windows (R346). -/
def nextTable (s : State) (ctx : Nat) (e : Word) : Cause ⊕ Nat :=
  if !pteV e || pteLeaf e || !tableOk s ctx (ptePfn e * 65536) then .inl .xlat else .inr (ptePfn e * 65536)

/-- The leaf that maps a virtual address, or why there is none (R345, R346). -/
def walkFor (s : State) (ctx : Nat) (va : Word) : Cause ⊕ Page :=
  match tget s.ctxs ctx with
  | none => .inl .xlat
  | some c =>
    if !canonical va then .inl .xlat
    else
      match tableWord s ctx (c.ptroot + 8 * bitsOf va.toNat 54 42) with
      | .inl k => .inl k
      | .inr e1 =>
        match nextTable s ctx e1 with
        | .inl k => .inl k
        | .inr t2 =>
          let a2 := t2 + 8 * bitsOf va.toNat 41 29
          match tableWord s ctx a2 with
          | .inl k => .inl k
          | .inr e2 =>
            if pteV e2 && pteLeaf e2 then (if leafBad e2 true then .inl .xlat else .inr (pageOf ctx e2 a2 true va))
            else match nextTable s ctx e2 with
              | .inl k => .inl k
              | .inr t3 =>
                let a3 := t3 + 8 * bitsOf va.toNat 28 16
                match tableWord s ctx a3 with
                | .inl k => .inl k
                | .inr e3 => if !pteV e3 || !pteLeaf e3 || leafBad e3 false then .inl .xlat else .inr (pageOf ctx e3 a3 false va)

/-- The leaf that maps a virtual address, if there is one. -/
def walk (s : State) (ctx : Nat) (va : Word) : Option Page := match walkFor s ctx va with | .inl _ => none | .inr p => some p

/-- The tenant's number of a context. -/
def tenantIdx (s : State) (ctx : Nat) : Option Nat := (tget s.ctxs ctx).bind (fun c => c.tenant)

end Sys2Proof.Machine
end

