-- ==== Sys2Proof/Machine/Coherence.lean ====
section
/-! DEFINITION. The protocol engines and the caches (spec/07_coherence.md R192 to R211, spec/06_domains.md R177, R179,
R189, R425). A request is applied by the table of its piece; its messages stand in `net` until they are delivered.
An instruction's access delivers every message at once (`settle`): the latency is not fixed (R426). -/

namespace Sys2Proof.Machine

open Sys2Proof

/-! ### Pieces (R194 to R196) -/

/-- A shape record (R194). -/
structure TileShape where
  rows   : Nat
  cols   : Nat
  ebl    : Nat
  stride : Nat
  slot   : Nat
deriving DecidableEq, Repr

/-- The fields of the two words of a shape record (R194). -/
def tileShapeOf (w0 w1 : Word) : TileShape :=
  { rows := bitsOf w0.toNat 15 0, cols := bitsOf w0.toNat 31 16, ebl := bitsOf w0.toNat 34 32, stride := bitsOf w1.toNat 39 0, slot := bitsOf w1.toNat 47 40 }

/-- Tile width in bytes (R194). -/
def TileShape.tw (o : TileShape) : Nat := o.cols * 2 ^ o.ebl

/-- The tile of the byte at an offset of an object (R195). A row stride of 0 passes the checks of R194, and its tiles are free values (log 41). -/
def TileShape.tile (o : TileShape) (off : Nat) : Nat × Nat :=
  if o.stride = 0 ∨ o.tw = 0 ∨ o.rows = 0 then Config.freeTile off else (off / o.stride / o.rows, off % o.stride / o.tw)

/-- The key of an object in `objs`. -/
def objKey (t : ObjTag) : Nat := 4096 * t.ctx + t.obj

/-- The record of an object in the object table of its context (R196, R343); zeros where another context's protected window covers it (R355). -/
def objShape (s : State) (tag : ObjTag) : TileShape :=
  match tget s.ctxs tag.ctx with
  | none => tileShapeOf 0 0
  | some c =>
    let a := c.objtab + 16 * tag.obj
    if protectedFrom s tag.ctx a 16 then tileShapeOf 0 0 else tileShapeOf (physWord s a) (physWord s (a + 8))

/-- The offset in an object of a physical sector: the record holds no base, and a request no virtual address, so the home has the range that OBJDCL
declared, and looks for the first page of the range that the context maps to the sector's frame (DESIGN CHOICE, log 41). -/
def objOffset (s : State) (tag : ObjTag) (sec : Nat) : Option Nat :=
  (tget s.objs (objKey tag)).bind (fun o =>
    (List.range (o.extent / 65536)).findSome? (fun i =>
      let va := o.base + BitVec.ofNat 64 (65536 * i)
      (walk s tag.ctx va).bind (fun p => if p.pa va / 65536 = 32 * sec / 65536 then some (65536 * i + 32 * sec % 65536) else none)))

/-- The sectors of the line that holds a sector (R195). -/
def lineOf (sec : Nat) : List Nat := [4 * (sec / 4), 4 * (sec / 4) + 1, 4 * (sec / 4) + 2, 4 * (sec / 4) + 3]

/-- Protocol slot and sectors of the piece that holds a sector, for the object that a request names (R195, R196). Object 0 has slot 0 and
whole lines; so has a sector that the object's range does not map, under the object's slot (DESIGN CHOICE, log 41). -/
def pieceOf (s : State) (tag : ObjTag) (sec : Nat) : Nat × List Nat :=
  if tag.obj = 0 then (0, lineOf sec)
  else
    let o := objShape s tag
    match objOffset s tag sec with
    | none => (o.slot, lineOf sec)
    | some off =>
      let tileOf := fun (x : Nat) => o.tile (off + 32 * x - 32 * sec)
      (o.slot, (lineOf sec).filter (fun x => tileOf x == tileOf sec))

/-! ### Tables (R199, R200) -/

/-- An entry of a protocol table. -/
structure PEntry where
  log  : Bool
  at_  : Bool
  wr   : Bool
  fan  : Nat
  shr  : Nat
  fwd  : Nat
  resp : Nat
  nxe  : Nat
  next : Nat
deriving DecidableEq, Repr

/-- The fields of an entry word (R200). -/
def pEntryOf (w : BitVec 32) : PEntry :=
  { log := w.getLsbD 21, at_ := w.getLsbD 20, wr := w.getLsbD 19, fan := bitsOf w.toNat 18 17, shr := bitsOf w.toNat 16 14,
    fwd := bitsOf w.toNat 13 12, resp := bitsOf w.toNat 11 8, nxe := bitsOf w.toNat 7 4, next := bitsOf w.toNat 3 0 }

/-- The entry of a table for a state and an event. -/
def Proto.entry (p : Proto) (st ev : Nat) : PEntry := pEntryOf (p.entries.getD (st * 16 + ev) 0)

/-- The entry that a slot's table gives; an empty slot gives the zero entry. -/
def slotEntry (s : State) (slot st ev : Nat) : PEntry :=
  match tget s.protos slot with
  | none => pEntryOf 0
  | some p => p.entry st ev

/-- Does the slot's table declare update semantics? -/
def slotUpds (s : State) (slot : Nat) : Bool := match tget s.protos slot with | none => false | some p => p.upds

/-! ### Caches -/

/-- The home die of a physical line (R29). The spec does not say which stack holds an HBM address: the model gives each die a quarter of HBM
(log 6). -/
def homeDie (pa : Nat) : Nat :=
  if pa < Config.hbmFrames * 65536 then pa / (Config.hbmFrames * 65536 / Config.dies) else bitsOf pa 8 7

/-- The home slice of a physical line within its die (R29). -/
def homeSlice (pa : Nat) : Nat :=
  if pa < Config.hbmFrames * 65536 then bitsOf pa 12 7 ^^^ bitsOf pa 18 13 else bitsOf pa 14 9 ^^^ bitsOf pa 20 15

/-- Set of the directory store that a piece falls in: 1,024 sets of 16 ways in each slice (R208; the choice of the set is the model's, log 6). -/
def dirSet (key : Nat) : Nat := (homeDie (32 * key) * 64 + homeSlice (32 * key)) * 1024 + 32 * key / 32768 % 1024

/-- The data a home holds for a sector: memory, or the cluster cache's copy. -/
def homeSector (s : State) (h : HomeRef) (sec : Nat) : BitVec 256 :=
  match h with
  | .l2 => memSector s.mem sec
  | .cc n => match cacheGet s (.cc n) sec with | some x => x.data | none => memSector s.mem sec

/-! ### Messages and write-back buffers (R202, R203, R209) -/

/-! ### Reservations (R220) -/

/-- Is a reservation held by the agent `keep` of group `g` of block `b`? -/
def Resv.keptBy (r : Resv) (b g : Nat) (keep : Option AgentRef) : Bool := keep == some { blk := b, grp := g, lane := some r.lane }

/-- Clears every reservation on a sector but that of `keep`. -/
def clearResv (s : State) (sec : Nat) (keep : Option AgentRef) : State :=
  { s with blocks := s.blocks.map (fun e =>
      (e.1, { e.2 with groups := e.2.groups.map (fun q =>
        (q.1, { q.2 with resv := q.2.resv.filter (fun r => r.sec != sec || r.keptBy e.1 q.1 keep) })) })) }

/-- Does an access to these sectors wait for the host link (R421)? -/
def hostWaits (s : State) (secs : List Nat) : Bool := !s.host.up && secs.any (fun k => decide (hostBase / 32 ≤ k))

/-- The masked bytes of a sector as single writes. -/
def sectorWrites (w : SecWrite) : List (Nat × List Byte) :=
  ((List.range 32).filter (fun i => w.mask.getLsbD i)).map (fun i => (32 * w.sec + i, [sectorByte w.data i]))

/-- Writes memory at its home: bytes, time stamp (R178). A write to host memory waits for the link (R421). -/
def homeWrite (s : State) (w : SecWrite) (t : Nat) : State :=
  if hostWaits s [w.sec] then
    { s with host := { s.host with pending := s.host.pending ++ sectorWrites w }, stamps := sset s.stamps w.sec (BitVec.ofNat 64 t) }
  else
  { s with mem := memPutSector s.mem w.sec w.data w.mask, stamps := sset s.stamps w.sec (BitVec.ofNat 64 t) }

/-- A store of all 32 bytes of a sector clears its poison (R381); a write-back of several stores does not. -/
def clearPoison (s : State) (w : SecWrite) : State :=
  if w.mask = BitVec.allOnes 32 then { s with poison := s.poison.filter (fun x => x != w.sec) } else s

/-! ### Atomics (R52, R219) -/

/-- f(x, d) of R219 on `w`-bit numbers: the new value of a location that holds `x`. `fadd` keeps subnormals,
canonicalises NaNs and raises no flag. -/
def atomOp (op : AtOp) (wide : Bool) (x d cmp : Nat) : Nat :=
  let w := if wide then 64 else 32
  let f := if wide then f64F else f32F
  let x := x % 2 ^ w
  let d := d % 2 ^ w
  match op with
  | .add => (x + d) % 2 ^ w
  | .smin => if signedOf w x ≤ signedOf w d then x else d
  | .smax => if signedOf w d ≤ signedOf w x then x else d
  | .umin => min x d
  | .umax => max x d
  | .and => x &&& d
  | .or => x ||| d
  | .xor => x ^^^ d
  | .exch => d
  | .cas => if x = cmp % 2 ^ w then d else x
  | .fadd => (rnd f .rne false 0 (exAdd .rne (f.decode x) (f.decode d)).1).1

/-- A sector with an `n`-byte number at offset `o`, zero elsewhere. -/
def secWith (o n x : Nat) : BitVec 256 := BitVec.ofNat 256 (x % 2 ^ (8 * n) * 2 ^ (8 * o))

/-! ### Requests and the engine (R200 to R203, R208) -/

/-- A message placed on the networks. -/
def sendMsg (s : State) (m : Msg) : State := { s with net := s.net ++ [m] }

/-- A message with nothing in it. -/
def Msg.blank (k : MsgKind) (h : HomeRef) (child slot : Nat) (piece : List Nat) (sec : Nat) (tag : ObjTag) (vt : Nat) : Msg :=
  { kind := k, home := h, child := child, toHome := false, req := 0, slot := slot, piece := piece, sec := sec, tag := tag, data := [],
    dirty := [], nets := [], acks := 0, fan3 := false, up := false, void := [], vt := vt }

/-- A request that carries nothing. -/
def bareReq (event child : Nat) (tag : ObjTag) (sec : Nat) : HeldReq :=
  { event := event, child := child, tag := tag, sec := sec, dom := .bulk, ws := [], op := none }

/-- The tag of a request that names no object, of the host or the device itself (R192): object 0. -/
def noTag : ObjTag := { ctx := 0, obj := 0 }

/-- Children that a sharer vector names. -/
def sharersOf (v : BitVec 64) : List Nat := (List.range 64).filter (fun i => v.getLsbD i)

/-- The vector without a child. -/
def dropSharer (v : BitVec 64) (c : Nat) : BitVec 64 := v &&& ~~~ laneBit c

/-- The sharer operation of an entry (R200). Child 64 stands for a requester that is no cache. -/
def shrOp (d : DirEntry) (shr c : Nat) : DirEntry :=
  let bit : BitVec 64 := if c < 64 then laneBit c else 0
  match shr with
  | 1 => { d with sharers := d.sharers ||| bit }
  | 2 => { d with owner := if c < 64 then some c else none, sharers := 0 }
  | 3 => { d with owner := if d.owner = some c then none else d.owner, sharers := dropSharer d.sharers c }
  | 4 => { d with owner := none, sharers := 0 }
  | 5 => { d with owner := none, sharers := (match d.owner with | some o => d.sharers ||| laneBit o | none => d.sharers) ||| bit }
  | _ => d

/-- Classifies a request against the entry it meets (R201). -/
def classify (d : DirEntry) (r : HeldReq) : Nat :=
  if r.event = 2 ∨ r.event = 3 then (if d.sharers.getLsbD r.child then 2 else 3)
  else if r.event = 5 ∨ r.event = 6 then (if d.owner = some r.child then 5 else 6)
  else r.event

/-- Does a table entry grant write permission to the requester? -/
def PEntry.grantsWrite (e : PEntry) (ev : Nat) : Bool := e.resp == 3 || e.fwd == 2 || (e.resp == 4 && (ev == 2 || ev == 3))

/-- Does a cluster cache own a sector? -/
def ccOwns (s : State) (n sec : Nat) : Bool := match cacheGet s (.cc n) sec with | some x => x.mode == .trk && x.perm == .own | none => false

/-- The entry by which a table gives a reader a shared copy and keeps its state: the one of the lowest state that has one. -/
def sharedEntry (s : State) (slot : Nat) : Option PEntry :=
  (List.range 16).findSome? (fun st =>
    let e := slotEntry s slot st 0
    if (e.resp = 1 ∨ e.resp = 2) ∧ e.next = st then some { e with log := false, fan := 0, shr := 1, nxe := st } else none)

/-- The entry that a home applies. A cluster cache grants an L1 no permission wider than its own (R193): a reader that the table would make
an owner gets a shared copy where the cluster cache has only one (log 41). -/
def homeEntry (s : State) (h : HomeRef) (slot st ev sec : Nat) : PEntry :=
  let e := slotEntry s slot st ev
  match h with
  | .l2 => e
  | .cc n => if ev = 0 && e.grantsWrite 0 && !ccOwns s n sec then (sharedEntry s slot).getD e else e

/-- The write, the atomic, the response or forward and the next state of an entry (R200). `d` is the entry after the
sharer operation, `old` as the request met it, `n` the acknowledgements that the requester will receive; `wr` writes
bytes at the home. A forward for which there is no owner but the requester is answered by the home itself, so that the request completes (R211;
DESIGN CHOICE, log 41). -/
def engineFinish (wr : State → SecWrite → State) (s : State) (h : HomeRef) (old d : DirEntry) (r : HeldReq) (e : PEntry) (n : Nat) : State :=
  let s1 := if e.wr then r.ws.foldl wr s else s
  let data := fun (x : State) => d.piece.map (fun sec => (sec, homeSector x h sec))
  let (s2, oldVal) : State × Nat :=
    match e.at_, r.op with
    | true, some op =>
      let nb := if op.wide then 8 else 4
      let x := secNum (homeSector s1 h (secOf op.pa)) (op.pa % 32) nb
      let y := atomOp op.op op.wide x op.x.toNat op.cmp.toNat
      (wr s1 { sec := secOf op.pa, data := secWith (op.pa % 32) nb y, mask := spanMask (op.pa % 32) nb, dom := op.dom }, x)
    | _, _ => (s1, 0)
  let b := Msg.blank .ack h r.child d.slot d.piece r.sec r.tag s.now
  let s3 : State :=
    match e.resp with
    | 1 => sendMsg s2 { b with kind := .dataS, data := data s2, acks := n }
    | 2 => sendMsg s2 { b with kind := .dataSW, data := data s2, acks := n }
    | 3 => sendMsg s2 { b with kind := .dataE, data := data s2, acks := n }
    | 4 => sendMsg s2 { b with kind := .ack, acks := n, up := classify old r == 2 }
    | 5 => sendMsg s2 { b with kind := .wtack, acks := n }
    | 6 => sendMsg s2 { b with kind := .atomr, data := [((r.op.map (fun o => o.pa)).getD 0, BitVec.ofNat 256 oldVal)], acks := n }
    | _ => s2
  let s4 : State :=
    match e.fwd, old.owner.filter (fun o => o != r.child) with
    | 1, some o => sendMsg s3 { b with kind := .fwdGets, child := o, req := r.child, acks := n }
    | 2, some o => sendMsg s3 { b with kind := .fwdGetx, child := o, req := r.child, acks := n }
    | 1, none => sendMsg s3 { b with kind := if slotUpds s d.slot then .dataSW else .dataS, data := data s3, acks := n }
    | 2, none => sendMsg s3 { b with kind := .dataE, data := data s3, acks := n }
    | _, _ => s3
  let alone : Bool := d.owner.isNone && d.sharers == 0
  dirPut s4 h { d with st := if alone then e.nxe else e.next, acks := 0, cont := none }

/-- A mode conflict is counted for the tenant of its context (R189, R382); 16 stands for no tenant. -/
def countConflict (s : State) (ctx : Nat) : State :=
  let t := (tenantIdx s ctx).getD 16
  { s with mgmt := { s.mgmt with conflicts := tset s.mgmt.conflicts t ((tget s.mgmt.conflicts t).getD 0 + 1) } }

/-- The record of an entry with LOG (R200, R382), which names the context of the request: a mode conflict when the event is NTWB. -/
def logEntry (s : State) (slot st ev ctx pa : Nat) : State :=
  if ev = 9 then countConflict (s.logEvent 2 slot st ev ctx pa) ctx else s.logEvent 1 slot st ev ctx pa

/-- Applies a request that no earlier one holds back (R200, R203). -/
def engineRun (wr : State → SecWrite → State) (s : State) (h : HomeRef) (d : DirEntry) (r : HeldReq) : State :=
  let ev := classify d r
  let e := homeEntry s h d.slot d.st ev r.sec
  let s1 := if e.log then logEntry s d.slot d.st ev r.tag.ctx (32 * pieceKey d.piece) else s
  let d1 := shrOp d e.shr r.child
  let others := (sharersOf d.sharers).filter (fun c => c != r.child)
  let b := { Msg.blank .inv h 0 d.slot d.piece r.sec r.tag s.now with req := r.child }
  match e.fan with
  | 3 =>
    let all := sharersOf d.sharers ++ (match d.owner with | some o => if d.sharers.getLsbD o then [] else [o] | none => [])
    if all.isEmpty then engineFinish wr s1 h d d1 r e 0
    else
      let s2 := all.foldl (fun s c => sendMsg s { b with child := c, fan3 := true }) s1
      dirPut s2 h { d1 with st := d.st, acks := all.length, cont := some { r with event := ev } }
  | 1 => engineFinish wr (others.foldl (fun s c => sendMsg s { b with child := c }) s1) h d d1 r e others.length
  | 2 =>
    let b2 := { b with kind := .update, data := r.ws.map (fun (w : SecWrite) => (w.sec, w.data)), dirty := r.ws.map (fun (w : SecWrite) => (w.sec, w.mask)) }
    engineFinish wr (others.foldl (fun s c => sendMsg s { b2 with child := c }) s1) h d d1 r e others.length
  | _ => engineFinish wr s1 h d d1 r e 0

/-- The least recently used entry without a request in progress in a full set of the L2 directory (R208), where a piece has no entry. -/
def dirVictim (s : State) (key : Nat) : Option DirEntry :=
  let es := (dirOf s .l2).filter (fun e => dirSet e.1 = dirSet key)
  if es.length < 16 ∨ (es.any (fun e => e.1 == key)) then none
  else
    (tvals es).foldl (fun (b : Option DirEntry) e =>
      if e.busy then b else match b with | none => some e | some x => if e.used < x.used then some e else some x) none

/-- Is the data that an owner sends a home for FWD_GETS still on its way? The requests after it wait for it (log 41: R203 does not say what the home
would answer). -/
def dataOwed (s : State) (h : HomeRef) (piece : List Nat) : Bool :=
  s.net.any (fun m => m.home == h && m.piece.any (fun k => piece.contains k) &&
    ((m.kind == .fwdGets && !m.toHome) || (m.toHome && (m.kind == .dataS || m.kind == .dataSW))))

/-- Requests for a piece are applied in arrival order (R203), up to one that finds the piece in progress; that one and those behind it are held. -/
def engineRuns (wr : State → SecWrite → State) (h : HomeRef) (slot : Nat) (piece : List Nat) (s : State) : List HeldReq → State
  | [] => s
  | r :: rest =>
    let d := dirGet s h slot piece
    if d.acks != 0 || dataOwed s h piece then dirPut s h { d with held := d.held ++ r :: rest }
    else engineRuns wr h slot piece (engineRun wr s h d r) rest

/-- A request reaches the engine of its piece (R203): held behind a piece in progress, applied otherwise. -/
def engineApply (wr : State → SecWrite → State) (s : State) (h : HomeRef) (slot : Nat) (piece : List Nat) (r : HeldReq) : State :=
  let d := dirGet s h slot piece
  if d.held.isEmpty then engineRuns wr h slot piece s [r] else dirPut s h { d with held := d.held ++ [r] }

/-- The requests held for a piece are applied, as far as they can be. -/
def engineResume (wr : State → SecWrite → State) (s : State) (h : HomeRef) (d : DirEntry) : State :=
  engineRuns wr h d.slot d.piece (dirPut s h { d with held := [] }) d.held

/-! ### Invalidations inside a cluster (R193) -/

/-- The write of the dirty bytes of a sector, on the network of the domain that dirtied it (R209). -/
def dirtyWrite (x : CSector) : SecWrite := { sec := x.sec, data := x.data, mask := x.dirty, dom := x.net }

/-- The one agent of two, if they are one. -/
def sameWho (clean : Bool) (a b : Option AgentRef) : Option AgentRef := if clean || a == b then b else none

/-- A copy that takes the dirty bytes of a copy above it. -/
def CSector.merge (c x : CSector) : CSector :=
  { c with data := overlay c.data x.data x.dirty, dirty := c.dirty ||| x.dirty, doms := c.doms ||| x.doms, net := x.net,
           who := sameWho (c.dirty == 0) c.who x.who, mates := c.mates ++ x.mates.filter (fun k => !c.mates.contains k) }

/-- A copy whose dirty bytes have gone down. -/
def CSector.clean (x : CSector) : CSector := { x with dirty := 0, doms := 0, who := none, mates := [] }

/-- Dirty bytes of an L1 copy merged into the cluster cache's copy. -/
def mergeUp (s : State) (n : Nat) (x : CSector) : State :=
  match cacheGet s (.cc n) x.sec with
  | some c => cachePut s (.cc n) (c.merge x)
  | none => homeWrite s (dirtyWrite x) s.now

/-- Is a sector's copy on its way to a cache, as data or as a forward to the owner that sends it? -/
def Msg.copyFor (m : Msg) (h : HomeRef) (child : Nat) : Bool :=
  !m.toHome && m.home == h && ((m.fill && m.child == child) || ((m.kind == .fwdGets || m.kind == .fwdGetx) && m.req == child))

/-- The requester of a message does not keep these sectors (R203). -/
def Msg.voided (m : Msg) (piece : List Nat) : Msg := { m with void := m.void ++ piece.filter (fun k => m.piece.contains k && !m.void.contains k) }

/-- The cluster cache takes back every L1 copy of a piece: dirty bytes move up, copies, those on their way too, and directory state go. -/
def ccRecall (s0 : State) (n : Nat) (piece : List Nat) : State :=
  let s := { s0 with net := s0.net.map (fun m => if [0, 1, 2, 3].any (m.copyFor (.cc n)) then m.voided piece else m) }
  let take := fun (s : State) (core : Nat) => piece.foldl (fun s sec =>
    match cacheGet s (.l1 core) sec with
    | some x => if x.mode = .trk then cacheDrop (if x.dirty = 0 then s else mergeUp s n x) (.l1 core) [sec] else s
    | none => s) s
  let s1 := [4 * n, 4 * n + 1, 4 * n + 2, 4 * n + 3].foldl take s
  match tget (dirOf s1 (.cc n)) (pieceKey piece) with
  | none => s1
  | some d => dirPut s1 (.cc n) { d with st := 0, owner := none, sharers := 0 }

/-- The sectors of a piece that messages on their way and write-back buffers carry reach memory, and no fill on its way is kept (R197, R208). -/
def flushNet (s : State) (piece : List Nat) : State :=
  let keep := fun (e : Nat × BitVec 256) => !piece.contains e.1
  let wbs := s.wbacks.flatMap (fun b => b.xs.filter (fun x => piece.contains x.sec && x.dirty != 0 && b.live s x.sec))
  let moving := s.net.flatMap (fun m => if m.kind = .update then [] else m.dirty.filterMap (fun e =>
    if piece.contains e.1 then (m.data.lookup e.1).map (fun d => ({ sec := e.1, data := d, mask := e.2, dom := (m.nets.lookup e.1).getD .bulk } : SecWrite))
    else none))
  let s1 := (wbs.map dirtyWrite ++ moving).foldl (fun s w => homeWrite s w s.now) s
  { s1 with net := s1.net.map (fun m => if m.kind = .atomr then m else { m with data := m.data.filter keep, dirty := m.dirty.filter (fun e => !piece.contains e.1) }),
            wbacks := s1.wbacks.map (fun b => { b with xs := b.xs.filter (fun x => !piece.contains x.sec) }) }

/-- Takes back every TRK copy of a piece on the device: what DEVICT does, whose form R207 fixes for every table. -/
def purgePiece (s : State) (piece : List Nat) : State :=
  let s1 := (s.ccs.map Prod.fst).foldl (fun s n => ccRecall s n piece) s
  let take := fun (s : State) (n : Nat) => piece.foldl (fun s sec =>
    match cacheGet s (.cc n) sec with
    | some x =>
      if x.mode = .trk then cacheDrop (if x.dirty = 0 then s else homeWrite s (dirtyWrite x) s.now) (.cc n) [sec] else s
    | none => s) s
  let s2 := flushNet ((s.ccs.map Prod.fst).foldl take s1) piece
  match tget (dirOf s2 .l2) (pieceKey piece) with
  | none => s2
  | some d => dirPut s2 .l2 { d with st := 0, owner := none, sharers := 0 }

/-- DEVICT on the piece of a directory entry (R197, R201, R208), with the record of its table entry. No request names its context. -/
def devict (s : State) (d : DirEntry) : State :=
  purgePiece (if (slotEntry s d.slot d.st 10).log then logEntry s d.slot d.st 10 0 (32 * pieceKey d.piece) else s) d.piece

/-- Entries of other pieces that share a sector with a piece: contexts that map one frame under different objects. Their copies are taken
back before the piece is served (log 41). -/
def dirConflicts (s : State) (h : HomeRef) (piece : List Nat) : List DirEntry :=
  (tvals (dirOf s h)).filter (fun d => d.piece != piece && d.piece.any (fun k => piece.contains k))

/-- Slot and sectors of the piece that a request is served for (R196). One that names no object, of the host or of an SIV or UNC mapping
(R192), is served for the piece that the directory holds. -/
def servedPiece (s : State) (h : HomeRef) (r : HeldReq) : Nat × List Nat :=
  let own := pieceOf s r.tag r.sec
  if r.event = 9 ∨ (r.event = 7 ∧ r.child = 64) then
    (((tvals (dirOf s h)).find? (fun d => d.piece.contains r.sec)).map (fun d => (d.slot, d.piece))).getD own
  else own

/-- Must a request wait: every way of its set has a request in progress, or an earlier request to the set waits, or a piece that it overlaps
has one in progress (R208)? -/
def setFull (s : State) (piece : List Nat) : Bool :=
  let key := pieceKey piece
  let es := (dirOf s .l2).filter (fun e => dirSet e.1 = dirSet key)
  (decide (16 ≤ es.length) && !es.any (fun e => e.1 == key) && es.all (fun e => e.2.busy)) ||
  s.setq.any (fun x => dirSet (pieceKey (servedPiece s .l2 x).2) == dirSet key) || (dirConflicts s .l2 piece).any DirEntry.busy

/-- A request reaches the L2 home, with the eviction that its entry may need (R208). -/
def l2Request (s : State) (r : HeldReq) : State :=
  let (slot, piece) := servedPiece s .l2 r
  if setFull s piece then { s with setq := s.setq ++ [r] }
  else
    let s1 := (dirConflicts s .l2 piece).foldl devict s
    let s2 := match dirVictim s1 (pieceKey piece) with | some d => devict s1 d | none => s1
    engineApply (fun s w => homeWrite s w s.now) s2 .l2 slot piece r

/-- A cache notes the request that it sends until it is complete (R203). -/
def noteSent (s : State) (h : HomeRef) (r : HeldReq) : State :=
  let cached : Bool := match h with | .l2 => decide (r.child < 64) | .cc _ => true
  if cached && (r.event ≤ 3 || r.event == 7 || r.event == 8) then
    { s with outst := s.outst ++ [{ home := h, child := r.child, piece := (pieceOf s r.tag r.sec).2, resp := false, need := 0, got := 0, vt := 0,
                                    wt := if r.event = 7 then some r.sec else none, own := decide (r.event ≤ 3) }] }
  else s

/-- A request leaves on the network of its domain (R209). -/
def sendReq (s : State) (h : HomeRef) (r : HeldReq) : State := let s1 := noteSent s h r; { s1 with reqs := s1.reqs ++ [(h, r)] }

/-- A write at a cluster cache as home: kept there by an owner, written through otherwise (R193, R202). -/
def ccWrite (n : Nat) (s : State) (w : SecWrite) : State :=
  let wt := fun (tag : ObjTag) => { (bareReq 7 n tag w.sec) with ws := [w], dom := w.dom }
  match cacheGet s (.cc n) w.sec with
  | some c =>
    let c1 := { c with data := overlay c.data w.data w.mask }
    if c.perm = .own then cachePut s (.cc n) { c1 with dirty := c.dirty ||| w.mask, doms := c.doms ||| domBit w.dom, net := w.dom }
    else sendReq (cachePut s (.cc n) c1) .l2 (wt c.tag)
  | none => sendReq s .l2 (wt noTag)

/-- A request to a cluster cache as home. -/
def ccRequest (s : State) (n : Nat) (r : HeldReq) : State :=
  let (slot, piece) := servedPiece s (.cc n) r
  engineApply (ccWrite n) ((dirConflicts s (.cc n) piece).foldl (fun s d => ccRecall s n d.piece) s) (.cc n) slot piece r

/-- A request to either home. -/
def homeRequest (s : State) (h : HomeRef) (r : HeldReq) : State :=
  match h with
  | .l2 => l2Request s r
  | .cc n => ccRequest s n r

/-- Are two requests on their way from one source to one destination of one network (R209)? A destination is a home slice, or a cluster cache. -/
def samePair (x y : HomeRef × HeldReq) : Bool :=
  x.1 == y.1 && x.2.child == y.2.child && x.2.dom == y.2.dom && homeDie (32 * x.2.sec) == homeDie (32 * y.2.sec) && homeSlice (32 * x.2.sec) == homeSlice (32 * y.2.sec)

/-- Does a network deliver requests of a pair in order (R209)? -/
def domFifo (d : Dom) : Bool := d == .seq || d == .tso || d == .cau

/-- May request `i` reach its home (R209)? -/
def reqReady (s : State) (i : Nat) (x : HomeRef × HeldReq) : Bool := !(domFifo x.2.dom && (s.reqs.take i).any (samePair x))

/-- Request `i` reaches its home. -/
def arriveReq (s : State) (i : Nat) : State :=
  match s.reqs[i]? with
  | none => s
  | some x => if reqReady s i x then homeRequest { s with reqs := s.reqs.eraseIdx i } x.1 x.2 else s

/-- What writes bytes at a home. -/
def homeWriter (h : HomeRef) : State → SecWrite → State := match h with | .l2 => (fun s w => homeWrite s w s.now) | .cc n => ccWrite n

/-! ### What the receiver of a message does (R202, R203) -/

/-- Does a cache hold bytes of an SIV write that have not gone further down? -/
def sivHeld (s : State) (c : CacheRef) (sec : Nat) : Bool := match cacheGet s c sec with | some x => x.mode == .siv && x.dirty != 0 | none => false

/-- Fills the sectors of a response; one with bytes of an SIV write is not replaced (R189), and one that an invalidation has overtaken is not kept
(R203): their dirty bytes go to the home (log 41). -/
def fillCache (s : State) (c : CacheRef) (m : Msg) (p : Permission) : State :=
  m.data.foldl (fun s e =>
    let d := (m.dirty.lookup e.1).getD 0
    if sivHeld s c e.1 || m.void.contains e.1 then
      (if d = 0 then s else homeWriter m.home s { sec := e.1, data := e.2, mask := d, dom := (m.nets.lookup e.1).getD .bulk })
    else cachePut s c { sec := e.1, data := e.2, dirty := d, doms := if d = 0 then 0 else BitVec.allOnes 5, net := (m.nets.lookup e.1).getD .bulk, who := none, mates := [],
                        fetched := s.now, stamp := (sget s.stamps e.1).toNat, perm := p, mode := .trk, tag := m.tag }) s

/-- What an owner or sharer sends of a piece, from its cache or its write-back buffer: its tracked sectors; a cluster cache recalls its L1s
first (R203). -/
def yieldPiece (s : State) (m : Msg) : State × List CSector :=
  let s1 := match m.home with | .l2 => ccRecall s m.child m.piece | .cc _ => s
  let c := childCache m.home m.child
  let buf := (s1.wbacks.filter (fun b => b.home == m.home && b.child == m.child)).flatMap (fun b => b.xs)
  (s1, m.piece.filterMap (fun sec =>
    match cacheGet s1 c sec with
    | some x => if x.mode = .trk then some x else buf.find? (fun y => y.sec == sec)
    | none => buf.find? (fun y => y.sec == sec)))

/-- A message that carries sectors, with the dirty masks or without. -/
def Msg.carry (m : Msg) (xs : List CSector) (dirty : Bool) : Msg :=
  let ds := if dirty then xs.filter (fun x => x.dirty != 0) else []
  { m with data := xs.map (fun x => (x.sec, x.data)), dirty := ds.map (fun x => (x.sec, x.dirty)), nets := ds.map (fun x => (x.sec, x.net)) }

/-- Writes at a home the dirty bytes that a message carries. -/
def sinkDirty (s : State) (m : Msg) : State :=
  m.dirty.foldl (fun s e =>
    match m.data.lookup e.1 with
    | none => s
    | some d => homeWriter m.home s { sec := e.1, data := d, mask := e.2, dom := (m.nets.lookup e.1).getD .bulk }) s

/-- The requests that wait for room in a set of the directory are tried again in arrival order (R208). -/
def pumpSet (s : State) : State := s.setq.foldl l2Request { s with setq := [] }

/-- The data of an owner reaches its home, and the requests that waited for it are applied. -/
def homeData (s : State) (m : Msg) : State :=
  let s1 := sinkDirty s m
  let d := dirGet s1 m.home m.slot m.piece
  if d.acks = 0 ∧ d.held ≠ [] then pumpSet (engineResume (homeWriter m.home) s1 m.home d) else s1

/-- An acknowledgement of FAN = 3 reaches its home: the last one lets the held request finish, and then the requests
behind it run in arrival order (R203). -/
def fanAck (s : State) (m : Msg) : State :=
  let s1 := sinkDirty s m
  let d := dirGet s1 m.home m.slot m.piece
  if 1 < d.acks then dirPut s1 m.home { d with acks := d.acks - 1 }
  else
    match d.cont with
    | none => pumpSet (dirPut s1 m.home { d with acks := 0 })
    | some r =>
      let wr := homeWriter m.home
      let d0 := { d with acks := 0, cont := none, held := [] }
      let s2 := engineFinish wr s1 m.home d0 d0 r (slotEntry s1 d.slot d.st r.event) 0
      pumpSet (engineResume wr s2 m.home { dirGet s2 m.home d.slot d.piece with held := d.held })

/-- Changes the first element that a test selects. -/
def mapFirst {α : Type} (p : α → Bool) (f : α → α) : List α → List α
  | [] => []
  | x :: xs => if p x then f x :: xs else x :: mapFirst p f xs

/-- Has a request its response and every acknowledgement (R203)? -/
def Outst.complete (o : Outst) : Bool := o.resp && o.got == o.need

/-- Requests that are complete are forgotten; a write-through takes the latest visibility time (R203). -/
def closeOutst (s : State) : State :=
  let s1 := (s.outst.filter Outst.complete).foldl (fun s o =>
    match o.wt with | some sec => { s with stamps := sset s.stamps sec (BitVec.ofNat 64 (max o.vt (sget s.stamps sec).toNat)) } | none => s) s
  { s1 with outst := s1.outst.filter (fun o => !o.complete) }

/-- The response to a request reaches its requester, with the count of acknowledgements to expect (R202, R203). -/
def respond (s : State) (m : Msg) : State :=
  let out := mapFirst (fun o => o.home == m.home && o.child == m.child && o.piece.contains m.sec && !o.resp)
    (fun o => { o with resp := true, need := m.acks, vt := max o.vt m.vt }) s.outst
  closeOutst { s with outst := out }

/-- An acknowledgement of FAN = 1 or 2 reaches the requester (R203). -/
def countAck (s : State) (m : Msg) : State :=
  let out := mapFirst (fun o => o.home == m.home && o.child == m.req && o.piece.contains m.sec) (fun o => { o with got := o.got + 1, vt := max o.vt m.vt }) s.outst
  closeOutst { s with outst := out }

/-- The buffer entry of a write-back is freed by its acknowledgement (R202). -/
def freeBack (s : State) (m : Msg) : State :=
  match s.wbacks.find? (fun b => b.home == m.home && b.child == m.child && b.piece.contains m.sec) with
  | some b => { s with wbacks := s.wbacks.erase b }
  | none => respond s m

/-- The receiver of a message acts on it. -/
def deliver (s : State) (m : Msg) : State :=
  let c := childCache m.home m.child
  match m.kind with
  | .dataS => if m.toHome then homeData s m else respond (fillCache s c m .read) m
  | .dataSW => if m.toHome then homeData s m else respond (fillCache s c m .writeThrough) m
  | .dataE => if m.toHome then homeData s m else respond (fillCache s c m .own) m
  | .ack =>
    if m.up then respond (m.piece.foldl (fun s sec => trkMap s c sec (fun x => { x with perm := .own })) s) m else freeBack s m
  | .wtack | .atomr => respond s m
  | .inv =>
    let (s1, xs) := yieldPiece s m
    let s2 := trkDrop s1 c m.piece
    sendMsg s2 { m.carry xs m.fan3 with kind := .invAck, toHome := m.fan3, vt := s.now }
  | .update =>
    let put := fun (s : State) (c : CacheRef) => m.dirty.foldl (fun s e =>
      match m.data.lookup e.1 with | some d => trkMap s c e.1 (fun x => { x with data := overlay x.data d e.2 }) | none => s) s
    let s1 := put s c
    let s2 := match m.home with
      | .l2 => [4 * m.child, 4 * m.child + 1, 4 * m.child + 2, 4 * m.child + 3].foldl (fun s core => put s (.l1 core)) s1
      | .cc _ => s1
    sendMsg s2 { m with kind := .invAck, data := [], dirty := [], vt := s.now }
  | .fwdGets =>
    let (s1, xs) := yieldPiece s m
    let p : Permission := if slotUpds s m.slot then .writeThrough else .read
    let s2 := m.piece.foldl (fun s sec => trkMap s c sec (fun x => { x.clean with perm := p })) s1
    let k : MsgKind := if slotUpds s m.slot then .dataSW else .dataS
    let s3 := sendMsg s2 { m.carry xs true with kind := k, toHome := true, vt := s.now }
    sendMsg s3 { m.carry xs false with kind := k, child := m.req, vt := s.now }
  | .fwdGetx =>
    let (s1, xs) := yieldPiece s m
    sendMsg (trkDrop s1 c m.piece) { m.carry xs true with kind := .dataE, child := m.req, vt := s.now }
  | .invAck => if m.toHome then fanAck s m else countAck s m

/-- Is a forward held by its cache, a pending owner whose own request for the piece is outstanding (R203)? An atomic or a write-through of the cache is
no such request: it may wait at the home for what the forward brings. -/
def heldForward (s : State) (m : Msg) : Bool :=
  (m.kind == .fwdGets || m.kind == .fwdGetx) && s.outst.any (fun o => o.own && o.home == m.home && o.child == m.child && m.piece.any (fun k => o.piece.contains k))

/-- May message `i` be delivered (R203, R209)? Forwards of a pair keep their order, but for those that their cache holds for other pieces; the
acknowledgement of a write-back comes after the forwards that its buffer entry still has to serve (log 41). -/
def deliverable (s : State) (i : Nat) (m : Msg) : Bool :=
  !heldForward s m &&
  (s.net.take i).all (fun x => !(x.kind.forward && x.home == m.home && x.child == m.child &&
    ((m.kind.forward && (!heldForward s x || x.meets m)) || (m.kind == .ack && !m.up && x.meets m))))

/-- A fill that an invalidation overtakes is not kept, whether its data is on its way or its owner has still to send it (R203). -/
def unkept (m : Msg) (x : Msg) : Msg := if m.kind = .inv ∧ x.copyFor m.home m.child = true then x.voided m.piece else x

/-- Message `i` is taken from the networks. -/
def takeMsg (s : State) (i : Nat) (m : Msg) : State := { s with net := (s.net.eraseIdx i).map (unkept m) }

/-- The first message that can be delivered and is no ATOMR. -/
def nextMsg (s : State) : Option (Nat × Msg) :=
  (List.zip (List.range s.net.length) s.net).find? (fun x => x.2.kind != .atomr && deliverable s x.1 x.2)

/-- Delivers requests and messages until none but ATOMR is left (R211). -/
def settle (s : State) : Nat → State
  | 0 => s
  | n + 1 =>
    match s.reqs with
    | _ :: _ => settle (arriveReq s 0) n
    | [] =>
      match nextMsg s with
      | none => s
      | some (i, m) => settle (deliver (takeMsg s i m) m) n

/-- Delivers every request and message that is on its way. -/
def settled (s : State) : State := if s.net.isEmpty && s.reqs.isEmpty then s else settle s 4096

/-! ### Evictions of tracked copies (R201, R203) -/

/-- The stronger of two domains. -/
def strongest (a b : Dom) : Dom := if domIdx a < domIdx b then b else a

/-- A cache gives up its tracked copies of a piece: they stand in its write-back buffer until the home acknowledges PUTX, or PUTS of clean
copies, on the network of the strongest of the domains that dirtied them (R209; DESIGN CHOICE, log 41: one request carries the piece). A cluster cache
recalls its L1s first. -/
def evictPiece (s : State) (h : HomeRef) (child : Nat) (tag : ObjTag) (piece : List Nat) : State :=
  let c := childCache h child
  let s0 := match h with | .l2 => ccRecall s child piece | .cc _ => s
  let held := piece.filterMap (fun sec => (cacheGet s0 c sec).bind (fun x => if x.mode = .trk then some x else none))
  match held with
  | [] => s0
  | x :: _ =>
    let dirty := held.filter (fun x => x.dirty != 0)
    let s1 := cacheDrop s0 c (held.map (fun x => x.sec))
    sendReq { s1 with wbacks := s1.wbacks ++ [{ home := h, child := child, piece := piece, xs := held }] } h
      { (bareReq (if dirty.isEmpty then 4 else 5) child tag x.sec) with ws := dirty.map dirtyWrite, dom := dirty.foldl (fun d x => strongest d x.net) .bulk }

/-- Does a copy fail the test of the horizon (R179)? An owner's copy is the only one there is, and serves. -/
def trkStale (x : CSector) (hor : Nat) : Bool := x.mode == .trk && x.perm != .own && decide (x.fetched ≤ hor)

/-- Is a write-back of a sector by a cache under way, or a request of it for the piece? No request is issued behind it (R203). -/
def backPending (s : State) (h : HomeRef) (child sec : Nat) : Bool :=
  s.wbacks.any (fun b => b.home == h && b.child == child && b.piece.contains sec) ||
  s.outst.any (fun o => o.own && o.home == h && o.child == child && o.piece.contains sec)

/-! ### Write-backs of SIV and UNC mappings (R177, R189, R425) -/

/-- The tag of the agent that writes: its context, and no object. -/
def agTag (s : State) (ag : Option AgentRef) : ObjTag :=
  match ag.bind (fun a => tget s.blocks a.blk) with | some b => { ctx := b.ctx, obj := 0 } | none => noTag

/-- A write by a non-tracked mapping of a context reaches the home as NTWB (R189): tracked sharers are invalidated and a mode conflict is logged when the
piece has any. -/
def ntWrite (s : State) (child : Nat) (tag : ObjTag) (w : SecWrite) (t : Nat) : State :=
  let r : HeldReq := { (bareReq 9 child tag w.sec) with ws := [w], dom := w.dom }
  if (tget s.protos (servedPiece s .l2 r).1).isNone then homeWrite s w t
  else
    let s1 := settled (sendReq s .l2 r)
    { s1 with stamps := sset s1.stamps w.sec (BitVec.ofNat 64 t) }

/-- An SIV copy of a cache takes a newer value of its sector under its own dirty bytes. -/
def sivRefresh (s : State) (c : CacheRef) (sec : Nat) (base : BitVec 256) (fetched stamp : Nat) : State :=
  match cacheGet s c sec with
  | some y =>
    if y.mode = .siv then cachePut s c { y with data := overlay base y.data y.dirty, fetched := fetched, stamp := max stamp y.stamp } else s
  | none => s

/-- One sector goes from L1 to the cluster cache (R425). -/
def sivUp1 (core : Nat) (s : State) (x : CSector) : State :=
  let n := clusterOf core
  let s1 := cachePut s (.l1 core) x.clean
  match cacheGet s1 (.cc n) x.sec with
  | some y =>
    if y.mode = .siv then
      let z := { y.merge x with stamp := max y.stamp x.stamp }
      sivRefresh (cachePut s1 (.cc n) z) (.l1 core) x.sec z.data z.fetched z.stamp
    else clearResv (ntWrite s1 n x.tag (dirtyWrite x) s.now) x.sec x.who
  | none =>
    let z := { x with data := overlay (memSector s1.mem x.sec) x.data x.dirty, fetched := s.now }
    sivRefresh (cachePut s1 (.cc n) z) (.l1 core) x.sec z.data z.fetched z.stamp

/-- One sector goes from the cluster cache to the home, where it ends reservations (R220, R425). -/
def sivHome1 (n : Nat) (s : State) (x : CSector) : State :=
  let s1 := clearResv (ntWrite (cachePut s (.cc n) x.clean) n x.tag (dirtyWrite x) s.now) x.sec x.who
  sivRefresh s1 (.cc n) x.sec (memSector s1.mem x.sec) s.now (sget s1.stamps x.sec).toNat

/-- The dirty sectors of a cache that MX units tie to a set of them (R162). -/
def tied (s : State) (c : CacheRef) (secs : List Nat) : Nat → List Nat
  | 0 => secs
  | n + 1 =>
    let more := (secs.flatMap (fun k => match cacheGet s c k with | some x => if x.dirty = 0 then [] else x.mates | none => [])).eraseDups
    let new := more.filter (fun k => !secs.contains k)
    if new.isEmpty then secs else tied s c (secs ++ new) n

/-- Applies a write-back to a dirty SIV sector and to those that MX units tie to it, which go down at once (R162). -/
def withMates (c : CacheRef) (one : State → CSector → State) (s : State) (sec : Nat) : State :=
  (tied s c [sec] 8).foldl (fun s k =>
    match cacheGet s c k with | some x => if x.mode = .siv ∧ x.dirty ≠ 0 then one s x else s | none => s) s

/-- A sector, and what MX units tie to it, goes from L1 to the cluster cache. -/
def sivUp (core : Nat) (s : State) (sec : Nat) : State := withMates (.l1 core) (sivUp1 core) s sec

/-- A sector, and what MX units tie to it, goes from the cluster cache to the home. -/
def sivHome (n : Nat) (s : State) (sec : Nat) : State := withMates (.cc n) (sivHome1 n) s sec

/-- An SIV copy leaves a cache; its dirty bytes go to the next level (R425). -/
def sivLeave (s : State) (c : CacheRef) (sec : Nat) : State :=
  match cacheGet s c sec with
  | some x =>
    if x.mode = .siv then cacheDrop (match c with | .l1 core => sivUp core s sec | .cc n => sivHome n s sec) c [sec] else s
  | none => s

/-! ### Accesses to TRK pages (R192, R193) -/

/-- A request to the L2 home and every message of it. -/
def l2Ask (s : State) (ev n : Nat) (tag : ObjTag) (sec : Nat) (d : Dom) : State := settled (sendReq s .l2 { bareReq ev n tag sec with dom := d })

/-- The cluster cache holds a sector for reading, fetched after a horizon, or as owner (R179, R193). -/
def ccEnsure (s0 : State) (n : Nat) (tag : ObjTag) (sec : Nat) (d : Dom) (own : Bool) (hor : Nat) : State :=
  let s1 := sivLeave (if backPending s0 .l2 n sec then settled s0 else s0) (.cc n) sec
  match cacheGet s1 (.cc n) sec with
  | some x =>
    if x.perm = .own then s1
    else if own then l2Ask s1 2 n tag sec d
    else if trkStale x hor then l2Ask (settled (evictPiece s1 .l2 n x.tag (pieceOf s1 x.tag sec).2)) 0 n tag sec d
    else s1
  | none => l2Ask s1 (if own then 1 else 0) n tag sec d

/-- Does the entry that a request meets at a cluster cache grant write permission? -/
def ccGrants (s : State) (n : Nat) (r : HeldReq) : Bool :=
  let (slot, piece) := servedPiece s (.cc n) r
  let d := dirGet s (.cc n) slot piece
  (homeEntry s (.cc n) slot d.st (classify d r) r.sec).grantsWrite (classify d r)

/-- An L1 asks its cluster cache, which first takes the copy and the permission that the answer grants (R193). -/
def ccAsk (s : State) (n : Nat) (r : HeldReq) (hor : Nat) : State :=
  if r.event = 1 ∨ r.event = 2 ∨ r.event = 3 then sendReq (ccEnsure s n r.tag r.sec r.dom (ccGrants s n r) hor) (.cc n) r
  else if r.event = 0 ∨ r.event = 7 ∨ r.event = 8 then
    let s1 := ccEnsure s n r.tag r.sec r.dom false hor
    sendReq (if ccGrants s1 n r then ccEnsure s1 n r.tag r.sec r.dom true hor else s1) (.cc n) r
  else sendReq s (.cc n) r

/-- A request of an L1 and every message of it. -/
def l1Request (s : State) (core : Nat) (tag : ObjTag) (sec : Nat) (d : Dom) (ev hor : Nat) (ws : List SecWrite) : State :=
  settled (ccAsk s (clusterOf core) { (bareReq ev (core % 4) tag sec) with ws := ws, dom := d } hor)

/-- The L1 gives up a tracked copy of a sector's piece. -/
def l1Evict (s : State) (core : Nat) (x : CSector) : State :=
  settled (evictPiece s (.cc (clusterOf core)) (core % 4) x.tag (pieceOf s x.tag x.sec).2)

/-- The L1 of a core can ask for a sector: no write-back of it is under way, and an SIV copy has left (R189, R203). -/
def l1Clear (s : State) (core sec : Nat) : State :=
  sivLeave (if backPending s (.cc (clusterOf core)) (core % 4) sec then settled s else s) (.l1 core) sec

/-- The L1 of a core holds a sector for reading, fetched after a horizon (R179). -/
def trkFill (s0 : State) (core : Nat) (tag : ObjTag) (sec : Nat) (d : Dom) (hor : Nat) : State :=
  let s := l1Clear s0 core sec
  match cacheGet s (.l1 core) sec with
  | some x => if trkStale x hor then l1Request (l1Evict s core x) core tag sec d 0 hor [] else s
  | none => l1Request s core tag sec d 0 hor []

/-- The L1 of a core asks for a sector for writing, unless it may write it already (R201, R202). -/
def trkOwn (s0 : State) (core : Nat) (tag : ObjTag) (sec : Nat) (d : Dom) : State :=
  let s := l1Clear s0 core sec
  match cacheGet s (.l1 core) sec with
  | some x => if x.perm = .own then s else l1Request s core tag sec d 2 0 []
  | none => l1Request s core tag sec d 1 0 []

/-- A read of a TRK sector by a core: the sector and the stamp of the write it returns (R178). -/
def trkRead (s : State) (core : Nat) (tag : ObjTag) (sec : Nat) (d : Dom) (hor : Nat) : State × BitVec 256 × Nat :=
  let s1 := trkFill s core tag sec d hor
  let d := match cacheGet s1 (.l1 core) sec with | some x => x.data | none => cohSector s1 sec
  (s1, d, (sget s1.stamps sec).toNat)

/-- Writes bytes into an L1 sector that the core owns; without ownership, at the home after every copy is taken back. -/
def trkPut (s : State) (core : Nat) (tag : ObjTag) (w : SecWrite) (t : Nat) : State :=
  let s0 := { s with stamps := sset s.stamps w.sec (BitVec.ofNat 64 t) }
  let direct := homeWrite (purgePiece s0 (pieceOf s0 tag w.sec).2) w t
  match cacheGet s0 (.l1 core) w.sec with
  | some x =>
    if x.mode = .trk && x.perm = .own then
      cachePut s0 (.l1 core) { x with data := overlay x.data w.data w.mask, dirty := x.dirty ||| w.mask, doms := x.doms ||| domBit w.dom, net := w.dom }
    else direct
  | none => direct

/-- The copy of a core by which it writes through (R202), if it has one. -/
def throughCopy (s : State) (core sec : Nat) : Option CSector :=
  (cacheGet s (.l1 core) sec).bind (fun x => if x.mode = .trk ∧ x.perm = .writeThrough then some x else none)

/-- A write to a TRK sector by a core (R202): silent for an owner, written through under DATA_SW, also where that is what a request for ownership
brings. -/
def trkWrite (s0 : State) (core : Nat) (tag : ObjTag) (w : SecWrite) (t : Nat) : State :=
  let s := l1Clear s0 core w.sec
  let s1 := if (throughCopy s core w.sec).isSome then s else trkOwn s core tag w.sec w.dom
  match throughCopy s1 core w.sec with
  | some x =>
    let s2 := cachePut s1 (.l1 core) { x with data := overlay x.data w.data w.mask }
    let s3 := l1Request s2 core tag w.sec w.dom 7 0 [w]
    { s3 with stamps := sset s3.stamps w.sec (BitVec.ofNat 64 t) }
  | none => trkPut s1 core tag w t

/-! ### Accesses to SIV and UNC pages (R177, R179, R180, R189, R425) -/

/-- How a load is ordered: its effective and encoded domain and its scope (R4, R5, R182). -/
structure LoadAs where
  dom : Dom
  enc : Dom
  sc  : Scope
deriving DecidableEq, Repr

/-- The horizon that a load's lookups are tested against (R179, R182). -/
def LoadAs.hor (l : LoadAs) (c : Core) : Nat := max (c.horizon l.dom) (c.horizon l.enc)

/-- Is a load of TSO or SEQ at cls scope or wider, which is served at its visibility point (R180)? -/
def LoadAs.strong (l : LoadAs) : Bool := (l.dom == .tso || l.dom == .seq) && decide (2 ≤ scopeIdx l.sc)

/-- Is an SIV copy still served (R427) and newer than the horizon (R179)? -/
def sivFresh (s : State) (x : CSector) (hor : Nat) : Bool :=
  x.mode == .siv && decide (hor < x.fetched) && decide (s.now < x.fetched + Config.sivAge)

/-- An SIV copy without dirty bytes. The tag of an SIV copy names the context that has dirtied it. -/
def sivNew (sec : Nat) (d : BitVec 256) (fetched stamp : Nat) : CSector :=
  { sec := sec, data := d, dirty := 0, doms := 0, net := .bulk, who := none, mates := [], fetched := fetched, stamp := stamp, perm := .read,
    mode := .siv, tag := noTag }

/-- A fresh SIV copy of `d`, with the dirty bytes of an old copy kept on top. -/
def sivCopy (old : Option CSector) (sec fetched stamp : Nat) (d : BitVec 256) : CSector :=
  match old with
  | some x =>
    if x.mode = .siv then { x with data := overlay d x.data x.dirty, fetched := fetched, stamp := max stamp x.stamp } else sivNew sec d fetched stamp
  | none => sivNew sec d fetched stamp

/-- The cluster cache's answer to an SIV fill (R425): its own copy when it passes the test, else the home's, kept. A tracked copy of a mixed
mapping answers as it is (R189). -/
def sivFromCc (s : State) (n sec hor : Nat) : State × CSector :=
  let fill := sivCopy (cacheGet s (.cc n) sec) sec s.now (sget s.stamps sec).toNat (memSector s.mem sec)
  match cacheGet s (.cc n) sec with
  | some x =>
    if x.mode = .trk then (s, { sivNew sec x.data s.now (sget s.stamps sec).toNat with dirty := 0 })
    else if sivFresh s x hor then (s, x)
    else (cachePut s (.cc n) fill, fill)
  | none => (cachePut s (.cc n) fill, fill)

/-- A cache's dirty SIV bytes on top of a sector. -/
def sivOnto (s : State) (c : CacheRef) (sec : Nat) (d : BitVec 256) : BitVec 256 :=
  match cacheGet s c sec with | some y => if y.mode = .siv then overlay d y.data y.dirty else d | none => d

/-- A sector as the home holds it, under the dirty bytes of the core's cluster cache and L1, whose copies take it too: no later load of the core
returns an older value (R163, R180). -/
def homeRead (s : State) (core sec : Nat) : State × BitVec 256 × Nat :=
  let n := clusterOf core
  let st := (sget s.stamps sec).toNat
  let d1 := sivOnto s (.cc n) sec (memSector s.mem sec)
  let d2 := sivOnto s (.l1 core) sec d1
  (sivRefresh (sivRefresh s (.cc n) sec d1 s.now st) (.l1 core) sec d2 s.now st, d2, st)

/-- A sector as the cluster cache holds it, under the dirty bytes of the core's L1, whose copy takes it too. -/
def clusterRead (s : State) (core sec hor : Nat) : State × BitVec 256 × Nat :=
  let (s1, x) := sivFromCc s (clusterOf core) sec hor
  let d := sivOnto s1 (.l1 core) sec x.data
  (sivRefresh s1 (.l1 core) sec d x.fetched x.stamp, d, x.stamp)

/-- An SIV load: the level it is served at follows its domain and scope (R180, R425). A copy that L1 fills from the cluster cache has the fetch
time of the cluster cache's copy: the spec does not say which time a fill has, and the earlier one never serves an older value than the rule
allows (DESIGN CHOICE, log 41). -/
def sivRead (s : State) (core sec : Nat) (l : LoadAs) : State × BitVec 256 × Nat :=
  let hor := l.hor (s.core core)
  if l.strong && decide (3 ≤ scopeIdx l.sc) then homeRead s core sec
  else if l.strong then clusterRead s core sec hor
  else
    let fill : State × BitVec 256 × Nat :=
      let (s1, x) := sivFromCc s (clusterOf core) sec hor
      let z := sivCopy (cacheGet s1 (.l1 core) sec) sec x.fetched x.stamp x.data
      (cachePut s1 (.l1 core) z, z.data, z.stamp)
    match cacheGet s (.l1 core) sec with
    | some y =>
      if y.mode = .trk then (s, y.data, (sget s.stamps sec).toNat)
      else if sivFresh s y hor then (s, y.data, y.stamp)
      else fill
    | none => fill

/-- Writes bytes into an SIV copy; `keep` marks them dirty there, otherwise they have gone further down. -/
def sivPut (s : State) (c : CacheRef) (w : SecWrite) (t : Nat) (ag : Option AgentRef) (keep alloc : Bool) : State :=
  let put := fun (x : CSector) =>
    cachePut s c (if keep then { x with data := overlay x.data w.data w.mask, dirty := x.dirty ||| w.mask, doms := x.doms ||| domBit w.dom, net := w.dom,
                                        who := sameWho (x.dirty == 0) x.who ag, stamp := max x.stamp t, tag := agTag s ag }
                  else { x with data := overlay x.data w.data w.mask, dirty := x.dirty &&& ~~~ w.mask, stamp := max x.stamp t })
  match cacheGet s c w.sec with
  | some x => if x.mode = .siv then put x else s
  | none => if alloc then put (sivNew w.sec (memSector s.mem w.sec) s.now (sget s.stamps w.sec).toNat) else s

/-- Does a core's L1 or its cluster cache hold a tracked copy of a sector? -/
def trkHere (s : State) (core sec : Nat) : Bool :=
  [CacheRef.l1 core, .cc (clusterOf core)].any (fun c => match cacheGet s c sec with | some x => x.mode == .trk | none => false)

/-- The level at which an SIV store becomes visible (R177); where a cache on the way holds a tracked copy, the home, which takes the
tracked copies back (R189). -/
def sivLevel (s : State) (core sec : Nat) (sc : Scope) : Scope := if trkHere s core sec then .dev else sc

/-- An SIV store becomes visible at the visibility point of its scope (R177). The copies on the way take the value of the sector there (R163). -/
def sivWrite (s : State) (core : Nat) (w : SecWrite) (sc : Scope) (t : Nat) (ag : Option AgentRef) : State :=
  let n := clusterOf core
  match sivLevel s core w.sec sc with
  | .grp | .blk =>
    let s1 := match cacheGet s (.l1 core) w.sec with
      | some _ => s
      | none => (sivRead s core w.sec { dom := w.dom, enc := w.dom, sc := .grp }).1
    sivPut s1 (.l1 core) w t ag true true
  | .cls =>
    (clusterRead (sivPut (sivPut s (.cc n) w t ag true true) (.l1 core) w t ag false false) core w.sec 0).1
  | .dev | .sys =>
    (homeRead (ntWrite (sivPut (sivPut s (.l1 core) w t ag false false) (.cc n) w t ag false false) n (agTag s ag) w t) core w.sec).1

/-- Ties two sectors of an MX unit in a cache that holds both dirty (R162). -/
def tieUnit (s : State) (c : CacheRef) (a b : Nat) : State :=
  match cacheGet s c a, cacheGet s c b with
  | some x, some y =>
    if x.mode = .siv ∧ y.mode = .siv ∧ x.dirty ≠ 0 ∧ y.dirty ≠ 0 then
      cachePut (cachePut s c { x with mates := b :: x.mates.filter (fun k => k != b) }) c { y with mates := a :: y.mates.filter (fun k => k != a) }
    else s
  | _, _ => s

/-- Dirty SIV sectors of a cache that a domain dirtied. -/
def sivDirty (s : State) (c : CacheRef) (d : Dom) : List Nat :=
  ((cacheOf s c).filter (fun e => e.2.mode == .siv && e.2.dirty != 0 && e.2.doms.getLsbD (domIdx d))).map Prod.fst

/-- The write-backs of a release of a domain at a scope by an agent of a core (R177, R425). -/
def sivRelease (s : State) (core : Nat) (d : Dom) (sc : Scope) : State :=
  match sc with
  | .grp | .blk => s
  | .cls => (sivDirty s (.l1 core) d).foldl (sivUp core) s
  | .dev | .sys =>
    let s1 := (sivDirty s (.l1 core) d).foldl (sivUp core) s
    (sivDirty s1 (.cc (clusterOf core)) d).foldl (sivHome (clusterOf core)) s1

/-- The write-backs of a release in all five domains. -/
def sivReleaseAll (s : State) (core : Nat) (sc : Scope) : State := allDoms.foldl (fun s d => sivRelease s core d sc) s

/-! ### Room in the caches (R17, R425) -/

/-- A sector leaves a cache: a tracked one with its piece, through PUTS or PUTX; an SIV one as R425 says. -/
def evictSector (s : State) (c : CacheRef) (sec : Nat) : State :=
  match cacheGet s c sec with
  | none => s
  | some x =>
    if x.mode = .siv then sivLeave s c sec
    else match c with
      | .l1 core => l1Evict s core x
      | .cc n => settled (evictPiece s .l2 n x.tag (pieceOf s x.tag sec).2)

/-- A line leaves a cache. -/
def evictLine (s : State) (c : CacheRef) (line : Nat) : State := (lineOf (4 * line)).foldl (fun s k => evictSector s c k) s

/-- Lines that a cache has room for (R17, R32). -/
def cacheLines : CacheRef → Nat
  | .l1 _ => Config.l1Lines
  | .cc _ => Config.ccLines

/-- The line of the sector that a cache fetched first. -/
def oldestLine (t : Table CSector) : Nat :=
  ((t.foldl (fun (b : Option (Nat × Nat)) e => match b with | none => some (e.1, e.2.fetched) | some x => if e.2.fetched < x.2 then some (e.1, e.2.fetched) else some x)
    none).map (fun x => x.1 / 4)).getD 0

/-- Evicts lines until a cache holds no more than it has room for. Which line goes is the model's choice (log 18): the one fetched first. -/
def trim (s : State) (c : CacheRef) : State :=
  let t := cacheOf s c
  if t.length ≤ cacheLines c then s
  else
    let lines := ((t.map (fun e => e.1 / 4)).eraseDups).length
    (List.range (lines - cacheLines c)).foldl (fun s _ => evictLine s c (oldestLine (cacheOf s c))) s

/-- Keeps the caches of a core within their room. -/
def trimCore (s : State) (core : Nat) : State := trim (trim s (.l1 core)) (.cc (clusterOf core))

/-! ### One sector, any page mode -/

/-- A core reads a sector (R192): data and stamp. -/
def coreRead (s : State) (core sec : Nat) (k : PageKind) (l : LoadAs) : State × BitVec 256 × Nat :=
  match k.cm with
  | .trk => let (s1, d, t) := trkRead s core k.tag sec l.dom (l.hor (s.core core)); (trimCore s1 core, d, t)
  | .siv => let (s1, d, t) := sivRead s core sec l; (trimCore s1 core, d, t)
  | .unc => (s, memSector s.mem sec, (sget s.stamps sec).toNat)

/-- A core's write to a sector becomes visible at the visibility point of its scope with stamp `t` (R177). Reservations of
other agents go (R220), but on SIV pages only when the write reaches the home. A write of a whole sector clears its poison (R381). -/
def coreWrite (s0 : State) (core : Nat) (w : SecWrite) (k : PageKind) (sc : Scope) (t : Nat) (ag : Option AgentRef) : State :=
  let s := clearPoison s0 w
  match k.cm with
  | .trk => trimCore (clearResv (trkWrite s core k.tag w t) w.sec ag) core
  | .siv => let s1 := trimCore (sivWrite s core w sc t ag) core; if 3 ≤ scopeIdx (sivLevel s core w.sec sc) then clearResv s1 w.sec ag else s1
  | .unc => clearResv (ntWrite s 64 k.tag w t) w.sec ag

/-- The device itself, or the host, writes a sector at the home as WT (R201, R344, R371). Before firmware has loaded the protocol tables no
sector is tracked, and the home takes the write itself. -/
def devWriteSec (s0 : State) (w : SecWrite) : State :=
  let s := clearPoison s0 w
  let r : HeldReq := { (bareReq 7 64 noTag w.sec) with ws := [w], dom := w.dom }
  let (slot, piece) := servedPiece s .l2 r
  clearResv (if (tget s.protos slot).isNone then homeWrite (purgePiece s piece) w s.now else settled (sendReq s .l2 r)) w.sec none

/-- Where an atomic executes (R164). -/
inductive AtomPlace where
  | l1 | cc | home
deriving DecidableEq, Repr

/-- The place that a scope and a page mode select (R164). -/
def atomPlace (mode : Cm) (sc : Scope) : AtomPlace :=
  match mode, sc with
  | .unc, _ => .home
  | _, .grp | _, .blk => .l1
  | _, .cls => .cc
  | _, .dev | _, .sys => .home

/-- An atomic read-modify-write at its place (R164): the old value, its stamp and the new state. -/
def coreAtomic (s : State) (core : Nat) (a : HomeAtomic) (k : PageKind) (sc : Scope) (t : Nat) (ag : Option AgentRef) : State × Nat × Nat :=
  let sec := secOf a.pa
  let o := a.pa % 32
  let nb := if a.wide then 8 else 4
  let n := clusterOf core
  let mk := fun (x : Nat) =>
    ({ sec := sec, data := secWith o nb (atomOp a.op a.wide x a.x.toNat a.cmp.toNat), mask := spanMask o nb, dom := a.dom } : SecWrite)
  let stamp := (sget s.stamps sec).toNat
  let t1 := max t stamp
  let atHome := fun (s : State) =>
    let s2 := purgePiece s (pieceOf s k.tag sec).2
    let x := secNum (memSector s2.mem sec) o nb
    (clearResv (homeWrite s2 (mk x) t1) sec ag, x, stamp)
  match atomPlace k.cm sc, k.cm with
  | .l1, .trk =>
    let s1 := trkOwn s core k.tag sec a.dom
    let x := secNum (match cacheGet s1 (.l1 core) sec with | some c => c.data | none => cohSector s1 sec) o nb
    (trimCore (clearResv (trkPut s1 core k.tag (mk x) t1) sec ag) core, x, stamp)
  | .l1, _ =>
    let (s1, d, st) := sivRead s core sec { dom := a.dom, enc := a.dom, sc := .grp }
    let x := secNum d o nb
    (trimCore (sivWrite s1 core (mk x) .grp (max t st) ag) core, x, st)
  | .cc, .trk =>
    let s0 := l1Clear s core sec
    let s1 := ccEnsure (ccRecall s0 n (pieceOf s0 k.tag sec).2) n k.tag sec a.dom true 0
    match cacheGet s1 (.cc n) sec with
    | some c =>
      if c.perm = .own then
        let x := secNum c.data o nb
        let s2 := ccWrite n { s1 with stamps := sset s1.stamps sec (BitVec.ofNat 64 t1) } (mk x)
        (trimCore (clearResv (settled s2) sec ag) core, x, stamp)
      else atHome s1
    | none => atHome s1
  | .cc, _ =>
    let (s1, d, st) := clusterRead s core sec ((s.core core).horizon a.dom)
    let x := secNum d o nb
    (trimCore (sivWrite s1 core (mk x) .cls (max t st) ag) core, x, st)
  | .home, .trk =>
    let s1 := settled (sendReq s .l2 { (bareReq 8 n k.tag sec) with op := some a, dom := a.dom })
    match s1.net.find? (fun m => m.kind == .atomr) with
    | some m =>
      let x := ((m.data.head?.map Prod.snd).getD 0).toNat
      let s2 := respond { s1 with net := s1.net.filter (fun m => m.kind != .atomr), stamps := sset s1.stamps sec (BitVec.ofNat 64 t1) } m
      (clearResv s2 sec ag, x, stamp)
    | none => atHome s1
  | .home, _ =>
    let (s0, d) := if k.cm = .siv then (let r := homeRead s core sec; (r.1, r.2.1)) else (s, memSector s.mem sec)
    let x := secNum d o nb
    let s1 := if k.cm = .siv then trimCore (sivWrite s0 core (mk x) .dev t1 ag) core else ntWrite s0 64 k.tag (mk x) t1
    (clearResv s1 sec ag, x, stamp)

end Sys2Proof.Machine
end

