-- ==== Sys2Proof/Machine/Translate.lean ====
section
/-! DEFINITION. Address translation (spec/13_isolation.md R341 to R349, R353, R355), page floors (spec/06_domains.md R181)
and the device's own accesses to a context's memory. -/

namespace Sys2Proof.Machine

open Sys2Proof

/-- The device writes bytes at a physical address, at the home. -/
def physPut (s : State) (pa : Nat) (bs : List Byte) : State :=
  (piecesOf pa bs.length 0 (bs.length / 32 + 2)).foldl (fun s p =>
    devWriteSec s { sec := p.sec, data := placeBytes p.off ((bs.drop p.at_).take p.len), mask := spanMask p.off p.len, dom := .seq }) s

/-- The device writes an 8-byte word at a physical address. -/
def physPutWord (s : State) (pa : Nat) (x : Word) : State := physPut s pa (toBytes 8 x.toNat)

/-- The device writes bytes at a physical address for a context: nothing in another context's protected window (R355). -/
def physPutFor (s : State) (ctx pa : Nat) (bs : List Byte) : State := if protectedFrom s ctx pa bs.length then s else physPut s pa bs

/-- The device reads bytes at a physical address for a context: zeros in another context's protected window (R355). -/
def physBytesFor (s : State) (ctx pa n : Nat) : List Byte := if protectedFrom s ctx pa n then toBytes n 0 else physBytes s pa n

/-! ### Translation through the TLBs (R347, R348) -/

/-- Does a TLB entry hold the page of an address for a context (R347, R348)? -/
def TlbEntry.hit (e : TlbEntry) (ctx : Nat) (tenant : Option Nat) (va : Word) : Bool :=
  e.page == va.toNat / pageBytes e.big && (if e.g then tenant == some e.tag else e.tag == ctx)

/-- The quarter whose TLB an access of a core uses: that of the executing group. Ejected lanes and engines use the core's L2 TLB. -/
def tlbQuarterOf (s : State) (core : Nat) : Option Nat :=
  match s.cur with
  | none => none
  | some ag =>
    match ag.lane, tget s.blocks ag.blk, s.group? ag.blk ag.grp with
    | none, some b, some g => if b.core = core then some (g.slot / 64) else none
    | _, _, _ => none

/-- The entries that an access of a core can hit: its quarter's TLB, then the L2 TLB (R347). -/
def tlbOf (s : State) (core : Nat) : List TlbEntry :=
  (match tlbQuarterOf s core with | some q => (tget (s.core core).qtlb q).getD [] | none => []) ++ (s.core core).tlb

/-- The mapping that a context's own tables and the core's TLBs give: a TLB entry, else a walk (R347). -/
def ownPage (s : State) (core ctx : Nat) (va : Word) : Cause ⊕ Page :=
  match (tlbOf s core).find? (fun e => e.hit ctx (tenantIdx s ctx) va) with
  | some e => .inr (pageOf ctx e.pte e.addr e.big va)
  | none => walkFor s ctx va

/-- The mappings of an address by every context of a tenant. -/
def tenantPages (s : State) (t : Nat) (va : Word) : List (Option Page) :=
  (s.ctxs.filter (fun e => e.2.tenant == some t)).map (fun e => walk s e.1 va)

/-- The leaf without the bits that the device sets. -/
def pteAlike (a b : Page) : Bool := a.pte &&& ~~~ 0x60#64 == b.pte &&& ~~~ 0x60#64 && a.big == b.big

/-- The translation of an address for a context (R348), where its own tables give `own` and TLB entries under G = 1 give `cached`. Where a context of
the tenant maps the page with G = 1 and not every context maps it alike, it is one of the tenant's G = 1 mappings, in a TLB entry or in its tables;
which one is a free value. -/
def sharedChoice (s : State) (ctx : Nat) (va : Word) (cached : List Page) (own : Cause ⊕ Page) : Cause ⊕ Page :=
  if !canonical va then .inl .xlat
  else match tenantIdx s ctx with
    | none => own
    | some t =>
      let all := tenantPages s t va
      match cached ++ (all.filterMap id).filter (fun p => pteG p.pte) with
      | [] => own
      | p :: rest =>
        if all.all (fun q => match q with | some x => pteAlike x p | none => false) && rest.all (pteAlike p) then
          (match own with | .inl _ => .inr { p with ctx := ctx } | .inr x => .inr x)
        else .inr { ((p :: rest).getD (Config.sharedPick s.now va.toNat % (rest.length + 1)) p) with ctx := ctx }

/-- The translation that an access of a core uses (R347, R348). -/
def translate (s : State) (core ctx : Nat) (va : Word) : Cause ⊕ Page :=
  sharedChoice s ctx va (((tlbOf s core).filter (fun e => e.g && e.hit ctx (tenantIdx s ctx) va)).map (fun e => pageOf ctx e.pte e.addr e.big va))
    (ownPage s core ctx va)

/-- The translation by a fresh walk (R348). -/
def freshPage (s : State) (ctx : Nat) (va : Word) : Cause ⊕ Page := sharedChoice s ctx va [] (walkFor s ctx va)

/-- The page that a fresh walk gives, if there is one. -/
def freshWalk (s : State) (ctx : Nat) (va : Word) : Option Page := match freshPage s ctx va with | .inl _ => none | .inr p => some p

/-- The translation that a core uses, if there is one. -/
def lookup (s : State) (core ctx : Nat) (va : Word) : Option Page := match translate s core ctx va with | .inl _ => none | .inr p => some p

/-- Is the page resident (R349)? A host page that ATS reports as absent under the tenant's function is not (R353). -/
def Page.resident (s : State) (p : Page) (va : Word) : Bool :=
  pteRes p.pte && !(pteTier p.pte == 2 &&
    s.host.absent.contains ((tenantIdx s p.ctx).getD 16, (ptePfn p.pte * 65536 + va.toNat % pageBytes p.big) / 65536))

/-- What the frame's windows say (R346): none for no objection. XLAT, for TIER 1 without DIMMs (R419) or a window of another tier, comes before
PERM (R364). -/
def frameCause (s : State) (ctx : Nat) (p : Page) (va : Word) (n : Nat) : Option Cause :=
  let host : Bool := pteTier p.pte == 2
  let a := p.pa va - (if host then hostBase else 0)
  let prot : Bool := !host && protectedFrom s ctx a n
  if pteTier p.pte == 1 && !s.mgmt.dimm then some .xlat
  else match (tget s.ctxs ctx).bind (fun c => c.tenant) with
    | none => if ctx = 0 then (if prot then some .perm else none) else some .perm
    | some t => match tget s.tenants t with
      | none => some .perm
      | some t => match t.window host a n with
        | none => some .perm
        | some w => if !host && w.tier != pteTier p.pte then some .xlat else if prot then some .perm else none

/-- A TLB with an entry loaded: at most `n` entries, the one loaded first evicted (R347; which one goes is the model's choice, log 42). -/
def tlbLoad (n : Nat) (e : TlbEntry) (drop : TlbEntry → Bool) (l : List TlbEntry) : List TlbEntry := (e :: l.filter (fun x => !drop x)).take n

/-- Sets A when an entry enters a TLB and D at the first write through it (R346), by an update at the leaf's home that no other context's
protected window meets (R355). -/
def markPte (s : State) (p : Page) (write : Bool) : State :=
  let bits : Word := 0x20#64 ||| (if write then 0x40#64 else 0)
  if p.pte ||| bits = p.pte ∨ protectedFrom s p.ctx p.addr 8 = true then s else physPutWord s p.addr (physWord s p.addr ||| bits)

/-- An access fills the TLBs that it uses, and sets A and D (R346, R347). -/
def touch (s : State) (core ctx : Nat) (p : Page) (write : Bool) : State :=
  let ten := tenantIdx s ctx
  let pte := p.pte ||| 0x20#64 ||| (if write then 0x40#64 else 0)
  let e : TlbEntry := { g := pteG pte && ten.isSome, tag := if pteG pte then ten.getD ctx else ctx, big := p.big,
                        page := p.va / pageBytes p.big, pte := pte, addr := p.addr }
  let drop := fun (x : TlbEntry) => x.hit ctx ten (BitVec.ofNat 64 p.va)
  let has := fun (l : List TlbEntry) => l.find? drop == some e
  let s1 := markPte s p write
  let c := s1.core core
  let c1 := if has c.tlb then c else { c with tlb := tlbLoad Config.tlbShared e drop c.tlb }
  let c2 := match tlbQuarterOf s core with
    | none => c1
    | some q => let l := (tget c1.qtlb q).getD []
                if has l then c1 else { c1 with qtlb := tset c1.qtlb q (tlbLoad Config.tlbQuarter e drop l) }
  if c2 = c then s1 else s1.setCore core c2

/-- The TLB entries of a core that pass a test stay. -/
def Core.tlbKeep (c : Core) (f : TlbEntry → Bool) : Core := { c with tlb := c.tlb.filter f, qtlb := tmap (fun l => l.filter f) c.qtlb }

/-- The TLB entries of every core that pass a test stay. -/
def tlbKeep (s : State) (f : TlbEntry → Bool) : State := { s with cores := tmap (fun c => c.tlbKeep f) s.cores }

/-- The entries of every TLB of the device. -/
def tlbAll (s : State) : List TlbEntry := s.cores.flatMap (fun e => e.2.tlb ++ (tvals e.2.qtlb).flatten)

/-! ### The checks of one access (R213) -/

/-- A piece of an access on one page: physical key, length, offset in the access, page. -/
structure Span where
  pa   : Nat
  len  : Nat
  at_  : Nat
  page : Page
deriving DecidableEq, Repr

/-- What the checks of an access found: the highest-priority cause with its address, the effective domain, whether a page
is not resident, and the physical spans. -/
structure Checked where
  cause : Option (Cause × Word)
  dom   : Dom
  nres  : Bool
  spans : List Span
deriving DecidableEq, Repr

/-- The domain with an encoding. -/
def domOf (n : Nat) : Dom := match n with | 0 => .bulk | 1 => .rel | 2 => .cau | 3 => .tso | _ => .seq

/-- The stronger of two domains (R4). -/
def domMax (a b : Dom) : Dom := if domIdx a < domIdx b then b else a

/-- The page parts of an access: virtual address, length, offset; at most three, since an access has at most 64 KiB. -/
def vaParts (va : Word) (n at_ : Nat) : Nat → List (Word × Nat × Nat)
  | 0 => []
  | fuel + 1 =>
    let room := 65536 - va.toNat % 65536
    if n = 0 then []
    else if n ≤ room then [(va, n, at_)]
    else (va, room, at_) :: vaParts (va + BitVec.ofNat 64 room) (n - room) (at_ + room) fuel

/-- The first cause of a list by priority; equal causes keep the earlier. -/
def worst (l : List (Cause × Word)) (rank : Cause → Nat) : Option (Cause × Word) :=
  l.foldl (fun b x => match b with | none => some x | some y => if rank x.1 < rank y.1 then some x else some y) none

/-- The code of a cause (R363). -/
def causeCode : Cause → Nat
  | .ill => 1 | .priv => 2 | .stream => 3 | .brkp => 4 | .watch => 5 | .align => 6 | .xlat => 7 | .perm => 8 | .floor => 9
  | .nres => 10 | .svc => 11 | .guard => 12 | .hang => 13 | .soft => 14 | .batch => 15 | .remote => 16

/-- XLAT, PERM, FLOOR and NRES of one page part, and its span. -/
def checkPart (s : State) (core ctx : Nat) (rd wr : Bool) (d : Dom) (part : Word × Nat × Nat) : Option (Cause × Word) × Dom × Option Span :=
  let (va, n, at_) := part
  match translate s core ctx va with
  | .inl k => (some (k, va), d, none)
  | .inr p =>
    let f := domOf (pteFlr p.pte)
    let e := if pteFla p.pte then domMax d f else d
    match frameCause s ctx p va n with
    | some c => (some (c, va), e, none)
    | none =>
      if (rd && !pteRd p.pte) || (wr && !pteWr p.pte) then (some (.perm, va), e, none)
      else if !pteFla p.pte && decide (domIdx d < domIdx f) then (some (.floor, va), e, none)
      else if !p.resident s va then (some (.nres, va), e, none)
      else (none, e, some { pa := p.pa va, len := n, at_ := at_, page := p })

/-- Checks an access of `n` bytes (R213): every page, the cause of highest priority. `rp` takes NRES as an answer (R214). An access that touches
pages of different floors under FLA = 1 is performed in the strongest of them (DESIGN CHOICE, log 41: R181 gives a domain for each page). -/
def checkVa (s : State) (core ctx : Nat) (va : Word) (n : Nat) (rd wr : Bool) (d : Dom) (rp : Bool) : Checked :=
  let rs := (vaParts va n 0 (n / 65536 + 2)).map (checkPart s core ctx rd wr d)
  let causes := rs.filterMap (fun r => r.1)
  let hard := if rp then causes.filter (fun c => c.1 != .nres) else causes
  { cause := worst hard causeCode, dom := rs.foldl (fun e r => domMax e r.2.1) d, nres := causes.any (fun c => c.1 == .nres),
    spans := rs.filterMap (fun r => r.2.2) }

/-- Fills the TLB and sets A and D for the pages of an access that is performed. -/
def touchAll (s : State) (core ctx : Nat) (spans : List Span) (write : Bool) : State :=
  spans.foldl (fun s sp => touch s core ctx sp.page write) s

/-! ### The device's accesses in a context (R285, R367, R371, R395) -/

/-- The physical parts of a range that the device reads or writes as an access of the context; none on any fault. It is
translated by a fresh walk and meets no floor. -/
def ctxSpans (s : State) (ctx : Nat) (va : Word) (n : Nat) (wr : Bool) : Option (List Span) :=
  let parts := (vaParts va n 0 (n / 65536 + 2)).map (fun (part : Word × Nat × Nat) =>
    match freshWalk s ctx part.1 with
    | none => none
    | some p =>
      if (frameCause s ctx p part.1 part.2.1).isSome || (if wr then !pteWr p.pte else !pteRd p.pte) || !p.resident s part.1 then none
      else some ({ pa := p.pa part.1, len := part.2.1, at_ := part.2.2, page := p } : Span))
  if parts.any Option.isNone then none else some (parts.filterMap id)

/-- Does the device wait for the host link to reach bytes of a context (R421)? -/
def ctxWaits (s : State) (ctx : Nat) (va : Word) (n : Nat) : Bool :=
  match ctxSpans s ctx va n false with
  | some l => !s.host.up && l.any (fun sp => decide (hostBase ≤ sp.pa + sp.len - 1))
  | none => false

/-- Does a fetch wait for the host link? -/
def fetchWaits (s : State) (core ctx : Nat) (pc : Word) (x : Bool) : Bool :=
  !s.host.up && (pc :: (if x then [pc + 8] else [])).any (fun a => match lookup s core ctx a with | some p => p.resident s a && decide (hostBase ≤ p.pa a) | none => false)

/-- The device reads bytes of a context. -/
def ctxRead (s : State) (ctx : Nat) (va : Word) (n : Nat) : Option (List Byte) :=
  (ctxSpans s ctx va n false).map (fun l => l.flatMap (fun sp => physBytes s sp.pa sp.len))

/-- The device reads a word of a context. -/
def ctxWord (s : State) (ctx : Nat) (va : Word) : Option Word := (ctxRead s ctx va 8).map (fun bs => BitVec.ofNat 64 (fromBytes bs))

/-- The device writes bytes of a context; the write marks each leaf (R346). -/
def ctxPut (s : State) (ctx : Nat) (va : Word) (bs : List Byte) : Option State :=
  (ctxSpans s ctx va bs.length true).map (fun l => l.foldl (fun s sp => physPut (markPte s sp.page true) sp.pa ((bs.drop sp.at_).take sp.len)) s)

/-- The device writes a word of a context. -/
def ctxPutWord (s : State) (ctx : Nat) (va : Word) (x : Word) : Option State := ctxPut s ctx va (toBytes 8 x.toNat)

/-- May the context fetch the `n` bytes at a PC (R34, R213, R346)? The cause, or the spans. -/
def fetchCheck (s : State) (core ctx : Nat) (va : Word) (n : Nat) : Cause ⊕ List Span :=
  let rs := (vaParts va n 0 2).map (fun (part : Word × Nat × Nat) =>
    match translate s core ctx part.1 with
    | .inl k => ((some k, none) : Option Cause × Option Span)
    | .inr p =>
      match frameCause s ctx p part.1 part.2.1 with
      | some c => (some c, none)
      | none => if !pteEx p.pte then (some .perm, none) else if !p.resident s part.1 then (some .nres, none)
                else (none, some { pa := p.pa part.1, len := part.2.1, at_ := part.2.2, page := p }))
  match (rs.filterMap (fun r => r.1)) with
  | [] => .inr (rs.filterMap (fun r => r.2))
  | c :: cs => .inl (cs.foldl (fun b x => if causeCode x < causeCode b then x else b) c)

/-- A core's instruction cache keeps the line that holds a physical address as it stands in memory; the line kept longest goes when there is no
room (R17). Caches of instructions are not kept coherent (R29): a kept line may be older than memory (DESIGN CHOICE, log 18). -/
def keepLine (s : State) (core pa : Nat) : State :=
  s.mapCore core (fun c => { c with code := ((pa / 128, physBytes s (128 * (pa / 128)) 128) :: c.code.filter (fun e => e.1 != pa / 128)).take Config.codeLines })

/-- Lines that satisfy a test leave every instruction cache. -/
def dropLines (s : State) (p : Nat → Bool) : State :=
  { s with cores := tmap (fun (c : Core) => { c with code := c.code.filter (fun e => !p e.1) }) s.cores }

/-- The bytes of the fetched spans, which cross no line: from the core's instruction cache where it holds the line, else from memory. -/
def fetchBytes (s : State) (core : Nat) (l : List Span) : List Byte :=
  l.flatMap (fun sp => match (s.core core).code.lookup (sp.pa / 128) with
    | some bs => (bs.drop (sp.pa % 128)).take sp.len
    | none => physBytes s sp.pa sp.len)

/-- Is a byte of these spans in a poisoned sector (R381)? -/
def poisoned (s : State) (l : List Span) : Bool :=
  s.poison.length != 0 && l.any (fun sp => (piecesOf sp.pa sp.len 0 (sp.len / 32 + 2)).any (fun p => s.poison.contains p.sec))

end Sys2Proof.Machine
end

