-- ==== Sys2Proof/Machine/Shape.lean ====
section
/-! DEFINITION. The shapes and sides of block transfers (spec/08_memory_instructions.md R229, R230), and the units that a transfer in progress may
split (spec/06_domains.md R162, R184). -/

namespace Sys2Proof.Machine

open Sys2Proof

/-! ### Shapes and sides (R229, R230) -/

/-- The fields of a shape record. -/
structure Shape where
  n0 : Nat
  n1 : Nat
  n2 : Nat
  n3 : Nat
  ebl : Nat
  s1 : Nat
  s2 : Nat
  s3 : Nat
  dp : Nat
deriving DecidableEq, Repr

/-- The fields of four words, unchecked. -/
def shapeFields (w : List Word) : Shape :=
  let w0 := (w.getD 0 0).toNat
  let w1 := (w.getD 1 0).toNat
  let w2 := (w.getD 2 0).toNat
  let w3 := (w.getD 3 0).toNat
  { n0 := bitsOf w0 15 0, n1 := bitsOf w0 31 16, n2 := bitsOf w0 47 32, n3 := bitsOf w0 63 48, ebl := bitsOf w1 42 40, s1 := bitsOf w1 39 0,
    s2 := bitsOf w2 39 0, s3 := bitsOf w3 39 0, dp := bitsOf w2 63 40 }

/-- Bytes of a row. -/
def Shape.rb (x : Shape) : Nat := x.n0 * 2 ^ x.ebl
/-- Rows. -/
def Shape.rows (x : Shape) : Nat := x.n1 * x.n2 * x.n3
/-- Row pitch of the dense side. -/
def Shape.pitch (x : Shape) : Nat := if x.dp = 0 then x.rb else x.dp
/-- Sectors that a row counts. -/
def Shape.rowSectors (x : Shape) : Nat := ceilDiv x.rb 32
/-- The command's sector count. -/
def Shape.sectors (x : Shape) : Nat := x.rows * x.rowSectors

/-- Is a shape record legal (R229)? -/
def shapeOk (w : List Word) : Bool :=
  let x := shapeFields w
  decide (1 ≤ x.n0) && decide (1 ≤ x.n1) && decide (1 ≤ x.n2) && decide (1 ≤ x.n3) && decide (x.ebl ≤ 4) && bitsOf (w.getD 1 0).toNat 63 43 == 0 &&
  bitsOf (w.getD 3 0).toNat 63 40 == 0 && (x.dp == 0 || (decide (x.rb ≤ x.dp) && x.dp % 2 ^ x.ebl == 0))

/-- Offset of row r on the strided side. -/
def Shape.strided (x : Shape) (r : Nat) : Nat := r % x.n1 * x.s1 + r / x.n1 % x.n2 * x.s2 + r / (x.n1 * x.n2) * x.s3

/-- One side of a transfer: global, a peer window, or local storage. -/
inductive Side where
  | glb
  | peer
  | loc (sp : Space)
deriving DecidableEq, Repr

/-- Source and destination of a direction (R53). -/
def sidesOf : Dir → Side × Side
  | .glbLoc => (.glb, .loc .loc) | .locGlb => (.loc .loc, .glb) | .glbWbuf => (.glb, .loc .wbuf) | .glbAbuf => (.glb, .loc .abuf)
  | .abufGlb => (.loc .abuf, .glb) | .zbufGlb => (.loc .zbuf, .glb) | .locAbuf => (.loc .loc, .loc .abuf) | .abufLoc => (.loc .abuf, .loc .loc)
  | .peerLoc => (.peer, .loc .loc) | .locPeer => (.loc .loc, .peer) | .glbGlb => (.glb, .glb) | .zbufLoc => (.loc .zbuf, .loc .loc)
  | .locWbuf => (.loc .loc, .loc .wbuf)

/-- Is the source the strided side (R230)? -/
def stridedSource : Dir → Bool
  | .locGlb | .abufGlb | .zbufGlb | .locPeer => false
  | _ => true

/-- Does a direction use the store queue (R232)? -/
def storeQueueDir : Dir → Bool
  | .locGlb | .abufGlb | .zbufGlb | .locPeer => true
  | _ => false

/-- Has a direction a peer side? -/
def peerDir : Dir → Bool
  | .peerLoc | .locPeer => true
  | _ => false

/-- Address of row r on the source or the destination side. -/
def rowVa (c : BtCmd) (src : Bool) (r : Nat) : Word :=
  let x := shapeFields c.shape
  (if src then c.src else c.dst) + BitVec.ofNat 64 (if src == stridedSource c.dir then x.strided r else r * x.pitch)

/-- Bytes from the base of a side to its end. -/
def sideExtent (d : Dir) (x : Shape) (src : Bool) : Nat :=
  if src == stridedSource d then (x.n1 - 1) * x.s1 + (x.n2 - 1) * x.s2 + (x.n3 - 1) * x.s3 + x.rb else (x.rows - 1) * x.pitch + x.rb

/-- Do two ranges overlap? -/
def rangesMeet (a n b m : Nat) : Bool := decide (a < b + m) && decide (b < a + n)

/-- Has a command written some of its sectors and not all? -/
def BtCmd.partly (c : BtCmd) : Bool := decide (c.owed < (shapeFields c.shape).sectors)

/-- Can the destination of a command meet a range of a space, or of glb under none? -/
def destMeets (c : BtCmd) (sp : Option Space) (a n : Nat) : Bool :=
  (match (sidesOf c.dir).2, sp with | .loc x, some y => x == y | .glb, none => true | _, _ => false) &&
  rangesMeet c.dst.toNat (sideExtent c.dir (shapeFields c.shape) false) a n

/-- Can the source of a command meet a range of a space, or of glb under none? -/
def sourceMeets (c : BtCmd) (sp : Option Space) (a n : Nat) : Bool :=
  (match (sidesOf c.dir).1, sp with | .loc x, some y => x == y | .glb, none => true | _, _ => false) &&
  rangesMeet c.src.toNat (sideExtent c.dir (shapeFields c.shape) true) a n

/-- Is a transfer between its first row and its last that can write both the codes and the scale of an MX unit? Each of them then holds parts of
two units, and MXLD, MXST and the matrix engine wait (R144, R162, R184; log 26). -/
def partUnit (s : State) (blk ctx : Nat) (sp : Option Space) (a n b m : Nat) : Bool :=
  s.cores.any (fun e => (e.2.btl ++ e.2.bts).any (fun c =>
    c.partly && destMeets c sp a n && destMeets c sp b m &&
    (if sp.isSome then c.blk == blk else ((tget s.blocks c.blk).map (fun x => x.ctx)) == some ctx)))

/-- Is a transfer between its first row and its last that can read both the codes and the scale of an MX unit? A write of the unit waits for it, or the
copy would hold parts of two units (R162, R184). -/
def partCopy (s : State) (blk ctx : Nat) (sp : Option Space) (a n b m : Nat) : Bool :=
  s.cores.any (fun e => (e.2.btl ++ e.2.bts).any (fun c =>
    c.partly && sourceMeets c sp a n && sourceMeets c sp b m &&
    (if sp.isSome then c.blk == blk else ((tget s.blocks c.blk).map (fun x => x.ctx)) == some ctx)))

end Sys2Proof.Machine
end

