-- ==== Sys2Proof/Machine/Queue.lean ====
section
/-! DEFINITION. The domain store queues, fences and loads (spec/06_domains.md R159 to R191, R427). A store waits in
its core's queue until it is acknowledged; a load reads when its instruction issues, before it, or later (log 7). -/

namespace Sys2Proof.Machine

open Sys2Proof

/-! ### Program order (R160) -/

/-- Is an access of `e`, issued by the path `path`, program-ordered before a new access of `me`, whose group's current path is `mask` (R160)? A
group-wide access is ordered with the lanes of its path only. -/
def progBefore (me : AgentRef) (mask : Mask) (e : AgentRef) (path : Mask) : Bool :=
  e.blk == me.blk && e.grp == me.grp &&
  (match me.lane, e.lane with
   | some l, some k => l == k
   | none, some k => mask.getLsbD k
   | some l, none => path.getLsbD l
   | none, none => true)

/-- The number of an agent in the records of its group: its lane, or 64 for the group. -/
def agNum (me : AgentRef) : Nat := me.lane.getD 64

/-- Does a gate bind an access of `me` (R172, R173)? -/
def Gate.binds (g : Gate) (me : AgentRef) (mask : Mask) (d enc : Dom) : Bool :=
  (g.dom == d || g.dom == enc) &&
  (match me.lane with
   | some l => g.lane == l
   | none => g.lane == 64 || mask.getLsbD g.lane)

/-- Is the store of `e` a store of domain `d`, encoded or effective (R182), or one that a load of its agent in `d` has returned (R170)? -/
def StoreEntry.inDom (e : StoreEntry) (d : Dom) : Bool := e.dom == d || e.enc == d || e.also.contains d

/-- Is the load of `x` a load of domain `d`, encoded or effective? -/
def Late.inDom (x : Late) (d : Dom) : Bool := x.dom == d || x.enc == d

/-- The agents of a load that is still to be performed. -/
def Late.agents (x : Late) : List AgentRef := x.lanes.map (fun n => { x.ag with lane := if n = 64 then none else some n })

/-- Its sectors. -/
def Late.secs (x : Late) : List Nat := x.parts.map (fun p => p.1)

/-- Is a store of the agent program-ordered before its next access? -/
def StoreEntry.mine (e : StoreEntry) (me : AgentRef) (mask : Mask) : Bool := progBefore me mask e.ag e.path

/-- Is a load of the agent that is still to be performed program-ordered before its next access? -/
def Late.mine (x : Late) (me : AgentRef) (mask : Mask) : Bool := x.agents.any (fun a => progBefore me mask a x.path)

/-- Does an agent observe a store before others do (R167)? What a lane has observed, group-wide accesses of its group have, and the reverse. -/
def StoreEntry.seenBy (e : StoreEntry) (me : AgentRef) : Bool :=
  e.seen.any (fun a => a.blk == me.blk && a.grp == me.grp && (a.lane == me.lane || a.lane.isNone || me.lane.isNone))

/-- Is a remote request of the agent program-ordered before its next access? -/
def RemReq.mine (r : RemReq) (me : AgentRef) (mask : Mask) : Bool := progBefore me mask r.ag r.path

/-- The agent's earlier stores that are not acknowledged. -/
def ownStores (s : State) (core : Nat) (me : AgentRef) (mask : Mask) : List StoreEntry := (s.core core).sq.filter (fun e => e.mine me mask)

/-- Every queued store of the device, by rising name, with its core. -/
def allStores (s : State) : List (Nat × StoreEntry) :=
  sortBy (fun a b => decide (a.2.id ≤ b.2.id)) (s.cores.flatMap (fun c => c.2.sq.map (fun e => (c.1, e))))

/-- The agent's earlier loads that are not performed. -/
def ownLates (s : State) (me : AgentRef) (mask : Mask) : List Late := s.late.filter (fun x => x.mine me mask)

/-- The stores of other agents that an agent observes already (R167). -/
def seenStores (s : State) (me : AgentRef) : List StoreEntry := ((allStores s).map Prod.snd).filter (fun e => e.seenBy me)

/-- Is a store that an agent observes ordered before the agent's later accesses of a domain: a CAU store before those of CAU, a release before those
of REL (R166, R167, R170)? -/
def StoreEntry.chains (e : StoreEntry) (d : Dom) : Bool := (d == .cau && e.inDom .cau) || (d == .rel && e.rls && e.inDom .rel)

/-- Names of remote requests of an agent in a domain that are not answered (R187). -/
def remoteIds (s : State) (me : AgentRef) (mask : Mask) (d : Dom) : List Nat :=
  (s.fab.recs.filter (fun r => r.mine me mask && r.dom == d)).map (fun r => r.id)

/-- Names of the agent's earlier accesses of a domain that are not acknowledged or performed, and of the stores that it has observed before others
do. -/
def openIds (s : State) (core : Nat) (me : AgentRef) (mask : Mask) (d : Dom) : List Nat :=
  ((ownStores s core me mask).filter (fun e => e.inDom d)).map (fun e => e.id) ++ remoteIds s me mask d ++
  ((ownLates s me mask).filter (fun x => x.inDom d)).map (fun x => x.id) ++ ((seenStores s me).filter (fun e => e.chains d)).map (fun e => e.id)

/-- Names of all the agent's earlier accesses that are not acknowledged or performed. -/
def openAll (s : State) (core : Nat) (me : AgentRef) (mask : Mask) : List Nat :=
  (ownStores s core me mask).map (fun e => e.id) ++ (s.fab.recs.filter (fun r => r.mine me mask)).map (fun r => r.id) ++
  (ownLates s me mask).map (fun x => x.id) ++ ((seenStores s me).filter (fun e => e.chains .cau || e.chains .rel)).map (fun e => e.id)

/-- Does an access of a group's agent belong to what the group has issued, on any path, or to a lane that is not ejected now (R331)? -/
def homeAccess (ejected : List Nat) (onThread : Bool) (lane : Option Nat) : Bool :=
  !onThread || (match lane with | some l => !ejected.contains l | none => true)

/-- Names of the accesses that an arrival of a group orders (R175, R331): every access that the group has issued on any path, those of its lanes before
their ejection too, and those of the lanes that are back. -/
def openOfGroup (s : State) (core b g : Nat) (ejected : List Nat) : List Nat :=
  let mine := fun (a : AgentRef) => a.blk == b && a.grp == g
  ((s.core core).sq.filter (fun e => mine e.ag && homeAccess ejected e.thr e.ag.lane)).map (fun e => e.id) ++
  (s.fab.recs.filter (fun r => mine r.ag && homeAccess ejected r.ag.lane.isSome r.ag.lane)).map (fun r => r.id) ++
  (s.late.filter (fun x => mine x.ag && homeAccess ejected x.ag.lane.isSome x.ag.lane)).map (fun x => x.id) ++
  (((allStores s).map Prod.snd).filter (fun e => (e.chains .cau || e.chains .rel) && e.seen.any (fun a => mine a && homeAccess ejected true a.lane))).map
    (fun e => e.id)

/-- Is an access with one of these names still open? -/
def isOpen (s : State) (ids : List Nat) : Bool :=
  s.cores.any (fun c => c.2.sq.any (fun e => ids.contains e.id)) || s.fab.recs.any (fun r => ids.contains r.id) || s.late.any (fun x => ids.contains x.id)

/-! ### Times of an agent (R178, R179) -/

/-- Raises a time of an agent in a domain. -/
def raiseTime (m : Sparse 64) (lane : Nat) (d : Dom) (t : Nat) : Sparse 64 :=
  let k := 5 * lane + domIdx d
  sset m k (BitVec.ofNat 64 (max t (sget m k).toNat))

/-- The latest stamp that an agent's loads in a domain have returned. -/
def seenTime (s : State) (me : AgentRef) (lane : Nat) (d : Dom) : Nat :=
  match s.group? me.blk me.grp with | none => 0 | some g => (sget g.seenT (5 * lane + domIdx d)).toNat

/-- The latest visibility time of an agent's acknowledged writes in a domain. -/
def doneTime (s : State) (me : AgentRef) (lane : Nat) (d : Dom) : Nat :=
  match s.group? me.blk me.grp with | none => 0 | some g => (sget g.doneT (5 * lane + domIdx d)).toNat

/-- The agents whose accesses precede one of `me`: itself, and the lanes of the path before a group-wide one. -/
def priorNums (me : AgentRef) (mask : Mask) : List Nat :=
  match me.lane with
  | some l => [l, 64]
  | none => 64 :: (List.range 64).filter (fun l => mask.getLsbD l)

/-- The largest visibility time among the writes that a release of domains `ds` orders and that are acknowledged already (R178). The horizons
stand for the writes of other agents that the releasing agent has acquired. -/
def releaseTime (s : State) (core : Nat) (me : AgentRef) (mask : Mask) (ds : List Dom) : Nat :=
  ((priorNums me mask).flatMap (fun n => ds.map (fun d => doneTime s me n d)) ++ ds.map (fun d => (s.core core).horizon d)).foldl max 0

/-! ### Gates (R172, R173) -/

/-- The gates that bind an access. -/
def gatesOf (s : State) (me : AgentRef) (mask : Mask) (d enc : Dom) : List Gate :=
  match s.group? me.blk me.grp with
  | none => []
  | some g => g.gates.filter (fun x => x.binds me mask d enc)

/-- The write-backs that gates ask for, after which the gates are gone. -/
def dischargeGates (s : State) (core : Nat) (me : AgentRef) (mask : Mask) (d enc : Dom) : State :=
  match gatesOf s me mask d enc with
  | [] => s
  | hit =>
    (hit.foldl (fun s x => sivRelease s core x.src x.sc) s).mapGroup me.blk me.grp
      (fun g => { g with gates := g.gates.filter (fun x => !x.binds me mask d enc) })

/-- Names that an access of a domain must wait for because of fences and bridges. -/
def gateIds (s : State) (me : AgentRef) (mask : Mask) (d enc : Dom) : List Nat := (gatesOf s me mask d enc).flatMap (fun x => x.ids)

/-- Write-backs that must precede an access of a domain. -/
def gateBacks (s : State) (me : AgentRef) (mask : Mask) (d enc : Dom) : List (Dom × Scope) := (gatesOf s me mask d enc).map (fun x => (x.src, x.sc))

/-- Places a gate, joined with an equal one (R172, R173). -/
def addGate (g : Group) (x : Gate) : Group :=
  match g.gates.find? (fun y => y.lane == x.lane && y.dom == x.dom && y.src == x.src && y.sc == x.sc) with
  | none => { g with gates := g.gates ++ [x] }
  | some y => { g with gates := g.gates.map (fun z => if z = y then { z with ids := x.ids } else z) }

/-- The time to which a fence or bridge from `d1` raises a horizon (R179): that of `d1`, and what plain loads have returned where they are
ordered: before a FENCE, and in TSO and SEQ. -/
def bridgeTime (s : State) (core : Nat) (me : AgentRef) (lane : Nat) (d1 d2 : Dom) : Nat :=
  max ((s.core core).horizon d1) (if d1 == d2 || d1 == .tso || d1 == .seq then seenTime s me lane d1 else 0)

/-- A fence or bridge of one agent from `d1` to `d2` at a scope (R172, R173, R178, R179): the horizon of `d2` rises, no load after it has been
satisfied before it (log 7), and a gate holds its later accesses unless nothing is open, when the write-backs are made at once. -/
def bridge (s : State) (core : Nat) (me : AgentRef) (mask : Mask) (lane : Nat) (d1 d2 : Dom) (sc : Scope) : State :=
  let ids := openIds s core me mask d1
  let s1 := (s.raise core d2 (bridgeTime s core me lane d1 d2)).mapGroup me.blk me.grp
    (fun g => { g with ahead := g.ahead.filter (fun a => a.lane != lane && a.lane != 65), doneT := raiseTime g.doneT lane d2 (sget g.doneT (5 * lane + domIdx d1)).toNat })
  if ids.isEmpty then sivRelease s1 core d1 sc
  else s1.mapGroup me.blk me.grp (fun g => addGate g { lane := lane, dom := d2, src := d1, sc := sc, ids := ids })

/-! ### What an access waits for -/

/-- Does a domain order its loads with every later access of the agent (R166 to R169)? -/
def ordersLoads (d : Dom) : Bool := d == .cau || d == .tso || d == .seq

/-- Names of the agent's loads that are not performed, before which no later access of the domain may be performed: all of an ordered domain, and REL
acquires (R166 to R169). -/
def lateLoads (s : State) (me : AgentRef) (mask : Mask) (d enc : Dom) : List Nat :=
  ((ownLates s me mask).filter (fun x => [d, enc].any (fun k => x.inDom k && (ordersLoads k || x.acq)))).map (fun x => x.id)

/-- Names of the agent's remote loads, not yet answered, before which no later access of the domain may be performed: all
of an ordered domain, and REL acquires (R166, R187, R266). -/
def remoteLoads (s : State) (me : AgentRef) (mask : Mask) (d : Dom) : List Nat :=
  (s.fab.recs.filter (fun r => r.mine me mask && r.dom == d && (r.op == .load || r.op == .atomic) && (ordersLoads d || r.acq))).map (fun r => r.id)

/-- Names of the agent's loads of these sectors that are not performed (R163). -/
def lateAt (s : State) (me : AgentRef) (mask : Mask) (secs : List Nat) : List Nat :=
  ((ownLates s me mask).filter (fun x => x.secs.any (fun k => secs.contains k))).map (fun x => x.id)

/-- What a load waits for: fences, bridges, its own SEQ stores, and loads that are still to be performed: those of an order that it follows, and those
of its sectors (R163, R166 to R169, R172, R173). -/
def loadNeeds (s : State) (core : Nat) (me : AgentRef) (mask : Mask) (d enc : Dom) (secs : List Nat) : List Nat :=
  gateIds s me mask d enc ++ remoteLoads s me mask d ++ lateLoads s me mask d enc ++ lateAt s me mask secs ++
  (if d == .seq then openIds s core me mask .seq else [])

/-- What a store waits for: the agent's stores of an ordered domain (R167 to R169), the REL accesses a release orders
(R166, R182), its own accesses to the sector (R163, R176), the loads of an order that it follows, fences and bridges, and the stores that it has
observed before others: those to the sector, and those that are ordered before its accesses of the domain (R163, R166, R167). -/
def storeNeeds (s : State) (core : Nat) (me : AgentRef) (mask : Mask) (d enc : Dom) (rls : Bool) (secs : List Nat) : List Nat :=
  let ordered : Bool := d == .cau || d == .tso || d == .seq
  ((ownStores s core me mask).filter (fun e => secs.contains e.sec ||
    (ordered && e.inDom d) || (rls && e.inDom .rel))).map (fun e => e.id) ++
  ((seenStores s me).filter (fun e => secs.contains e.sec || e.chains d || e.chains enc)).map (fun e => e.id) ++
  lateLoads s me mask d enc ++ lateAt s me mask secs ++ (if rls then ((ownLates s me mask).filter (fun x => x.inDom .rel)).map (fun x => x.id) else []) ++
  (if ordered then remoteIds s me mask d else remoteLoads s me mask d) ++ (if rls then remoteIds s me mask .rel else []) ++ gateIds s me mask d enc

/-- Write-backs that a store makes before it becomes visible (R177): those of bridges, and its own as a release. -/
def storeBacks (s : State) (me : AgentRef) (mask : Mask) (d enc : Dom) (rls : Bool) (sc : Scope) : List (Dom × Scope) :=
  gateBacks s me mask d enc ++ (if rls then [(.rel, sc)] ++ (if d == .rel then [] else [(d, sc)]) else [])

/-- The lanes and the group for which a fence acts: the active lanes, or in the group-wide form every lane of the path and
the group (R226). -/
def fenceAgents (me : AgentRef) (lanes : List Nat) (group : Bool) : List (AgentRef × Nat) :=
  lanes.map (fun l => ({ me with lane := some l }, l)) ++ (if group then [({ me with lane := none }, 64)] else [])

/-! ### Loads satisfied ahead (R165, R171) -/

/-- Forgets what loads of an agent, and of the group or lanes that its accesses are ordered with, have read ahead of these sectors (R163). -/
def dropAhead (s : State) (me : AgentRef) (secs : List Nat) : State :=
  match s.group? me.blk me.grp with
  | none => s
  | some g =>
    let hit := fun (a : Ahead) => secs.contains a.sec && (me.lane.isNone || a.lane == (agNum me) || 64 ≤ a.lane)
    if g.ahead.any hit then s.mapGroup me.blk me.grp (fun g => { g with ahead := g.ahead.filter (fun a => !hit a) }) else s

/-- Forgets everything that the loads of a group have read ahead. -/
def Group.noAhead (g : Group) : Group := { g with ahead := [] }

/-- May a load return what was read ahead at a time: in BULK, REL or CAU, and after the horizon (R165, R171, R179)? -/
def LoadAs.mayPass (l : LoadAs) (c : Core) (time : Nat) : Bool := decide (domIdx l.dom ≤ 2) && decide (domIdx l.enc ≤ 2) && decide (l.hor c < time)

/-- What a load of a sector may return that was read ahead: in BULK, REL or CAU, and only when it was read after the horizon (R179). -/
def aheadOf (s : State) (core : Nat) (me : AgentRef) (sec : Nat) (l : LoadAs) : Option Ahead :=
  match s.group? me.blk me.grp with
  | none => none
  | some g =>
    g.ahead.find? (fun a => a.lane == (agNum me) && a.sec == sec && l.mayPass (s.core core) a.time)

/-- The two sectors of a unit that MXLD may return, which were read together ahead of it (R162, R165). -/
def aheadUnit (s : State) (core : Nat) (me : AgentRef) (a b : Nat) (la lb : LoadAs) : Option (Ahead × Ahead) :=
  (s.group? me.blk me.grp).bind (fun g =>
    let get := fun (x y : Nat) (l : LoadAs) => g.ahead.find? (fun e => e.lane == 65 && e.sec == x && e.mate == some y && l.mayPass (s.core core) e.time)
    match get a b la, get b a lb with | some x, some y => some (x, y) | _, _ => none)

/-! ### Loads (R163, R176, R178, R179) -/

/-- The queued stores that a load of an agent finds on a sector: its own that precede it, which have names below `lim`, and those of others that it
observes already. -/
def foundStores (s : State) (core : Nat) (me : AgentRef) (mask : Mask) (lim sec : Nat) : List StoreEntry :=
  let own := (s.core core).sq.filter (fun e => e.sec == sec && ((e.mine me mask && decide (e.id < lim)) || e.seenBy me))
  let other := s.cores.flatMap (fun c => if c.1 = core then [] else c.2.sq.filter (fun e => e.sec == sec && e.seenBy me))
  if other.isEmpty then own else sortBy (fun a b => decide (a.id ≤ b.id)) (own ++ other)

/-- A sector with queued stores on top, oldest first. -/
def forwarded (es : List StoreEntry) (d : BitVec 256) : BitVec 256 := es.foldl (fun d e => overlay d e.data e.mask) d

/-- A load of a domain has returned these queued stores of its agent: the load's order holds them too (R170). -/
def noteForward (s : State) (core : Nat) (l : LoadAs) (es : List StoreEntry) : State :=
  let new := fun (e : StoreEntry) => [l.dom, l.enc].eraseDups.filter (fun d => !e.inDom d)
  if es.all (fun e => (new e).isEmpty) then s
  else s.mapCore core (fun c => { c with sq := c.sq.map (fun e => if es.any (fun x => x.id == e.id) then { e with also := e.also ++ new e } else e) })

/-- Reads one sector for a load of an agent: the state, the sector and the stamp returned. -/
def loadSector (s : State) (core : Nat) (me : AgentRef) (mask : Mask) (lim sec : Nat) (k : PageKind) (l : LoadAs) : State × BitVec 256 × Nat :=
  match aheadOf s core me sec l with
  | some a => (dropAhead s me [sec], a.data, a.stamp)
  | none =>
    let (s1, v, t) := coreRead s core sec k l
    let es := foundStores s1 core me mask lim sec
    (noteForward (dropAhead s1 me [sec]) core l es, forwarded es v, (es.filter (fun e => e.seenBy me)).foldl (fun t e => max t e.rt) t)

/-- The sector pieces of spans, each with its span. -/
def spanPieces (spans : List Span) : List (Span × Piece) :=
  spans.flatMap (fun sp => (piecesOf sp.pa sp.len sp.at_ (sp.len / 32 + 2)).map (fun p => (sp, p)))

/-- Reads the physical spans of an access: bytes and the latest stamp returned (R178). -/
def loadSpans (s : State) (core : Nat) (me : AgentRef) (mask : Mask) (spans : List Span) (l : LoadAs) : State × List Byte × Nat :=
  (spanPieces spans).foldl (fun (acc : State × List Byte × Nat) x =>
    let (s1, v, t) := loadSector acc.1 core me mask s.ids x.2.sec x.1.page.kind l
    (s1, acc.2.1 ++ (List.range x.2.len).map (fun i => sectorByte v (x.2.off + i)), max acc.2.2 t)) (s, [], 0)

/-- A sector where LR, SC and MX units read it (R162, R220): on SIV pages as the home holds it, under the core's own dirty bytes; on TRK pages
once every message on its way has arrived, so that the parts of a unit are read at one instant. -/
def placeRead (s : State) (core sec : Nat) (k : PageKind) (l : LoadAs) : State × BitVec 256 × Nat :=
  match k.cm with
  | .siv => homeRead s core sec
  | .trk => coreRead (settled s) core sec k l
  | .unc => coreRead s core sec k l

/-- The sectors of an MX unit, read at one instant where the unit stands for every agent: what the core and its cluster hold of it on SIV pages goes to
the home first (R162, R425). -/
def unitRead (s : State) (core : Nat) (parts : List (Nat × PageKind)) (l : LoadAs) : State × List (BitVec 256 × Nat) :=
  let s1 := parts.foldl (fun s p => if p.2.cm = .siv then sivHome (clusterOf core) (sivUp core s p.1) p.1 else s) s
  parts.foldl (fun (acc : State × List (BitVec 256 × Nat)) p => let (s2, d, t) := placeRead acc.1 core p.1 p.2 l; (s2, acc.2 ++ [(d, t)])) (s1, [])

/-- What a load leaves (R179, R182): the horizons that an acquire and a CAU load raise, the stamp that a later fence finds, and the bridge from the
effective domain to REL after a promoted acquire. -/
def afterLoad (s : State) (core : Nat) (me : AgentRef) (mask : Mask) (l : LoadAs) (acq : Bool) (t : Nat) : State :=
  let s1 := s.mapGroup me.blk me.grp (fun g => { g with seenT := raiseTime (raiseTime g.seenT (agNum me) l.dom t) (agNum me) l.enc t })
  let s2 := if acq || l.dom == .cau then s1.raise core l.dom t else s1
  if acq && l.dom != l.enc then bridge (s2.raise core l.enc t) core me mask (agNum me) l.dom l.enc l.sc else s2

/-! ### Loads that are performed later than they issue (R165, R171) -/

/-- Gates that wait for a load rise to the stamp that it has returned, where a fence or a bridge takes it (R179). -/
def lateGates (s : State) (core : Nat) (x : Late) (t : Nat) : State :=
  match s.group? x.ag.blk x.ag.grp with
  | none => s
  | some g =>
    (g.gates.filter (fun y => y.ids.contains x.id && (x.acq || x.dom == .cau || y.src == y.dom || y.src == .tso || y.src == .seq))).foldl
      (fun s y => s.raise core y.dom t) s

/-- A load is performed: its bytes go to the destinations of its window that no later instruction has overtaken; those of a group that a debugger has halted
hold them then (R38, R39). -/
def performLate (s0 : State) (x : Late) : State :=
  match tget s0.blocks x.ag.blk with
  | none => { s0 with late := s0.late.filter (fun y => y.id != x.id) }
  | some bl =>
    let core := bl.core
    let l : LoadAs := { dom := x.dom, enc := x.enc, sc := x.sc }
    let s := x.wb.foldl (fun s y => sivRelease s core y.1 y.2) { s0 with late := s0.late.filter (fun y => y.id != x.id) }
    let (s1, ds) : State × List (BitVec 256 × Nat) :=
      if x.unit.isSome then unitRead s core (x.parts.map (fun p => (p.1, p.2.2.2))) l
      else x.parts.foldl (fun (acc : State × List (BitVec 256 × Nat)) p =>
        let (s2, d, t) := loadSector acc.1 core (x.agents.headD x.ag) x.path x.id p.1 p.2.2.2 l; (s2, acc.2 ++ [(d, t)])) (s, [])
    let bs := (List.zip x.parts ds).flatMap (fun y => (List.range y.1.2.2.1).map (fun i => sectorByte y.2.1 (y.1.2.1 + i)))
    let t := ds.foldl (fun t y => max t y.2) 0
    let s2 := x.agents.foldl (fun s a => afterLoad s core a x.path l x.acq t) (lateGates s1 core x t)
    let ws := x.dest.map (fun d => d.1.withNum (fromBytes ((bs.drop d.2.1).take d.2.2)))
    s2.mapGroup x.ag.blk x.ag.grp (fun g =>
      let done := fun (r : Regs) =>
        let r1 := r.answer x.id ws
        if g.halted then r1.flush else r1
      match x.ag.lane with
      | none => { g with r := done g.r }
      | some l => { g with threads := g.threads.map (fun t => if t.lane = l then { t with r := done t.r } else t) })

/-- Agents whose next load is performed later than it issues are so no longer. -/
def takeLater (s : State) (me : AgentRef) : State := s.mapGroup me.blk me.grp (fun g => { g with later := g.later.filter (fun n => n != agNum me) })

/-- Will the next load of an agent be performed later than it issues? -/
def isLater (s : State) (me : AgentRef) : Bool := match s.group? me.blk me.grp with | some g => g.later.contains (agNum me) | none => false

/-- A load is noted to be performed later: what stands before it, and its name. -/
def deferLoad (s : State) (core : Nat) (ag : AgentRef) (mes : List AgentRef) (mask : Mask) (l : LoadAs) (acq : Bool) (unit : Option (Word × Word)) (parts : List (Nat × Nat × Nat × PageKind))
    (extra : List Nat) (dest : List (RegWrite × Nat × Nat)) : State × Nat :=
  let secs := parts.map (fun p => p.1)
  let after := mes.flatMap (fun me => loadNeeds s core me mask l.dom l.enc secs) ++ extra
  let wb := mes.flatMap (fun me => gateBacks s me mask l.dom l.enc)
  let (id, s1) := s.newId
  let x : Late := { id := id, ag := ag, lanes := mes.map agNum, path := mask, dom := l.dom, enc := l.enc, sc := l.sc, acq := acq, unit := unit, parts := parts,
                    dest := dest, after := after.eraseDups, wb := wb }
  (mes.foldl (fun s me => takeLater (dropAhead s me secs) me) { s1 with late := s1.late ++ [x] }, id)

/-! ### Acknowledgement (R176 to R178) -/

/-- The Chain agent id of an agent number of a core (R385). -/
def agentId (s : State) (core agent : Nat) : Nat := s.mgmt.device * 2 ^ 22 + core * 2 ^ 14 + agent * 32

/-- The entries of a domain's queue, oldest first (R176). -/
def queueEntries (q : List StoreEntry) (d : Dom) : List Nat := ((q.filter (fun e => e.dom == d)).map (fun e => e.ent)).eraseDups

/-- Has a store a place in its queue? A full queue keeps later ones outside, in order (R176). -/
def StoreEntry.inside (e : StoreEntry) (q : List StoreEntry) : Bool := ((queueEntries q e.dom).take (Config.storeQueue e.dom)).contains e.ent

/-- The stores of one queue entry. -/
def entryOf (q : List StoreEntry) (ent : Nat) : List StoreEntry := q.filter (fun e => e.ent == ent)

/-- The stamp that a store leaves (R178): for a release the largest visibility time among the writes it orders, else its own. -/
def StoreEntry.stamp (e : StoreEntry) (now : Nat) : Nat := if e.rls && e.enc == .rel then e.rt else now

/-- The scope at which a store becomes visible. The parts of an MX unit that would become visible at different levels do so at the home (R162). -/
def entryScope (s : State) (core : Nat) (es : List StoreEntry) (e : StoreEntry) : Scope :=
  let parts := es.filter (fun x => e.unit.isSome && x.unit == e.unit && x.ag == e.ag && x.vt == e.vt)
  if parts.any (fun x => x.kind.cm != .siv || trkHere s core x.sec) && decide (scopeIdx e.sc < 3) then .dev else e.sc

/-- The core of an agent. -/
def coreOf (s : State) (a : AgentRef) : Option Nat := (tget s.blocks a.blk).map (fun b => b.core)

/-- The copies of an agent's core take the value of an SIV sector at the level where a store that the agent has observed has become visible, so that
no later load of it returns an older one (R163). -/
def freshen (s : State) (core sec : Nat) (sc : Scope) : State :=
  match sc with
  | .grp | .blk => s
  | .cls => (clusterRead s core sec 0).1
  | .dev | .sys => (homeRead s core sec).1

/-- The gates that wait for a store rise to the time at which it becomes visible: a release behind the bridge has no earlier timestamp (R173, R178). -/
def ackGates (s : State) (id t : Nat) : State :=
  let hit := fun (x : Gate) => x.ids.contains id
  let f := fun (g : Group) => if g.gates.any hit then { g with doneT := (g.gates.filter hit).foldl (fun m x => raiseTime m x.lane x.dom t) g.doneT } else g
  if s.blocks.any (fun b => (tvals b.2.groups).any (fun g => g.gates.any hit)) then
    { s with blocks := tmap (fun (b : Block) => { b with groups := tmap f b.groups }) s.blocks } else s

/-- A store becomes visible at its visibility point and is acknowledged (R177, R178): the stores that wait for it and its agent note the time. -/
def ackOne (core : Nat) (es : List StoreEntry) (s : State) (e : StoreEntry) : State :=
  let t := s.now
  let wait := fun (x : StoreEntry) => if x.after.contains e.id then { x with rt := max x.rt t } else x
  let s0 := { s with cores := tmap (fun (c : Core) => if c.sq.isEmpty then c else { c with sq := (c.sq.filter (fun x => x.id != e.id)).map wait }) s.cores }
  let s1 := e.wb.foldl (fun s x => sivRelease s core x.1 x.2) s0
  let w : SecWrite := { sec := e.sec, data := e.data, mask := e.mask, dom := e.dom }
  let sc := entryScope s core es e
  let s2 := coreWrite s1 core w e.kind sc (e.stamp t) (some e.ag)
  let s3 := if e.kind.cm = .siv then (e.seen.filterMap (coreOf s2)).foldl (fun s c => if c = core then s else freshen s c e.sec (sivLevel s core e.sec sc)) s2 else s2
  let s4 := (ackGates s3 e.id t).mapGroup e.ag.blk e.ag.grp (fun g => { g with doneT := raiseTime (raiseTime g.doneT (agNum e.ag) e.dom t) (agNum e.ag) e.enc t })
  if (e.rls && e.enc == .rel) || e.dom == .tso || e.dom == .seq then
    let g := s4.group? e.ag.blk e.ag.grp
    let slot := (g.map (fun g => g.slot)).getD 0
    let th := g.bind (fun g => e.ag.lane.bind (fun l => g.threads.find? (fun t => t.lane == l)))
    let who := agentId s4 core (match th with | some t => 272 + t.num | none => slot)
    let ptr := match th, g with | some t, _ => t.chain | none, some g => g.chain | none, none => Ptr.none
    { s4 with notes := tset s4.notes e.sec ((who, ptr, s.now), e.stamp t) }
  else s4

/-- Ties two sectors of an MX unit in the caches of a core (R162). -/
def mxTie (s : State) (core a b : Nat) : State := tieUnit (tieUnit s (.l1 core) a b) (.cc (clusterOf core)) a b

/-- A queue entry leaves: its stores are acknowledged, oldest first; the parts of a unit stay together on their way down. -/
def ackEntry (s : State) (core : Nat) (e : StoreEntry) : State :=
  let es := entryOf (s.core core).sq e.ent
  es.foldl (fun s x => es.foldl (fun s y =>
    if x.unit.isSome && x.unit == y.unit && x.ag == y.ag && x.vt == y.vt && decide (x.id < y.id) then mxTie s core x.sec y.sec else s) s) (es.foldl (ackOne core es) s)

/-- Does a store of an MX unit wait for a transfer that is between the parts of the unit (R162, R184)? -/
def unitHeld (s : State) (e : StoreEntry) : Bool :=
  match e.unit, tget s.blocks e.ag.blk with
  | some (u, c), some b => partUnit s e.ag.blk b.ctx none u.toNat 32 c.toNat 2 || partCopy s e.ag.blk b.ctx none u.toNat 32 c.toNat 2
  | _, _ => false

/-- Does a load of an MX unit wait for one? -/
def lateHeld (s : State) (x : Late) : Bool :=
  match x.unit, tget s.blocks x.ag.blk with
  | some (u, c), some b => partUnit s x.ag.blk b.ctx none u.toNat 32 c.toNat 2
  | _, _ => false

/-- May a load that has issued be performed now? -/
def lateReady (s : State) (x : Late) : Bool := !isOpen s x.after && !hostWaits s x.secs && !lateHeld s x

/-- May a store's entry leave its queue now? -/
def ackReady (s : State) (core : Nat) (e : StoreEntry) : Bool :=
  let es := entryOf (s.core core).sq e.ent
  let ids := es.map (fun x => x.id)
  e.inside (s.core core).sq && !isOpen s ((es.flatMap (fun x => x.after)).filter (fun i => !ids.contains i)) && !hostWaits s (es.map (fun x => x.sec)) &&
  !es.any (unitHeld s)

/-- What must be acknowledged before a store besides itself: what it is ordered after, its entry, and for one outside its queue every earlier
store of the queue. -/
def storeDeps (s : State) (c : Nat) (e : StoreEntry) : List Nat :=
  let q := (s.core c).sq
  e.after ++ (entryOf q e.ent).map (fun x => x.id) ++
  (if e.inside q then [] else (q.filter (fun x => x.dom == e.dom && decide (x.id < e.id))).map (fun x => x.id))

/-- Every access that is not acknowledged or performed, by rising name, with what must precede it. -/
def openDeps (s : State) : List (Nat × List Nat) :=
  sortBy (fun a b => decide (a.1 ≤ b.1)) ((allStores s).map (fun e => (e.2.id, storeDeps s e.1 e.2)) ++ s.late.map (fun x => (x.id, x.after)))

/-- The accesses that must precede these: names rise along every order, so one pass finds them. -/
def idClosure (q : List (Nat × List Nat)) (ids : List Nat) : List Nat :=
  q.reverse.foldl (fun acc e => if acc.contains e.1 then e.2 ++ acc else acc) ids

/-- One access is acknowledged or performed. -/
def performOne (s : State) (id : Nat) : State :=
  match (allStores s).find? (fun e => e.2.id == id), s.late.find? (fun x => x.id == id) with
  | some e, _ => ackEntry s e.1 e.2
  | none, some x => performLate s x
  | none, none => s

/-- These accesses and all that must precede them are acknowledged and performed, oldest first. -/
def performAll (s : State) (ids : List Nat) : State :=
  let q := openDeps s
  let all := idClosure q ids
  ((q.map Prod.fst).filter (fun i => all.contains i)).foldl performOne s

/-- Acknowledges and performs these accesses and all that must precede them, oldest first; none while a remote access is among them, one that waits for
the host link, or a part of a unit that a transfer keeps back. -/
def drain (s : State) (ids : List Nat) : Option State :=
  let all := idClosure (openDeps s) ids
  let es := ((allStores s).map Prod.snd).filter (fun e => all.contains e.id)
  let xs := s.late.filter (fun x => all.contains x.id)
  if s.fab.recs.any (fun r => all.contains r.id) || hostWaits s (es.map (fun e => e.sec) ++ xs.flatMap Late.secs) || es.any (unitHeld s) || xs.any (lateHeld s) then none
  else some (performAll s ids)

/-- Makes ready for a load (R163, R169, R172, R173); none while a remote access holds it back. -/
def beforeLoad (s : State) (core : Nat) (me : AgentRef) (mask : Mask) (d enc : Dom) (secs : List Nat) : Option State :=
  let ids := loadNeeds s core me mask d enc secs
  if ids.isEmpty && (gatesOf s me mask d enc).isEmpty then some s
  else (drain s ids).map (fun s => dischargeGates s core me mask d enc)

/-! ### Stores (R162, R163, R176, R217) -/

/-- The BULK entry that a store to a sector may combine with: of the same line, when the store waits for nothing but stores in it (R176). -/
def combining (q : List StoreEntry) (d : Dom) (sec : Nat) (after : List Nat) : Option Nat :=
  if d != .bulk then none
  else (q.find? (fun e => e.dom == .bulk && e.sec / 4 == sec / 4 && after.all (fun i => (entryOf q e.ent).any (fun x => x.id == i)))).map (fun e => e.ent)

/-- Names of the queued stores of lower lanes of the same instruction to the same bytes, before which a lane's store takes no place (R217). -/
def lowerLanes (s : State) (core : Nat) (me : AgentRef) (p : Piece) : List Nat :=
  ((s.core core).sq.filter (fun e => e.ag.blk == me.blk && e.ag.grp == me.grp && e.vt == s.now && e.sec == p.sec && e.mask &&& spanMask p.off p.len != 0)).map
    (fun e => e.id)

/-- Is it an ejected lane that executes? -/
def onThread (s : State) : Bool := (s.cur.bind (fun a => a.lane)).isSome

/-- The queue entry of one sector piece of a store (R162, R176). `needs` is what stands before it, `ent` its entry. -/
def pieceEntry (s : State) (me : AgentRef) (mask : Mask) (kind : PageKind) (w : SecWrite) (d enc : Dom) (sc : Scope) (rls : Bool) (id ent : Nat)
    (after : List Nat) (wb : List (Dom × Scope)) (rt : Nat) (unit : Option (Word × Word)) : StoreEntry :=
  { id := id, ag := me, dom := d, enc := enc, sc := sc, rls := rls, sec := w.sec, data := w.data, mask := w.mask, kind := kind, path := mask, ent := ent, seen := [],
    rt := rt, after := after, wb := wb, also := [], thr := onThread s, unit := unit, vt := s.now }

/-- The store of one agent to the physical spans of one access: one sector piece each (R162). A release promoted to `d` acts as if a bridge
from REL preceded it (R182). -/
def storeSpans (s0 : State) (core : Nat) (me : AgentRef) (mask : Mask) (spans : List Span) (bs : List Byte) (d enc : Dom) (sc : Scope)
    (rls : Bool) : State :=
  let s := if rls && d != .rel then bridge s0 core me mask (agNum me) .rel d sc else s0
  let pieces := spanPieces spans
  let secs := pieces.map (fun x => x.2.sec)
  let needs := storeNeeds s core me mask d enc rls secs
  let wb := storeBacks s me mask d enc rls sc
  let rt := releaseTime s core me mask [d, enc]
  pieces.foldl (fun s x =>
    let (id, s1) := s.newId
    let after := lowerLanes s core me x.2 ++ needs
    let w : SecWrite := { sec := x.2.sec, data := placeBytes x.2.off ((bs.drop x.2.at_).take x.2.len), mask := spanMask x.2.off x.2.len, dom := d }
    let e := pieceEntry s me mask x.1.page.kind w d enc sc rls id ((combining (s.core core).sq d x.2.sec after).getD id) after wb rt none
    s1.mapCore core (fun c => { c with sq := c.sq ++ [e] })) (dropAhead s me secs)

/-- A part of an MX unit that MXST writes: its sector, bytes and mask, its page, its domain. -/
structure UnitPart where
  w    : SecWrite
  kind : PageKind
deriving DecidableEq, Repr

/-- The write of an MX unit by the lanes `mes` takes its place as one queue entry, which leaves as a whole (R162). -/
def storeUnit (s0 : State) (core : Nat) (mes : List AgentRef) (mask : Mask) (parts : List UnitPart) (enc : Dom) (sc : Scope) (rls : Bool) (unit : Word × Word) :
    State :=
  let me := mes.headD { blk := 0, grp := 0, lane := none }
  let ds := (parts.map (fun p => p.w.dom)).eraseDups
  let s := if rls then (ds.filter (fun d => d != .rel)).foldl (fun s d => mes.foldl (fun s me => bridge s core me mask (agNum me) .rel d sc) s) s0 else s0
  let secs := parts.map (fun p => p.w.sec)
  let needs := (ds.flatMap (fun d => mes.flatMap (fun me => storeNeeds s core me mask d enc rls secs))).eraseDups
  let wb := (ds.flatMap (fun d => mes.flatMap (fun me => storeBacks s me mask d enc rls sc))).eraseDups
  let rt := (ds.flatMap (fun d => mes.map (fun me => releaseTime s core me mask [d, enc]))).foldl max 0
  let ent := s.ids
  parts.foldl (fun s p =>
    let (id, s1) := s.newId
    let e := pieceEntry s me mask p.kind p.w p.w.dom enc sc rls id ent needs wb rt (some unit)
    s1.mapCore core (fun c => { c with sq := c.sq ++ [e] })) (mes.foldl (fun s me => dropAhead s me secs) s)

/-- Has an agent a store that found its queue full (R176)? An ejected lane's store holds back the lane only. -/
def queueStalls (s : State) (core : Nat) (ag : AgentRef) (ejected : List Nat) : Bool :=
  let q := (s.core core).sq
  q.any (fun e => e.ag.blk == ag.blk && e.ag.grp == ag.grp &&
    (match ag.lane, e.ag.lane with
     | some l, some k => l == k
     | some _, none => false
     | none, some k => !ejected.contains k
     | none, none => true) && !e.inside q)

/-- Makes ready for an atomic, which is a load and a store of its domain (R219): everything that a store would wait for
is acknowledged first, and its write-backs are made. -/
def beforeAtomic (s0 : State) (core : Nat) (me : AgentRef) (mask : Mask) (d enc : Dom) (rls : Bool) (sc : Scope) (secs : List Nat) : Option State :=
  let s := if rls && d != .rel then bridge s0 core me mask (agNum me) .rel d sc else s0
  let ids := storeNeeds s core me mask d enc rls secs
  let wb := storeBacks s me mask d enc rls sc
  (if hostWaits s secs then none else drain s ids).map (fun s =>
    let s1 := wb.foldl (fun s x => sivRelease s core x.1 x.2) s
    dropAhead (dischargeGates s1 core me mask d enc) me secs)

/-- The stamp that an atomic or another write made at once leaves (R178). -/
def writeStamp (s : State) (core : Nat) (me : AgentRef) (mask : Mask) (d enc : Dom) (rls : Bool) : Nat :=
  if rls && enc == .rel then releaseTime s core me mask [d, enc] else s.now

/-- A write made at once is noted among the acknowledged writes of its agent (R178). -/
def noteDone (s : State) (me : AgentRef) (d enc : Dom) : State :=
  s.mapGroup me.blk me.grp (fun g => { g with doneT := raiseTime (raiseTime g.doneT (agNum me) d s.now) (agNum me) enc s.now })

/-- A release in all five domains with all bridges that orders every access of the group's path before what follows:
the accesses are acknowledged and the write-backs made; none while a remote access is open. -/
def releaseAll (s : State) (core : Nat) (me : AgentRef) (mask : Mask) (sc : Scope) : Option State :=
  (drain s (openAll s core { me with lane := none } mask)).map (fun s => sivReleaseAll s core sc)

/-- An acquire in all five domains with all bridges: every horizon of the core rises to now. -/
def acquireAll (s : State) (core : Nat) : State := s.raiseAll core s.now

/-! ### What need not happen (R165, R167, R171) -/

/-- Is nothing of an agent on these sectors still to be performed? A load that passed it would return an older write than it (R163). -/
def nothingOn (s : State) (core : Nat) (me : AgentRef) (mask : Mask) (secs : List Nat) : Bool :=
  (lateAt s me mask secs).isEmpty && (ownStores s core me mask).all (fun e => !secs.contains e.sec)

/-- The time at which a core's copy of a sector was fetched; now for what is no SIV copy. -/
def copyTime (s : State) (core sec : Nat) : Nat := match cacheGet s (.l1 core) sec with | some x => if x.mode = .siv then x.fetched else s.now | none => s.now

/-- A load of a sector is satisfied ahead of program order (R165, R171): what it reads now is kept for the next load of the agent to the sector.
The time is that at which the copy was fetched. -/
def readAhead (s : State) (core : Nat) (me : AgentRef) (mask : Mask) (sec : Nat) (k : PageKind) (l : LoadAs) : State :=
  if !(lateAt s me mask [sec]).isEmpty then s
  else
    let (s1, d, t) := loadSector s core me mask s.ids sec k l
    s1.mapGroup me.blk me.grp (fun g => { g with ahead := g.ahead ++ [{ lane := agNum me, sec := sec, data := d, stamp := t, time := copyTime s1 core sec, mate := none }] })

/-- The two sectors of a unit are read together for the next MXLD of the group that loads it (R162, R165), where no store to them is queued. -/
def readUnitAhead (s : State) (core : Nat) (me : AgentRef) (a b : Nat × PageKind) (l : LoadAs) : State :=
  if !nothingOn s core { me with lane := none } (BitVec.allOnes 64) [a.1, b.1] then s
  else
    let t := s.now
    let (s1, ds) := unitRead s core [a, b] l
    let new := (List.zip [(a.1, b.1), (b.1, a.1)] ds).map (fun x => ({ lane := 65, sec := x.1.1, data := x.2.1, stamp := x.2.2, time := t, mate := some x.1.2 } : Ahead))
    s1.mapGroup me.blk me.grp (fun g => { g with ahead := g.ahead.filter (fun e => e.lane != 65 || !(e.sec == a.1 || e.sec == b.1)) ++ new })

/-- The stores that are one write with a store: itself, and the other part of its unit. -/
def unitOf (q : List StoreEntry) (e : StoreEntry) : List StoreEntry :=
  q.filter (fun x => x.id == e.id || (e.unit.isSome && x.unit == e.unit && x.ag == e.ag && x.vt == e.vt))

/-- May an agent observe a queued store before others do (R167)? A store of BULK, REL or CAU that is ready to leave, which an agent of the store's level
observes when it finds no other on the sector. -/
def spreads (s : State) (core : Nat) (me : AgentRef) (mask : Mask) (e : StoreEntry) : Bool :=
  let near : Bool := match coreOf s me, entryScope s core (entryOf (s.core core).sq e.ent) e with
    | some c, .grp | some c, .blk => c == core
    | some c, .cls => clusterOf c == clusterOf core
    | some _, _ => true
    | none, _ => false
  ackReady s core e && e.ag != me && (near || e.kind.cm != .siv) &&
  (unitOf (s.core core).sq e).all (fun e =>
    decide (domIdx e.dom ≤ 2) && decide (domIdx e.enc ≤ 2) && e.wb.isEmpty && (foundStores s core me mask s.ids e.sec).isEmpty &&
    s.cores.all (fun c => c.2.sq.all (fun x => x.sec != e.sec || !x.mine me mask)) && (lateAt s me mask [e.sec]).isEmpty)

/-- An agent observes a queued store, and the rest of its unit, before others do. -/
def spread (s : State) (core : Nat) (e0 : StoreEntry) (me : AgentRef) : State :=
  s.mapCore core (fun c => { c with sq := c.sq.map (fun e => if (unitOf c.sq e0).any (fun x => x.id == e.id) then { e with seen := me :: e.seen } else e) })

end Sys2Proof.Machine
end

