-- ==== Sys2Proof/Machine/Sync.lean ====
section
/-! DEFINITION. What the Chain notes and writes (spec/15_observation.md R393 to R396), barriers (spec/11_divergence.md R312
to R315), transaction barriers (spec/08_memory_instructions.md R239, R240) and the tile table (R241 to R243). -/

namespace Sys2Proof.Machine

open Sys2Proof

/-! ### The Chain (R393 to R395) -/

/-- The id, pointer and core of a group or ejected lane. -/
def whoOf (s : State) (ag : AgentRef) : Nat × Ptr :=
  match tget s.blocks ag.blk with
  | none => (0, Ptr.none)
  | some b =>
    match tget b.groups ag.grp with
    | none => (0, Ptr.none)
    | some g =>
      match ag.lane.bind (fun l => g.threads.find? (fun t => t.lane == l)) with
      | some t => (agentId s b.core (272 + t.num), t.chain)
      | none => (agentId s b.core g.slot, g.chain)

/-- The note that an agent leaves now. -/
def noteOf (s : State) (ag : AgentRef) : Note := ((whoOf s ag).1, (whoOf s ag).2, s.now)

/-- The Chain buffer of a context: its address and size, when recording is enabled (R395). -/
def chainBuffer (s : State) (ctx : Nat) : Option (Word × Nat) :=
  match tget s.ctxs ctx with
  | none => none
  | some c =>
    if c.chain = 0 then none
    else match ctxWord s ctx c.chain with
      | none => none
      | some w =>
        let size := w.toNat % 2 ^ 40
        if w.getLsbD 63 && size % 65536 == 0 && decide (131072 ≤ size) then some (c.chain, size) else none

/-- The Chain's state of a context. -/
def chainOf (s : State) (ctx : Nat) : Chain := (tget s.chains ctx).getD { step := none, walk := none, stalled := [], laps := [] }

/-- Replaces it. -/
def setChainOf (s : State) (ctx : Nat) (c : Chain) : State := { s with chains := tset s.chains ctx c }

/-- Sets the record pointer of a waiter. -/
def setChain (s : State) (ag : AgentRef) (p : Ptr) : State :=
  s.mapGroup ag.blk ag.grp (fun g =>
    match ag.lane with
    | none => { g with chain := p }
    | some l => { g with threads := g.threads.map (fun t => if t.lane = l then { t with chain := p } else t) })

/-- The edge record that ends a wait (R393, R394). `note` none names the waiter itself, with its wait start as arrival. -/
def chainEdge (s : State) (ctx : Nat) (ag : AgentRef) (note : Option Note) (start kind num : Nat) (nowait : Bool) : State :=
  match chainBuffer s ctx with
  | none => s
  | some (base, size) =>
    match ctxWord s ctx (base + 8) with
    | none => s
    | some tail =>
      let cap := (size / 2 - 0x40) / 32
      let lap := tail.toNat / cap
      let at_ := base + 0x40 + BitVec.ofNat 64 (32 * (tail.toNat % cap))
      let who := (whoOf s ag).1
      let n : Note := note.getD (who, Ptr.none, start)
      let remote : Bool := n.1 / 2 ^ 22 != s.mgmt.device
      let rec_ := toBytes 4 who ++ toBytes 4 n.1 ++ toBytes 8 n.2.1.va.toNat ++ toBytes 4 start ++ toBytes 4 n.2.2 ++ toBytes 4 s.now ++
        toBytes 1 kind ++ toBytes 1 ((if remote then 1 else 0) + (if nowait then 2 else 0)) ++ toBytes 2 num
      match ctxPut s ctx at_ rec_ with
      | none => s
      | some s1 =>
        let s2 := (ctxPutWord s1 ctx (base + 8) (tail + 1)).getD s1
        let c := chainOf s2 ctx
        setChain (setChainOf s2 ctx { c with laps := tset c.laps (tail.toNat % cap) (lap, n.2.1.lap) }) ag { va := at_, lap := lap }

/-! ### Barriers (R312 to R315) -/

/-- A barrier of a block, or of its cluster. -/
structure BarRef where
  cl : Bool
  n  : Nat
deriving DecidableEq, Repr

/-- Key of a barrier in a group's arrival records. -/
def BarRef.key (r : BarRef) : Nat := if r.cl then 16 + r.n else r.n

/-- Key of a cluster barrier in its grid. -/
def clusterKey (s : State) (b n : Nat) : Nat :=
  match tget s.blocks b with
  | none => n
  | some bl => bl.index / max 1 ((tget s.grids bl.grid).map (fun g => g.pkt.cluster) |>.getD 1) * 4 + n

/-- The barrier that a group of block `b` names. -/
def getBar (s : State) (b : Nat) (r : BarRef) : Barrier :=
  match tget s.blocks b with
  | none => Barrier.fresh
  | some bl =>
    if r.cl then ((tget s.grids bl.grid).bind (fun g => tget g.bars (clusterKey s b r.n))).getD Barrier.fresh
    else (tget bl.bars r.n).getD Barrier.fresh

/-- Replaces a barrier. -/
def setBar (s : State) (b : Nat) (r : BarRef) (x : Barrier) : State :=
  match tget s.blocks b with
  | none => s
  | some bl =>
    if r.cl then
      match tget s.grids bl.grid with
      | none => s
      | some g => { s with grids := tset s.grids bl.grid { g with bars := tset g.bars (clusterKey s b r.n) x } }
    else s.setBlock b { bl with bars := tset bl.bars r.n x }

/-- The blocks that share a barrier with block `b`: itself, or its cluster. -/
def barBlocks (s : State) (b : Nat) (cl : Bool) : List Nat :=
  match tget s.blocks b with
  | none => []
  | some bl =>
    if !cl then [b]
    else
      let c := max 1 ((tget s.grids bl.grid).map (fun g => g.pkt.cluster) |>.getD 1)
      (s.blocks.filter (fun e => e.2.grid == bl.grid && e.2.index / c == bl.index / c)).map Prod.fst

/-- Groups that have not executed EXIT, in these blocks (R313). -/
def liveGroups (s : State) (bs : List Nat) : Nat :=
  (bs.map (fun b => match tget s.blocks b with | none => 0 | some bl => ((tvals bl.groups).filter (fun g => !g.exited)).length)).sum

/-- The arrival record of a group. -/
def arrOf (s : State) (b g : Nat) (r : BarRef) : Option ArrRec := (s.group? b g).bind (fun x => tget x.arr r.key)

/-- Marks every pending record of a barrier completed by its latest arrival (R313, R331). -/
def completeRecs (s : State) (b : Nat) (r : BarRef) (last : Option Note) : State :=
  (barBlocks s b r.cl).foldl (fun s b => s.mapBlock b (fun bl =>
    { bl with groups := tmap (fun g => match tget g.arr r.key with
        | some a => if a.done then g else { g with arr := tset g.arr r.key { a with done := true, last := last } }
        | none => g) bl.groups })) s

/-- Completes the phase of a barrier whose pending count is 0 (R313). -/
def barCheck (s : State) (b : Nat) (r : BarRef) : State :=
  let x := getBar s b r
  if x.set && x.pending == 0 then
    setBar (completeRecs s b r x.last) b r { x with phase := (x.phase + 1) % 4, set := false, fixed := false, expected := 0 }
  else s

/-- An arrival of a group takes its place (R313). `count` is K(B) under CNT = 1. -/
def arrive (s : State) (b g : Nat) (r : BarRef) (cnt : Bool) (count : Nat) : State :=
  let x := getBar s b r
  let c := if cnt then count else liveGroups s (barBlocks s b r.cl)
  let x1 := if x.set then x else { x with expected := c, pending := c, set := true, fixed := !cnt }
  let note := noteOf s { blk := b, grp := g, lane := none }
  let s1 := setBar s b r { x1 with pending := x1.pending - 1, last := some note }
  let s2 := s1.mapGroup b g (fun y => { y with arr := tset y.arr r.key { phase := x1.phase, done := false, last := none } })
  barCheck s2 b r

/-- EXIT of a group lowers each count that was fixed under CNT = 0 and at which it has not arrived (R315). -/
def exitBarriers (s : State) (b g : Nat) : State :=
  let refs : List BarRef := (List.range 16).map (fun n => ⟨false, n⟩) ++ (List.range 4).map (fun n => ⟨true, n⟩)
  refs.foldl (fun s r =>
    let x := getBar s b r
    let here : Bool := match arrOf s b g r with | some a => !a.done | none => false
    if x.set && x.fixed && !here && decide (0 < x.pending) then barCheck (setBar s b r { x with pending := x.pending - 1 }) b r else s) s

/-! ### Transaction barriers (R239, R240) and tiles (R243) -/

/-- A transaction barrier's fields. -/
structure Tb where
  phase : Nat
  pend  : Nat
  exp   : Nat
  sect  : Nat
  last  : Nat
  vt    : Nat
deriving DecidableEq, Repr

/-- The fields of the 128-bit object. -/
def tbOf (x : Nat) : Tb :=
  { phase := bitsOf x 3 0, pend := bitsOf x 19 4, exp := bitsOf x 35 20, sect := bitsOf x 67 36, last := bitsOf x 95 68, vt := bitsOf x 127 96 }

/-- The 128-bit object. -/
def Tb.bits (t : Tb) : Nat :=
  t.phase % 16 + t.pend % 2 ^ 16 * 2 ^ 4 + t.exp % 2 ^ 16 * 2 ^ 20 + t.sect % 2 ^ 32 * 2 ^ 36 + t.last % 2 ^ 28 * 2 ^ 68 + t.vt % 2 ^ 32 * 2 ^ 96

/-- The value of LAST that marks a failure. -/
def tbMarker : Nat := 2 ^ 28 - 1

/-- The transaction barrier at an L-space offset of a block. -/
def getTb (s : State) (b off : Nat) : Tb :=
  match tget s.blocks b with
  | none => tbOf 0
  | some bl => tbOf (getNum bl.loc off 16)

/-- Writes a transaction barrier. -/
def putTb (s : State) (b off : Nat) (t : Tb) : State := s.mapBlock b (fun bl => { bl with loc := putNum bl.loc off 16 t.bits })

/-- Applies a function to a core's tile-table entries that satisfy a test. -/
def mapTiles (s : State) (core : Nat) (p : Tile → Bool) (f : Tile → Tile) : State :=
  s.mapCore core (fun c => { c with tiles := tmap (fun t => if p t then f t else t) c.tiles })

/-- A phase completion makes READY the FILLING tiles bound to the barrier (R243). -/
def tilesReady (s : State) (b off : Nat) : State :=
  match tget s.blocks b with
  | none => s
  | some bl =>
    let s1 := mapTiles s bl.core (fun t => t.blk == some b && t.tb == off && t.st == .filling) (fun t => { t with st := .ready })
    s1.mapBlock b (fun bl => { bl with tiles := tmap (fun t => if t.tb = off && t.st = .filling then { t with st := .ready } else t) bl.tiles })

/-- Is phase p reached (R334)? -/
def Tb.reached (t : Tb) (p : Nat) : Bool := decide ((t.phase + 16 - p % 16) % 16 < 8)

/-- The TBWAITs of a block that wait at a transaction barrier test its phase after an update (R334). -/
def tbRetest (s : State) (b off : Nat) : State :=
  let t := getTb s b off
  let met := fun (g : Group) =>
    !g.halted && (match g.run, g.want with | .waiting .tb _, [o, p] => o == off && t.reached p | _, _ => false) && !g.tbQ.any (fun d => d.off == off)
  s.mapBlock b (fun bl => if (tvals bl.groups).any met then { bl with groups := tmap (fun g => if met g then { g with tbMet := true } else g) bl.groups } else bl)

/-- The times that waiters at a transaction barrier acquire: that of its latest arrival, and of the latest subtraction by a command of each domain
(R175, R184). -/
def tbTimes (s : State) (b off : Nat) : List Nat := ((tget s.blocks b).bind (fun bl => tget bl.tbTime off)).getD [0, 0, 0, 0, 0, 0]

/-- Notes the time of an arrival, or of a subtraction by a command of a domain. -/
def tbStamp (s : State) (b off : Nat) (d : Option Dom) : State :=
  let l := (tbTimes s b off).set (match d with | none => 0 | some d => domIdx d + 1) s.now
  s.mapBlock b (fun bl => { bl with tbTime := tset bl.tbTime off l })

/-- What a TBWAIT or TBTEST that observes a phase acquires (R175, R184): in all five domains towards the arrivals, in each transfer's domain
towards its completion. -/
def tbAcquire (s : State) (core b off : Nat) : State :=
  let l := tbTimes s b off
  allDoms.foldl (fun s d => s.raise core d (max (l.getD 0 0) (l.getD (domIdx d + 1) 0))) s

/-- One indivisible update of a transaction barrier (R240): the change, the updater unless the marker is set, and the flip
when PEND and SECT are zero, which is a release of the block (R184, R175). -/
def tbUpdate (s : State) (b off : Nat) (who : Note) (f : Tb → Tb) : State :=
  let t := f (getTb s b off)
  let t1 := if t.last = tbMarker then t else { t with last := who.1 % 2 ^ 28, vt := s.now % 2 ^ 32 }
  let flip : Bool := t1.pend == 0 && t1.sect == 0
  let t2 := if flip then { t1 with phase := (t1.phase + 1) % 16, pend := t1.exp } else t1
  let s1 := (putTb s b off t2).mapBlock b (fun bl => { bl with tbNote := tset bl.tbNote off who })
  tbRetest (if flip then tilesReady s1 b off else s1) b off

/-- An arrival of `n` (R240). -/
def tbArrive (n : Nat) (t : Tb) : Tb := { t with pend := t.pend - n }

/-- An addition of expected sectors (R240). -/
def tbExpect (e : Nat) (t : Tb) : Tb := { t with sect := (t.sect + e) % 2 ^ 32 }

/-- Sectors subtracted (R240). -/
def tbSubtract (n : Nat) (t : Tb) : Tb := { t with sect := (t.sect + 2 ^ 32 - n % 2 ^ 32) % 2 ^ 32 }

/-- The failure marker of a command (R238, R240): the first failure stands. -/
def tbFail (status ecsn : Nat) (t : Tb) : Tb :=
  if t.last = tbMarker then t else { t with last := tbMarker, vt := status % 256 * 2 ^ 24 + ecsn % 2 ^ 24 }

/-- An update of a transaction barrier by a group (R332, R333). TBINIT writes the reset values of R239. -/
def tbApply (s : State) (b off : Nat) (who : Note) (op : TbOp) : State :=
  match op with
  | .init n =>
    tbRetest ((putTb s b off { phase := 0, pend := n, exp := n, sect := 0, last := 0, vt := 0 }).mapBlock b
      (fun bl => { bl with tbNote := terase bl.tbNote off })) b off
  | .arrive n => tbUpdate (tbStamp s b off none) b off who (tbArrive n)
  | .expect n => tbUpdate s b off who (tbExpect n)

/-- The tile-table entry of a core; an entry that nothing has written is untagged and EMPTY (R241). -/
def tileOf (s : State) (core i : Nat) : Tile := (tget (s.core core).tiles i).getD Tile.fresh

/-- Replaces a tile-table entry. -/
def setTile (s : State) (core i : Nat) (t : Tile) : State := s.mapCore core (fun c => { c with tiles := tset c.tiles i t })

/-- Does a tile belong to another block (R241)? -/
def Tile.foreign (t : Tile) (b : Nat) : Bool := match t.blk with | none => false | some x => x != b

end Sys2Proof.Machine
end

