-- ==== Sys2Proof/Machine/Grid.lean ====
section
/-! DEFINITION. The end of blocks and grids (spec/10_scheduling.md R279, R283 to R285, R290; 13_isolation.md R344) and the
host's message-signalled interrupts (R352). -/

namespace Sys2Proof.Machine

open Sys2Proof

/-- The bytes of a block that a granule kind holds; `fol` selects the follower's allocation (R139). -/
def blockBytes (bl : Block) (k : Store) (fol : Bool) : Sparse 8 :=
  match k with
  | .reg => []
  | .loc => bl.loc
  | .wbuf => if fol then bl.fw else bl.wbuf
  | .abuf => bl.abuf
  | .zbuf => if fol then bl.fz else bl.zbuf

/-- The 64 KiB of granule `i` of an allocation, from offset 0. -/
def granuleSlice (m : Sparse 8) (i : Nat) : Sparse 8 :=
  (m.filter (fun e => e.1 / Config.granule == i)).map (fun e => (e.1 % Config.granule, e.2))

/-- A granule of block `b` goes FREE with what the block left in it (R290). -/
def Granule.release (b : Nat) (bl : Block) (x : Granule) : Granule :=
  let g := if (x.claim.map (fun c => c.1)) = some b then { x with claim := none } else x
  if g.owner = some b then
    { g with st := .free, owner := none, last := some bl.ctx, data := granuleSlice (blockBytes bl g.kind g.fol) g.order }
  else g

/-- The granules of a block go back FREE, last owned by its context (R290). -/
def freeGranules (s : State) (b : Nat) (bl : Block) : State :=
  { s with cores := tmap (fun (c : Core) => { c with gran := tmap (Granule.release b bl) c.gran }) s.cores }

/-- Frees the group slots that a block holds on its core. -/
def freeSlots (s : State) (b : Nat) (bl : Block) : State :=
  s.mapCore bl.core (fun c => { c with used := c.used.filter (fun e => e.2.1 != b) })

/-- Drops the engine commands, tile entries, remote requests and unperformed loads of a block; every store that it has queued is performed first, one to
host memory when the link takes it (R328, R344, R421). -/
def dropEngines (s : State) (b : Nat) (bl : Block) : State :=
  let ids := ((s.core bl.core).sq.filter (fun e => e.ag.blk == b)).map (fun e => e.id)
  let s0 := { s with fab := { s.fab with recs := s.fab.recs.filter (fun r => r.ag.blk != b) }, late := s.late.filter (fun x => x.ag.blk != b) }
  (performAll s0 ids).mapCore bl.core (fun c =>
    { c with tiles := c.tiles.filter (fun e => e.2.blk != some b), btl := c.btl.filter (fun x => x.blk != b),
             bts := c.bts.filter (fun x => x.blk != b), mtx := c.mtx.filter (fun x => x.blk != b) })

/-- A block leaves the device: its groups, slots, tiles, commands, waiting service entries and granules are freed (R241, R290). -/
def endBlock (s : State) (b : Nat) : State :=
  match tget s.blocks b with
  | none => s
  | some bl =>
    let s1 := sivReleaseAll (dropEngines s b bl) bl.core .sys
    let s2 := freeGranules (freeSlots s1 b bl) b bl
    { s2 with blocks := terase s2.blocks b, svcq := s2.svcq.filter (fun x => x.blk != b) }

/-- An MSI-X table entry (R418). One that nothing has written is masked, as PCI Express resets it (PRESUMED, log 46). -/
def HostLink.entry (h : HostLink) (x : Nat × Nat) : MsixEntry := (tget h.msixTab (64 * x.1 + x.2)).getD { addr := 0, data := 0, ctl := 1 }

/-- Is a vector masked? Its message then waits as a pending bit. -/
def HostLink.masked (h : HostLink) (x : Nat × Nat) : Bool := (h.entry x).ctl.getLsbD 0

/-- Sends an MSI-X vector of a tenant, or of the physical function, number 16 (R352). -/
def sendMsix (s : State) (tenant : Option Nat) (vector : Nat) : State :=
  let x := (tenant.getD 16, vector)
  if s.host.masked x then { s with host := { s.host with msixPend := if s.host.msixPend.contains x then s.host.msixPend else s.host.msixPend ++ [x] } }
  else { s with host := { s.host with msix := s.host.msix ++ [x] } }

/-- A write of the host (264) or of the scheduler (265) is noted at its sectors for the Chain (R385, R393). -/
def noteWrite (s : State) (agent pa n : Nat) : State :=
  { s with notes := (piecesOf pa n 0 (n / 32 + 2)).foldl (fun t p => tset t p.sec ((agentId s 0 agent, Ptr.none, s.now), (sget s.stamps p.sec).toNat)) s.notes }

/-- Writes a completion record (R278, R285): VTIME[55:0] and the status, after the write-backs of a sys-scope release. A
record address that cannot be written is reported through the queue's ERR. -/
def writeDone (s : State) (ctx queue : Nat) (done : Word) (status : Nat) : State :=
  if done = 0 then s
  else
    match ctxPutWord s ctx done (BitVec.ofNat 64 (s.now % 2 ^ 56 * 256 + status)) with
    | some s1 => ((ctxSpans s ctx done 8 true).getD []).foldl (fun s sp => noteWrite s 265 sp.pa sp.len) s1
    | none => match tget s.queues queue with
      | none => s
      | some q => { s with queues := tset s.queues queue { q with err := 1 } }

/-- Write-backs of a release at sys scope by every core that the device has used (R186, R285). -/
def releaseCores (s : State) : State := (s.cores.map Prod.fst).foldl (fun s c => sivReleaseAll s c .sys) s

/-- A grid completes (R285): the release, the record, and the trigger if it has not come (R284). -/
def gridEnd (s : State) (gi status : Nat) : State :=
  match tget s.grids gi with
  | none => s
  | some g =>
    if g.done then s
    else
      let s1 := releaseCores s
      let s2 := { s1 with grids := tset s1.grids gi { g with done := true, trigged := true, status := status } }
      writeDone s2 g.ctx g.queue g.pkt.done status

/-- Number of blocks of a grid. -/
def Packet.blocks (p : Packet) : Nat := p.gx * p.gy * p.gz

/-- Has every block of the grid been placed and retired? -/
def gridFinished (s : State) (gi : Nat) (g : Grid) : Bool :=
  decide (g.pkt.blocks ≤ g.next) && !(s.blocks.any (fun e => e.2.grid == gi))

/-- Ends a grid with a status (R279, R344): its blocks stop, nothing is saved. -/
def abortGrid (s : State) (gi status : Nat) : State :=
  match tget s.grids gi with
  | none => s
  | some g =>
    if g.done then s
    else
      let s1 := ((s.blocks.filter (fun e => e.2.grid == gi)).map Prod.fst).foldl endBlock s
      gridEnd { s1 with grids := tset s1.grids gi { g with next := g.pkt.blocks } } gi status

/-- A block of which every group has retired retires; the last one completes its grid (R285). The Chain notes it under
the group whose EXIT retired it (R393). -/
def retireBlock (s : State) (b : Nat) (note : Note) : State :=
  match tget s.blocks b with
  | none => s
  | some bl =>
    let s1 := endBlock s b
    match tget s1.grids bl.grid with
    | none => s1
    | some g =>
      let s2 := { s1 with grids := tset s1.grids bl.grid { g with note := some note } }
      if gridFinished s2 bl.grid g then gridEnd s2 bl.grid 0 else s2

end Sys2Proof.Machine
end

