-- ==== Sys2Proof/Machine/Flags.lean ====
section
/-! DEFINITION. The floating-point flags register FPF (spec/01_machine.md R23) and the INFO word of a trap record
(spec/14_recovery.md R366). The flag rules of rounding stand in Formats. -/

namespace Sys2Proof.Machine

open Sys2Proof

/-- FPF after an instruction that raises flags: they stay set (R23). -/
def fpfRaise (old fl : Flags) : Flags := old ||| fl

/-- FPF after SYSWR: each bit that is written 1 is cleared (R23, R358). -/
def fpfClear (old : Flags) (x : Word) : Flags := old &&& ~~~ (x.setWidth 5)

/-- FPF as a system register: bits [63:5] read as zero. -/
def fpfWord (f : Flags) : Word := f.setWidth 64

/-- Flags of several elements or lanes together. -/
def flagsAll (l : List Flags) : Flags := l.foldl (· ||| ·) 0

/-- What raised a trap (R363 to R366). `next` says that RESUME is the instruction after it, `size` bytes on. -/
structure Trap where
  cause : Cause
  code  : Nat := 0
  lanes : Mask
  addr  : Word := 0
  acc   : Option (Dom × Scope) := none
  ecsn  : Word := 0
  next  : Bool := false
  size  : Nat := 8
  write : Bool := false
  resume : Option Word := none
deriving DecidableEq, Repr

/-- The INFO word (R366). -/
def infoWord (t : Trap) (nest ej async wsp : Bool) : Word :=
  let b := fun (x : Bool) (i : Nat) => if x then 2 ^ i else 0
  BitVec.ofNat 64 (causeCode t.cause + b wsp 8 + b async 9 + b ej 10 + b nest 11 +
    (match t.acc with | some (d, sc) => domIdx d * 2 ^ 12 + 2 ^ 15 + scopeIdx sc * 2 ^ 16 | none => 0) + t.code % 2 ^ 16 * 2 ^ 32)

/-- The 64 bytes of a trap record (R366). -/
def recordBytes (r : TrapRecord) : List Byte :=
  [r.info, r.lanes, r.pc, r.addr, r.iword, r.ecsn, r.resume, r.vt].flatMap (fun w => toBytes 8 w.toNat)

/-- An ECSN field that names a command (R366). -/
def ecsnWord (n : Nat) : Word := BitVec.ofNat 64 (2 ^ 63 + n % 2 ^ 48)

end Sys2Proof.Machine
end

