-- ==== Sys2Proof/Machine/Save.lean ====
section
/-! DEFINITION. The save slot of a block in memory (spec/10_scheduling.md R289, R291, R293; 14_recovery.md R366; 13_isolation.md R355). The layout beside
the trap records is private to the device: what it writes there are free bytes (log 12). -/

namespace Sys2Proof.Machine

open Sys2Proof

/-- Free bytes: what a read of a save slot gives where its layout is private to the device (R289, log 12). -/
def freeBytes (base n : Nat) : List Byte := (List.range n).map (fun i => (Config.freeWord (base + i)).setWidth 8)

/-- The sectors of a slot after the device has written bytes there. -/
def imagePut (m : Table (BitVec 256)) (pa : Nat) (bs : List Byte) : Table (BitVec 256) :=
  (piecesOf pa bs.length 0 (bs.length / 32 + 2)).foldl (fun m p =>
    tset m p.sec (overlay ((tget m p.sec).getD 0) (placeBytes p.off ((bs.drop p.at_).take p.len)) (spanMask p.off p.len))) m

/-- The device writes bytes of a block's save slot and keeps what it has written; nothing goes into another context's protected window (R355). -/
def slotPut (s : State) (b pa : Nat) (bs : List Byte) : State :=
  match tget s.blocks b with
  | none => s
  | some bl => (physPutFor s bl.ctx pa bs).setBlock b { bl with image := imagePut bl.image pa bs }

/-- The device writes part of a save slot in its own layout. -/
def fillSlot (s : State) (b pa n : Nat) : State := slotPut { s with free := s.free + n } b pa (freeBytes s.free n)

/-- The address of a group's record in the save slot of its block (R289). -/
def recordPlace (base g : Nat) : Nat := base + 2048 * g

/-- Writes a trap record into the group's record in the save slot (R366). -/
def saveRecord (s : State) (b g : Nat) (nest : Bool) (r : TrapRecord) : State :=
  match (tget s.blocks b).bind (fun bl => bl.save) with
  | none => s
  | some base => slotPut s b (recordPlace base g + (if nest then 64 else 0)) (recordBytes r)

/-- Writes a group's record, beside the trap records that stand in it (R291, R293). -/
def fillRecord (s : State) (b g : Nat) : State :=
  match (tget s.blocks b).bind (fun bl => bl.save) with
  | none => s
  | some base => fillSlot s b (recordPlace base g + 128) (2048 - 128)

/-- Is a sector one of a group's record? -/
def inRecord (base g sec : Nat) : Bool := decide (recordPlace base g / 32 ≤ sec) && decide (sec < recordPlace base g / 32 + 64)

/-- A group has been reloaded: its record holds nothing more. -/
def Block.loadedGroup (bl : Block) (g : Nat) : Block :=
  match bl.save with
  | none => bl
  | some base => { bl with image := bl.image.filter (fun e => !inRecord base g e.1) }

/-- The value of a sector as the device reads it for a context: zero in another context's protected window (R355). -/
def sectorFor (s : State) (ctx sec : Nat) : BitVec 256 := if protectedFrom s ctx (32 * sec) 32 then 0 else cohSector s sec

/-- Has another agent altered a sector of these that the device has written? -/
def slotAltered (s : State) (bl : Block) (some_ : Nat → Bool) : Bool := bl.image.any (fun e => some_ e.1 && e.2 != sectorFor s bl.ctx e.1)

/-- A byte that an item of an altered slot takes: a free choice among the `n` bytes of the slot and zero (R10, R289). -/
def slotByte (s : State) (ctx base n i : Nat) : Byte :=
  let j := (Config.freeWord i).toNat % (n + 1)
  if j = n then 0 else sectorByte (sectorFor s ctx ((base + j) / 32)) ((base + j) % 32)

/-- A word of such bytes, the `i`-th of those under names from `free` on. -/
def slotWord (s : State) (ctx base n free i : Nat) : Word :=
  BitVec.ofNat 64 (fromBytes ((List.range 8).map (fun k => slotByte s ctx base n (free + 8 * i + k))))

end Sys2Proof.Machine
end

