-- ==== Sys2Proof/Machine/Ops.lean ====
section
/-! DEFINITION. The operations that every instruction shares: the executing agent, its registers, the end of an
instruction (spec/02_encoding.md R34 to R39), waiting, and taking a trap (spec/14_recovery.md R363 to R376). -/

namespace Sys2Proof.Machine

open Sys2Proof

/-! ### The executing agent -/

/-- The group or ejected lane that executes, with the records it lies in. -/
structure View where
  ag   : AgentRef
  bl   : Block
  g    : Group
  th   : Option Thread
  r    : Regs
  mask : Mask
  pkt  : Packet
deriving DecidableEq, Repr

/-- A packet with nothing in it. -/
def Packet.blank : Packet :=
  { entry := 0, gx := 1, gy := 1, gz := 1, regs := 16, kregs := 0, groups := 1, cluster := 1, producer := 0, prio := 0, nbv := 2,
    ejt := 0, flags := 0, loc := 0, wbuf := 0, abuf := 0, zbuf := 0, trigcnt := 0, done := 0, deps := [0, 0, 0, 0], live := 0,
    liven := 0, params := [] }

/-- PAIR, REPL, CRES and MIRROR of FLAGS (R277). -/
def Packet.pair (p : Packet) : Bool := p.flags.getLsbD 0
/-- REPL. -/
def Packet.repl (p : Packet) : Bool := p.flags.getLsbD 1
/-- CRES. -/
def Packet.cres (p : Packet) : Bool := p.flags.getLsbD 2
/-- MIRROR. -/
def Packet.mirror (p : Packet) : Bool := p.flags.getLsbD 3

/-- The packet of a block's grid. -/
def packetOf (s : State) (bl : Block) : Packet := ((tget s.grids bl.grid).map (fun g => g.pkt)).getD Packet.blank

/-- The thread of an ejected lane. -/
def Group.thread? (g : Group) (l : Nat) : Option Thread := g.threads.find? (fun t => t.lane == l)

/-- The view of an agent. -/
def viewOf (s : State) (ag : AgentRef) : Option View :=
  match tget s.blocks ag.blk with
  | none => none
  | some bl =>
    match tget bl.groups ag.grp with
    | none => none
    | some g =>
      match ag.lane with
      | none => some { ag := ag, bl := bl, g := g, th := none, r := g.r, mask := g.r.mask, pkt := packetOf s bl }
      | some l =>
        match g.thread? l with
        | none => none
        | some t => some { ag := ag, bl := bl, g := g, th := some t, r := t.r, mask := laneBit l, pkt := packetOf s bl }

/-- The agent that executes. -/
def view? (s : State) : Option View := s.cur.bind (viewOf s)

/-- The context and the core of the executing agent. -/
def View.ctx (v : View) : Nat := v.bl.ctx
/-- Its core. -/
def View.core (v : View) : Nat := v.bl.core
/-- Is it an ejected lane? -/
def View.ej (v : View) : Bool := v.th.isSome
/-- The memory agent of one of its lanes. -/
def View.lane (v : View) (l : Nat) : AgentRef := { v.ag with lane := some l }
/-- The group as a memory agent. -/
def View.whole (v : View) : AgentRef := { v.ag with lane := none }

/-- Runs a meaning for the executing agent; there is none outside an issue. -/
def withView (s : State) (f : View → State) : Host.Outcome State Fault Refusal :=
  match view? s with
  | none => .fault .noAgent
  | some v => .next (f v)

/-! ### Registers and windows (R38, R39) -/

/-- An instruction's writes overtake those of earlier open windows (R39): the earlier window's write to the same register is dropped when the later
instruction issues, so that until the later window ends the register keeps what it held before both. R39 fixes the final value only
(DESIGN CHOICE, log 43). -/
def cancelWrites (ps : List Pend) (ws : List RegWrite) : List Pend :=
  ps.map (fun p => { p with writes := p.writes.filter (fun w => !ws.any (fun x => x.same w)) })

/-- Replaces a thread of a group. -/
def Group.setThread (g : Group) (t : Thread) : Group := { g with threads := g.threads.map (fun x => if x.lane = t.lane then t else x) }

/-- Applies a function to the registers of an agent. -/
def State.mapRegs (s : State) (ag : AgentRef) (f : Regs → Regs) : State :=
  s.mapGroup ag.blk ag.grp (fun g =>
    match ag.lane with
    | none => { g with r := f g.r }
    | some l => { g with threads := g.threads.map (fun t => if t.lane = l then { t with r := f t.r } else t) })

/-- Sets the issue state of an agent. -/
def State.setRun (s : State) (ag : AgentRef) (k : RunState) : State :=
  s.mapGroup ag.blk ag.grp (fun g =>
    match ag.lane with
    | none => { g with run := k }
    | some l => { g with threads := g.threads.map (fun t => if t.lane = l then { t with run := k } else t) })

/-- The issue state of the executing agent. -/
def View.run (v : View) : RunState := match v.th with | some t => t.run | none => v.g.run

/-- Lane registers that a list of writes names. -/
def laneRegs (ws : List RegWrite) : List Nat := ws.filterMap (fun w => match w with | .v _ n _ => some n | _ => none)

/-- The lane registers of a thread that hold a slot after these writes (R302). -/
def Thread.slotsAfter (t : Thread) (ws : List RegWrite) : List Nat := (laneRegs ws).foldl (fun l n => if l.contains n then l else l ++ [n]) t.slots

/-- Must the lane be recalled before these writes, for want of a slot (R302, R306)? -/
def View.noSlot (v : View) (ws : List RegWrite) : Bool :=
  match v.th with
  | none => false
  | some t => decide (Config.threadRegs < (t.slotsAfter ws).length) && decide (t.slots.length < (t.slotsAfter ws).length)

/-- Starts the recall of an ejected lane at its instruction boundary (R306, R307). -/
def startRecall (s : State) (ag : AgentRef) : State := s.setRun ag .recalling

/-! ### The end of an instruction -/

/-- Windows after one more instruction of the group has issued (R38). -/
def tickPend (ps : List Pend) : List Pend := ps.map (fun p => { p with left := p.left - 1 })

/-- Registers after an instruction: its writes, flags, PC and windows. `win` is the window that it opens. -/
def Regs.after (r : Regs) (pc : Word) (ws : List RegWrite) (fl : Flags) (win : List Pend) : Regs :=
  let r1 := { r with pend := cancelWrites (tickPend r.pend) (ws ++ win.flatMap (fun (p : Pend) => p.writes)) ++ win }
  { (r1.writes ws) with pc := pc, fpf := fpfRaise r.fpf fl }

/-- Is the instruction at a PC of the group's path the instance that its spent bit names (R376)? The bit is for one watchpoint or breakpoint at one
instruction of one path, inside or outside a handler. -/
def Group.atInstance (g : Group) (pc : Word) : Bool :=
  match g.spent with
  | some x => x.pc == pc && x.nest == g.handler.isSome && g.r.mask &&& ~~~ x.mask == 0
  | none => false

/-- The spent bit after the instruction at a PC has completed (R376): cleared when that was the instance. -/
def Group.spentAfter (g : Group) (pc : Word) : Option Spent := if g.atInstance pc then none else g.spent

/-- The group's own counts after an instruction: fairness, spent bit, wait (R310, R317, R376). -/
def Group.retired (g : Group) (pc : Word) : Group :=
  { g with fair := g.fair + 1, defer := if Config.fairness ≤ g.fair then g.defer + 1 else 0, hang := 0, run := .ready, waitAt := none, wake := none,
           want := [], tbMet := false, barsAt := g.barsAt.filter (fun e => e.2.2 != g.r.mask),
           spent := g.spentAfter pc }

/-- Ends an instruction of the executing agent at `pc` with its register writes and flags. An ejected lane that lacks a
slot for a write is recalled instead (R302). -/
def finishAt (s : State) (v : View) (pc : Word) (ws : List RegWrite) (fl : Flags) (win : List Pend) : State :=
  let all := ws ++ win.flatMap (fun p => p.writes)
  if v.noSlot all then startRecall s v.ag
  else
    match v.ag.lane with
    | none => s.mapGroup v.ag.blk v.ag.grp (fun g => { (g.retired v.r.pc) with r := g.r.after pc ws fl win })
    | some l => s.mapGroup v.ag.blk v.ag.grp (fun g =>
        { g with threads := g.threads.map (fun t =>
            if t.lane = l then { t with r := t.r.after pc ws fl win, run := .ready, hang := 0, slots := t.slotsAfter all } else t) })

/-- Ends an instruction whose results are written at once; the PC moves past its words (R34). -/
def finish (s : State) (v : View) (size : Nat) (ws : List RegWrite) (fl : Flags) : State :=
  finishAt s v (v.r.pc + BitVec.ofNat 64 size) ws fl []

/-- Ends a long-latency instruction that awaits answers: its results are written when its window of `la` instructions has ended and they are there
(R38). -/
def finishWindow (s : State) (v : View) (h : Hdr) (ws : List RegWrite) (fl : Flags) (await : List Nat) : State :=
  finishAt s v (v.r.pc + 8) [] fl
    [{ left := h.la.toNat, pc := v.r.pc, iword := s.word, ecsn := 0, writes := ws, await := await, fails := [], acq := none }]

/-- Ends a long-latency instruction whose results are there. -/
def finishLong (s : State) (v : View) (h : Hdr) (ws : List RegWrite) (fl : Flags) : State := finishWindow s v h ws fl []

/-- Advances the PC and changes nothing else (R36). -/
def skip (s : State) (v : View) (size : Nat) : State := finish s v size [] 0

/-- The instruction does not complete: the agent waits at it (R317, R321). The count of the wait belongs to its PC; `want` is what it waits for. -/
def stallOn (s : State) (v : View) (k : WaitKind) (want : List Nat) : State :=
  let since := match v.run with | .waiting _ t => t | _ => s.now
  match v.ag.lane with
  | some _ => s.setRun v.ag (.waiting k since)
  | none => s.mapGroup v.ag.blk v.ag.grp (fun g =>
      { g with run := .waiting k since, hang := if g.waitAt = some v.r.pc then g.hang else 0, waitAt := some v.r.pc, want := want,
               tbMet := g.waitAt == some v.r.pc && g.tbMet })

/-- A wait for the remote requests that the group has open now, or for what the kind of the wait names. -/
def stall (s : State) (v : View) (k : WaitKind) : State :=
  stallOn s v k ((s.fab.recs.filter (fun r => r.ag.blk == v.ag.blk && r.ag.grp == v.ag.grp)).map (fun r => r.id))

/-- A wait for the answers that the agent's open windows await (R38, R39). -/
def stallWindows (s : State) (v : View) : State := stallOn s v .remote (v.r.pend.flatMap (fun p => p.await))

/-! ### Predicates and lanes (R36, R68) -/

/-- `active()`: the lanes of the path whose predicate passes. -/
def View.active (v : View) (h : Hdr) : List Nat :=
  if h.ps = 7 then lanesOf v.mask else (lanesOf v.mask).filter (fun l => v.r.pget l h.ps.toNat != h.pn)

/-- The predicate of a group-wide instruction. -/
def View.groupOn (v : View) (h : Hdr) : Bool := h.ps = 7 || v.r.qget h.ps.toNat != h.pn

/-- Are register fields within the launch's allocation (R35, R20)? Each is a lane register with how many it takes. -/
def View.within (v : View) (u : Bool) (regs : List (BitVec 8 × Nat)) : Bool :=
  u || regs.all (fun x => decide (x.1.toNat + x.2 ≤ v.pkt.regs))

/-! ### Population requests (R349) -/

/-- The 64 KiB page of an address. -/
def pageVa (va : Word) : Word := va &&& ~~~ 0xFFFF#64

/-- The 512 MiB page of an address. -/
def bigVa (va : Word) : Word := va &&& ~~~ 0x1FFFFFFF#64

/-- The page of an address for a context (R349): 512 MiB where a level-2 leaf maps it, 64 KiB otherwise. -/
def popPage (s : State) (ctx : Nat) (va : Word) : Word :=
  match freshWalk s ctx va with
  | some p => if p.big then bigVa va else pageVa va
  | none => pageVa va

/-- Posts a population request for a page and context, unless one is pending. A host page waits for its PRI answer (R353). -/
def postPop (s : State) (ctx : Nat) (va : Word) (kind : Nat) : State :=
  let page := popPage s ctx va
  if s.pops.any (fun p => p.ctx == ctx && p.page == page) then s
  else
    let pri : Bool := match freshWalk s ctx va with | some p => pteTier p.pte == 2 && pteRes p.pte | none => false
    let big : Bool := match freshWalk s ctx va with | some p => p.big | none => false
    { s with pops := s.pops ++ [{ ctx := ctx, page := page, big := big, kind := kind, written := none, pri := pri }] }

/-- The pages with requests that an address names (R349): its 64 KiB page, and its 512 MiB page where one was asked for. -/
def popNames (s : State) (ctx : Nat) (va : Word) : List Word :=
  pageVa va :: (s.pops.filter (fun p => p.ctx == ctx && p.big && p.page == bigVa va)).map (fun p => p.page)

/-! ### Parking and the service ring (R293, R371, R372) -/

/-- Frees the group slot of a group that parks (R293). -/
def freeGroupSlot (s : State) (b g : Nat) : State :=
  match tget s.blocks b with
  | none => s
  | some bl => match tget bl.groups g with
    | none => s
    | some _ => s.mapCore bl.core (fun c => { c with used := c.used.filter (fun e => e.2 != (b, g)) })

/-- Parks a group off-core: its record goes to the save slot of its block, and its group slot is freed (R293). -/
def parkGroup (s : State) (b g : Nat) (p : Park) : State :=
  (fillRecord (freeGroupSlot s b g) b g).mapGroup b g (fun x => { x with run := .parkedOff p })

/-- The service ring of a context: header address, HEAD, TAIL and LOG2N; none when it is absent or unusable (R371, R372). -/
def svcHeader (s : State) (ctx : Nat) : Option (Word × Nat × Nat × Nat) :=
  match tget s.ctxs ctx with
  | none => none
  | some c =>
    if c.svcring = 0 then none
    else match ctxWord s ctx c.svcring, ctxWord s ctx (c.svcring + 8), ctxWord s ctx (c.svcring + 16) with
      | some w0, some w1, some w2 => some (c.svcring, w2.toNat % 2 ^ 48, w1.toNat % 2 ^ 48, min 8 (w0.toNat % 16))
      | _, _, _ => none

/-- Is the ring full (R372)? The counts are 48 bits wide. -/
def svcFull (head tail log2n : Nat) : Bool := decide (2 ^ log2n ≤ (tail + 2 ^ 48 - head) % 2 ^ 48)

/-- Address of entry `i`. -/
def svcEntryVa (base : Word) (i log2n : Nat) : Word := base + BitVec.ofNat 64 (4096 * (1 + i % 2 ^ log2n))

/-- Does the ring's header or its next entry wait for the host link (R421)? -/
def svcWaits (s : State) (ctx : Nat) (base : Word) (tail log2n : Nat) : Bool :=
  ctxWaits s ctx base 24 || ctxWaits s ctx (svcEntryVa base tail log2n) 4096

/-- Writes one service entry and then advances TAIL (R372); none when an access fails. `args` holds the words of each lane. -/
def svcWrite (s : State) (ctx : Nat) (base : Word) (tail log2n : Nat) (kind who : Word) (lanes : Mask) (resume : Word) (r : TrapRecord)
    (args : List (Nat × List Half)) : Option State :=
  let e := svcEntryVa base tail log2n
  let head := [kind, who, lanes, resume, 0, 0, 0, 0].flatMap (fun (w : Word) => toBytes 8 w.toNat)
  match ctxPut s ctx e (head ++ recordBytes r) with
  | none => none
  | some s1 =>
    let s2 := args.foldl (fun (o : Option State) a =>
      o.bind (fun s => ctxPut s ctx (e + BitVec.ofNat 64 (0x80 + 32 * a.1)) (a.2.flatMap (fun x => toBytes 4 x.toNat)))) (some s1)
    s2.bind (fun s => ctxPutWord s ctx (base + 8) (BitVec.ofNat 64 ((tail + 1) % 2 ^ 48)))

/-- The MSI-X vector of a service entry: 0 for SVC, 2 for a trap routed to parking (R352, R371). -/
def svcVector (isSvc : Bool) : Nat := if isSvc then 0 else 2

/-- Parks a group with a service entry (R371): written at once when the ring has room and no entry waits before it, held in
the device otherwise; an absent ring aborts the grid with status 0x07. -/
def parkService (s : State) (b g : Nat) (isSvc : Bool) (d : Nat) (lanes : Mask) (kind : Word) (rec_ : TrapRecord)
    (args : List (Nat × List Half)) : State :=
  match tget s.blocks b with
  | none => s
  | some bl =>
    let who : Word := BitVec.ofNat 64 ((whoOf s { blk := b, grp := g, lane := none }).1 + bl.ctx * 2 ^ 32)
    match svcHeader s bl.ctx with
    | none => abortGrid s bl.grid 7
    | some (base, head, tail, log2n) =>
      if s.svcq.any (fun x => x.ctx == bl.ctx) || svcFull head tail log2n || svcWaits s bl.ctx base tail log2n then
        let x : SvcWait := { ctx := bl.ctx, blk := b, grp := g, parks := true, isSvc := isSvc, kind := kind, who := who, lanes := lanes, record := rec_, args := args }
        parkGroup { s with svcq := s.svcq ++ [x] } b g (.service none isSvc d lanes rec_)
      else
        match svcWrite s bl.ctx base tail log2n kind who lanes rec_.resume rec_ args with
        | none => abortGrid s bl.grid 7
        | some s1 => parkGroup (sendMsix s1 (tenantIdx s bl.ctx) (svcVector isSvc)) b g (.service (some tail) isSvc d lanes rec_)

/-! ### Taking a trap (R364 to R369, R375, R376) -/

/-- The handler that the routing table gives a cause: its PC and the address of the record (R367); none parks. -/
def trapRoute (s : State) (ctx core slot : Nat) (c : Cause) : Option (Word × Word) :=
  match tget s.ctxs ctx with
  | none => none
  | some x =>
    if x.traprt = 0 then none
    else match ctxWord s ctx x.traprt, ctxWord s ctx (x.traprt + BitVec.ofNat 64 (8 * causeCode c)) with
      | some base, some e =>
        if base = 0 || base.toNat % 64 != 0 || bitsOf e.toNat 2 1 != 0 || !e.getLsbD 0 then none
        else some (e &&& ~~~ 7#64, base + BitVec.ofNat 64 (64 * (core * 256 + slot)))
      | _, _ => none

/-- Is the context held by a debugger (R367, R386)? -/
def debugged (s : State) (ctx : Nat) : Bool := match tget s.dbg ctx with | some d => d.attached | none => false

/-- A group takes its next path from the top of a stack (R298, R299): empty entries go, an entry with lanes out parks it. -/
def nextPath (g : Group) : List StackEntry → Group
  | [] => { g with stack := [], r := { g.r with mask := 0 } }
  | e :: rest =>
    if e.ej ≠ 0 then { g with stack := e :: rest, r := { g.r with mask := 0 }, run := .parkedJoin 0, fair := 0, defer := 0 }
    else if e.mask = 0 then nextPath g rest
    else { g with stack := rest, r := { g.r with pc := e.pc, mask := e.mask, rpc := e.rpc }, run := .ready, fair := 0, defer := 0 }

/-- A group outside handlers that has no current path, but entries, parks at the top one again or takes it (R298): a trap was delivered
while it was parked off issue (R375). -/
def Group.settle (g : Group) : Group := if g.r.mask = 0 ∧ g.stack ≠ [] ∧ g.handler = none then nextPath g g.stack else g

/-- A group stops for a debugger with its ejected lanes (R308), what their closed windows hold written (R39). -/
def Group.halt (g : Group) : Group :=
  { g with r := g.r.flush, threads := g.threads.map (fun (t : Thread) => { t with r := t.r.flush }), halted := true, tbMet := false }

/-- What a stop of one group halts beside it: under ALLSTOP every group of the context (R386). -/
def stopOthers (s : State) (ctx : Nat) : State :=
  let all : Bool := match tget s.dbg ctx with | some d => d.attached && d.allstop | none => false
  if all then
    { s with blocks := s.blocks.map (fun e => (e.1, if e.2.ctx = ctx then { e.2 with groups := tmap Group.halt e.2.groups } else e.2)) }
  else s

/-- Halts a group, and under ALLSTOP every group of the context (R386). -/
def debugStop (s : State) (ctx b g : Nat) : State := stopOthers (s.mapGroup b g Group.halt) ctx

/-- The spent bit that a delivered WATCH or hardware BRKP sets (R376); the instance is the instruction of the lanes of `mask`, of a handler or not. -/
def spentOf (t : Trap) (pc : Word) (mask : Mask) (nest : Bool) (old : Option Spent) : Option Spent :=
  if t.cause = .watch then some { isBp := false, n := t.code, pc := pc, mask := mask, nest := nest }
  else if t.cause = .brkp && decide (0x100 ≤ t.code) then some { isBp := true, n := t.code - 0x100, pc := pc, mask := mask, nest := nest }
  else old

/-- A trap ends a debugger's step of kind INSN, or OVER outside a call (R389). -/
def Group.stepTrap (g : Group) : Group :=
  match g.stepping with
  | some st => if st.kind = .insn ∨ (st.kind = .over ∧ st.link = none) then { g.halt with stepping := none } else g
  | none => g

/-- A trap has been delivered to a group: a step that it ends halts it (R386, R389). -/
def afterTrap (s : State) (ctx b g : Nat) : State :=
  let s1 := s.mapGroup b g Group.stepTrap
  let ended : Bool := match s.group? b g, s1.group? b g with | some x, some y => x.stepping.isSome && y.stepping.isNone | _, _ => false
  if ended then stopOthers s1 ctx else s1

/-- Delivers a trap to a group whose windows are closed (R365 to R371): the debugger stops the group for BRKP and WATCH; NRES
parks it for a page; a nested or unrouted trap parks it through the service ring; otherwise the handler starts, with the record ordered before its
accesses (R368). `wsp` is the spent bit at the
time it was raised. -/
def deliverTrap (s : State) (b g : Nat) (t : Trap) (pc iword resume vt : Word) (ej async wsp : Bool) : State :=
  match tget s.blocks b with
  | none => s
  | some bl =>
    match tget bl.groups g with
    | none => s
    | some gr =>
      let nest := gr.handler.isSome
      let rec_ : TrapRecord := { info := infoWord t nest ej async wsp, lanes := t.lanes, pc := pc, addr := t.addr, iword := iword,
                                 ecsn := t.ecsn, resume := resume, vt := vt }
      let s1 := s.mapGroup b g (fun x =>
        { x with spent := spentOf t pc (if ej then t.lanes else x.r.mask) nest x.spent, resv := [], ahead := [], want := [], tbMet := false, hang := if t.cause = .hang then 0 else x.hang, run := .ready })
      let jump := fun (s : State) (p : Word) => s.mapRegs { blk := b, grp := g, lane := none } (fun r => { r with pc := p })
      let park := fun (s : State) =>
        parkService (saveRecord (jump s resume) b g nest rec_) b g false 0 t.lanes (BitVec.ofNat 64 2) rec_ []
      let out := if debugged s bl.ctx && (t.cause = .brkp || t.cause = .watch) then debugStop ((jump s1 resume).mapGroup b g Group.settle) bl.ctx b g
      else if t.cause = .nres then
        postPop (parkGroup (saveRecord (jump s1 resume) b g nest rec_) b g (.pages [popPage s1 bl.ctx t.addr])) bl.ctx t.addr (if t.write then 1 else 0)
      else if nest then park s1
      else
        match trapRoute s1 bl.ctx bl.core gr.slot t.cause with
        | none => park s1
        | some (hpc, va) =>
          match ctxPut s1 bl.ctx va (recordBytes rec_) with
          | none => park s1
          | some s2 =>
            (jump (acquireAll s2 bl.core) hpc).mapGroup b g (fun x =>
              { x with handler := some { pc := resume, mask := x.r.mask, rpc := x.r.rpc, depth := x.stack.length, recVa := va, hang := x.hang, waitAt := x.waitAt,
                                         wake := x.wake, bars := x.barsAt, pend := x.r.pend },
                       r := { x.r with pend := [] }, hang := 0, waitAt := none, wake := none, barsAt := [] })
      afterTrap out bl.ctx b g

/-- An instruction that completes by its trap (BRK) has issued: it counts for R310, and the spent bit of its instance is used up (R376). -/
def Group.passed (g : Group) (pc : Word) : Group := { g with fair := g.fair + 1, spent := g.spentAfter pc }

/-- TAKING A TRAP: the one operation by which an instruction of the executing agent raises a trap. An ejected lane's trap is
held and the lane stops (R375). A group first writes the destinations of its open windows (R39); while a remote answer is
outstanding it waits and meets the trap again. -/
def takeTrap (s0 : State) (v : View) (t : Trap) : State :=
  let s := { s0 with raised := some t.cause }
  let resume := t.resume.getD (if t.next then v.r.pc + BitVec.ofNat 64 t.size else v.r.pc)
  match v.ag.lane with
  | some l =>
    (s.setRun v.ag .trapHeld).mapGroup v.ag.blk v.ag.grp (fun g =>
      { g with held := g.held ++ [{ cause := t.cause, code := t.code, lane := some l, addr := t.addr, acc := t.acc, ecsn := t.ecsn, pc := v.r.pc,
                                    iword := s.word, vt := s.now, write := t.write, wsp := v.g.spent.isSome, resume := resume }] })
  | none =>
    if v.r.awaiting then stallWindows s v
    else deliverTrap ((if t.next then s.mapGroup v.ag.blk v.ag.grp (fun g => g.passed v.r.pc) else s).mapRegs v.ag Regs.flush) v.ag.blk v.ag.grp t v.r.pc s.word resume s.vtime false false v.g.spent.isSome

/-- Must an ejected lane be recalled for want of a slot before an instruction that writes `n` registers from D up (R302, R306)? -/
def View.lacks (v : View) (d : BitVec 8) (n : Nat) : Bool :=
  match v.ag.lane with | none => false | some l => v.noSlot ((List.range n).map (fun i => .v l (d.toNat + i) 0))

/-- The lanes that a trap of the whole instruction names: the active lanes, or the path in the group-wide form (R364). -/
def View.trapLanes (v : View) (h : Hdr) : Mask := if h.u then v.mask else maskOf (v.active h)

/-- A trap of the whole instruction without an address. -/
def plainTrap (s : State) (v : View) (c : Cause) (lanes : Mask) : State := takeTrap s v { cause := c, lanes := lanes }

/-- ILL for the whole instruction: an encoding or register bound that fails (R35, R42), which no predicate suppresses. -/
def illegal (s : State) (v : View) : State := plainTrap s v .ill v.mask

/-! ### Shapes of instruction -/

/-- A group-wide instruction: an ejected lane is recalled first (R306); a false predicate skips it (R36). -/
def groupWide (s : State) (h : Hdr) (size : Nat) (f : View → State) : Host.Outcome State Fault Refusal :=
  withView s (fun v =>
    if v.ej then startRecall s v.ag
    else if v.groupOn h then f v else skip s v size)

/-- A group-wide instruction with a field that may name what is reserved: ILL whatever the predicate (R35, R42). -/
def groupChecked (s : State) (h : Hdr) (size : Nat) (bad : View → Bool) (f : View → State) : Host.Outcome State Fault Refusal :=
  withView s (fun v =>
    if v.ej then startRecall s v.ag
    else if bad v then illegal s v
    else if v.groupOn h then f v else skip s v size)

/-- A lane-form instruction that an ejected lane does not execute (R306). -/
def collective (s : State) (f : View → State) : Host.Outcome State Fault Refusal :=
  withView s (fun v => if v.ej then startRecall s v.ag else f v)

/-- An instruction with both forms: `grp` in the group-wide form, `lane` in the lane form. -/
def bothForms (s : State) (h : Hdr) (size : Nat) (grp lane : View → State) : Host.Outcome State Fault Refusal :=
  if h.u then groupWide s h size grp else withView s lane

/-- An instruction with both forms and such a field. -/
def bothChecked (s : State) (h : Hdr) (size : Nat) (bad : View → Bool) (grp lane : View → State) : Host.Outcome State Fault Refusal :=
  if h.u then groupChecked s h size bad grp else withView s (fun v => if bad v then illegal s v else lane v)

end Sys2Proof.Machine
end

