-- ==== Sys2Proof/Machine/Issue.lean ====
section
/-! DEFINITION. Issue (spec/10_scheduling.md R287, 02_encoding.md R34, R38, R39, 15_observation.md R388, R389): which agent
issues, what it fetches, what is done before and after its instruction, and the passing of a cycle. -/

namespace Sys2Proof.Machine

open Sys2Proof

/-! ### Fetch (R34, R213, R346) -/

/-- What a fetch at the PC of an agent gives: a fault with the word at the PC, where that could be read, and the address that failed (R366); or the word,
with its instruction when it is one. -/
inductive Fetched where
  | fault (c : Cause) (w va : Word)
  | word (w : Word) (i : Option Instr)
deriving DecidableEq, Repr

/-- Is a word an instruction, whatever its X-word holds? No field of an X-word is checked. -/
def legalWord (w : Word) : Bool := match decodeWord w 0 with | .ok _ => true | .error _ => false

/-- Fetches and decodes the word at a PC, with its X-word when the opcode takes one. A word that is no instruction is one whether its X-word can be
fetched or not: ILL comes before the causes of a fetch (R363; DEDUCED, log 47). The X-word's own fault has its own address. -/
def fetch (s : State) (core ctx : Nat) (pc : Word) : Fetched :=
  match fetchCheck s core ctx pc 8 with
  | .inl c => .fault c 0 pc
  | .inr sp =>
    let bs := fetchBytes s core sp
    let w := wordOfBytes bs
    if takesX (w.toNat / 2 ^ 47 % 256) then
      match fetchCheck s core ctx (pc + 8) 8 with
      | .inl c => if legalWord w then .fault c w (pc + 8) else .word w none
      | .inr sx =>
        match decodeBytes (bs ++ fetchBytes s core sx) with
        | .ok i => .word w (some i)
        | .error _ => .word w none
    else
      match decodeBytes bs with
      | .ok i => .word w (some i)
      | .error _ => .word w none

/-- Fills the TLB for the fetch of a word, and of its X-word where it has one (R346, R347). -/
def fetchTouch (s : State) (core ctx : Nat) (pc : Word) (x : Bool) : State :=
  match fetchCheck s core ctx pc (if x then 16 else 8) with
  | .inr sp => touchAll s core ctx sp false
  | .inl _ => s

/-! ### Windows (R38, R39) -/

/-- Classes that close the windows they fall in (R39). -/
def closesWindows (w : Word) : Bool := let op := w.toNat / 2 ^ 47 % 256; 0x60 ≤ op && op ≤ 0x7F

/-- Does a window keep an instruction back: it awaits answers, and is used up or would be closed? -/
def blocks (w : Word) (p : Pend) : Bool := !p.await.isEmpty && (p.left == 0 || closesWindows w)

/-- Does the instruction wait for a remote answer before it issues (R38, R39)? -/
def windowBlocked (r : Regs) (w : Word) : Bool := r.pend.any (blocks w)

/-! ### Time -/

/-- The wait of a group is frozen while a party of it is debug-halted or parked off-core (R317); `cl` marks a cluster barrier. -/
def waitFrozen (s : State) (b : Nat) (bl : Block) (cl : Bool) (k : WaitKind) : Bool :=
  let bad := fun (x : Block) => (tvals x.groups).any (fun g => g.halted || (match g.run with | .parkedOff _ => true | _ => false))
  match k with
  | .waitv => s.blocks.any (fun e => e.2.ctx == bl.ctx && bad e.2)
  | .barrier => (barBlocks s b cl).any (fun c => match tget s.blocks c with | some x => bad x | none => false)
  | .tb => bad bl || (s.core bl.core).btl.any (fun c => c.blk == b && c.popWait.isSome) || (s.core bl.core).bts.any (fun c => c.blk == b && c.popWait.isSome)
  | _ => bad bl

/-- Waits that count towards the hang watchdog (R317). -/
def WaitKind.counts : WaitKind → Bool
  | .barrier | .tb | .waitv | .mwait => true
  | _ => false

/-- The counts of a thread after one cycle (R317). -/
def threadCycle (frozen : Bool) (t : Thread) : Thread :=
  match t.run with
  | .waiting .waitv _ => if frozen then t else { t with hang := t.hang + 1 }
  | _ => t

/-- The counts of a group after one cycle: the wait in progress and the rejoin count (R305, R317). -/
def groupCycle (frozen : Bool → WaitKind → Bool) (g : Group) : Group :=
  let g1 := match g.run with
    | .waiting k _ => if k.counts && !frozen (g.want.any (fun n => decide (16 ≤ n))) k then { g with hang := g.hang + 1 } else g
    | .parkedJoin n => if g.halted then g else { g with run := .parkedJoin (n + 1) }
    | _ => g
  { g1 with threads := g1.threads.map (threadCycle (frozen false .waitv)) }

/-- Has the group a command in an engine (R150, R233)? -/
def enginesBusy (s : State) (core b g : Nat) : Bool :=
  let c := s.core core
  c.mtx.any (fun x => x.blk == b && x.grp == g) || c.btl.any (fun x => x.blk == b && x.grp == g) || c.bts.any (fun x => x.blk == b && x.grp == g)

/-- Has an agent a remote pass that waits for send storage (R260)? -/
def unsent (s : State) (ag : AgentRef) : Bool := s.fab.recs.any (fun r => r.ag == ag && !r.sent)

/-- Has the group arrived at the barrier with a key in the unfinished phase, or an arrival there that waits for acknowledgements (R313, R331)? -/
def Group.arrived (g : Group) (key : Nat) : Bool :=
  (match tget g.arr key with | some a => !a.done | none => false) || g.barQ.any (fun d => (if d.cl then 16 + d.bar else d.bar) == key)

/-- Is the wait of a group over, so that its instruction can issue (R287)? What it waits for stands in `want`: the key of a barrier; the offset and
phase of a transaction barrier; the number of a batch; a tile; the queue of an engine (0 and 1 of the BTE, 2 of the matrix engine); else the
remote requests that must be answered, or with none of them the host's link. WAITV ends by its re-evaluation (R228). -/
def waitOver (s : State) (b : Nat) (bl : Block) (gi : Nat) (g : Group) (k : WaitKind) : Bool :=
  let c := s.core bl.core
  let ag : AgentRef := { blk := b, grp := gi, lane := none }
  match k, g.want with
  | .barrier, [key] | .arrival, [key] => !g.arrived key
  | .tb, [off, p] => g.tbMet || ((getTb s b off).reached p && !g.tbQ.any (fun d => d.off == off))
  | .mwait, [n] => !g.closed.any (fun x => x.num == n)
  | .tile, [i] => (tileOf s bl.core i).st != .draining
  | .queue, [0] => decide (c.btl.length < Config.btQueue)
  | .queue, [1] => decide (c.bts.length < Config.btQueue)
  | .queue, [2] => decide ((c.mtx.filter (fun x => x.kind != .mrdy)).length < Config.matrixQueue)
  | .queue, _ => !queueStalls s bl.core ag (g.threads.map (fun t => t.lane))
  | .transfer, _ => !s.cores.any (fun e => (e.2.btl ++ e.2.bts).any (fun x => x.blk == b && x.started))
  | .mbatch, _ => decide (g.closed.length < Config.batchLimit)
  | .waitv, _ => false
  | .recall, _ => g.threads.isEmpty
  | .walk, _ => !((chainOf s bl.ctx).stalled.any (fun x => x.1 == b && x.2.1 == gi))
  | .validator, _ => !s.priv.loads.any (fun x => x.1 == b && x.2.1 == gi)
  | .engines, _ => if g.r.mask = 0 then !enginesBusy s bl.core b gi && !s.fab.recs.any (fun r => r.ag.blk == b && r.ag.grp == gi)
                   else g.barQ.isEmpty && g.tbQ.isEmpty && g.trigQ.isEmpty
  | _, ids => !unsent s ag && (if ids.isEmpty then s.host.up else !isOpen s ids)

/-- Must the instruction at which a group waits complete before a stop (R321): RECALL, LAUNCH, a stalled STEPB, a PTLOAD that the validator has? A
debug halt then takes the group after it. -/
def WaitKind.completes : WaitKind → Bool
  | .recall | .launch | .walk | .validator => true
  | _ => false

/-- Does a group wait in an instruction that completes before a stop? -/
def Group.completing (g : Group) : Bool := match g.run with | .waiting k _ => k.completes | _ => false

/-- Can the next instruction of a group issue under R17, R38 and R39: it has no pass or store that waits for room, its words need no answer of the host,
and no window keeps it back? -/
def mayIssue (s : State) (b : Nat) (bl : Block) (gi : Nat) (g : Group) : Bool :=
  let ag : AgentRef := { blk := b, grp := gi, lane := none }
  !unsent s ag && !queueStalls s bl.core ag (g.threads.map (fun t => t.lane)) &&
  (if !g.r.awaiting && s.host.up then true
   else match fetch { s with cur := some ag } bl.core bl.ctx g.r.pc with
     | .word w _ => !windowBlocked g.r w && !fetchWaits s bl.core bl.ctx g.r.pc (takesX (w.toNat / 2 ^ 47 % 256))
     | .fault .. => true)

/-- Is a group stopped: by a debugger, or by a pre-emption of its block that has begun (R291)? An instruction that completes before a stop goes on
(R321). -/
def Group.stopped (g : Group) (bl : Block) : Bool := (g.halted || bl.stopping) && !g.completing

/-- Is a group ready (R287)? -/
def groupReady (s : State) (b : Nat) (bl : Block) (gi : Nat) (g : Group) : Bool :=
  bl.res == .resident && !g.stopped bl && (match g.run with | .ready => mayIssue s b bl gi g | .waiting k _ => waitOver s b bl gi g k | _ => false)

/-- Has a context a ready group on a core? -/
def hasReady (s : State) (core ctx : Nat) : Bool :=
  s.blocks.any (fun e => e.2.core == core && e.2.ctx == ctx && e.2.groups.any (fun q => groupReady s e.1 e.2 q.1 q.2))

/-- The count of cycles without a ready group of the active context (R288). -/
def coreCycle (s : State) (e : Nat × Core) : Nat × Core :=
  match e.2.active with
  | none => e
  | some x => (e.1, { e.2 with idle := if hasReady s e.1 x then 0 else e.2.idle + 1 })

/-- One array cycle passes (R15). VTIME is one count for all compute dies: R15 lets their values differ by up to 2 at any instant, the model has them equal
(DESIGN CHOICE, log 1). -/
def advance (s : State) : State :=
  { s with vtime := s.vtime + 1, clk := s.clk + 1, cores := s.cores.map (coreCycle s),
           blocks := s.blocks.map (fun e =>
             (e.1, if e.2.res = .resident ∧ e.2.stopping = false then { e.2 with groups := tmap (groupCycle (waitFrozen s e.1 e.2)) e.2.groups } else e.2)) }

/-! ### Selection (R287) -/

/-- A group that its quarter may select: in the active context, neither stopped nor parked. A group whose wait is not over (`wait`) is selected
only when none is ready, and tries its instruction again without issuing it. -/
def selectable (s : State) (core quarter : Nat) (wait : Bool) (e : Nat × Block) (q : Nat × Group) : Bool :=
  e.2.res == .resident && e.2.core == core && (s.core core).active == some e.2.ctx && q.2.slot / 64 == quarter && !q.2.stopped e.2 &&
  (match q.2.run with
   | .waiting k _ => waitOver s e.1 e.2 q.1 q.2 k != wait
   | .ready => mayIssue s e.1 e.2 q.1 q.2 != wait
   | _ => false)

/-- The groups that a quarter may select, with the time each was placed. -/
def candidates (s : State) (core quarter : Nat) (wait : Bool) : List (Nat × Nat × Group × Nat) :=
  s.blocks.flatMap (fun e => (e.2.groups.filter (selectable s core quarter wait e)).map (fun q => (e.1, q.1, q.2, e.2.placed)))

/-- The candidate with the least value of a measure; the first of equals. -/
def least (f : Nat × Nat × Group × Nat → Nat) (l : List (Nat × Nat × Group × Nat)) : Option (Nat × Nat × Group × Nat) :=
  l.foldl (fun (b : Option (Nat × Nat × Group × Nat)) x => match b with | none => some x | some y => if f x < f y then some x else some y) none

/-- The group that a quarter selects: a starved one, else the one that issued last, else the oldest (R287). -/
def pick (s : State) (core quarter : Nat) : Option AgentRef :=
  let ready := candidates s core quarter false
  let starved := ready.filter (fun (x : Nat × Nat × Group × Nat) => decide (x.2.2.1.lastIss + Config.starve ≤ s.now))
  let last := tget (s.core core).greedy quarter
  let choice :=
    match least (fun (x : Nat × Nat × Group × Nat) => x.2.2.1.lastIss) starved with
    | some x => some x
    | none =>
      match ready.find? (fun (x : Nat × Nat × Group × Nat) => last == some (x.1, x.2.1)) with
      | some x => some x
      | none =>
        match least (fun (x : Nat × Nat × Group × Nat) => x.2.2.2) ready with
        | some x => some x
        | none => least (fun (x : Nat × Nat × Group × Nat) => x.2.2.1.lastIss) (candidates s core quarter true)
  choice.map (fun (x : Nat × Nat × Group × Nat) => { blk := x.1, grp := x.2.1, lane := none })

/-- May an ejected lane issue? A debug stop of the group halts its ejected lanes too (R308). -/
def threadReady (s : State) (bl : Block) (g : Group) (t : Thread) : Bool :=
  bl.res == .resident && !bl.stopping && (s.core bl.core).active == some bl.ctx && (!g.halted || (g.stepping.isSome && (g.focus.map (fun f => f.isThread && f.lane == t.lane)) == some true)) &&
  (match t.run with
   | .ready => true
   | .waiting _ _ => true
   | _ => false)

/-- The ejected lanes that may issue. -/
def readyThreads (s : State) : List AgentRef :=
  s.blocks.flatMap (fun e => e.2.groups.flatMap (fun q =>
    (q.2.threads.filter (threadReady s e.2 q.2)).map (fun t => { blk := e.1, grp := q.1, lane := some t.lane })))

/-! ### Before and after an instruction -/

/-- Windows closed before an instruction issues (R38, R39). -/
def openWindows (r : Regs) (w : Word) : Regs := if closesWindows w then r.flush else r.flushDone

/-- The windows that close now with failures: the REMOTE trap that is raised at this boundary (R270). -/
def failedWindow (r : Regs) (w : Word) : Option Pend :=
  r.pend.find? (fun p => p.await.isEmpty && !p.fails.isEmpty && (p.left == 0 || closesWindows w))

/-- The breakpoint that matches a PC and is not spent (R376, R388). -/
def breakpoint (s : State) (v : View) : Option Nat :=
  match tget s.dbg v.ctx with
  | none => none
  | some d =>
    (d.bp.find? (fun e => e.2.getLsbD 0 && e.2 &&& ~~~ 7#64 == v.r.pc &&
      !(!v.ej && v.g.atInstance v.r.pc && v.g.spent.any (fun x => x.isBp && x.n == e.1)))).map Prod.fst

/-- An instruction of a group issues: outside a handler, one that is not the instance of the spent bit clears it (R376). -/
def Group.issuing (g : Group) : Group := if g.handler.isNone && !g.atInstance g.r.pc then { g with spent := none } else g

/-- The state in which the instruction at the PC of `v` executes: windows closed, TLB filled, agent and word set. -/
def beforeIssue (s : State) (v : View) (w : Word) : State :=
  let s1 := fetchTouch { s with cur := some v.ag } v.core v.ctx v.r.pc (takesX (w.toNat / 2 ^ 47 % 256))
  let s2 := if v.ej then s1 else s1.mapGroup v.ag.blk v.ag.grp Group.issuing
  { s2.mapRegs v.ag (fun r => openWindows r w) with cur := some v.ag, word := w }

/-- Does the group-wide word execute: its predicate does not skip it (R36)? -/
def wordOn (r : Regs) (w : Word) : Bool := let h := (rawOf w).hdr; h.ps = 7 || r.qget h.ps.toNat != h.pn

/-- The group's debugger step after an instruction has issued (R389): a completed step halts it. Instructions of other paths, and a call or return that
its predicate skips, are none. -/
def stepDone (w : Word) (old : Group) (g : Group) : Group :=
  match g.stepping with
  | none => g
  | some st =>
    let op := w.toNat / 2 ^ 47 % 256
    let moved : Bool := match g.run with | .waiting _ _ | .sleeping _ => false | _ => true
    let ours : Bool := old.r.mask &&& st.mask != 0
    if !moved then g
    else
      match st.kind with
      | .insn => if ours then { g.halt with stepping := none } else g
      | .over =>
        match st.link with
        | none =>
          if !ours then g
          else if (op = 0x64 ∨ op = 0x65) ∧ wordOn old.r w = true ∧ old.r.pc + (if op = 0x64 then 8 else 16) ≠ g.r.pc then
            { g with stepping := some { st with link := some (old.r.pc + (if op = 0x64 then 8 else 16)), depth := old.stack.length } }
          else { g.halt with stepping := none }
        | some k => if g.r.pc = k ∧ g.stack.length = st.depth then { g.halt with stepping := none } else g
      | .out =>
        if !ours || !wordOn old.r w then g
        else if op = 0x66 ∧ st.nest = 0 then { g.halt with stepping := none }
        else if op = 0x66 then { g with stepping := some { st with nest := st.nest - 1 } }
        else if op = 0x64 ∨ op = 0x65 then { g with stepping := some { st with nest := st.nest + 1 } }
        else g

/-- The current path and the path of the top entry change places (R390). -/
def Group.swapTop (g : Group) : Group :=
  match g.stack with
  | [] => g
  | e :: rest => { g with stack := { e with pc := g.r.pc, mask := g.r.mask, rpc := g.r.rpc } :: rest, fair := 0, defer := 0, r := { g.r with pc := e.pc, mask := e.mask, rpc := e.rpc } }

/-- CATCHUP ends (R390): the deferred lanes are at the focused lane's PC and depth, at their RPC, gone, or split. The focused path is then
the current one again, but after a split. -/
def catchDone (g : Group) : Group :=
  match g.focus with
  | none => g
  | some f =>
    match f.catchUp with
    | none => g
    | some (pc, depth) =>
      let stop := fun (x : Group) (pushed : Bool) => { x.halt with focus := some { f with catchUp := none, pushed := pushed } }
      match g.run with
      | .waiting _ _ | .sleeping _ => g
      | _ =>
        if g.stack.length < depth then stop g false
        else if depth < g.stack.length then stop g true
        else if g.r.pc = pc ∨ g.r.pc = g.r.rpc then stop g.swapTop true
        else g

/-- Is a group still at an instruction that it cannot issue? -/
def Group.stalled (g : Group) : Bool := match g.run with | .waiting _ _ => true | _ => false

/-- What an instruction that a group has completed, or tried, does to a debugger's step and to CATCHUP (R389, R390). -/
def Group.stepped (g : Group) (w : Word) (old : Group) : Group := catchDone (stepDone w old g)

/-- Where a group of a context has halted since `old`, or its step has ended, ALLSTOP halts the others (R386). -/
def stopFollows (s : State) (ctx : Nat) (ag : AgentRef) (old : Group) : State :=
  match s.group? ag.blk ag.grp with
  | some g => if (g.halted && !old.halted) || (old.stepping.isSome && g.stepping.isNone) then stopOthers s ctx else s
  | none => s

/-- The debugger's step of a focused ejected lane ends with its instruction (R391); a lane that must come home first has met what needs a recall. -/
def Group.threadStepped (l : Nat) (g : Group) : Group :=
  match g.focus with
  | some f =>
    let run := (g.thread? l).map (fun (t : Thread) => t.run)
    let moved : Bool := match run with | some (.waiting _ _) => false | _ => true
    if f.isThread && f.lane == l && g.stepping.isSome && moved then { g.halt with stepping := none, focus := some { f with atWide := run == some .recalling } } else g
  | none => g

/-- What an instruction that an agent has completed does for the debugger (R386, R389 to R391). -/
def stepSettle (s : State) (v : View) (w : Word) : State :=
  stopFollows (s.mapGroup v.ag.blk v.ag.grp (fun g =>
    match v.ag.lane with
    | some l => g.threadStepped l
    | none => if g.stalled then g else g.stepped w v.g)) v.ctx v.ag v.g

/-- The issue of an instruction counts for its quarter (R287) or its thread. A try that does not issue leaves the counts, and YIELD (R338) that of R287. -/
def noteIssue (s : State) (v : View) (w : Word) : State :=
  match v.ag.lane with
  | some l => s.mapGroup v.ag.blk v.ag.grp (fun g =>
      { g with threads := g.threads.map (fun (t : Thread) => if t.lane = l then { t with lastIss := s.now } else t) })
  | none =>
    if ((s.group? v.ag.blk v.ag.grp).map Group.stalled) = some true then s
    else
      let yields : Bool := w.toNat / 2 ^ 47 % 256 == 0xD2 && wordOn v.r w
      (s.mapCore v.core (fun c => { c with greedy := tset c.greedy (v.g.slot / 64) (v.ag.blk, v.ag.grp) })).mapGroup v.ag.blk v.ag.grp
        (fun g => { g with issAt := s.now, lastIss := if yields then g.lastIss else s.now })

/-- The state after the instruction of an agent has issued: no agent executes, and a cycle has passed. -/
def afterIssue (v : View) (w : Word) (s : State) : State := advance (stepSettle (noteIssue { s with cur := none, word := 0, raised := none } v w) v w)

/-! ### What keeps an instruction from issuing -/

/-- Does an ejected lane have to be recalled before this word (R306)? -/
def needsRecall (w : Word) : Bool :=
  let op := w.toNat / 2 ^ 47 % 256
  w.getLsbD 63 || (0x50 ≤ op && op ≤ 0x56) || (0x43 ≤ op && op ≤ 0x46) || (0x94 ≤ op && op ≤ 0x97) || op == 0xC3 || op == 0xC4 || op == 0xE1

/-- The trap of a fetch that fails at an address (R34), or, with address 0, of a word that is no instruction (R12): the next state. For an X-word the
address, and the page that an NRES asks for, are the X-word's own, at PC + 8 (R366 names the faulting address; DEDUCED, log 47). -/
def fetchTrap (s : State) (v : View) (w : Word) (c : Cause) (va : Word) : State :=
  let t : Trap := { cause := c, lanes := v.mask, addr := va }
  afterIssue v w (takeTrap { s with cur := some v.ag, word := w } v t)

/-- The record address of a failed remote instruction (R270): peer, status and lane of its lowest failed lane. -/
def remoteAddr (fs : List RemFail) : Word :=
  match fs with
  | [] => 0
  | f :: _ => BitVec.ofNat 64 (f.peer % 2 ^ 10 * 2 ^ 32 + f.status % 2 ^ 8)

/-- A REMOTE trap of the closing window (R270): its instruction's word and ECSN, at the boundary of the one that waited. -/
def remoteTrap (s : State) (v : View) (p : Pend) : State :=
  let t : Trap := { cause := .remote, lanes := maskOf (p.fails.map (fun f => f.lane)), addr := remoteAddr p.fails, ecsn := p.ecsn }
  let s1 := s.mapRegs v.ag (fun r => { r with pend := r.pend.map (fun q => if q = p then { q with fails := [] } else q) })
  match v.ag.lane with
  | some _ => takeTrap { s1 with cur := some v.ag, word := p.iword } { v with r := { v.r with pc := p.pc } } { t with resume := some v.r.pc }
  | none =>
    if v.r.awaiting then stallWindows s v
    else deliverTrap (s1.mapRegs v.ag Regs.flush) v.ag.blk v.ag.grp t p.pc p.iword v.r.pc s.vtime false false v.g.spent.isSome

/-- What happens instead when the instruction at the PC does not issue: a window that waits for a remote answer, a store that found its queue
full (R176), or a REMOTE trap at this boundary. -/
def holdBack (s : State) (v : View) (w : Word) : Option State :=
  if unsent s v.ag || fetchWaits s v.core v.ctx v.r.pc (takesX (w.toNat / 2 ^ 47 % 256)) then some (afterIssue v w (stallOn s v .remote []))
  else if windowBlocked v.r w then some (afterIssue v w (stallOn s v .remote ((v.r.pend.filter (blocks w)).flatMap (fun p => p.await))))
  else if queueStalls s v.core v.ag (v.g.threads.map (fun t => t.lane)) then some (afterIssue v w (stallOn s v .queue []))
  else (failedWindow v.r w).map (fun p => afterIssue v w (remoteTrap s v p))

/-- A debugger's step that halts before a group-wide instruction under focus, or a thread's before one that needs a recall (R390, R391). -/
def focusStop (s : State) (v : View) (w : Word) : Option State :=
  match v.g.focus with
  | none => none
  | some f =>
    let stop : Bool := v.g.stepping.isSome && (if v.ej then f.isThread && needsRecall w else !f.isThread && v.r.mask == laneBit f.lane && w.getLsbD 63)
    if stop then some (advance (stopOthers (s.mapGroup v.ag.blk v.ag.grp (fun g => { g.halt with stepping := none, focus := some { f with atWide := true } })) v.ctx)) else none

/-- The trap of a hardware breakpoint, at the instruction that it matches (R388). -/
def breakTrap (s : State) (v : View) (w : Word) (n : Nat) : State :=
  afterIssue v w (takeTrap { s with cur := some v.ag, word := w } v { cause := .brkp, code := 0x100 + n, lanes := v.mask })

/-- Has the instruction raised a trap of higher priority than BRKP: ILL, PRIV or STREAM (R363, R388)? -/
def outranksBreak (s : State) : Bool := match s.raised with | some c => decide (causeCode c < causeCode .brkp) | none => false

end Sys2Proof.Machine
end

