-- ==== Sys2Proof/Machine/Launch.lean ====
section
/-! DEFINITION. The state of a group and of a block at block start (spec/10_scheduling.md R280, 01_machine.md R20, R28,
03_formats.md R80, 11_divergence.md R296, R312). -/

namespace Sys2Proof.Machine

open Sys2Proof

/-- The registers of group `gi` at block start (R20, R80, R280). -/
def Regs.start (p : Packet) (gi : Nat) : Regs :=
  { Regs.fresh with
    k := (List.range (min p.kregs 63)).foldl (fun m i => sset m i (p.params.getD i 0)) [],
    gen := (List.range 64).foldl (fun m l => sset m l (genStart gi l)) [],
    pc := p.entry, mask := BitVec.allOnes 64 }

/-- Group `gi` at block start, in a group slot. -/
def Group.start (p : Packet) (gi slot now : Nat) : Group :=
  { r := Regs.start p gi, gates := [], resv := [], ahead := [], later := [], seenT := [], doneT := [], stack := [], guards := [], run := .ready, slot := slot, fair := 0, defer := 0, hang := 0,
    lastIss := now, issAt := now, handler := none, spent := none, noEj := [], threads := [], arr := [], barsAt := [], barQ := [], tbQ := [], trigQ := [], trigd := false, want := [], tbMet := false,
    waitAt := none, wake := none, bctr := 0, openB := [], closed := [], bfails := [], bnotes := [], mseg := 0, zdone := [], exited := false, held := [], async := [], remHeld := [],
    chain := Ptr.none, called := none, halted := false, stepping := none, focus := none, rejoins := 0, strike := 0 }

/-- A block that has not been placed. -/
def Block.fresh (grid index ctx prio now : Nat) : Block :=
  { grid := grid, index := index, rank := 0, core := 0, first := 0, ctx := ctx, res := .waiting, groups := [], bars := [], loc := [], abuf := [],
    wbuf := [], zbuf := [], fw := [], fz := [], zpoison := [], fpoison := [], prio := prio, placed := now, waited := 0, replays := 0, save := none, image := [],
    tiles := [], bt := [], mtx := [], hor := [], tbNote := [], tbTime := [], started := false, stopping := false }

/-- A grid just launched (R283). -/
def Grid.fresh (queue seq ctx : Nat) (p : Packet) : Grid :=
  { queue := queue, seq := seq, ctx := ctx, pkt := p, trigs := 0, trigged := false, next := 0, done := false, status := 0, bars := [], note := none, since := 0, waited := 0 }

/-- A context with nothing but a page table: the privileged context of a placed instruction. -/
def Ctx.bare (root : Nat) : Ctx :=
  { ptroot := root, tenant := none, conf := false, mgr := false, cres := 0, resv := [], salt := 0, pool := 0, poolsz := 0, objtab := 0, traprt := 0,
    svcring := 0, chain := 0, rjt := Config.rjtDefault, hangt := 0, protbase := 0, protlen := 0 }

/-! ### A placed instruction (log 8) -/

/-- Virtual address at which a placed instruction stands. -/
def placeVa : Nat := 0x10000

/-- Physical address of a placed instruction. -/
def placePa : Nat := 0x40000

/-- The page tables and the words of a placed instruction: one SIV page with RD, WR and EX. -/
def placeMem (m : List Host.Cell) (bs : List Byte) : List Host.Cell :=
  let m1 := putNum m 0x10000 8 (2 * 2 ^ 28 + 1)
  let m2 := putNum m1 0x20000 8 (3 * 2 ^ 28 + 1)
  let m3 := putNum m2 0x30008 8 (4 * 2 ^ 28 + 0x1EF)
  putBytes m3 placePa bs

/-- The packet of a placed instruction's grid: one group with 256 lane registers. -/
def placePacket : Packet := { Packet.blank with entry := BitVec.ofNat 64 placeVa, regs := 256 }

/-- The device with an instruction placed where its next step fetches: context 0, one grid of one block of one group on core
0, whose PC is the placed word, and the agenda naming its quarter. -/
def placeWords (s : State) (bs : List Byte) : State :=
  { s with
    mem := placeMem s.mem bs,
    ccs := [], dir := [], net := [], reqs := [], setq := [], outst := [], wbacks := [], late := [],
    ctxs := tset s.ctxs 0 (Ctx.bare 0x10000),
    grids := tset s.grids 0 (Grid.fresh 0 0 0 placePacket),
    blocks := tset s.blocks 0 { Block.fresh 0 0 0 0 s.now with res := .resident, groups := [(0, Group.start placePacket 0 0 s.now)], started := true },
    cores := tset s.cores 0 { s.core 0 with active := some 0, used := [(0, 0, 0)], l1 := [], tlb := [], qtlb := [], code := [] },
    dbg := [],
    agenda := [.issue 0 0] }

end Sys2Proof.Machine
end

