-- ==== Sys2Proof/Machine/Operands.lean ====
section
/-! DEFINITION. Operand forms of the arithmetic classes (spec/02_encoding.md R35, R43, R44; 04_arithmetic_instructions.md R94
to R96, R108): register, k-register and immediate sources, swizzles, elements, and results. A value is a number below
2^64; `l` is the lane, or none in the group-wide form. -/

namespace Sys2Proof.Machine

open Sys2Proof

/-- A register of the form: a pair in the lane form when `wide`; in the group-wide form its low 32 bits unless `wide`. -/
def readReg (r : Regs) (l : Option Nat) (n : BitVec 8) (wide : Bool) : Nat :=
  match l with
  | some l => if wide then (r.v64 l n.toNat).toNat else (r.vget l n.toNat).toNat
  | none => if wide then (r.kget n.toNat).toNat else (r.kget n.toNat).toNat % 2 ^ 32

/-- A k register used in every lane (R43). -/
def readK (r : Regs) (n : BitVec 8) (wide : Bool) : Nat := if wide then (r.kget n.toNat).toNat else (r.kget n.toNat).toNat % 2 ^ 32

/-- An imm8 as an integer (R43). -/
def immInt (ck : CKind) (c : BitVec 8) : Int := if ck == .immS then c.toInt else (c.toNat : Int)

/-- Two copies of a 16-bit value. -/
def twice16 (x : Nat) : Nat := x % 65536 * 65537

/-- An integer immediate at the element width, copied for packed types (R43). -/
def intImm (ty : IntTy) (ck : CKind) (c : BitVec 8) : Nat :=
  if ty.packed then twice16 (wrapTo 16 (immInt ck c)) else wrapTo ty.width (immInt ck c)

/-- A floating-point immediate: the integer converted exactly to the element type (R43). -/
def fpImm (ty : FTy) (ck : CKind) (c : BitVec 8) : Nat :=
  let x := (rnd (ftyFormat ty) .rne false 0 (ofInt false (immInt ck c) 0)).1
  if ty.packed then twice16 x else x

/-- Second source of an instruction with two sources (R96). -/
def second (r : Regs) (l : Option Nat) (h : Hdr) (bk : Bool) (ck : CKind) (wide : Bool) (imm : Nat) : Nat :=
  match ck with
  | .vreg => if bk then readK r h.b wide else readReg r l h.b wide
  | .kreg => readK r h.c wide
  | .immZ | .immS => imm

/-- Second source of an instruction with three sources (R96). -/
def secondOf3 (r : Regs) (l : Option Nat) (h : Hdr) (bk wide : Bool) : Nat := if bk then readK r h.b wide else readReg r l h.b wide

/-- Third source (R96). -/
def third (r : Regs) (l : Option Nat) (h : Hdr) (ck : CKind) (wide : Bool) (imm : Nat) : Nat :=
  match ck with
  | .vreg => readReg r l h.c wide
  | .kreg => readK r h.c wide
  | .immZ | .immS => imm

/-- The two 16-bit elements of a packed value, swizzled (R43). -/
def packedElems (sw : BitVec 2) (x : Nat) : List Nat :=
  let lo := x % 65536
  let hi := x / 65536 % 65536
  match sw.toNat with
  | 0 => [lo, hi]
  | 1 => [hi, lo]
  | 2 => [lo, lo]
  | _ => [hi, hi]

/-- The elements of a value: two for a packed type, the selected half for a scalar 16-bit type, else the value (R43). -/
def elems (packed half : Bool) (sw : BitVec 2) (x : Nat) : List Nat :=
  if packed then packedElems sw x
  else if half then [if sw = 1 then x / 65536 % 65536 else x % 65536]
  else [x]

/-- Elements put together again: element 0 is the low half of a packed value. -/
def joinElems (l : List Nat) : Nat :=
  match l with
  | [] => 0
  | [x] => x
  | x :: y :: _ => x % 65536 + y % 65536 * 65536

/-- A result written to the destination of the form (R21, R95). -/
def writeReg (l : Option Nat) (n : BitVec 8) (wide signed : Bool) (x : Nat) : List RegWrite :=
  match l with
  | some l => if wide then [.v l n.toNat (BitVec.ofNat 32 x), .v l (n.toNat + 1) (BitVec.ofNat 32 (x / 2 ^ 32))] else [.v l n.toNat (BitVec.ofNat 32 x)]
  | none => [.k n.toNat (if wide then BitVec.ofNat 64 x else if signed then sext64 32 x else BitVec.ofNat 64 (x % 2 ^ 32))]

/-- A predicate result (R35). -/
def writePred (l : Option Nat) (n : BitVec 8) (b : Bool) : RegWrite :=
  match l with
  | some l => .p l n.toNat b
  | none => .q n.toNat b

/-- A predicate source (R105). -/
def readPred (r : Regs) (l : Option Nat) (n : BitVec 8) : Bool :=
  match l with
  | some l => r.pget l n.toNat
  | none => r.qget n.toNat

/-- Registers that a value of a width takes. -/
def span (wide : Bool) : Nat := if wide then 2 else 1

/-- Lane registers named by the second source of a two-source instruction. -/
def regs2 (h : Hdr) (bk : Bool) (ck : CKind) (wide : Bool) : List (BitVec 8 × Nat) := if ck == .vreg && !bk then [(h.b, span wide)] else []

/-- Lane registers named by the second and third sources of a three-source instruction. -/
def regs3 (h : Hdr) (bk : Bool) (ck : CKind) (wide : Bool) : List (BitVec 8 × Nat) :=
  (if bk then [] else [(h.b, span wide)]) ++ (if ck == .vreg then [(h.c, span wide)] else [])

/-- The places where an instruction computes: its active lanes, or the group (R36, R94, R95). -/
def View.places (v : View) (h : Hdr) : List (Option Nat) := if h.u then (if v.groupOn h then [none] else []) else (v.active h).map some

/-- The active lanes whose result an idle lane computes again under MIRROR (R319): lane l + 32 modulo 64 of an active lane l is not active. -/
def View.mirrored (v : View) (h : Hdr) : Mask :=
  let ls := v.active h
  if !v.pkt.mirror || h.u || v.ej then 0 else maskOf (ls.filter (fun l => !ls.contains ((l + 32) % 64)))

/-- The checked lanes whose comparison fails: those in which an error has struck (log 14). -/
def View.mismatch (v : View) (h : Hdr) : Mask := v.g.strike &&& v.mirrored h

/-- A mirror mismatch: SOFT with CODE 1, before any lane writes (R319). -/
def mirrorTrap (s : State) (v : View) (bad : Mask) : State :=
  takeTrap (if v.r.awaiting then s else s.mapGroup v.ag.blk v.ag.grp (fun g => { g with strike := 0 })) v { cause := .soft, code := 1, lanes := bad }

/-- An instruction that reads registers and writes registers (R94, R98): its register bounds, the mirror check `bad`, then its results at every
place; `long` opens a window. -/
def computeBy (s : State) (h : Hdr) (size : Nat) (long : Bool) (regs : List (BitVec 8 × Nat)) (bad : View → Mask) (f : View → Option Nat → List RegWrite × Flags) :
    Host.Outcome State Fault Refusal :=
  withView s (fun v =>
    if v.ej && h.u then startRecall s v.ag
    else if !v.within h.u regs then illegal s v
    else if bad v ≠ 0 then mirrorTrap s v (bad v)
    else
      let rs := (v.places h).map (f v)
      let ws := rs.flatMap Prod.fst
      let fl := flagsAll (rs.map Prod.snd)
      if long then finishLong s v h ws fl else finish s v size ws fl)

/-- An instruction that reads and writes registers and whose lane form is checked under MIRROR: OP 0x00 to 0x33, 0x40 to 0x42 and 0x48 (R319). -/
def compute (s : State) (h : Hdr) (size : Nat) (long : Bool) (regs : List (BitVec 8 × Nat)) (f : View → Option Nat → List RegWrite × Flags) :
    Host.Outcome State Fault Refusal := computeBy s h size long regs (fun v => v.mismatch h) f

/-! ### Integer operands -/

/-- Elements of a source of an integer type. -/
def intElems (ty : IntTy) (sw : BitVec 2) (x : Nat) : List Nat := elems ty.packed false sw x

/-- Swizzle of the second source: none for an immediate. -/
def swOf (ck : CKind) (sw : BitVec 2) : BitVec 2 := if ck.imm then 0 else sw

/-- The elements of the second source of a two-source integer instruction. -/
def intSecond (r : Regs) (l : Option Nat) (h : Hdr) (m : IntMod) : List Nat :=
  intElems m.ty (swOf m.ck m.swb) (second r l h m.bk m.ck m.ty.wide (intImm m.ty m.ck h.c))

/-- Integer instruction of two sources: `f` on the elements of a and b. -/
def intOp2 (s : State) (h : Hdr) (m : IntMod) (long : Bool) (f : Nat → Nat → Nat) : Host.Outcome State Fault Refusal :=
  compute s h 8 long ([(h.d, span m.ty.wide), (h.a, span m.ty.wide)] ++ regs2 h m.bk m.ck m.ty.wide) (fun v l =>
    let a := intElems m.ty m.swa (readReg v.r l h.a m.ty.wide)
    (writeReg l h.d m.ty.wide m.ty.copiesSign (joinElems (List.zipWith f a (intSecond v.r l h m))), 0))

/-- Integer instruction of one source. -/
def intOp1 (s : State) (h : Hdr) (m : IntMod) (f : Nat → Nat) : Host.Outcome State Fault Refusal :=
  compute s h 8 false [(h.d, span m.ty.wide), (h.a, span m.ty.wide)] (fun v l =>
    (writeReg l h.d m.ty.wide m.ty.copiesSign (joinElems ((intElems m.ty m.swa (readReg v.r l h.a m.ty.wide)).map f)), 0))

/-- Integer instruction of three sources; `f` also gets the element of the old destination (BFI). -/
def intOp3 (s : State) (h : Hdr) (m : IntMod) (f : Nat → Nat → Nat → Nat → Nat) : Host.Outcome State Fault Refusal :=
  compute s h 8 false ([(h.d, span m.ty.wide), (h.a, span m.ty.wide)] ++ regs3 h m.bk m.ck m.ty.wide) (fun v l =>
    let a := intElems m.ty m.swa (readReg v.r l h.a m.ty.wide)
    let b := intElems m.ty m.swb (secondOf3 v.r l h m.bk m.ty.wide)
    let c := intElems m.ty 0 (third v.r l h m.ck m.ty.wide (intImm m.ty m.ck h.c))
    let d := intElems m.ty 0 (readReg v.r l h.d m.ty.wide)
    let x := (List.zip a b).zip (List.zip c d)
    (writeReg l h.d m.ty.wide m.ty.copiesSign (joinElems (x.map (fun e => f e.1.1 e.1.2 e.2.1 e.2.2))), 0))

/-! ### Floating-point operands -/

/-- Flips the sign bit (R108). -/
def negEnc (f : FFmt) (neg : Bool) (x : Nat) : Nat := if neg then x ^^^ f.signBit else x

/-- Elements of a floating-point source, negated exactly under NA or NB. -/
def fpElems (ty : FTy) (sw : BitVec 2) (neg : Bool) (x : Nat) : List Nat := (elems ty.packed ty.half sw x).map (negEnc (ftyFormat ty) neg)

/-- The elements of the second source of a two-source floating-point instruction. An immediate is whole, in a scalar
16-bit type too. -/
def fpSecond (r : Regs) (l : Option Nat) (h : Hdr) (m : FpMod) : List Nat :=
  fpElems m.ty (swOf m.ck m.swb) m.nb (second r l h m.bk m.ck m.ty.wide (fpImm m.ty m.ck h.c))

/-- An element result of a floating-point type joined and written: scalar 16-bit results have zeros above them (R43, R95). -/
def fpWrite (ty : FTy) (l : Option Nat) (d : BitVec 8) (xs : List Nat) : List RegWrite := writeReg l d ty.wide false (joinElems xs)

/-- Floating-point instruction of two sources: `f` on encodings gives an encoding and flags. -/
def fpOp2 (s : State) (h : Hdr) (m : FpMod) (long : Bool) (f : Nat → Nat → Nat × Flags) : Host.Outcome State Fault Refusal :=
  compute s h 8 long ([(h.d, span m.ty.wide), (h.a, span m.ty.wide)] ++ regs2 h m.bk m.ck m.ty.wide) (fun v l =>
    let a := fpElems m.ty m.swa m.na (readReg v.r l h.a m.ty.wide)
    let rs := List.zipWith f a (fpSecond v.r l h m)
    (fpWrite m.ty l h.d (rs.map Prod.fst), flagsAll (rs.map Prod.snd)))

/-- Floating-point instruction of one source. `wideD` says whether the destination has the type's width. -/
def fpOp1 (s : State) (h : Hdr) (m : FpMod) (long wideD : Bool) (f : Nat → Nat × Flags) : Host.Outcome State Fault Refusal :=
  compute s h 8 long [(h.d, span (m.ty.wide && wideD)), (h.a, span m.ty.wide)] (fun v l =>
    let rs := (fpElems m.ty m.swa m.na (readReg v.r l h.a m.ty.wide)).map f
    (writeReg l h.d (m.ty.wide && wideD) false (joinElems (rs.map Prod.fst)), flagsAll (rs.map Prod.snd)))

end Sys2Proof.Machine
end

