-- ==== Sys2Proof/Machine/Access.lean ====
section
/-! DEFINITION. What the memory instructions share: effective addresses (spec/02_encoding.md R50, R51), the checks of every lane
(spec/08_memory_instructions.md R212, R213; 15_observation.md R388), loads and stores to glb, L-space, the neighbour window and the
typed buffers (R216, 01_machine.md R25, R26; 05_matrix.md R149), and the write of results. -/

namespace Sys2Proof.Machine

open Sys2Proof

/-- Bytes of a SIZE (R49). -/
def sizeBytes : Size → Nat
  | .b1 => 1 | .b2 => 2 | .b4 => 4 | .b8 => 8 | .b16 => 16

/-- Lane registers that a SIZE takes (R21). -/
def sizeRegs : Size → Nat
  | .b8 => 2 | .b16 => 4 | _ => 1

/-- One access of an instruction: by a lane, or by the group, at an address. -/
structure Access where
  lane : Option Nat
  va   : Word
deriving DecidableEq, Repr

/-- The memory agent of an access. -/
def View.agent (v : View) (a : Access) : AgentRef := { v.ag with lane := a.lane }

/-- Effective address (R50); `n` scales the displacement. -/
def effective (v : View) (h : Hdr) (n : Nat) (lane : Option Nat) : Word :=
  v.r.kget h.a.toNat + (match lane with | some l => (v.r.vget l h.b.toNat).signExtend 64 | none => v.r.kget h.b.toNat) +
  h.c.signExtend 64 * BitVec.ofNat 64 n

/-- The accesses of a memory instruction (R36, R50): its active lanes in ascending order, or the group's one. -/
def View.accesses (v : View) (h : Hdr) (n : Nat) : List Access := (v.places h).map (fun l => { lane := l, va := effective v h n l })

/-- The accesses of an instruction whose C field is no displacement (R49). -/
def View.accessesPlain (v : View) (h : Hdr) : List Access := v.accesses { h with c := 0 } 1

/-- Address of a lane of GLD and GST (R51). -/
def gatherVa (v : View) (h : Hdr) (m : GatMod) (l : Nat) : Word :=
  let i : Word := if m.iw then v.r.v64 l h.b.toNat else if m.sx then (v.r.vget l h.b.toNat).signExtend 64 else (v.r.vget l h.b.toNat).setWidth 64
  v.r.kget h.a.toNat + i * BitVec.ofNat 64 (2 ^ m.scl.toNat) + h.c.signExtend 64 * BitVec.ofNat 64 (sizeBytes m.size)

/-! ### Checks (R213) -/

/-- What the checks of one access found: the cause with its address and code, the effective domain, whether RP reports its page
as not resident, and its physical spans. -/
structure Looked where
  acc   : Access
  cause : Option (Cause × Word × Nat)
  dom   : Dom
  nres  : Bool
  spans : List Span
deriving DecidableEq, Repr

/-- The watchpoint that matches an access (R388), unless it is spent at this instance (R376). -/
def watchpoint (s : State) (v : View) (d : Dom) (rd wr : Bool) (va : Word) (n : Nat) : Option Nat :=
  match tget s.dbg v.ctx with
  | none => none
  | some x =>
    (x.wp.find? (fun e =>
      let w1 := e.2.1
      let base := e.2.2.toNat
      w1.getLsbD 63 && w1.getLsbD (58 + domIdx d) && ((rd && w1.getLsbD 57) || (wr && w1.getLsbD 56)) &&
      decide (0 < w1.toNat % 2 ^ 40) && decide (base < va.toNat + n) && decide (va.toNat < base + w1.toNat % 2 ^ 40) &&
      !(!v.ej && v.g.atInstance v.r.pc && v.g.spent.any (fun y => !y.isBp && y.n == e.1)))).map Prod.fst

/-- Is an address a multiple of `n`? -/
def alignedTo (va : Word) (n : Nat) : Bool := va.toNat % n == 0

/-- Checks one glb access of `n` bytes (R213), then poison (R381). -/
def lookGlb (s : State) (v : View) (d : Dom) (n : Nat) (natural rd wr rp : Bool) (a : Access) : Looked :=
  match watchpoint s v d rd wr a.va n with
  | some w => { acc := a, cause := some (.watch, a.va, w), dom := d, nres := false, spans := [] }
  | none =>
    if natural && !alignedTo a.va n then { acc := a, cause := some (.align, a.va, 0), dom := d, nres := false, spans := [] }
    else
      let c := checkVa s v.core v.ctx a.va n rd wr d rp
      match c.cause with
      | some (k, va) => { acc := a, cause := some (k, va, 0), dom := if k = .xlat then d else c.dom, nres := false, spans := [] }
      | none =>
        if rd && !c.nres && poisoned s c.spans then { acc := a, cause := some (.soft, a.va, 3), dom := c.dom, nres := false, spans := [] }
        else { acc := a, cause := none, dom := c.dom, nres := c.nres, spans := c.spans }

/-- A check of one access that the group makes beside its accesses of memory instructions, in SEQ (R206, R336, R357, R370; log 47), then poison (R381). -/
def groupAccess (s : State) (v : View) (va : Word) (n : Nat) (rd wr : Bool) : Checked :=
  let c := checkVa s v.core v.ctx va n rd wr .seq false
  if rd && c.cause.isNone && poisoned s c.spans then { c with cause := some (.soft, va) } else c

/-- The trap of such an access that does not pass, at a scope: it comes from an access, and its address is the one given (R366). -/
def groupTrap (v : View) (c : Cause) (va : Word) (d : Dom) (sc : Scope) (wr : Bool) : Trap :=
  { cause := c, lanes := v.mask, addr := va, code := if c = .soft then 3 else 0, acc := some (if c = .xlat then .seq else d, sc), write := wr }

/-- The trap of an instruction whose accesses do not all pass (R213, R364): the cause of highest priority, the lanes that have
it, and the address of the lowest. -/
def lookedTrap (v : View) (h : Hdr) (sc : Scope) (wr : Bool) (cs : List Looked) : Option Trap :=
  let causes := cs.filterMap (fun c => c.cause.map (fun x => (c, x)))
  let best := causes.foldl (fun (b : Option (Looked × Cause × Word × Nat)) x =>
    match b with | none => some x | some y => if causeCode x.2.1 < causeCode y.2.1 then some x else some y) none
  best.map (fun x =>
    { cause := x.2.1, code := x.2.2.2, addr := x.2.2.1, acc := some (x.1.dom, sc), write := wr,
      lanes := if h.u then v.mask else maskOf ((causes.filter (fun y => y.2.1 = x.2.1)).filterMap (fun y => y.1.acc.lane)) })

/-! ### Registers of a memory instruction (R216) -/

/-- The writes of a loaded value (R216). -/
def loadWrites (lane : Option Nat) (d : BitVec 8) (z : Size) (bs : List Byte) : List RegWrite :=
  let x := fromBytes bs
  match lane with
  | some l => (List.range (sizeRegs z)).map (fun i => .v l (d.toNat + i) (BitVec.ofNat 32 (x / 2 ^ (32 * i))))
  | none => .k d.toNat (BitVec.ofNat 64 x) :: (if z == .b16 then [.k (d.toNat + 1) (BitVec.ofNat 64 (x / 2 ^ 64))] else [])

/-- Where the bytes of a loaded value go, from byte `off` of what an instruction reads: the register, its first byte and how many (R216). -/
def loadDest (lane : Option Nat) (d : BitVec 8) (z : Size) (off : Nat) : List (RegWrite × Nat × Nat) :=
  match lane with
  | some l => (List.range (sizeRegs z)).map (fun i => (.v l (d.toNat + i) 0, off + 4 * i, min 4 (sizeBytes z)))
  | none => (.k d.toNat 0, off, min 8 (sizeBytes z)) :: (if z == .b16 then [(.k (d.toNat + 1) 0, off + 8, 8)] else [])

/-- The number in `k` data registers from D up: lane registers, or k registers of 64 bits. -/
def dataNum (r : Regs) (lane : Option Nat) (d k : Nat) : Nat :=
  (List.range k).foldl (fun x i => x + (match lane with | some l => (r.vget l (d + i)).toNat * 2 ^ (32 * i) | none => (r.kget (d + i)).toNat * 2 ^ (64 * i))) 0

/-- The bytes that a store takes from its data register (R216). -/
def storeBytes (r : Regs) (lane : Option Nat) (d : BitVec 8) (z : Size) : List Byte :=
  toBytes (sizeBytes z) (dataNum r lane d.toNat (match lane with | some _ => sizeRegs z | none => if z == .b16 then 2 else 1))

/-! ### glb accesses -/

/-- Sectors of spans. -/
def spanSecs (l : List Span) : List Nat := l.flatMap (fun sp => (piecesOf sp.pa sp.len 0 (sp.len / 32 + 2)).map (fun p => p.sec))

/-- What the loads of an instruction have given: for each access its bytes, none where RP reports the page as not resident, and the names of the loads
that are performed later. -/
structure Loaded where
  out  : List (Access × Option (List Byte))
  late : List Nat
deriving DecidableEq, Repr

/-- The sector pieces of an access as a load that is performed later names them. -/
def lateParts (spans : List Span) : List (Nat × Nat × Nat × PageKind) := (spanPieces spans).map (fun x => (x.2.sec, x.2.off, x.2.len, x.1.page.kind))

/-- Performs the load of one checked access, or notes it to be performed later (R165). None while a remote access or the host link holds it back. -/
def performLoad (s : State) (v : View) (enc : Dom) (sc : Scope) (acq : Bool) (d : BitVec 8) (z : Size) (c : Looked) : Option (State × List Byte × List Nat) :=
  let me := v.agent c.acc
  let l : LoadAs := { dom := c.dom, enc := enc, sc := sc }
  let secs := spanSecs c.spans
  if hostWaits s secs then none
  else if isLater s me then
    let (s1, id) := deferLoad (touchAll s v.core v.ctx c.spans false) v.core v.ag [me] v.mask l acq none (lateParts c.spans) [] (loadDest c.acc.lane d z 0)
    some (s1, toBytes (sizeBytes z) 0, [id])
  else
    (beforeLoad s v.core me v.mask c.dom enc secs).map (fun s1 =>
      let (s2, bs, t) := loadSpans (touchAll s1 v.core v.ctx c.spans false) v.core me v.mask c.spans l
      (afterLoad s2 v.core me v.mask l acq t, bs, []))

/-- Performs the loads of checked accesses in turn. -/
def performLoads (s : State) (v : View) (enc : Dom) (sc : Scope) (acq : Bool) (d : BitVec 8) (z : Size) (cs : List Looked) : Option (State × Loaded) :=
  cs.foldl (fun (o : Option (State × Loaded)) c =>
    o.bind (fun st =>
      if c.nres then some (st.1, { st.2 with out := st.2.out ++ [(c.acc, none)] })
      else (performLoad st.1 v enc sc acq d z c).map (fun x => (x.1, { out := st.2.out ++ [(c.acc, some x.2.1)], late := st.2.late ++ x.2.2 }))))
    (some (s, { out := [], late := [] }))

/-- A store of a lane ends its reservation on each sector that it writes (R220). -/
def dropOwnResv (s : State) (v : View) (a : Access) (secs : List Nat) : State :=
  match a.lane with
  | none => s
  | some l => s.mapGroup v.ag.blk v.ag.grp (fun g => { g with resv := g.resv.filter (fun r => r.lane != l || !secs.contains r.sec) })

/-- Performs the stores of checked accesses in ascending lane order (R217): each takes its place in its queue. -/
def performStores (s : State) (v : View) (enc : Dom) (sc : Scope) (rls : Bool) (cs : List (Looked × List Byte)) : State :=
  cs.foldl (fun s c =>
    storeSpans (dropOwnResv (touchAll s v.core v.ctx c.1.spans true) v c.1.acc (spanSecs c.1.spans)) v.core (v.agent c.1.acc) v.mask c.1.spans c.2
      c.1.dom enc sc rls) s

/-! ### L-space, the neighbour window and the typed buffers (R25, R26) -/

/-- An allocation in whole granules (R18). -/
def allocBytes (n : Nat) : Nat := ceilDiv n Config.granule * Config.granule

/-- A place in a block's storage: the block, the follower's allocation or the leader's (R139), and the byte offset. -/
structure Ref where
  blk : Nat
  fol : Bool
  off : Nat
deriving DecidableEq, Repr

/-- The bytes of a block that a space addresses. -/
def spaceBytes (bl : Block) (sp : Space) (fol : Bool) : Sparse 8 :=
  match sp with
  | .abuf => bl.abuf
  | .zbuf => if fol then bl.fz else bl.zbuf
  | .wbuf => if fol then bl.fw else bl.wbuf
  | _ => bl.loc

/-- Replaces them. -/
def setSpace (bl : Block) (sp : Space) (fol : Bool) (m : Sparse 8) : Block :=
  match sp with
  | .abuf => { bl with abuf := m }
  | .zbuf => if fol then { bl with fz := m } else { bl with zbuf := m }
  | .wbuf => if fol then { bl with fw := m } else { bl with wbuf := m }
  | _ => { bl with loc := m }

/-- The allocation of a block in a space (R18). -/
def spaceAlloc (p : Packet) (sp : Space) : Nat :=
  allocBytes (match sp with | .abuf => p.abuf | .zbuf => p.zbuf | .wbuf => p.wbuf | _ => p.loc)

/-- First offset of the follower window of a space (R139). -/
def followerBase (sp : Space) : Option Nat :=
  match sp with
  | .wbuf => some 0x100000
  | .zbuf => some 0x200000
  | _ => none

/-- The allocation and offset of `n` bytes at an offset of a space; none is PERM (R26, R139). -/
def sideOf (p : Packet) (sp : Space) (off n : Nat) : Option (Bool × Nat) :=
  if off + n ≤ spaceAlloc p sp then some (false, off)
  else match followerBase sp with
    | none => none
    | some base => if p.pair = true ∧ base ≤ off ∧ off - base + n ≤ spaceAlloc p sp then some (true, off - base) else none

/-- The block at a cluster position, the place of a core in its hardware cluster (R8, R25, R286), of the executing block's cluster. -/
def clusterBlock (s : State) (v : View) (pos : Nat) : Option Nat :=
  let c := max 1 v.pkt.cluster
  (s.blocks.find? (fun e => e.2.grid == v.bl.grid && e.2.index / c == v.bl.index / c && e.2.res == .resident && e.2.core % 4 == pos)).map Prod.fst

/-- The place that an address names; none is PERM (R25, R26). -/
def localRef (s : State) (v : View) (sp : Space) (va : Word) (n : Nat) : Option Ref :=
  if sp = .nbr then
    if 2 ^ 21 ≤ va.toNat then none
    else
      let off := va.toNat % 2 ^ 19
      if spaceAlloc v.pkt .loc < off + n then none
      else (clusterBlock s v (bitsOf va.toNat 20 19)).map (fun b => { blk := b, fol := false, off := off })
  else (sideOf v.pkt sp va.toNat n).map (fun x => { blk := v.ag.blk, fol := x.1, off := x.2 })

/-- Reads bytes of a block's storage. -/
def localRead (s : State) (sp : Space) (ref : Ref) (n : Nat) : List Byte :=
  match tget s.blocks ref.blk with
  | none => toBytes n 0
  | some bl => getBytes (spaceBytes bl sp ref.fol) ref.off n

/-- The poisoned Z elements of an allocation (R149). -/
def zPoison (bl : Block) (fol : Bool) : List Nat := if fol then bl.fpoison else bl.zpoison

/-- Replaces them. -/
def setZPoison (bl : Block) (fol : Bool) (p : List Nat) : Block := if fol then { bl with fpoison := p } else { bl with zpoison := p }

/-- Z elements whose four bytes a write covers lose their poison (R149). -/
def clearZPoison (p : List Nat) (off n : Nat) : List Nat := p.filter (fun e => !(decide (off ≤ 4 * e) && decide (4 * e + 4 ≤ off + n)))

/-- Writes bytes of a block's storage. -/
def localWrite (s : State) (sp : Space) (ref : Ref) (bs : List Byte) : State :=
  s.mapBlock ref.blk (fun bl =>
    let b1 := setSpace bl sp ref.fol (putBytes (spaceBytes bl sp ref.fol) ref.off bs)
    if sp = .zbuf then setZPoison b1 ref.fol (clearZPoison (zPoison b1 ref.fol) ref.off bs.length) else b1)

/-- Does a range of the Z-buffer touch a poisoned element (R149)? -/
def zPoisoned (s : State) (ref : Ref) (n : Nat) : Bool :=
  match tget s.blocks ref.blk with
  | none => false
  | some bl => (zPoison bl ref.fol).any (fun e => decide (4 * e < ref.off + n) && decide (ref.off < 4 * e + 4))

/-- A checked local access. -/
structure LocalLook where
  look : Looked
  ref  : Ref
deriving DecidableEq, Repr

/-- Checks one local access (R212, R213, R26, R149). -/
def lookLocal (s : State) (v : View) (sp : Space) (d : Dom) (n : Nat) (rd : Bool) (a : Access) : LocalLook :=
  let nowhere : Ref := { blk := 0, fol := false, off := 0 }
  let mk := fun (c : Option (Cause × Word × Nat)) (r : Ref) =>
    ({ look := { acc := a, cause := c, dom := d, nres := false, spans := [] }, ref := r } : LocalLook)
  if !alignedTo a.va n then mk (some (.align, a.va, 0)) nowhere
  else match localRef s v sp a.va n with
    | none => mk (some (.perm, a.va, 0)) nowhere
    | some r => if rd && sp = .zbuf && zPoisoned s r n then mk (some (.batch, a.va, 0)) r else mk none r

/-- A local load is performed when it issues, once what a load of its domain waits for is acknowledged. -/
def localLoads (s : State) (v : View) (sp : Space) (d : Dom) (sc : Scope) (n : Nat) (acq : Bool) (cs : List LocalLook) :
    Option (State × List (Access × Option (List Byte))) :=
  cs.foldl (fun (o : Option (State × List (Access × Option (List Byte)))) c =>
    o.bind (fun st =>
      (beforeLoad st.1 v.core (v.agent c.look.acc) v.mask d d []).map (fun s1 =>
        (afterLoad s1 v.core (v.agent c.look.acc) v.mask { dom := d, enc := d, sc := sc } acq s1.now,
         st.2 ++ [(c.look.acc, some (localRead s1 sp c.ref n))])))) (some (s, []))

/-- A local store is performed when it issues, once what a store of its domain waits for is acknowledged. -/
def localStores (s : State) (v : View) (sp : Space) (d : Dom) (sc : Scope) (rls : Bool) (cs : List (LocalLook × List Byte)) : Option State :=
  cs.foldl (fun (o : Option State) c =>
    o.bind (fun s =>
      (beforeAtomic s v.core (v.agent c.1.look.acc) v.mask d d rls sc []).map (fun s =>
        noteDone (localWrite s sp c.1.ref c.2) (v.agent c.1.look.acc) d d))) (some s)

/-! ### Shapes -/

/-- Answers of loads as register writes; a page that RP reports as not resident gives zero and sets its predicate (R214). -/
def answerWrites (h : Hdr) (rp : BitVec 3) (z : Size) (out : List (Access × Option (List Byte))) : List RegWrite :=
  out.flatMap (fun x =>
    loadWrites x.1.lane h.d z (x.2.getD (toBytes (sizeBytes z) 0)) ++
    (if rp = 7 then [] else [match x.1.lane with | some l => RegWrite.p l rp.toNat x.2.isNone | none => RegWrite.q rp.toNat x.2.isNone]))

/-- A memory instruction of the executing agent: an ejected lane is recalled before the group-wide form (R215), and register
fields lie within the allocation (R35). -/
def memInstr (s : State) (h : Hdr) (regs : List (BitVec 8 × Nat)) (f : View → State) : Host.Outcome State Fault Refusal :=
  withView s (fun v =>
    if v.ej && h.u then startRecall s v.ag
    else if !v.within h.u regs then illegal s v
    else f v)

/-- Loads of glb (R213, R214, R216): an ejected lane without a slot for the result is recalled first (R306); checks of every lane, the accesses, and a
window for the results. -/
def loadGlb (s : State) (v : View) (h : Hdr) (d : Dom) (sc : Scope) (z : Size) (acq : Bool) (rp : BitVec 3) (as_ : List Access) : State :=
  let cs := as_.map (lookGlb s v d (sizeBytes z) false true false (rp != 7))
  if !as_.isEmpty && v.lacks h.d (sizeRegs z) then startRecall s v.ag
  else match lookedTrap v h sc false cs with
  | some t => takeTrap s v t
  | none =>
    match performLoads s v d sc acq h.d z cs with
    | none => stall s v .remote
    | some (s1, l) => finishWindow s1 v h (answerWrites h rp z l.out) 0 l.late

/-- Loads of a local space. -/
def loadLocal (s : State) (v : View) (h : Hdr) (sp : Space) (d : Dom) (sc : Scope) (z : Size) (acq : Bool) (as_ : List Access) : State :=
  let cs := as_.map (lookLocal s v sp d (sizeBytes z) true)
  if !as_.isEmpty && v.lacks h.d (sizeRegs z) then startRecall s v.ag
  else match lookedTrap v h sc false (cs.map (fun c => c.look)) with
  | some t => takeTrap s v t
  | none =>
    match localLoads s v sp d sc (sizeBytes z) acq cs with
    | none => stall s v .remote
    | some (s1, l) => finishLong s1 v h (answerWrites h 7 z l) 0

/-- Stores to glb (R213, R216, R217). -/
def storeGlb (s : State) (v : View) (h : Hdr) (d : Dom) (sc : Scope) (z : Size) (rls : Bool) (as_ : List Access) : State :=
  let cs := as_.map (lookGlb s v d (sizeBytes z) false false true false)
  match lookedTrap v h sc true cs with
  | some t => takeTrap s v t
  | none =>
    skip (performStores s v d sc rls (cs.map (fun c => (c, storeBytes v.r c.acc.lane h.d z)))) v 8

/-- Stores to a local space. -/
def storeLocal (s : State) (v : View) (h : Hdr) (sp : Space) (d : Dom) (sc : Scope) (z : Size) (rls : Bool) (as_ : List Access) : State :=
  let cs := as_.map (lookLocal s v sp d (sizeBytes z) false)
  match lookedTrap v h sc true (cs.map (fun c => c.look)) with
  | some t => takeTrap s v t
  | none =>
    match localStores s v sp d sc rls (cs.map (fun c => (c, storeBytes v.r c.look.acc.lane h.d z))) with
    | none => stall s v .remote
    | some s1 => skip s1 v 8

end Sys2Proof.Machine
end

