-- ==== Sys2Proof/Machine/Engine.lean ====
section
/-! DEFINITION. What the engines' queues share (spec/08_memory_instructions.md R232, R238, R240, R247, R248; spec/05_matrix.md
R131, R141, R142, R150, R152): guard slots, the heads of the queues, discarding, batches. -/

namespace Sys2Proof.Machine

open Sys2Proof

/-! ### Guard slots (R247) -/

/-- The state of a guard slot. -/
def Group.guard (g : Group) (n : Nat) : Guard := (tget g.guards n).getD .free

/-- Sets a guard slot; FREE slots are not listed. -/
def Group.setGuard (g : Group) (n : Nat) (x : Guard) : Group :=
  { g with guards := if x = .free then terase g.guards n else tset g.guards n x }

/-- A guarded command names a slot: none is a GUARD trap. -/
def Group.armGuard (g : Group) (n : Nat) : Option Group :=
  match g.guard n with
  | .free => some (g.setGuard n (.armed 1))
  | .armed k => some (g.setGuard n (.armed (k + 1)))
  | .resolved _ _ => none

/-- The value of a resolved slot; none while commands are held. -/
def guardValue (s : State) (b g n : Nat) : Option Bool :=
  match s.group? b g with
  | none => none
  | some x => match x.guard n with | .resolved v _ => some v | _ => none

/-- A command leaves its guard slot; the last one frees it. -/
def leaveGuard (s : State) (b g : Nat) (n : Option Nat) : State :=
  match n with
  | none => s
  | some n => s.mapGroup b g (fun x =>
      match x.guard n with
      | .resolved v k => x.setGuard n (if k ≤ 1 then .free else .resolved v (k - 1))
      | _ => x)

/-! ### Block-transfer queues (R232) -/

/-- A queue of the block-transfer engine of a core. -/
def btQueueOf (s : State) (core : Nat) (store : Bool) : List BtCmd := if store then (s.core core).bts else (s.core core).btl

/-- Replaces a queue. -/
def setBtQueue (s : State) (core : Nat) (store : Bool) (q : List BtCmd) : State :=
  s.mapCore core (fun c => if store then { c with bts := q } else { c with btl := q })

/-- Applies a function to a command of a queue. -/
def mapBt (s : State) (core : Nat) (store : Bool) (id : Nat) (f : BtCmd → BtCmd) : State :=
  setBtQueue s core store ((btQueueOf s core store).map (fun c => if c.id = id then f c else c))

/-- Removes a command from its queue. -/
def dropBt (s : State) (core : Nat) (store : Bool) (id : Nat) : State :=
  setBtQueue s core store ((btQueueOf s core store).filter (fun c => c.id != id))

/-- The head of a block in a queue: its oldest command that has not started, unless a stopped command holds it back. -/
def btHead (s : State) (core b : Nat) (store : Bool) : Option BtCmd :=
  let q := (btQueueOf s core store).filter (fun c => c.blk == b)
  if q.any (fun c => c.stopped || c.popWait.isSome) then none else q.find? (fun c => !c.started)

/-- The note of an update by a queue of the engine (R385, R393). -/
def btNote (s : State) (core : Nat) (store : Bool) : Note := (agentId s core (if store then 257 else 256), Ptr.none, s.now)

/-- A command subtracts sectors from its barrier (R240). -/
def btSubtract (s : State) (core : Nat) (store : Bool) (c : BtCmd) (n : Nat) : State :=
  tbUpdate (tbStamp s c.blk c.tb (some c.dom)) c.blk c.tb (btNote s core store) (tbSubtract n)

/-- A command leaves its queue and its guard. -/
def btLeave (s : State) (core : Nat) (store : Bool) (c : BtCmd) : State := leaveGuard (dropBt s core store c.id) c.blk c.grp (if c.started then none else c.guard)

/-- A discarded command subtracts its whole count at once (R240, R247). -/
def discardBt (s : State) (core : Nat) (store : Bool) (c : BtCmd) : State := btLeave (btSubtract s core store c c.owed) core store c

/-- At most `n` discards at the head of a queue. -/
def pumpBtN (s : State) (core b : Nat) (store : Bool) : Nat → State
  | 0 => s
  | n + 1 =>
    match btHead s core b store with
    | none => s
    | some c =>
      if (c.guard.bind (guardValue s c.blk c.grp)) = some false then pumpBtN (discardBt s core store c) core b store n else s

/-- Discards the commands of a block that have reached the head of a queue with a false guard (R247). -/
def pumpBt (s : State) (core b : Nat) (store : Bool) : State := pumpBtN s core b store (btQueueOf s core store).length

/-! ### The matrix stream (R131, R141, R142, R150, R152) -/

/-- The head of a group's stream: its oldest command that has not started. -/
def mtxHead (s : State) (core b g : Nat) : Option MCmd := (s.core core).mtx.find? (fun c => c.blk == b && c.grp == g && !c.started)

/-- Removes a command from the engine. -/
def dropMtx (s : State) (core id : Nat) : State := s.mapCore core (fun c => { c with mtx := c.mtx.filter (fun x => x.id != id) })

/-- A command of a group's batches has completed (R142). -/
def Group.batchDone (g : Group) (id : Nat) : Group :=
  { g with openB := g.openB.filter (fun x => x != id), closed := g.closed.map (fun b => { b with cmds := b.cmds.filter (fun x => x != id) }) }

/-- Retires the oldest closed batches whose commands are complete; the Chain notes each under the engine's id (R142, R393). -/
def retireBatches (s : State) (b g : Nat) : Nat → State
  | 0 => s
  | n + 1 =>
    match s.group? b g, tget s.blocks b with
    | some x, some bl =>
      match x.closed with
      | c :: rest =>
        if c.cmds.isEmpty then
          retireBatches (s.mapGroup b g (fun y =>
            { y with closed := rest, bnotes := tset y.bnotes c.num (agentId s bl.core 258, Ptr.none, s.now), zdone := y.zdone.filter (fun z => z.1 != c.num) })) b g n
        else s
      | [] => s
    | _, _ => s

/-- A command completes: it leaves the engine and its batch. -/
def completeCmd (s : State) (core : Nat) (c : MCmd) : State :=
  retireBatches ((dropMtx s core c.id).mapGroup c.blk c.grp (fun g => g.batchDone c.id)) c.blk c.grp 32

/-- A failed command marks its batch, the open one under none (R148, R150). Of two that fail the first to complete stands (DESIGN CHOICE, log 19:
R150 does not say which is the first). -/
def batchFailed (s : State) (c : MCmd) : State :=
  s.mapGroup c.blk c.grp (fun g =>
    let num : Option Nat := (g.closed.find? (fun b => b.cmds.contains c.id)).map (fun b => b.num)
    let age := match num with | some n => (g.bctr + 65536 - n) % 65536 | none => 0
    if g.bfails.any (fun f => f.num == num && f.age == age) then g
    else { g with bfails := g.bfails ++ [{ num := num, z := c.z, ecsn := ecsnWord c.ecsn, age := age }] })

/-- At most `n` markers and discards at the head of a group's stream. -/
def pumpMtxN (s : State) (core b g : Nat) : Nat → State
  | 0 => s
  | n + 1 =>
    match mtxHead s core b g with
    | none => s
    | some c =>
      if c.kind = .mrdy then pumpMtxN (dropMtx s core c.id) core b g n
      else if (c.guard.bind (guardValue s b g)) = some false then pumpMtxN (leaveGuard (completeCmd s core c) b g c.guard) core b g n
      else s

/-- Drops markers, and discards commands with a false guard, at the head of a group's stream (R152, R155). -/
def pumpMtx (s : State) (core b g : Nat) : State := pumpMtxN s core b g (s.core core).mtx.length

/-- Runs the heads of all queues of a group after a guard has resolved. -/
def pumpAll (s : State) (core b g : Nat) : State := pumpMtx (pumpBt (pumpBt s core b false) core b true) core b g

/-- Resolves one guard slot (R247). -/
def Group.resolve (g : Group) (n : Nat) (v : Bool) : Group :=
  match g.guard n with
  | .armed k => g.setGuard n (.resolved v k)
  | _ => g

/-- EXIT resolves every ARMED slot of the group as false (R248). -/
def resolveAll (s : State) (core b g : Nat) : State :=
  pumpAll (s.mapGroup b g (fun x => (List.range 8).foldl (fun x n => x.resolve n false) x)) core b g

/-- The BATCH trap of a failed batch (R150). -/
def batchTrap (f : BatchFail) (lanes : Mask) : Trap := { cause := .batch, lanes := lanes, addr := BitVec.ofNat 64 f.z, ecsn := f.ecsn }

/-- Removes a reported failure. -/
def Group.reported (g : Group) (f : BatchFail) : Group := { g with bfails := g.bfails.filter (fun x => x != f) }

/-- Raises BATCH and marks the failure reported (R150), once no window of the group awaits a remote answer. -/
def reportBatch (s : State) (v : View) (f : BatchFail) (lanes : Mask) : State :=
  if v.r.awaiting then stallWindows s v
  else takeTrap (s.mapGroup v.ag.blk v.ag.grp (fun g => g.reported f)) v (batchTrap f lanes)

/-- Lane mask and address of a REMOTE trap of a held RMST (R270). -/
def heldRemoteTrap (h : HeldRemote) : Trap :=
  { cause := .remote, lanes := maskOf (h.fails.map (fun f => f.lane)), addr := remoteAddr h.fails, ecsn := h.ecsn }

/-- The earliest failed RMST of a group of which every pass has been answered (R270). -/
def remHeldReady (s : State) (g : Group) (b gi : Nat) : Option HeldRemote :=
  g.remHeld.find? (fun h => !s.fab.recs.any (fun r => r.ag.blk == b && r.ag.grp == gi && r.instr == h.instr))

/-- Raises a held RMST's REMOTE at the boundary of the instruction at which the agent stands: the record names the RMST, RESUME
that instruction (R270). -/
def raiseRemHeld (s : State) (v : View) (h : HeldRemote) : State :=
  let s1 := { s with raised := some .remote }.mapGroup v.ag.blk v.ag.grp (fun g => { g with remHeld := g.remHeld.filter (fun x => x != h) })
  match v.ag.lane with
  | some _ => takeTrap { s1 with word := h.iword } { v with r := { v.r with pc := h.pc } } { heldRemoteTrap h with resume := some v.r.pc }
  | none =>
    if v.r.awaiting then stallWindows s v
    else deliverTrap (s1.mapRegs v.ag Regs.flush) v.ag.blk v.ag.grp (heldRemoteTrap h) h.pc h.iword v.r.pc s.vtime false false v.g.spent.isSome

end Sys2Proof.Machine
end

