-- ==== Sys2Proof/Machine/Memory.lean ====
section
/-! DEFINITION. The memory class (spec/08_memory_instructions.md R212 to R225, OP 0x80 to 0x9B), and the events of the store
queues, the SIV caches and the lookahead windows (spec/02_encoding.md R38; 06_domains.md R176, R427). -/

namespace Sys2Proof.Machine

open Sys2Proof

/-! ### Loads and stores (R216) -/

/-- Register bounds of an access with data of a SIZE (R21, R35). -/
def dataRegs (h : Hdr) (z : Size) : List (BitVec 8 × Nat) := [(h.d, sizeRegs z), (h.b, 1)]

/-- LD of a local space. -/
def ldLocal (sp : Space) (h : Hdr) (m : MemMod) (s : State) : Host.Outcome State Fault Refusal :=
  memInstr s h (dataRegs h m.size) (fun v => loadLocal s v h sp m.dom m.sc m.size (m.ord == .acq) (v.accesses h (sizeBytes m.size)))

/-- ST of a local space. -/
def stLocal (sp : Space) (h : Hdr) (m : MemMod) (s : State) : Host.Outcome State Fault Refusal :=
  memInstr s h (dataRegs h m.size) (fun v => storeLocal s v h sp m.dom m.sc m.size (m.ord == .rls) (v.accesses h (sizeBytes m.size)))

/-- The meaning of LD.glb. -/
def execLdGlb (h : Hdr) (m : MemMod) (s : State) : Host.Outcome State Fault Refusal :=
  memInstr s h (dataRegs h m.size) (fun v => loadGlb s v h m.dom m.sc m.size (m.ord == .acq) m.rp (v.accesses h (sizeBytes m.size)))

/-- The meaning of LD.loc. -/
def execLdLoc (h : Hdr) (m : MemMod) (s : State) : Host.Outcome State Fault Refusal := ldLocal .loc h m s

/-- The meaning of LD.nbr. -/
def execLdNbr (h : Hdr) (m : MemMod) (s : State) : Host.Outcome State Fault Refusal := ldLocal .nbr h m s

/-- The meaning of LD.abuf. -/
def execLdAbuf (h : Hdr) (m : MemMod) (s : State) : Host.Outcome State Fault Refusal := ldLocal .abuf h m s

/-- The meaning of LD.zbuf. -/
def execLdZbuf (h : Hdr) (m : MemMod) (s : State) : Host.Outcome State Fault Refusal := ldLocal .zbuf h m s

/-- The meaning of ST.glb. -/
def execStGlb (h : Hdr) (m : MemMod) (s : State) : Host.Outcome State Fault Refusal :=
  memInstr s h (dataRegs h m.size) (fun v => storeGlb s v h m.dom m.sc m.size (m.ord == .rls) (v.accesses h (sizeBytes m.size)))

/-- The meaning of ST.loc. -/
def execStLoc (h : Hdr) (m : MemMod) (s : State) : Host.Outcome State Fault Refusal := stLocal .loc h m s

/-- The meaning of ST.nbr. -/
def execStNbr (h : Hdr) (m : MemMod) (s : State) : Host.Outcome State Fault Refusal := stLocal .nbr h m s

/-- The meaning of ST.abuf. -/
def execStAbuf (h : Hdr) (m : MemMod) (s : State) : Host.Outcome State Fault Refusal := stLocal .abuf h m s

/-- The meaning of ST.zbuf. -/
def execStZbuf (h : Hdr) (m : MemMod) (s : State) : Host.Outcome State Fault Refusal := stLocal .zbuf h m s

/-! ### Gather and scatter (R218) -/

/-- Register bounds of GLD and GST. -/
def gatRegs (h : Hdr) (m : GatMod) : List (BitVec 8 × Nat) := [(h.d, sizeRegs m.size), (h.b, if m.iw then 2 else 1)]

/-- The accesses of GLD and GST (R51). -/
def gathers (v : View) (h : Hdr) (m : GatMod) : List Access := (v.active h).map (fun l => { lane := some l, va := gatherVa v h m l })

/-- The meaning of GLD.glb. -/
def execGldGlb (h : Hdr) (m : GatMod) (s : State) : Host.Outcome State Fault Refusal :=
  memInstr s h (gatRegs h m) (fun v => loadGlb s v h m.dom m.sc m.size false 7 (gathers v h m))

/-- The meaning of GLD.loc. -/
def execGldLoc (h : Hdr) (m : GatMod) (s : State) : Host.Outcome State Fault Refusal :=
  memInstr s h (gatRegs h m) (fun v => loadLocal s v h .loc m.dom m.sc m.size false (gathers v h m))

/-- The meaning of GST.glb. -/
def execGstGlb (h : Hdr) (m : GatMod) (s : State) : Host.Outcome State Fault Refusal :=
  memInstr s h (gatRegs h m) (fun v => storeGlb s v h m.dom m.sc m.size false (gathers v h m))

/-- The meaning of GST.loc. -/
def execGstLoc (h : Hdr) (m : GatMod) (s : State) : Host.Outcome State Fault Refusal :=
  memInstr s h (gatRegs h m) (fun v => storeLocal s v h .loc m.dom m.sc m.size false (gathers v h m))

/-! ### Atomics (R164, R219) -/

/-- Data registers of an atomic: one value, or comparand and new value for cas. -/
def atomRegs (z : Size) (op : AtOp) : Nat := (if op == .cas then 2 else 1) * (if z == .b8 then 2 else 1)

/-- Operand and comparand of an atomic. -/
def atomData (r : Regs) (lane : Option Nat) (d : BitVec 8) (z : Size) (op : AtOp) : Word × Word :=
  let w := 8 * sizeBytes z
  let one := match lane with | some _ => (if z == .b8 then 2 else 1) | none => 1
  let x := dataNum r lane d.toNat one % 2 ^ w
  if op == .cas then (BitVec.ofNat 64 (dataNum r lane (d.toNat + one) one % 2 ^ w), BitVec.ofNat 64 x) else (BitVec.ofNat 64 x, 0)

/-- The write of an agent with release order is noted for the Chain (R393). -/
def noteRelease (s : State) (v : View) (a : Access) (enc d : Dom) (rls : Bool) (sec stamp : Nat) : State :=
  if (rls && enc == .rel) || d == .tso || d == .seq then { s with notes := tset s.notes sec (noteOf s (v.agent a), stamp) } else s

/-- One atomic of glb at the place of R164: the old value. None while a remote access holds it back. -/
def atomOne (s : State) (v : View) (enc : Dom) (sc : Scope) (z : Size) (op : AtOp) (acq rls : Bool) (x cmp : Word) (c : Looked) : Option (State × Nat) :=
  match c.spans with
  | [] => some (s, 0)
  | sp :: _ =>
    let me := v.agent c.acc
    let s0 := touch s v.core v.ctx sp.page true
    (beforeAtomic s0 v.core me v.mask c.dom enc rls sc [secOf sp.pa]).map (fun s1 =>
      let s2 := dropOwnResv s1 v c.acc [secOf sp.pa]
      let own := writeStamp s2 v.core me v.mask c.dom enc rls
      let (s3, old, stamp) := coreAtomic s2 v.core { pa := sp.pa, wide := z == .b8, op := op, x := x, cmp := cmp, dom := c.dom } sp.page.kind sc own
        (some me)
      (afterLoad (noteDone (noteRelease s3 v c.acc enc c.dom rls (secOf sp.pa) own) me c.dom enc) v.core me v.mask { dom := c.dom, enc := enc, sc := sc } acq stamp,
       old))

/-- ATOM and RED of glb: the active lanes in ascending order (R219). -/
def atomicGlb (s : State) (v : View) (h : Hdr) (m : MemMod) (op : AtOp) (red : Bool) : State :=
  let acq : Bool := m.ord == .acq || m.ord == .ar
  let rls : Bool := m.ord == .rls || m.ord == .ar
  let cs := (v.accessesPlain h).map (lookGlb s v m.dom (sizeBytes m.size) true true true false)
  match lookedTrap v h m.sc true cs with
  | some t => takeTrap s v t
  | none =>
    let out := cs.foldl (fun (o : Option (State × List RegWrite)) c =>
      o.bind (fun st =>
        let (x, cmp) := atomData v.r c.acc.lane h.d m.size op
        (atomOne st.1 v m.dom m.sc m.size op acq rls x cmp c).map (fun r =>
          (r.1, st.2 ++ loadWrites c.acc.lane h.d m.size (toBytes (sizeBytes m.size) r.2))))) (some (s, []))
    match out with
    | none => stall s v .remote
    | some (s1, ws) => if red then skip s1 v 8 else finishLong s1 v h ws 0

/-- ATOM and RED of L-space, in the L-space bank. -/
def atomicLoc (s : State) (v : View) (h : Hdr) (m : MemMod) (op : AtOp) (red : Bool) : State :=
  let acq : Bool := m.ord == .acq || m.ord == .ar
  let rls : Bool := m.ord == .rls || m.ord == .ar
  let n := sizeBytes m.size
  let cs := (v.accessesPlain h).map (lookLocal s v .loc m.dom n true)
  match lookedTrap v h m.sc true (cs.map (fun c => c.look)) with
  | some t => takeTrap s v t
  | none =>
    let out := cs.foldl (fun (o : Option (State × List RegWrite)) c =>
      o.bind (fun st =>
        let (x, cmp) := atomData v.r c.look.acc.lane h.d m.size op
        let me := v.agent c.look.acc
        (beforeAtomic st.1 v.core me v.mask m.dom m.dom rls m.sc []).map (fun s1 =>
          let old := fromBytes (localRead s1 .loc c.ref n)
          let s2 := noteDone (localWrite s1 .loc c.ref (toBytes n (atomOp op (m.size == .b8) old x.toNat cmp.toNat))) me m.dom m.dom
          (afterLoad s2 v.core me v.mask { dom := m.dom, enc := m.dom, sc := m.sc } acq s2.now, st.2 ++ loadWrites c.look.acc.lane h.d m.size (toBytes n old))))) (some (s, []))
    match out with
    | none => stall s v .remote
    | some (s1, ws) => if red then skip s1 v 8 else finishLong s1 v h ws 0

/-- An atomic with the operation in C (R52). One that returns a value recalls an ejected lane that lacks a slot for it before anything is done
(R306). -/
def atomInstr (s : State) (h : Hdr) (m : MemMod) (red : Bool) (f : View → AtOp → State) : Host.Outcome State Fault Refusal :=
  withView s (fun v =>
    match atOpOf h.c.toNat with
    | none => illegal s v
    | some op =>
      if v.ej && h.u then startRecall s v.ag
      else if !v.within h.u [(h.d, atomRegs m.size op), (h.b, 1)] then illegal s v
      else if !red && !(v.places h).isEmpty && v.lacks h.d (sizeRegs m.size) then startRecall s v.ag
      else f v op)

/-- The meaning of ATOM.glb. -/
def execAtomGlb (h : Hdr) (m : MemMod) (s : State) : Host.Outcome State Fault Refusal := atomInstr s h m false (fun v op => atomicGlb s v h m op false)

/-- The meaning of ATOM.loc. -/
def execAtomLoc (h : Hdr) (m : MemMod) (s : State) : Host.Outcome State Fault Refusal := atomInstr s h m false (fun v op => atomicLoc s v h m op false)

/-- The meaning of RED.glb. -/
def execRedGlb (h : Hdr) (m : MemMod) (s : State) : Host.Outcome State Fault Refusal := atomInstr s h m true (fun v op => atomicGlb s v h m op true)

/-- The meaning of RED.loc. -/
def execRedLoc (h : Hdr) (m : MemMod) (s : State) : Host.Outcome State Fault Refusal := atomInstr s h m true (fun v op => atomicLoc s v h m op true)

/-! ### Reservations (R220) -/

/-- The scope at which LR and SC execute: on SIV pages at the home (R220). -/
def lrscScope (mode : Cm) (sc : Scope) : Scope := if mode = .siv && decide (scopeIdx sc < 3) then .dev else sc

/-- LR of one lane: the value, and the lane's reservation. -/
def lrOne (s : State) (v : View) (m : MemMod) (c : Looked) : Option (State × List Byte) :=
  match c.spans, c.acc.lane with
  | sp :: _, some lane =>
    let me := v.agent c.acc
    (if hostWaits s [secOf sp.pa] then none else beforeLoad s v.core me v.mask c.dom m.dom [secOf sp.pa]).map (fun s1 =>
      let k := sp.page.kind
      let s2 := touch s1 v.core v.ctx sp.page false
      let l : LoadAs := { dom := c.dom, enc := m.dom, sc := lrscScope k.cm m.sc }
      let (s3, d, stamp) := placeRead (dropAhead s2 me [secOf sp.pa]) v.core (secOf sp.pa) k l
      let d1 := forwarded (foundStores s3 v.core me v.mask s3.ids (secOf sp.pa)) d
      let s4 := afterLoad s3 v.core me v.mask l (m.ord == .acq) stamp
      let rv : Resv := { lane := lane, va := c.acc.va, size := m.size, sec := secOf sp.pa }
      (s4.mapGroup v.ag.blk v.ag.grp (fun g => { g with resv := g.resv.filter (fun r => r.lane != lane) ++ [rv] }),
       toBytes (sizeBytes m.size) (secNum d1 (sp.pa % 32) (sizeBytes m.size))))
  | _, _ => some (s, [])

/-- The meaning of LR. -/
def execLr (h : Hdr) (m : MemMod) (s : State) : Host.Outcome State Fault Refusal :=
  memInstr s h (dataRegs h m.size) (fun v =>
    if !(v.places h).isEmpty && v.lacks h.d (sizeRegs m.size) then startRecall s v.ag else
    let cs := (v.accesses h (sizeBytes m.size)).map (lookGlb s v m.dom (sizeBytes m.size) true true false false)
    match lookedTrap v h m.sc false cs with
    | some t => takeTrap s v t
    | none =>
      let out := cs.foldl (fun (o : Option (State × List RegWrite)) c =>
        o.bind (fun st => (lrOne st.1 v m c).map (fun r => (r.1, st.2 ++ loadWrites c.acc.lane h.d m.size r.2)))) (some (s, []))
      match out with
      | none => stall s v .remote
      | some (s1, ws) => finishLong s1 v h ws 0)

/-- Does a lane hold the reservation that its SC needs? -/
def holdsResv (s : State) (v : View) (l : Nat) (va : Word) (z : Size) : Bool :=
  match s.group? v.ag.blk v.ag.grp with
  | none => false
  | some g => g.resv.any (fun r => r.lane == l && r.va == va && r.size == z)

/-- SC of one lane: whether it stored. The lane's reservation goes either way. What must be performed before its store may clear the reservation still. -/
def scOne (s : State) (v : View) (h : Hdr) (m : MemMod) (c : Looked) : Option (State × Bool) :=
  match c.spans, c.acc.lane with
  | sp :: _, some l =>
    let drop := fun (s : State) => s.mapGroup v.ag.blk v.ag.grp (fun g => { g with resv := g.resv.filter (fun r => r.lane != l) })
    let rls : Bool := m.ord == .rls
    let sc := lrscScope (pteCm sp.page.pte) m.sc
    if !holdsResv s v l c.acc.va m.size then some (drop s, false)
    else (beforeAtomic s v.core (v.agent c.acc) v.mask c.dom m.dom rls sc [secOf sp.pa]).bind (fun s1 =>
      if !holdsResv s1 v l c.acc.va m.size then some (drop s1, false)
      else
        let x := (atomData v.r (some l) h.d m.size .exch).1
        (atomOne s1 v m.dom sc m.size .exch false rls x 0 c).map (fun r => (drop r.1, true)))
  | _, _ => some (s, false)

/-- The meaning of SC: 0 or 1 goes to the register after the data (R49). -/
def execSc (h : Hdr) (m : MemMod) (s : State) : Host.Outcome State Fault Refusal :=
  memInstr s h [(h.d, sizeRegs m.size + 1), (h.b, 1)] (fun v =>
    if !(v.places h).isEmpty && v.lacks (h.d + BitVec.ofNat 8 (sizeRegs m.size)) 1 then startRecall s v.ag else
    let cs := (v.accesses h (sizeBytes m.size)).map (lookGlb s v m.dom (sizeBytes m.size) true false true false)
    match lookedTrap v h m.sc true cs with
    | some t => takeTrap s v t
    | none =>
      let out := cs.foldl (fun (o : Option (State × List RegWrite)) c =>
        o.bind (fun st => (scOne st.1 v h m c).map (fun r =>
          (r.1, st.2 ++ [.v (c.acc.lane.getD 0) (h.d.toNat + sizeRegs m.size) (if r.2 then 0 else 1)])))) (some (s, []))
      match out with
      | none => stall s v .remote
      | some (s1, ws) => finishLong s1 v h ws 0)

/-! ### Scaled blocks (R221) -/

/-- A unit of MXLD or MXST: its number, active lanes, code address, scale address and whether its alignment holds. -/
structure MxUnit where
  b     : Nat
  lanes : List Nat
  u     : Word
  sc    : Word
  ok    : Bool
deriving DecidableEq, Repr

/-- The units that have an active lane. -/
def mxUnits (v : View) (h : Hdr) : List MxUnit :=
  let ka := v.r.kget h.a.toNat
  let kb := v.r.kget (h.a.toNat + 1)
  let act := (v.active h).map (fun l => (l, effective v { h with c := 0 } 1 (some l)))
  (List.range 8).filterMap (fun b =>
    match act.filter (fun x => x.1 / 8 == b) with
    | [] => none
    | (l0, e0) :: rest =>
      let ls := (l0, e0) :: rest
      let u := e0 - BitVec.ofNat 64 (4 * (l0 - 8 * b))
      some { b := b, lanes := ls.map Prod.fst, u := u, sc := kb + 2 * BitVec.ofInt 64 ((u - ka).toInt / 32),
             ok := alignedTo u 32 && alignedTo ka 32 && alignedTo kb 2 && ls.all (fun x => x.2 == u + BitVec.ofNat 64 (4 * (x.1 - 8 * b))) })

/-- The checks of a unit: its codes and its scale word, the worse cause of the two, reported for every active lane. -/
def lookUnit (v : View) (h : Hdr) (look : Nat → Access → LocalLook) (x : MxUnit) : MxUnit × LocalLook × LocalLook × List Looked :=
  let a : Access := { lane := x.lanes.head?, va := x.u }
  let c := look 32 a
  let t := look 2 { a with va := x.sc }
  let worse := match c.look.cause, t.look.cause with
    | none, y => y
    | y, none => y
    | some y, some z => if causeCode z.1 < causeCode y.1 then some z else some y
  let cause : Option (Cause × Word × Nat) := match worse with
    | some (.watch, va, n) => some (.watch, va, n)
    | y => if x.ok then y else some (.align, effective v { h with c := 0 } 1 x.lanes.head?, 0)
  (x, c, t, x.lanes.map (fun l => { c.look with acc := { lane := some l, va := x.u }, cause := cause }))

/-- A glb check in the form of a local one. -/
def glbLook (s : State) (v : View) (d : Dom) (rd wr rp : Bool) (n : Nat) (a : Access) : LocalLook :=
  { look := lookGlb s v d n false rd wr rp a, ref := { blk := 0, fol := false, off := 0 } }

/-- Register writes of a loaded unit. -/
def mxWrites (h : Hdr) (x : MxUnit) (codes : List Byte) (s0 s1 : Byte) : List RegWrite :=
  x.lanes.map (fun l => .v l h.d.toNat (BitVec.ofNat 32 (fromBytes ((codes.drop (4 * (l - 8 * x.b))).take 4)))) ++
  [.v (8 * x.b) h.c.toNat (s0.setWidth 32), .v (8 * x.b + 4) h.c.toNat (s1.setWidth 32)]

/-- MXLD: `read` gives the codes and the scale bytes of a unit, or none of them where RP reports it as not resident, and the name of the load when it is
performed later; nothing while a remote access or the host link holds it back. The group waits while a transfer is between the parts of a unit in the space
`sp`, glb under none (R184). -/
def mxLoad (s : State) (v : View) (h : Hdr) (m : MemMod) (sp : Option Space) (look : Nat → Access → LocalLook)
    (read : State → MxUnit → LocalLook → LocalLook → Option (State × Option (List Byte × List Byte) × List Nat)) : State :=
  let us := (mxUnits v h).map (lookUnit v h look)
  match lookedTrap v h m.sc false (us.flatMap (fun x => x.2.2.2)) with
  | some t => takeTrap s v t
  | none =>
    if us.any (fun x => partUnit s v.ag.blk v.ctx sp x.1.u.toNat 32 x.1.sc.toNat 2) then stallOn s v .transfer [] else
    let out := us.foldl (fun (o : Option (State × List RegWrite × List Nat)) x =>
      o.bind (fun st =>
        (read st.1 x.1 x.2.1 x.2.2.1).map (fun y =>
          let (codes, sb) := y.2.1.getD ([], [])
          (y.1, st.2.1 ++ mxWrites h x.1 codes (sb.getD 0 0) (sb.getD 1 0) ++
            (if m.rp = 7 then [] else x.1.lanes.map (fun l => .p l m.rp.toNat y.2.1.isNone)), st.2.2 ++ y.2.2)))) (some (s, [], []))
    match out with
    | none => stall s v .remote
    | some (s1, ws, ids) => finishWindow s1 v h ws 0 ids

/-- The bytes that MXST writes of a unit: the codes of its active lanes as one run of 32 with its mask, and two scale bytes. -/
def mxStoreBytes (v : View) (h : Hdr) (x : MxUnit) : BitVec 256 × BitVec 32 × List Byte :=
  let parts := x.lanes.map (fun l => (4 * (l - 8 * x.b), toBytes 4 (v.r.vget l h.d.toNat).toNat))
  (parts.foldl (fun d p => d ||| placeBytes p.1 p.2) 0, parts.foldl (fun k p => k ||| spanMask p.1 4) 0,
   [(v.r.vget (8 * x.b) h.c.toNat).setWidth 8, (v.r.vget (8 * x.b + 4) h.c.toNat).setWidth 8])

/-- MXST: `write` writes each unit as one write, or nothing while it is held back. -/
def mxStore (s : State) (v : View) (h : Hdr) (m : MemMod) (look : Nat → Access → LocalLook)
    (write : State → MxUnit → LocalLook → LocalLook → Option State) : State :=
  let us := (mxUnits v h).map (lookUnit v h look)
  match lookedTrap v h m.sc true (us.flatMap (fun x => x.2.2.2)) with
  | some t => takeTrap s v t
  | none =>
    match us.foldl (fun (o : Option State) x => o.bind (fun s => write s x.1 x.2.1 x.2.2.1)) (some s) with
    | none => stall s v .remote
    | some s1 => skip s1 v 8

/-- Register bounds of MXLD and MXST. -/
def mxRegs (h : Hdr) : List (BitVec 8 × Nat) := [(h.d, 1), (h.b, 1), (h.c, 1)]

/-- The parts of a unit of glb: sector, offset, bytes and page of its codes and of its scale. -/
def mxParts (c t : LocalLook) : Option ((Nat × Nat × Nat × PageKind) × (Nat × Nat × Nat × PageKind)) :=
  match c.look.spans, t.look.spans with
  | sp :: _, st :: _ => some ((secOf sp.pa, sp.pa % 32, 32, sp.page.kind), (secOf st.pa, st.pa % 32, 2, st.page.kind))
  | _, _ => none

/-- The stores to these sectors that precede the loads of some lanes or are observed by them: a unit is read once they are performed (R162, R163). -/
def storesBefore (s : State) (core : Nat) (mes : List AgentRef) (mask : Mask) (secs : List Nat) : List Nat :=
  mes.flatMap (fun me => ((ownStores s core me mask ++ seenStores s me).filter (fun e => secs.contains e.sec)).map (fun e => e.id))

/-- What stands before the load of a unit is performed: for each lane, in the domain of each part. -/
def beforeUnit (s : State) (core : Nat) (mes : List AgentRef) (mask : Mask) (ds : List Dom) (enc : Dom) (secs : List Nat) : Option State :=
  ds.foldl (fun (o : Option State) d => mes.foldl (fun (o : Option State) me => o.bind (fun s => beforeLoad s core me mask d enc secs)) o)
    (drain s (storesBefore s core mes mask secs))

/-- A unit of glb is read as one access (R162): as it was read ahead, or now, or it is noted to be performed later (R165). Each part is ordered in the
effective domain of its page (R181). -/
def mxReadGlb (v : View) (h : Hdr) (m : MemMod) (s : State) (x : MxUnit) (c t : LocalLook) : Option (State × Option (List Byte × List Byte) × List Nat) :=
  match (if c.look.nres || t.look.nres then none else mxParts c t) with
  | none => some (s, none, [])
  | some (a, b) =>
    let secs := [a.1, b.1]
    let mes := x.lanes.map v.lane
    let acq : Bool := m.ord == .acq
    let lc : LoadAs := { dom := c.look.dom, enc := m.dom, sc := m.sc }
    let lt : LoadAs := { lc with dom := t.look.dom }
    let s0 := touchAll s v.core v.ctx (c.look.spans ++ t.look.spans) false
    let give := fun (s : State) (d e : BitVec 256 × Nat) =>
      let s1 := mes.foldl (fun s me => afterLoad (afterLoad (dropAhead s me secs) v.core me v.mask lc acq d.2) v.core me v.mask lt acq e.2) s
      (s1, some (toBytes 32 (secNum d.1 0 32), toBytes 2 (secNum e.1 b.2.1 2)), ([] : List Nat))
    if hostWaits s secs then none
    else if mes.any (isLater s) && lc.dom == lt.dom then
      let dest := x.lanes.map (fun l => (RegWrite.v l h.d.toNat 0, 4 * (l - 8 * x.b), 4)) ++ [(.v (8 * x.b) h.c.toNat 0, 32, 1), (.v (8 * x.b + 4) h.c.toNat 0, 33, 1)]
      let (s1, id) := deferLoad s0 v.core v.whole mes v.mask lc acq (some (x.u, x.sc)) [a, b] (storesBefore s v.core mes v.mask secs) dest
      some (s1, some ([], []), [id])
    else match aheadUnit s v.core v.whole a.1 b.1 lc lt with
      | some (p, q) => some (give s0 (p.data, p.stamp) (q.data, q.stamp))
      | none => (beforeUnit s0 v.core mes v.mask [lc.dom, lt.dom].eraseDups m.dom secs).map (fun s1 =>
          let (s2, ds) := unitRead s1 v.core [(a.1, a.2.2.2), (b.1, b.2.2.2)] { lc with dom := domMax lc.dom lt.dom }
          give s2 (ds.getD 0 (0, 0)) (ds.getD 1 (0, 0)))

/-- A unit of glb is written as one write, which takes its place in the queue (R162, R176). -/
def mxWriteGlb (v : View) (h : Hdr) (m : MemMod) (s : State) (x : MxUnit) (c t : LocalLook) : Option State :=
  match mxParts c t with
  | none => some s
  | some (a, b) =>
    let (d, k, sb) := mxStoreBytes v h x
    let s1 := touchAll s v.core v.ctx (c.look.spans ++ t.look.spans) true
    let s2 := x.lanes.foldl (fun s l => dropOwnResv s v { lane := some l, va := 0 } [a.1, b.1]) s1
    let parts : List UnitPart := [{ w := { sec := a.1, data := d, mask := k, dom := c.look.dom }, kind := a.2.2.2 },
      { w := { sec := b.1, data := placeBytes b.2.1 sb, mask := spanMask b.2.1 2, dom := t.look.dom }, kind := b.2.2.2 }]
    some (storeUnit s2 v.core (x.lanes.map v.lane) v.mask parts m.dom m.sc (m.ord == .rls) (x.u, x.sc))

/-- The meaning of MXLD.glb. -/
def execMxldGlb (h : Hdr) (m : MemMod) (s : State) : Host.Outcome State Fault Refusal :=
  collective s (fun v =>
    if !v.within false (mxRegs h) then illegal s v
    else mxLoad s v h m none (glbLook s v m.dom true false (m.rp != 7)) (mxReadGlb v h m))

/-- The meaning of MXST.glb. -/
def execMxstGlb (h : Hdr) (m : MemMod) (s : State) : Host.Outcome State Fault Refusal :=
  collective s (fun v =>
    if !v.within false (mxRegs h) then illegal s v
    else mxStore s v h m (glbLook s v m.dom false true false) (mxWriteGlb v h m))

/-- The meaning of MXLD.loc. -/
def execMxldLoc (h : Hdr) (m : MemMod) (s : State) : Host.Outcome State Fault Refusal :=
  collective s (fun v =>
    if !v.within false (mxRegs h) then illegal s v
    else mxLoad s v h m (some .loc) (fun n a => lookLocal s v .loc m.dom n true a)
      (fun s x c t => (beforeUnit s v.core (x.lanes.map v.lane) v.mask [m.dom] m.dom []).map (fun s =>
        (x.lanes.foldl (fun s l => afterLoad s v.core (v.lane l) v.mask { dom := m.dom, enc := m.dom, sc := m.sc } (m.ord == .acq) s.now) s,
         some (localRead s .loc c.ref 32, localRead s .loc t.ref 2), []))))

/-- A unit of L-space is written at once, when what its lanes' stores wait for is acknowledged and no transfer is between its parts (R162, R184). -/
def mxWriteLoc (v : View) (h : Hdr) (m : MemMod) (s : State) (x : MxUnit) (c t : LocalLook) : Option State :=
  let split := fun (f : State → Nat → Nat → Option Space → Nat → Nat → Nat → Nat → Bool) => f s v.ag.blk v.ctx (some .loc) x.u.toNat 32 x.sc.toNat 2
  if split partUnit || split partCopy then none
  else
    (x.lanes.foldl (fun (o : Option State) l => o.bind (fun s => beforeAtomic s v.core (v.lane l) v.mask m.dom m.dom (m.ord == .rls) m.sc [])) (some s)).map (fun s =>
      let s1 := x.lanes.foldl (fun s l =>
        noteDone (localWrite s .loc { c.ref with off := c.ref.off + 4 * (l - 8 * x.b) } (toBytes 4 (v.r.vget l h.d.toNat).toNat)) (v.lane l) m.dom m.dom) s
      localWrite s1 .loc t.ref (mxStoreBytes v h x).2.2)

/-- The meaning of MXST.loc. -/
def execMxstLoc (h : Hdr) (m : MemMod) (s : State) : Host.Outcome State Fault Refusal :=
  collective s (fun v =>
    if !v.within false (mxRegs h) then illegal s v
    else mxStore s v h m (fun n a => lookLocal s v .loc m.dom n false a) (mxWriteLoc v h m))

/-! ### Residency and cache control (R222 to R225) -/

/-- Is the page of an address valid and readable, with RES set, for a context (R222)? -/
def probeVa (s : State) (v : View) (va : Word) : Bool :=
  match lookup s v.core v.ctx va with
  | none => false
  | some p => (frameCause s v.ctx p va 1).isNone && pteRd p.pte && pteRes p.pte

/-- The meaning of PROBE. -/
def execProbe (h : Hdr) (_m : MemMod) (s : State) : Host.Outcome State Fault Refusal :=
  memInstr s h [(h.b, 1)] (fun v =>
    finishLong s v h ((v.accesses h 1).map (fun a => writePred a.lane h.d (probeVa s v a.va))) 0)

/-- The meaning of PGIN. -/
def execPgin (h : Hdr) (_m : MemMod) (s : State) : Host.Outcome State Fault Refusal :=
  groupWide s h 8 (fun v =>
    let va := effective v h 1 none
    match translate s v.core v.ctx va with
    | .inl k => takeTrap s v { cause := k, lanes := v.mask, addr := va }
    | .inr p => skip (if pteRes p.pte then s else postPop s v.ctx va 2) v 8)

/-- Sectors of the 128-byte line that holds a physical address. -/
def lineSecs (pa : Nat) : List Nat := [pa / 128 * 4, pa / 128 * 4 + 1, pa / 128 * 4 + 2, pa / 128 * 4 + 3]

/-- A hint brings a line into L1, or into the cluster cache only (R224). -/
def prefetch (s : State) (core : Nat) (k : PageKind) (pa : Nat) (na : Bool) : State :=
  trimCore ((lineSecs pa).foldl (fun s sec =>
    match k.cm with
    | .unc => s
    | .trk => if na then ccEnsure s (clusterOf core) k.tag sec .bulk false 0 else trkFill s core k.tag sec .bulk 0
    | .siv => if na then (sivFromCc s (clusterOf core) sec 0).1 else (sivRead s core sec { dom := .bulk, enc := .bulk, sc := .grp }).1) s) core

/-- The meaning of PFCH: dropped on any translation fault. -/
def execPfch (h : Hdr) (m : MemMod) (s : State) : Host.Outcome State Fault Refusal :=
  memInstr s h [(h.b, 1)] (fun v =>
    let s1 := (v.accesses h 1).foldl (fun s a =>
      if probeVa s v a.va then
        match lookup s v.core v.ctx a.va with
        | some p => if !p.resident s a.va then s else prefetch (touch s v.core v.ctx p false) v.core p.kind (p.pa a.va) m.na
        | none => s
      else s) s
    skip s1 v 8)

/-- Writes back and drops a line: from the core's caches, and for dev and sys from the cluster cache too (R225). -/
def wbinvLine (s : State) (core : Nat) (wide : Bool) (pa : Nat) : State :=
  let s1 := (evictLine s (.l1 core) (pa / 128)).mapCore core (fun c => { c with code := c.code.filter (fun e => e.1 != pa / 128) })
  if wide then evictLine s1 (.cc (clusterOf core)) (pa / 128) else s1

/-- The meaning of WBINV. -/
def execWbinv (h : Hdr) (m : MemMod) (s : State) : Host.Outcome State Fault Refusal :=
  groupWide s h 8 (fun v =>
    let va := effective v h 1 none
    match translate s v.core v.ctx va with
    | .inl k => takeTrap s v { cause := k, lanes := v.mask, addr := va, acc := some (m.dom, m.sc) }
    | .inr p =>
      match frameCause s v.ctx p va 1 with
      | some c => takeTrap s v { cause := c, lanes := v.mask, addr := va, acc := some (m.dom, m.sc) }
      | none =>
        if !pteRd p.pte then takeTrap s v { cause := .perm, lanes := v.mask, addr := va, acc := some (m.dom, m.sc) }
        else
          match drain s (openIds s v.core v.whole v.mask m.dom) with
          | none => stall s v .remote
          | some s1 =>
            let wide : Bool := m.sc != .cls
            let s2 := if pteCm p.pte = .unc then s1 else wbinvLine s1 v.core wide (p.pa va)
            skip s2 v 8)

/-! ### Events -/

/-- LONG_LATENCY_WRITEBACK (R38, R39): the window at place `i` of an agent, used up and answered, writes its destinations. -/
def longLatencyWritebackEvent (ag : AgentRef) (i : Nat) (s : State) : Option State :=
  match (viewOf s ag).bind (fun v => v.r.pend[i]?) with
  | some p =>
    if p.left = 0 ∧ p.await = [] ∧ p.fails = [] then
      some (s.mapRegs ag (fun r => { (r.writes p.writes) with pend := r.pend.eraseIdx i }))
    else none
  | none => none

/-- The meaning: the event, or nothing where it does not occur. -/
def execLongLatencyWriteback (ag : AgentRef) (i : Nat) (s : State) : Host.Outcome State Fault Refusal := happen s (longLatencyWritebackEvent ag i s)

/-- STORE_ACKNOWLEDGEMENT (R176, R177, R178): the store at place `i` of a queue becomes visible. -/
def storeAcknowledgementEvent (core : Nat) (dom : Dom) (i : Nat) (s : State) : Option State :=
  match ((s.core core).sq.filter (fun e => e.dom == dom))[i]? with
  | some e => if ackReady s core e then some (ackEntry s core e) else none
  | none => none

/-- The meaning: the event, or nothing where it does not occur. -/
def execStoreAcknowledgement (core : Nat) (dom : Dom) (i : Nat) (s : State) : Host.Outcome State Fault Refusal := happen s (storeAcknowledgementEvent core dom i s)

/-- BULK_COMBINING_TIMEOUT (R427): a BULK store that has waited 1,024 cycles leaves its queue. -/
def bulkCombiningTimeoutEvent (core : Nat) (i : Nat) (s : State) : Option State :=
  match ((s.core core).sq.filter (fun e => e.dom == .bulk))[i]? with
  | some e =>
    if e.vt + Config.bulkWait ≤ s.now ∧ ackReady s core e = true then some (ackEntry s core e) else none
  | none => none

/-- The meaning: the event, or nothing where it does not occur. -/
def execBulkCombiningTimeout (core : Nat) (i : Nat) (s : State) : Host.Outcome State Fault Refusal := happen s (bulkCombiningTimeoutEvent core i s)

/-- SIV_LINE_AGE_OUT (R427): an SIV line held for 65,536 cycles is written back if dirty, and no longer served. -/
def sivLineAgeOutEvent (cache : CacheRef) (sec : Nat) (s : State) : Option State :=
  match cacheGet s cache sec with
  | some x => if x.mode = .siv ∧ x.fetched + Config.sivAge ≤ s.now then some (sivLeave s cache x.sec) else none
  | none => none

/-- The meaning: the event, or nothing where it does not occur. -/
def execSivLineAgeOut (cache : CacheRef) (sec : Nat) (s : State) : Host.Outcome State Fault Refusal := happen s (sivLineAgeOutEvent cache sec s)

end Sys2Proof.Machine
end

