-- ==== Sys2Proof/Machine/Port.lean ====
section
/-! DEFINITION. The fabric port (spec/09_fabric.md R251 to R263): which fibre reaches which peer, flits and their bytes, packets, send
storage, the service of arriving items at this device's windows, and answers. -/

namespace Sys2Proof.Machine

open Sys2Proof

/-! ### The schedule (R252, R253) -/

/-- Slots of a rotation. -/
def Fabric.slotCount (f : Fabric) : Nat := f.nslot + 1

/-- Cycles of a rotation. -/
def Fabric.rotation (f : Fabric) : Nat := f.slotCount * f.slotlen

/-- Absolute number of the current slot; none before T0. -/
def Fabric.slotAt (f : Fabric) (t : Nat) : Option Nat := if t < f.t0 then none else some ((t - f.t0) / max 1 f.slotlen)

/-- Cycles since the current slot began. -/
def Fabric.slotPos (f : Fabric) (t : Nat) : Nat := (t - f.t0) % max 1 f.slotlen

/-- The peer that a fibre reaches in a slot (R253): valid, present, and not silent or mismatched in the current slot. -/
def Fabric.peerOf (f : Fabric) (slot fib : Nat) : Option Nat :=
  let x := sget f.slots (48 * slot + fib)
  if x.getLsbD 15 && !f.absent.contains fib then some (x.toNat % 1024) else none

/-- Does a valid fibre field of a slot in use name a peer? -/
def Fabric.direct (f : Fabric) (p : Nat) : Bool :=
  f.slots.any (fun e => e.1 / 48 < f.slotCount && e.2.getLsbD 15 && e.2.toNat % 1024 == p && !f.absent.contains (e.1 % 48))

/-- The relay of a destination's ordered traffic; none goes direct (R253). -/
def Fabric.relay (f : Fabric) (p : Nat) : Option Nat :=
  let x := sget f.routes p
  if x.getLsbD 15 then none else some (x.toNat % 1024)

/-- Is the port disabled: no fibre works (R420)? -/
def Fabric.disabled (f : Fabric) : Bool := (List.range Config.fibres).all (fun fib => f.absent.contains fib)

/-- Is a peer reachable (R252, R253, R420)? The device's own number is, unless the port is disabled. A fibre that is silent counts as V = 0 for that slot only, so the peer is
still named by the table (DEDUCED, log 11). -/
def reachable (s : State) (p : Nat) : Bool :=
  !s.fab.disabled && (p == s.mgmt.device ||
  (s.fab.loaded && (s.fab.direct p || (match s.fab.relay p with | some r => s.fab.direct r | none => false))))

/-- The index of the slot that has started. -/
def Fabric.slotIdx (f : Fabric) : Nat := (f.slotNow - 1) % f.slotCount

/-- The list of a fibre in a table of lists. -/
def fibreList {α : Type} (t : Table (List α)) (k : Nat) : List α := (tget t k).getD []

/-- Has a fibre carried nothing to this device although its peer has been sending since the slot began (R253)? A peer sends idle flits at least, so
the first flit is due after the flight time; the model allows 210 cycles more (DESIGN CHOICE, log 11). -/
def Fabric.silent (f : Fabric) (t fib : Nat) : Bool := !f.heard.contains fib && decide (f.flights.getD fib 0 + 210 ≤ f.slotPos t)

/-- Does a fibre count as V = 0 in the slot in progress (R253)? -/
def Fabric.deaf (f : Fabric) (t fib : Nat) : Bool := f.dead.contains fib || f.silent t fib

/-- The peer of a fibre in the slot in progress: a fibre with a wrong or silent peer counts as V = 0 (R253). -/
def Fabric.livePeer (f : Fabric) (t fib : Nat) : Option Nat := if f.deaf t fib then none else f.peerOf f.slotIdx fib

/-! ### Flits as bytes (R256, R257) -/

/-- NET of R256. -/
def netCode : Net → Nat
  | .dom d => domIdx d | .fwd => 5 | .rsp => 6 | .idle => 7

/-- OPC of R256. -/
def opcCode : FOp → Nat
  | .idle => 0 | .load => 1 | .store => 2 | .atomic => 3 | .put => 4 | .btRead => 5 | .btWrite => 6 | .data => 7 | .ack => 8 | .pull => 9
  | .resend => 10 | .error => 11 | .reserved n => 12 + n.toNat

/-- Is an OPC reserved? -/
def opcReserved : FOp → Bool
  | .reserved _ => true
  | _ => false

/-- A bit at a place of a number. -/
def bitAt (b : Bool) (n : Nat) : Nat := if b then 2 ^ n else 0

/-- The header of a flit, its CRC field zero (R256). -/
def flitHeader (f : Flit) : Nat :=
  bitAt f.lst 80 + bitAt f.fst 81 + bitAt f.hp 82 + bitAt f.mark 83 + bitAt f.tr 84 + opcCode f.opc * 2 ^ 85 + netCode f.net * 2 ^ 89 +
  f.dst % 2 ^ 10 * 2 ^ 92 + f.src % 2 ^ 10 * 2 ^ 102 + f.seq % 2 ^ 32 * 2 ^ 112 +
  ((List.zip (List.range 7) f.cr).map (fun e => e.2 % 2 ^ 16 * 2 ^ (16 * e.1 + 144))).sum

/-- The prologue of a packet (R257). -/
def prologueBytes (f : Flit) : List Byte :=
  toBytes 4 f.agent ++ toBytes 8 f.chain ++ toBytes 2 f.win ++ toBytes 2 f.key ++ toBytes 2 (f.ten % 16) ++ toBytes 2 f.nitems ++ toBytes 2 f.nflits ++
  List.replicate 10 0

/-- Bytes that an item takes in a flit: its descriptor, and its data padded to 8 bytes. -/
def itemBytes (i : Item) : Nat := 8 + (i.data.length + 7) / 8 * 8

/-- The descriptor of an item (R257); the operation code stands in it for an atomic only. -/
def itemDescriptor (at_ : Bool) (i : Item) : Nat :=
  i.off % 2 ^ 40 + (sizeBits i.size).toNat * 2 ^ 40 + i.lane % 2 ^ 6 * 2 ^ 43 + (if at_ then (atOpBits i.op).toNat * 2 ^ 49 else 0) +
  i.run % 2 ^ 6 * 2 ^ 53 + i.status % 2 ^ 5 * 2 ^ 59

/-- The bytes of an item. -/
def itemImage (at_ : Bool) (i : Item) : List Byte :=
  toBytes 8 (itemDescriptor at_ i) ++ i.data ++ List.replicate (itemBytes i - 8 - i.data.length) 0

/-- The bytes of a flit, its CRC field zero. A trimmed flit is its header and prologue (R261). -/
def flitImage (f : Flit) : List Byte :=
  let head := toBytes 32 (flitHeader f) ++ (if f.fst then prologueBytes f else [])
  let body := f.items.flatMap (itemImage (f.opc == .atomic))
  if f.tr then head else head ++ body ++ List.replicate (Config.flitBytes - (head.length + body.length)) 0

/-- One bit of the CRC of IEEE 802.3, low bit first. -/
def crcBit (c : Nat) : Nat := if c % 2 = 1 then (c / 2) ^^^ 0xEDB88320 else c / 2

/-- One byte of the CRC. -/
def crcByte (c : Nat) (b : Byte) : Nat := crcBit (crcBit (crcBit (crcBit (crcBit (crcBit (crcBit (crcBit (c ^^^ b.toNat))))))))

/-- CRC-32 with the polynomial of IEEE 802.3, in that standard's bit order, start value and final complement (PRESUMED, log 11). -/
def crc32 (bs : List Byte) : BitVec 32 := ~~~ (BitVec.ofNat 32 (bs.foldl crcByte 0xFFFFFFFF))

/-- The CRC that a flit must carry (R256). -/
def flitCrc (f : Flit) : BitVec 32 := crc32 (flitImage f)

/-- A flit with its CRC. -/
def sealFlit (f : Flit) : Flit := { f with crc := flitCrc f }

/-! ### Packets and send storage (R251, R257, R260) -/

/-- Items in flits: as many as the room left takes, the rest in flits of 224 bytes. No item spans two flits. -/
def packItems : List Item → Nat → List Item → List (List Item)
  | [], _, cur => [cur]
  | i :: rest, room, cur => if itemBytes i ≤ room then packItems rest (room - itemBytes i) (cur ++ [i]) else cur :: packItems rest (224 - itemBytes i) [i]

/-- The flits of a packet: the first holds the prologue and 192 bytes of items. -/
def packetFlits (pk : Flit) : List Flit :=
  let parts := packItems pk.items 192 []
  (List.zip (List.range parts.length) parts).map (fun e =>
    { pk with items := e.2, fst := e.1 == 0, lst := e.1 + 1 == parts.length, nitems := pk.items.length, nflits := parts.length,
              seq := (pk.seq + e.1) % 2 ^ 32 })

/-- Bytes of a flit in storage: a trimmed one is its header and prologue. -/
def flitSize (f : Flit) : Nat := if f.tr then 64 else Config.flitBytes

/-- Bytes of storage that a packet takes. -/
def packetBytes (pk : Flit) : Nat := Config.flitBytes * (packetFlits pk).length

/-- Are payloads of a network kept in a send record until the answer (R260)? -/
def keptNet : Net → Bool
  | .dom .bulk | .dom .rel => true
  | _ => false

/-- May a flit of a network go through any relay (R254)? -/
def netAnyRelay : Net → Bool
  | .dom .bulk | .dom .rel | .rsp => true
  | _ => false

/-- Does a network use the fixed path of the route table (R254)? -/
def netOrdered : Net → Bool
  | .dom .cau | .dom .tso | .dom .seq => true
  | _ => false

/-- Does a flit take no storage of its own: a pull or a resend (R261), or one of a request that a send record holds (R260)? -/
def storedElsewhere (f : Fabric) (x : Flit) : Bool :=
  x.opc == .pull || x.opc == .resend || f.recs.any (fun r => r.sent && keptNet r.flit.net && r.id == x.req && r.op == x.opc)

/-- Bytes of send storage in use: the send records of BULK and REL requests until their answers, and the other queued flits (R251, R260). -/
def storageUsed (f : Fabric) : Nat :=
  ((f.recs.filter (fun r => r.sent && keptNet r.flit.net)).map (fun r => packetBytes r.flit)).sum +
  ((f.sendq.filter (fun x => !storedElsewhere f x)).map flitSize).sum

/-- Is there room for a packet? -/
def storageRoom (f : Fabric) (fl : Flit) : Bool := decide (storageUsed f + packetBytes fl ≤ Config.sendStorage)

/-- Is there room for a request's packet, which waits behind the answers? -/
def requestRoom (f : Fabric) (fl : Flit) : Bool := f.owed.isEmpty && storageRoom f fl

/-- Key of the sequence numbers of a source, destination and network (R256). -/
def seqKey (src dst : Nat) (n : Net) : Nat := (src * 1024 + dst) * 8 + netCode n

/-- The next sequence number of a destination and network. -/
def nextSeq (s : State) (dst : Nat) (n : Net) : Nat := (tget s.fab.txseq (dst * 8 + netCode n)).getD 0

/-- Puts flits of one destination and network at the end of their send queue, under the next sequence numbers. -/
def enqueueFlits (s : State) (dst : Nat) (n : Net) (l : List Flit) : State :=
  { s with fab := { s.fab with sendq := s.fab.sendq ++ l, txseq := tset s.fab.txseq (dst * 8 + netCode n) ((nextSeq s dst n + l.length) % 2 ^ 32) } }

/-- Puts a packet at the end of its send queue, cut into flits. -/
def enqueuePacket (s : State) (pk : Flit) : State := enqueueFlits s pk.dst pk.net (packetFlits { pk with seq := nextSeq s pk.dst pk.net })

/-- Puts one flit at the end of its send queue. -/
def enqueueFlit (s : State) (fl : Flit) : State := enqueueFlits s fl.dst fl.net [{ fl with seq := nextSeq s fl.dst fl.net }]

/-- A packet from this device. -/
def flitTo (s : State) (dst : Nat) (net : Net) (opc : FOp) (who : Nat × Ptr) (win key ten req : Nat) (items : List Item) (mark : Bool) : Flit :=
  { cr := [], acks := [], seq := 0, src := s.mgmt.device, dst := dst, net := net, opc := opc, tr := false, mark := mark, hp := false, fst := true, lst := true,
    agent := who.1, chain := who.2.va.toNat, win := win, key := key, ten := ten, vt := s.now, req := req, items := items, nitems := items.length,
    nflits := 1, ref := 0, arr := s.now, crc := 0 }

/-! ### The target (R262, R263) -/

/-- Bytes of memory that an item covers. -/
def itemSpan (i : Item) : Nat := sizeBytes i.size * (i.run + 1)

/-- Does an item read, and does it write? -/
def opRead : FOp → Bool
  | .load | .atomic | .btRead => true
  | _ => false

/-- Does an item write? -/
def opWrite : FOp → Bool
  | .store | .atomic | .put | .btWrite => true
  | _ => false

/-- The window that a packet names, when its key and tenant match (R262, R263). -/
def windowOf (s : State) (fl : Flit) : Option Window :=
  match tget s.windows fl.win with
  | none => none
  | some w => if fl.win < 4096 && w.v && w.key == fl.key && w.ten == fl.ten then some w else none

/-- May an operation use a window? -/
def Window.allows (w : Window) (op : FOp) : Bool :=
  (!opRead op || w.rdp) && (!opWrite op || w.wrp) && (op != .atomic || w.atp)

/-- What the check of one page part of an item gives: a status, the domain after the target's floor, and the bytes. -/
structure RemPart where
  st   : Nat
  va   : Word
  dom  : Dom
  span : Option Span
deriving DecidableEq, Repr

/-- The check of one page part in the window's context, by a fresh walk: the floor as R181, under FLA = 1 a promotion; a protected window as R355. -/
def remotePart (s : State) (ctx : Nat) (rd wr : Bool) (d : Dom) (part : Word × Nat × Nat) : RemPart :=
  let fail := fun (n : Nat) => ({ st := n, va := part.1, dom := d, span := none } : RemPart)
  match freshWalk s ctx part.1 with
  | none => fail 7
  | some p =>
    if pteTier p.pte != 2 && protectedFrom s 1024 (p.pa part.1) part.2.1 then fail 5
    else
    let f := domOf (pteFlr p.pte)
    let below : Bool := decide (domIdx d < domIdx f)
    if (frameCause s ctx p part.1 part.2.1).isSome || (rd && !pteRd p.pte) || (wr && !pteWr p.pte) then fail 7
    else if !pteFla p.pte && below then fail 7
    else if !p.resident s part.1 then fail 9
    else { st := 0, va := part.1, dom := if below then f else d, span := some { pa := p.pa part.1, len := part.2.1, at_ := part.2.2, page := p } }

/-- The status of an item that passes its window, the page that is absent, its domain and its spans: 5, 7, 9, then 8 for poison (R263, R381). The whole
item is performed in the strongest domain of its parts. -/
def remoteSpans (s : State) (ctx : Nat) (va : Word) (n : Nat) (rd wr : Bool) (d : Dom) : Nat × Word × Dom × List Span :=
  let rs := (vaParts va n 0 (n / 65536 + 2)).map (remotePart s ctx rd wr d)
  let spans := rs.filterMap (fun r => r.span)
  let top := rs.foldl (fun (b : Dom) r => if domIdx b < domIdx r.dom then r.dom else b) d
  match rs.find? (fun r => r.st == 5), rs.find? (fun r => r.st == 7), rs.find? (fun r => r.st == 9) with
  | some r, _, _ => (5, r.va, d, [])
  | none, some r, _ => (7, r.va, d, [])
  | none, none, some r => (9, r.va, d, [])
  | none, none, none => if poisoned s spans then (8, va, d, []) else (0, va, top, spans)

/-- The domain of a packet. -/
def flitDom (fl : Flit) : Dom := match fl.net with | .dom d => d | _ => .seq

/-- The dirty SIV bytes of a tracked or UNC page reach memory as any device write; a release of the sender, and a write in TSO or SEQ, is noted for
the Chain with the packet's arrival time (R263, R274, R393). -/
def remotePut (s : State) (fl : Flit) (d : Dom) (spans : List Span) (bs : List Byte) : State :=
  let s1 := spans.foldl (fun s sp => physPut s sp.pa ((bs.drop sp.at_).take sp.len)) s
  if fl.mark || d == .tso || d == .seq then
    let note : Note := (fl.agent, { va := BitVec.ofNat 64 fl.chain, lap := 0 }, fl.arr)
    { s1 with notes := (spanSecs spans).foldl (fun n sec => tset n sec (note, (sget s1.stamps sec).toNat)) s1.notes }
  else s1

/-- Performs an accepted item at its home in its domain after the floor (R263): the data of its answer. A write sets D and A of its pages' leaves
(R346, R348). -/
def performItem (s0 : State) (fl : Flit) (it : Item) (d : Dom) (spans : List Span) : State × List Byte :=
  let s := spans.foldl (fun s sp => markPte s sp.page (opWrite fl.opc)) s0
  match fl.opc with
  | .load | .btRead => (s, spans.flatMap (fun sp => physBytes s sp.pa sp.len))
  | .store | .put | .btWrite => (remotePut s fl d spans it.data, [])
  | .atomic =>
    let n := sizeBytes it.size
    let old := fromBytes (spans.flatMap (fun sp => physBytes s sp.pa sp.len))
    let x := fromBytes (it.data.take n)
    let y := fromBytes ((it.data.drop n).take n)
    let new := if it.op == .cas then atomOp .cas (it.size == .b8) old y x else atomOp it.op (it.size == .b8) old x 0
    (remotePut s fl d spans (toBytes n new), toBytes n old)
  | _ => (s, [])

/-- One item of an arriving packet: its answer, with an interim 9 for a page that is not resident (R263). -/
def serveItem (s : State) (fl : Flit) (it : Item) : State × Item :=
  let answer := fun (st : Nat) (d : List Byte) => ({ it with status := st, data := d } : Item)
  match windowOf s fl with
  | none => (s, answer 5 [])
  | some w =>
    if !w.allows fl.opc || decide (w.len < it.off + itemSpan it) then (s, answer 5 [])
    else
      let va := w.base + BitVec.ofNat 64 it.off
      match remoteSpans s w.ctx va (itemSpan it) (opRead fl.opc) (opWrite fl.opc) (flitDom fl) with
      | (0, _, d, spans) => let (s1, bs) := performItem s fl it d spans; (s1, answer 0 bs)
      | (9, at_, _, _) =>
        let held : HeldItem := { flit := { fl with items := [it] }, page := popPage s w.ctx at_, ctx := w.ctx, since := s.now }
        (postPop { s with fab := { s.fab with items := s.fab.items ++ [held] } } w.ctx at_ 4, answer 9 [])
      | (st, _) => (s, answer st [])

/-- Must an item wait for the host link: it reaches host memory (R421)? -/
def itemWaits (s : State) (fl : Flit) (it : Item) : Bool :=
  match (if s.host.up then none else windowOf s fl) with
  | none => false
  | some w =>
    if !w.allows fl.opc || decide (w.len < it.off + itemSpan it) then false
    else match remoteSpans s w.ctx (w.base + BitVec.ofNat 64 it.off) (itemSpan it) (opRead fl.opc) (opWrite fl.opc) (flitDom fl) with
      | (0, _, _, spans) => spans.any (fun sp => decide (hostBase ≤ sp.pa + sp.len - 1))
      | _ => false

/-- An item waits for the host link, without an answer. -/
def holdForHost (s : State) (fl : Flit) (it : Item) : State :=
  { s with fab := { s.fab with hosted := s.fab.hosted ++ [{ flit := { fl with items := [it] }, page := 0, ctx := ((windowOf s fl).map (fun w => w.ctx)).getD 0, since := s.now }] } }

/-- The items of an arriving packet in turn, with the answers of those that do not wait. -/
def serveItems (s : State) (fl : Flit) : State × List Item :=
  fl.items.foldl (fun (acc : State × List Item) it =>
    if itemWaits acc.1 fl it then (holdForHost acc.1 fl it, acc.2)
    else let (s1, a) := serveItem acc.1 fl it; (s1, acc.2 ++ [a])) (s, [])

/-- Answers that wait for send storage enter it in turn as it has room (R251; that requests wait behind them is DESIGN CHOICE, log 11). -/
def pumpOwed (s : State) : State :=
  s.fab.owed.foldl (fun s pk =>
    if s.fab.owed.isEmpty && storageRoom s.fab pk then enqueuePacket s pk else { s with fab := { s.fab with owed := s.fab.owed ++ [pk] } })
    { s with fab := { s.fab with owed := [] } }

/-- A packet that enters send storage behind those that wait for it. -/
def owePacket (s : State) (pk : Flit) : State := pumpOwed { s with fab := { s.fab with owed := s.fab.owed ++ [pk] } }

/-- The answers to a packet go back on the response network: successes in one packet, failures and interim answers in another
(R251, R260, R263). -/
def sendAnswers (s : State) (fl : Flit) (as_ : List Item) : State :=
  let ok := as_.filter (fun i => i.status == 0)
  let bad := as_.filter (fun i => i.status != 0)
  let back := fun (o : FOp) (l : List Item) => flitTo s fl.src .rsp o (0, Ptr.none) 0 0 0 fl.req l false
  let s1 := if ok.isEmpty then s else owePacket s (back (if opRead fl.opc then .data else .ack) ok)
  if bad.isEmpty then s1 else owePacket s1 (back .error bad)

end Sys2Proof.Machine
end

