-- ==== Sys2Proof/Machine/Bte.lean ====
section
/-! DEFINITION. The block-transfer engine and the tile table (spec/08_memory_instructions.md R229 to R250, OP 0xA0 to 0xA5; 06_domains.md
R183, R184; 13_isolation.md R355, R356), with the events of the engine. -/

namespace Sys2Proof.Machine

open Sys2Proof

/-! ### Issue (R231, R233, R237, R247) -/

/-- The trap of a local side at issue: its base and its extent (R230, R26, R139). -/
def localSideCause (p : Packet) (d : Dir) (x : Shape) (side : Side) (src : Bool) (base : Word) : Option (Cause × Word) :=
  match side with
  | .loc sp =>
    if base.toNat % 2 ^ x.ebl != 0 then some (.align, base)
    else if (sideOf p sp base.toNat (sideExtent d x src)).isNone then some (.perm, base) else none
  | _ => none

/-- The first cause of two, ALIGN before PERM. -/
def firstCause (l : List (Option (Cause × Word))) : Option (Cause × Word) := worst (l.filterMap id) causeCode

/-- Does a context hold a key slot for BTG (R237)? -/
def holdsKey (s : State) (ctx slot : Nat) : Bool :=
  match tget s.ctxs ctx, tenantOf s ctx with
  | some c, some t => c.conf && decide (slot < 64) && t.keys.getLsbD slot
  | _, _ => false

/-- The release of R183: the accesses of a domain by the lanes of the group and by the group, and those that a bridge orders before that domain, are
acknowledged, and the write-backs of the bridges made. -/
def beforeTransfer (s : State) (v : View) (d : Dom) : Option State :=
  let all : Mask := BitVec.allOnes 64
  (drain s (openIds s v.core v.whole all d ++ gateIds s v.whole all d d)).map (fun s => dischargeGates s v.core v.whole all d d)

/-- What BT and BTG share: checks in priority order, the release of R183, and the accepted command. -/
def transfer (s : State) (h : Hdr) (m : BtMod) (btg : Bool) : Host.Outcome State Fault Refusal :=
  groupWide s h 8 (fun v =>
    let k := fun (n : Nat) => v.r.kget (h.b.toNat + n)
    let ws := [k 0, k 1, k 2, k 3]
    let x := shapeFields ws
    let src := v.r.kget h.a.toNat
    let dst := v.r.kget h.d.toNat
    let tb := v.r.kget h.c.toNat
    let (ss, ds) := sidesOf m.dir
    if !shapeOk ws || (btg && decide (65536 < x.rows * x.rb)) then illegal s v
    else if v.ag.grp ≠ v.pkt.producer then plainTrap s v .stream v.mask
    else
      let tbCause : Option (Cause × Word) :=
        if !alignedTo tb 16 then some (.align, tb) else if spaceAlloc v.pkt .loc < tb.toNat + 16 then some (.perm, tb) else none
      let keyCause : Option (Cause × Word) := if btg && !holdsKey s v.ctx (bitsOf (k 4).toNat 63 56) then some (.perm, 0) else none
      match firstCause [tbCause, localSideCause v.pkt m.dir x ss true src, localSideCause v.pkt m.dir x ds false dst, keyCause] with
      | some (c, a) => takeTrap s v { cause := c, lanes := v.mask, addr := a }
      | none =>
        let store := storeQueueDir m.dir
        match (if m.g then v.g.armGuard m.slot.toNat else some v.g) with
        | none => plainTrap s v .guard v.mask
        | some g1 =>
          if Config.btQueue ≤ (btQueueOf s v.core store).length then stallOn s v .queue [if store then 1 else 0]
          else
            match beforeTransfer s v m.dom with
            | none => stall s v .remote
            | some s1 =>
              let (id, s2) := s1.newId
              let n := (s2.core v.core).ecsn
              let peer := if m.dir = .peerLoc then v.r.kget (h.a.toNat + 1) else if m.dir = .locPeer then v.r.kget (h.d.toNat + 1) else 0
              let c : BtCmd :=
                { id := id, blk := v.ag.blk, grp := v.ag.grp, btg := btg, ecsn := n, pc := v.r.pc, iword := s.word, dom := m.dom, sc := m.sc, dir := m.dir,
                  dst := dst, src := src, shape := ws, peer := peer, tb := tb.toNat, guard := if m.g then some m.slot.toNat else none, row := 0,
                  owed := x.sectors, started := false, stopped := false, popWait := none, plain := none, key := if btg then k 4 else 0,
                  tagVa := if btg then k 5 else 0, ctrOk := false }
              let s3 := setBtQueue s2 v.core store (btQueueOf s2 v.core store ++ [c])
              let s4 := (s3.mapCore v.core (fun c => { c with ecsn := n + 1 })).mapGroup v.ag.blk v.ag.grp (fun g => { g with guards := g1.guards })
              skip s4 v 8)

/-- The meaning of BT. -/
def execBt (h : Hdr) (m : BtMod) (s : State) : Host.Outcome State Fault Refusal := transfer s h m false

/-- The meaning of BTG. -/
def execBtg (h : Hdr) (m : BtMod) (s : State) : Host.Outcome State Fault Refusal := transfer s h m true

/-! ### The engine (R232, R234, R235, R238, R246) -/

/-- Code and scale regions of a tile description: buffer, base, length (R242). -/
structure TileDesc where
  wbuf : Bool
  fmt  : Nat
  rows : Nat
  cols : Nat
  base : Nat
  soff : Nat
deriving DecidableEq, Repr

/-- The fields of an entry descriptor (R242). -/
def tileDescOf (w : Word) : TileDesc :=
  let x := w.toNat
  { wbuf := w.getLsbD 63, fmt := bitsOf x 62 59, rows := bitsOf x 55 48, cols := bitsOf x 47 32, base := 32 * bitsOf x 31 16, soff := 32 * bitsOf x 15 0 }

/-- Is a descriptor legal (R242)? -/
def tileDescOk (w : Word) : Bool :=
  let d := tileDescOf w
  bitsOf w.toNat 58 56 == 0 && decide (d.fmt ≤ 8) && decide (1 ≤ d.rows) && decide (d.rows ≤ 128) && decide (1 ≤ d.cols) && (decide (6 ≤ d.fmt) || d.soff == 0)

/-- Element width in bits (R242). -/
def TileDesc.width (d : TileDesc) : Nat := if d.fmt ≤ 1 then 16 else if d.fmt = 6 then 4 else 8
/-- Row pitch in bytes. -/
def TileDesc.pitch (d : TileDesc) : Nat := 32 * ceilDiv (d.cols * d.width) 256
/-- Bytes of the code region. -/
def TileDesc.codeLen (d : TileDesc) : Nat := d.rows * d.pitch
/-- Has the format a scale plane? -/
def TileDesc.scaled (d : TileDesc) : Bool := decide (6 ≤ d.fmt)
/-- Scale bytes of a row. -/
def TileDesc.scaleCols (d : TileDesc) : Nat := ceilDiv d.cols 32
/-- Bytes of the scale plane. -/
def TileDesc.scaleLen (d : TileDesc) : Nat := if d.scaled then d.rows * d.scaleCols else 0
/-- The buffer of a tile. -/
def TileDesc.space (d : TileDesc) : Space := if d.wbuf then .wbuf else .abuf

/-- Is the destination of a command held by a DRAINING tile (R246)? -/
def drainHeld (s : State) (core : Nat) (c : BtCmd) : Bool :=
  match (sidesOf c.dir).2 with
  | .loc sp =>
    let n := sideExtent c.dir (shapeFields c.shape) false
    (tvals (s.core core).tiles).any (fun t =>
      let d := tileDescOf t.desc
      t.blk == some c.blk && t.st == .draining && d.space == sp &&
      (rangesMeet c.dst.toNat n d.base d.codeLen || (d.scaled && rangesMeet c.dst.toNat n d.soff d.scaleLen)))
  | _ => false

/-- A command fails (R238, R240): the marker is set and the sectors still owed are subtracted in one update. -/
def btFail (s : State) (core : Nat) (store : Bool) (c : BtCmd) (status : Nat) : State :=
  btLeave (tbUpdate s c.blk c.tb (btNote s core store) (fun t => tbSubtract c.owed (tbFail status c.ecsn t))) core store c

/-- A row has been written: its sectors are subtracted, unless they were before a restart (R235, R237), and the last row ends the command. -/
def btRowDone (s : State) (core : Nat) (store : Bool) (c : BtCmd) : State :=
  let x := shapeFields c.shape
  let due := if (x.rows - c.row) * x.rowSectors ≤ c.owed then x.rowSectors else 0
  let s1 := if due = 0 then s else btSubtract s core store c due
  if x.rows ≤ c.row + 1 then btLeave s1 core store c
  else mapBt s1 core store c.id (fun y => { y with row := y.row + 1, owed := y.owed - due })

/-- A BTG that restarts begins again at row 0 (R237, R379). -/
def restartBtg (c : BtCmd) : BtCmd := if c.btg then { c with row := 0, plain := none } else c

/-- Is a block about to be pre-empted, so that its engines start nothing more and stop at row boundaries (R235, R291)? -/
def stoppingBlock (s : State) (b : Nat) : Bool := (tget s.blocks b).any (fun bl => bl.stopping)

/-- May a command start, if the engine has room: the head of its block, with no guard and no DRAINING tile that holds it (R232, R246, R247)? -/
def btCan (s : State) (core : Nat) (store : Bool) (c : BtCmd) : Bool :=
  !stoppingBlock s c.blk && btHead s core c.blk store == some c && (match c.guard with | none => true | some n => guardValue s c.blk c.grp n == some true) && !drainHeld s core c

/-- The command of the block that comes next after block `last` in the order of their keys. -/
def rotNext (last : Nat) (l : List BtCmd) : Option BtCmd :=
  let low := fun (b : Option BtCmd) (c : BtCmd) => match b with | none => some c | some x => if c.blk < x.blk then some c else some x
  match (l.filter (fun c => decide (last < c.blk))).foldl low none with
  | some c => some c
  | none => l.foldl low none

/-- The command that a queue starts next (R232): at most two run, and the blocks whose head can start take turns, in the order of their keys. -/
def btNext (s : State) (core : Nat) (store : Bool) : Option BtCmd :=
  let q := btQueueOf s core store
  if 2 ≤ (q.filter (fun x => x.started && !x.stopped && x.popWait.isNone)).length then none
  else rotNext (if store then (s.core core).brot.2 else (s.core core).brot.1) (q.filter (btCan s core store))

/-- A queue notes the block whose command has started. -/
def btTurn (s : State) (core : Nat) (store : Bool) (b : Nat) : State :=
  s.mapCore core (fun c => { c with brot := if store then (c.brot.1, b) else (b, c.brot.2) })

/-- BT_COMMAND_START (R232, R247, R356): the head of its block's queue starts. A BTG checks and records its counter. -/
def btCommandStartEvent (core : Nat) (store : Bool) (i : Nat) (s : State) : Option State :=
  match (btQueueOf s core store)[i]? with
  | none => none
  | some c =>
    if btNext s core store = some c then
      let s0 := btTurn (leaveGuard s c.blk c.grp c.guard) core store c.blk
      let s1 := pumpBt (mapBt s0 core store c.id (fun x => { x with started := true, guard := none, ctrOk := c.btg })) core c.blk store
      let c1 := { c with started := true, guard := none }
      if c.btg && !c.ctrOk then
        let key := ((tget s.blocks c.blk).map (fun b => b.ctx)).getD 0 * 64 + bitsOf c.key.toNat 63 56
        let ctr := bitsOf c.key.toNat 55 0
        if ctr ≤ (tget s.ctrs key).getD 0 then some (btFail s1 core store c1 2) else some { s1 with ctrs := tset s1.ctrs key ctr }
      else some s1
    else none

/-- The meaning: the event, or nothing where it does not occur. -/
def execBtCommandStart (core : Nat) (store : Bool) (i : Nat) (s : State) : Host.Outcome State Fault Refusal := happen s (btCommandStartEvent core store i s)

/-- What the check of one side of a row finds: a cause with its address and the domain that its record names (R366), or a status that fails the command, or the spans. -/
inductive RowSide where
  | trap (c : Cause) (va : Word) (d : Dom)
  | fail (status : Nat)
  | spans (l : List Span) (d : Dom)
  | here (ref : Ref)
  | away
deriving DecidableEq, Repr

/-- Is a PERM that of another context's protected window (R355)? A transfer then fails with status 0x05. -/
def guardedPage (s : State) (core ctx : Nat) (x : Cause) (a : Word) : Bool :=
  x = .perm && (match lookup s core ctx a with | some q => pteTier q.pte != 2 && protectedFrom s ctx (q.pa a) 1 | none => false)

/-- The check of one side of a row (R234, R355, R381, R149). -/
def rowSide (s : State) (core : Nat) (bl : Block) (p : Packet) (c : BtCmd) (src : Bool) (n : Nat) : RowSide :=
  let va := rowVa c src c.row
  match (if src then (sidesOf c.dir).1 else (sidesOf c.dir).2) with
  | .peer => .away
  | .loc sp =>
    match sideOf p sp va.toNat n with
    | none => .trap .perm va c.dom
    | some (fol, off) => if src && sp = .zbuf && zPoisoned s { blk := c.blk, fol := fol, off := off } n then .fail 4 else .here { blk := c.blk, fol := fol, off := off }
  | .glb =>
    let k := checkVa s core bl.ctx va n src (!src) c.dom false
    match k.cause with
    | some (x, a) => if guardedPage s core bl.ctx x a then .fail 5 else .trap x a (if x = .xlat then c.dom else k.dom)
    | none => if src && poisoned s k.spans then .fail 3 else .spans k.spans k.dom

/-- The engine reads a side that has passed its checks. -/
def rowRead (s : State) (core : Nat) (c : BtCmd) (n : Nat) (x : RowSide) : State × List Byte :=
  match x with
  | .here r => (s, localRead s (match (sidesOf c.dir).1 with | .loc sp => sp | _ => .loc) r n)
  | .spans l d =>
    let bl := ((tget s.blocks c.blk).map (fun b => b.ctx)).getD 0
    (spanPieces l).foldl (fun (acc : State × List Byte) y =>
      let (s1, v, _) := coreRead acc.1 core y.2.sec y.1.page.kind { dom := d, enc := c.dom, sc := c.sc }
      (s1, acc.2 ++ (List.range y.2.len).map (fun i => sectorByte v (y.2.off + i)))) (touchAll s core bl l false, [])
  | _ => (s, [])

/-- The engine writes a side that has passed its checks; the Chain notes a write in TSO or SEQ (R393). -/
def rowWrite (s : State) (core : Nat) (c : BtCmd) (x : RowSide) (bs : List Byte) : State :=
  match x with
  | .here r => localWrite s (match (sidesOf c.dir).2 with | .loc sp => sp | _ => .loc) r bs
  | .spans l d =>
    let ctx := ((tget s.blocks c.blk).map (fun b => b.ctx)).getD 0
    let s1 := (spanPieces l).foldl (fun s y =>
      coreWrite s core { sec := y.2.sec, data := placeBytes y.2.off ((bs.drop y.2.at_).take y.2.len), mask := spanMask y.2.off y.2.len, dom := d }
        y.1.page.kind c.sc s.now (some { blk := c.blk, grp := 256, lane := none })) (touchAll s core ctx l true)
    if d == .tso || d == .seq then
      { s1 with notes := (spanSecs l).foldl (fun n sec => tset n sec (btNote s core (storeQueueDir c.dir), s.now)) s1.notes }
    else s1
  | _ => s

/-- A check that fails stops the command at its row (R234): a trap held for the producer group, or a population request. -/
def btStop (s : State) (core : Nat) (store : Bool) (ctx : Nat) (c : BtCmd) (x : Cause) (va : Word) (d : Dom) : State :=
  if x = .nres then postPop (mapBt s core store c.id (fun y => { restartBtg y with popWait := some (popPage s ctx va) })) ctx va 3
  else
    (mapBt s core store c.id (fun y => { restartBtg y with stopped := true })).mapGroup c.blk c.grp (fun g =>
      { g with async := g.async ++ [{ cause := x, code := 0, lane := none, addr := va, acc := some (d, c.sc), ecsn := ecsnWord c.ecsn, pc := c.pc,
                                      iword := c.iword, vt := s.now, write := false, wsp := g.spent.isSome, resume := c.pc }] })

/-- The worse trap of the two sides, the source's of equals (R234). -/
def sideTrap (a b : RowSide) : Option (Cause × Word × Dom) :=
  match a, b with
  | .trap x va d, .trap y vb e => if causeCode y < causeCode x then some (y, vb, e) else some (x, va, d)
  | .trap x va d, _ => some (x, va, d)
  | _, .trap y vb e => some (y, vb, e)
  | _, _ => none

/-- The status of a side that fails. -/
def sideFail (a b : RowSide) : Option Nat :=
  match a, b with
  | .fail n, _ => some n
  | _, .fail n => some n
  | _, _ => none

/-! #### Peer sides (R263) -/

/-- The items of one row on a peer side: runs of at most 64 bytes. -/
def rowItems (off : Nat) (bs : List Byte) (n : Nat) (wr : Bool) : List Item :=
  (List.range (ceilDiv n 64)).map (fun i =>
    let len := min 64 (n - 64 * i)
    { off := (off + 64 * i) % 2 ^ 40, size := .b1, lane := 0, op := .add, run := len - 1, status := 0, data := if wr then (bs.drop (64 * i)).take len else [] })

/-- A transfer's status for a target's (R263). -/
def peerStatus (st : Nat) : Nat := if st = 8 then 3 else if st = 6 then 6 else 5

/-- Answers to a row's items: data reach L-space, a failure ends the command, and the last answer ends the row. -/
def btAnswer (s : State) (r : RemReq) (items : List Item) : State :=
  let store : Bool := r.op == .btWrite
  let final := items.filter (fun i => i.status != 9)
  let rest := r.items.filter (fun i => !final.any (fun f => f.off == i.off))
  let setRecs := fun (s : State) (l : List RemReq) => { s with fab := { s.fab with recs := l } }
  match (btQueueOf s r.core store).find? (fun c => some c.id = r.bt) with
  | none => setRecs s (s.fab.recs.filter (fun x => x.id != r.id))
  | some c =>
    match final.find? (fun i => i.status != 0) with
    | some i => btFail (setRecs s (s.fab.recs.filter (fun x => x.id != r.id))) r.core store c (peerStatus i.status)
    | none =>
      let base := (rowVa c true c.row).toNat
      let s1 := if store then s else final.foldl (fun s i =>
        let off := (rowVa c false c.row).toNat + (i.off + 2 ^ 40 - base % 2 ^ 40) % 2 ^ 40
        localWrite s .loc { blk := c.blk, fol := false, off := off } i.data) s
      if rest.isEmpty then btRowDone (setRecs s1 (s1.fab.recs.filter (fun x => x.id != r.id))) r.core store c
      else setRecs s1 (s1.fab.recs.map (fun x => if x.id = r.id then { x with items := rest, since := if final.length < items.length then s.now else x.since } else x))

/-- One row of a peer transfer is sent, or served when the peer is this device (R252, R263). -/
def peerRow (s : State) (core : Nat) (store : Bool) (bl : Block) (c : BtCmd) (here : RowSide) : Option State :=
  let x := shapeFields c.shape
  let p := bitsOf c.peer.toNat 41 32
  if s.fab.recs.any (fun r => r.bt == some c.id) then none
  else if !reachable s p then some (btFail s core store c 6)
  else
    let (s1, bs) := if store then rowRead s core c x.rb here else (s, [])
    let items := rowItems (rowVa c (!store) c.row).toNat bs x.rb store
    let ten := ((tget s.ctxs bl.ctx).bind (fun k => k.tenant)).getD 0
    let (id, s2) := s1.newId
    let op : FOp := if store then .btWrite else .btRead
    let fl := flitTo s2 p (.dom c.dom) op (agentId s2 core (if store then 257 else 256), Ptr.none) (bitsOf c.peer.toNat 15 0) (bitsOf c.peer.toNat 31 16) ten id items false
    let fl := { fl with seq := nextSeq s2 p fl.net }
    let rec_ : RemReq :=
      { id := id, instr := id, ag := { blk := c.blk, grp := 256, lane := none }, path := BitVec.allOnes 64, core := core, op := op, peer := p, dom := c.dom, rls := false, flit := fl, items := items,
        sent := true, since := s2.now, posted := true, ecsn := c.ecsn, pc := c.pc, iword := c.iword, bt := some c.id, dreg := 0, size := .b1, acq := false,
        cover := [], experts := [] }
    let s3 := { s2 with fab := { s2.fab with recs := s2.fab.recs ++ [rec_] } }
    if p = s.mgmt.device then
      let (s4, as_) := serveItems s3 fl
      some (btAnswer s4 rec_ as_)
    else if requestRoom s.fab fl then some (enqueuePacket s3 fl)
    else none

/-! #### Decrypting transfers (R237) -/

/-- The ciphertext of a BTG, row by row from 0, and its tag; a check that fails stops it at row 0. -/
def btgRead (s : State) (core : Nat) (store : Bool) (bl : Block) (p : Packet) (c : BtCmd) : State ⊕ (State × List Byte × List Byte) :=
  let x := shapeFields c.shape
  let rows := (List.range x.rows).foldl (fun (o : State ⊕ (State × List Byte)) r =>
    match o with
    | .inl s => .inl s
    | .inr (s, acc) =>
      let cr := { c with row := r }
      match rowSide s core bl p cr true x.rb with
      | .trap k va d => .inl (btStop s core store bl.ctx c k va d)
      | .fail n => .inl (btFail s core store c n)
      | y => let (s1, bs) := rowRead s core cr x.rb y; .inr (s1, acc ++ bs)) (.inr (s, []))
  match rows with
  | .inl s => .inl s
  | .inr (s, bytes) =>
    let k := checkVa s core bl.ctx c.tagVa 16 true false c.dom false
    match k.cause with
    | some (y, va) =>
      if guardedPage s core bl.ctx y va then .inl (btFail s core store c 5)
      else .inl (btStop s core store bl.ctx c y va (if y = .xlat then c.dom else k.dom))
    | none =>
      if poisoned s k.spans then .inl (btFail s core store c 3)
      else let (s1, tag) := rowRead s core c 16 (.spans k.spans k.dom); .inr (s1, bytes, tag)

/-- Zeros over the whole destination of a BTG whose tag fails. -/
def btgZero (s : State) (c : BtCmd) (p : Packet) : State :=
  let x := shapeFields c.shape
  match (sidesOf c.dir).2 with
  | .loc sp =>
    (List.range x.rows).foldl (fun s r =>
      match sideOf p sp (rowVa c false r).toNat x.rb with
      | some (fol, off) => localWrite s sp { blk := c.blk, fol := fol, off := off } (toBytes x.rb 0)
      | none => s) s
  | _ => s

/-- One row event of a BTG: the whole ciphertext is decrypted first, and rows are written once the tag verifies. -/
def btgRow (s : State) (core : Nat) (store : Bool) (bl : Block) (p : Packet) (c : BtCmd) : State :=
  let x := shapeFields c.shape
  match c.plain with
  | some plain =>
    match rowSide s core bl p c false x.rb with
    | .here r => btRowDone (rowWrite s core c (.here r) ((plain.drop (c.row * x.rb)).take x.rb)) core store c
    | _ => s
  | none =>
    match btgRead s core store bl p c with
    | .inl s => s
    | .inr (s1, cipher, tag) =>
      let key := (tget s.keys (bitsOf c.key.toNat 63 56)).getD 0
      let salt := ((tget s.ctxs bl.ctx).map (fun k => k.salt.toNat)).getD 0
      match btgOpen key salt (bitsOf c.key.toNat 55 0) cipher tag with
      | some plain => mapBt s1 core store c.id (fun y => { y with plain := some plain })
      | none => btFail (btgZero s1 c p) core store c 1

/-- Does a side wait for the host link (R421)? -/
def sideWaits (s : State) (x : RowSide) : Bool :=
  match x with
  | .spans l _ => hostWaits s (spanSecs l)
  | _ => false

/-- Does the ciphertext or the tag of a BTG wait for the host link? -/
def btgWaits (s : State) (core : Nat) (bl : Block) (p : Packet) (c : BtCmd) : Bool :=
  let x := shapeFields c.shape
  c.plain.isNone && ((List.range x.rows).any (fun r => sideWaits s (rowSide s core bl p { c with row := r } true x.rb)) ||
    hostWaits s (spanSecs (checkVa s core bl.ctx c.tagVa 16 true false c.dom false).spans))

/-- BT_ROW_WRITE (R234): a started command checks and moves its next row. -/
def btRowWriteEvent (core : Nat) (store : Bool) (i : Nat) (s : State) : Option State :=
  match (btQueueOf s core store)[i]? with
  | none => none
  | some c =>
    match tget s.blocks c.blk with
    | none => none
    | some bl =>
      if c.started = false ∨ c.stopped = true ∨ c.popWait ≠ none ∨ bl.stopping = true then none
      else
        let p := packetOf s bl
        let n := (shapeFields c.shape).rb
        if c.btg then (if btgWaits s core bl p c then none else some (btgRow s core store bl p c))
        else
          let a := rowSide s core bl p c true n
          let b := rowSide s core bl p c false n
          if sideWaits s a || sideWaits s b then none else
          match sideTrap a b, sideFail a b with
          | some (k, va, d), _ => some (btStop s core store bl.ctx c k va d)
          | none, some st => some (btFail s core store c st)
          | none, none =>
            if peerDir c.dir then peerRow s core store bl c (if store then a else b)
            else
              let (s1, bs) := rowRead s core c n a
              some (btRowDone (rowWrite s1 core c b bs) core store c)

/-- The meaning: the event, or nothing where it does not occur. -/
def execBtRowWrite (core : Nat) (store : Bool) (i : Nat) (s : State) : Host.Outcome State Fault Refusal := happen s (btRowWriteEvent core store i s)

/-- Commands of a group that were stopped by a trap already delivered go on after TRET (R234): they start again at their row when the engine has
room (R232). -/
def resumeStopped (s : State) (b g : Nat) : State :=
  match tget s.blocks b, s.group? b g with
  | some bl, some x =>
    let go := fun (q : List BtCmd) => q.map (fun c =>
      if c.blk = b ∧ c.grp = g ∧ c.stopped = true ∧ x.async.all (fun t => t.ecsn != ecsnWord c.ecsn) then { c with stopped := false, started := false } else c)
    let s1 := s.mapCore bl.core (fun c => { c with btl := go c.btl, bts := go c.bts })
    pumpBt (pumpBt s1 bl.core b false) bl.core b true
  | _, _ => s

/-! ### The tile table (R241 to R245) -/

/-- Do the regions of a description lie in the allocation (R244)? -/
def tileFits (p : Packet) (d : TileDesc) : Bool :=
  (sideOf p d.space d.base d.codeLen).isSome && (!d.scaled || (sideOf p d.space d.soff d.scaleLen).isSome)

/-- The meaning of TILE. -/
def execTile (h : Hdr) (s : State) : Host.Outcome State Fault Refusal :=
  groupWide s h 8 (fun v =>
    let w := v.r.kget h.a.toNat
    let tb := v.r.kget h.b.toNat
    let i := h.d.toNat
    let t := tileOf s v.core i
    if !tileDescOk w then illegal s v
    else if v.ag.grp ≠ v.pkt.producer then plainTrap s v .stream v.mask
    else if !alignedTo tb 16 then takeTrap s v { cause := .align, lanes := v.mask, addr := tb }
    else if !tileFits v.pkt (tileDescOf w) || decide (spaceAlloc v.pkt .loc < tb.toNat + 16) || t.foreign v.ag.blk then plainTrap s v .perm v.mask
    else if t.st = .draining then stallOn s v .tile [i]
    else
      let phi := ((getTb s v.ag.blk tb.toNat).phase + 1) % 16
      skip (setTile s v.core i { blk := some v.ag.blk, desc := w, tb := tb.toNat, phi := phi, st := .filling, users := 0 }) v 8)

/-- The code of a tile's state (R245). -/
def tileCode : TileSt → Nat
  | .empty => 0 | .filling => 1 | .ready => 2 | .draining => 3

/-- The meaning of TILEQ. -/
def execTileq (h : Hdr) (s : State) : Host.Outcome State Fault Refusal :=
  groupWide s h 8 (fun v =>
    let t := tileOf s v.core h.a.toNat
    if t.foreign v.ag.blk then plainTrap s v .perm v.mask
    else finishLong s v h [.k h.d.toNat (BitVec.ofNat 64 (tileCode t.st + 16 * (t.phi % 16) + 2 ^ 32 * (t.tb % 2 ^ 19)))] 0)

/-! ### Coherence objects (R194, R197, R249, R250) -/

/-- Is a shape legal (R194)? -/
def objShapeOk (w0 w1 : Word) : Bool :=
  let rows := bitsOf w0.toNat 15 0
  let cols := bitsOf w0.toNat 31 16
  let ebl := bitsOf w0.toNat 34 32
  let tw := cols * 2 ^ ebl
  bitsOf w0.toNat 63 35 == 0 && bitsOf w1.toNat 63 48 == 0 && decide (ebl ≤ 4) && decide (1 ≤ cols) && decide (1 ≤ rows) && decide (rows ≤ 4096) &&
  tw % 32 == 0 && bitsOf w1.toNat 39 0 % tw == 0 && decide (rows * tw ≤ 2 ^ 24)

/-- The addresses of a range, one for each 64 KiB. -/
def rangeVas (va : Word) (n : Nat) : List Word := (List.range (n / 65536)).map (fun i => va + BitVec.ofNat 64 (65536 * i))

/-- The pages to which a range translates, by fresh walks (R348). -/
def rangePages (s : State) (ctx : Nat) (va : Word) (n : Nat) : List Page := ((rangeVas va n).filterMap (freshWalk s ctx)).eraseDups

/-- The first address of a range that does not translate. -/
def rangeGap (s : State) (ctx : Nat) (va : Word) (n : Nat) : Option Word := (rangeVas va n).find? (fun a => (freshWalk s ctx a).isNone)

/-- Does a range split a 512 MiB page at an end (R249)? -/
def splitsPage (s : State) (ctx : Nat) (va : Word) (n : Nat) : Bool :=
  let big := fun (a : Word) => match freshWalk s ctx a with | some p => p.big | none => false
  (big va && va.toNat % 2 ^ 29 != 0) || (big (va + BitVec.ofNat 64 (n - 1)) && (va.toNat + n) % 2 ^ 29 != 0)

/-- The frames of pages. -/
def rangeFrames (ps : List Page) : List Nat := ps.flatMap (fun p => (List.range (pageBytes p.big / 65536)).map (fun i => p.base / 65536 + i))

/-- DEVICT on every piece of a range (R197): once every message is delivered, each directory entry of its frames is evicted, and every TRK copy left
there is taken back; so is what caches hold under the object index that the range had, wherever its pages lay then (R351). -/
def purgeFrames (s : State) (frames : List Nat) (old : Option ObjTag) : State :=
  let s1 := settled s
  let moved := (s1.cores.flatMap (fun e => tvals e.2.l1) ++ s1.ccs.flatMap (fun e => tvals e.2)).filterMap (fun x =>
    if x.mode = .trk ∧ old = some x.tag then some (32 * x.sec / 65536) else none)
  let mine := fun (sec : Nat) => frames.contains (32 * sec / 65536) || moved.contains (32 * sec / 65536)
  let held := fun (t : Table CSector) => (t.filter (fun e => e.2.mode == .trk && mine e.1)).map Prod.fst
  let s2 := ((tvals (dirOf s1 .l2)).filter (fun d => d.piece.any mine)).foldl devict s1
  let secs := s2.cores.flatMap (fun e => held e.2.l1) ++ s2.ccs.flatMap (fun e => held e.2)
  if secs.isEmpty then s2 else purgePiece s2 secs

/-- How an access of a context reaches a page of frames that are now tracked under an object. -/
def PageKind.retag (ctx : Nat) (frames : List Nat) (idx sec : Nat) (k : PageKind) : PageKind :=
  if k.cm = .trk ∧ k.tag.ctx = ctx ∧ frames.contains (32 * sec / 65536) = true then { k with tag := { ctx := ctx, obj := idx } } else k

/-- Accesses of a context that have issued and are not performed are tracked under the new object (R197). -/
def retagOpen (s : State) (ctx : Nat) (frames : List Nat) (idx : Nat) : State :=
  { s with cores := tmap (fun (c : Core) => { c with sq := c.sq.map (fun e => { e with kind := e.kind.retag ctx frames idx e.sec }) }) s.cores,
           late := s.late.map (fun x => { x with parts := x.parts.map (fun p => (p.1, p.2.1, p.2.2.1, p.2.2.2.retag ctx frames idx p.1)) }) }

/-- Writes an object index into the PTEs of a range, the context's own leaves and those through which it translates, and drops their TLB entries (R249,
R250). No other context's protected window is written (R355). -/
def stampObject (s : State) (ctx : Nat) (ps : List Page) (idx : Nat) : State :=
  let addrs := (ps.map (fun p => p.addr) ++ ps.filterMap (fun p => (walk s ctx (BitVec.ofNat 64 p.va)).map (fun q => q.addr))).eraseDups
  let s1 := addrs.foldl (fun s a => physPutFor s ctx a (toBytes 8 ((physWord s a &&& ~~~ 0xFFF0000#64) ||| BitVec.ofNat 64 (idx * 65536)).toNat)) s
  retagOpen (tlbKeep s1 (fun e => !addrs.contains e.addr)) ctx (rangeFrames ps) idx

/-- The lowest free object index of a context. -/
def freeObject (s : State) (ctx : Nat) : Option Nat := (List.range 4095).findSome? (fun i => if (tget s.objs (4096 * ctx + i + 1)).isNone then some (i + 1) else none)

/-- May a context declare with a protocol slot (R249)? -/
def slotAllowed (s : State) (ctx slot : Nat) : Bool :=
  (tget s.protos slot).isSome && (match tenantOf s ctx with | none => true | some t => t.proto.getLsbD slot)

/-- Does a range overlap a declared object of the context? -/
def objOverlap (s : State) (ctx : Nat) (base : Word) (n : Nat) : Bool :=
  s.objs.any (fun e => e.1 / 4096 == ctx && rangesMeet base.toNat n e.2.base.toNat e.2.extent)

/-- The meaning of OBJDCL. -/
def execObjdcl (h : Hdr) (slot : BitVec 3) (s : State) : Host.Outcome State Fault Refusal :=
  groupWide s h 8 (fun v =>
    let base := v.r.kget h.a.toNat
    let n := (v.r.kget h.b.toNat).toNat
    let w0 := v.r.kget h.c.toNat
    let w1 := v.r.kget (h.c.toNat + 1)
    if !objShapeOk w0 w1 || n = 0 then illegal s v
    else if !alignedTo base 65536 || n % 65536 != 0 || splitsPage s v.ctx base n then takeTrap s v { cause := .align, lanes := v.mask, addr := base }
    else
      let ps := rangePages s v.ctx base n
      match rangeGap s v.ctx base n with
      | some va => takeTrap s v { cause := .xlat, lanes := v.mask, addr := va }
      | none =>
        if ps.any (fun p => frameCause s v.ctx p (BitVec.ofNat 64 p.va) (pageBytes p.big) == some .xlat) then
          takeTrap s v { cause := .xlat, lanes := v.mask, addr := base }
        else if !slotAllowed s v.ctx slot.toNat || ps.any (fun p => (frameCause s v.ctx p (BitVec.ofNat 64 p.va) (pageBytes p.big)).isSome) ||
            objOverlap s v.ctx base n then takeTrap s v { cause := .perm, lanes := v.mask, addr := base }
        else
          match freeObject s v.ctx with
          | none => finish s v 8 [.k h.d.toNat 0] 0
          | some i =>
            let s1 := purgeFrames s (rangeFrames ps) none
            let tab := ((tget s1.ctxs v.ctx).map (fun c => c.objtab)).getD 0
            let w1' : Word := BitVec.ofNat 64 (bitsOf w1.toNat 39 0 + 2 ^ 40 * slot.toNat)
            let s2 := physPutFor s1 v.ctx (tab + 16 * i) (toBytes 8 w0.toNat ++ toBytes 8 w1'.toNat)
            finish (stampObject { s2 with objs := tset s2.objs (4096 * v.ctx + i) { base := base, extent := n } } v.ctx ps i) v 8 [.k h.d.toNat (BitVec.ofNat 64 i)] 0)

/-- The meaning of OBJREL. -/
def execObjrel (h : Hdr) (s : State) : Host.Outcome State Fault Refusal :=
  groupWide s h 8 (fun v =>
    let i := (v.r.kget h.a.toNat).toNat
    match (if i = 0 ∨ 4096 ≤ i then none else tget s.objs (4096 * v.ctx + i)) with
    | none => plainTrap s v .perm v.mask
    | some o =>
      let ps := rangePages s v.ctx o.base o.extent
      let s1 := stampObject (purgeFrames s (rangeFrames ps) (some { ctx := v.ctx, obj := i })) v.ctx ps 0
      skip { s1 with objs := terase s1.objs (4096 * v.ctx + i) } v 8)

end Sys2Proof.Machine
end

