-- ==== Sys2Proof/Machine/Diverge.lean ====
section
/-! DEFINITION. Paths, the reconvergence stack, ejection, return and recall (spec/11_divergence.md R296 to R311), as operations
on a group; the instructions and events that use them stand in Control and Paths. -/

namespace Sys2Proof.Machine

open Sys2Proof

/-! ### The stack (R296, R298, R299) -/

/-- Free entries: 32 less those in use and those held in reserve for lanes still out (R296). -/
def Group.freeEntries (g : Group) : Nat := Config.stackEntries - g.stack.length - (g.stack.map (fun e => laneCount e.ej)).sum

/-- A parked group goes on when the entry at which it parked has no lane out, or another lies above it (R298). -/
def unpark (g : Group) : Group :=
  match g.run, g.stack with
  | .parkedJoin _, e :: rest => if e.ej = 0 then nextPath g (e :: rest) else g
  | .parkedJoin _, [] => nextPath g []
  | _, _ => g

/-- A pushed pair of entries and a new current path (R297). -/
def pushSplit (g : Group) (rejoin : Word) (target fall : Word) (t f : Mask) : Group :=
  let outer : StackEntry := { ej := 0, rpc := g.r.rpc, mask := g.r.mask, pc := rejoin + 8, kd := true, recalled := false }
  let pend : StackEntry := { ej := 0, rpc := rejoin, mask := f, pc := fall, kd := false, recalled := false }
  { g with stack := pend :: outer :: g.stack, r := { g.r with pc := target, mask := t, rpc := rejoin }, fair := 0, defer := 0 }

/-- Lanes leave every entry (R299). -/
def dropLanes (st : List StackEntry) (m : Mask) : List StackEntry := st.map (fun e => { e with mask := e.mask &&& ~~~m })

/-- Does a lane remain in an entry? -/
def anyLeft (st : List StackEntry) : Bool := st.any (fun e => e.mask != 0 || e.ej != 0)

/-! ### Ejection (R301, R302) -/

/-- The registers that a map names. -/
def mapRegs (m : BitVec 256) : List Nat := (List.range 256).filter (fun n => m.getLsbD n)

/-- Scruple threads of a core in use. -/
def usedThreads (s : State) (core : Nat) : List Nat :=
  s.blocks.flatMap (fun e => if e.2.core = core then (tvals e.2.groups).flatMap (fun g => g.threads.map (fun t => t.num)) else [])

/-- The free threads of a core, lowest first. -/
def freeThreads (s : State) (core : Nat) : List Nat :=
  let used := usedThreads s core
  (List.range Config.threads).filter (fun n => !used.contains n)

/-- A live-table entry (R66): out and back maps; the cause when it is no legal entry. -/
def liveEntry (s : State) (v : View) (idx : Nat) : Cause ⊕ (BitVec 256 × BitVec 256) :=
  if v.pkt.liven ≤ idx then .inl .ill
  else
    match ctxRead s v.ctx (v.pkt.live + BitVec.ofNat 64 (64 * idx)) 64 with
    | none => .inl .xlat
    | some bs =>
      let x := fromBytes bs
      let out : BitVec 256 := BitVec.ofNat 256 x
      let back : BitVec 256 := BitVec.ofNat 256 (x / 2 ^ 256)
      let bad := fun (m : BitVec 256) => decide (32 < (mapRegs m).length) || (mapRegs m).any (fun n => decide (v.pkt.regs ≤ n))
      if bad out || bad back then .inl .ill else .inr (out, back)

/-- The thread of an ejected lane at its start (R302). -/
def newThread (g : Group) (num lane : Nat) (rejoin start : Word) (out back : BitVec 256) : Thread :=
  let vs := (mapRegs out).foldl (fun (m : Sparse 32) n => sset m (256 * lane + n) (g.r.vget lane n)) []
  { num := num, lane := lane, rejoin := rejoin, out := out, back := back, slots := mapRegs (out ||| back),
    r := { Regs.fresh with v := vs, k := g.r.k, p := (g.r.p.map (fun e => (e.1, e.2 &&& laneBit lane))).filter (fun e => e.2 != 0),
                           gen := sset [] lane (sget g.r.gen lane), pc := start, mask := laneBit lane, rpc := rejoin },
    run := .starting, hang := 0, chain := Ptr.none, lastIss := 0 }

/-- An ejecting split (R302): the minority goes to threads, the majority goes on. The lanes' reservations go (R220). -/
def ejectSplit (g : Group) (nums : List Nat) (rejoin target fall : Word) (t f : Mask) (out back : BitVec 256) : Group :=
  let small : Bool := decide (laneCount t ≤ laneCount f)
  let mino := if small then t else f
  let start := if small then target else fall
  let ths := (List.zip nums (lanesOf mino)).map (fun x => newThread g x.1 x.2 rejoin start out back)
  let outer : StackEntry := { ej := mino, rpc := g.r.rpc, mask := g.r.mask, pc := rejoin + 8, kd := true, recalled := false }
  { g with stack := outer :: g.stack, threads := g.threads ++ ths, resv := g.resv.filter (fun r => !mino.getLsbD r.lane),
           r := { g.r with pc := if small then fall else target, mask := if small then f else t, rpc := rejoin }, fair := 0, defer := 0 }

/-- Does R301 allow an ejection? -/
def mayEject (s : State) (v : View) (mino : Mask) (live : Nat) : Bool :=
  let m := laneCount mino
  decide (1 ≤ m) && decide (m ≤ v.pkt.ejt) && live != 1023 && decide (m ≤ (freeThreads s v.core).length) &&
  decide (m + 1 ≤ v.g.freeEntries) && v.g.focus.isNone && !(v.g.noEj.any (fun x => mino.getLsbD x.1))

/-! ### Return and recall (R302, R305, R307) -/

/-- Copies registers of a thread back to its group. -/
def copyBack (g : Group) (t : Thread) (regs : List Nat) : Group :=
  let vs := regs.foldl (fun (m : Sparse 32) n => sset m (256 * t.lane + n) (t.r.vget t.lane n)) g.r.v
  let ps := (List.range 7).foldl (fun (m : Sparse 64) n =>
    sset m n (if t.r.pget t.lane n then sget m n ||| laneBit t.lane else sget m n &&& ~~~ laneBit t.lane)) g.r.p
  { g with r := { g.r with v := vs, p := ps, gen := sset g.r.gen t.lane (sget t.r.gen t.lane), fpf := fpfRaise g.r.fpf t.r.fpf } }

/-- The lane is no longer out: its bit clears, its thread and its reservation go. -/
def homeLane (g : Group) (l : Nat) : Group :=
  { g with stack := g.stack.map (fun e => { e with ej := e.ej &&& ~~~ laneBit l }), threads := g.threads.filter (fun t => t.lane != l),
           resv := g.resv.filter (fun r => r.lane != l) }

/-- A lane returns (R305): the registers of the back map come home, and the group may merge. -/
def returnLane (g : Group) (t : Thread) : Group := unpark (homeLane (copyBack g t (mapRegs t.back)) t.lane)

/-- Places a recalled lane directly above its reconvergence entry, with an earlier recalled lane at the same PC (R307). The
list runs from the top down; `above` holds the entries passed. -/
def placeRecalled (e : StackEntry) (l : Nat) : List StackEntry → List StackEntry
  | [] => [e]
  | x :: rest =>
    if x.kd && x.ej.getLsbD l then e :: x :: rest
    else if x.recalled && x.pc == e.pc && x.rpc == e.rpc && (rest.find? (fun y => !y.recalled)).any (fun y => y.kd && y.ej.getLsbD l) then
      { x with mask := x.mask ||| e.mask } :: rest
    else x :: placeRecalled e l rest

/-- A lane is recalled (R302, R307): every register with a slot comes home, and its entry is placed. What its windows hold of failures stays with the
group (R270). -/
def recallLane (g : Group) (t : Thread) : Group :=
  let e : StackEntry := { ej := 0, rpc := t.rejoin, mask := laneBit t.lane, pc := t.r.pc, kd := false, recalled := true }
  let r := { t with r := t.r.flush }
  let g1 := copyBack g r r.slots
  let g2 := { g1 with r := { g1.r with pend := g1.r.pend ++ r.r.pend }, stack := placeRecalled e t.lane g1.stack, noEj := (t.lane, t.rejoin) :: g1.noEj.filter (fun x => x.1 != t.lane) }
  unpark (homeLane g2 t.lane)

/-- May a recall complete now: no answer outstanding (R307)? -/
def Thread.settledDown (t : Thread) : Bool := !t.r.awaiting

/-- One lane comes home: a lane at its rejoin point returns, another is recalled, one with an answer outstanding starts its
recall. -/
def recallOne (g : Group) (l : Nat) : Group :=
  match g.thread? l with
  | none => g
  | some t =>
    if t.run = .returning then returnLane g t
    else if t.settledDown then recallLane g t
    else { g with threads := g.threads.map (fun x => if x.lane = l then { x with run := .recalling } else x) }

/-- Recalls every lane of a mask. -/
def recallAll (g : Group) (m : Mask) : Group :=
  ((g.threads.filter (fun t => m.getLsbD t.lane)).map (fun t => t.lane)).foldl recallOne g

/-! ### The end of a group (R299, R328) -/

/-- A group with no lane left retires; the last one retires its block (R285, R393). -/
def retireGroup (s : State) (b g : Nat) : State :=
  let note := noteOf s { blk := b, grp := g, lane := none }
  let s1 := s.mapGroup b g (fun x => { x with run := .retired, resv := [] })
  match tget s1.blocks b with
  | none => s1
  | some bl => if (tvals bl.groups).all (fun x => x.run == .retired) then retireBlock s1 b note else s1

/-- The group takes its next path, or retires when no lane remains (R298, R299). -/
def takePath (s : State) (b g : Nat) : State :=
  match s.group? b g with
  | none => s
  | some x =>
    let y := nextPath x x.stack
    let s1 := s.setGroup b g y
    if y.r.mask = 0 && y.stack.isEmpty then retireGroup s1 b g else s1

end Sys2Proof.Machine
end

