-- ==== Sys2Proof/Machine/Synch.lean ====
section
/-! DEFINITION. The synchronisation class (spec/12_control_instructions.md R330 to R335; 08_memory_instructions.md R226 to R228,
OP 0x70 to 0x7B), and the events of deferred arrivals, WAITV and the hang watchdog (11_divergence.md R312 to R318). -/

namespace Sys2Proof.Machine

open Sys2Proof

/-! ### Barriers (R312 to R315, R330, R331) -/

/-- The barrier that an instruction names. -/
def BarRef.of (m : BarMod) : BarRef := { cl := m.cl, n := m.n.toNat }

/-- Scope of a barrier (R175). -/
def barScope (cl : Bool) : Scope := if cl then .cls else .blk

/-- The count of an arrival (R330): K(B) under CNT = 1; none is ILL. -/
def barCount (v : View) (h : Hdr) (m : BarMod) : Option Nat :=
  if !m.cnt then some 0
  else
    let k := (v.r.kget h.b.toNat).toNat
    if 1 ≤ k ∧ k ≤ (if m.cl then 64 else 16) then some k else none

/-- Names of the open accesses that an arrival of the executing group orders (R331): all that the group has issued on any path, and those of the lanes
that are not ejected. -/
def openBefore (s : State) (v : View) : List Nat := openOfGroup s v.core v.ag.blk v.ag.grp (v.g.threads.map (fun t => t.lane))

/-- An arrival of the group (R313, R331): recorded at once, or when the accesses it orders are acknowledged. None stalls. -/
def beginArrival (s : State) (v : View) (r : BarRef) (cnt : Bool) (count : Nat) : Option State :=
  if v.g.arrived r.key then none
  else
    let ids := openBefore s v
    if ids.isEmpty then some (arrive (sivReleaseAll s v.core (barScope r.cl)) v.ag.blk v.ag.grp r cnt count)
    else some (s.mapGroup v.ag.blk v.ag.grp (fun g => { g with barQ := g.barQ ++ [{ ids := ids, bar := r.n, cl := r.cl, count := count, cnt := cnt }] }))

/-- When the wait of the agent began, and whether it ends at once. -/
def waitStart (s : State) (v : View) : Nat × Bool := match v.run with | .waiting _ t => (t, false) | _ => (s.now, true)

/-- The wait of BARW and BARS (R314): an acquire and an edge when the group's phase has completed. A BARS that has completed is no longer noted
(see `Group.retired`). -/
def barWait (s : State) (v : View) (r : BarRef) : State :=
  match s.group? v.ag.blk v.ag.grp with
  | none => s
  | some g =>
    if g.arrived r.key then stallOn s v .barrier [r.key]
    else
      let (start, now) := waitStart s v
      let (s1, note) := match tget g.arr r.key with
        | some a => (acquireAll s v.core, a.last)
        | none => (s, (getBar s v.ag.blk r).last)
      skip (chainEdge s1 v.ctx v.whole note start (if r.cl then 2 else 1) r.n now) v 8

/-- The meaning of BARA. -/
def execBara (h : Hdr) (m : BarMod) (s : State) : Host.Outcome State Fault Refusal :=
  groupWide s h 8 (fun v =>
    match barCount v h m with
    | none => illegal s v
    | some c => match beginArrival s v (BarRef.of m) m.cnt c with | none => stallOn s v .arrival [(BarRef.of m).key] | some s1 => skip s1 v 8)

/-- The meaning of BARW. -/
def execBarw (h : Hdr) (m : BarMod) (s : State) : Host.Outcome State Fault Refusal := groupWide s h 8 (fun v => barWait s v (BarRef.of m))

/-- The meaning of BARS: it arrives once, also when a stop interrupts its wait (R318, R321); the group notes that the BARS of this path has
arrived, until the path completes an instruction. -/
def execBars (h : Hdr) (m : BarMod) (s : State) : Host.Outcome State Fault Refusal :=
  groupWide s h 8 (fun v =>
    match barCount v h m with
    | none => illegal s v
    | some c =>
      let r := BarRef.of m
      if tget v.g.barsAt r.key = some (v.r.pc, v.mask) then barWait s v r
      else match beginArrival s v r m.cnt c with
        | none => stallOn s v .arrival [r.key]
        | some s1 => barWait (s1.mapGroup v.ag.blk v.ag.grp (fun g => { g with barsAt := tset g.barsAt r.key (v.r.pc, v.mask) })) v r)

/-- BARRIER_ARRIVAL_APPLY (R331): the oldest arrival of a group whose accesses are acknowledged is recorded. -/
def barrierArrivalApplyEvent (b : Nat) (g : Nat) (s : State) : Option State :=
  match tget s.blocks b, s.group? b g with
  | some bl, some x =>
    match x.barQ.find? (fun d => !isOpen s d.ids) with
    | none => none
    | some d =>
      let s1 := s.mapGroup b g (fun x => { x with barQ := x.barQ.filter (fun e => e != d) })
      some (arrive (sivReleaseAll s1 bl.core (barScope d.cl)) b g { cl := d.cl, n := d.bar } d.cnt d.count)
  | _, _ => none

/-- The meaning: the event, or nothing where it does not occur. -/
def execBarrierArrivalApply (b : Nat) (g : Nat) (s : State) : Host.Outcome State Fault Refusal := happen s (barrierArrivalApplyEvent b g s)

/-! ### Transaction barriers (R239, R240, R332 to R334) -/

/-- The checks of K(A) (R332): ALIGN and PERM; otherwise the instruction at its offset. -/
def tbInstr (s : State) (h : Hdr) (f : View → Nat → State) : Host.Outcome State Fault Refusal :=
  groupWide s h 8 (fun v =>
    let a := v.r.kget h.a.toNat
    if !alignedTo a 16 then takeTrap s v { cause := .align, lanes := v.mask, addr := a }
    else if spaceAlloc v.pkt .loc < a.toNat + 16 then takeTrap s v { cause := .perm, lanes := v.mask, addr := a }
    else f v a.toNat)

/-- An update by the executing group: applied at once, or behind the group's earlier updates of the barrier. -/
def tbByGroup (s : State) (v : View) (off : Nat) (ids : List Nat) (op : TbOp) : State :=
  if ids.isEmpty && !(v.g.tbQ.any (fun d => d.off == off)) then skip (tbApply s v.ag.blk off (noteOf s v.whole) op) v 8
  else skip (s.mapGroup v.ag.blk v.ag.grp (fun g => { g with tbQ := g.tbQ ++ [{ ids := ids, off := off, op := op }] })) v 8

/-- The meaning of TBINIT. -/
def execTbinit (h : Hdr) (s : State) : Host.Outcome State Fault Refusal :=
  groupWide s h 8 (fun v =>
    let n := (v.r.kget h.b.toNat).toNat
    let a := v.r.kget h.a.toNat
    if n < 1 ∨ 65535 < n then illegal s v
    else if !alignedTo a 16 then takeTrap s v { cause := .align, lanes := v.mask, addr := a }
    else if spaceAlloc v.pkt .loc < a.toNat + 16 then takeTrap s v { cause := .perm, lanes := v.mask, addr := a }
    else tbByGroup s v a.toNat [] (.init n))

/-- The meaning of TBARR: a release, applied once the accesses it orders are acknowledged. -/
def execTbarr (h : Hdr) (s : State) : Host.Outcome State Fault Refusal :=
  tbInstr s h (fun v off => tbByGroup s v off (openBefore s v) (.arrive h.c.toNat))

/-- The meaning of TBEXP. -/
def execTbexp (h : Hdr) (s : State) : Host.Outcome State Fault Refusal :=
  groupWide s h 8 (fun v =>
    let n := (v.r.kget h.b.toNat).toNat
    let a := v.r.kget h.a.toNat
    if 0x7FFFFFFF < n then illegal s v
    else if !alignedTo a 16 then takeTrap s v { cause := .align, lanes := v.mask, addr := a }
    else if spaceAlloc v.pkt .loc < a.toNat + 16 then takeTrap s v { cause := .perm, lanes := v.mask, addr := a }
    else tbByGroup s v a.toNat [] (.expect n))

/-- The arrival that the Chain notes at a transaction barrier. -/
def tbNoteOf (s : State) (b off : Nat) : Option Note := (tget s.blocks b).bind (fun bl => tget bl.tbNote off)

/-- Has a TBWAIT nothing to wait for: the phase is reached, or an update since it began to wait has reached it (R334)? -/
def tbOver (s : State) (v : View) (off p : Nat) : Bool :=
  (v.g.tbMet && v.g.want == [off, p]) || (!(v.g.tbQ.any (fun d => d.off == off)) && (getTb s v.ag.blk off).reached p)

/-- The meaning of TBWAIT. -/
def execTbwait (h : Hdr) (s : State) : Host.Outcome State Fault Refusal :=
  tbInstr s h (fun v off =>
    if tbOver s v off h.c.toNat then
      let (start, now) := waitStart s v
      skip (chainEdge (tbAcquire s v.core v.ag.blk off) v.ctx v.whole (tbNoteOf s v.ag.blk off) start 3 h.c.toNat now) v 8
    else stallOn s v .tb [off, h.c.toNat])

/-- The meaning of TBTEST. -/
def execTbtest (h : Hdr) (s : State) : Host.Outcome State Fault Refusal :=
  tbInstr s h (fun v off =>
    let ok := (getTb s v.ag.blk off).reached h.c.toNat
    finish (if ok then tbAcquire s v.core v.ag.blk off else s) v 8 [.q h.d.toNat ok] 0)

/-- TBARR_APPLY (R333): the oldest update of a group whose accesses are acknowledged, with none before it on its barrier. -/
def tbarrApplyEvent (b : Nat) (g : Nat) (s : State) : Option State :=
  match tget s.blocks b, s.group? b g with
  | some _, some x =>
    match x.tbQ.find? (fun d => !isOpen s d.ids && (x.tbQ.find? (fun e => e.off == d.off)) == some d) with
    | none => none
    | some d =>
      let s1 := s.mapGroup b g (fun x => { x with tbQ := x.tbQ.erase d })
      some (tbApply s1 b d.off (noteOf s1 { blk := b, grp := g, lane := none }) d.op)
  | _, _ => none

/-- The meaning: the event, or nothing where it does not occur. -/
def execTbarrApply (b : Nat) (g : Nat) (s : State) : Host.Outcome State Fault Refusal := happen s (tbarrApplyEvent b g s)

/-! ### Guards (R247, R335) -/

/-- The meaning of GSET. -/
def execGset (h : Hdr) (s : State) : Host.Outcome State Fault Refusal :=
  groupWide s h 8 (fun v =>
    let n := h.d.toNat
    match v.g.guard n with
    | .free => skip s v 8
    | .resolved _ _ => plainTrap s v .guard v.mask
    | .armed _ =>
      let x : Bool := h.a = 7 || v.r.qget h.a.toNat
      skip (pumpAll (s.mapGroup v.ag.blk v.ag.grp (fun g => g.resolve n x)) v.core v.ag.blk v.ag.grp) v 8)

/-! ### Fences and bridges (R172 to R174, R226, R227) -/

/-- A fence or bridge instruction: its agents, each from the first domain to the second of every pair (R226). -/
def fenceInstr (s : State) (h : Hdr) (pairs : List (Dom × Dom)) (sc : Scope) : Host.Outcome State Fault Refusal :=
  withView s (fun v =>
    if v.ej && h.u then startRecall s v.ag
    else if h.u && !v.groupOn h then skip s v 8
    else
      let ags := fenceAgents v.ag (if h.u then lanesOf v.mask else v.active h) h.u
      skip (ags.foldl (fun s a => pairs.foldl (fun s d => bridge s v.core a.1 v.mask a.2 d.1 d.2 sc) s) s) v 8)

/-- The meaning of FENCE. -/
def execFence (h : Hdr) (dom : Dom) (sc : Scope) (all : Bool) (s : State) : Host.Outcome State Fault Refusal :=
  fenceInstr s h (if all then allDoms.map (fun a => (a, a)) ++ allDoms.flatMap (fun a => (allDoms.filter (fun b => b != a)).map (fun b => (a, b)))
                  else [(dom, dom)]) sc

/-- The meaning of BRG. -/
def execBrg (h : Hdr) (d1 : Dom) (sc : Scope) (d2 : Dom) (s : State) : Host.Outcome State Fault Refusal := fenceInstr s h [(d1, d2)] sc

/-! ### WAITV (R228) -/

/-- The condition in C on the loaded value and a comparand of `w` bits (R48). -/
def waitvHolds (c w x y : Nat) : Bool :=
  match c with
  | 0 => x == y
  | 1 => x != y
  | 2 => decide (x < y)
  | 3 => decide (y ≤ x)
  | 4 => decide (signedOf w x < signedOf w y)
  | _ => decide (signedOf w y ≤ signedOf w x)

/-- The note of the write that a load returned: the sector's latest noted release, when it is that write (R228, R393). -/
def noteOfWrite (s : State) (sec stamp : Nat) : Option Note := (tget s.notes sec).bind (fun n => if n.2 = stamp then some n.1 else none)

/-- WAITV of the executing agent: one load, the acquire when every comparand is met, a wait otherwise; a wait for the host link is no wait of the watchdog
(R421). -/
def waitvBody (s : State) (v : View) (h : Hdr) (m : MemMod) : State :=
  let n := sizeBytes m.size
  let wide : Bool := m.size == .b8
  let places := v.places h
  if !v.within h.u [(h.b, span wide)] then illegal s v
  else if places.isEmpty then skip s v 8
  else
    let a : Access := { lane := v.ag.lane, va := v.r.kget h.a.toNat }
    let c := lookGlb s v m.dom n true true false false a
    match lookedTrap v h m.sc false [c] with
    | some t => takeTrap s v { t with lanes := v.trapLanes h }
    | none =>
      if hostWaits s (spanSecs c.spans) then stallOn s v .remote [] else
      match beforeLoad s v.core v.ag v.mask c.dom m.dom (spanSecs c.spans) with
      | none => stall s v .waitv
      | some s1 =>
        let l : LoadAs := { dom := c.dom, enc := m.dom, sc := m.sc }
        let (s2, bs, stamp) := loadSpans (touchAll s1 v.core v.ctx c.spans false) v.core v.ag v.mask c.spans l
        let x := fromBytes bs
        if places.all (fun l => waitvHolds h.c.toNat (8 * n) x (readReg v.r l h.b wide % 2 ^ (8 * n))) then
          let s3 := afterLoad s2 v.core v.ag v.mask l (m.dom != .bulk) stamp
          let (start, now) := waitStart s v
          let note := (c.spans.head?).bind (fun sp => noteOfWrite s3 (secOf sp.pa) stamp)
          skip (chainEdge s3 v.ctx v.ag note start 4 0 now) v 8
        else stall (afterLoad s2 v.core v.ag v.mask l false stamp) v .waitv

/-- The meaning of WAITV. -/
def execWaitv (h : Hdr) (m : MemMod) (s : State) : Host.Outcome State Fault Refusal :=
  withView s (fun v => if v.ej && h.u then startRecall s v.ag else waitvBody s v h m)

/-- WAITV_REEVALUATION (R228): a waiting WAITV loads its location again, unless a debug stop holds the group and its lanes (R308). -/
def waitvReevaluationEvent (ag : AgentRef) (s : State) : Option State :=
  match viewOf s ag with
  | none => none
  | some v =>
    match (if v.g.halted || v.bl.stopping || v.bl.res != .resident then RunState.ready else v.run), fetch s v.core v.ctx v.r.pc with
    | .waiting .waitv _, .word w (some (.waitv h m)) => some (stepSettle { (waitvBody { s with word := w } v h m) with word := s.word } v w)
    | _, _ => none

/-- The meaning: the event, or nothing where it does not occur. -/
def execWaitvReevaluation (ag : AgentRef) (s : State) : Host.Outcome State Fault Refusal := happen s (waitvReevaluationEvent ag s)

/-! ### The hang watchdog (R317, R318) -/

/-- Has the wait of an agent reached HANGT? -/
def hangDue (s : State) (v : View) : Bool :=
  let limit := match tget s.ctxs v.ctx with | some c => c.hangt | none => 0
  let count := match v.th with | some t => t.hang | none => v.g.hang
  match v.run with
  | .waiting k _ => k.counts && limit != 0 && decide (limit ≤ count) && v.bl.res == .resident
  | _ => false

/-- HANG_WATCHDOG_EXPIRY (R318): the wait raises HANG at its PC, and its count starts again. -/
def hangWatchdogExpiryEvent (ag : AgentRef) (s : State) : Option State :=
  match viewOf s ag with
  | none => none
  | some v =>
    if hangDue s v then
      let w := match fetch s v.core v.ctx v.r.pc with | .word w _ => w | .fault _ w _ => w
      let s1 := s.mapGroup ag.blk ag.grp (fun g =>
        { g with threads := g.threads.map (fun t => if some t.lane = ag.lane then { t with hang := 0 } else t) })
      some { (plainTrap { s1 with word := w } v .hang v.mask) with word := s.word }
    else none

/-- The meaning: the event, or nothing where it does not occur. -/
def execHangWatchdogExpiry (ag : AgentRef) (s : State) : Host.Outcome State Fault Refusal := happen s (hangWatchdogExpiryEvent ag s)

end Sys2Proof.Machine
end

