-- ==== Sys2Proof/Machine/Remote.lean ====
section
/-! DEFINITION. The fabric instructions (spec/09_fabric.md R264 to R273, OP 0xC0 to 0xC6), the answers to their requests (R260, R263,
R266, R270) and the events of sending, interim answers and timeouts. -/

namespace Sys2Proof.Machine

open Sys2Proof

/-! ### Answers at the requester (R260, R265 to R270) -/

/-- The lanes that an item stands for: itself, or the lanes of its run (R267). -/
def RemReq.lanes (r : RemReq) (lane : Nat) : List Nat :=
  if r.cover.isEmpty then [lane] else (r.cover.filter (fun c => c.2 == lane)).map Prod.fst

/-- Register writes of a lane whose item succeeded: data, old value, or receipt (R265, R267, R269). -/
def remoteWrites (r : RemReq) (lane : Nat) (it : Item) : List RegWrite :=
  match r.op with
  | .load | .atomic => loadWrites (some lane) (BitVec.ofNat 8 r.dreg) r.size it.data
  | .put =>
    let i := ((r.experts.find? (fun e => e.1 == lane)).map (fun e => e.2.2)).getD 0
    [.v lane r.dreg (BitVec.ofNat 32 (r.peer + 1024 * i))]
  | _ => []

/-- Is a register write one of a lane's destinations of a request? -/
def RegWrite.ofLane (l : Nat) : RegWrite → Bool
  | .v lane _ _ => lane == l
  | _ => false

/-- Inserts a lane's failure by rising lane. -/
def addFail (fs : List RemFail) (f : RemFail) : List RemFail := fs.filter (fun x => decide (x.lane < f.lane)) ++ f :: fs.filter (fun x => decide (f.lane ≤ x.lane))

/-- One lane's final status in the window of its instruction: its value replaces the place held for it unless a later
instruction has written the register since (R39); a failed lane's destination is not written. -/
def Pend.answer (p : Pend) (r : RemReq) (lane : Nat) (it : Item) : Pend :=
  if it.status = 0 then
    let ws := remoteWrites r lane it
    { p with writes := p.writes.map (fun w => (ws.find? (fun x => x.same w)).getD w) }
  else { p with writes := p.writes.filter (fun w => !w.ofLane lane), fails := addFail p.fails { lane := lane, peer := r.peer, status := it.status } }

/-- Lanes leave an expert entry's load as they are answered (R268). -/
def unloadExperts (s : State) (es : List (Nat × Nat × Nat)) : State :=
  es.foldl (fun s e =>
    match tget s.experts e.2.1 with
    | none => s
    | some x => { s with experts := tset s.experts e.2.1 { x with load := listMod x.load e.2.2 (fun n => n - 1) } }) s

/-- A failed RMST is held with its group, in program order (R270). -/
def holdFail (g : Group) (r : RemReq) (f : RemFail) : Group :=
  if g.remHeld.any (fun h => h.instr == r.instr) then
    { g with remHeld := g.remHeld.map (fun h => if h.instr = r.instr then { h with fails := addFail h.fails f } else h) }
  else
    let h : HeldRemote := { instr := r.instr, pc := r.pc, iword := r.iword, ecsn := ecsnWord r.ecsn, fails := [f] }
    { g with remHeld := g.remHeld.filter (fun x => decide (x.instr < r.instr)) ++ h :: g.remHeld.filter (fun x => decide (r.instr < x.instr)) }

/-- The sectors of this device's memory that an access to its own window names (R163, R264). -/
def ownSectors (s : State) (peer win n off : Nat) : List Nat :=
  match tget s.windows win with
  | none => []
  | some w =>
    if peer ≠ s.mgmt.device then []
    else (vaParts (w.base + BitVec.ofNat 64 off) n 0 2).flatMap (fun part => match freshWalk s w.ctx part.1 with
      | some p => spanSecs [{ pa := p.pa part.1, len := part.2.1, at_ := 0, page := p }]
      | none => [])

/-- An access to this device's own window has been performed: no later load of its agents returns an older value of its sectors (R163). -/
def ownSeen (s : State) (r : RemReq) (it : Item) : State :=
  let secs := ownSectors s r.peer r.flit.win (itemSpan it) it.off
  let core := ((tget s.blocks r.ag.blk).map (fun b => b.core)).getD r.core
  (r.lanes it.lane).foldl (fun s l => dropAhead s { r.ag with lane := some l } secs) (secs.foldl (fun s k => freshen s core k .dev) s)

/-- One final item answer of a remote instruction. -/
def answerItem (s0 : State) (r : RemReq) (it : Item) : State :=
  let lanes := r.lanes it.lane
  let s := if it.status = 0 then ownSeen s0 r it else s0
  let s1 := unloadExperts s (r.experts.filter (fun e => lanes.contains e.1))
  if r.posted then
    if it.status = 0 then s1
    else s1.mapGroup r.ag.blk r.ag.grp (fun g => lanes.foldl (fun g l => holdFail g r { lane := l, peer := r.peer, status := it.status }) g)
  else
    s1.mapRegs r.ag (fun x => { x with pend := x.pend.map (fun p => if p.await.contains r.id then lanes.foldl (fun p l => p.answer r l it) p else p) })

/-- Raises the horizon of the core on which a block is resident, or the one that is saved with the block (R191, R266). -/
def raiseBlock (s : State) (b : Nat) (d : Dom) (t : Nat) : State :=
  match tget s.blocks b with
  | none => s
  | some bl =>
    if bl.res = .resident then s.raise bl.core d t
    else s.setBlock b { bl with hor := listMod bl.hor (domIdx d) (fun x => max x t) }

/-- A request of which every item has its final answer: its window awaits it no longer, its writes are acknowledged, and an acquire, a load in CAU and
an atomic in CAU raise the horizon (R179, R265, R266). A group that a debugger has halted has its result then (R39). -/
def endRequest (s : State) (r : RemReq) : State :=
  let s1 := pumpOwed { s with fab := { s.fab with recs := s.fab.recs.filter (fun x => x.id != r.id), sendq := s.fab.sendq.filter (fun q => !(q.req == r.id && q.opc == r.op && !netOrdered q.net)) } }
  let s2 := s1.mapRegs r.ag (fun x => { x with pend := x.pend.map (fun p => { p with await := p.await.filter (fun n => n != r.id) }) })
  let s3 := s2.mapGroup r.ag.blk r.ag.grp (fun g => if g.halted then g.halt else g)
  let s4 := if r.op == .load then s3 else noteDone s3 r.ag r.dom r.dom
  if r.acq || (r.dom == .cau && (r.op == .load || r.op == .atomic)) then raiseBlock s4 r.ag.blk r.dom s4.now else s4

/-- Answers to a remote instruction's items. An interim answer starts the count again and marks its item (R260, R263, R271). -/
def remoteAnswer (s : State) (r : RemReq) (items : List Item) : State :=
  let final := items.filter (fun i => i.status != 9 && r.items.any (fun x => x.lane == i.lane))
  let rest := r.items.filter (fun x => !final.any (fun i => i.lane == x.lane))
  let s1 := final.foldl (fun s i => answerItem s r i) s
  if rest.isEmpty then endRequest s1 r
  else
    let since := if items.any (fun i => i.status == 9) then s.now else r.since
    let marked := rest.map (fun x => if items.any (fun i => i.status == 9 && i.lane == x.lane) then { x with status := 9 } else x)
    { s1 with fab := { s1.fab with recs := s1.fab.recs.map (fun x => if x.id = r.id then { x with items := marked, since := since } else x) } }

/-- Answers reach the requester; a request that is no longer known is past its timeout. -/
def applyAnswer (s : State) (req : Nat) (items : List Item) : State :=
  match s.fab.recs.find? (fun r => r.id == req) with
  | none => s
  | some r => if r.bt.isSome then btAnswer s r items else remoteAnswer s r items

/-- Answers of this device's windows go to their requester: over the response network, or at once when it is this device. -/
def answerTo (s : State) (fl : Flit) (items : List Item) : State :=
  if fl.src = s.mgmt.device then applyAnswer s fl.req items else sendAnswers s fl items

/-- The requester's own status for every open item of a request. -/
def failRequest (s : State) (r : RemReq) (status : Nat) : State := applyAnswer s r.id (r.items.map (fun i => { i with status := status, data := [] }))

/-! ### Sending (R252, R260, R265) -/

/-- One pass is sent: failed with 6 for an unreachable peer, served here for the device's own number, queued otherwise. The record keeps the sequence
number of its first flit, by which a pull names the others (R261). -/
def sendPass (s : State) (r : RemReq) : State :=
  let fl := { r.flit with seq := nextSeq s r.flit.dst r.flit.net }
  let s1 := { s with fab := { s.fab with recs := s.fab.recs.map (fun x => if x.id = r.id then { x with sent := true, since := s.now, flit := fl } else x) } }
  if !reachable s r.peer then failRequest s1 r 6
  else if r.peer = s.mgmt.device then let (s2, as_) := serveItems s1 { r.flit with arr := s.now }; applyAnswer s2 r.id as_
  else enqueuePacket s1 fl

/-- May a pass leave now: has send storage room, when it takes storage? -/
def passRoom (s : State) (r : RemReq) : Bool := r.peer == s.mgmt.device || !reachable s r.peer || requestRoom s.fab r.flit

/-- Sends an agent's passes in order while there is room (R260). -/
def sendPasses (s : State) (ag : AgentRef) : Nat → State
  | 0 => s
  | n + 1 =>
    match s.fab.recs.find? (fun r => r.ag == ag && !r.sent) with
    | none => s
    | some r => if passRoom s r then sendPasses (sendPass s r) ag n else s

/-! ### The instructions (R264 to R269) -/

/-- The operation of a remote instruction as its lanes give it: peer, offset, item data, expert and replica. -/
structure RemLane where
  lane : Nat
  peer : Nat
  off  : Nat
  data : List Byte
  exp  : Option (Nat × Nat)
deriving DecidableEq, Repr

/-- Offset of a lane (R264). -/
def remoteOff (v : View) (h : Hdr) (l : Nat) : Nat := (v.r.kget h.c.toNat).toNat / 2 ^ 32 * 65536 + (v.r.vget l h.b.toNat).toNat

/-- The lanes' accesses, each to the peer that A names. -/
def remoteLanes (v : View) (h : Hdr) (data : Nat → List Byte) : List RemLane :=
  (v.active h).map (fun l => { lane := l, peer := (v.r.vget l h.a.toNat).toNat % 1024, off := remoteOff v h l, data := data l, exp := none })

/-- The lanes whose offset is not a multiple of the access size (R264). -/
def misaligned (z : Size) (ls : List RemLane) : List RemLane := ls.filter (fun x => x.off % sizeBytes z != 0)

/-- The items of a pass with what each covers: one per lane, or runs of lanes whose offsets follow each other (R265, R267). A run ends where its item
would not fit in the first flit of a packet, since no item spans two flits (R257; DESIGN CHOICE, log 11). -/
def passItems (z : Size) (op : AtOp) (runs : Bool) (ls : List RemLane) : List Item × List (Nat × Nat) :=
  ls.foldl (fun (acc : List Item × List (Nat × Nat)) x =>
    let new : Item := { off := x.off % 2 ^ 40, size := z, lane := x.lane, op := op, run := 0, status := 0, data := x.data }
    match acc.1.getLast? with
    | some it =>
      if runs && it.off + itemSpan it == x.off && decide (it.data.length + x.data.length ≤ 184) then
        (acc.1.dropLast ++ [{ it with run := it.run + 1, data := it.data ++ x.data }], acc.2 ++ [(x.lane, it.lane)])
      else (acc.1 ++ [new], if runs then acc.2 ++ [(x.lane, x.lane)] else [])
    | none => ([new], if runs then [(x.lane, x.lane)] else [])) ([], [])

/-- The passes of an instruction, one request for each distinct peer in ascending order (R265). -/
def buildPasses (s : State) (v : View) (h : Hdr) (m : FabMod) (fop : FOp) (runs : Bool) (ecsn : Nat) (ls : List RemLane) : State × List RemReq :=
  let peers := (List.range 1024).filter (fun p => ls.any (fun x => x.peer == p))
  let k := (v.r.kget h.c.toNat).toNat
  let ten := ((tget s.ctxs v.ctx).bind (fun c => c.tenant)).getD 0
  let rls : Bool := m.ord == .rls || m.ord == .ar
  let first := s.newId.1
  peers.foldl (fun (acc : State × List RemReq) p =>
    let mine := ls.filter (fun x => x.peer == p)
    let (items, cover) := passItems m.size m.op runs mine
    let (id, s1) := acc.1.newId
    let fl := flitTo s1 p (.dom m.dom) fop (whoOf s1 v.ag) (k % 2 ^ 16) (k / 2 ^ 16 % 2 ^ 16) ten id items (rls && m.dom == .rel)
    let r : RemReq :=
      { id := id, instr := first, ag := v.ag, path := v.mask, core := v.core, op := fop, peer := p, dom := m.dom, rls := rls, flit := fl, items := items, sent := false, since := s1.now,
        posted := fop == .store, ecsn := ecsn, pc := v.r.pc, iword := s.word, bt := none, dreg := h.d.toNat, size := m.size,
        acq := m.ord == .acq || m.ord == .ar, cover := cover, experts := mine.filterMap (fun x => x.exp.map (fun e => (x.lane, e.1, e.2))) }
    (s1, acc.2 ++ [r])) (s, [])

/-- Names of the agent's unanswered remote requests that may touch the place that a lane's access names: of the same peer, and of the same sector of
the window or of another window, which may export the same memory (R163, R187). -/
def samePlace (s : State) (v : View) (win n : Nat) (x : RemLane) : List Nat :=
  (s.fab.recs.filter (fun r => r.mine (v.lane x.lane) v.mask && r.peer == x.peer &&
    (r.flit.win != win || r.items.any (fun it => decide (it.off / 32 ≤ (x.off + n - 1) / 32) && decide (x.off / 32 ≤ (it.off + itemSpan it - 1) / 32))))).map
    (fun r => r.id)

/-- The order that a remote access keeps with the agent's earlier accesses (R163, R187, R266): in its domain as a sys-scope load, or as a store or
atomic; and to the same place. None while a remote access holds it back. -/
def beforeRemote (s : State) (v : View) (m : FabMod) (win : Nat) (store : Bool) (ls : List RemLane) : Option State :=
  let rls : Bool := m.ord == .rls || m.ord == .ar
  let n := sizeBytes m.size
  if ls.any (fun x => !(samePlace s v win n x).isEmpty) then none
  else ls.foldl (fun (o : Option State) x =>
    o.bind (fun s =>
      let me := v.lane x.lane
      let secs := ownSectors s x.peer win n x.off
      if store then beforeAtomic s v.core me v.mask m.dom m.dom rls .sys secs
      else (drain s (((ownStores s v.core me v.mask).filter (fun e => secs.contains e.sec)).map (fun e => e.id))).bind (fun s =>
        beforeLoad s v.core me v.mask m.dom m.dom secs))) (some s)

/-- The places that a long-latency remote instruction will write: zeros until the answers come. -/
def placeHolders (fop : FOp) (h : Hdr) (z : Size) (lanes : List Nat) : List RegWrite :=
  lanes.flatMap (fun l => match fop with
    | .load | .atomic => loadWrites (some l) h.d z []
    | .put => [.v l h.d.toNat 0]
    | _ => [])

/-- What the remote instructions share, once their lanes are known: order, number, window and passes. `bad` are the lanes that
the requester itself fails (R269). -/
def remoteIssue (s : State) (v : View) (h : Hdr) (m : FabMod) (fop : FOp) (runs : Bool) (ls : List RemLane) (bad : List RemFail) : State :=
  let holders := placeHolders fop h m.size (ls.map (fun x => x.lane))
  if v.noSlot holders then startRecall s v.ag
  else
    match beforeRemote s v m ((v.r.kget h.c.toNat).toNat % 2 ^ 16) (fop != .load) ls with
    | none => stall s v .remote
    | some s1 =>
      let n := (s1.core v.core).ecsn
      let (s2, rs) := buildPasses s1 v h m fop runs n ls
      let s3 := (s2.mapCore v.core (fun c => { c with ecsn := n + 1 }))
      let s4 := { s3 with fab := { s3.fab with recs := s3.fab.recs ++ rs } }
      let win : List Pend := if fop == .store then [] else
        [{ left := h.la.toNat, pc := v.r.pc, iword := s.word, ecsn := ecsnWord n, writes := holders, await := rs.map (fun r => r.id), fails := bad, acq := none }]
      sendPasses (finishAt s4 v (v.r.pc + 8) [] 0 win) v.ag rs.length

/-- A remote instruction whose peers stand in A: register bounds, no effect without active lanes, ALIGN, then its passes. -/
def remoteInstr (s : State) (v : View) (h : Hdr) (m : FabMod) (fop : FOp) (runs : Bool) (dregs : Nat) (data : Nat → List Byte) : State :=
  if !v.within false [(h.d, dregs), (h.a, 1), (h.b, 1)] then illegal s v
  else
    let ls := remoteLanes v h data
    match misaligned m.size ls with
    | x :: xs => takeTrap s v { cause := .align, lanes := maskOf ((x :: xs).map (fun y => y.lane)), addr := BitVec.ofNat 64 x.off,
                                acc := some (m.dom, .sys), write := fop != .load }
    | [] => if ls.isEmpty then skip s v 8 else remoteIssue s v h m fop runs ls []

/-- The meaning of RMLD. -/
def execRmld (h : Hdr) (m : FabMod) (s : State) : Host.Outcome State Fault Refusal :=
  withView s (fun v => remoteInstr s v h m .load false (sizeRegs m.size) (fun _ => []))

/-- The meaning of RMST. -/
def execRmst (h : Hdr) (m : FabMod) (s : State) : Host.Outcome State Fault Refusal :=
  withView s (fun v => remoteInstr s v h m .store false (sizeRegs m.size) (fun l => storeBytes v.r (some l) h.d m.size))

/-- The meaning of RMAT: the data of an item is the operand, or comparand and new value for cas. -/
def execRmat (h : Hdr) (m : FabMod) (s : State) : Host.Outcome State Fault Refusal :=
  withView s (fun v => remoteInstr s v h m .atomic false (atomRegs m.size m.op) (fun l =>
    let (x, cmp) := atomData v.r (some l) h.d m.size m.op
    if m.op == .cas then toBytes (sizeBytes m.size) cmp.toNat ++ toBytes (sizeBytes m.size) x.toNat else toBytes (sizeBytes m.size) x.toNat))

/-- The meaning of XCH. -/
def execXch (h : Hdr) (m : FabMod) (s : State) : Host.Outcome State Fault Refusal :=
  collective s (fun v => remoteInstr s v h m .put true (sizeRegs m.size) (fun l => storeBytes v.r (some l) h.d m.size))

/-- The replica of an expert with the smallest load, the lower of equals (R269). -/
def leastReplica (x : Expert) : Nat :=
  (List.range (x.nr + 1)).foldl (fun b i => if x.load.getD i 0 < x.load.getD b 0 then i else b) 0

/-- XEXP's lanes: each distinct expert's entry is read once, in ascending order of expert, and its lanes added to the load of the
replica chosen; lanes of an invalid entry fail with 0x0A. -/
def expertLanes (s : State) (v : View) (h : Hdr) (m : FabMod) : State × List RemLane × List RemFail :=
  let expOf := fun (l : Nat) => (v.r.vget l h.a.toNat).toNat % 4096
  let act := v.active h
  let plan : State × List (Nat × Option (Nat × Nat)) := (List.range 4096).foldl (fun (acc : State × List (Nat × Option (Nat × Nat))) e =>
    let n := (act.filter (fun l => expOf l == e)).length
    if n = 0 then acc
    else match tget acc.1.experts e with
      | some x =>
        if x.v then
          let i := leastReplica x
          ({ acc.1 with experts := tset acc.1.experts e { x with load := listMod x.load i (fun y => min 65535 (y + n)) } }, acc.2 ++ [(e, some (i, x.dev.getD i 0))])
        else (acc.1, acc.2 ++ [(e, none)])
      | none => (acc.1, acc.2 ++ [(e, none)])) (s, [])
  let chosen := fun (l : Nat) => (plan.2.lookup (expOf l)).getD none
  (plan.1,
   act.filterMap (fun l => (chosen l).map (fun c =>
     ({ lane := l, peer := c.2, off := remoteOff v h l, data := storeBytes v.r (some l) h.d m.size, exp := some (expOf l, c.1) } : RemLane))),
   (act.filter (fun l => (chosen l).isNone)).map (fun l => { lane := l, peer := 0, status := 0x0A }))

/-- The meaning of XEXP (R268, R269). -/
def execXexp (h : Hdr) (m : FabMod) (s : State) : Host.Outcome State Fault Refusal :=
  collective s (fun v =>
    if !v.within false [(h.d, sizeRegs m.size), (h.a, 1), (h.b, 1)] then illegal s v
    else
      let plain := remoteLanes v h (fun _ => [])
      match misaligned m.size plain with
      | x :: xs => takeTrap s v { cause := .align, lanes := maskOf ((x :: xs).map (fun y => y.lane)), addr := BitVec.ofNat 64 x.off,
                                  acc := some (m.dom, .sys), write := true }
      | [] =>
        if plain.isEmpty then skip s v 8
        else if s.expCtx ≠ some v.ctx then plainTrap s v .perm (v.trapLanes h)
        else
          match beforeRemote s v m ((v.r.kget h.c.toNat).toNat % 2 ^ 16) true (expertLanes s v h m).2.1 with
          | none => stall s v .remote
          | some s1 =>
            let (s2, ls, bad) := expertLanes s1 v h m
            remoteIssue s2 v h m .put true ls bad)

/-! ### RFENCE and SLOTQ (R272, R273) -/

/-- Does RFENCE wait: a remote access of the domain not answered, or a block transfer with a peer side? -/
def rfenceWaits (s : State) (v : View) (ags : List AgentRef) (d : Dom) : Bool :=
  let c := s.core v.core
  ags.any (fun a => !(remoteIds s a v.mask d).isEmpty) ||
  (c.btl ++ c.bts).any (fun x => x.blk == v.ag.blk && x.grp == v.ag.grp && x.dom == d && peerDir x.dir)

/-- The meaning of RFENCE: the wait, the held failures, then the fence. -/
def execRfence (h : Hdr) (dom : Dom) (s : State) : Host.Outcome State Fault Refusal :=
  withView s (fun v =>
    if v.ej && h.u then startRecall s v.ag
    else if (v.places h).isEmpty then skip s v 8
    else
      let ags := if h.u then [v.whole] else (v.active h).map v.lane
      if rfenceWaits s v ags dom then stall s v .rfence
      else match remHeldReady s v.g v.ag.blk v.ag.grp with
        | some x => raiseRemHeld s v x
        | none =>
          let fs := fenceAgents v.ag (if h.u then lanesOf v.mask else v.active h) h.u
          skip (fs.foldl (fun s a => bridge s v.core a.1 v.mask a.2 dom dom .sys) s) v 8)

/-- Cycles into a slot at which a fibre stops: the guard less its flight time (R252). -/
def Fabric.stopAt (f : Fabric) (fib : Nat) : Nat := f.slotlen - 210 - f.flights.getD fib 0

/-- Fibres that reach a peer in a slot, ascending; in the slot in progress (`live`) a silent one does not count (R253). -/
def Fabric.reaching (f : Fabric) (t : Nat) (live : Bool) (slot p : Nat) : List Nat :=
  (List.range Config.fibres).filter (fun fib => f.peerOf slot fib == some p && !(live && f.deaf t fib))

/-- The next direct slot of a peer: how many slots on, its index, its lowest fibre. The current one counts until its fibres stop. -/
def Fabric.nextDirect (f : Fabric) (t p : Nat) : Option (Nat × Nat × Nat) :=
  let cur := f.slotAt t
  (List.range (f.slotCount + 1)).findSome? (fun k =>
    let idx := ((cur.getD 0) + k) % f.slotCount
    let fs := f.reaching t (k == 0 && cur.map (fun n => n + 1) == some f.slotNow) idx p
    let live : Bool := k != 0 || cur.isNone || fs.any (fun x => decide (f.slotPos t < f.stopAt x))
    match fs with
    | x :: _ => if live then some (k, idx, x) else none
    | [] => none)

/-- Flits queued to a peer over all networks. -/
def queuedFlits (f : Fabric) (p : Nat) : Nat := (f.sendq.filter (fun x => x.dst == p)).length

/-- SLOTQ's answer (R273). A peer that only a relay reaches has no direct slot: those fields are a free value (log 10). -/
def slotqWord (s : State) (p : Nat) : Word :=
  let f := s.fab
  let q := min 65535 (queuedFlits f p)
  if p = s.mgmt.device then BitVec.ofNat 64 (((f.slotAt s.now).getD 0) % f.slotCount * 2 ^ 40 + 0x3F * 2 ^ 32 + q * 2 ^ 48)
  else if !reachable s p then 0xFFFFFFFF
  else match f.nextDirect s.now p with
    | some (k, idx, fib) =>
      let wait := match f.slotAt s.now with
        | some _ => if k = 0 then 0 else k * f.slotlen - f.slotPos s.now
        | none => f.t0 + k * f.slotlen - s.now
      BitVec.ofNat 64 (q * 2 ^ 48 + idx * 2 ^ 40 + fib * 2 ^ 32 + wait % 2 ^ 32)
    | none => BitVec.ofNat 64 (q * 2 ^ 48) ||| (Config.freeWord s.free &&& 0x3F3FFFFFFFFF#64)

/-- The meaning of SLOTQ. -/
def execSlotq (h : Hdr) (s : State) : Host.Outcome State Fault Refusal :=
  groupWide s h 8 (fun v =>
    let a := (v.r.kget h.a.toNat).toNat
    if 1024 ≤ a then illegal s v
    else finishLong { s with free := s.free + 1 } v h [.k h.d.toNat (slotqWord s a)] 0)

/-! ### Events of requests -/

/-- REMOTE_PASS_SEND (R260, R265, R271): the next pass of an agent leaves once send storage has room; those of a block that is pre-empted, or is about to
be, wait for its resume (R191, R291). -/
def remotePassSendEvent (ag : AgentRef) (s : State) : Option State :=
  match s.fab.recs.find? (fun r => r.ag == ag && !r.sent) with
  | none => none
  | some r =>
    if passRoom s r ∧ (tget s.blocks ag.blk).any (fun bl => bl.res == .resident && !bl.stopping) = true then some (sendPass s r) else none

/-- The meaning: the event, or nothing where it does not occur. -/
def execRemotePassSend (ag : AgentRef) (s : State) : Host.Outcome State Fault Refusal := happen s (remotePassSendEvent ag s)

/-- Does this device hold an item of its own request: it repeats the interim answers (R263), or waits for the host link (R421)? -/
def heldHere (s : State) (r : RemReq) : Bool := (s.fab.items ++ s.fab.hosted).any (fun x => x.flit.src == s.mgmt.device && x.flit.req == r.id)

/-- Has a request waited 8 rotations (R260)? -/
def answerDue (s : State) (r : RemReq) : Bool := r.sent && decide (r.since + 8 * s.fab.rotation ≤ s.now) && !heldHere s r

/-- REMOTE_ANSWER_TIMEOUT (R260): the items of a request without an answer fail with status 0x06. -/
def remoteAnswerTimeoutEvent (i : Nat) (s : State) : Option State :=
  match s.fab.recs[i]? with
  | none => none
  | some r => if answerDue s r then some (failRequest s r 6) else none

/-- The meaning: the event, or nothing where it does not occur. -/
def execRemoteAnswerTimeout (i : Nat) (s : State) : Host.Outcome State Fault Refusal := happen s (remoteAnswerTimeoutEvent i s)

/-- Is an interim answer due again (R263)? -/
def interimDue (s : State) (x : HeldItem) : Bool := decide (x.since + 8 * s.fab.rotation ≤ s.now)

/-- INTERIM_ANSWER_REPEAT (R263): a held item's interim answer goes out again. -/
def interimAnswerRepeatEvent (i : Nat) (s : State) : Option State :=
  match s.fab.items[i]? with
  | none => none
  | some x =>
    if interimDue s x then
      let s1 := { s with fab := { s.fab with items := listSet s.fab.items i { x with since := s.now } } }
      some (answerTo s1 x.flit (x.flit.items.map (fun it => { it with status := 9, data := [] })))
    else none

/-- The meaning: the event, or nothing where it does not occur. -/
def execInterimAnswerRepeat (i : Nat) (s : State) : Host.Outcome State Fault Refusal := happen s (interimAnswerRepeatEvent i s)

/-- A held item is performed when its page has been populated (R263, R349), and its final answer goes out. -/
def performHeld (s : State) (x : HeldItem) : State :=
  let (s1, as_) := serveItems { s with fab := { s.fab with items := s.fab.items.filter (fun y => y != x) } } x.flit
  answerTo s1 x.flit as_

/-- The items that waited for the host link are performed in order, and answered (R421). -/
def performHosted (s : State) : State :=
  s.fab.hosted.foldl (fun s x => let (s1, as_) := serveItems s x.flit; answerTo s1 x.flit as_) { s with fab := { s.fab with hosted := [] } }

/-- Every held item of a page that CTXCTL.popdone names. -/
def performHeldPage (s : State) (ctx : Nat) (page : Word) : State :=
  (s.fab.items.filter (fun x => x.ctx == ctx && x.page == page)).foldl performHeld s

end Sys2Proof.Machine
end

