-- ==== Sys2Proof/Machine/Transcend.lean ====
section
/-! DEFINITION. FEXP2, FLOG2, FSIN and FCOS as exact values (spec/04_arithmetic_instructions.md R113, R114). The function is
evaluated in fixed point with far more bits than any format holds; the remainder is a sticky bit, so that `rnd` narrows it
correctly. -/

namespace Sys2Proof.Machine

open Sys2Proof

/-- Fraction bits of the evaluations. -/
def fracBits : Nat := 400

/-- Σ y^k ÷ k! from term `t` = y^(k−1) ÷ (k−1)! on, in fixed point with `p` fraction bits. -/
def expSum (p y : Nat) : Nat → Nat → Nat → Nat
  | 0, _, _ => 0
  | n + 1, k, t => t + expSum p y n (k + 1) (t * y / 2 ^ p / k)

/-- atanh(1 ÷ d) × 2^p, by its series, `t` being 2^p ÷ d^(2k+1). -/
def atanhSum (d : Nat) : Nat → Nat → Nat → Nat
  | 0, _, _ => 0
  | n + 1, k, t => t / (2 * k + 1) + atanhSum d n (k + 1) (t / (d * d))

/-- ln 2 in fixed point: 2 atanh(1/3). -/
def ln2Fix (p : Nat) : Nat := 2 * atanhSum 3 (p / 3 + 2) 0 (2 ^ p / 3)

/-- Σ z^(2k+1) ÷ (2k+1), for fixed-point z; `t` is z^(2k+1). -/
def atanhFix (p z : Nat) : Nat → Nat → Nat → Nat
  | 0, _, _ => 0
  | n + 1, k, t => t / (2 * k + 1) + atanhFix p z n (k + 1) (t * z / 2 ^ p * z / 2 ^ p)

/-- atan(1 ÷ d) × 2^p as an alternating series. -/
def atanSum (d : Nat) : Nat → Nat → Nat → Int
  | 0, _, _ => 0
  | n + 1, k, t => (t / (2 * k + 1) : Nat) - atanSum d n (k + 1) (t / (d * d))

/-- π in fixed point: 16 atan(1/5) − 4 atan(1/239). -/
def piFix (p : Nat) : Nat :=
  let q := p + 16
  ((16 * atanSum 5 (q / 4 + 2) 0 (2 ^ q / 5) - 4 * atanSum 239 (q / 15 + 2) 0 (2 ^ q / 239)) / 65536).toNat

/-- Alternating Σ of x^k ÷ k! over every second k, from term `t` = x^k ÷ k!. -/
def altSum (p x : Nat) : Nat → Nat → Nat → Int
  | 0, _, _ => 0
  | n + 1, k, t => (t : Int) - altSum p x n (k + 2) (t * x / 2 ^ p * x / 2 ^ p / ((k + 1) * (k + 2)))

/-- sin of a fixed-point angle in [0, π/2]. -/
def sinFix (p x : Nat) : Nat := (altSum p x 60 1 x).toNat

/-- cos of a fixed-point angle in [0, π/2]. -/
def cosFix (p x : Nat) : Nat := (altSum p x 60 0 (2 ^ p)).toNat

/-- m × 2^e in fixed point. -/
def toFix (p m : Nat) (e : Int) : Nat :=
  let sh : Int := e + p
  if 0 ≤ sh then m * 2 ^ sh.toNat else m / 2 ^ (-sh).toNat

/-- Is the magnitude of m × 2^e below 2^−200? -/
def tinyArg (m : Nat) (e : Int) : Bool := decide (e + bitLen m < -200)

/-- A value a little above or below m × 2^e: ten thousand bits finer than its last place. -/
def nudge (neg up : Bool) (m : Nat) (e : Int) : Exact := .fin neg (if up then m * 2 ^ 256 else m * 2 ^ 256 - 1) (e - 256) true

/-- 2^a (R113, R114). -/
def exExp2 (x : Exact) : Exact × Flags :=
  match x with
  | .nan g => (.nan false, sigFlag (.nan g))
  | .inf true => (.zero false, 0)
  | .inf false => (.inf false, 0)
  | .zero _ => (.fin false 1 0 false, 0)
  | .fin neg m e _ =>
    if tinyArg m e then (nudge false (!neg) 1 0, 0)
    else if 13 < e + bitLen m then (.fin false 1 (if neg then -5000 else 5000) true, 0)
    else
      let f := toFix fracBits m e
      let a : Int := if neg then -(f : Int) else f
      let n := a / ((2 ^ fracBits : Nat) : Int)
      let r := (a % ((2 ^ fracBits : Nat) : Int)).toNat
      if r = 0 then (.fin false 1 n false, 0)
      else (.fin false (expSum fracBits (r * ln2Fix fracBits / 2 ^ fracBits) 100 1 (2 ^ fracBits)) (n - fracBits) true, 0)

/-- log2 a (R113, R114). -/
def exLog2 (x : Exact) : Exact × Flags :=
  match x with
  | .nan g => (.nan false, sigFlag (.nan g))
  | .inf true => (.nan false, fNV)
  | .inf false => (.inf false, 0)
  | .zero _ => (.inf true, fDZ)
  | .fin true _ _ _ => (.nan false, fNV)
  | .fin false m e _ =>
    let k := bitLen m - 1
    let n : Int := e + k
    if m = 2 ^ k then (ofInt false n 0, 0)
    else
      let p := fracBits
      let z := (m - 2 ^ k) * 2 ^ p / (m + 2 ^ k)
      let l := 2 * atanhFix p z (p / 3 + 2) 0 z
      let r : Int := n * ((2 ^ p : Nat) : Int) + ((l * 2 ^ p / ln2Fix p : Nat) : Int)
      (.fin (decide (r < 0)) (if r < 0 then r.natAbs - 1 else r.natAbs) (-(p : Int)) true, 0)

/-- Quadrant and remainder of an angle in fixed point, with as many bits of π as its magnitude needs. -/
def reduceAngle (m : Nat) (e : Int) : Nat × Nat :=
  let q := fracBits + (e + bitLen m).toNat + 16
  let a := toFix q m e
  let half := piFix q / 2
  (a / half % 4, a % half / 2 ^ (q - fracBits))

/-- A sine or cosine value of sign `neg` from fixed point. -/
def trigValue (neg : Bool) (x : Nat) : Exact := .fin neg x (-(fracBits : Int)) true

/-- sin a (R113, R114). -/
def exSin (x : Exact) : Exact × Flags :=
  match x with
  | .nan g => (.nan false, sigFlag (.nan g))
  | .inf _ => (.nan false, fNV)
  | .zero b => (.zero b, 0)
  | .fin neg m e _ =>
    if tinyArg m e then (nudge neg false m e, 0)
    else
      let (q, r) := reduceAngle m e
      match q with
      | 0 => (trigValue neg (sinFix fracBits r), 0)
      | 1 => (trigValue neg (cosFix fracBits r), 0)
      | 2 => (trigValue (!neg) (sinFix fracBits r), 0)
      | _ => (trigValue (!neg) (cosFix fracBits r), 0)

/-- cos a (R113, R114). -/
def exCos (x : Exact) : Exact × Flags :=
  match x with
  | .nan g => (.nan false, sigFlag (.nan g))
  | .inf _ => (.nan false, fNV)
  | .zero _ => (.fin false 1 0 false, 0)
  | .fin _ m e _ =>
    if tinyArg m e then (nudge false false 1 0, 0)
    else
      let (q, r) := reduceAngle m e
      match q with
      | 0 => (trigValue false (cosFix fracBits r), 0)
      | 1 => (trigValue true (sinFix fracBits r), 0)
      | 2 => (trigValue true (cosFix fracBits r), 0)
      | _ => (trigValue false (sinFix fracBits r), 0)

/-! ### Sums of products (R91 to R93) -/

/-- The exact sum of a chunk's products, each with the flags of its invalid cases (R93). -/
def chunkSum (ps : List (Exact × Flags)) : Exact × Flags :=
  let fl := flagsAll (ps.map Prod.snd)
  let pos := ps.any (fun p => p.1 == .inf false)
  let neg := ps.any (fun p => p.1 == .inf true)
  if pos && neg then (.nan false, fl ||| fNV)
  else if ps.any (fun p => p.1.isNan) then (.nan false, fl)
  else match ps with
    | [] => (.zero false, fl)
    | p :: rest => (rest.foldl (fun acc q => (exAdd .rne acc q.1).1) p.1, fl)

/-- `chunk_update` of R91, or of R92 under version 1: the accumulator after one chunk. A signalling NaN in the accumulator (the C operand of FDOT2
and FDOT4, a Z element) sets NV as every signalling operand does by R71, although the list of R93 does not name it (DEDUCED, log 44). -/
def chunkUpdate (v1 sat : Bool) (acc : Nat) (ps : List (Exact × Flags)) : Nat × Flags :=
  let s := chunkSum ps
  let t : Exact × Flags := if v1 then (let r := rnd f32F .rtz false 0 s.1; (f32F.decode r.1, s.2 ||| r.2)) else s
  let a := exAdd .rne (f32F.decode acc) t.1
  let r := rnd f32F .rne sat 0 a.1
  (r.1, t.2 ||| a.2 ||| r.2)

end Sys2Proof.Machine
end

