-- ==== Sys2Proof/Machine/Float.lean ====
section
/-! DEFINITION. Floating-point instructions (spec/04_arithmetic_instructions.md R108 to R116, OP 0x20 to 0x33). -/

namespace Sys2Proof.Machine

open Sys2Proof

/-- An exact result with its flags, narrowed to a type in the instruction's mode (R77, R78). -/
def fpNarrow (m : FpMod) (r : Exact × Flags) : Nat × Flags :=
  let q := rnd (ftyFormat m.ty) m.rm m.sat 0 r.1
  (q.1, r.2 ||| q.2)

/-- The exact value of an element. -/
def fpVal (m : FpMod) (x : Nat) : Exact := (ftyFormat m.ty).decode x

/-- The meaning of FADD (R110). -/
def execFadd (h : Hdr) (m : FpMod) (s : State) : Host.Outcome State Fault Refusal :=
  fpOp2 s h m false (fun a b => fpNarrow m (exAdd m.rm (fpVal m a) (fpVal m b)))

/-- The meaning of FMUL (R110). -/
def execFmul (h : Hdr) (m : FpMod) (s : State) : Host.Outcome State Fault Refusal :=
  fpOp2 s h m false (fun a b => fpNarrow m (exMul (fpVal m a) (fpVal m b)))

/-- The meaning of FFMA: one rounding (R110). -/
def execFfma (h : Hdr) (m : FpMod) (s : State) : Host.Outcome State Fault Refusal :=
  compute s h 8 false ([(h.d, span m.ty.wide), (h.a, span m.ty.wide)] ++ regs3 h m.bk m.ck m.ty.wide) (fun v l =>
    let a := fpElems m.ty m.swa m.na (readReg v.r l h.a m.ty.wide)
    let b := fpElems m.ty m.swb m.nb (secondOf3 v.r l h m.bk m.ty.wide)
    let c := fpElems m.ty 0 false (third v.r l h m.ck m.ty.wide (fpImm m.ty m.ck h.c))
    let rs := (List.zip a (List.zip b c)).map (fun x => fpNarrow m (exFma m.rm (fpVal m x.1) (fpVal m x.2.1) (fpVal m x.2.2)))
    (fpWrite m.ty l h.d (rs.map Prod.fst), flagsAll (rs.map Prod.snd)))

/-- FMIN or FMAX (R111): −0 lies below +0; one NaN gives the other operand. -/
def minMax (f : FFmt) (max : Bool) (a b : Nat) : Nat × Flags :=
  let x := f.decode a
  let y := f.decode b
  let fl := sigFlag x ||| sigFlag y
  if x.isNan then (if y.isNan then f.nanBits else b, fl)
  else if y.isNan then (a, fl)
  else
    let c := exCmp x y
    let less : Bool := decide (c < 0) || (c == 0 && x.isNeg && !y.isNeg)
    (if less != max then a else b, fl)

/-- The meaning of FMIN. -/
def execFmin (h : Hdr) (m : FpMod) (s : State) : Host.Outcome State Fault Refusal := fpOp2 s h m false (minMax (ftyFormat m.ty) false)

/-- The meaning of FMAX. -/
def execFmax (h : Hdr) (m : FpMod) (s : State) : Host.Outcome State Fault Refusal := fpOp2 s h m false (minMax (ftyFormat m.ty) true)

/-- A floating-point comparison with its flags (R112). -/
def fpCompare (f : FFmt) (cc : FCond) (a b : Nat) : Bool × Flags :=
  let x := f.decode a
  let y := f.decode b
  let nan := x.isNan || y.isNan
  let quiet := sigFlag x ||| sigFlag y
  let c := exCmp x y
  match cc with
  | .eq => (!nan && c == 0, quiet)
  | .ne => (nan || c != 0, quiet)
  | .lt => (!nan && decide (c < 0), if nan then fNV else 0)
  | .le => (!nan && decide (c ≤ 0), if nan then fNV else 0)
  | .gt => (!nan && decide (0 < c), if nan then fNV else 0)
  | .ge => (!nan && decide (0 ≤ c), if nan then fNV else 0)
  | .ord => (!nan, quiet)
  | .uno => (nan, quiet)

/-- The meaning of FCMP: a predicate (R112). -/
def execFcmp (h : Hdr) (m : FpMod) (cc : FCond) (s : State) : Host.Outcome State Fault Refusal :=
  compute s h 8 false ([(h.a, span m.ty.wide)] ++ regs2 h m.bk m.ck m.ty.wide) (fun v l =>
    let a := (fpElems m.ty m.swa m.na (readReg v.r l h.a m.ty.wide)).headD 0
    let b := (fpSecond v.r l h m).headD 0
    let r := fpCompare (ftyFormat m.ty) cc a b
    ([writePred l h.d r.1], r.2))

/-- Encoding of 1.0. -/
def FFmt.one (f : FFmt) : Nat := f.bias * 2 ^ f.mbits

/-- The meaning of FSET: 1.0 or +0.0 per element (R112). -/
def execFset (h : Hdr) (m : FpMod) (cc : FCond) (s : State) : Host.Outcome State Fault Refusal :=
  fpOp2 s h m false (fun a b =>
    let r := fpCompare (ftyFormat m.ty) cc a b
    (if r.1 then (ftyFormat m.ty).one else 0, r.2))

/-- The exact value 1. -/
def exOne : Exact := .fin false 1 0 false

/-- The meaning of FRCP (R113, R114). -/
def execFrcp (h : Hdr) (m : FpMod) (s : State) : Host.Outcome State Fault Refusal :=
  fpOp1 s h m true true (fun a => fpNarrow m (exDiv exOne (fpVal m a)))

/-- The meaning of FRSQ. -/
def execFrsq (h : Hdr) (m : FpMod) (s : State) : Host.Outcome State Fault Refusal :=
  fpOp1 s h m true true (fun a => fpNarrow m (exRsqrt (fpVal m a)))

/-- The meaning of FSQRT. -/
def execFsqrt (h : Hdr) (m : FpMod) (s : State) : Host.Outcome State Fault Refusal :=
  fpOp1 s h m true true (fun a => fpNarrow m (exSqrt (fpVal m a)))

/-- The meaning of FDIV. -/
def execFdiv (h : Hdr) (m : FpMod) (s : State) : Host.Outcome State Fault Refusal :=
  fpOp2 s h m true (fun a b => fpNarrow m (exDiv (fpVal m a) (fpVal m b)))

/-- The meaning of FEXP2. -/
def execFexp2 (h : Hdr) (m : FpMod) (s : State) : Host.Outcome State Fault Refusal :=
  fpOp1 s h m true true (fun a => fpNarrow m (exExp2 (fpVal m a)))

/-- The meaning of FLOG2. -/
def execFlog2 (h : Hdr) (m : FpMod) (s : State) : Host.Outcome State Fault Refusal :=
  fpOp1 s h m true true (fun a => fpNarrow m (exLog2 (fpVal m a)))

/-- The meaning of FSIN. -/
def execFsin (h : Hdr) (m : FpMod) (s : State) : Host.Outcome State Fault Refusal :=
  fpOp1 s h m true true (fun a => fpNarrow m (exSin (fpVal m a)))

/-- The meaning of FCOS. -/
def execFcos (h : Hdr) (m : FpMod) (s : State) : Host.Outcome State Fault Refusal :=
  fpOp1 s h m true true (fun a => fpNarrow m (exCos (fpVal m a)))

/-- A rounded to an integral value of its format (R115). -/
def roundIntegral (f : FFmt) (mode : Rm) (a : Nat) : Nat × Flags :=
  match f.decode a with
  | .nan g => (f.nanBits, sigFlag (.nan g))
  | .inf b => ((if b then f.signBit else 0) + f.infBits, 0)
  | .zero b => (if b then f.signBit else 0, 0)
  | .fin neg k e _ =>
    let r := roundAt mode 0 neg k e false 0
    if r.n = 0 then (if neg then f.signBit else 0, 0) else ((rnd f .rne false 0 (.fin neg r.n 0 false)).1, 0)

/-- The meaning of FRND. -/
def execFrnd (h : Hdr) (m : FpMod) (s : State) : Host.Outcome State Fault Refusal :=
  fpOp1 s h m false true (roundIntegral (ftyFormat m.ty) m.rm)

/-- The class mask of an encoding (R115). -/
def classMask (f : FFmt) (a : Nat) : Nat :=
  let sub : Bool := a % f.signBit < 2 ^ f.mbits
  match f.decode a with
  | .inf true => 1
  | .fin true _ _ _ => if sub then 4 else 2
  | .zero true => 8
  | .zero false => 16
  | .fin false _ _ _ => if sub then 32 else 64
  | .inf false => 128
  | .nan true => 256
  | .nan false => 512

/-- The meaning of FCLASS: one register even for f64. -/
def execFclass (h : Hdr) (m : FpMod) (s : State) : Host.Outcome State Fault Refusal :=
  fpOp1 s h m false false (fun a => (classMask (ftyFormat m.ty) a, 0))

/-- a × 2^n exactly; R115 gives a zero no sign, so it is +0 (R77; DEDUCED, log 44). -/
def exScale (x : Exact) (n : Int) : Exact × Flags :=
  match x with
  | .nan g => (.nan false, sigFlag (.nan g))
  | .inf b => (.inf b, 0)
  | .zero _ => (.zero false, 0)
  | .fin neg m e st => (.fin neg m (e + n) st, 0)

/-- The integer scales of FSCALE: an i32 for scalar types, two i16 elements for packed types (R115). -/
def scaleElems (r : Regs) (l : Option Nat) (h : Hdr) (m : FpMod) : List Int :=
  let imm := wrapTo 32 (immInt m.ck h.c)
  let x := second r l h m.bk m.ck false (if m.ty.packed then twice16 imm else imm)
  if m.ty.packed then (packedElems (swOf m.ck m.swb) x).map (signedOf 16) else [signedOf 32 x]

/-- The meaning of FSCALE. -/
def execFscale (h : Hdr) (m : FpMod) (s : State) : Host.Outcome State Fault Refusal :=
  compute s h 8 false ([(h.d, span m.ty.wide), (h.a, span m.ty.wide)] ++ regs2 h m.bk m.ck false) (fun v l =>
    let a := fpElems m.ty m.swa m.na (readReg v.r l h.a m.ty.wide)
    let rs := List.zipWith (fun x n => fpNarrow m (exScale (fpVal m x) n)) a (scaleElems v.r l h m)
    (fpWrite m.ty l h.d (rs.map Prod.fst), flagsAll (rs.map Prod.snd)))

/-- A dot product added to an f32 accumulator as one chunk (R116): products of the elements of the two formats. -/
def dot (v1 sat : Bool) (fa fb : FFmt) (a b : List Nat) (c : Nat) : Nat × Flags :=
  chunkUpdate v1 sat c (List.zipWith (fun x y => exMul (fa.decode x) (fb.decode y)) a b)

/-- The meaning of FDOT2. -/
def execFdot2 (h : Hdr) (m : FpMod) (s : State) : Host.Outcome State Fault Refusal :=
  compute s h 8 false ([(h.d, 1), (h.a, 1), (h.c, 1)] ++ (if m.bk then [] else [(h.b, 1)])) (fun v l =>
    let a := fpElems m.ty m.swa m.na (readReg v.r l h.a false)
    let b := fpElems m.ty m.swb m.nb (secondOf3 v.r l h m.bk false)
    let f := ftyFormat m.ty
    let r := dot (v.pkt.nbv == 1) m.sat f f a b (readReg v.r l h.c false)
    (writeReg l h.d false false r.1, r.2))

/-- The formats of an FP8 pair: A's and B's (R44). -/
def fp8Formats : Fp8Pair → FFmt × FFmt
  | .e4e4 => (e4m3F, e4m3F)
  | .e5e5 => (e5m2F, e5m2F)
  | .e4e5 => (e4m3F, e5m2F)
  | .e5e4 => (e5m2F, e4m3F)

/-- The four bytes of a register. -/
def byteElems (x : Nat) : List Nat := [x % 256, x / 2 ^ 8 % 256, x / 2 ^ 16 % 256, x / 2 ^ 24 % 256]

/-- The meaning of FDOT4. -/
def execFdot4 (h : Hdr) (m : FpMod) (pair : Fp8Pair) (s : State) : Host.Outcome State Fault Refusal :=
  compute s h 8 false ([(h.d, 1), (h.a, 1), (h.c, 1)] ++ (if m.bk then [] else [(h.b, 1)])) (fun v l =>
    let f := fp8Formats pair
    let a := (byteElems (readReg v.r l h.a false)).map (negEnc f.1 m.na)
    let b := (byteElems (secondOf3 v.r l h m.bk false)).map (negEnc f.2 m.nb)
    let r := dot (v.pkt.nbv == 1) m.sat f.1 f.2 a b (readReg v.r l h.c false)
    (writeReg l h.d false false r.1, r.2))

end Sys2Proof.Machine
end

