-- ==== Sys2Proof/Machine/Int.lean ====
section
/-! DEFINITION. Integer, logic and address instructions (spec/04_arithmetic_instructions.md R100 to R107, OP 0x00 to 0x1F). -/

namespace Sys2Proof.Machine

open Sys2Proof

/-- The integer that an element stands for: by TY's signedness (R101). -/
def intVal (ty : IntTy) (x : Nat) : Int := if ty.signed then signedOf ty.width x else ((x % 2 ^ ty.width : Nat) : Int)

/-- The least and the greatest value of a type. -/
def intMin (ty : IntTy) : Int := if ty.signed then -(2 ^ (ty.width - 1) : Nat) else 0
/-- The greatest value. -/
def intMax (ty : IntTy) : Int := if ty.signed then ((2 ^ (ty.width - 1) : Nat) : Int) - 1 else ((2 ^ ty.width : Nat) : Int) - 1

/-- An exact result narrowed: clamped under `.sat`, wrapped otherwise (R101). -/
def narrow (ty : IntTy) (sat : Bool) (x : Int) : Nat :=
  wrapTo ty.width (if sat then (if x < intMin ty then intMin ty else if intMax ty < x then intMax ty else x) else x)

/-- The meaning of ADD. -/
def execAdd (h : Hdr) (m : IntMod) (s : State) : Host.Outcome State Fault Refusal :=
  intOp2 s h m false (fun a b => narrow m.ty m.sat (intVal m.ty a + intVal m.ty b))

/-- The meaning of SUB. -/
def execSub (h : Hdr) (m : IntMod) (s : State) : Host.Outcome State Fault Refusal :=
  intOp2 s h m false (fun a b => narrow m.ty m.sat (intVal m.ty a - intVal m.ty b))

/-- The meaning of MIN. -/
def execMin (h : Hdr) (m : IntMod) (s : State) : Host.Outcome State Fault Refusal :=
  intOp2 s h m false (fun a b => if intVal m.ty b < intVal m.ty a then b else a)

/-- The meaning of MAX. -/
def execMax (h : Hdr) (m : IntMod) (s : State) : Host.Outcome State Fault Refusal :=
  intOp2 s h m false (fun a b => if intVal m.ty a < intVal m.ty b then b else a)

/-- The meaning of ABS (R101). -/
def execAbs (h : Hdr) (m : IntMod) (s : State) : Host.Outcome State Fault Refusal :=
  intOp1 s h m (fun a => narrow m.ty m.sat ((intVal m.ty a).natAbs : Int))

/-- The meaning of MUL. -/
def execMul (h : Hdr) (m : IntMod) (s : State) : Host.Outcome State Fault Refusal :=
  intOp2 s h m false (fun a b => narrow m.ty m.sat (intVal m.ty a * intVal m.ty b))

/-- The meaning of MULH: the high half of the exact product. -/
def execMulh (h : Hdr) (m : IntMod) (s : State) : Host.Outcome State Fault Refusal :=
  intOp2 s h m false (fun a b => wrapTo (2 * m.ty.width) (intVal m.ty a * intVal m.ty b) / 2 ^ m.ty.width)

/-- The meaning of MAD. -/
def execMad (h : Hdr) (m : IntMod) (s : State) : Host.Outcome State Fault Refusal :=
  intOp3 s h m (fun a b c _ => narrow m.ty m.sat (intVal m.ty a * intVal m.ty b + intVal m.ty c))

/-- Quotient and remainder of R102. -/
def divRem (ty : IntTy) (a b : Nat) : Nat × Nat :=
  let x := intVal ty a
  let y := intVal ty b
  if y = 0 then (2 ^ ty.width - 1, a)
  else if ty.signed && x == intMin ty && y == -1 then (2 ^ (ty.width - 1), 0)
  else (wrapTo ty.width (Int.tdiv x y), wrapTo ty.width (x - Int.tdiv x y * y))

/-- The meaning of DIVU. -/
def execDivu (h : Hdr) (m : IntMod) (s : State) : Host.Outcome State Fault Refusal := intOp2 s h m true (fun a b => (divRem m.ty a b).1)

/-- The meaning of DIVS. -/
def execDivs (h : Hdr) (m : IntMod) (s : State) : Host.Outcome State Fault Refusal := intOp2 s h m true (fun a b => (divRem m.ty a b).1)

/-- The meaning of REMU. -/
def execRemu (h : Hdr) (m : IntMod) (s : State) : Host.Outcome State Fault Refusal := intOp2 s h m true (fun a b => (divRem m.ty a b).2)

/-- The meaning of REMS. -/
def execRems (h : Hdr) (m : IntMod) (s : State) : Host.Outcome State Fault Refusal := intOp2 s h m true (fun a b => (divRem m.ty a b).2)

/-- The meaning of AND. -/
def execAnd (h : Hdr) (m : IntMod) (s : State) : Host.Outcome State Fault Refusal := intOp2 s h m false (fun a b => a &&& b)

/-- The meaning of OR. -/
def execOr (h : Hdr) (m : IntMod) (s : State) : Host.Outcome State Fault Refusal := intOp2 s h m false (fun a b => a ||| b)

/-- The meaning of XOR. -/
def execXor (h : Hdr) (m : IntMod) (s : State) : Host.Outcome State Fault Refusal := intOp2 s h m false (fun a b => a ^^^ b)

/-- Bitwise lookup (R104): result bit i is tt[a_i + 2 b_i + 4 c_i]. -/
def blutWord (tt : BitVec 8) (a b c : Word) : Word :=
  let t := fun (i : Nat) (m : Word) => if tt.getLsbD i then m else 0
  t 0 (~~~a &&& ~~~b &&& ~~~c) ||| t 1 (a &&& ~~~b &&& ~~~c) ||| t 2 (~~~a &&& b &&& ~~~c) ||| t 3 (a &&& b &&& ~~~c) |||
  t 4 (~~~a &&& ~~~b &&& c) ||| t 5 (a &&& ~~~b &&& c) ||| t 6 (~~~a &&& b &&& c) ||| t 7 (a &&& b &&& c)

/-- The meaning of BLUT: 32 bits in a lane, 64 in the group-wide form. -/
def execBlut (h : Hdr) (tt : BitVec 8) (s : State) : Host.Outcome State Fault Refusal :=
  compute s h 8 false [(h.d, 1), (h.a, 1), (h.b, 1), (h.c, 1)] (fun v l =>
    let x := fun (n : BitVec 8) => BitVec.ofNat 64 (readReg v.r l n h.u)
    let y := blutWord tt (x h.a) (x h.b) (x h.c)
    (match l with
     | some l => [RegWrite.v l h.d.toNat (y.setWidth 32)]
     | none => [RegWrite.k h.d.toNat y], 0))

/-- The meaning of SHL (R103). -/
def execShl (h : Hdr) (m : IntMod) (s : State) : Host.Outcome State Fault Refusal :=
  intOp2 s h m false (fun a b => a * 2 ^ (b % m.ty.width) % 2 ^ m.ty.width)

/-- The meaning of SHR (R103). -/
def execShr (h : Hdr) (m : IntMod) (s : State) : Host.Outcome State Fault Refusal :=
  intOp2 s h m false (fun a b => a / 2 ^ (b % m.ty.width))

/-- The meaning of SAR (R103): the top bit fills, whatever TY's signedness. -/
def execSar (h : Hdr) (m : IntMod) (s : State) : Host.Outcome State Fault Refusal :=
  intOp2 s h m false (fun a b => wrapTo m.ty.width (Int.fdiv (signedOf m.ty.width a) ((2 ^ (b % m.ty.width) : Nat) : Int)))

/-- The meaning of FSH (R103): the pair {b, a} shifted right by c mod w. -/
def execFsh (h : Hdr) (m : IntMod) (s : State) : Host.Outcome State Fault Refusal :=
  intOp3 s h m (fun a b c _ => (b * 2 ^ m.ty.width + a) / 2 ^ (c % m.ty.width) % 2 ^ m.ty.width)

/-- Position and length of a bit field (R103); none when the field is empty. -/
def fieldOf (w pos len : Nat) : Option (Nat × Nat) :=
  let p := pos % 256
  let n := len % 256
  if w ≤ p ∨ n = 0 then none else some (p, min n (w - p))

/-- The meaning of BFX (R103). -/
def execBfx (h : Hdr) (m : IntMod) (s : State) : Host.Outcome State Fault Refusal :=
  intOp3 s h m (fun a b c _ =>
    match fieldOf m.ty.width b c with
    | none => 0
    | some (p, n) => let x := a / 2 ^ p % 2 ^ n; if m.ty.signed then wrapTo m.ty.width (signedOf n x) else x)

/-- The meaning of BFI (R103): the base is the old destination. -/
def execBfi (h : Hdr) (m : IntMod) (s : State) : Host.Outcome State Fault Refusal :=
  intOp3 s h m (fun a b c d =>
    match fieldOf m.ty.width b c with
    | none => d
    | some (p, n) => d - d / 2 ^ p % 2 ^ n * 2 ^ p + a % 2 ^ n * 2 ^ p)

/-- Number of 1 bits among the low `w`. -/
def popCount (w x : Nat) : Nat := ((List.range w).filter (fun i => x.testBit i)).length

/-- The meaning of POPC. -/
def execPopc (h : Hdr) (m : IntMod) (s : State) : Host.Outcome State Fault Refusal := intOp1 s h m (fun a => popCount m.ty.width a)

/-- The meaning of CLZ. -/
def execClz (h : Hdr) (m : IntMod) (s : State) : Host.Outcome State Fault Refusal := intOp1 s h m (fun a => m.ty.width - bitLen a)

/-- The meaning of CTZ. -/
def execCtz (h : Hdr) (m : IntMod) (s : State) : Host.Outcome State Fault Refusal :=
  intOp1 s h m (fun a => ((List.range m.ty.width).find? (fun i => a.testBit i)).getD m.ty.width)

/-- Bit i of the result is bit w − 1 − i. -/
def reverseBits (w x : Nat) : Nat := (List.range w).foldl (fun y i => y + (if x.testBit (w - 1 - i) then 2 ^ i else 0)) 0

/-- The meaning of BREV. -/
def execBrev (h : Hdr) (m : IntMod) (s : State) : Host.Outcome State Fault Refusal := intOp1 s h m (fun a => reverseBits m.ty.width a)

/-- The meaning of SEL (R105): a where the predicate that C names is true, else b. -/
def execSel (h : Hdr) (m : IntMod) (s : State) : Host.Outcome State Fault Refusal :=
  compute s h 8 false ([(h.d, span m.ty.wide), (h.a, span m.ty.wide)] ++ (if m.bk then [] else [(h.b, span m.ty.wide)])) (fun v l =>
    let a := intElems m.ty m.swa (readReg v.r l h.a m.ty.wide)
    let b := intElems m.ty m.swb (secondOf3 v.r l h m.bk m.ty.wide)
    (writeReg l h.d m.ty.wide m.ty.copiesSign (joinElems (if readPred v.r l h.c then a else b)), 0))

/-- An integer comparison (R44, R105). -/
def intCmp (ty : IntTy) (cc : ICond) (a b : Nat) : Bool :=
  let x := intVal ty a
  let y := intVal ty b
  match cc with
  | .eq => x == y
  | .ne => x != y
  | .lt => decide (x < y)
  | .le => decide (x ≤ y)
  | .gt => decide (y < x)
  | .ge => decide (y ≤ x)

/-- The meaning of ISET (R105): 1 or 0 per element. -/
def execIset (h : Hdr) (m : IntMod) (cc : ICond) (s : State) : Host.Outcome State Fault Refusal :=
  intOp2 s h m false (fun a b => if intCmp m.ty cc a b then 1 else 0)

/-- The meaning of CMP (R105): a predicate. -/
def execCmp (h : Hdr) (m : IntMod) (cc : ICond) (s : State) : Host.Outcome State Fault Refusal :=
  compute s h 8 false ([(h.a, span m.ty.wide)] ++ regs2 h m.bk m.ck m.ty.wide) (fun v l =>
    ([writePred l h.d (intCmp m.ty cc (readReg v.r l h.a m.ty.wide) (second v.r l h m.bk m.ck m.ty.wide (intImm m.ty m.ck h.c)))], 0))

/-- The meaning of LEA (R106): a + (ext(b) << n). -/
def execLea (h : Hdr) (m : IntMod) (s : State) : Host.Outcome State Fault Refusal :=
  compute s h 8 false ([(h.d, span m.ty.wide), (h.a, span m.ty.wide)] ++ (if m.bk then [] else [(h.b, 1)])) (fun v l =>
    let a := readReg v.r l h.a m.ty.wide
    let b := secondOf3 v.r l h m.bk false
    let x : Int := if m.ty.signed then signedOf 32 b else ((b % 2 ^ 32 : Nat) : Int)
    (writeReg l h.d m.ty.wide m.ty.copiesSign (wrapTo m.ty.width ((a : Int) + x * ((2 ^ h.c.toNat : Nat) : Int))), 0))

/-- The meaning of MOV (R107). -/
def execMov (h : Hdr) (m : IntMod) (s : State) : Host.Outcome State Fault Refusal := intOp1 s h m (fun a => a)

/-- The meaning of MOVI (R44, R107). -/
def execMovi (h : Hdr) (w : Bool) (x : Word) (s : State) : Host.Outcome State Fault Refusal :=
  compute s h 16 false [(h.d, span w)] (fun _ l => (writeReg l h.d (w || h.u) false x.toNat, 0))

end Sys2Proof.Machine
end

