-- ==== Sys2Proof/Machine/Convert.lean ====
section
/-! DEFINITION. Conversion, packing and quantisation (spec/03_formats.md R73 to R90; 04_arithmetic_instructions.md R117 to
R124, OP 0x40 to 0x48). -/

namespace Sys2Proof.Machine

open Sys2Proof

/-! ### One element (R81 to R83) -/

/-- Clamps an integer to a range. -/
def clampInt (lo hi x : Int) : Int := if x < lo then lo else if hi < x then hi else x

/-- Least value of an integer format. -/
def fmtMin (f : Fmt) : Int := if f.signed then -((2 ^ (f.width - 1) : Nat) : Int) else 0
/-- Greatest value of an integer format. -/
def fmtMax (f : Fmt) : Int := if f.signed then ((2 ^ (f.width - 1) : Nat) : Int) - 1 else ((2 ^ f.width : Nat) : Int) - 1

/-- A floating-point value as an integer format (R82). -/
def floatToInt (df : Fmt) (mode : Rm) (x : Exact) : Nat × Flags :=
  let side := fun (neg : Bool) => wrapTo df.width (if neg then fmtMin df else fmtMax df)
  match x with
  | .nan _ => (0, fNV)
  | .inf b => (side b, fNV)
  | .zero _ => (0, 0)
  | .fin neg m e _ =>
    let r := roundAt mode 0 neg m e false 0
    let n : Int := if neg then -(r.n : Int) else r.n
    if n < fmtMin df ∨ fmtMax df < n then (side neg, fNV) else (wrapTo df.width n, if r.exact then 0 else fNX)

/-- An integer as another integer format (R83). -/
def intToInt (df sf : Fmt) (sat : Bool) (x : Int) : Nat :=
  if df.signed == sf.signed && decide (sf.width ≤ df.width) then wrapTo df.width x
  else wrapTo df.width (if sat then clampInt (fmtMin df) (fmtMax df) x else x)

/-- A floating-point value as another format (R81): `rnd` only where it narrows, and there −0 is the real number 0, whose result is +0, since
R81 gives no sign of its own (R77; DEDUCED, log 44). -/
def floatToFloat (df sf : Fmt) (mode : Rm) (sat : Bool) (draw x : Nat) : Nat × Flags :=
  let v := (fmtFormat sf).decode x
  match cvClass sf df with
  | .same => if v.isNan then ((fmtFormat df).nanBits, sigFlag v) else (x % 2 ^ df.width, 0)
  | .widen => let r := rnd (fmtFormat df) .rne false 0 v; (r.1, sigFlag v ||| r.2)
  | .narrow => let r := rnd (fmtFormat df) mode sat draw v.real; (r.1, sigFlag v ||| r.2)

/-- One element of format `sf` converted to `df` (R81 to R83). -/
def convert (df sf : Fmt) (mode : Rm) (sat : Bool) (draw x : Nat) : Nat × Flags :=
  let y := x % 2 ^ sf.width
  if sf.isFloat then
    if df.isFloat then floatToFloat df sf mode sat draw y else floatToInt df mode ((fmtFormat sf).decode y)
  else
    let v : Int := if sf.signed then signedOf sf.width y else y
    if df.isFloat then rnd (fmtFormat df) mode sat 0 (ofInt false v 0) else (intToInt df sf sat v, 0)

/-- A scalar result placed in a 32-bit register (R73). -/
def placeScalar (df : Fmt) (x : Nat) : Nat := if df.width < 32 && df.signed then wrapTo 32 (signedOf df.width x) else x

/-! ### Draws (R80) -/

/-- `n` draws of a generator, and its state after them. -/
def drawMany (g : Half) : Nat → List Nat × Half
  | 0 => ([], g)
  | n + 1 => let g1 := genStep g; let r := drawMany g1 n; (genDraw g1 :: r.1, r.2)

/-- The draws of a lane for `n` elements under a mode, with the write that steps its generator. -/
def draws (r : Regs) (l : Option Nat) (mode : Rm) (n : Nat) : List Nat × List RegWrite :=
  match mode, l with
  | .sr, some l => let d := drawMany (sget r.gen l) n; (d.1, [.gen l d.2])
  | _, _ => (List.replicate n 0, [])

/-- Elements of `w` bits joined, element 0 lowest (R73). -/
def packBits (w : Nat) : List Nat → Nat
  | [] => 0
  | x :: xs => x % 2 ^ w + 2 ^ w * packBits w xs

/-- Element `j` of `w` bits. -/
def unpackBits (w x j : Nat) : Nat := x / 2 ^ (w * j) % 2 ^ w

/-! ### CVT, PACK, UNPACK -/

/-- The meaning of CVT (R117). -/
def execCvt (h : Hdr) (m : CvMod) (s : State) : Host.Outcome State Fault Refusal :=
  let wd : Bool := m.df.width == 64
  let ws : Bool := m.sf.width == 64
  compute s h 8 false [(h.d, span wd), (h.a, span ws)] (fun v l =>
    let d := draws v.r l m.rm 1
    let r := convert m.df m.sf m.rm m.sat (d.1.headD 0) (readReg v.r l h.a ws)
    (writeReg l h.d wd (m.df.isInt && m.df.signed) (placeScalar m.df r.1) ++ d.2, r.2))

/-- The source elements of PACK, in ascending order (R118). -/
def packSources (m : CvMod) (a b : Nat) : List Nat :=
  if m.sf.width = 16 then [unpackBits 16 a 0, unpackBits 16 a 1, unpackBits 16 b 0, unpackBits 16 b 1] else [a, b]

/-- The result of PACK over the old destination: only the 32-bit to 8-bit shape keeps bytes of it (R118). -/
def packResult (m : CvMod) (old : Nat) (xs : List Nat) : Nat :=
  if m.sf.width = 32 && m.df.width = 8 then
    let y := packBits 8 xs
    if m.bs.toNat % 2 = 0 then old / 65536 % 65536 * 65536 + y else old % 65536 + y * 65536
  else packBits m.df.width xs

/-- The meaning of PACK (R118). -/
def execPack (h : Hdr) (m : CvMod) (s : State) : Host.Outcome State Fault Refusal :=
  compute s h 8 false [(h.d, 1), (h.a, 1), (h.b, 1)] (fun v l =>
    let xs := packSources m (readReg v.r l h.a false) (readReg v.r l h.b false)
    let d := draws v.r l m.rm xs.length
    let rs := List.zipWith (convert m.df m.sf m.rm m.sat) d.1 xs
    (writeReg l h.d false false (packResult m (readReg v.r l h.d false) (rs.map Prod.fst)) ++ d.2, flagsAll (rs.map Prod.snd)))

/-- The elements of UNPACK (R119). -/
def unpackSources (m : CvMod) (a : Nat) : List Nat :=
  let h := m.bs.toNat % 2
  if m.sf.width = 16 then [unpackBits 16 a h]
  else if m.df.width = 16 then [unpackBits 8 a (2 * h), unpackBits 8 a (2 * h + 1)]
  else [unpackBits 8 a m.bs.toNat]

/-- The meaning of UNPACK (R119). -/
def execUnpack (h : Hdr) (m : CvMod) (s : State) : Host.Outcome State Fault Refusal :=
  let wd : Bool := m.df.width == 64
  compute s h 8 false [(h.d, span wd), (h.a, 1)] (fun v l =>
    let rs := (unpackSources m (readReg v.r l h.a false)).map (convert m.df m.sf .rne false 0)
    (writeReg l h.d wd (m.df.isInt && m.df.signed && m.df.width != 16) (packBits m.df.width (rs.map Prod.fst)), flagsAll (rs.map Prod.snd)))

/-! ### Block scales (R74 to R76, R85) -/

/-- Element type T of a scale byte. -/
def scaleType (b : Nat) : Nat := b / 64 % 4
/-- Scale exponent E of a scale byte. -/
def scaleExp (b : Nat) : Nat := b % 64

/-- The magnitudes of an n4 type in eighths, by magnitude index (R75). -/
def n4Mags (t : Nat) : List Nat :=
  match t with
  | 0 => [0, 8, 16, 24, 32, 40, 48, 56]
  | 1 => [0, 4, 8, 12, 16, 24, 32, 48]
  | 2 => [0, 1, 2, 4, 8, 16, 32, 64]
  | _ => [0, 8, 16, 24, 32, 48, 64, 96]

/-- The value of a code in eighths, before the scale (R75). -/
def n4Eighths (t code : Nat) : Int :=
  if t = 0 then 8 * signedOf 4 code
  else
    let x := (n4Mags t).getD (code % 8) 0
    if code / 8 % 2 = 1 then -(x : Int) else x

/-- The value of an n4 code under its scale byte (R75). -/
def n4Value (code sc : Nat) : Exact := ofInt false (n4Eighths (scaleType sc) code) ((scaleExp sc : Int) - 35)

/-- The value of a scaled FP8 element (R76); a NaN stays the NaN it is, signalling or quiet (R93). -/
def fp8Value (f : FFmt) (x sc : Nat) : Exact :=
  match f.decode x with
  | .nan g => .nan g
  | .zero b => .zero b
  | v => (exScale v ((scaleExp sc : Int) - 32)).1

/-- Lanes of a block of a format (R85): 4 for n4, 8 for FP8. -/
def blockLanes (f : Fmt) : Nat := if f == .n4 then 4 else 8

/-- The lead lane of a lane's block. What is read of it is its register in the group's copy, which a lane that is ejected at that moment left there
when it was ejected: R126 says so of SHFL, QXCH and QBCAST, and R121 and R122 do not (DESIGN CHOICE, log 44). -/
def leadLane (f : Fmt) (l : Nat) : Nat := l / blockLanes f * blockLanes f

/-! ### AMAX and QSCALE (R87, R88, R120, R121) -/

/-- The largest magnitude of a list of elements of a format, as f32 (R120). -/
def amaxOf (f : FFmt) (xs : List Nat) : Nat × Flags :=
  let vs := xs.map f.decode
  let fl := flagsAll (vs.map sigFlag)
  let bits := fun (x : Exact) => (rnd f32F .rne false 0 x).1 % f32F.signBit
  if vs.any Exact.isNan then (f32F.nanBits, fl) else (vs.foldl (fun b x => max b (bits x)) 0, fl)

/-- Elements of a lane's register for AMAX. -/
def wideElems (f : Fmt) (x : Nat) : List Nat := if f == .f32 then [x] else [x % 65536, x / 65536 % 65536]

/-- The meaning of AMAX (R120). -/
def execAmax (h : Hdr) (m : CvMod) (s : State) : Host.Outcome State Fault Refusal :=
  collective s (fun v =>
    if !v.within false [(h.d, 1), (h.a, 1)] then illegal s v
    else
      let act := v.active h
      let of_ := fun (b : Nat) =>
        amaxOf (fmtFormat m.sf) ((act.filter (fun l => l / 4 == b)).flatMap (fun l => wideElems m.sf (v.r.vget l h.a.toNat).toNat))
      finish s v 8 (act.map (fun l => RegWrite.v l h.d.toNat (BitVec.ofNat 32 (of_ (l / 4)).1)))
        (flagsAll (act.map (fun l => (of_ (l / 4)).2))))

/-- emax of a destination type (R87). -/
def scaleEmax (df : Fmt) (t : Nat) : Int :=
  match df with
  | .e4m3 => 8
  | .e5m2 => 15
  | _ => if t < 2 then 2 else 3

/-- E for a finite nonzero amax of floor(log2) `fl` (R87). -/
def scaleFor (df : Fmt) (t : Nat) (fl : Int) : Nat := (clampInt 0 63 (fl - scaleEmax df t + 32)).toNat

/-- err(T) of R88 in units of 2^base, for amax = m × 2^e. -/
def scaleErr (t ex m : Nat) (e base : Int) : Nat :=
  let pts := (n4Mags t).map (fun x => x * 2 ^ ((ex : Int) - 35 - base).toNat)
  let a := m * 2 ^ (e - base).toNat
  let gaps := (List.zip pts pts.tail).map (fun p => if a ≤ p.1 then 0 else min ((p.2 - p.1) / 2) (a - p.1))
  max (gaps.foldl max 0) (a - pts.getLastD 0)

/-- The scale byte that `.auto` picks for a finite nonzero amax (R88). -/
def scaleAuto (m : Nat) (e : Int) : Nat :=
  let fl : Int := e + bitLen m - 1
  let ex := fun t => scaleFor .n4 t fl
  let lo : Int := ((min (min (ex 0) (ex 1)) (min (ex 2) (ex 3)) : Nat) : Int) - 35
  let base : Int := (if e < lo then e else lo) - 1
  let err := fun t => scaleErr t (ex t) m e base
  let best := [1, 2, 3].foldl (fun b t => if err t < err b then t else b) 0
  best * 64 + ex best

/-- The scale byte of an amax with its flags (R87, R88). -/
def scaleByte (df : Fmt) (t : Nat) (auto : Bool) (x : Exact) : Nat × Flags :=
  let top := if df == .n4 && !auto then t * 64 else 0
  match x with
  | .nan _ => (top + 63, fNV)
  | .inf _ => (top + 63, fOF)
  | .zero _ => (top, 0)
  | .fin _ m e _ => if auto then (scaleAuto m e, 0) else (top + scaleFor df t (e + bitLen m - 1), 0)

/-- The meaning of QSCALE (R121). -/
def execQscale (h : Hdr) (m : CvMod) (s : State) : Host.Outcome State Fault Refusal :=
  collective s (fun v =>
    if !v.within false [(h.d, 1), (h.a, span (m.sf == .f64))] then illegal s v
    else
      let act := v.active h
      let of_ := fun (l : Nat) =>
        let n := leadLane m.df l
        let x := if m.sf == .f64 then (v.r.v64 n h.a.toNat).toNat else (v.r.vget n h.a.toNat).toNat
        scaleByte m.df h.c.toNat m.auto ((fmtFormat m.sf).decode x)
      finish s v 8 (act.map (fun l => RegWrite.v l h.d.toNat (BitVec.ofNat 32 (of_ l).1))) (flagsAll (act.map (fun l => (of_ l).2))))

/-! ### QUANT and DEQ (R89, R90, R122) -/

/-- The values of an n4 type in eighths with their codes, ascending; 0b1000 is written only under T = 0 (R75). -/
def n4Table (t : Nat) : List (Int × Nat) :=
  if t = 0 then (List.range 16).map (fun (i : Nat) => (8 * ((i : Int) - 8), (i + 8) % 16))
  else ((List.range 7).map (fun i => (-(((n4Mags t).getD (7 - i) 0 : Nat) : Int), 15 - i))) ++
    (List.range 8).map (fun i => ((((n4Mags t).getD i 0 : Nat) : Int), i))

/-- Picks between two bracketing n4 values (R77, R79, R89); `y` over `den` is in eighths. -/
def n4Pick (t : Nat) (mode : Rm) (draw : Nat) (y : Int) (den : Nat) (lo hi : Int × Nat) : Int × Nat :=
  let d1 := y - lo.1 * den
  let d2 := hi.1 * den - y
  match mode with
  | .rne =>
    if d1 < d2 then lo else if d2 < d1 then hi
    else if t = 0 then (if lo.1 / 8 % 2 = 0 then lo else hi)
    else (if lo.2 % 2 = 0 then lo else hi)
  | .rtz => if 0 < y then lo else hi
  | .rdn => lo
  | .rup => hi
  | .sr => if (draw : Int) * (hi.1 - lo.1) * den < d1 * 65536 then hi else lo

/-- y as an n4 code (R89); `y` over `den` is in eighths of the unscaled value. -/
def n4Round (t : Nat) (mode : Rm) (draw : Nat) (y : Int) (den : Nat) : Nat × Flags :=
  let tab := n4Table t
  let lows := tab.filter (fun e => decide (e.1 * den ≤ y))
  let highs := tab.filter (fun e => decide (y ≤ e.1 * den))
  match lows.getLast?, highs.head? with
  | none, _ => ((tab.headD (0, 0)).2, fOF ||| fNX)
  | _, none => ((tab.getLastD (0, 0)).2, fOF ||| fNX)
  | some lo, some hi =>
    if lo.1 = hi.1 then (lo.2, 0)
    else
      let p := n4Pick t mode draw y den lo hi
      if p.1 = 0 then (0, fUF ||| fNX) else (p.2, fNX)

/-- One n4 element of QUANT (R89). -/
def quantN4 (sc : Nat) (mode : Rm) (draw : Nat) (x : Exact) : Nat × Flags :=
  let t := scaleType sc
  match x with
  | .nan _ => (0, fNV)
  | .inf b => (if b then ((n4Table t).headD (0, 0)).2 else ((n4Table t).getLastD (0, 0)).2, fOF)
  | .zero _ => (0, 0)
  | .fin neg m e _ =>
    let k : Int := e + 35 - scaleExp sc
    let n := if 0 ≤ k then m * 2 ^ k.toNat else m
    n4Round t mode draw (if neg then -(n : Int) else n) (if 0 ≤ k then 1 else 2 ^ (-k).toNat)

/-- One element of QUANT (R89); an FP8 zero is +0 (R77; DEDUCED, log 44). -/
def quantise (df : Fmt) (sc : Nat) (mode : Rm) (sat : Bool) (draw : Nat) (x : Exact) : Nat × Flags :=
  if df == .n4 then quantN4 sc mode draw x
  else
    let y := (exScale x (32 - (scaleExp sc : Int))).1
    let r := rnd (fmtFormat df) mode sat draw y.real
    (r.1, sigFlag x ||| r.2)

/-- One element of DEQ (R90); a zero is +0 (R77; DEDUCED, log 44). -/
def dequantise (df sf : Fmt) (sc x : Nat) : Nat × Flags :=
  if sf == .n4 then rnd (fmtFormat df) .rne false 0 (n4Value x sc)
  else
    let v := (fmtFormat sf).decode x
    let r := rnd (fmtFormat df) .rne false 0 (fp8Value (fmtFormat sf) x sc).real
    (r.1, sigFlag v ||| r.2)

/-- The scale byte of a lane's block: byte BS of vB in the block's lead lane (R85). -/
def laneScale (r : Regs) (f : Fmt) (h : Hdr) (bs : BitVec 2) (l : Nat) : Nat := unpackBits 8 (r.vget (leadLane f l) h.b.toNat).toNat bs.toNat

/-- Codes of a lane: 8 for n4, 4 for FP8. -/
def codesOf (f : Fmt) : Nat := if f == .n4 then 8 else 4

/-- The meaning of QUANT (R122). -/
def execQuant (h : Hdr) (m : CvMod) (s : State) : Host.Outcome State Fault Refusal :=
  collective s (fun v =>
    if !v.within false [(h.d, 1), (h.a, quantRegs m.df m.sf), (h.b, 1)] then illegal s v
    else
      let e := if m.sf == .f32 then 1 else 2
      let rs := (v.active h).map (fun l =>
        let sc := laneScale v.r m.df h m.bs l
        let d := draws v.r (some l) m.rm (codesOf m.df)
        let xs := (List.range (codesOf m.df)).map (fun j => unpackBits (32 / e) (v.r.vget l (h.a.toNat + j / e)).toNat (j % e))
        let ys := List.zipWith (fun dr x => quantise m.df sc m.rm m.sat dr ((fmtFormat m.sf).decode x)) d.1 xs
        (RegWrite.v l h.d.toNat (BitVec.ofNat 32 (packBits m.df.width (ys.map Prod.fst))) :: d.2, flagsAll (ys.map Prod.snd)))
      finish s v 8 (rs.flatMap Prod.fst) (flagsAll (rs.map Prod.snd)))

/-- The meaning of DEQ (R122). -/
def execDeq (h : Hdr) (m : CvMod) (s : State) : Host.Outcome State Fault Refusal :=
  collective s (fun v =>
    if !v.within false [(h.d, quantRegs m.sf m.df), (h.a, 1), (h.b, 1)] then illegal s v
    else
      let e := if m.df == .f32 then 1 else 2
      let rs := (v.active h).map (fun l =>
        let sc := laneScale v.r m.sf h m.bs l
        let ys := (List.range (codesOf m.sf)).map (fun j => dequantise m.df m.sf sc (unpackBits m.sf.width (v.r.vget l h.a.toNat).toNat j))
        ((List.range (quantRegs m.sf m.df)).map (fun i =>
          RegWrite.v l (h.d.toNat + i) (BitVec.ofNat 32 (packBits (32 / e) (((ys.map Prod.fst).drop (i * e)).take e)))), flagsAll (ys.map Prod.snd)))
      finish s v 8 (rs.flatMap Prod.fst) (flagsAll (rs.map Prod.snd)))

/-! ### SROUND and PRMT (R80, R123, R124) -/

/-- The meaning of SROUND: a source of zero seeds the constant. -/
def execSround (h : Hdr) (s : State) : Host.Outcome State Fault Refusal :=
  computeBy s h 8 false [(h.a, 1)] (fun _ => 0) (fun v l =>
    match l with
    | some l => ([RegWrite.gen l (genSeed (v.r.vget l h.a.toNat))], 0)
    | none => ([], 0))

/-- A byte of PRMT by its selector byte (R124). -/
def permuteByte (pair sel : Nat) : Nat :=
  let b := unpackBits 8 pair (sel % 8)
  match sel / 8 % 4 with
  | 0 => b
  | 1 => 0
  | 2 => if b / 128 = 1 then 255 else 0
  | _ => reverseBits 8 b

/-- The meaning of PRMT (R124). -/
def execPrmt (h : Hdr) (ck : CKind) (s : State) : Host.Outcome State Fault Refusal :=
  compute s h 8 false ([(h.d, 1), (h.a, 1), (h.b, 1)] ++ (if ck == .vreg then [(h.c, 1)] else [])) (fun v l =>
    let pair := readReg v.r l h.a false + readReg v.r l h.b false * 2 ^ 32
    let c := if ck == .kreg then readK v.r h.c false else readReg v.r l h.c false
    (writeReg l h.d false false (packBits 8 ((List.range 4).map (fun i => permuteByte pair (unpackBits 8 c i)))), 0))

end Sys2Proof.Machine
end

