-- ==== Sys2Proof/Machine/Matrix.lean ====
section
/-! DEFINITION. The matrix engine (spec/05_matrix.md R131 to R158, OP 0xB0 to 0xB9) and the events of its commands. A command reads
its operands when it starts and writes its results when it completes. -/

namespace Sys2Proof.Machine

open Sys2Proof

/-! ### Shapes and Z regions (R133, R135, R140) -/

/-- The fields of a shape register. -/
structure MShape where
  m  : Nat
  n  : Nat
  k  : Nat
  zp : Nat
deriving DecidableEq, Repr

/-- The fields, unchecked. -/
def mshapeOf (w : Word) : MShape := { m := bitsOf w.toNat 15 0, n := bitsOf w.toNat 31 16, k := bitsOf w.toNat 47 32, zp := bitsOf w.toNat 63 48 }

/-- Columns on one core. -/
def MShape.half (x : MShape) : Nat := min x.n 128

/-- The Z row pitch in elements. -/
def MShape.pitch (x : MShape) : Nat := if x.zp = 0 then 128 else x.zp

/-- Are M, N and ZP within their limits, N up to `top`? -/
def MShape.ok (x : MShape) (top : Nat) : Bool :=
  decide (1 ≤ x.m) && decide (x.m ≤ 128) && decide (1 ≤ x.n) && decide (x.n ≤ top) && (x.zp == 0 || (decide (x.half ≤ x.zp) && decide (x.zp ≤ 128)))

/-- Bytes from z to the end of an M × `cols` region. -/
def zExtent (m cols pitch : Nat) : Nat := ((m - 1) * pitch + (cols - 1)) * 4 + 4

/-- Does the Z region of a command lie in the block's allocation? The follower's has the same size (R139). -/
def zFits (p : Packet) (z : Nat) (x : MShape) : Bool := decide (z + zExtent x.m x.half x.pitch ≤ spaceAlloc p .zbuf)

/-! ### Operand formats (R134, R137) -/

/-- The tile formats of A and B that a class and FMT select: codes of R242. -/
def mmaPair (op : Nat) (fmt : Nat) : Nat × Nat :=
  match op, fmt with
  | 0, 0 => (0, 0) | 0, _ => (1, 1)
  | 1, 0 => (2, 2) | 1, 1 => (3, 3) | 1, 2 => (2, 3) | 1, _ => (3, 2)
  | 2, 0 => (4, 4) | 2, 1 => (5, 4) | 2, 2 => (4, 5) | 2, _ => (5, 5)
  | 3, 0 => (6, 6) | 3, 1 => (6, 7) | 3, _ => (6, 8)
  | _, 0 => (7, 7) | _, 1 => (8, 8) | _, 2 => (7, 8) | _, _ => (8, 7)

/-- Bytes of a block's buffer at a tile offset: the leader's or the follower's allocation. A tile whose BASE lies in the follower's W window, which
TILE accepts, is read there by an unpaired MMA too: R140 does not say (DESIGN CHOICE, log 26). -/
def tileByte (bl : Block) (p : Packet) (sp : Space) (off : Nat) : Nat :=
  match sideOf p sp off 1 with
  | none => 0
  | some (fol, o) => (sget (spaceBytes bl sp fol) o).toNat

/-- The code of element (r, c) of a tile; `shift` moves to the follower's half of a paired tile (R134, R140). -/
def tileElem (bl : Block) (p : Packet) (d : TileDesc) (shift r c : Nat) : Nat :=
  let byte := fun (i : Nat) => tileByte bl p d.space (shift + d.base + r * d.pitch + i)
  if d.width = 16 then byte (2 * c) + 256 * byte (2 * c + 1)
  else if d.width = 4 then byte (c / 2) / 16 ^ (c % 2) % 16
  else byte c

/-- The scale byte of block j of row r. -/
def tileScale (bl : Block) (p : Packet) (d : TileDesc) (shift r j : Nat) : Nat :=
  if d.scaled then tileByte bl p d.space (shift + d.soff + r * d.scaleCols + j) else 0

/-- The value of an element of a floating-point tile format. -/
def tileValue (fmt code sc : Nat) : Exact :=
  match fmt with
  | 0 => bf16F.decode code
  | 1 => f16F.decode code
  | 2 => e4m3F.decode code
  | 3 => e5m2F.decode code
  | 6 => n4Value code sc
  | 7 => fp8Value e4m3F code sc
  | _ => fp8Value e5m2F code sc

/-- The value of an element of an integer tile format. -/
def tileInt (fmt code : Nat) : Int := if fmt = 4 then signedOf 8 code else (code : Int)

/-! ### The product (R138, R145) -/

/-- Z element at a byte offset of an allocation. -/
def zElem (bl : Block) (fol : Bool) (e : Nat) : Nat := getNum (spaceBytes bl .zbuf fol) e 4

/-- What a command's accumulator starts from: the latest result of its batch since the last MRDY, else the Z-buffer (R143, R145). -/
def startValue (g : Group) (bl : Block) (c : MCmd) (fol : Bool) (e : Nat) : Nat :=
  let mine := (g.zdone.filter (fun z => z.1 == c.batch && z.2.1 == c.seg)).flatMap (fun z => z.2.2)
  match mine.reverse.find? (fun r => r.1 == fol && r.2.1 == e) with
  | some r => r.2.2.toNat
  | none => zElem bl fol e

/-- Elements (m, n) of a region with their half and Z offset. -/
def zElems (z m n pitch : Nat) : List (Nat × Nat × Bool × Nat) :=
  (List.range m).flatMap (fun i => (List.range n).map (fun j => (i, j, decide (128 ≤ j), z + (i * pitch + j % 128) * 4)))

/-- One output element of an MMA: its bits and flags. The masked k ≥ Kd of the last chunk make no product, so a chunk whose products are all −0 stays
−0 whatever Kd is (DEDUCED, log 44: R91 says that they contribute exact zero, R93 speaks of products). -/
def mmaElem (bl : Block) (p : Packet) (c : MCmd) (acc0 m n : Nat) : Nat × Flags :=
  let da := tileDescOf c.da
  let db := tileDescOf c.db
  let shift := if 128 ≤ n then 0x100000 else 0
  let a := fun (k : Nat) => (tileElem bl p da 0 m k, tileScale bl p da 0 m (k / 32))
  let b := fun (k : Nat) => (tileElem bl p db shift (n % 128) k, tileScale bl p db shift (n % 128) (k / 32))
  let v1 : Bool := p.nbv == 1
  let chunk := if v1 then 16 else 32
  let ks := fun (i : Nat) => (List.range chunk).map (fun j => chunk * i + j) |>.filter (fun k => decide (k < c.kd))
  (List.range (ceilDiv c.kd chunk)).foldl (fun (acc : Nat × Flags) i =>
    if da.fmt = 4 ∨ da.fmt = 5 then
      (wrapTo 32 ((acc.1 : Int) + ((ks i).map (fun k => tileInt da.fmt (a k).1 * tileInt db.fmt (b k).1)).sum), 0)
    else
      let r := chunkUpdate v1 false acc.1 ((ks i).map (fun k => exMul (tileValue da.fmt (a k).1 (a k).2) (tileValue db.fmt (b k).1 (b k).2)))
      (r.1, acc.2 ||| r.2)) (acc0, 0)

/-- The results of an MMA. -/
def mmaResults (bl : Block) (g : Group) (p : Packet) (c : MCmd) (zi : Bool) : List (Bool × Nat × BitVec 32) × Flags :=
  let rs := (zElems c.z c.m c.n c.pitch).map (fun e =>
    let r := mmaElem bl p c (if zi then 0 else startValue g bl c e.2.2.1 e.2.2.2) e.1 e.2.1
    (e.2.2.1, e.2.2.2, BitVec.ofNat 32 r.1, r.2))
  (rs.map (fun r => (r.1, r.2.1, r.2.2.1)), flagsAll (rs.map (fun r => r.2.2.2)))

/-- Does a region touch a poisoned Z element? -/
def zHasPoison (bl : Block) (es : List (Bool × Nat)) : Bool := es.any (fun e => (zPoison bl e.1).contains (e.2 / 4))

/-! ### MQNT (R158) -/

/-- The Z elements that an MQNT reads: row, column, half, offset; its source may lie in the follower's window. -/
def mqntElems (p : Packet) (c : MCmd) : List (Nat × Nat × Bool × Nat) :=
  (zElems c.z c.m c.n c.pitch).map (fun e =>
    match sideOf p .zbuf e.2.2.2 4 with
    | some (fol, o) => (e.1, e.2.1, fol, o)
    | none => (e.1, e.2.1, false, 0))

/-- One 32-element block: its codes and its scale byte, with flags. -/
def mqntBlock (df : Fmt) (t : Nat) (auto : Bool) (xs : List Nat) : List Nat × Nat × Flags :=
  let amax := (amaxOf f32F xs).1
  let sc := scaleByte df t auto (f32F.decode amax)
  let qs := xs.map (fun x => quantise df sc.1 .rne true 0 (f32F.decode x))
  (qs.map Prod.fst ++ List.replicate (32 - xs.length) 0, sc.1, sc.2 ||| flagsAll (qs.map Prod.snd))

/-- The bytes of a block's codes. -/
def codeBytes (df : Fmt) (codes : List Nat) : List Nat :=
  if df == .n4 then (List.range 16).map (fun i => codes.getD (2 * i) 0 + 16 * codes.getD (2 * i + 1) 0) else codes

/-- Bytes placed in a tile's buffer. -/
def placeTile (p : Packet) (sp : Space) (off : Nat) (bs : List Nat) : List (Bool × Nat × Byte) :=
  (List.zip (List.range bs.length) bs).filterMap (fun e => (sideOf p sp (off + e.1) 1).map (fun x => (x.1, x.2, BitVec.ofNat 8 e.2)))

/-- The bytes that an MQNT writes; a failed one writes zero codes and zero scales (R148). -/
def mqntResults (bl : Block) (g : Group) (p : Packet) (c : MCmd) (df : Fmt) (t : Nat) (auto failed : Bool) : List (Bool × Nat × Byte) × Flags :=
  let d := tileDescOf c.db
  let es := mqntElems p c
  let rs := (List.range c.m).flatMap (fun m => (List.range (ceilDiv c.n 32)).map (fun j =>
    let xs := (es.filter (fun e => e.1 == m && e.2.1 / 32 == j)).map (fun e => startValue g bl c e.2.2.1 e.2.2.2)
    let r := if failed then (List.replicate 32 0, 0, 0) else mqntBlock df t auto xs
    (placeTile p d.space (d.base + m * d.pitch + 32 * j * d.width / 8) (codeBytes df r.1) ++
       placeTile p d.space (d.soff + m * d.scaleCols + j) [r.2.1], r.2.2)))
  (rs.flatMap Prod.fst, flagsAll (rs.map Prod.snd))

/-! ### Issue (R131, R153 to R158) -/

/-- Commands of a core that have not completed; markers take no entry. -/
def mtxCount (s : State) (core : Nat) : Nat := ((s.core core).mtx.filter (fun c => c.kind != .mrdy)).length

/-- A command of the executing group with the fields that every kind has. -/
def newCmd (s : State) (v : View) (id : Nat) (k : MKind) (z : Nat) (x : MShape) : MCmd :=
  { id := id, blk := v.ag.blk, grp := v.ag.grp, ecsn := (s.core v.core).ecsn, kind := k, z := z, m := x.m, n := x.n, kd := x.k, pitch := x.pitch, pr := false,
    ta := 0, tb := 0, da := 0, db := 0, guard := none, started := false, failed := false, res := [], bytes := [], flags := 0, batch := v.g.bctr,
    seg := v.g.mseg }

/-- Accepts a command: it joins the stream and the open batch, and the group goes on. A full queue stalls. -/
def acceptCmd (s : State) (v : View) (g : Group) (f : MCmd → MCmd) (k : MKind) (z : Nat) (x : MShape) : State :=
  if Config.matrixQueue ≤ mtxCount s v.core then stallOn s v .queue [2]
  else
    let (id, s1) := s.newId
    let c := f (newCmd s1 v id k z x)
    let s2 := s1.mapCore v.core (fun y => { y with mtx := y.mtx ++ [c], ecsn := y.ecsn + 1 })
    let s3 := s2.mapGroup v.ag.blk v.ag.grp (fun y => { y with guards := g.guards, openB := y.openB ++ [id] })
    skip (pumpMtx s3 v.core v.ag.blk v.ag.grp) v 8

/-- Is a tile entry the operand that an MMA names: in a state with a description, of the right buffer and format (R134)? -/
def tileIs (t : Tile) (wbuf : Bool) (fmt : Nat) : Bool := t.st != .empty && (tileDescOf t.desc).wbuf == wbuf && (tileDescOf t.desc).fmt == fmt

/-- Does the follower half of a paired B tile lie in the follower's W allocation (R140)? -/
def folFits (p : Packet) (d : TileDesc) (rows : Nat) : Bool :=
  rows == 0 || (decide (d.base + rows * d.pitch ≤ spaceAlloc p .wbuf) && (!d.scaled || decide (d.soff + rows * d.scaleCols ≤ spaceAlloc p .wbuf)))

/-- MMA of a class (R153). -/
def mma (op : Nat) (h : Hdr) (m : MmaMod) (s : State) : Host.Outcome State Fault Refusal :=
  groupWide s h 8 (fun v =>
    let x := mshapeOf (v.r.kget h.c.toNat)
    let z := v.r.kget h.d.toNat
    let ta := tileOf s v.core h.a.toNat
    let tb := tileOf s v.core h.b.toNat
    let fm := mmaPair op m.fmt.toNat
    let da := tileDescOf ta.desc
    let db := tileDescOf tb.desc
    let rows := x.n - x.half
    if (m.pr && !v.pkt.pair) || !x.ok (if m.pr then 256 else 128) || x.k = 0 || !tileIs ta false fm.1 || !tileIs tb true fm.2 then illegal s v
    else if !alignedTo z 4 then takeTrap s v { cause := .align, lanes := v.mask, addr := z }
    else if !zFits v.pkt z.toNat x || decide (da.rows < x.m) || decide (da.cols < x.k) || decide (db.rows < x.half) || decide (db.cols < x.k) ||
        !folFits v.pkt db rows || ta.foreign v.ag.blk || tb.foreign v.ag.blk then plainTrap s v .perm v.mask
    else
      match (if m.g then v.g.armGuard m.slot.toNat else some v.g) with
      | none => plainTrap s v .guard v.mask
      | some g1 =>
        acceptCmd s v g1 (fun c => { c with pr := m.pr, ta := h.a.toNat, tb := h.b.toNat, da := ta.desc, db := tb.desc,
                                            guard := if m.g then some m.slot.toNat else none }) (.mma m.zi fm.1 fm.2) z.toNat x)

/-- The meaning of MMA.f16. -/
def execMmaF16 (h : Hdr) (m : MmaMod) (s : State) : Host.Outcome State Fault Refusal := mma 0 h m s

/-- The meaning of MMA.f8. -/
def execMmaF8 (h : Hdr) (m : MmaMod) (s : State) : Host.Outcome State Fault Refusal := mma 1 h m s

/-- The meaning of MMA.i8. -/
def execMmaI8 (h : Hdr) (m : MmaMod) (s : State) : Host.Outcome State Fault Refusal := mma 2 h m s

/-- The meaning of MMA.n4. -/
def execMmaN4 (h : Hdr) (m : MmaMod) (s : State) : Host.Outcome State Fault Refusal := mma 3 h m s

/-- The meaning of MMA.mx8. -/
def execMmaMx8 (h : Hdr) (m : MmaMod) (s : State) : Host.Outcome State Fault Refusal := mma 4 h m s

/-- The meaning of MZERO (R154). -/
def execMzero (h : Hdr) (s : State) : Host.Outcome State Fault Refusal :=
  groupWide s h 8 (fun v =>
    let x := mshapeOf (v.r.kget h.c.toNat)
    let z := v.r.kget h.d.toNat
    if !x.ok (if v.pkt.pair then 256 else 128) then illegal s v
    else if !alignedTo z 4 then takeTrap s v { cause := .align, lanes := v.mask, addr := z }
    else if !zFits v.pkt z.toNat x then plainTrap s v .perm v.mask
    else acceptCmd s v v.g id .mzero z.toNat x)

/-- The meaning of MRDY (R155): a marker in the group's stream. A full queue stalls the commands that take an entry; MRDY, MBATCH and MWAIT take none
and pass (DEDUCED, log 26: R131 says "any matrix instruction", R143 that MRDY does not stall). -/
def execMrdy (h : Hdr) (s : State) : Host.Outcome State Fault Refusal :=
  groupWide s h 8 (fun v =>
    let (id, s1) := s.newId
    let c := newCmd s1 v id .mrdy 0 (mshapeOf 0)
    let s2 := (s1.mapCore v.core (fun y => { y with mtx := y.mtx ++ [c] })).mapGroup v.ag.blk v.ag.grp (fun g => { g with mseg := g.mseg + 1 })
    skip (pumpMtx s2 v.core v.ag.blk v.ag.grp) v 8)

/-- A group closes its open batch (R141): failures of the open batch take its number. -/
def Group.closeBatch (g : Group) : Group :=
  { g with closed := g.closed ++ [{ num := g.bctr, cmds := g.openB }], openB := [], bctr := (g.bctr + 1) % 65536,
           bnotes := terase g.bnotes g.bctr,
           bfails := g.bfails.map (fun f => { f with num := some (f.num.getD g.bctr), age := f.age + 1 }) }

/-- The meaning of MBATCH (R156). -/
def execMbatch (h : Hdr) (s : State) : Host.Outcome State Fault Refusal :=
  groupWide s h 8 (fun v =>
    if Config.batchLimit ≤ v.g.closed.length then stallOn s v .mbatch []
    else
      let s1 := retireBatches (s.mapGroup v.ag.blk v.ag.grp Group.closeBatch) v.ag.blk v.ag.grp 32
      finish s1 v 8 [.k h.d.toNat (BitVec.ofNat 64 v.g.bctr)] 0)

/-- The earliest failed batch closed no later than `d` before the counter (R150). Where several are due the oldest is reported, and the MWAIT
executed again reports the next (DESIGN CHOICE: R150 does not say; log 26). -/
def batchFailDue (g : Group) (d : Nat) : Option BatchFail :=
  (g.bfails.filter (fun f => f.num.isSome && decide (d ≤ f.age))).foldl
    (fun (b : Option BatchFail) f => match b with | none => some f | some y => if y.age < f.age then some f else some y) none

/-- The meaning of MWAIT (R157, R150): the wait, a failure to report, then the acquire and the edge. -/
def execMwait (h : Hdr) (s : State) : Host.Outcome State Fault Refusal :=
  groupWide s h 8 (fun v =>
    let n := (v.r.kget h.a.toNat).toNat % 65536
    let d := (v.g.bctr + 65536 - n) % 65536
    if d = 0 ∨ 32768 < d then illegal s v
    else if v.g.closed.any (fun b => b.num == n) && decide (d ≤ 16) then stallOn s v .mwait [n]
    else match batchFailDue v.g d with
      | some f => reportBatch s v f v.mask
      | none =>
        let (start, now) := waitStart s v
        let s1 := acquireAll s v.core
        skip (chainEdge s1 v.ctx v.whole (tget v.g.bnotes n) start 5 n now) v 8)

/-- The tile format of an MQNT destination: codes of R242. -/
def mqntFmt (df : Fmt) : Nat := match df with | .e4m3 => 7 | .e5m2 => 8 | _ => 6

/-- The meaning of MQNT (R158). -/
def execMqnt (h : Hdr) (df : Fmt) (s : State) : Host.Outcome State Fault Refusal :=
  groupWide s h 8 (fun v =>
    let w := v.r.kget h.c.toNat
    let x := { mshapeOf w with k := 0 }
    let t := bitsOf w.toNat 33 32
    let auto : Bool := w.getLsbD 34
    let z := v.r.kget h.a.toNat
    let tile := tileOf s v.core h.d.toNat
    let d := tileDescOf tile.desc
    if !x.ok 128 || bitsOf w.toNat 47 35 != 0 || (df != .n4 && (t != 0 || auto)) || tile.st = .empty || d.fmt ≠ mqntFmt df then illegal s v
    else if !alignedTo z 4 then takeTrap s v { cause := .align, lanes := v.mask, addr := z }
    else if (sideOf v.pkt .zbuf z.toNat (zExtent x.m x.half x.pitch)).isNone || decide (d.rows < x.m) || decide (d.cols < 32 * ceilDiv x.n 32) ||
        tile.foreign v.ag.blk then plainTrap s v .perm v.mask
    else acceptCmd s v v.g (fun c => { c with tb := h.d.toNat, db := tile.desc }) (.mqnt df t auto) z.toNat x)

/-! ### The engine (R131, R136, R138, R148) -/

/-- Halves and Z offsets of the elements that a command reads or writes. -/
def cmdZ (p : Packet) (c : MCmd) : List (Bool × Nat) :=
  match c.kind with
  | .mrdy => []
  | .mqnt _ _ _ => (mqntElems p c).map (fun e => (e.2.2.1, e.2.2.2))
  | _ => (zElems c.z c.m c.n c.pitch).map (fun e => (e.2.2.1, e.2.2.2))

/-- Does a command write Z elements? -/
def MKind.writesZ : MKind → Bool
  | .mma _ _ _ | .mzero => true
  | _ => false

/-- The regions of a tile in its buffer: its codes, and its scale plane where it has one. -/
def TileDesc.regions (d : TileDesc) : List (Nat × Nat) := (d.base, d.codeLen) :: (if d.scaled then [(d.soff, d.scaleLen)] else [])

/-- The buffer regions that an MMA reads: those of its tiles, and the follower's half of a paired B (R134, R140). -/
def mmaReads (c : MCmd) : List (Space × Nat × Nat) :=
  let of := fun (w : Word) (shift : Nat) => (tileDescOf w).regions.map (fun r => ((tileDescOf w).space, shift + r.1, r.2))
  of c.da 0 ++ of c.db 0 ++ (if c.pr then of c.db 0x100000 else [])

/-- Does an MMA read a region that an MQNT writes? -/
def readsQuantised (q c : MCmd) : Bool :=
  let d := tileDescOf q.db
  match q.kind, c.kind with
  | .mqnt _ _ _, .mma _ _ _ => d.regions.any (fun w => (mmaReads c).any (fun r => r.1 == d.space && rangesMeet w.1 w.2 r.2.1 r.2.2))
  | _, _ => false

/-- Must a command wait for an earlier, uncompleted one of its group (R131, R158)? -/
def cmdWaits (s : State) (p : Packet) (core : Nat) (c : MCmd) : Bool :=
  ((s.core core).mtx.filter (fun e => e.blk == c.blk && e.grp == c.grp && e.started && decide (e.id < c.id))).any (fun e =>
    (e.kind.writesZ && (cmdZ p e).any (fun a => (cmdZ p c).contains a)) || readsQuantised e c)

/-- Is a transfer between the parts of a unit of a scaled tile, or of the follower's half of a paired one (R144)? Then the MMA that reads the tile has not started. -/
def tilePartly (s : State) (c : MCmd) (w : Word) : Bool :=
  let d := tileDescOf w
  d.scaled && (0 :: (if c.pr then [0x100000] else [])).any (fun o => partUnit s c.blk 0 (some d.space) (o + d.base) d.codeLen (o + d.soff) d.scaleLen)

/-- Is a command ready to start: at its stream's head, its guard true, its tiles READY, nothing before it in the way (R131, R136)? -/
def cmdReady (s : State) (core : Nat) (c : MCmd) : Bool :=
  !stoppingBlock s c.blk && mtxHead s core c.blk c.grp == some c && c.kind != .mrdy &&
  (match c.guard with | none => true | some n => guardValue s c.blk c.grp n == some true) &&
  (match c.kind with
   | .mma _ _ _ => (tileOf s core c.ta).st == .ready && (tileOf s core c.tb).st == .ready && !tilePartly s c c.da && !tilePartly s c c.db
   | _ => true) &&
  (match tget s.blocks c.blk with
   | none => false
   | some bl => !cmdWaits s (packetOf s bl) core c)

/-- Place of a command's group in the engine's rotation: its group slot. -/
def cmdSlot (s : State) (c : MCmd) : Nat := ((s.group? c.blk c.grp).map (fun g => g.slot)).getD 0

/-- The command that the engine starts next: the ready heads in rotation after the last group, with two started at most (R131, R132). -/
def mtxNext (s : State) (core : Nat) : Option MCmd :=
  let k := s.core core
  if 2 ≤ (k.mtx.filter (fun c => c.started)).length then none
  else
    let far := fun (c : MCmd) => (cmdSlot s c + 256 - (k.mrot + 1) % 256) % 256
    (k.mtx.filter (cmdReady s core)).foldl (fun (b : Option MCmd) c =>
      match b with | none => some c | some y => if far c < far y then some c else some y) none

/-- What a command computes when it starts. -/
def runCmd (s : State) (c : MCmd) : MCmd :=
  match tget s.blocks c.blk, s.group? c.blk c.grp with
  | some bl, some g =>
    let p := packetOf s bl
    match c.kind with
    | .mrdy => c
    | .mzero => { c with res := (zElems c.z c.m c.n c.pitch).map (fun e => (e.2.2.1, e.2.2.2, 0)) }
    | .mma zi _ _ =>
      if !zi && zHasPoison bl (cmdZ p c) then { c with failed := true }
      else let r := mmaResults bl g p c zi; { c with res := r.1, flags := r.2 }
    | .mqnt df t auto =>
      let bad : Bool := zHasPoison bl (cmdZ p c)
      let r := mqntResults bl g p c df t auto bad
      { c with failed := bad, bytes := r.1, flags := r.2 }
  | _, _ => c

/-- MATRIX_COMMAND_START (R131, R136): the command reads its operands, and its tiles go DRAINING. -/
def matrixCommandStartEvent (core : Nat) (i : Nat) (s : State) : Option State :=
  match (s.core core).mtx[i]? with
  | none => none
  | some c =>
    if mtxNext s core = some c then
      let c1 := { runCmd s c with started := true }
      let s1 := s.mapCore core (fun k => { k with mtx := k.mtx.map (fun x => if x.id = c.id then c1 else x), mrot := cmdSlot s c })
      let drain := fun (s : State) (n : Nat) => setTile s core n { tileOf s core n with st := .draining, users := (tileOf s core n).users + 1 }
      let s2 := match c.kind with | .mma _ _ _ => drain (drain s1 c.ta) c.tb | _ => s1
      some (pumpMtx (leaveGuard s2 c.blk c.grp c.guard) core c.blk c.grp)
    else none

/-- The meaning: the event, or nothing where it does not occur. -/
def execMatrixCommandStart (core : Nat) (i : Nat) (s : State) : Host.Outcome State Fault Refusal := happen s (matrixCommandStartEvent core i s)

/-- A tile's reader has made its last read (R243). -/
def undrain (s : State) (core n : Nat) : State :=
  let t := tileOf s core n
  if t.st = .draining then setTile s core n { t with users := t.users - 1, st := if t.users ≤ 1 then .ready else .draining } else s

/-- The poison that a failed command leaves on its D region, in both halves (R148). -/
def poisonRegion (bl : Block) (c : MCmd) : Block :=
  (zElems c.z c.m c.n c.pitch).foldl (fun bl e =>
    let p := zPoison bl e.2.2.1
    let k := e.2.2.2 / 4
    if p.contains k then bl else setZPoison bl e.2.2.1 (p ++ [k])) bl

/-- The writes of a completed command: Z elements, whose poison MZERO and MMA.zi clear, or tile bytes (R138, R149, R158). -/
def writeResults (bl : Block) (c : MCmd) : Block :=
  let clears : Bool := match c.kind with | .mzero | .mma true _ _ => true | _ => false
  let b1 := c.res.foldl (fun (bl : Block) r =>
    let b := setSpace bl .zbuf r.1 (putNum (spaceBytes bl .zbuf r.1) r.2.1 4 r.2.2.toNat)
    if clears then setZPoison b r.1 ((zPoison b r.1).filter (fun k => k != r.2.1 / 4)) else b) bl
  let sp := (tileDescOf c.db).space
  c.bytes.foldl (fun (bl : Block) r => setSpace bl sp r.1 (sset (spaceBytes bl sp r.1) r.2.1 r.2.2)) b1

/-- A started command completes: results or poison, flags, its tiles, its batch (R138, R142, R148). -/
def finishCmd (s : State) (core : Nat) (c : MCmd) : State :=
  let isMqnt : Bool := match c.kind with | .mqnt _ _ _ => true | _ => false
  let s1 := s.mapBlock c.blk (fun bl => if c.failed && !isMqnt then poisonRegion bl c else writeResults bl c)
  let s2 := s1.mapRegs { blk := c.blk, grp := c.grp, lane := none } (fun r => { r with fpf := fpfRaise r.fpf (if c.failed then 0 else c.flags) })
  let s3 := match c.kind with | .mma _ _ _ => undrain (undrain s2 core c.ta) core c.tb | _ => s2
  let s4 := if c.failed then batchFailed s3 c
            else s3.mapGroup c.blk c.grp (fun g => { g with zdone := g.zdone ++ [(c.batch, c.seg, c.res)] })
  pumpMtx (completeCmd s4 core c) core c.blk c.grp

/-- MATRIX_COMMAND_COMPLETE (R138). -/
def matrixCommandCompleteEvent (core : Nat) (i : Nat) (s : State) : Option State :=
  match (s.core core).mtx[i]? with
  | none => none
  | some c => if c.started then some (finishCmd s core c) else none

/-- The meaning: the event, or nothing where it does not occur. -/
def execMatrixCommandComplete (core : Nat) (i : Nat) (s : State) : Host.Outcome State Fault Refusal := happen s (matrixCommandCompleteEvent core i s)

end Sys2Proof.Machine
end

