-- ==== Sys2Proof/Machine/Place.lean ====
section
/-! DEFINITION. Granules, placement, pre-emption and resumption of blocks (spec/10_scheduling.md R286 to R295; 01_machine.md R16 to R18, R28;
05_matrix.md R139, R151; 08_memory_instructions.md R235; 06_domains.md R191), with the events that carry them out. What a save slot
holds is kept with the block: its layout is private to the device (log 12). -/

namespace Sys2Proof.Machine

open Sys2Proof

/-! ### Granules (R18, R290) -/

/-- First granule number of a storage kind and its count on a core (R17). -/
def granRange : Store → Nat × Nat
  | .reg => (0, 32) | .loc => (32, 8) | .wbuf => (40, 16) | .abuf => (56, 16) | .zbuf => (72, 32)

/-- The kind of a granule number. -/
def granKind (i : Nat) : Store := if i < 32 then .reg else if i < 40 then .loc else if i < 56 then .wbuf else if i < 72 then .abuf else .zbuf

/-- A granule of a core: one that nothing has touched is FREE without a last owner. -/
def granOf (s : State) (core i : Nat) : Granule :=
  (tget (s.core core).gran i).getD { kind := granKind i, st := .free, owner := none, last := none, data := [], order := 0, fol := false, claim := none }

/-- Replaces a granule. -/
def setGran (s : State) (core i : Nat) (g : Granule) : State := s.mapCore core (fun c => { c with gran := tset c.gran i g })

/-- Granules that a block needs of a kind, on its core or, under PAIR, on the follower (R18, R139). -/
def granNeed (p : Packet) (k : Store) (fol : Bool) : Nat :=
  if fol then (if p.pair then (match k with | .wbuf => ceilDiv p.wbuf Config.granule | .zbuf => ceilDiv p.zbuf Config.granule | _ => 0) else 0)
  else match k with
    | .reg => ceilDiv (p.groups * 64 * p.regs * 4) Config.granule
    | .loc => ceilDiv p.loc Config.granule
    | .wbuf => ceilDiv p.wbuf Config.granule
    | .abuf => ceilDiv p.abuf Config.granule
    | .zbuf => ceilDiv p.zbuf Config.granule

/-- The storage kinds. -/
def storeKinds : List Store := [.reg, .loc, .wbuf, .abuf, .zbuf]

/-- Every granule that a block needs, with the follower's. -/
def granTotal (p : Packet) : Nat := (storeKinds.map (fun k => granNeed p k false + granNeed p k true)).sum

/-- The follower core of a leader (R30). -/
def follower (core : Nat) : Nat := core + 1

/-- When a block was pre-empted, for the order of SHADOW claims. -/
def placedOf (s : State) (b : Option Nat) : Nat := (b.bind (fun x => (tget s.blocks x).map (fun y => y.placed))).getD 0

/-- The granules of a kind that a block may claim, in the order of R290: FREE of its context, FREE of nobody, FREE of others, then SHADOW
granules of the block pre-empted earliest, highest number first. -/
def claimable (s : State) (core : Nat) (k : Store) (b ctx : Nat) : List Nat :=
  let (lo, n) := granRange k
  let all := (List.range n).map (fun i => lo + i)
  let open_ := all.filter (fun i => (granOf s core i).claim.isNone)
  let free := fun (f : Option Nat → Bool) => open_.filter (fun i => (granOf s core i).st == .free && f (granOf s core i).last)
  let sh := (open_.filter (fun i => (granOf s core i).st == .shadow && (granOf s core i).owner != some b)).reverse
  let times := sortBy (fun (a b : Nat) => decide (a ≤ b)) (sh.map (fun i => placedOf s (granOf s core i).owner)).eraseDups
  free (· == some ctx) ++ free Option.isNone ++ free (fun l => l.isSome && l != some ctx) ++
    times.flatMap (fun t => sh.filter (fun i => placedOf s (granOf s core i).owner == t))

/-- A block's own SHADOW granules of a kind on a core. -/
def ownShadow (s : State) (core : Nat) (k : Store) (fol : Bool) (b : Nat) : List Nat :=
  let (lo, n) := granRange k
  ((List.range n).map (fun i => lo + i)).filter (fun i =>
    let g := granOf s core i
    g.st == .shadow && g.owner == some b && g.fol == fol && g.claim.isNone)

/-- Places the 64 KiB that a granule holds at its order in a block's bytes. A kept Z granule brings no poison (DESIGN CHOICE, log 19: R149 and R290 do
not say whether poison stays with contents that are kept for a later block). -/
def putSlice (bl : Block) (k : Store) (fol : Bool) (order : Nat) (d : Sparse 8) : Block :=
  let put := fun (m : Sparse 8) => d.foldl (fun m e => sset m (order * Config.granule + e.1) e.2) m
  match k with
  | .reg => bl
  | .loc => { bl with loc := put bl.loc }
  | .wbuf => if fol then { bl with fw := put bl.fw } else { bl with wbuf := put bl.wbuf }
  | .abuf => { bl with abuf := put bl.abuf }
  | .zbuf => if fol then { bl with fz := put bl.fz } else { bl with zbuf := put bl.zbuf }

/-- Claims one granule (R290): LIVE at once when nothing has to be done to it, with its contents kept for the same context. -/
def claimOne (s : State) (core i : Nat) (k : Store) (fol : Bool) (b ctx order : Nat) (fresh : Bool) : State :=
  let g := granOf s core i
  let live := { g with st := GState.live, owner := some b, last := none, data := [], order := order, fol := fol, claim := none }
  if fresh && g.st == .free && g.last.isNone then setGran s core i live
  else if fresh && g.st == .free && g.last == some ctx && k != .reg then
    (setGran s core i live).mapBlock b (fun bl => putSlice bl k fol order g.data)
  else setGran s core i { g with claim := some (b, order, fol) }

/-- Claims what a block needs of one kind: its own SHADOW granules become LIVE, others are claimed for the orders that lack one. -/
def claimKind (s : State) (core : Nat) (p : Packet) (k : Store) (fol : Bool) (b ctx : Nat) (fresh : Bool) : State :=
  let own := ownShadow s core k fol b
  let s1 := own.foldl (fun s i => setGran s core i { granOf s core i with st := .live }) s
  let have_ := own.map (fun i => (granOf s core i).order)
  let missing := (List.range (granNeed p k fol)).filter (fun o => !have_.contains o)
  (List.zip missing (claimable s core k b ctx)).foldl (fun s x => claimOne s core x.2 k fol b ctx x.1 fresh) s1

/-- Claims all that a block needs. -/
def claimAll (s : State) (core : Nat) (p : Packet) (b ctx : Nat) (fresh : Bool) : State :=
  let s1 := storeKinds.foldl (fun s k => claimKind s core p k false b ctx fresh) s
  if p.pair then [Store.wbuf, Store.zbuf].foldl (fun s k => claimKind s (follower core) p k true b ctx fresh) s1 else s1

/-- Has a block a claim that is not LIVE yet? -/
def claimsLeft (s : State) (b : Nat) : Bool := s.cores.any (fun e => e.2.gran.any (fun g => (g.2.claim.map (fun c => c.1)) == some b))

/-! ### Where a block fits (R286) -/

/-- The first core index and blocks of a cluster. -/
def clusterKeys (s : State) (b : Nat) : List Nat := barBlocks s b true

/-- Is a core in some context's collective reserve (R295)? -/
def reservedBy (s : State) (core : Nat) : Option Nat := (s.ctxs.find? (fun e => e.2.resv.contains core)).map Prod.fst

/-- Does the reserve rule allow the core (R286, R295)? -/
def reserveOk (s : State) (core ctx : Nat) (cres : Bool) : Bool :=
  let mine := ((tget s.ctxs ctx).map (fun c => c.resv)).getD []
  if cres && !mine.isEmpty then mine.contains core else (reservedBy s core).isNone

/-- Contexts that hold LIVE or claimed granules, or resident blocks, on a core. -/
def liveCtxs (s : State) (core : Nat) : List Nat :=
  let c := s.core core
  let owners := c.gran.filterMap (fun g => match g.2.claim with | some x => some x.1 | none => if g.2.st == .live then g.2.owner else none)
  (owners.filterMap (fun b => (tget s.blocks b).map (fun x => x.ctx))).eraseDups

/-- Does the core hold LIVE granules of at most one other context? -/
def shadowOk (s : State) (core ctx : Nat) : Bool := decide (((liveCtxs s core).filter (fun x => x != ctx)).length ≤ 1)

/-- Are there granules enough on a core for a block? -/
def granOk (s : State) (core : Nat) (p : Packet) (b ctx : Nat) (fol : Bool) : Bool :=
  storeKinds.all (fun k => decide (granNeed p k fol ≤ (ownShadow s core k fol b).length + (claimable s core k b ctx).length))

/-- Free group slots of a quarter, ascending. -/
def freeGroupSlots (s : State) (core q : Nat) : List Nat := ((List.range 64).map (fun i => 64 * q + i)).filter (fun n => (tget (s.core core).used n).isNone)

/-- Do the groups of a block find slots, group i on quarter (f + i) mod 4? Groups parked off-core take none. -/
def slotsOk (s : State) (core f : Nat) (groups : List Nat) : Bool :=
  (List.range 4).all (fun q => decide ((groups.filter (fun i => (f + i) % 4 == q)).length ≤ (freeGroupSlots s core q).length))

/-- Is a cluster being placed: has a block of it claims that are not LIVE yet? -/
def placing (s : State) (b : Nat) : Bool := (clusterKeys s b).any (claimsLeft s)

/-- Resident blocks, or blocks being placed, on a core. -/
def blocksOn (s : State) (core : Nat) : List Block :=
  (s.blocks.filter (fun e => e.2.core == core && (e.2.res == .resident || placing s e.1))).map Prod.snd

/-- The rules of PAIR for a core: a leader that holds no other such block, and whose follower is allowed to the context and holds no W- or Z-buffer
allocation; and no block with such a request on a follower (R139, R286, R295). -/
def pairOk (s : State) (core : Nat) (p : Packet) (b ctx : Nat) : Bool :=
  (!p.pair || (core % 2 == 0 && granOk s (follower core) p b ctx true && shadowOk s (follower core) ctx &&
     (blocksOn s (follower core)).all (fun x => (packetOf s x).wbuf == 0 && (packetOf s x).zbuf == 0) &&
     (blocksOn s core).all (fun x => !(packetOf s x).pair) && reserveOk s (follower core) ctx p.cres)) &&
  (core % 2 == 0 || (p.wbuf == 0 && p.zbuf == 0) || (blocksOn s (core - 1)).all (fun x => !(packetOf s x).pair))

/-- Groups of a block that need a slot: all of a fresh one; of a resumed one those that are not parked, and those that may resume with it (R293). -/
def slotGroups (s : State) (p : Packet) (b : Nat) : List Nat :=
  match tget s.blocks b with
  | some bl =>
    if bl.started then (bl.groups.filter (fun q => match q.2.run with | .parkedOff .resumed => true | .parkedOff _ | .retired => false | _ => true)).map Prod.fst else List.range p.groups
  | none => List.range p.groups

/-- Are the tile indices of a resumed block untagged on the core (R241)? -/
def tilesOk (s : State) (core b : Nat) : Bool :=
  match tget s.blocks b with
  | none => true
  | some bl => bl.tiles.all (fun t => (tileOf s core t.1).blk.isNone)

/-- May a block be placed on a core with start quarter f (R286)? -/
def coreOk (s : State) (core f : Nat) (p : Packet) (b ctx : Nat) : Bool :=
  decide (core < Config.cores) && decide (f < 4) && reserveOk s core ctx p.cres && granOk s core p b ctx false && slotsOk s core f (slotGroups s p b) && shadowOk s core ctx &&
  pairOk s core p b ctx && tilesOk s core b

/-- CLRANK of a block by its key (R286). -/
def rankOf (p : Packet) (key : Nat) : Nat := key % 2 ^ 32 % max 1 p.cluster

/-- May the cores hold a cluster: distinct cores of one hardware cluster, at the positions of PAIR, each with room? -/
def coresOk (s : State) (cores : List Nat) (f : Nat) (p : Packet) (keys : List Nat) (ctx : Nat) : Bool :=
  cores.length == keys.length && cores.Nodup && cores.all (fun c => clusterOf c == clusterOf (cores.headD 0)) &&
  (!p.pair || (List.zip keys cores).all (fun x => x.2 % 4 == 2 * rankOf p x.1)) &&
  (List.zip cores keys).all (fun x => coreOk s x.1 f p x.2 ctx)

/-- A cluster of blocks that waits for cores (R294): its blocks' keys, grid and context, effective priority, and since when. -/
structure Wait where
  keys  : List Nat
  grid  : Nat
  ctx   : Nat
  prio  : Nat
  since : Nat
  fresh : Bool
deriving DecidableEq, Repr

/-- The key of a block. -/
def blockKey (grid i : Nat) : Nat := grid * 2 ^ 32 + i

/-- The start quarter with room for a cluster on these cores. -/
def quarterFor (s : State) (cores : List Nat) (p : Packet) (w : Wait) : Option Nat := (List.range 4).find? (fun f => coresOk s cores f p w.keys w.ctx)

/-- The packet of a waiting cluster's grid. -/
def waitPacket (s : State) (w : Wait) : Packet := ((tget s.grids w.grid).map (fun g => g.pkt)).getD Packet.blank

/-- The choices of cores for a cluster in one hardware cluster: ascending positions. -/
def coreChoices (hw n : Nat) (pair : Bool) : List (List Nat) :=
  let c := fun (l : List Nat) => l.map (fun i => 4 * hw + i)
  if pair then (if n = 1 then [c [0], c [2]] else [c [0, 2]])
  else match n with
    | 1 => [c [0], c [1], c [2], c [3]]
    | 2 => [c [0, 1], c [0, 2], c [0, 3], c [1, 2], c [1, 3], c [2, 3]]
    | 3 => [c [0, 1, 2], c [0, 1, 3], c [0, 2, 3], c [1, 2, 3]]
    | _ => [c [0, 1, 2, 3]]

/-- Cores and quarter for a waiting cluster in one hardware cluster. -/
def findIn (s : State) (w : Wait) (hw : Nat) : Option (List Nat × Nat) :=
  let p := waitPacket s w
  (coreChoices hw w.keys.length p.pair).findSome? (fun cs => (quarterFor s cs p w).map (fun f => (cs, f)))

/-- Cores and quarter for a waiting cluster anywhere. -/
def findCores (s : State) (w : Wait) : Option (List Nat × Nat) := (List.range Config.clusters).findSome? (findIn s w)

/-! ### Waiting clusters (R294) -/

/-- Effective priority after a number of quanta waited. -/
def aged (prio waited : Nat) : Nat := min 7 (prio + waited / 8)

/-- The next cluster of a launched grid that has not been placed. -/
def freshWait (e : Nat × Grid) : Option Wait :=
  let g := e.2
  if g.done || decide (g.pkt.blocks ≤ g.next) then none
  else some { keys := (List.range (max 1 g.pkt.cluster)).map (fun i => blockKey e.1 (g.next + i)), grid := e.1, ctx := g.ctx,
              prio := aged g.pkt.prio g.waited, since := g.since, fresh := true }

/-- A pre-empted cluster, under its first block. -/
def resumeWait (s : State) (e : Nat × Block) : Option Wait :=
  let keys := clusterKeys s e.1
  if e.2.res == .preempted && !placing s e.1 && keys.head? == some e.1 then
    some { keys := keys, grid := e.2.grid, ctx := e.2.ctx, prio := aged e.2.prio e.2.waited, since := e.2.placed, fresh := false }
  else none

/-- Does one waiting cluster come before another: higher effective priority, then longer waiting? -/
def Wait.before (a b : Wait) : Bool := decide (b.prio < a.prio) || (a.prio == b.prio && decide (a.since ≤ b.since))

/-- The waiting clusters in the order in which they are served. -/
def waiting (s : State) : List Wait := sortBy Wait.before (s.grids.filterMap freshWait ++ s.blocks.filterMap (resumeWait s))

/-! ### Save slots (R289) -/

/-- Bytes of a block's save slot. -/
def saveBytes (p : Packet) : Nat := Config.granule * (1 + granTotal p)

/-- The save slots in use in a context: base and size. -/
def savesUsed (s : State) (ctx : Nat) : List (Nat × Nat) :=
  s.blocks.filterMap (fun e => if e.2.ctx = ctx then e.2.save.map (fun a => (a, saveBytes (packetOf s e.2))) else none)

/-- The lowest free place for a slot of `n` bytes in the save pool of a context, beside those in use. -/
def savePlace (c : Ctx) (used : List (Nat × Nat)) (n : Nat) : Option Nat :=
  let starts := sortBy (fun (a b : Nat) => decide (a ≤ b)) (c.pool :: used.map (fun u => u.1 + u.2))
  starts.find? (fun a => decide (c.pool ≤ a) && decide (a + n ≤ c.pool + c.poolsz) && !used.any (fun u => rangesMeet a n u.1 u.2))

/-- The lowest free place for a slot in the save pool of a context. -/
def freeSave (s : State) (ctx n : Nat) : Option Nat := (tget s.ctxs ctx).bind (fun c => savePlace c (savesUsed s ctx) n)

/-- Are there places for so many slots of `n` bytes? -/
def savePlaces (c : Ctx) (n : Nat) (used : List (Nat × Nat)) : Nat → Bool
  | 0 => true
  | k + 1 => match savePlace c used n with | none => false | some a => savePlaces c n ((a, n) :: used) k

/-- The blocks of a waiting cluster that have no save slot yet. -/
def slotless (s : State) (w : Wait) : Nat := (w.keys.filter (fun k => ((tget s.blocks k).bind (fun (x : Block) => x.save)).isNone)).length

/-- Has the context a save slot for each block of a waiting cluster that has none? -/
def saveRoom (s : State) (w : Wait) : Bool :=
  match tget s.ctxs w.ctx with
  | none => false
  | some c => savePlaces c (saveBytes (waitPacket s w)) (savesUsed s w.ctx) (slotless s w)

/-! ### Save slots at resumption (R289) -/

/-- Place of a granule among those of its block in the save slot. -/
def slotPlace (p : Packet) (k : Store) (fol : Bool) (order : Nat) : Nat :=
  let kinds : List (Store × Bool) := [(.reg, false), (.loc, false), (.wbuf, false), (.abuf, false), (.zbuf, false), (.wbuf, true), (.zbuf, true)]
  ((kinds.takeWhile (fun x => x != (k, fol))).map (fun x => granNeed p x.1 x.2)).sum + order

/-- Is a group parked off-core, so that its record stands in the save slot already (R293)? -/
def Group.offCore (g : Group) : Bool := match g.run with | .parkedOff _ => true | _ => false

/-- The records of a block's groups, but those parked off-core, and then its engine and tile state are written to its slot (R289, R291). -/
def writeRecords (s : State) (b : Nat) : State :=
  match tget s.blocks b with
  | none => s
  | some bl => match bl.save with
    | none => s
    | some a =>
      let end_ := recordPlace a (packetOf s bl).groups
      fillSlot (((bl.groups.filter (fun e => !e.2.offCore)).map Prod.fst).foldl (fun s g => fillRecord s b g) s) b end_ (a + Config.granule - end_)

/-- Does a sector belong to what a resumption of the block reloads: all but the records of groups that stay parked? -/
def Block.reloads (bl : Block) (sec : Nat) : Bool :=
  match bl.save with
  | none => true
  | some a => bl.groups.all (fun e => !(e.2.offCore && inRecord a e.1 sec))

/-- Values of an altered slot under the keys below `n` that are allowed (log 12); `f` gives the words that items take. -/
def freeMap (f : Nat → Word) (w base n : Nat) (ok : Nat → Bool) : Sparse w :=
  (List.range n).filterMap (fun k =>
    let x := (f (base + k)).setWidth w
    if ok k && x != 0 then some (k, x) else none)

/-- An instruction address from an altered slot. -/
def freePc (x : Word) : Word := x &&& ~~~ 7#64

/-- Registers reloaded from an altered slot. -/
def Regs.unsettled (f : Nat → Word) (p : Packet) (base : Nat) (r : Regs) : Regs :=
  { r with v := freeMap f 32 base 16384 (fun k => decide (k % 256 < p.regs)), k := freeMap f 64 (base + 20000) 63 (fun _ => true),
           p := freeMap f 64 (base + 21000) 7 (fun _ => true), q := (f (base + 21010)).setWidth 8 &&& 0x7F,
           gen := freeMap f 32 (base + 22000) 64 (fun _ => true), pc := freePc (f (base + 23000)), mask := f (base + 23001),
           rpc := freePc (f (base + 23002)), fpf := (f (base + 23003)).setWidth 5 }

/-- A stack entry of an altered slot; no lane is out after a pre-emption. -/
def StackEntry.unsettled (f : Nat → Word) (base : Nat) (e : StackEntry) : StackEntry :=
  { e with rpc := freePc (f base), mask := f (base + 1), pc := freePc (f (base + 2)), kd := (f (base + 3)).getLsbD 0 }

/-- A guard slot of an altered slot. -/
def slotGuard (x : Word) : Guard :=
  if x.getLsbD 0 then .resolved (x.getLsbD 1) (x.toNat / 4 % 64) else if x.getLsbD 1 then .armed (x.toNat / 4 % 64 + 1) else .free

/-- A group reloaded from an altered slot. -/
def Group.unsettled (f : Nat → Word) (p : Packet) (base : Nat) (g : Group) : Group :=
  { g with r := g.r.unsettled f p base,
           stack := (List.zip (List.range g.stack.length) g.stack).map (fun e => e.2.unsettled f (base + 24000 + 4 * e.1)),
           guards := ((List.range 8).map (fun n => (n, slotGuard (f (base + 25000 + n))))).filter (fun e => e.2 != .free) }

/-- A member of a list that a word of an altered slot chooses; the value itself under an empty one. -/
def freeOf {α : Type} (f : Nat → Word) (l : List α) (i : Nat) (x : α) : α := (l[(f i).toNat % max 1 l.length]?).getD x

/-- A free guard slot of a saved command. -/
def freeGuard (f : Nat → Word) (i : Nat) : Option Nat := freeOf f (none :: (List.range 8).map some) i none

/-- The directions that a queue of the block-transfer engine takes. -/
def dirsOf (store : Bool) : List Dir :=
  [Dir.glbLoc, .locGlb, .glbWbuf, .glbAbuf, .abufGlb, .zbufGlb, .locAbuf, .abufLoc, .peerLoc, .locPeer, .glbGlb, .zbufLoc, .locWbuf].filter
    (fun d => storeQueueDir d == store)

/-- A block-transfer command of an altered slot: free operands where they form a legal command. -/
def BtCmd.unsettled (f : Nat → Word) (p : Packet) (base : Nat) (c : BtCmd) : BtCmd :=
  let ws := (List.range 4).map (fun i => f (base + i))
  let tbs := (List.range (p.loc / 16)).map (fun i => 16 * i)
  { c with shape := if shapeOk ws then ws else c.shape, dst := f (base + 4), src := f (base + 5),
           peer := f (base + 6), dom := freeOf f allDoms (base + 7) c.dom, tb := freeOf f tbs (base + 8) c.tb, guard := freeGuard f (base + 9),
           dir := if c.btg then c.dir else freeOf f (dirsOf (storeQueueDir c.dir)) (base + 10) c.dir,
           key := f (base + 11), tagVa := f (base + 12) }

/-- The kinds of matrix command that a saved one may name. -/
def freeKind (f : Nat → Word) (i : Nat) : MKind :=
  let zi := (f (i + 1)).getLsbD 0
  freeOf f ([.mzero, .mqnt .e4m3 0 false, .mqnt .e5m2 0 false, .mqnt .n4 0 false, .mqnt .n4 1 false, .mqnt .n4 2 false, .mqnt .n4 3 false, .mqnt .n4 0 true] ++
    (List.range 5).flatMap (fun op => (List.range 4).map (fun fm => MKind.mma zi (mmaPair op fm).1 (mmaPair op fm).2))) i .mzero

/-- A matrix command of an altered slot: a free kind, tiles, Z address, shape and guard where they form a legal command. -/
def MCmd.unsettled (f : Nat → Word) (p : Packet) (base : Nat) (c : MCmd) : MCmd :=
  let x := mshapeOf (f base)
  let z := (f (base + 1)).toNat / 4 * 4
  let da := f (base + 2)
  let db := f (base + 3)
  let c1 := if x.ok 128 && zFits p z x then { c with z := z, m := x.m, n := x.n, kd := x.k, pitch := x.pitch } else c
  if c.kind = .mrdy then c
  else if tileDescOk da && tileDescOk db then
    { c1 with kind := freeKind f (base + 4), da := da, db := db, ta := (f (base + 6)).toNat % 64, tb := (f (base + 7)).toNat % 64,
              guard := freeGuard f (base + 8) }
  else { c1 with guard := freeGuard f (base + 8) }

/-- Names that one altered slot takes from the supply of free values. -/
def slotNames : Nat := 2 ^ 44

/-- A block reloaded from an altered slot: each register, predicate, guard slot, stack entry, buffer byte, L-space byte and saved command
holds a value that `f` takes from the slot (R289, log 12). -/
def Block.unsettled (f : Nat → Word) (p : Packet) (base : Nat) (bl : Block) : Block :=
  let bytes := fun (i n : Nat) => freeMap f 8 (base + 2 ^ 32 * i) n (fun _ => true)
  { bl with
    groups := bl.groups.map (fun e => (e.1, if e.2.run = .retired ∨ e.2.offCore = true then e.2 else e.2.unsettled f p (base + 2 ^ 16 * e.1))),
    loc := bytes 1 p.loc, abuf := bytes 2 p.abuf, wbuf := bytes 3 p.wbuf, zbuf := bytes 4 p.zbuf,
    fw := if p.pair then bytes 5 p.wbuf else bl.fw, fz := if p.pair then bytes 6 p.zbuf else bl.fz,
    bt := (List.zip (List.range bl.bt.length) bl.bt).map (fun e => (e.2.1, e.2.2.unsettled f p (base + 2 ^ 32 * 7 + 16 * e.1))),
    mtx := (List.zip (List.range bl.mtx.length) bl.mtx).map (fun e => e.2.unsettled f p (base + 2 ^ 32 * 8 + 16 * e.1)) }

/-- The words that the items of an altered slot take: free choices among the bytes of the slot and zero (R10, R289). -/
def slotWords (s : State) (bl : Block) : Nat → Word := slotWord s bl.ctx (bl.save.getD 0) (saveBytes (packetOf s bl)) (s.free + 1)

/-! ### Start and resumption (R186, R280, R288, R292) -/

/-- The active context after a block of `ctx` begins on a core (R288). -/
def activeAfter (s : State) (core ctx prio : Nat) : Option Nat :=
  match (s.core core).active with
  | none => some ctx
  | some a =>
    let theirs := s.blocks.filter (fun e => e.2.core == core && e.2.res == .resident && e.2.ctx == a)
    if a = ctx then some a else if theirs.all (fun e => decide (e.2.prio < prio)) then some ctx else some a

/-- The latest noted TRIG or block retirement of the grids that a grid depends on (R393). -/
def depNote (s : State) (p : Packet) : Option Note :=
  let ns := p.deps.filterMap (fun d => if d.getLsbD 63 then (tget s.grids (d.toNat % 2 ^ 60)).bind (fun g => g.note) else none)
  ns.foldl (fun (b : Option Note) n => match b with | none => some n | some m => if m.2.2 ≤ n.2.2 then some n else some m) none

/-- A pre-empted block goes on with its tiles, commands and horizons (R292). Its commands join the engines' queues although those may then hold more than
they accept of new ones (DESIGN CHOICE: R151 does not say; log 26). -/
def resumeBlock (s : State) (b : Nat) (bl : Block) : State :=
  let s2 := s.mapCore bl.core (fun c =>
    { c with tiles := bl.tiles.foldl (fun t e => tset t e.1 e.2) c.tiles, btl := c.btl ++ (bl.bt.filter (fun x => !x.1)).map Prod.snd,
             bts := c.bts ++ (bl.bt.filter (fun x => x.1)).map Prod.snd, mtx := c.mtx ++ bl.mtx })
  let s3 := (List.zip allDoms bl.hor).foldl (fun s x => s.raise bl.core x.1 x.2) s2
  s3.setBlock b { bl with res := .resident, placed := s.now, tiles := [], bt := [], mtx := [], hor := [], image := bl.image.filter (fun e => !bl.reloads e.1),
                          groups := tmap (fun g => { g with lastIss := s.now }) bl.groups }

/-- A pre-empted block whose slot was altered: the format check ends its grid with status 0x07, or it goes on with what the slot
gives; which one is free (R289, log 12). -/
def resumeAltered (s : State) (b : Nat) (bl : Block) : State :=
  let s1 := { s with free := s.free + slotNames }
  if (Config.freeWord s.free).getLsbD 0 then abortGrid s1 bl.grid 7
  else resumeBlock s1 b (bl.unsettled (slotWords s bl) (packetOf s bl) 0)

/-- A block whose claims are all LIVE begins: for the first time as an acquire with a launch edge in a dependent grid, or resumed. -/
def beginBlock (s : State) (b : Nat) : State :=
  match tget s.blocks b with
  | none => s
  | some bl =>
    let p := packetOf s bl
    let s1 := s.mapCore bl.core (fun c => { c with active := activeAfter s bl.core bl.ctx bl.prio, idle := 0 })
    if bl.started then (if slotAltered s bl bl.reloads then resumeAltered s1 b bl else resumeBlock s1 b bl)
    else
      let s2 := (acquireAll s1 bl.core).mapBlock b (fun bl => { bl with res := .resident, started := true, placed := s.now })
      if p.deps.any (fun d => d.getLsbD 63) then
        let since := ((tget s.grids bl.grid).map (fun g => g.since)).getD s.now
        chainEdge s2 bl.ctx { blk := b, grp := 0, lane := none } (depNote s p) since 6 0 false
      else s2

/-- Begins a block's cluster, as one unit, when nothing of its claims is left to do (R286). -/
def beginIfReady (s : State) (b : Nat) : State := if placing s b then s else (clusterKeys s b).foldl beginBlock s

/-- Gives the groups of a block their slots: the lowest free one of each quarter. -/
def takeSlots (s : State) (b core f : Nat) (groups : List Nat) : State :=
  groups.foldl (fun s i =>
    match (freeGroupSlots s core ((f + i) % 4)).head? with
    | none => s
    | some n => (s.mapCore core (fun c => { c with used := tset c.used n (b, i) })).mapGroup b i (fun g =>
        if g.run = .parkedOff .resumed then { g with slot := n, run := .ready, lastIss := s.now : Group }.settle else { g with slot := n })) s

/-- Places one block on a core: its claims and slots. -/
def placeBlock (s : State) (w : Wait) (rank key core f : Nat) : State :=
  let p := waitPacket s w
  let s1 := if w.fresh then
      let bl := Block.fresh w.grid (key % 2 ^ 32) w.ctx p.prio s.now
      let groups := (List.range p.groups).map (fun i => (i, Group.start p i 0 s.now))
      s.setBlock key { bl with rank := rank, core := core, first := f, save := freeSave s w.ctx (saveBytes p), groups := groups }
    else s.mapBlock key (fun bl =>
      { bl with core := core, first := f, waited := 0, save := if bl.save.isSome then bl.save else freeSave s w.ctx (saveBytes p) })
  let s2 := takeSlots s1 key core f (slotGroups s1 p key)
  claimAll s2 core p key w.ctx w.fresh

/-- Places a cluster, which begins when nothing has to be streamed. -/
def placeCluster (s : State) (w : Wait) (cores : List Nat) (f : Nat) : State :=
  let s1 := (List.zip (List.range w.keys.length) (List.zip w.keys cores)).foldl (fun s x => placeBlock s w x.1 x.2.1 x.2.2 f) s
  let s2 := if w.fresh then
      match tget s1.grids w.grid with
      | none => s1
      | some g => { s1 with grids := tset s1.grids w.grid { g with next := g.next + w.keys.length } }
    else s1
  beginIfReady s2 (w.keys.headD 0)

/-! ### The stream engine (R290) -/

/-- Writes a SHADOW granule out to its owner's save slot: it is FREE, with what its owner left. -/
def writeOut (s : State) (core i : Nat) : State :=
  let g := granOf s core i
  match g.owner, g.owner.bind (fun b => tget s.blocks b) with
  | some b, some bl =>
    let s1 := setGran s core i { g with st := .free, owner := none, last := some bl.ctx, data := granuleSlice (blockBytes bl g.kind g.fol) g.order }
    match bl.save with
    | none => s1
    | some a => fillSlot s1 b (a + Config.granule * (1 + slotPlace (packetOf s bl) g.kind g.fol g.order)) Config.granule
  | _, _ => setGran s core i { g with st := .free, owner := none }

/-- Is a SHADOW granule's content claimed on another core, or still to be written out elsewhere? -/
def claimedElsewhere (s : State) (g : Granule) : Bool :=
  s.cores.any (fun e => e.2.gran.any (fun x => x.2.kind == g.kind && (match x.2.claim, g.owner with | some c, some o => c == (o, g.order, g.fol) | _, _ => false)))

/-- Must a restore wait for its content to be written out on the core that the block left? -/
def shadowElsewhere (s : State) (k : Store) (c : Nat × Nat × Bool) : Bool :=
  s.cores.any (fun e => e.2.gran.any (fun x => x.2.kind == k && x.2.st == .shadow && x.2.owner == some c.1 && x.2.order == c.2.1 && x.2.fol == c.2.2))

/-- One operation of the stream engine on a granule: none when there is nothing to do. -/
def streamOp (s : State) (core i : Nat) : Option State :=
  let g := granOf s core i
  match g.claim with
  | some c =>
    if g.st = .shadow then some (writeOut s core i)
    else
      let fresh : Bool := match tget s.blocks c.1 with | some bl => !bl.started | none => true
      let live := { g with st := GState.live, owner := some c.1, last := none, data := [], order := c.2.1, fol := c.2.2, claim := none }
      let kept : Bool := fresh && g.kind != .reg && g.last.isSome && g.last == (tget s.blocks c.1).map (fun bl => bl.ctx)
      let s1 := if kept then (setGran s core i live).mapBlock c.1 (fun bl => putSlice bl g.kind c.2.2 c.2.1 g.data) else setGran s core i live
      if !fresh && shadowElsewhere s g.kind c then none else some (beginIfReady s1 c.1)
  | none =>
    if g.st = .shadow then (if claimedElsewhere s g then some (writeOut s core i) else none)
    else if g.st = .free && g.last.isSome then some (setGran s core i { g with last := none, data := [] })
    else none

/-- GRANULE_STREAM_OPERATION (R290). -/
def granuleStreamOperationEvent (core : Nat) (gr : Nat) (s : State) : Option State :=
  match (if gr < 104 then streamOp s core gr else none) with
  | some t => some t
  | none => none

/-- The meaning: the event, or nothing where it does not occur. -/
def execGranuleStreamOperation (core : Nat) (gr : Nat) (s : State) : Host.Outcome State Fault Refusal := happen s (granuleStreamOperationEvent core gr s)

/-! ### Pre-emption (R151, R191, R235, R291) -/

/-- Can a block stop now: no remote pass in flight but those with an interim answer, no lane or row that awaits one, no load still to be performed, no
instruction that completes first (R235, R271, R321)? -/
def canStop (s : State) (b : Nat) : Bool :=
  match tget s.blocks b with
  | none => false
  | some bl =>
    s.fab.recs.all (fun r => r.ag.blk != b || (r.bt.isNone && (!r.sent || r.items.all (fun i => i.status == 9)))) && s.late.all (fun x => x.ag.blk != b) &&
    (tvals bl.groups).all (fun g => !g.completing && g.threads.all (fun t => t.settledDown)) &&
    (drain s (((s.core bl.core).sq.filter (fun e => e.ag.blk == b)).map (fun e => e.id))).isSome

/-- A group stopped at an instruction boundary: its lanes are home, its windows written, its wait is met again (R291, R321). -/
def stopGroup (g : Group) : Group :=
  let g1 := recallAll g (BitVec.allOnes 64)
  { g1 with r := g1.r.flush, resv := [], ahead := [], want := [], tbMet := false,
            run := match g1.run with | .waiting _ _ | .yielding _ _ | .starting => .ready | r => r }

/-- A transfer command as it is saved: it starts again at its row (R235). -/
def savedBt (store : Bool) (c : BtCmd) : Bool × BtCmd := (store, { restartBtg c with started := false, guard := if c.started then none else c.guard })

/-- A TRIG of a group is counted, once for the group, with the write-backs of its release; the Chain notes it (R284, R337). -/
def countTrig (s : State) (b g : Nat) : State :=
  match tget s.blocks b, s.group? b g with
  | some bl, some x =>
    let s1 := sivReleaseAll s bl.core .dev
    match tget s1.grids bl.grid with
    | none => s1
    | some gr =>
      let new : Bool := !x.trigd && gr.pkt.trigcnt != 0
      let n := if new then gr.trigs + 1 else gr.trigs
      let note := noteOf s1 { blk := b, grp := g, lane := none }
      let s2 := { s1 with grids := tset s1.grids bl.grid { gr with trigs := n, trigged := gr.trigged || (new && decide (gr.pkt.trigcnt ≤ n)), note := some note } }
      s2.mapGroup b g (fun x => { x with trigd := true })
  | _, _ => s

/-- TRIGs of a group, oldest first, are counted up to one whose accesses are open. -/
def countTrigs (s : State) (b g : Nat) : List (List Nat) → State
  | [] => s
  | ids :: rest => if isOpen s ids then s else countTrigs (countTrig (s.mapGroup b g (fun x => { x with trigQ := rest })) b g) b g rest

/-- What the drained stores of a pre-empted block leave to do on the core that it leaves: its dirty SIV bytes reach memory, the gates of its groups are
passed and their TRIGs counted, but those that a remote access still holds (R177, R191, R271, R337). -/
def settleStop (s : State) (b : Nat) (core : Nat) : State :=
  let s1 := (sivReleaseAll s core .dev).mapBlock b (fun bl =>
    { bl with groups := tmap (fun (g : Group) => { g with gates := g.gates.filter (fun x => isOpen s x.ids) }) bl.groups })
  ((tget s1.blocks b).map (fun bl => bl.groups)).getD [] |>.foldl (fun s e => countTrigs s b e.1 e.2.trigQ) s1

/-- Pre-empts a block (R291): its groups stop, its engines drain, its records are written and its state is kept, its granules become SHADOW. Its
saved horizons cover everything before the pre-emption (R191). -/
def preemptBlock (s : State) (b : Nat) : State :=
  match tget s.blocks b with
  | none => s
  | some bl =>
    let core := bl.core
    let s1 := s.mapBlock b (fun bl => { bl with groups := tmap stopGroup bl.groups })
    let s2 := settleStop ((drain s1 (((s1.core core).sq.filter (fun e => e.ag.blk == b)).map (fun e => e.id))).getD s1) b core
    let s3 := ((s2.core core).mtx.filter (fun c => c.blk == b && c.started)).foldl (fun s c => finishCmd s core c) s2
    let k := s3.core core
    let mine := fun (q : List BtCmd) => q.filter (fun c => c.blk == b)
    let s4 := s3.mapBlock b (fun bl =>
      { bl with res := .preempted, placed := s.now, waited := 0, hor := k.hor.map (fun h => max h s.now), tiles := k.tiles.filter (fun t => t.2.blk == some b),
                bt := (mine k.btl).map (savedBt false) ++ (mine k.bts).map (savedBt true), mtx := k.mtx.filter (fun c => c.blk == b), stopping := false })
    let s5 := s4.mapCore core (fun c =>
      { c with tiles := c.tiles.filter (fun t => t.2.blk != some b), btl := c.btl.filter (fun x => x.blk != b), bts := c.bts.filter (fun x => x.blk != b),
               mtx := c.mtx.filter (fun x => x.blk != b) })
    let s6 := match tget s5.blocks b with | none => s5 | some x => freeSlots s5 b x
    let s7 := { s6 with cores := tmap (fun (c : Core) => { c with gran := tmap (fun g => if g.owner = some b then { g with st := .shadow } else g) c.gran }) s6.cores }
    writeRecords s7 b

/-- Pre-empts a cluster. -/
def preemptCluster (s : State) (b : Nat) : State := (clusterKeys s b).foldl preemptBlock s

/-- A resident cluster that can be pre-empted, under its first block: priority, resident since, and whether all its groups are parked. -/
structure Victim where
  b      : Nat
  prio   : Nat
  since  : Nat
  parked : Bool
deriving DecidableEq, Repr

/-- The resident clusters, each under its first block. -/
def residents (s : State) : List (Nat × Block) :=
  s.blocks.filter (fun e => (clusterKeys s e.1).head? == some e.1 &&
    (clusterKeys s e.1).all (fun k => match tget s.blocks k with | some x => x.res == .resident | none => false))

/-- The pre-emption of a cluster begins (R291): it is complete at once where the cluster can stop, else its groups issue nothing more. -/
def stopCluster (s : State) (b : Nat) : State :=
  let ks := clusterKeys s b
  if ks.all (canStop s) then preemptCluster s b
  else ks.foldl (fun s k => s.mapBlock k (fun bl => { bl with stopping := true })) s

/-- The clusters whose pre-emption has begun. -/
def stoppingClusters (s : State) : List Nat := ((residents s).filter (fun e => e.2.stopping)).map Prod.fst

/-- The device as it will be when the pre-emptions that have begun are complete. -/
def afterStops (s : State) : State := (stoppingClusters s).foldl preemptCluster s

/-- Are all groups of a cluster parked off-core (R293)? -/
def allParked (s : State) (b : Nat) : Bool :=
  (clusterKeys s b).all (fun k => match tget s.blocks k with
    | none => true
    | some x => (tvals x.groups).all (fun g => match g.run with | .parkedOff .resumed => false | .parkedOff _ | .retired => true | _ => false))

/-- Is a block one of the CRES blocks for which a core is reserved (R295)? -/
def atHome (s : State) (v : Block) : Bool := reservedBy s v.core == some v.ctx && (packetOf s v).cres

/-- The victims for a waiting cluster in the order of R294; those of equal priority only at a quantum end, after one quantum. CRES blocks at home give way
to CRES blocks of their context only; on a core of its reserve a CRES cluster may first take what does not belong there, of any priority (DEDUCED from
R295, log 12). -/
def victims (s : State) (w : Wait) (quantumEnd : Bool) (quantum : Nat) : List (Nat × Block) :=
  let cres := (waitPacket s w).cres
  let all := (sortBy (fun (a b : Nat × Block) => decide (a.2.placed ≤ b.2.placed)) (residents s)).filter (fun e => !atHome s e.2 || (e.2.ctx == w.ctx && cres))
  let strange := fun (e : Nat × Block) => cres && reservedBy s e.2.core == some w.ctx && !atHome s e.2
  let c0 := all.filter strange
  let rest := all.filter (fun e => !strange e)
  let c1 := rest.filter (fun e => allParked s e.1)
  let c2 := sortBy (fun (a b : Nat × Block) => decide (a.2.prio < b.2.prio) || (a.2.prio == b.2.prio && decide (a.2.placed ≤ b.2.placed))) (rest.filter (fun e => !allParked s e.1 && decide (e.2.prio < w.prio)))
  let c3 := if quantumEnd then rest.filter (fun e => !allParked s e.1 && e.2.prio == w.prio && decide (e.2.placed + quantum ≤ s.now)) else []
  c0 ++ c1 ++ c2 ++ c3

/-- The cores that a block takes part of: its own, and under PAIR the follower. -/
def coresOf (p : Packet) (core : Nat) : List Nat := core :: (if p.pair then [follower core] else [])

/-- The cores of a choice that have no room for their block of a waiting cluster: all of them where only the slots together fail. -/
def lacking (s : State) (cs : List Nat) (w : Wait) : List Nat :=
  let p := waitPacket s w
  let l := ((List.zip cs w.keys).filter (fun x => !(List.range 4).any (fun f => coreOk s x.1 f p x.2 w.ctx))).map Prod.fst
  if l.isEmpty then cs else l

/-- Does a victim hold something on a core that the waiting cluster would take part of? -/
def touches (s : State) (p : Packet) (cs : List Nat) (b : Nat) : Bool :=
  (clusterKeys s b).any (fun k => match tget s.blocks k with
    | some x => (coresOf (packetOf s x) x.core).any (fun c => cs.any (fun d => (coresOf p d).contains c))
    | none => false)

/-- The victims, in their order, whose stop makes room for a waiting cluster on a choice of cores: only those on cores that lack it; none where all of them
do not. -/
def planOn (s : State) (w : Wait) (cs : List Nat) : List Nat → Option (List Nat)
  | [] => if (quarterFor s cs (waitPacket s w) w).isSome then some [] else none
  | b :: rest =>
    if (quarterFor s cs (waitPacket s w) w).isSome then some []
    else if touches s (waitPacket s w) (lacking s cs w) b then (planOn (preemptCluster s b) w cs rest).map (fun l => b :: l)
    else planOn s w cs rest

/-- The victims for a waiting cluster: for the first victim in order on whose cores it would find room, those that the room takes there (R294). -/
def victimsFor (s : State) (w : Wait) (quantumEnd : Bool) (quantum : Nat) : List Nat :=
  let vs := victims s w quantumEnd quantum
  (vs.findSome? (fun e => (coreChoices (clusterOf e.2.core) w.keys.length (waitPacket s w).pair).findSome? (fun cs =>
    (planOn s w cs (vs.map Prod.fst)).bind (fun l => if l.contains e.1 then some l else none)))).getD []

/-- The pre-emption of victims begins. -/
def makeRoom (s : State) (vs : List Nat) : State := vs.foldl stopCluster s

/-- Cycles of a time-slice quantum (R294). -/
def quantumCycles (s : State) : Nat := s.mgmt.quantumUs * 1400

/-- A resumed group of a resident block that finds no free slot of its quarter (R293). -/
def slotStarved (s : State) : List (Nat × Nat × Block) :=
  s.blocks.flatMap (fun e => if e.2.res = .resident then
    (e.2.groups.filter (fun q => q.2.run == .parkedOff .resumed && (freeGroupSlots s e.2.core ((e.2.first + q.1) % 4)).isEmpty)).map (fun q => (e.1, q.1, e.2)) else [])

/-- Does a cluster hold a group slot of a quarter of a core? -/
def holdsSlot (s : State) (core q b : Nat) : Bool := (s.core core).used.any (fun u => u.1 / 64 == q && (clusterKeys s b).contains u.2.1)

/-- A group without a slot as a waiting cluster, for the order of victims. -/
def slotWait (x : Nat × Nat × Block) : Wait := { keys := [x.1], grid := x.2.2.grid, ctx := x.2.2.ctx, prio := x.2.2.prio, since := x.2.2.placed, fresh := false }

/-- The block that is pre-empted for a group without a slot: a victim that holds a slot of its quarter, else its own block. -/
def victimForSlot (s : State) (quantumEnd : Bool) (x : Nat × Nat × Block) : Option Nat :=
  let own := clusterKeys s x.1
  match ((victims s (slotWait x) quantumEnd (quantumCycles s)).filter (fun e => holdsSlot s x.2.2.core ((x.2.2.first + x.2.1) % 4) e.1 && !own.contains e.1)).head? with
  | some e => some e.1
  | none => own.head?

/-- Is a waiting cluster the next to be served: none before it has room, or will have it when the pre-emptions that have begun are complete? -/
def mayServe (s : State) (w : Wait) : Bool :=
  let h := afterStops s
  ((waiting s).takeWhile (fun x => x != w)).all (fun x => !saveRoom s x || (findCores h x).isNone) && (waiting s).contains w && saveRoom s w

/-- What BLOCK_PLACE and BLOCK_RESUME share: the waiting cluster whose first block is `b`, on cores that R286 allows. -/
def serveWait (s : State) (fresh : Bool) (b : Nat) (cores : List Nat) (f : Nat) : Option State :=
  match (waiting s).find? (fun w => w.fresh == fresh && w.keys.head? == some b) with
  | none => none
  | some w => if mayServe s w && coresOk s cores f (waitPacket s w) w.keys w.ctx then some (placeCluster s w cores f) else none

/-- BLOCK_PLACE (R286, R294). -/
def blockPlaceEvent (b : Nat) (cores : List Nat) (f : Nat) (s : State) : Option State := serveWait s true b cores f

/-- The meaning: the event, or nothing where it does not occur. -/
def execBlockPlace (b : Nat) (cores : List Nat) (f : Nat) (s : State) : Host.Outcome State Fault Refusal := happen s (blockPlaceEvent b cores f s)

/-- BLOCK_RESUME (R292). -/
def blockResumeEvent (b : Nat) (cores : List Nat) (f : Nat) (s : State) : Option State := serveWait s false b cores f

/-- The meaning: the event, or nothing where it does not occur. -/
def execBlockResume (b : Nat) (cores : List Nat) (f : Nat) (s : State) : Host.Outcome State Fault Refusal := happen s (blockResumeEvent b cores f s)

/-- What the scheduler pre-empts next: room for the first waiting cluster without it for which there are victims, or a slot for a group. -/
inductive Demand where
  | room (w : Wait) (vs : List Nat)
  | slot (b : Nat)
deriving DecidableEq, Repr

/-- The demand that is served next, beside what the pre-emptions that have begun will give. -/
def nextDemand (s : State) : Option Demand :=
  let h := afterStops s
  match (waiting s).findSome? (fun w => if saveRoom s w && (findCores h w).isNone then
      (match victimsFor h w false 0 with | [] => none | vs => some (Demand.room w vs)) else none) with
  | some d => some d
  | none => ((slotStarved h).findSome? (victimForSlot h false)).map Demand.slot

/-- The clusters that the demand pre-empts. -/
def Demand.victims : Demand → List Nat
  | .room _ vs => vs
  | .slot b => [b]

/-- The cluster with which PREEMPT goes on: one whose pre-emption has begun and that can stop now, else the first of the next demand. -/
def nextVictim (s : State) : Option Nat :=
  match (stoppingClusters s).find? (fun b => (clusterKeys s b).all (canStop s)) with
  | some b => some b
  | none => (nextDemand s).bind (fun d => d.victims.head?)

/-- PREEMPT (R291, R293, R294): a pre-emption that has begun is completed, or those begin that the first in line needs, with this cluster first. -/
def preemptEvent (b : Nat) (s : State) : Option State :=
  if nextVictim s ≠ some b then none
  else if (stoppingClusters s).contains b then some (preemptCluster s b)
  else some (makeRoom s (((nextDemand s).map Demand.victims).getD []))

/-- The meaning: the event, or nothing where it does not occur. -/
def execPreempt (b : Nat) (s : State) : Host.Outcome State Fault Refusal := happen s (preemptEvent b s)

/-- A parked group takes a free slot of its quarter. Where its record was altered, the format check ends its grid with status 0x07, or it goes on with what
the slot gives; which one is free (R289, R293, log 12). -/
def reloadGroup (s : State) (b g : Nat) (bl : Block) : State :=
  let s1 := (takeSlots s b bl.core bl.first [g]).mapBlock b (fun x => x.loadedGroup g)
  match bl.save with
  | none => s1
  | some a =>
    if !slotAltered s bl (inRecord a g) then s1
    else
      let s2 := { s1 with free := s.free + slotNames }
      if (Config.freeWord s.free).getLsbD 0 then abortGrid s2 bl.grid 7
      else s2.mapGroup b g (fun x => x.unsettled (slotWords s bl) (packetOf s bl) 0)

/-- PARKED_GROUP_RELOAD (R293): a group that may resume takes a free slot of its quarter. -/
def parkedGroupReloadEvent (b : Nat) (g : Nat) (s : State) : Option State :=
  match tget s.blocks b, s.group? b g with
  | some bl, some x =>
    match bl.res == .resident && x.run == .parkedOff .resumed, (freeGroupSlots s bl.core ((bl.first + g) % 4)).head? with
    | true, some _ => some (reloadGroup s b g bl)
    | _, _ => none
  | _, _ => none

/-- The meaning: the event, or nothing where it does not occur. -/
def execParkedGroupReload (b : Nat) (g : Nat) (s : State) : Host.Outcome State Fault Refusal := happen s (parkedGroupReloadEvent b g s)

/-! ### Quanta (R288, R294) -/

/-- The other context with resident blocks on a core. -/
def otherCtx (s : State) (core : Nat) : Option Nat :=
  ((s.blocks.filter (fun e => e.2.core == core && e.2.res == .resident && some e.2.ctx != (s.core core).active)).map (fun e => e.2.ctx)).head?

/-- Switches a core to a context. -/
def switchTo (s : State) (core ctx : Nat) : State := s.mapCore core (fun c => { c with active := some ctx, idle := 0 })

/-- Is a switch due: 16 cycles without a ready group while the other context has one (R288)? -/
def switchDue (s : State) (core : Nat) : Option Nat :=
  match otherCtx s core with
  | none => none
  | some x => if hasReady s core x && ((s.core core).active.isNone || decide (16 ≤ (s.core core).idle)) then some x else none

/-- CONTEXT_SWITCH (R288). -/
def contextSwitchEvent (core : Nat) (s : State) : Option State :=
  match switchDue s core with
  | some x => some (switchTo s core x)
  | none => none

/-- The meaning: the event, or nothing where it does not occur. -/
def execContextSwitch (core : Nat) (s : State) : Host.Outcome State Fault Refusal := happen s (contextSwitchEvent core s)

/-- Has a time-slice quantum ended that has not been served? -/
def sliceDue (s : State) : Bool := decide (0 < quantumCycles s) && decide (s.sched.sliced < s.clk.toNat / quantumCycles s)

/-- Ageing of waiting blocks by one quantum. -/
def ageWaits (s : State) : State :=
  { s with grids := tmap (fun g => if g.done || decide (g.pkt.blocks ≤ g.next) then g else { g with waited := g.waited + 1 }) s.grids,
           blocks := tmap (fun bl => if bl.res = .preempted then { bl with waited := bl.waited + 1 } else bl) s.blocks }

/-- Serves a waiting cluster at a quantum end: it is placed, after pre-emptions where it has no room; where they take time, as soon as they are
complete (`mayServe`). -/
def serveNow (s : State) (w : Wait) : State :=
  let s1 := if (findCores s w).isSome then s else makeRoom s (victimsFor (afterStops s) w true (quantumCycles s))
  match findCores s1 w with
  | some (cs, f) => placeCluster s1 w cs f
  | none => s1

/-- The first waiting cluster in order for which there is room or can be made: at least one is placed at a quantum end, if any can be (R294). -/
def firstServed (s : State) : Option Wait :=
  ((waiting s).filter (saveRoom s)).find? (fun w => (findCores (afterStops s) w).isSome || !(victimsFor (afterStops s) w true (quantumCycles s)).isEmpty)

/-- That cluster is served. -/
def serveFirst (s : State) : State := match firstServed s with | some w => serveNow s w | none => s

/-- Cores on which the active context and the other one have ready groups switch (R288). -/
def quantumSwitch (s : State) : State :=
  (s.cores.map Prod.fst).foldl (fun s c =>
    match otherCtx s c, (s.core c).active with
    | some x, some a => if hasReady s c x && hasReady s c a then switchTo s c x else s
    | _, _ => s) s

/-- Groups that have waited for a slot since the quantum began get one, or go with their block (R293). -/
def serveSlots (s : State) : State :=
  match (slotStarved (afterStops s)).head?.bind (victimForSlot (afterStops s) true) with
  | none => s
  | some b => stopCluster s b

/-- TIMESLICE_QUANTUM_END (R288, R293, R294): waiting blocks age, cores with two ready contexts switch, the first waiting cluster is placed, and a group
that waits for a slot is served. -/
def timesliceQuantumEndEvent (s : State) : Option State :=
  if sliceDue s then
    some (serveSlots (serveFirst (quantumSwitch (ageWaits { s with sched := { s.sched with sliced := s.clk.toNat / quantumCycles s } }))))
  else none

/-- The meaning: the event, or nothing where it does not occur. -/
def execTimesliceQuantumEnd (s : State) : Host.Outcome State Fault Refusal := happen s (timesliceQuantumEndEvent s)

end Sys2Proof.Machine
end

