-- ==== Sys2Proof/Machine/Sched.lean ====
section
/-! DEFINITION. Launch packets, queues, hardware slots, triggers and the issue events (spec/10_scheduling.md R275 to R285, R287;
12_control_instructions.md R337 to R339). -/

namespace Sys2Proof.Machine

open Sys2Proof

/-! ### Launch packets (R276 to R278) -/

/-- The little-endian number of `n` bytes at offset `o` of a byte list. -/
def leAt (bs : List Byte) (o n : Nat) : Nat := fromBytes ((bs.drop o).take n)

/-- Are `n` bytes from offset `o` all zero? -/
def zeroAt (bs : List Byte) (o n : Nat) : Bool := ((bs.drop o).take n).all (fun b => b == 0)

/-- The fields of a packet header (R276) with its parameter words. -/
def packetParse (bs : List Byte) (params : List Word) : Packet :=
  { entry := BitVec.ofNat 64 (leAt bs 0 8), gx := leAt bs 8 4, gy := leAt bs 12 4, gz := leAt bs 16 4, regs := leAt bs 20 2,
    kregs := leAt bs 22 1, groups := leAt bs 23 1, cluster := leAt bs 24 1, producer := leAt bs 25 1, prio := leAt bs 26 1,
    nbv := leAt bs 27 1, ejt := leAt bs 28 1, flags := BitVec.ofNat 8 (leAt bs 29 1), loc := leAt bs 32 4, wbuf := leAt bs 36 4,
    abuf := leAt bs 40 4, zbuf := leAt bs 44 4, trigcnt := leAt bs 48 4, done := BitVec.ofNat 64 (leAt bs 56 8),
    deps := (List.range 4).map (fun i => BitVec.ofNat 64 (leAt bs (64 + 8 * i) 8)), live := BitVec.ofNat 64 (leAt bs 96 8),
    liven := leAt bs 104 2, params := params }

/-- A dependence word with a bit set that must be zero (R278). -/
def depBad (d : Word) : Bool := (!d.getLsbD 63 && d != 0) || bitsOf d.toNat 61 60 != 0

/-- A field outside R276, R277 or R278, or a reserved bit set (status 0x02). -/
def packetBad (bs : List Byte) (p : Packet) : Bool :=
  let n := p.blocks
  p.gx == 0 || p.gy == 0 || p.gz == 0 || decide (2 ^ 32 < n) || decide (p.regs < 16) || decide (256 < p.regs) || p.regs % 8 != 0 ||
  decide (32 < p.kregs) || p.groups == 0 || decide (16 < p.groups) || p.cluster == 0 || decide ((if p.pair then 2 else 4) < p.cluster) ||
  decide (p.groups ≤ p.producer) || decide (7 < p.prio) || p.nbv == 0 || decide (2 < p.nbv) || decide (8 < p.ejt) ||
  p.flags.toNat / 16 != 0 || leAt bs 0x1E 2 / 4096 != 0 || decide (n * p.groups < p.trigcnt) || !zeroAt bs 0x34 4 || !zeroAt bs 0x6A 22 ||
  p.done.toNat % 8 != 0 || p.deps.any depBad || p.live.toNat % 64 != 0 || decide (1023 < p.liven) || (p.liven == 0 && p.live != 0)

/-- Granules of a kind that one core has (R17). -/
def granCap (k : Store) : Nat := (granRange k).2

/-- Does one block fit some core available to it (status 0x03)? Under PAIR a block of each rank needs a core at its position (R286). -/
def packetFits (s : State) (ctx : Nat) (p : Packet) : Bool :=
  let mine := ((tget s.ctxs ctx).map (fun c => c.resv)).getD []
  storeKinds.all (fun k => decide (granNeed p k false ≤ granCap k)) &&
  (!(p.cres && !mine.isEmpty) || !p.pair || (List.range p.cluster).all (fun r => mine.any (fun c => c % 4 == 2 * r && mine.contains (follower c))))

/-! ### Queues (R278, R281) -/

/-- A queue descriptor; one that nothing has written is at reset. -/
def queueOf (s : State) (q : Nat) : Queue := (tget s.queues q).getD Queue.fresh

/-- Replaces a queue descriptor. -/
def setQueue (s : State) (q : Nat) (x : Queue) : State := { s with queues := tset s.queues q x }

/-- Has a queue work? -/
def Queue.work (q : Queue) : Bool := q.en && q.head != q.tail

/-- The launch handle of a packet of a queue (R278). -/
def handleOf (q seq : Nat) : Nat := q % 4096 * 2 ^ 48 + seq % 2 ^ 48

/-- Address of the ring entry of a sequence number. -/
def Queue.entryVa (q : Queue) (seq : Nat) : Word := q.ring + BitVec.ofNat 64 (8 * (seq % 2 ^ q.log2n))

/-- The head packet of a queue: its address, its header bytes, its fields; none when any of it is unreadable. -/
def headPacket (s : State) (q : Queue) : Option (Word × List Byte × Packet) :=
  match ctxWord s q.ctx (q.entryVa q.head) with
  | none => none
  | some x =>
    match ctxRead s q.ctx x 128 with
    | none => none
    | some bs =>
      let n := min 32 (leAt bs 22 1)
      match (if n = 0 then some [] else ctxRead s q.ctx (x + 128) (8 * n)) with
      | none => none
      | some ps => some (x, bs, packetParse bs ((List.range n).map (fun i => BitVec.ofNat 64 (leAt ps (8 * i) 8))))

/-- Is the head of a queue in host memory while the link is down (R421)? -/
def headWaits (s : State) (q : Queue) : Bool :=
  ctxWaits s q.ctx (q.entryVa q.head) 8 ||
  (match ctxWord s q.ctx (q.entryVa q.head) with | some x => ctxWaits s q.ctx x 384 || ctxWaits s q.ctx x 128 | none => false)

/-- Does a dependence word in force name a packet that this context has enqueued (status 0x05)? -/
def depKnown (s : State) (ctx : Nat) (d : Word) : Bool :=
  let q := queueOf s (bitsOf d.toNat 59 48)
  q.ctx == ctx && decide (d.toNat % 2 ^ 48 < q.tail)

/-- The grid that a dependence word names; none until it is launched or rejected. -/
def depGrid (s : State) (d : Word) : Option Grid := tget s.grids (d.toNat % 2 ^ 60)

/-- Is a dependence satisfied (R278)? -/
def depMet (s : State) (d : Word) : Bool := match depGrid s d with | none => false | some g => if d.getLsbD 62 then g.trigged else g.done

/-- The dependence words in force. -/
def Packet.depsOn (p : Packet) : List Word := p.deps.filter (fun d => d.getLsbD 63)

/-- The first check of R279 that the packet fails; 0 when it passes all. -/
def packetStatus (s : State) (ctx : Nat) (x : Word) (bs : List Byte) (p : Packet) : Nat :=
  if x.toNat % 64 != 0 || p.entry.toNat % 8 != 0 || (freshWalk s ctx p.entry).isNone then 1
  else if packetBad bs p then 2
  else if !packetFits s ctx p then 3
  else if p.blocks % p.cluster != 0 then 4
  else if p.depsOn.any (fun d => !depKnown s ctx d) then 5
  else if p.depsOn.any (fun d => match depGrid s d with | some g => g.done && g.status != 0 | none => false) then 6
  else 0

/-- Has the queue's previous packet triggered, or completed (R283)? -/
def prevMet (s : State) (q : Nat) (seq : Nat) : Bool :=
  seq == 0 || (match tget s.grids (handleOf q (seq - 1)) with | none => true | some g => g.trigged)

/-- Launched grids that have not completed. -/
def liveGrids (s : State) : Nat := (s.grids.filter (fun e => !e.2.done)).length

/-- What a mapped slot does with the head packet of its queue. -/
inductive HeadAct where
  | reject (status : Nat) (done : Word)
  | launch (p : Packet)
  | wait
deriving DecidableEq, Repr

/-- The act for the head packet of a queue (R279, R283). -/
def headAct (s : State) (qn : Nat) : HeadAct :=
  let q := queueOf s qn
  if headWaits s q then .wait else
  match headPacket s q with
  | none => .reject 1 0
  | some (x, bs, p) =>
    let st := packetStatus s q.ctx x bs p
    if st ≠ 0 then .reject st p.done
    else if prevMet s qn q.head && p.depsOn.all (depMet s) && decide (liveGrids s < Config.gridTable) then .launch p
    else .wait

/-! ### Hardware slots (R282) -/

/-- First slot and number of slots of a tenant; the privileged context has slot 128. -/
def slotsOf (s : State) (t : Option Nat) : Nat × Nat :=
  match t with
  | none => (128, 1)
  | some n =>
    let valid := s.tenants.filter (fun e => e.2.flags.getLsbD 0)
    (((valid.filter (fun e => decide (e.1 < n))).map (fun e => e.2.qslots)).sum, ((valid.find? (fun e => e.1 == n)).map (fun e => e.2.qslots)).getD 0)

/-- The tenants that have slots, the privileged context first. -/
def slotTenants (s : State) : List (Option Nat) := none :: (s.tenants.filter (fun e => e.2.flags.getLsbD 0)).map (fun e => some e.1)

/-- The slots of a tenant. -/
def slotList (s : State) (t : Option Nat) : List Nat := (List.range (slotsOf s t).2).map (fun i => (slotsOf s t).1 + i)

/-- The queue that a slot serves: a queue without work has released its slot. -/
def slotQueue (s : State) (slot : Nat) : Option Nat :=
  match tget s.sched.map slot with
  | none => none
  | some q => if (queueOf s q).work then some q else none

/-- Is a queue mapped? -/
def isMapped (s : State) (q : Nat) : Bool := s.sched.map.any (fun e => slotQueue s e.1 == some q)

/-- The queues of a tenant that have work. -/
def workQueues (s : State) (t : Option Nat) : List Nat := (s.queues.filter (fun e => e.2.work && tenantIdx s e.2.ctx == t)).map Prod.fst

/-- Base priority of a queue: the PRIO of its head packet, 0 when that cannot be read. -/
def basePrio (s : State) (q : Nat) : Nat :=
  let x := queueOf s q
  match ctxWord s x.ctx (x.entryVa x.head) with
  | none => 0
  | some a => match ctxRead s x.ctx (a + 0x1A) 1 with | some [b] => min 7 b.toNat | _ => 0

/-- Effective priority of a queue. -/
def effPrio (s : State) (q : Nat) : Nat := min 7 (basePrio s q + (tget s.sched.age q).getD 0 / 8)

/-- Key of a tenant's rotating pointer at a level. -/
def ptrKey (t : Option Nat) (level : Nat) : Nat := t.getD 16 * 8 + level

/-- Distance of a queue from its level's pointer. -/
def ptrDist (s : State) (t : Option Nat) (q : Nat) : Nat := (q + 4096 - (tget s.sched.ptr (ptrKey t (effPrio s q))).getD 0) % 4096

/-- Does queue a come before queue b: higher effective priority, not just unmapped, nearer after the pointer? -/
def queueBefore (s : State) (t : Option Nat) (lost : List Nat) (a b : Nat) : Bool :=
  let ka := (7 - effPrio s a, if lost.contains a then 1 else 0, ptrDist s t a)
  let kb := (7 - effPrio s b, if lost.contains b then 1 else 0, ptrDist s t b)
  decide (ka.1 < kb.1) || (ka.1 == kb.1 && (decide (ka.2.1 < kb.2.1) || (ka.2.1 == kb.2.1 && decide (ka.2.2 < kb.2.2))))

/-- The winner among queues. -/
def bestQueue (s : State) (t : Option Nat) (lost : List Nat) (qs : List Nat) : Option Nat :=
  qs.foldl (fun (b : Option Nat) q => match b with | none => some q | some y => if queueBefore s t lost q y then some q else some y) none

/-- Maps a queue to a slot: its pointer moves past it and its age starts again. -/
def mapSlot (s : State) (t : Option Nat) (slot q : Nat) : State :=
  { s with sched := { s.sched with map := tset s.sched.map slot q, age := terase s.sched.age q,
                                   ptr := tset s.sched.ptr (ptrKey t (effPrio s q)) ((q + 1) % 4096) } }

/-- Fills slots with the winners among the unmapped queues with work. -/
def fillSlots (s : State) (t : Option Nat) (lost : List Nat) : List Nat → State
  | [] => s
  | slot :: rest =>
    if (slotQueue s slot).isSome then fillSlots s t lost rest
    else match bestQueue s t lost ((workQueues s t).filter (fun q => !isMapped s q)) with
      | none => s
      | some q => fillSlots (mapSlot s t slot q) t lost rest

/-- Remaps the slots of a tenant at a quantum end: a queue keeps its slot only when no unmapped queue is as high. -/
def remapTenant (s : State) (t : Option Nat) : State :=
  let idle := (workQueues s t).filter (fun q => !isMapped s q)
  let lost := (workQueues s t).filter (fun q => isMapped s q && idle.any (fun u => decide (effPrio s q ≤ effPrio s u)))
  let s1 := { s with sched := { s.sched with map := s.sched.map.filter (fun e => !lost.contains e.2) } }
  fillSlots s1 t lost (slotList s t)

/-- Waiting queues age by a mapping quantum; mapped and empty ones do not. -/
def ageQueues (s : State) : State :=
  let waits := (s.queues.filter (fun e => e.2.work && !isMapped s e.1)).map Prod.fst
  { s with sched := { s.sched with age := waits.foldl (fun a q => tset a q ((tget s.sched.age q).getD 0 + 1)) [] } }

/-- Has a mapping quantum ended that has not been served? -/
def mapDue (s : State) : Bool := decide (s.sched.mapped < s.clk.toNat / Config.mappingQuantum)

/-- MAPPING_QUANTUM_END (R282). -/
def mappingQuantumEndEvent (s : State) : Option State :=
  if mapDue s then
    let s1 := ageQueues { s with sched := { s.sched with mapped := s.clk.toNat / Config.mappingQuantum } }
    some ((slotTenants s).foldl remapTenant s1)
  else none

/-- The meaning: the event, or nothing where it does not occur. -/
def execMappingQuantumEnd (s : State) : Host.Outcome State Fault Refusal := happen s (mappingQuantumEndEvent s)

/-- The tenant of a slot. -/
def slotOwner (s : State) (slot : Nat) : Option (Option Nat) := (slotTenants s).find? (fun t => (slotList s t).contains slot)

/-- The queue that an idle slot takes at once. -/
def idleWinner (s : State) (slot : Nat) : Option (Option Nat × Nat) :=
  match slotOwner s slot with
  | none => none
  | some t =>
    if (slotQueue s slot).isSome then none
    else (bestQueue s t [] ((workQueues s t).filter (fun q => !isMapped s q))).map (fun q => (t, q))

/-- QUEUE_SLOT_MAP (R282). -/
def queueSlotMapEvent (slot : Nat) (s : State) : Option State :=
  match idleWinner s slot with
  | some (t, q) => some (mapSlot s t slot q)
  | none => none

/-- The meaning: the event, or nothing where it does not occur. -/
def execQueueSlotMap (slot : Nat) (s : State) : Host.Outcome State Fault Refusal := happen s (queueSlotMapEvent slot s)

/-! ### Launch (R279, R283) -/

/-- HEAD moves on; an empty queue releases its slot. -/
def headOn (s : State) (qn : Nat) (err : Nat) : State :=
  let q := queueOf s qn
  let s1 := setQueue s qn { q with head := (q.head + 1) % 2 ^ 48, err := err }
  if (queueOf s1 qn).work then s1 else { s1 with sched := { s1.sched with map := s1.sched.map.filter (fun e => e.2 != qn) } }

/-- The head packet is rejected: it counts as triggered and completed, its record is written, and vector 3 is sent. -/
def rejectHead (s : State) (qn status : Nat) (done : Word) : State :=
  let q := queueOf s qn
  let h := handleOf qn q.head
  let g : Grid := { Grid.fresh qn q.head q.ctx Packet.blank with done := true, trigged := true, status := status, since := s.now }
  let s1 := headOn { s with grids := tset s.grids h g } qn status
  sendMsix (if done.toNat % 8 = 0 then writeDone s1 q.ctx qn done status else s1) (tenantIdx s q.ctx) 3

/-- The head packet is launched. -/
def launchHead (s : State) (qn : Nat) (p : Packet) : State :=
  let q := queueOf s qn
  headOn { s with grids := tset s.grids (handleOf qn q.head) { Grid.fresh qn q.head q.ctx p with since := s.now } } qn q.err

/-- GRID_LAUNCH (R279, R283). -/
def gridLaunchEvent (slot : Nat) (s : State) : Option State :=
  match slotQueue s slot with
  | none => none
  | some qn =>
    match headAct s qn with
    | .wait => none
    | .reject st done => some (rejectHead s qn st done)
    | .launch p => some (launchHead s qn p)

/-- The meaning: the event, or nothing where it does not occur. -/
def execGridLaunch (slot : Nat) (s : State) : Host.Outcome State Fault Refusal := happen s (gridLaunchEvent slot s)

/-! ### Triggers (R284, R337) -/

/-- TRIG_COUNT_APPLY (R337): the oldest TRIG of a group whose accesses are acknowledged. -/
def trigCountApplyEvent (b : Nat) (g : Nat) (s : State) : Option State :=
  match tget s.blocks b, s.group? b g with
  | some _, some x =>
    match x.trigQ with
    | ids :: rest =>
      if isOpen s ids then none
      else some (countTrig (s.mapGroup b g (fun x => { x with trigQ := rest })) b g)
    | [] => none
  | _, _ => none

/-- The meaning: the event, or nothing where it does not occur. -/
def execTrigCountApply (b : Nat) (g : Nat) (s : State) : Host.Outcome State Fault Refusal := happen s (trigCountApplyEvent b g s)

/-- The meaning of TRIG (R337). -/
def execTrig (h : Hdr) (s : State) : Host.Outcome State Fault Refusal :=
  groupWide s h 8 (fun v =>
    let ids := openBefore s v
    if ids.isEmpty && v.g.trigQ.isEmpty then skip (countTrig s v.ag.blk v.ag.grp) v 8
    else skip (s.mapGroup v.ag.blk v.ag.grp (fun g => { g with trigQ := g.trigQ ++ [ids] })) v 8)

/-! ### Issue events (R287, R338, R339) -/

/-- STARVATION_TIMEOUT (R287): the quarter of a starved group takes it next. -/
def starvationTimeoutEvent (b : Nat) (g : Nat) (s : State) : Option State :=
  match tget s.blocks b, s.group? b g with
  | some bl, some x =>
    let quarter := x.slot / 64
    if selectable s bl.core quarter false (b, bl) (g, x) && decide (x.lastIss + Config.starve ≤ s.now) &&
        pick s bl.core quarter == some { blk := b, grp := g, lane := none } then
      some { s with agenda := Turn.issue bl.core quarter :: s.agenda }
    else none
  | _, _ => none

/-- The meaning: the event, or nothing where it does not occur. -/
def execStarvationTimeout (b : Nat) (g : Nat) (s : State) : Host.Outcome State Fault Refusal := happen s (starvationTimeoutEvent b g s)

/-- The issue state of a group. -/
def runOf (s : State) (b g : Nat) : Option RunState := (s.group? b g).map (fun (x : Group) => x.run)

/-- The groups of a quarter, other than the executing one, that are ready. -/
def readyOthers (s : State) (v : View) : List (Nat × Nat) :=
  ((candidates s v.core (v.g.slot / 64) false).map (fun (x : Nat × Nat × Group × Nat) => (x.1, x.2.1))).filter (fun x => x != (v.ag.blk, v.ag.grp))

/-- The meaning of YIELD (R338). -/
def execYield (h : Hdr) (s : State) : Host.Outcome State Fault Refusal :=
  groupWide s h 8 (fun v => (skip s v 8).setRun v.ag (.yielding (s.now + Config.yieldCycles) (readyOthers s v)))

/-- Has a yield ended: 64 cycles have passed, or every other group has issued or left the quarter? -/
def yieldOver (s : State) (til : Nat) (others : List (Nat × Nat)) : Bool :=
  decide (til ≤ s.now) || others.all (fun o => match s.group? o.1 o.2 with
    | none => true
    | some g => decide (til - Config.yieldCycles < g.issAt) || (match tget s.blocks o.1 with | some b => b.res != .resident | none => true) ||
        (match g.run with | .parkedOff _ | .retired => true | _ => false))

/-- YIELD_END (R338): the cycles of the yield do not count towards starvation. -/
def yieldEndEvent (b : Nat) (g : Nat) (s : State) : Option State :=
  match runOf s b g with
  | some (.yielding til others) =>
    if yieldOver s til others then
      let gone := s.now - (til - Config.yieldCycles)
      some (s.mapGroup b g (fun x => { x with run := .ready, lastIss := x.lastIss + gone })) else none
  | _ => none

/-- The meaning: the event, or nothing where it does not occur. -/
def execYieldEnd (b : Nat) (g : Nat) (s : State) : Host.Outcome State Fault Refusal := happen s (yieldEndEvent b g s)

/-- The wake time of the SLEEP at which the group stands, when it has begun (R339). -/
def Group.wakeAt (g : Group) (pc : Word) : Option Nat := match g.wake with | some (p, w) => if p = pc then some w else none | none => none

/-- The meaning of SLEEP (R339): it fixes its wake time when it begins, stands at its PC until then, and ends when it is executed again. -/
def execSleep (h : Hdr) (s : State) : Host.Outcome State Fault Refusal :=
  groupWide s h 8 (fun v =>
    let n := min ((v.r.kget h.a.toNat).toNat + h.c.toNat) (2 ^ 32 - 1)
    match v.g.wakeAt v.r.pc with
    | some w => if w ≤ s.now then skip s v 8 else s.setRun v.ag (.sleeping w)
    | none =>
      if n = 0 then skip s v 8
      else (s.mapGroup v.ag.blk v.ag.grp (fun g => { g with wake := some (v.r.pc, s.now + n) })).setRun v.ag (.sleeping (s.now + n)))

/-- SLEEP_WAKE (R339). -/
def sleepWakeEvent (b : Nat) (g : Nat) (s : State) : Option State :=
  match runOf s b g with
  | some (.sleeping w) => if w ≤ s.now then some (s.mapGroup b g (fun x => { x with run := .ready })) else none
  | _ => none

/-- The meaning: the event, or nothing where it does not occur. -/
def execSleepWake (b : Nat) (g : Nat) (s : State) : Host.Outcome State Fault Refusal := happen s (sleepWakeEvent b g s)

/-! ### LAUNCH (R336) -/

/-- The meaning of LAUNCH (R336): checks, the release, and the indivisible enqueue. -/
def execLaunch (h : Hdr) (x : Word) (s : State) : Host.Outcome State Fault Refusal :=
  groupWide s h 16 (fun v =>
    if x.toNat % 64 ≠ 0 then takeTrap s v { cause := .align, lanes := v.mask, addr := x }
    else
      let a := groupAccess s v x 32 true false
      match a.cause with
      | some (c, _) => takeTrap s v (groupTrap v c x a.dom .dev false)
      | none =>
        match releaseAll s v.core v.whole v.mask .dev with
        | none => stall s v .launch
        | some s1 =>
          let s2 := touchAll s1 v.core v.ctx a.spans false
          let qn := leAt (a.spans.flatMap (fun sp => physBytes s2 sp.pa sp.len)) 0x1E 2 % 4096
          let q := queueOf s2 qn
          if q.ctx ≠ v.ctx then plainTrap s2 v .perm v.mask
          else if q.tail - q.head = 2 ^ q.log2n then finish s2 v 16 [.k h.d.toNat (BitVec.allOnes 64)] 0
          else
            let va := q.entryVa q.tail
            let b := groupAccess s2 v va 8 false true
            match b.cause with
            | some (c, _) => takeTrap s2 v (groupTrap v c va b.dom .dev true)
            | none =>
              let s3 := b.spans.foldl (fun s sp => physPut s sp.pa (((toBytes 8 x.toNat).drop sp.at_).take sp.len)) (touchAll s2 v.core v.ctx b.spans true)
              finish (setQueue s3 qn { q with tail := (q.tail + 1) % 2 ^ 48 }) v 16 [.k h.d.toNat (BitVec.ofNat 64 (handleOf qn q.tail))] 0)

/-! ### Steps of the Chain (R340) -/

/-- The meaning of STEPB. -/
def execStepb (h : Hdr) (x : Word) (s : State) : Host.Outcome State Fault Refusal :=
  groupWide s h 16 (fun v =>
    let c := chainOf s v.ctx
    if c.walk.isSome then
      let s1 := if c.stalled.any (fun y => y.1 == v.ag.blk && y.2.1 == v.ag.grp) then s
                else setChainOf s v.ctx { c with stalled := c.stalled ++ [(v.ag.blk, v.ag.grp, x, s.now, (whoOf s v.whole).1)] }
      stall s1 v .walk
    else if c.step.isSome then skip s v 16
    else skip (setChainOf s v.ctx { c with step := some (x, s.now) }) v 16)

/-- The meaning of STEPE. -/
def execStepe (h : Hdr) (s : State) : Host.Outcome State Fault Refusal :=
  groupWide s h 8 (fun v =>
    let c := chainOf s v.ctx
    match c.step with
    | none => skip s v 8
    | some (label, t0) => skip (setChainOf s v.ctx { c with step := none, walk := some (label, t0, s.now, (whoOf s v.whole).1, v.g.chain) }) v 8)

end Sys2Proof.Machine
end

