-- ==== Sys2Proof/Machine/System.lean ====
section
/-! DEFINITION. The system class but for CTXCTL (spec/02_encoding.md R41, R57; 13_isolation.md R357 to R359, R361; 14_recovery.md R370, R374,
R377, R378; 07_coherence.md R206, R207), and the traps that are delivered at a later boundary (R365, R375). -/

namespace Sys2Proof.Machine

open Sys2Proof

/-- The meaning of NOP (R57). -/
def execNop (h : Hdr) (s : State) : Host.Outcome State Fault Refusal := bothForms s h 8 (fun v => skip s v 8) (fun v => skip s v 8)

/-- UNALLOCATED_OPCODE (R12, R41): the word raises ILL. -/
def execUnallocatedOpcode (_ : Word) (s : State) : Host.Outcome State Fault Refusal := withView s (fun v => illegal s v)

/-! ### BRK and SVC (R374, R377) -/

/-- The BRKP of a BRK. -/
def brkTrap (code : BitVec 8) (lanes : Mask) : Trap := { cause := .brkp, code := code.toNat, lanes := lanes, next := true }

/-- The meaning of BRK. -/
def execBrk (h : Hdr) (code : BitVec 8) (s : State) : Host.Outcome State Fault Refusal :=
  bothForms s h 8 (fun v => takeTrap s v (brkTrap code v.mask))
    (fun v => if (v.active h).isEmpty then skip s v 8 else takeTrap s v (brkTrap code (maskOf (v.active h))))

/-- The KIND word of an SVC entry (R372). -/
def svcKind (num count : Nat) : Word := BitVec.ofNat 64 (1 + num * 2 ^ 8 + count * 2 ^ 20)

/-- The record of an SVC (R366, R372). -/
def svcRecord (s : State) (v : View) (num : Nat) (lanes : Mask) : TrapRecord :=
  { info := infoWord { cause := .svc, code := num, lanes := lanes } v.g.handler.isSome false false v.g.spent.isSome, lanes := lanes, pc := v.r.pc, addr := 0,
    iword := s.word, ecsn := 0, resume := v.r.pc + 8, vt := s.vtime }

/-- The meaning of SVC (R374): the release, the entry, the park at the next instruction. -/
def execSvc (h : Hdr) (num : BitVec 12) (s : State) : Host.Outcome State Fault Refusal :=
  collective s (fun v =>
    let ls := v.active h
    let count := h.c.toNat
    if !v.within false [(h.d, 2), (h.a, count)] then illegal s v
    else if ls.isEmpty then skip s v 8
    else if v.r.awaiting then stall s v .remote
    else
      match releaseAll s v.core v.whole v.mask .sys with
      | none => stall s v .remote
      | some s1 =>
        let s2 := (skip s1 v 8).mapRegs v.ag Regs.flush
        let s3 := s2.mapGroup v.ag.blk v.ag.grp (fun g => { g with resv := [] })
        let r := svcRecord s v num.toNat (maskOf ls)
        let regs := ((s2.group? v.ag.blk v.ag.grp).map (fun (g : Group) => g.r)).getD v.r
        let args := ls.map (fun l => (l, (List.range count).map (fun j => regs.vget l (h.a.toNat + j))))
        parkService (saveRecord s3 v.ag.blk v.ag.grp v.g.handler.isSome r) v.ag.blk v.ag.grp true h.d.toNat (maskOf ls) (svcKind num.toNat count) r args)

/-! ### Held and asynchronous traps (R365, R375) -/

/-- The oldest held trap of a group's lanes: by time, then by lane. -/
def heldFirst (l : List HeldTrap) : Option HeldTrap :=
  l.foldl (fun (b : Option HeldTrap) x =>
    match b with
    | none => some x
    | some y => if x.vt < y.vt ∨ (x.vt = y.vt ∧ x.lane.getD 0 < y.lane.getD 0) then some x else some y) none

/-- The trap that a held one becomes. -/
def heldToTrap (x : HeldTrap) (lanes : Mask) : Trap :=
  { cause := x.cause, code := x.code, lanes := lanes, addr := x.addr, acc := x.acc, ecsn := x.ecsn, write := x.write }

/-- The PC of a group. -/
def groupPc (s : State) (b g : Nat) : Word := ((s.group? b g).map (fun (x : Group) => x.r.pc)).getD 0

/-- Delivers a held trap (R363, R375): the lane is recalled to its RESUME, then the trap is delivered on the path that is current. -/
def deliverHeld (s : State) (b g : Nat) (x : HeldTrap) : State :=
  let l := x.lane.getD 0
  let s1 := s.mapGroup b g (fun gr =>
    let gr1 := { gr with held := gr.held.erase x, r := gr.r.flush }
    match gr1.thread? l with
    | none => gr1
    | some t => recallLane gr1 { t with r := { t.r with pc := x.resume } })
  deliverTrap s1 b g (heldToTrap x (laneBit l)) x.pc x.iword (groupPc s1 b g) (BitVec.ofNat 64 x.vt) true true x.wsp

/-- May a trap be delivered to a group now: it stands at a boundary outside a handler, with its windows answered, resident, on issue or
waiting in an instruction that a stop takes at once (R321), and not debug-halted? -/
def boundary (s : State) (b g : Nat) : Bool :=
  match tget s.blocks b, s.group? b g with
  | some bl, some x =>
    x.handler.isNone && !x.halted && !bl.stopping && bl.res == .resident && !x.r.awaiting && !x.completing &&
    (match x.run with
     | .ready | .waiting _ _ | .sleeping _ | .yielding _ _ | .parkedJoin _ => true
     | _ => false)
  | _, _ => false

/-- Is a group parked off issue at a reconvergence entry (R298)? Held traps reach it there (R375), asynchronous ones wait for its next path. -/
def parkedAtJoin (x : Group) : Bool := match x.run with | .parkedJoin _ => true | _ => false

/-- Is a group parked off-core outside a handler, for pages or at a service entry, from where a held trap calls it back (R375)? -/
def callable (x : Group) : Bool := x.handler.isNone && (match x.run with | .parkedOff (.pages _) | .parkedOff (.service ..) => true | _ => false)

/-- Has the lane of a held trap no answer outstanding (R307)? -/
def heldSettled (x : Group) (ht : HeldTrap) : Bool := match x.thread? (ht.lane.getD 0) with | some t => t.settledDown | none => true

/-- Is a group parked for pages outside a handler? An asynchronous trap of a transfer finds its next boundary there; one parked at a service entry reaches
it when it resumes (R365; log 23). -/
def parkedForPages (x : Group) : Bool := x.handler.isNone && (match x.run with | .parkedOff (.pages _) => true | _ => false)

/-- A group parked off-core reloads first: it meets its fault again after the handler, or goes back to its service wait, which `called` keeps. -/
def reloadFirst (s : State) (b g : Nat) : State :=
  s.mapGroup b g (fun x =>
    match x.run with
    | .parkedOff (.service e i d l r) => { x with run := .parkedOff .resumed, called := some (.service e i d l r, false) }
    | _ => { x with run := .parkedOff .resumed })

/-- HELD_TRAP_DELIVERY (R375). -/
def heldTrapDeliveryEvent (b : Nat) (g : Nat) (s : State) : Option State :=
  match s.group? b g with
  | none => none
  | some x =>
    match heldFirst x.held with
    | none => none
    | some ht =>
      if boundary s b g && heldSettled x ht then some (deliverHeld s b g ht)
      else if callable x then some (reloadFirst s b g)
      else none

/-- The meaning: the event, or nothing where it does not occur. -/
def execHeldTrapDelivery (b : Nat) (g : Nat) (s : State) : Host.Outcome State Fault Refusal := happen s (heldTrapDeliveryEvent b g s)

/-- ASYNC_TRAP_DELIVERY (R365): RESUME is the group's next instruction, LANES the MASK of its current path. -/
def asyncTrapDeliveryEvent (b : Nat) (g : Nat) (s : State) : Option State :=
  match s.group? b g with
  | none => none
  | some x =>
    match x.async with
    | [] => none
    | ht :: rest =>
      if boundary s b g && !parkedAtJoin x then
        let s1 := s.mapGroup b g (fun y => { y with async := rest, r := y.r.flush })
        some (deliverTrap s1 b g (heldToTrap ht x.r.mask) ht.pc ht.iword x.r.pc (BitVec.ofNat 64 ht.vt) false true ht.wsp)
      else if parkedForPages x then some (reloadFirst s b g)
      else none

/-- The meaning: the event, or nothing where it does not occur. -/
def execAsyncTrapDelivery (b : Nat) (g : Nat) (s : State) : Host.Outcome State Fault Refusal := happen s (asyncTrapDeliveryEvent b g s)

/-! ### TRET (R370) -/

/-- The group leaves its handler for `pc`: the saved path, the spent bit (R376), its stopped commands, and the oldest held trap. -/
def leaveHandler (s : State) (v : View) (hd : Handler) (pc : Word) : State :=
  let b := v.ag.blk
  let g := v.ag.grp
  let s1 := (skip s v 8).mapGroup b g (fun x =>
    { x with r := { x.r with pc := pc, mask := hd.mask, rpc := hd.rpc, pend := x.r.pend ++ hd.pend }, handler := none, hang := hd.hang, waitAt := hd.waitAt, wake := hd.wake, barsAt := hd.bars,
             spent := if (x.spent.map (fun y => y.pc)) = some pc then x.spent else none : Group }.settle)
  let s2 := resumeStopped s1 b g
  match s2.group? b g with
  | none => s2
  | some x => match heldFirst x.held with
    | none => s2
    | some ht => if boundary s2 b g && heldSettled x ht then deliverHeld s2 b g ht else s2

/-- The meaning of TRET. -/
def execTret (h : Hdr) (s : State) : Host.Outcome State Fault Refusal :=
  groupWide s h 8 (fun v =>
    match v.g.handler with
    | none => illegal s v
    | some hd =>
      if v.g.stack.length ≠ hd.depth then illegal s v
      else
        let va := hd.recVa + 0x30
        let c := groupAccess s v va 8 true false
        match c.cause with
        | some (x, a) => takeTrap s v (groupTrap v x a c.dom .sys false)
        | none =>
          match releaseAll s v.core v.whole v.mask .grp with
          | none => stall s v .remote
          | some s1 =>
            let s2 := touchAll s1 v.core v.ctx c.spans false
            let (s3, bs, _) := loadSpans s2 v.core v.whole v.mask c.spans { dom := .seq, enc := .seq, sc := .sys }
            let pc : Word := BitVec.ofNat 64 (fromBytes bs)
            if pc.toNat % 8 ≠ 0 then takeTrap s3 v { cause := .align, lanes := v.mask, addr := pc }
            else leaveHandler (acquireAll s3 v.core) v hd pc)

/-! ### System registers (R22, R23, R358, R361, R378) -/

/-- The value of a system register; none for a reserved number. `l` is the lane that reads LANE. -/
def sysReg (s : State) (v : View) (l n : Nat) : Option Word :=
  let w := fun (x : Nat) => some (BitVec.ofNat 64 x)
  let i := v.bl.index
  match n with
  | 0x00 => w l
  | 0x01 => w v.ag.grp
  | 0x02 => w v.g.slot
  | 0x03 => w v.pkt.groups
  | 0x04 => w (i % v.pkt.gx)
  | 0x05 => w (i / v.pkt.gx % v.pkt.gy)
  | 0x06 => w (i / (v.pkt.gx * v.pkt.gy))
  | 0x07 => w v.pkt.gx
  | 0x08 => w v.pkt.gy
  | 0x09 => w v.pkt.gz
  | 0x0A => w v.bl.rank
  | 0x0B => w v.pkt.cluster
  | 0x0C => w v.core
  | 0x0D => w (v.core / 64)
  | 0x0E => w s.mgmt.device
  | 0x0F => w v.ctx
  | 0x10 => some s.vtime
  | 0x11 => some (s.clk - sget s.cyc0 v.core)
  | 0x12 => w v.pkt.nbv
  | 0x13 => w v.pkt.ejt
  | 0x14 => some (fpfWord v.g.r.fpf)
  | 0x80 => w s.priv.ptstat
  | 0x81 => some s.priv.swctl
  | 0x82 => some s.priv.swrq
  | 0x83 => w s.priv.swtail
  | 0x84 => w s.priv.swhead
  | 0x85 => some s.priv.swft
  | _ => none

/-- The cause that naming a system register raises, if any: reserved numbers ILL, privileged ones PRIV in a tenant context. -/
def sysCause (v : View) (n : Nat) : Option Cause :=
  if 0x80 ≤ n then (if v.ctx ≠ 0 then some .priv else if 0x85 < n then some .ill else none)
  else if 0x15 ≤ n then some .ill
  else none

/-- The meaning of SYSRD (R378). -/
def execSysrd (h : Hdr) (s : State) : Host.Outcome State Fault Refusal :=
  let n := h.a.toNat
  bothChecked s h 8 (fun v => sysCause v n == some .ill)
    (fun v => match sysCause v n with
      | some c => plainTrap s v c v.mask
      | none => finishLong s v h [.k h.d.toNat ((sysReg s v 0 n).getD 0)] 0)
    (fun v =>
      let ls := v.active h
      if !v.within false [(h.d, 2)] then illegal s v
      else if ls.isEmpty then skip s v 8
      else match sysCause v n with
        | some c => plainTrap s v c (maskOf ls)
        | none => finishLong s v h (ls.flatMap (fun l =>
            let x := ((sysReg s v l n).getD 0).toNat
            [RegWrite.v l h.d.toNat (BitVec.ofNat 32 x), RegWrite.v l (h.d.toNat + 1) (BitVec.ofNat 32 (x / 2 ^ 32))])) 0)

/-- A legal SWCTL value (R361): LO < HI ≤ 8,192. -/
def swctlOk (x : Word) : Bool := decide (bitsOf x.toNat 19 0 < bitsOf x.toNat 39 20) && decide (bitsOf x.toNat 39 20 ≤ 8192)

/-- SWCTL after a write: an illegal value is ignored, reserved bits read as zero. -/
def swctlWrite (p : Priv) (x : Word) : Priv := if swctlOk x then { p with swctl := x &&& 0x800000FFFFFFFFFF#64 } else p

/-- SWHEAD after a write: the entries that it passes leave the ready queue (R350). -/
def Priv.setHead (p : Priv) (x : Nat) : Priv :=
  let head := x % 2 ^ 13
  let taken := (head + 8192 - p.swhead) % 8192
  { p with swhead := head, swheld := if taken ≤ p.swheld then p.swheld - taken else (p.swtail + 8192 - head) % 8192 }

/-- A privileged register after a write (R361); none for a read-only one. -/
def privWrite (p : Priv) (n : Nat) (x : Word) : Option Priv :=
  match n with
  | 0x81 => some (swctlWrite p x)
  | 0x82 => some { p with swrq := x }
  | 0x84 => some (p.setHead x.toNat)
  | 0x85 => some { p with swft := x }
  | _ => none

/-- The meaning of SYSWR (R358): it waits until the group's earlier results are written. -/
def execSyswr (h : Hdr) (s : State) : Host.Outcome State Fault Refusal :=
  let n := h.a.toNat
  groupChecked s h 8 (fun v => n != 0x14 && (decide (n < 0x80) || (v.ctx == 0 && privWrite s.priv n 0 == none))) (fun v =>
    if n ≠ 0x14 ∧ v.ctx ≠ 0 then plainTrap s v .priv v.mask
    else if v.r.awaiting then stall s v .remote
    else
      let s1 := s.mapRegs v.ag Regs.flush
      let x := (v.r.flush).kget h.b.toNat
      if n = 0x14 then (skip s1 v 8).mapRegs v.ag (fun r => { r.flush with fpf := fpfClear r.fpf x })
      else
        let s2 := (skip s1 v 8).mapRegs v.ag Regs.flush
        { s2 with priv := (privWrite s.priv n x).getD s.priv })

/-! ### Protocol tables (R199, R206, R207, R359) -/

/-- The events of a table: requests 0 to 9 and DEVICT, 10. -/
def tableEvents : List Nat := List.range 11

/-- The table in a 1,056-byte image (R199), unchecked. -/
def protoOf (bs : List Byte) : Proto :=
  { states := leAt bs 6 1, upds := (BitVec.ofNat 8 (leAt bs 7 1)).getLsbD 0, name := BitVec.ofNat 64 (leAt bs 8 8),
    entries := (List.range 256).map (fun i => BitVec.ofNat 32 (leAt bs (32 + 4 * i) 4)) }

/-- The 1,056-byte image of a table (R199). -/
def protoBytes (p : Proto) : List Byte :=
  toBytes 4 0x4C425443 ++ toBytes 2 1 ++ toBytes 1 p.states ++ toBytes 1 (if p.upds then 1 else 0) ++ toBytes 8 p.name.toNat ++ toBytes 16 0 ++
  p.entries.flatMap (fun e => toBytes 4 e.toNat)

/-! ### The shipped protocol tables (R204, R205) -/

/-- An entry word from its fields, in the order RESP, FWD, SHR, FAN, flags (WR 1, AT 2, LOG 4), NXE, NEXT (R200). -/
def shipWord (resp fwd shr fan flags nxe next : Nat) : BitVec 32 :=
  BitVec.ofNat 32 (flags * 2 ^ 19 + fan * 2 ^ 17 + shr * 2 ^ 14 + fwd * 2 ^ 12 + resp * 2 ^ 8 + nxe * 2 ^ 4 + next)

/-- DEVICT: clear, FAN 3, to I. -/
def shipDevict : BitVec 32 := shipWord 0 0 4 3 0 0 0

/-- Row I of INV, events 0 to 10. -/
def invI : List (BitVec 32) :=
  [shipWord 3 0 2 0 0 0 2, shipWord 3 0 2 0 0 0 2, shipWord 3 0 2 0 0 0 2, shipWord 3 0 2 0 0 0 2, shipWord 4 0 3 0 0 0 0, shipWord 4 0 3 0 1 0 0,
   shipWord 4 0 3 0 0 0 0, shipWord 5 0 0 0 1 0 0, shipWord 6 0 0 0 2 0 0, shipWord 4 0 0 0 1 0 0, shipDevict]

/-- Row S of INV. -/
def invS : List (BitVec 32) :=
  [shipWord 1 0 1 0 0 0 1, shipWord 3 0 2 1 0 0 2, shipWord 4 0 2 1 0 0 2, shipWord 3 0 2 1 0 0 2, shipWord 4 0 3 0 0 0 1, shipWord 4 0 3 0 1 0 1,
   shipWord 4 0 3 0 0 0 1, shipWord 5 0 4 3 1 0 0, shipWord 6 0 4 3 2 0 0, shipWord 4 0 4 3 5 0 0, shipDevict]

/-- Row M of INV. -/
def invM : List (BitVec 32) :=
  [shipWord 0 1 5 0 0 0 1, shipWord 0 2 2 0 0 0 2, shipWord 0 2 2 0 0 0 2, shipWord 0 2 2 0 0 0 2, shipWord 4 0 3 0 0 2 2, shipWord 4 0 4 0 1 0 0,
   shipWord 4 0 3 0 0 2 2, shipWord 5 0 4 3 1 0 0, shipWord 6 0 4 3 2 0 0, shipWord 4 0 4 3 5 0 0, shipDevict]

/-- Row F of WON. -/
def wonF : List (BitVec 32) :=
  [shipWord 1 0 1 0 0 0 3, shipWord 3 0 2 1 4 0 2, shipWord 4 0 2 1 4 0 2, shipWord 3 0 2 1 4 0 2, shipWord 4 0 3 0 0 3 3, shipWord 4 0 3 0 1 3 3,
   shipWord 4 0 3 0 0 3 3, shipWord 5 0 4 3 5 3 3, shipWord 6 0 4 3 6 3 3, shipWord 4 0 4 3 5 0 0, shipDevict]

/-- A table of rows, padded to 256 entries. -/
def shipTable (name : Nat) (upds : Bool) (rows : List (List (BitVec 32))) : Proto :=
  let es := rows.flatMap (fun r => r ++ List.replicate (16 - r.length) 0)
  { states := rows.length, upds := upds, name := BitVec.ofNat 64 name, entries := es ++ List.replicate (256 - es.length) 0 }

/-- INV, slot 0. Names are ASCII, the first letter lowest. -/
def tableInv : Proto := shipTable 0x564E49 false [invI, invS, invM]
/-- UPD, slot 1. -/
def tableUpd : Proto :=
  shipTable 0x445055 true [invI.set 0 (shipWord 2 0 1 0 0 0 1), (invS.set 0 (shipWord 2 0 1 0 0 0 1)).set 7 (shipWord 5 0 0 2 1 0 1), invM]
/-- MIG, slot 2. -/
def tableMig : Proto := shipTable 0x47494D false [invI, invS, invM.set 0 (shipWord 0 2 2 0 0 0 2)]
/-- WON, slot 3. -/
def tableWon : Proto :=
  shipTable 0x4E4F57 false [invI, invS, (invM.set 0 (shipWord 0 1 5 0 0 0 3)).set 5 (shipWord 4 0 4 0 1 3 3), wonF]

/-- The shipped tables in their slots. -/
def shippedTables : Table Proto := [(0, tableInv), (1, tableUpd), (2, tableMig), (3, tableWon)]

/-! ### The validator (R207) -/

/-- Whether an owner and whether sharers can be present in a state (R207). -/
structure Possible where
  owner  : Bool
  sharer : Bool
deriving DecidableEq, Repr

/-- What can be present after an entry's sharer operation, and whether nothing may be left (R207). -/
def afterShr (p : Possible) (e : PEntry) : Possible × Bool :=
  match e.shr with
  | 1 => ({ p with sharer := true }, false)
  | 2 => ({ owner := true, sharer := false }, false)
  | 3 => (p, true)
  | 4 => ({ owner := false, sharer := false }, true)
  | 5 => ({ owner := false, sharer := true }, false)
  | _ => (p, !p.owner && !p.sharer)

/-- One round of the fixed point: reachable states with what can be present in each. -/
def possibleRound (t : Proto) (m : List (Option Possible)) : List (Option Possible) :=
  let join := fun (m : List (Option Possible)) (st : Nat) (p : Possible) =>
    match m[st]? with
    | some (some q) => m.set st (some { owner := q.owner || p.owner, sharer := q.sharer || p.sharer })
    | _ => m.set st (some p)
  (List.range t.states).foldl (fun acc st =>
    match (m[st]?).join with
    | none => acc
    | some p => tableEvents.foldl (fun acc ev =>
        let e := t.entry st ev
        let (q, alone) := afterShr p e
        let acc1 := if q.owner || q.sharer then join acc e.next q else acc
        if alone then join acc1 e.nxe { owner := false, sharer := false } else acc1) acc) m

/-- Rounds up to the fixed point; each but the last adds a state, an owner or sharers. -/
def possibleFix (t : Proto) : Nat → List (Option Possible) → List (Option Possible)
  | 0, m => m
  | n + 1, m =>
    let next := possibleRound t m
    if next = m then m else possibleFix t n next

/-- What can be present in each state, from state 0 with nobody. -/
def possible (t : Proto) : List (Option Possible) := possibleFix t 64 ((List.replicate t.states none).set 0 (some { owner := false, sharer := false }))

/-- Is a table one of the shipped ones, whatever its name? They pass every check (R204), although no entry of MIG or of WON leads to S (log 27). -/
def isShipped (t : Proto) : Bool := shippedTables.any (fun e => { e.2 with name := t.name } == t)

/-- The raw code fields of an entry are none of the reserved ones, and its reserved bits are zero (R200). -/
def entryCodesOk (w : BitVec 32) (states : Nat) : Bool :=
  let e := pEntryOf w
  w.toNat / 2 ^ 22 == 0 && decide (e.shr ≤ 5) && decide (e.fwd ≤ 2) && decide (e.resp ≤ 6) && decide (e.nxe < states) && decide (e.next < states)

/-- Check 5: single writer. -/
def check5 (p : Possible) (e : PEntry) (ev : Nat) : Bool :=
  let grants : Bool := e.resp == 3 || e.fwd == 2 || (e.resp == 4 && (ev == 2 || ev == 3))
  (!grants || (e.shr == 2 && (e.fan == 1 || e.fan == 3 || !p.sharer))) &&
  (!(e.resp == 1 || e.resp == 2 || e.resp == 6) || !p.owner || e.fan == 3) &&
  (ev != 0 || !p.owner || e.fwd == 1 || e.fwd == 2)

/-- Check 6: update semantics. -/
def check6 (t : Proto) (p : Possible) (e : PEntry) (ev : Nat) : Bool :=
  (t.upds || (e.resp != 2 && e.fan != 2)) && (ev != 7 || !p.sharer || (e.fan == 2 && t.upds) || e.fan == 3)

/-- Check 7: writes and atomics. -/
def check7 (e : PEntry) (ev : Nat) : Bool :=
  e.wr == (ev == 5 || ev == 7 || ev == 9) && e.at_ == (ev == 8) && (ev != 8 || e.resp == 6)

/-- Check 8 for one entry: PUTX_N and PUTS grant nothing, neither by data of the home nor by a forward, whose owner sends data. -/
def check8 (e : PEntry) (ev : Nat) : Bool := !(ev == 4 || ev == 6) || !(e.resp == 3 || e.resp == 1 || e.resp == 2 || e.fwd != 0)

/-- Check 9: NTWB. -/
def check9 (p : Possible) (e : PEntry) (ev : Nat) : Bool := ev != 9 || (!p.owner && !p.sharer) || (e.shr == 4 && e.fan == 3 && e.log)

/-- Checks 2 to 9 of the validator (R207) on a table: 0, or the status of the first that fails. -/
def tableStatus (t : Proto) : Nat :=
  let pairs := (List.range t.states).flatMap (fun st => tableEvents.map (fun ev => (st, ev)))
  let e := fun (x : Nat × Nat) => t.entry x.1 x.2
  let m := possible t
  let p := fun (x : Nat × Nat) => ((m[x.1]?).join).getD { owner := false, sharer := false }
  if !(List.range 256).all (fun i =>
      let w := t.entries.getD i 0
      if i / 16 < t.states ∧ i % 16 < 11 then entryCodesOk w t.states else w == 0) then 2
  else if !pairs.all (fun x => if x.2 = 10 then (e x).resp == 0 && (e x).fwd == 0 && (e x).shr == 4 && (e x).fan == 3 && (e x).next == 0 && (e x).nxe == 0
                               else (e x).resp != 0 || (e x).fwd != 0) then 3
  else if !pairs.all (fun x => x.2 == 10 || !((e x).resp != 0 && (e x).fwd != 0)) then 4
  else if !pairs.all (fun x => check5 (p x) (e x) x.2) then 5
  else if !pairs.all (fun x => check6 t (p x) (e x) x.2) then 6
  else if !pairs.all (fun x => check7 (e x) x.2) then 7
  else if (!m.all Option.isSome && !isShipped t) || !pairs.all (fun x => check8 (e x) x.2) then 8
  else if !pairs.all (fun x => check9 (p x) (e x) x.2) then 9
  else 0

/-- The validator (R207): 0, or the status of the first check that fails. -/
def validate (bs : List Byte) : Nat :=
  let t := protoOf bs
  if leAt bs 0 4 ≠ 0x4C425443 ∨ leAt bs 4 2 ≠ 1 ∨ t.states < 2 ∨ 16 < t.states ∨ leAt bs 7 1 / 2 ≠ 0 ∨ !zeroAt bs 16 16 then 1 else tableStatus t

/-- The meaning of PTLOAD (R206, R359): the table is read, and the group waits for the validator. -/
def execPtload (h : Hdr) (s : State) : Host.Outcome State Fault Refusal :=
  groupWide s h 8 (fun v =>
    let a := v.r.kget h.a.toNat
    if v.ctx ≠ 0 then plainTrap s v .priv v.mask
    else if s.priv.loads.any (fun x => x.1 == v.ag.blk && x.2.1 == v.ag.grp) then stall s v .validator
    else if !alignedTo a 32 then takeTrap s v { cause := .align, lanes := v.mask, addr := a }
    else
      let c := groupAccess s v a 1056 true false
      match c.cause with
      | some (x, va) => takeTrap s v (groupTrap v x va c.dom .sys false)
      | none =>
        let s1 := touchAll s v.core v.ctx c.spans false
        let (s2, bs, _) := loadSpans s1 v.core v.whole v.mask c.spans { dom := .seq, enc := .seq, sc := .sys }
        stall { s2 with priv := { s2.priv with loads := s2.priv.loads ++ [(v.ag.blk, v.ag.grp, h.c.toNat, bs)] } } v .validator)

/-- Does a declared object name a slot? -/
def slotInUse (s : State) (slot : Nat) : Bool := s.objs.any (fun e => (objShape s { ctx := e.1 / 4096, obj := e.1 % 4096 }).slot == slot)

/-- The outcome of a PTLOAD (R206): its status, and the table in its slot when it is accepted. -/
def ptResult (s : State) (slot : Nat) (bs : List Byte) : State :=
  let st := if slotInUse s slot then 10 else validate bs
  let s1 := { s with priv := { s.priv with ptstat := st } }
  if st = 0 then { s1 with protos := tset s1.protos slot (protoOf bs) } else s1

/-- VALIDATOR_COMPLETE (R206): the oldest PTLOAD ends. -/
def validatorCompleteEvent (s : State) : Option State :=
  match s.priv.loads with
  | [] => none
  | (b, g, slot, bs) :: rest =>
    let s1 := ptResult { s with priv := { s.priv with loads := rest } } slot bs
    match viewOf s1 { blk := b, grp := g, lane := none } with
    | none => some s1
    | some v => some (skip s1 v 8)

/-- The meaning: the event, or nothing where it does not occur. -/
def execValidatorComplete (s : State) : Host.Outcome State Fault Refusal := happen s (validatorCompleteEvent s)

end Sys2Proof.Machine
end

