-- ==== Sys2Proof/Machine/Ctxctl.lean ====
section
/-! DEFINITION. CTXCTL: tenants, contexts, queues, windows, experts, TLB invalidation and populated pages (spec/13_isolation.md R342 to R344, R347,
R349, R354, R355, R360; 09_fabric.md R262, R268; 10_scheduling.md R281, R295). -/

namespace Sys2Proof.Machine

open Sys2Proof

/-! ### Rights and images (R360) -/

/-- Is the context a manager? -/
def isMgr (s : State) (ctx : Nat) : Bool := match tget s.ctxs ctx with | some c => c.mgr | none => false

/-- Does a context act for this tenant: the privileged one for every, a manager for its own? -/
def actsFor (s : State) (ctx : Nat) (t : Option Nat) : Bool := ctx == 0 || (isMgr s ctx && t.isSome && tenantIdx s ctx == t)

/-- The checks of an image of `n` bytes (R213, R360): an access of the group, in SEQ (DESIGN CHOICE, log 47). -/
def imageLook (s : State) (v : View) (va : Word) (n : Nat) : Looked := lookGlb s v .seq n false true false false { lane := none, va := va }

/-- The shape of CTXCTL (R357, R360): PRIV by what the registers name, the image's checks, PRIV by what the image names, the release, the effect on
the image's bytes, the acquire. `n` is 0 without an image. -/
def ctxctl (s : State) (h : Hdr) (n : Nat) (rights : View → Word → Word → Bool) (f : State → View → Word → Word → List Byte → State × Option Nat) :
    Host.Outcome State Fault Refusal :=
  groupWide s h 8 (fun v =>
    let a := v.r.kget h.a.toNat
    let b := v.r.kget h.b.toNat
    if !rights v a b then plainTrap s v .priv v.mask
    else
      let c := if n = 0 then { acc := { lane := none, va := a }, cause := none, dom := .seq, nres := false, spans := [] } else imageLook s v a n
      match c.cause with
      | some (x, va, code) => takeTrap s v { groupTrap v x va c.dom .sys false with code := code }
      | none =>
        match releaseAll s v.core v.whole v.mask .dev with
        | none => stall s v .remote
        | some s1 =>
          let (s2, bs, _) := loadSpans (touchAll s1 v.core v.ctx c.spans false) v.core v.whole v.mask c.spans { dom := .seq, enc := .seq, sc := .sys }
          match f s2 v a b bs with
          | (_, none) => plainTrap s2 v .priv v.mask
          | (s3, some r) => finish (acquireAll s3 v.core) v 8 [.k h.d.toNat (BitVec.ofNat 64 r)] 0)

/-- Only the privileged context. -/
def privOnly (v : View) (_ _ : Word) : Bool := v.ctx == 0

/-! ### Slots after a change of tenants or queues (R282) -/

/-- Drops the mappings of slots that no longer belong to their queue's tenant. -/
def tidyMap (s : State) : State :=
  { s with sched := { s.sched with map := s.sched.map.filter (fun e => slotOwner s e.1 == some (tenantIdx s (queueOf s e.2).ctx)) } }

/-! ### Tenants (R342) -/

/-- A physical window of a tenant image. -/
def windowParse (bs : List Byte) (i : Nat) : PWindow :=
  let w1 := leAt bs (0x80 + 16 * i + 8) 8
  { base := leAt bs (0x80 + 16 * i) 8, units := bitsOf w1 51 16, tier := w1 % 4 }

/-- A tenant image (R342). -/
def tenantParse (bs : List Byte) : Tenant :=
  { flags := BitVec.ofNat 8 (leAt bs 0 1), qslots := leAt bs 1 1, proto := BitVec.ofNat 8 (leAt bs 2 1), msixn := leAt bs 3 1, keys := BitVec.ofNat 64 (leAt bs 16 8),
    sample := leAt bs 24 8, popring := leAt bs 32 8, wins := ((List.range 8).map (windowParse bs)).filter (fun w => w.units != 0) }

/-- Reserved bytes and bits of a tenant image that are not zero. -/
def tenantReserved (bs : List Byte) : Bool :=
  !zeroAt bs 4 12 || !zeroAt bs 40 88 || leAt bs 0 1 / 4 != 0 ||
  (List.range 8).any (fun i => let w := leAt bs (0x80 + 16 * i + 8) 8; w / 2 ^ 52 != 0 || bitsOf w 15 2 != 0)

/-- Do two windows overlap? Host addresses and device addresses are two spaces. -/
def PWindow.meets (a b : PWindow) : Bool := (a.tier == 2) == (b.tier == 2) && rangesMeet a.base (a.units * 65536) b.base (b.units * 65536)

/-- The other tenants, and those of them that are valid. -/
def otherTenants (s : State) (n : Nat) : List Tenant := (s.tenants.filter (fun e => e.1 != n)).map Prod.snd

/-- A tenant is valid. -/
def Tenant.valid (t : Tenant) : Bool := t.flags.getLsbD 0

/-- A field out of range, a window that overlaps another tenant's, or a key slot of another valid tenant (status 2). -/
def tenantBad (s : State) (n : Nat) (bs : List Byte) (t : Tenant) : Bool :=
  let inside := fun (a : Nat) => a % 65536 == 0 && (t.window false a 1).isSome
  tenantReserved bs || t.wins.any (fun w => w.tier == 3 || w.base % 65536 != 0) ||
  decide (t.qslots < 1) || decide (128 < t.qslots) || decide (t.msixn < 4) || decide (64 < t.msixn) || !inside t.sample || !inside t.popring ||
  (otherTenants s n).any (fun o => (o.valid && o.keys &&& t.keys != 0) || o.wins.any (fun w => t.wins.any (fun x => x.meets w)))

/-- Has a tenant contexts? -/
def hasContexts (s : State) (n : Nat) : Bool := s.ctxs.any (fun e => e.2.tenant == some n)

/-- A tenant that nothing has written. -/
def Tenant.blank : Tenant := { flags := 0, qslots := 0, proto := 0, msixn := 0, keys := 0, sample := 0, popring := 0, wins := [] }

/-- Writes a tenant descriptor: the result and the state. -/
def writeTenant (s : State) (n : Nat) (bs : List Byte) : State × Nat :=
  let t := tenantParse bs
  let old := (tget s.tenants n).getD Tenant.blank
  if 16 ≤ n then (s, 2)
  else if hasContexts s n && (old.wins != t.wins || old.keys != t.keys || old.qslots != t.qslots) then (s, 1)
  else if tenantBad s n bs t then (s, 2)
  else if t.valid && decide (128 < t.qslots + (((otherTenants s n).filter Tenant.valid).map (fun o => o.qslots)).sum) then (s, 3)
  else (tidyMap { s with tenants := tset s.tenants n t }, 0)

/-! ### Contexts (R343, R344) -/

/-- A context image (R343); RJT 0 records the default. -/
def ctxParse (bs : List Byte) : Ctx :=
  let rjt := leAt bs 0x40 4
  { ptroot := leAt bs 0 8, tenant := some (leAt bs 8 1), conf := (BitVec.ofNat 8 (leAt bs 9 1)).getLsbD 0, mgr := (BitVec.ofNat 8 (leAt bs 9 1)).getLsbD 1,
    cres := leAt bs 10 1, resv := [], salt := BitVec.ofNat 32 (leAt bs 12 4), pool := leAt bs 0x10 8, poolsz := leAt bs 0x18 8, objtab := leAt bs 0x20 8,
    traprt := BitVec.ofNat 64 (leAt bs 0x28 8), svcring := BitVec.ofNat 64 (leAt bs 0x30 8), chain := BitVec.ofNat 64 (leAt bs 0x38 8),
    rjt := if rjt = 0 then Config.rjtDefault else rjt, hangt := leAt bs 0x44 4, protbase := leAt bs 0x48 8, protlen := leAt bs 0x50 8 }

/-- Does a physical range lie inside a window of the tenant, and for a confidential context in its protected window? -/
def rangeIn (t : Tenant) (c : Ctx) (inProt : Bool) (a n : Nat) : Bool :=
  (t.window false a n).isSome && (!inProt || !c.conf || (decide (c.protbase ≤ a) && decide (a + n ≤ c.protbase + c.protlen)))

/-- Is the protected window legal: zero without CONF, else inside one HBM window? -/
def protOk (t : Tenant) (c : Ctx) : Bool :=
  if c.conf then c.protbase % 65536 == 0 && c.protlen % 65536 == 0 && t.wins.any (fun w => w.tier == 0 && w.holds c.protbase c.protlen)
  else c.protbase == 0 && c.protlen == 0

/-- A field of a context image out of range (status 2). -/
def ctxBad (s : State) (bs : List Byte) (c : Ctx) : Bool :=
  match c.tenant.bind (fun t => if t < 16 then tget s.tenants t else none) with
  | none => true
  | some t =>
    !t.flags.getLsbD 0 || !zeroAt bs 0x0B 1 || !zeroAt bs 0x58 40 || leAt bs 9 1 / 4 != 0 || decide (16 < c.cres) || (c.conf == (c.salt == 0)) ||
    c.ptroot % 65536 != 0 || c.pool % 65536 != 0 || c.poolsz % 65536 != 0 || !protOk t c ||
    !rangeIn t c false c.ptroot 65536 || !rangeIn t c true c.pool (max 1 c.poolsz) || !rangeIn t c true c.objtab 65536 ||
    c.traprt.toNat % 64 != 0 || c.svcring.toNat % 4096 != 0 || c.chain.toNat % 65536 != 0 || decide (c.rjt < 1024) || decide (2 ^ 24 < c.rjt)

/-- May the tenant own a confidential context now (R354)? -/
def confOk (s : State) (c : Ctx) : Bool :=
  !c.conf || (match c.tenant with
    | none => false
    | some t => s.host.run.contains t && (match tget s.tenants t with | some x => x.flags.getLsbD 1 | none => false))

/-- The positions on a die that a reserve of n takes: the highest that no other context holds (R295). -/
def reservePlaces (s : State) (n : Nat) : List Nat :=
  (((List.range 64).reverse).filter (fun p => (reservedBy s p).isNone)).take n

/-- The cores of a reserve: the same positions on every die. -/
def reserveCores (s : State) (n : Nat) : List Nat := (List.range Config.dies).flatMap (fun d => (reservePlaces s n).map (fun p => 64 * d + p))

/-- The residue of a context that is gone is no residue of the context that takes its number (R290, R344). -/
def staleGranule (n : Nat) (g : Granule) : Granule := if g.st = .free ∧ g.last = some n then { g with last := none, data := [] } else g

/-- Every granule last owned by a context number is scrubbed. -/
def scrubGranules (s : State) (n : Nat) : State :=
  { s with cores := tmap (fun (k : Core) => { k with gran := tmap (staleGranule n) k.gran }) s.cores }

/-- Creates a context (R343): the result and the state. -/
def createContext (s : State) (n : Nat) (bs : List Byte) : State × Nat :=
  let c := ctxParse bs
  if n = 0 ∨ 1024 ≤ n then (s, 2)
  else if (tget s.ctxs n).isSome then (s, 1)
  else if ctxBad s bs c then (s, 2)
  else if !confOk s c || decide (32 < c.cres + ((tvals s.ctxs).map (fun x => x.cres)).sum) then (s, 3)
  else ({ scrubGranules s n with ctxs := tset s.ctxs n { c with resv := reserveCores s c.cres }, ctrs := s.ctrs.filter (fun e => e.1 / 64 != n),
                                 dbg := terase s.dbg n, chains := terase s.chains n }, 0)

/-- CTXCTL.create. -/
def execCtxctlCreate (h : Hdr) (s : State) : Host.Outcome State Fault Refusal :=
  ctxctl s h 128 privOnly (fun s _ _ b bs => let (t, r) := createContext s b.toNat bs; (t, some r))

/-! ### Cached lines (R347, R360) -/

/-- The SIV sectors of a frame set in a cache. -/
def sivSectors (t : Table CSector) (p : Nat → Bool) : List Nat := ((tvals t).filter (fun x => x.mode == .siv && p x.sec)).map (fun x => x.sec)

/-- Writes back the SIV sectors of a cache and drops them. -/
def flushSiv (p : Nat → Bool) (c : CacheRef) (s : State) : State := (sivSectors (cacheOf s c) p).foldl (fun s k => sivLeave s c k) s

/-- Every TRK sector that a cache holds, with the object that it is held under. -/
def trkHeld (s : State) (p : Nat → Bool) : List (ObjTag × Nat) :=
  (s.cores.flatMap (fun e => tvals e.2.l1) ++ s.ccs.flatMap (fun e => tvals e.2)).filterMap (fun x => if x.mode == .trk && p x.sec then some (x.tag, x.sec) else none)

/-- The sectors that messages on their way and write-back buffers hold. -/
def movingSectors (s : State) (p : Nat → Bool) : List Nat :=
  ((s.net.flatMap (fun m => m.data.map Prod.fst) ++ s.wbacks.flatMap (fun b => b.xs.map (fun x => x.sec))).filter p).eraseDups

/-- Writes back and invalidates, device-wide, every cached sector that satisfies a test, and the lines of code that hold one. Every request and message
is delivered first, so no copy of them stays on its way. -/
def flushSectors (s0 : State) (p : Nat → Bool) : State :=
  let s := settled s0
  let s1 := (s.cores.map Prod.fst).foldl (fun s n => flushSiv p (.l1 n) s) s
  let s2 := (s1.ccs.map Prod.fst).foldl (fun s n => flushSiv p (.cc n) s) s1
  let s3 := (trkHeld s2 p).foldl (fun s x => purgePiece s (pieceOf s x.1 x.2).2) s2
  dropLines (flushNet s3 (movingSectors s3 p)) (fun n => (List.range 4).any (fun i => p (4 * n + i)))

/-- Drops, without writing them back, every cached sector that satisfies a test, and what messages and write-back buffers carry of it; every request
and message is delivered first. -/
def dropSectors (s0 : State) (p : Nat → Bool) : State :=
  let s := settled s0
  { s with cores := tmap (fun (c : Core) => { c with l1 := c.l1.filter (fun e => !p e.1) }) s.cores, ccs := tmap (fun t => t.filter (fun e => !p e.1)) s.ccs,
           net := s.net.map (fun m => { m with data := m.data.filter (fun e => !p e.1), dirty := m.dirty.filter (fun e => !p e.1) }),
           wbacks := s.wbacks.map (fun b => { b with xs := b.xs.filter (fun x => !p x.sec) }) }

/-! ### TLB invalidation (R347) -/

/-- Does a TLB entry belong to a context: tagged with it, or with its tenant? -/
def TlbEntry.ofCtx (e : TlbEntry) (ctx : Nat) (t : Option Nat) : Bool := if e.g then t == some e.tag else e.tag == ctx

/-- Does a TLB entry hold the page of an address; all ones names every page? -/
def TlbEntry.covers (e : TlbEntry) (va : Word) : Bool := va == BitVec.allOnes 64 || e.page == va.toNat / pageBytes e.big

/-- The TLB entries that an invalidation takes. -/
def tlbHits (s : State) (ctx : Nat) (va : Word) : List TlbEntry := (tlbAll s).filter (fun x => x.ofCtx ctx (tenantIdx s ctx) && x.covers va)

/-- Invalidates TLB entries on every core. -/
def tlbDrop (s : State) (ctx : Nat) (va : Word) : State := tlbKeep s (fun x => !(x.ofCtx ctx (tenantIdx s ctx) && x.covers va))

/-- The queued stores of contexts, and their loads that are not performed. -/
def ctxStores (s : State) (mine : Nat → Bool) : List Nat :=
  let of := fun (a : AgentRef) => match tget s.blocks a.blk with | some b => mine b.ctx | none => false
  ((allStores s).filter (fun e => of e.2.ag)).map (fun e => e.2.id) ++ (s.late.filter (fun x => of x.ag)).map (fun x => x.id)

/-- Forgets what the loads of contexts have read ahead. -/
def forgetAhead (s : State) (mine : Nat → Bool) : State :=
  { s with blocks := tmap (fun (bl : Block) => if mine bl.ctx then { bl with groups := tmap Group.noAhead bl.groups } else bl) s.blocks }

/-- Acknowledges every queued store of contexts, performs their loads and forgets what these have read ahead; none while one of them must wait. -/
def drainCtxs (s : State) (mine : Nat → Bool) : Option State := (drain s (ctxStores s mine)).map (fun s => forgetAhead s mine)

/-- A context, and the contexts of its tenant, which share its G = 1 entries (R348). -/
def sharing (s : State) (ctx x : Nat) : Bool := x == ctx || ((tenantIdx s ctx).isSome && tenantIdx s x == tenantIdx s ctx)

/-- The frames that a page of a context maps: those of its TLB entries, of its own walk and of its tenant's G = 1 mappings (R348). -/
def pageFrames (s : State) (ctx : Nat) (va : Word) : List (Nat × Nat) :=
  let pages := (tlbHits s ctx va).map (fun e => pageOf ctx e.pte e.addr e.big (BitVec.ofNat 64 (e.page * pageBytes e.big))) ++
    (match walk s ctx va with | some p => [p] | none => []) ++
    (match tenantIdx s ctx with | some t => ((tenantPages s t va).filterMap id).filter (fun p => pteG p.pte) | none => [])
  pages.map (fun p => (p.base, pageBytes p.big))

/-- The sectors of a list of frames. -/
def inFrames (fs : List (Nat × Nat)) (sec : Nat) : Bool := fs.any (fun f => decide (f.1 ≤ 32 * sec) && decide (32 * sec < f.1 + f.2))

/-- Invalidates a page, or every page, of a context (R347): what used the old entries is acknowledged first; FLUSH writes the frames' lines back. -/
def tlbInvalidate (s : State) (ctx : Nat) (va : Word) (flush : Bool) : Option State :=
  (drainCtxs s (sharing s ctx)).map (fun s1 =>
    let fs := pageFrames s1 ctx va
    let s2 := tlbDrop s1 ctx va
    if flush then flushSectors s2 (fun sec => va == BitVec.allOnes 64 || inFrames fs sec) else s2)

/-- CTXCTL.tlbinv: the group waits while an access of the context must wait for a remote one. -/
def execCtxctlTlbinv (h : Hdr) (s : State) : Host.Outcome State Fault Refusal :=
  groupWide s h 8 (fun v =>
    let a := v.r.kget h.a.toNat
    let b := v.r.kget h.b.toNat
    let ctx := b.toNat % 1024
    if !actsFor s v.ctx (tenantIdx s ctx) then plainTrap s v .priv v.mask
    else
      match (releaseAll s v.core v.whole v.mask .dev).bind (fun s1 => tlbInvalidate s1 ctx a (b.getLsbD 63)) with
      | none => stall s v .remote
      | some s2 => finish (acquireAll s2 v.core) v 8 [.k h.d.toNat 0] 0)

/-! ### Destruction (R344) -/

/-- Steps 4 and 5 for a confidential context: its granules and its protected window are scrubbed. -/
def scrubContext (s : State) (n : Nat) (c : Ctx) : State :=
  if c.conf then
    let inside := fun (sec : Nat) => decide (c.protbase ≤ 32 * sec) && decide (32 * sec < c.protbase + c.protlen)
    let s2 := dropSectors (scrubGranules s n) inside
    { s2 with mem := clearBytes s2.mem c.protbase c.protlen, poison := s2.poison.filter (fun x => !inside x) }
  else s

/-- Destroys a context in the steps of R344. -/
def destroyContext (s : State) (n : Nat) : State :=
  match tget s.ctxs n with
  | none => s
  | some c =>
    let s1 := ((s.grids.filter (fun e => e.2.ctx == n && !e.2.done)).map Prod.fst).foldl (fun s g => abortGrid s g 7) s
    let s2 := { s1 with
      pops := s1.pops.filter (fun p => p.ctx != n), svcq := s1.svcq.filter (fun x => x.ctx != n),
      queues := tmap (fun q => if q.ctx = n then { q with en := false } else q) s1.queues,
      windows := tmap (fun w => if w.ctx = n then { w with v := false } else w) s1.windows,
      fab := { s1.fab with items := s1.fab.items.filter (fun x => x.ctx != n), hosted := s1.fab.hosted.filter (fun x => x.ctx != n) } }
    let s3 := scrubContext s2 n c
    let s4 := flushSectors (tlbDrop s3 n (BitVec.allOnes 64)) (fun _ => true)
    { s4 with ctxs := terase s4.ctxs n, objs := s4.objs.filter (fun e => e.1 / 4096 != n), dbg := terase s4.dbg n, chains := terase s4.chains n,
              ctrs := s4.ctrs.filter (fun e => e.1 / 64 != n) }

/-- CTXCTL.destroy: every context that exists, the privileged one too (R360). -/
def execCtxctlDestroy (h : Hdr) (s : State) : Host.Outcome State Fault Refusal :=
  ctxctl s h 0 privOnly (fun s _ _ b _ =>
    if (tget s.ctxs b.toNat).isNone then (s, some 1)
    else (destroyContext s b.toNat, some 0))

/-- The confidential contexts of a tenant. -/
def confidentialOf (s : State) (t : Nat) : List Nat := (s.ctxs.filter (fun e => e.2.tenant == some t && e.2.conf)).map Prod.fst

/-- A tenant that is not valid, or has no CONFOK, owns no confidential context: those that it owned are destroyed (R354; DEDUCED, log 45). -/
def keepConf (s : State) (t : Nat) : State :=
  match tget s.tenants t with
  | some x => if x.valid && x.flags.getLsbD 1 then s else (confidentialOf s t).foldl destroyContext s
  | none => s

/-- CTXCTL.tenant. -/
def execCtxctlTenant (h : Hdr) (s : State) : Host.Outcome State Fault Refusal :=
  ctxctl s h 256 privOnly (fun s _ _ b bs => let (t, r) := writeTenant s b.toNat bs; (if r = 0 then keepConf t b.toNat else t, some r))

/-! ### Queues (R281) -/

/-- TAIL after a write: ignored when it lowers TAIL or exceeds the ring. -/
def Queue.moveTail (q : Queue) (t : Nat) : Queue := if q.tail ≤ t ∧ t - q.head ≤ 2 ^ q.log2n then { q with tail := t } else q

/-- A queue descriptor after a write of words 0, 1 and 3. -/
def Queue.writeWords (q : Queue) (w0 w1 w3 : Nat) : Queue :=
  let lg := bitsOf w1 44 40
  { q with ring := BitVec.ofNat 64 w0, en := bitsOf w1 63 63 == 1, ctx := bitsOf w1 57 48, log2n := if 4 ≤ lg ∧ lg ≤ 16 then lg else q.log2n }.moveTail (w3 % 2 ^ 48)

/-- May a manager's context take over a queue: never written, of a context that is gone, or its tenant's own? -/
def queueOpen (s : State) (ctx n : Nat) : Bool :=
  match tget s.queues n with
  | none => true
  | some q => (tget s.ctxs q.ctx).isNone || actsFor s ctx (tenantIdx s q.ctx)

/-- CTXCTL.queue. -/
def execCtxctlQueue (h : Hdr) (s : State) : Host.Outcome State Fault Refusal :=
  ctxctl s h 32 (fun v _ b => (v.ctx == 0 || isMgr s v.ctx) && queueOpen s v.ctx b.toNat) (fun s v _ b bs =>
    let n := b.toNat
    let w1 := leAt bs 8 8
    let ctx := bitsOf w1 57 48
    if 4096 ≤ n then (s, some 2)
    else if !actsFor s v.ctx (tenantIdx s ctx) then (s, none)
    else if (tget s.ctxs ctx).isNone || leAt bs 0 8 % 64 != 0 then (s, some 2)
    else (tidyMap (setQueue s n ((queueOf s n).writeWords (leAt bs 0 8) w1 (leAt bs 24 8))), some 0))

/-! ### Windows and experts (R262, R268) -/

/-- A window image (R262). -/
def windowImage (bs : List Byte) : Window :=
  let w2 := leAt bs 16 8
  { v := bitsOf w2 63 63 == 1, rdp := bitsOf w2 62 62 == 1, wrp := bitsOf w2 61 61 == 1, atp := bitsOf w2 60 60 == 1, ten := bitsOf w2 29 26,
    ctx := bitsOf w2 25 16, key := w2 % 65536, len := leAt bs 8 8 % 2 ^ 40, base := BitVec.ofNat 64 (leAt bs 0 8) }

/-- May a context write an entry: the privileged one any, a manager one that is invalid or holds its own tenant's TEN? -/
def windowOpen (s : State) (ctx n : Nat) : Bool :=
  ctx == 0 || (match tget s.windows n with
    | none => true
    | some w => !w.v || tenantIdx s ctx == some w.ten)

/-- Does the image pass the checks of its own? -/
def windowOk (s : State) (w : Window) : Bool :=
  w.len % 65536 == 0 && w.base.toNat % 65536 == 0 && (!w.v || tenantIdx s w.ctx == some w.ten)

/-- CTXCTL.window. -/
def execCtxctlWindow (h : Hdr) (s : State) : Host.Outcome State Fault Refusal :=
  ctxctl s h 24 (fun v _ b => (v.ctx == 0 || isMgr s v.ctx) && windowOpen s v.ctx b.toNat) (fun s v _ b bs =>
    let n := b.toNat
    let w := windowImage bs
    let other : Bool := match tenantIdx s w.ctx with | some t => tenantIdx s v.ctx != some t | none => w.ctx == 0
    if 4096 ≤ n then (s, some 2)
    else if v.ctx ≠ 0 ∧ w.v = true ∧ other = true then (s, none)
    else if !windowOk s w then (s, some 2)
    else ({ s with windows := tset s.windows n w }, some 0))

/-- CTXCTL.expasg. -/
def execCtxctlExpasg (h : Hdr) (s : State) : Host.Outcome State Fault Refusal :=
  ctxctl s h 0 privOnly (fun s _ _ b _ =>
    if 1024 ≤ b.toNat || (tget s.ctxs b.toNat).isNone then (s, some 2) else ({ s with expCtx := some b.toNat, experts := [] }, some 0))

/-- An expert entry's word 0 (R268), with its loads cleared. -/
def expertImage (w : Nat) : Expert :=
  { v := bitsOf w 63 63 == 1, nr := bitsOf w 61 60, dev := (List.range 4).map (fun i => bitsOf w (10 * i + 9) (10 * i)), load := [0, 0, 0, 0] }

/-- CTXCTL.expwr. -/
def execCtxctlExpwr (h : Hdr) (s : State) : Host.Outcome State Fault Refusal :=
  ctxctl s h 16 (fun v _ _ => v.ctx == 0 || s.expCtx == some v.ctx) (fun s _ _ b bs =>
    if 4096 ≤ b.toNat then (s, some 2) else ({ s with experts := tset s.experts b.toNat (expertImage (leAt bs 0 8)) }, some 0))

/-! ### Populated pages (R263, R349) -/

/-- A group parked for a page is replayed when its last page has come. -/
def wakeGroup (page : Word) (g : Group) : Group :=
  match g.run with
  | .parkedOff (.pages vas) =>
    if vas.contains page then
      (if vas.all (fun x => x == page) then { g with run := .parkedOff .resumed } else { g with run := .parkedOff (.pages (vas.filter (fun x => x != page))) })
    else g
  | _ => g

/-- A block transfer that waits for a page goes on: it starts again at its row when the engine has room (R232, R234). -/
def wakeBt (page : Word) (c : BtCmd) : BtCmd := if c.popWait = some page then { c with popWait := none, started := false } else c

/-- The commands of a queue of a core whose blocks are of a context. -/
def wakeQueue (s : State) (ctx : Nat) (page : Word) (q : List BtCmd) : List BtCmd :=
  q.map (fun c => if ((tget s.blocks c.blk).map (fun b => b.ctx)) = some ctx then wakeBt page c else c)

/-- Commands at the head of their queues whose guards are false are discarded (R247). -/
def pumpQueues (s : State) : State :=
  s.cores.foldl (fun s e => (e.2.bts.map (fun c => c.blk)).foldl (fun s b => pumpBt s e.1 b true) ((e.2.btl.map (fun c => c.blk)).foldl (fun s b => pumpBt s e.1 b false) s)) s

/-- A page is populated: its request goes, its waiters are replayed, and held remote items are performed. -/
def popdone (s : State) (ctx : Nat) (page : Word) : State :=
  let s1 := { s with
    pops := s.pops.filter (fun p => !(p.ctx == ctx && p.page == page)),
    blocks := tmap (fun (bl : Block) => if bl.ctx = ctx then
      { bl with groups := tmap (wakeGroup page) bl.groups,
                bt := bl.bt.map (fun c => (c.1, wakeBt page c.2)) } else bl) s.blocks,
    cores := tmap (fun (c : Core) => { c with btl := wakeQueue s ctx page c.btl, bts := wakeQueue s ctx page c.bts }) s.cores }
  performHeldPage (pumpQueues s1) ctx page

/-- CTXCTL.popdone. -/
def execCtxctlPopdone (h : Hdr) (s : State) : Host.Outcome State Fault Refusal :=
  ctxctl s h 0 (fun v _ b => actsFor s v.ctx (tenantIdx s (b.toNat % 1024))) (fun s _ a b _ => ((popNames s (b.toNat % 1024) a).foldl (fun s page => popdone s (b.toNat % 1024) page) s, some 0))

end Sys2Proof.Machine
end

