-- ==== Sys2Proof/Machine/Boot.lean ====
section
/-! DEFINITION. Resets, boot and power (spec/18_package.md R414, R416, R417, R419 to R423; 07_coherence.md R204, R205; 13_isolation.md R343). -/

namespace Sys2Proof.Machine

open Sys2Proof

/-! ### The shipped protocol tables (R204) -/

/-- The tables that the validator accepts at boot, where it is run on each (R204). -/
def bootTables : Table Proto := shippedTables.filter (fun e => tableStatus e.2 == 0)

/-! ### Resets (R421) -/

/-- Everything that a reset clears is as right after reset. The boot flash stays, and so do what lies outside the device, the host's memory, what
it has been sent and its frames, and the model's own counters. -/
def clearedBy (s : State) : State :=
  { State.reset with
    free := s.free, ids := s.ids, agenda := s.agenda,
    mem := s.mem.filter (fun c => decide (hostBase ≤ c.1)),
    host := { State.reset.host with msix := s.host.msix, answers := s.host.answers, status := s.host.status, retried := s.host.retried,
                                    absent := s.host.absent, aborts := s.host.aborts },
    mgmt := { State.reset.mgmt with flash := s.mgmt.flash } }

/-- COLD_RESET (R421): FAIL goes to 0 only when VAUX has just been applied. -/
def execColdReset (vaux : Bool) (s : State) : Host.Outcome State Fault Refusal :=
  let t := clearedBy s
  .next (if vaux then t else { t with mgmt := { t.mgmt with fail := s.mgmt.fail } })

/-- WARM_RESET (R421): FAIL and the event ring stay, and boot begins at stage 2. Only a cold reset leaves a thermal trip (R416). -/
def execWarmReset (s : State) : Host.Outcome State Fault Refusal :=
  let t := clearedBy s
  .next (if s.mgmt.powered then { t with mgmt := { t.mgmt with fail := s.mgmt.fail, ring := s.mgmt.ring, lost := s.mgmt.lost, stage := 2 } } else s)

/-- VF_FUNCTION_LEVEL_RESET (R421): every context of the tenant is destroyed. -/
def vfFunctionLevelResetEvent (t : Nat) (s : State) : Option State :=
  if t < 16 then some (((s.ctxs.filter (fun e => e.2.tenant == some t)).map Prod.fst).foldl destroyContext s)
  else none

/-- The meaning: the event, or nothing where it does not occur. -/
def execVfFunctionLevelReset (t : Nat) (s : State) : Host.Outcome State Fault Refusal := happen s (vfFunctionLevelResetEvent t s)

/-- VBULK_LOSS (R414): a cold reset with FAIL 8. -/
def execVbulkLoss (s : State) : Host.Outcome State Fault Refusal :=
  let t := clearedBy s
  .next { t with mgmt := { t.mgmt with fail := 8 } }

/-- THERMAL_TRIP (R416): every die but the management core loses its power and state; FAIL 9. -/
def execThermalTrip (_ : Nat) (s : State) : Host.Outcome State Fault Refusal :=
  .next { clearedBy s with mgmt := { s.mgmt with fail := 9, powered := false, throttled := [] } }

/-! ### Boot (R422) -/

/-- The link trained in a mode of R417. -/
def linkOk (width rate : Nat) : Bool := (width == 8 || width == 16) && (rate == 64 || rate == 32 || rate == 16)

/-- The link comes up. -/
def linkUp (s : State) (width rate : Nat) : State := { s with host := { s.host with up := true, width := width, rate := rate } }

/-- Why a firmware copy does not verify (R422): 1 for its signature, 2 for a version below the rollback counter. -/
def copyFail (image : List Byte) : Option Nat :=
  if !Config.firmwareSigned image then some 1 else if Config.firmwareVersion image < Config.rollbackFuse then some 2 else none

/-- Why stage 1 fails: copy A does not verify, and then copy B does not. -/
def firmwareFail (f : Flash) : Option Nat := if (copyFail f.a).isSome then copyFail f.b else none

/-- The effect of a stage that succeeds. Firmware chooses the fields of context 0 (R343), so that they come with the event. -/
def stageDone (s : State) (flights absent : List Nat) (dimms : List (List Nat)) (width rate : Nat) (image : List Byte) : State :=
  match s.mgmt.stage with
  | 1 => { s with mgmt := { s.mgmt with flash := { s.mgmt.flash with runsB := (copyFail s.mgmt.flash.a).isSome } } }
  | 3 => { s with mgmt := { s.mgmt with dimms := dimms } }
  | 4 => { s with vtime := 0 }
  | 5 => { s with protos := bootTables, ctxs := tset s.ctxs 0 { ctxParse image with tenant := none, conf := false, mgr := false } }
  | 6 => { s with fab := { s.fab with flights := flights, absent := absent } }
  | 7 => linkUp s width rate
  | _ => s

/-- The next stage, or READY after stage 8. -/
def stageNext (s : State) : State :=
  if s.mgmt.stage = 8 then { s with mgmt := { s.mgmt with ready := true } } else { s with mgmt := { s.mgmt with stage := s.mgmt.stage + 1 } }

/-- FAIL takes a code. -/
def setFail (s : State) (n : Nat) : State := { s with mgmt := { s.mgmt with fail := n } }

/-- Does boot halt there. -/
def haltBoot (s : State) : State := { s with mgmt := { s.mgmt with bootHalt := true } }

/-- A stage that fails with a code that the table gives it: it halts, or goes on without the unit, or waits for a retry. -/
def stageFails (s : State) (code : Nat) : Option State :=
  match s.mgmt.stage, code with
  | 1, 1 | 1, 2 => if firmwareFail s.mgmt.flash = some code then some (haltBoot (setFail s code)) else none
  | 2, 3 | 2, 5 => some (haltBoot (setFail s code))
  | 3, 4 => some (stageNext (setFail { s with mgmt := { s.mgmt with dimms := [] } } 4))
  | 6, 6 => some (stageNext (setFail { s with fab := { s.fab with absent := List.range Config.fibres } } 6))
  | 7, 7 => some (setFail s 7)
  | _, _ => none

/-- Does what a stage found make it a failure: firmware that does not verify, a DIMM population that R419 does not accept, no fibre with light (R420),
a link of no mode (R417)? -/
def measuredFail (s : State) (absent : List Nat) (dimms : List (List Nat)) (width rate : Nat) : Option Nat :=
  if s.mgmt.stage = 1 then firmwareFail s.mgmt.flash
  else if s.mgmt.stage = 3 ∧ dimmsOk dimms = false then some 4
  else if s.mgmt.stage = 6 ∧ (List.range Config.fibres).all (fun f => absent.contains f) = true then some 6
  else if s.mgmt.stage = 7 ∧ linkOk width rate = false then some 7
  else none

/-- BOOT_STAGE_COMPLETE (R422): the stage in progress ends. -/
def bootStageCompleteEvent (r : BootResult) (s : State) : Option State :=
  if s.mgmt.powered && !s.mgmt.bootHalt && !s.mgmt.ready then
    let code : Option Nat := match r with | .ok _ absent dimms width rate _ => measuredFail s absent dimms width rate | .fail n => some n
    match code, r with
    | none, .ok flights absent dimms width rate image => some (stageNext (stageDone s flights absent dimms width rate image))
    | none, .fail _ => none
    | some n, _ => match stageFails s n with
      | some t => some t
      | none => none
  else none

/-- The meaning: the event, or nothing where it does not occur. -/
def execBootStageComplete (r : BootResult) (s : State) : Host.Outcome State Fault Refusal := happen s (bootStageCompleteEvent r s)

/-- LINK_TRAIN_RETRY (R422): stage 7 trains the link again. -/
def linkTrainRetryEvent (width : Nat) (rate : Nat) (s : State) : Option State :=
  if s.mgmt.stage = 7 ∧ s.mgmt.powered = true ∧ s.mgmt.bootHalt = false then
    some (if linkOk width rate then stageNext (linkUp s width rate) else setFail s 7)
  else none

/-- The meaning: the event, or nothing where it does not occur. -/
def execLinkTrainRetry (width : Nat) (rate : Nat) (s : State) : Host.Outcome State Fault Refusal := happen s (linkTrainRetryEvent width rate s)

end Sys2Proof.Machine
end

