-- ==== Sys2Proof/Machine/Control.lean ====
section
/-! DEFINITION. Branches, calls, EXIT and RECALL (spec/12_control_instructions.md R320 to R329; 11_divergence.md R297 to R303,
OP 0x60 to 0x69), and the events of ejection, return, recall and the fairness timer (R302 to R311). -/

namespace Sys2Proof.Machine

open Sys2Proof

/-- A near target: PC + 8 × offset (R322). -/
def nearTarget (pc : Word) (bits off : Nat) : Word := pc + BitVec.ofInt 64 (8 * signedOf bits off)

/-- What is wrong with a target that is taken (R322). -/
def targetCause (t : Word) (absolute : Bool) : Option Cause :=
  if absolute && t.toNat % 8 != 0 then some .align else if !canonical t then some .xlat else none

/-- Takes a branch whose target has been formed, with its register writes. -/
def takeBranch (s : State) (v : View) (h : Hdr) (t : Word) (absolute : Bool) (ws : List RegWrite) : State :=
  match targetCause t absolute with
  | some c => takeTrap s v { cause := c, lanes := v.trapLanes h, addr := t }
  | none => finishAt s v t ws 0 []

/-- BRA and BRA.far (R323). -/
def branchAll (s : State) (h : Hdr) (size : Nat) (target : View → Word) (absolute : Bool) : Host.Outcome State Fault Refusal :=
  if h.u then groupWide s h size (fun v => takeBranch s v h (target v) absolute [])
  else withView s (fun v =>
    let t := maskOf (v.active h)
    if t = v.mask then takeBranch s v h (target v) absolute []
    else if t = 0 then skip s v size
    else illegal s v)

/-- The offset of BRA and CALL: 23 bits of C and MOD. -/
def nearOffset (h : Hdr) (lo : BitVec 15) : Nat := h.c.toNat * 2 ^ 15 + lo.toNat

/-- The meaning of BRA. -/
def execBra (h : Hdr) (lo : BitVec 15) (s : State) : Host.Outcome State Fault Refusal :=
  branchAll s h 8 (fun v => nearTarget v.r.pc 23 (nearOffset h lo)) false

/-- The meaning of BRA.far. -/
def execBraFar (h : Hdr) (x : Word) (s : State) : Host.Outcome State Fault Refusal := branchAll s h 16 (fun _ => x) true

/-- A split of the group's path (R297, R301): an ejection, or two entries pushed. -/
def splitPath (s : State) (v : View) (target rejoin : Word) (t f : Mask) (live : Nat) : State :=
  let mino := if laneCount t ≤ laneCount f then t else f
  let put := fun (x : Group → Group) => (skip s v 8).mapGroup v.ag.blk v.ag.grp x
  if mayEject s v mino live then
    match liveEntry s v live with
    | .inl .ill => illegal s v
    | .inl c => takeTrap s v { cause := c, lanes := v.mask, addr := v.pkt.live + BitVec.ofNat 64 (64 * live) }
    | .inr (out, back) =>
      match targetCause target false with
      | some c => takeTrap s v { cause := c, lanes := t, addr := target }
      | none => put (fun g => ejectSplit g (freeThreads s v.core) rejoin target (v.r.pc + 8) t f out back)
  else if v.g.freeEntries < 2 then illegal s v
  else
    match targetCause target false with
    | some c => takeTrap s v { cause := c, lanes := t, addr := target }
    | none => put (fun g => pushSplit g rejoin target (v.r.pc + 8) t f)

/-- The meaning of BRX (R297, R303, R324). -/
def execBrx (h : Hdr) (live : BitVec 10) (s : State) : Host.Outcome State Fault Refusal :=
  withView s (fun v =>
    let target := nearTarget v.r.pc 16 (h.d.toNat * 256 + h.a.toNat)
    let rejoin := nearTarget v.r.pc 16 (h.b.toNat * 256 + h.c.toNat)
    let t := maskOf (v.active h)
    let f := v.mask &&& ~~~t
    if t = 0 then skip s v 8
    else if f = 0 then takeBranch s v h target false []
    else splitPath s v target rejoin t f live.toNat)

/-- The meaning of JOIN (R298, R300, R325). -/
def execJoin (_h : Hdr) (s : State) : Host.Outcome State Fault Refusal :=
  withView s (fun v =>
    match v.th with
    | some t => if v.r.pc = t.rejoin then s.setRun v.ag .returning else skip s v 8
    | none =>
      if v.r.pc = v.r.rpc then
        let s1 := (skip s v 8).mapGroup v.ag.blk v.ag.grp (fun g =>
          { g with noEj := g.noEj.filter (fun x => !(v.mask.getLsbD x.1 && x.2 == v.r.pc)) })
        takePath s1 v.ag.blk v.ag.grp
      else skip s v 8)

/-- The meaning of CALL (R326). -/
def execCall (h : Hdr) (lo : BitVec 15) (s : State) : Host.Outcome State Fault Refusal :=
  groupWide s h 8 (fun v => takeBranch s v h (nearTarget v.r.pc 23 (nearOffset h lo)) false [.k h.d.toNat (v.r.pc + 8)])

/-- The meaning of CALL.far (R326). -/
def execCallFar (h : Hdr) (x : Word) (s : State) : Host.Outcome State Fault Refusal :=
  groupWide s h 16 (fun v => takeBranch s v h x true [.k h.d.toNat (v.r.pc + 16)])

/-- The meaning of RET (R326). -/
def execRet (h : Hdr) (s : State) : Host.Outcome State Fault Refusal :=
  groupWide s h 8 (fun v => takeBranch s v h (v.r.kget h.a.toNat) true [])

/-- The meaning of JMPI (R326). -/
def execJmpi (h : Hdr) (s : State) : Host.Outcome State Fault Refusal :=
  groupWide s h 8 (fun v => takeBranch s v h (v.r.kget h.a.toNat) true [])

/-! ### EXIT and RECALL (R328, R329) -/

/-- Step 1 of EXIT: the lanes of the path leave every entry (R299), and the path that a handler has saved (DEDUCED, log 23). -/
def exitLanes (g : Group) (m : Mask) : Group :=
  { g with stack := dropLanes g.stack m, r := { g.r with mask := 0 }, noEj := g.noEj.filter (fun x => !m.getLsbD x.1),
           resv := g.resv.filter (fun x => !m.getLsbD x.lane),
           handler := g.handler.map (fun (x : Handler) => { x with mask := x.mask &&& ~~~ m }) }

/-- Steps 1 and 2 of the last path's EXIT: no lane is left, barrier counts fall and armed guards resolve false. -/
def exitLast (s : State) (v : View) : State :=
  let s1 := s.mapGroup v.ag.blk v.ag.grp (fun g => { exitLanes g v.mask with stack := [], exited := true })
  resolveAll (exitBarriers s1 v.ag.blk v.ag.grp) v.core v.ag.blk v.ag.grp

/-- Does the group wait for its engines, or for remote accesses that are not answered (R328)? -/
def exitWaits (s : State) (v : View) : Bool :=
  enginesBusy s v.core v.ag.blk v.ag.grp || s.fab.recs.any (fun r => r.ag.blk == v.ag.blk && r.ag.grp == v.ag.grp)

/-- Steps 3 to 5 of the last path's EXIT. Of several failed batches the one noted first is reported first (DESIGN CHOICE, log 26: R150 does not say). -/
def exitFinish (s : State) (v : View) : State :=
  if exitWaits s v then stall s v .engines
  else
    match s.group? v.ag.blk v.ag.grp with
    | none => s
    | some g =>
      match g.bfails, g.remHeld with
      | f :: _, _ => reportBatch s v f 0
      | [], r :: _ => raiseRemHeld s v r
      | [], [] => takePath (skip s v 8) v.ag.blk v.ag.grp

/-- The meaning of EXIT (R328). The last path waits first for its deferred arrivals, which it has made. -/
def execExit (h : Hdr) (s : State) : Host.Outcome State Fault Refusal :=
  groupWide s h 8 (fun v =>
    if anyLeft (dropLanes v.g.stack v.mask) then
      takePath ((skip s v 8).mapGroup v.ag.blk v.ag.grp (fun g => exitLanes g v.mask)) v.ag.blk v.ag.grp
    else if v.mask = 0 then exitFinish s v
    else if !v.g.barQ.isEmpty || !v.g.tbQ.isEmpty || !v.g.trigQ.isEmpty then stall s v .engines
    else exitFinish (exitLast s v) v)

/-- The meaning of RECALL (R329): every lane out comes home; the group waits for those with an answer outstanding. -/
def execRecall (h : Hdr) (s : State) : Host.Outcome State Fault Refusal :=
  groupWide s h 8 (fun v =>
    let s1 := s.mapGroup v.ag.blk v.ag.grp (fun g => recallAll g (BitVec.allOnes 64))
    match s1.group? v.ag.blk v.ag.grp with
    | none => s1
    | some g => if g.threads.isEmpty then skip s1 v 8 else stall s1 v .recall)

/-! ### Events of threads and paths -/

/-- An event of a thread: it occurs when the lane is out and in the given state. -/
def threadEvent (s : State) (ag : AgentRef) (ok : Group → Thread → Bool) (f : Group → Thread → Group) :
    Option State :=
  match s.group? ag.blk ag.grp with
  | none => none
  | some g =>
    match ag.lane.bind g.thread? with
    | none => none
    | some t => if ok g t then some (s.mapGroup ag.blk ag.grp (fun g => f g t)) else none

/-- SCRUPLE_THREAD_START (R302): the lane begins after its hand-over. -/
def scrupleThreadStartEvent (ag : AgentRef) (s : State) : Option State :=
  threadEvent s ag (fun _ t => t.run == .starting) (fun g t => g.setThread { t with run := .ready })

/-- The meaning: the event, or nothing where it does not occur. -/
def execScrupleThreadStart (ag : AgentRef) (s : State) : Host.Outcome State Fault Refusal := happen s (scrupleThreadStartEvent ag s)

/-- LANE_RETURN_COMPLETE (R305). -/
def laneReturnCompleteEvent (ag : AgentRef) (s : State) : Option State :=
  threadEvent s ag (fun _ t => t.run == .returning) returnLane

/-- The meaning: the event, or nothing where it does not occur. -/
def execLaneReturnComplete (ag : AgentRef) (s : State) : Host.Outcome State Fault Refusal := happen s (laneReturnCompleteEvent ag s)

/-- LANE_RECALL_COMPLETE (R307): not before an answer that the lane awaits, nor while a debugger holds the group (R308, R391), whose RECALL
completes first (R321). -/
def laneRecallCompleteEvent (ag : AgentRef) (s : State) : Option State :=
  threadEvent s ag (fun g t => t.run == .recalling && t.settledDown && (!g.halted || g.completing)) recallLane

/-- The meaning: the event, or nothing where it does not occur. -/
def execLaneRecallComplete (ag : AgentRef) (s : State) : Host.Outcome State Fault Refusal := happen s (laneRecallCompleteEvent ag s)

/-- The rejoin timeout of a context (R305, R343): 0 selects the default. -/
def rejoinLimit (s : State) (ctx : Nat) : Nat := match (tget s.ctxs ctx).map (fun c => c.rjt) with | some 0 => Config.rjtDefault | some n => n | none => Config.rjtDefault

/-- Has the rejoin count of a group run out? -/
def rejoinDue (s : State) (bl : Block) (g : Group) : Bool :=
  match g.run with
  | .parkedJoin n => decide (rejoinLimit s bl.ctx ≤ n) && !g.halted && bl.res == .resident
  | _ => false

/-- REJOIN_TIMEOUT (R305): the lanes still out under the entry at which the group parked are recalled. -/
def rejoinTimeoutEvent (b : Nat) (g : Nat) (s : State) : Option State :=
  match tget s.blocks b, s.group? b g with
  | some bl, some x =>
    if rejoinDue s bl x then
      some (s.mapGroup b g (fun x => { recallAll { x with run := .parkedJoin 0 } ((x.stack.head?.map (fun e => e.ej)).getD 0) with rejoins := x.rejoins + 1 }))
    else none
  | _, _ => none

/-- The meaning: the event, or nothing where it does not occur. -/
def execRejoinTimeout (b : Nat) (g : Nat) (s : State) : Host.Outcome State Fault Refusal := happen s (rejoinTimeoutEvent b g s)

/-- Is an entry the pending entry of a sibling of the current path (R310)? -/
def Group.sibling (g : Group) (e : StackEntry) : Bool := !e.kd && e.rpc == g.r.rpc

/-- Is the fairness count of a group full, with no reservation that still defers a rotation (R310, R311)? -/
def fairnessDue (g : Group) : Bool :=
  g.run == .ready && !((g.focus.bind (fun f => f.catchUp)).isSome) && decide (Config.fairness ≤ g.fair) &&
  (!(g.stack.head?.any g.sibling) || !(g.resv.any (fun r => g.r.mask.getLsbD r.lane)) || decide (Config.fairnessDefer ≤ g.defer))

/-- A rotation to the sibling path on top, or the count at zero (R310). -/
def rotate (g : Group) : Group :=
  match g.stack with
  | e :: rest =>
    if g.sibling e then
      let out : StackEntry := { ej := 0, rpc := g.r.rpc, mask := g.r.mask, pc := g.r.pc, kd := false, recalled := false }
      { g with stack := out :: rest, r := { g.r with pc := e.pc, mask := e.mask, rpc := e.rpc }, fair := 0, defer := 0,
               resv := g.resv.filter (fun r => !g.r.mask.getLsbD r.lane) }
    else { g with fair := 0, defer := 0 }
  | [] => { g with fair := 0, defer := 0 }

/-- FAIRNESS_ROTATION (R310). -/
def fairnessRotationEvent (b : Nat) (g : Nat) (s : State) : Option State :=
  match s.group? b g with
  | some x => if fairnessDue x then some (s.mapGroup b g rotate) else none
  | none => none

/-- The meaning: the event, or nothing where it does not occur. -/
def execFairnessRotation (b : Nat) (g : Nat) (s : State) : Host.Outcome State Fault Refusal := happen s (fairnessRotationEvent b g s)

end Sys2Proof.Machine
end

