-- ==== Sys2Proof/Machine/Exchange.lean ====
section
/-! DEFINITION. Exchange instructions (spec/04_arithmetic_instructions.md R125 to R130, OP 0x50 to 0x56): lane form only;
an ejected lane is recalled before it executes one (R97). -/

namespace Sys2Proof.Machine

open Sys2Proof

/-- The value of a register of lane `l` at the width of a type. -/
def xValue (r : Regs) (ty : XTy) (l : Nat) (n : BitVec 8) : Nat := readReg r (some l) n ty.wide

/-- The lane count b of an exchange instruction (R127). -/
def xCount (r : Regs) (h : Hdr) (m : XMod) (l : Nat) : Nat := if m.bk then readK r h.b false else (r.vget l h.b.toNat).toNat

/-- The source lane of SHFL; none where it lies outside the segment (R127). -/
def shflSource (opk seg l b : Nat) : Option Nat :=
  let n := 2 ^ seg
  let base := l - l % n
  match opk with
  | 0 => some (base + b % n)
  | 1 => if b ≤ l - base then some (l - b) else none
  | 2 => if l + b < base + n then some (l + b) else none
  | 3 => some (base + ((l - base) ^^^ (b % n)))
  | 4 => some (base + (l - base + b) % n)
  | _ => some (base + n - 1 - (l - base))

/-- The writes of a lane-to-lane move: every active lane with a source takes its value. -/
def moveLanes (v : View) (h : Hdr) (ty : XTy) (src : Nat → Option Nat) : List RegWrite :=
  (v.active h).flatMap (fun l => match src l with | none => [] | some k => writeReg (some l) h.d ty.wide false (xValue v.r ty k h.a))

/-- Register bounds of an exchange instruction (R35). -/
def View.xWithin (v : View) (h : Hdr) (m : XMod) (useB : Bool) (d : Nat) : Bool :=
  v.within false ([(h.d, d), (h.a, span m.ty.wide)] ++ (if useB && !m.bk then [(h.b, 1)] else []))

/-- The meaning of SHFL (R126, R127). -/
def execShfl (h : Hdr) (m : XMod) (s : State) : Host.Outcome State Fault Refusal :=
  collective s (fun v =>
    if !v.xWithin h m (m.opk != 5) (span m.ty.wide) then illegal s v
    else finishLong s v h (moveLanes v h m.ty (fun l => shflSource m.opk.toNat m.seg.toNat l (xCount v.r h m l))) 0)

/-- The meaning of QXCH: the horizontal, vertical or diagonal lane of the quad. -/
def execQxch (h : Hdr) (m : XMod) (s : State) : Host.Outcome State Fault Refusal :=
  collective s (fun v =>
    if !v.xWithin h m false (span m.ty.wide) then illegal s v
    else finish s v 8 (moveLanes v h m.ty (fun l => some (l ^^^ (m.opk.toNat + 1)))) 0)

/-- The meaning of QBCAST. -/
def execQbcast (h : Hdr) (m : XMod) (s : State) : Host.Outcome State Fault Refusal :=
  collective s (fun v =>
    if !v.xWithin h m true (span m.ty.wide) then illegal s v
    else finish s v 8 (moveLanes v h m.ty (fun l => some (4 * (l / 4) + xCount v.r h m l % 4))) 0)

/-- The result of a vote over the active lanes and those whose predicate is true (R128). -/
def voteWrite (opk : Nat) (d : BitVec 8) (act yes : List Nat) : RegWrite :=
  match opk with
  | 0 => .q d.toNat (yes.length == act.length)
  | 1 => .q d.toNat (!yes.isEmpty)
  | 2 => .q d.toNat (yes.isEmpty || yes.length == act.length)
  | 3 => .k d.toNat (maskOf yes)
  | 4 => .k d.toNat (BitVec.ofNat 64 yes.length)
  | _ => .k d.toNat (BitVec.ofNat 64 (yes.headD 64))

/-- The meaning of VOTE (R128). -/
def execVote (h : Hdr) (m : XMod) (s : State) : Host.Outcome State Fault Refusal :=
  collective s (fun v =>
    let act := v.active h
    finish s v 8 [voteWrite m.opk.toNat h.d act (act.filter (fun l => h.a = 7 || v.r.pget l h.a.toNat))] 0)

/-- The meaning of MATCH (R129). -/
def execMatchLanes (h : Hdr) (m : XMod) (s : State) : Host.Outcome State Fault Refusal :=
  collective s (fun v =>
    if !v.xWithin h m false (if m.opk = 0 then 2 else 1) then illegal s v
    else
      let act := v.active h
      let ws := act.flatMap (fun l =>
        let mates := act.filter (fun k => k / 2 ^ m.seg.toNat == l / 2 ^ m.seg.toNat)
        let eq := mates.filter (fun k => xValue v.r m.ty k h.a == xValue v.r m.ty l h.a)
        match m.opk.toNat with
        | 0 => writeReg (some l) h.d true false (maskOf eq).toNat
        | 1 => writeReg (some l) h.d false false (eq.headD l)
        | 2 => writeReg (some l) h.d false false eq.length
        | _ => writeReg (some l) h.d false false (if eq.length = mates.length then 1 else 0))
      finishLong s v h ws 0)

/-! ### REDUX and SCAN (R130) -/

/-- Is it a floating-point exchange type? -/
def xFloat : XTy → Bool
  | .f32 | .f64 => true
  | _ => false

/-- Signed exchange types. -/
def xSigned : XTy → Bool
  | .i32 | .i64 => true
  | _ => false

/-- Width of an exchange type. -/
def xWidth (t : XTy) : Nat := if t.wide then 64 else 32

/-- The format of a floating-point exchange type. -/
def xFormat : XTy → FFmt
  | .f64 => f64F
  | _ => f32F

/-- The identity of a combination (R130). -/
def redIdentity (ty : XTy) (opk : Nat) : Nat :=
  let f := (xFormat ty)
  match opk with
  | 0 => if xFloat ty then f.signBit else 0
  | 1 => if xFloat ty then f.infBits else if xSigned ty then 2 ^ (xWidth ty - 1) - 1 else 2 ^ (xWidth ty) - 1
  | 2 => if xFloat ty then f.signBit + f.infBits else if xSigned ty then 2 ^ (xWidth ty - 1) else 0
  | 3 => 2 ^ (xWidth ty) - 1
  | _ => 0

/-- One integer combination. -/
def redInt (ty : XTy) (opk a x : Nat) : Nat :=
  let val := fun (y : Nat) => if xSigned ty then signedOf (xWidth ty) y else (y : Int)
  match opk with
  | 0 => (a + x) % 2 ^ (xWidth ty)
  | 1 => if val x < val a then x else a
  | 2 => if val a < val x then x else a
  | 3 => a &&& x
  | 4 => a ||| x
  | _ => a ^^^ x

/-- One floating-point combination with its flags. -/
def redFloat (f : FFmt) (opk a x : Nat) : Nat × Flags :=
  match opk with
  | 0 => let r := exAdd .rne (f.decode a) (f.decode x); let q := rnd f .rne false 0 r.1; (q.1, r.2 ||| q.2)
  | 1 => minMax f false a x
  | _ => minMax f true a x

/-- The first contributor as `rnd` returns it; R130 gives a zero no sign, so a −0 is +0 (R77; DEDUCED, log 44). -/
def redFirst (f : FFmt) (x : Nat) : Nat × Flags :=
  let e := f.decode x
  let q := rnd f .rne false 0 e.real
  (q.1, sigFlag e ||| q.2)

/-- The combination of values in ascending lane order (R130). -/
def combineAll (ty : XTy) (opk : Nat) (xs : List Nat) : Nat × Flags :=
  match xs with
  | [] => (redIdentity ty opk, 0)
  | x :: rest =>
    if xFloat ty then
      rest.foldl (fun a y => let r := redFloat (xFormat ty) opk a.1 y; (r.1, a.2 ||| r.2)) (redFirst (xFormat ty) x)
    else (rest.foldl (redInt ty opk) x, 0)

/-- The meaning of REDUX: one value to kD, widened as R95 says. -/
def execRedux (h : Hdr) (m : XMod) (s : State) : Host.Outcome State Fault Refusal :=
  collective s (fun v =>
    if !v.within false [(h.a, span m.ty.wide)] then illegal s v
    else
      let r := combineAll m.ty m.opk.toNat ((v.active h).map (fun l => xValue v.r m.ty l h.a))
      finishLong s v h (writeReg none h.d m.ty.wide (xSigned m.ty) r.1) r.2)

/-- The meaning of SCAN: the lanes of the segment before each lane, itself too under `.inc`. -/
def execScan (h : Hdr) (m : XMod) (s : State) : Host.Outcome State Fault Refusal :=
  collective s (fun v =>
    if !v.xWithin h m false (span m.ty.wide) then illegal s v
    else
      let act := v.active h
      let rs := act.map (fun l =>
        let before := act.filter (fun k => k / 2 ^ m.seg.toNat == l / 2 ^ m.seg.toNat && (decide (k < l) || (m.inc && k == l)))
        let r := combineAll m.ty m.opk.toNat (before.map (fun k => xValue v.r m.ty k h.a))
        (writeReg (some l) h.d m.ty.wide false r.1, r.2))
      finishLong s v h (rs.flatMap Prod.fst) (flagsAll (rs.map Prod.snd)))

end Sys2Proof.Machine
end

