-- ==== Sys2Proof/Machine/Fibre.lean ====
section
/-! DEFINITION. The fibres of the fabric port (spec/09_fabric.md R252 to R261): the schedule, credit, link acknowledgement, the choice of
the next flit, relaying and trimming, and the events of slots, fibres and arriving flits. What stands beside the flit format is in log 11. -/

namespace Sys2Proof.Machine

open Sys2Proof

/-! ### The schedule (R252, R253) -/

/-- A write of FSCHED: each field by its rule. -/
def Fabric.setFsched (f : Fabric) (x : Word) : Fabric :=
  let len := bitsOf x.toNat 47 32
  { f with trimth := max 64 (bitsOf x.toNat 63 48), slotlen := if 2800 ≤ len ∧ len ≤ 28000 then len else f.slotlen, nslot := bitsOf x.toNat 5 0 }

/-- FSCHED as a register. -/
def Fabric.fsched (f : Fabric) : Word := BitVec.ofNat 64 (f.trimth % 2 ^ 16 * 2 ^ 48 + f.slotlen % 2 ^ 16 * 2 ^ 32 + f.nslot % 64)

/-- A write of a fibre field: its reserved bits are ignored, and an absent fibre keeps V = 0 (R253, R420). -/
def Fabric.setSlot (f : Fabric) (slot fib : Nat) (x : BitVec 16) : Fabric :=
  if slot < 64 ∧ fib < Config.fibres then
    { f with slots := sset f.slots (48 * slot + fib) (x &&& (if f.absent.contains fib then 0x03FF#16 else 0x83FF#16)) }
  else f

/-- A write of a route entry: bits [14:10] are not used. -/
def Fabric.setRoute (f : Fabric) (d : Nat) (x : BitVec 16) : Fabric := if d < 1024 then { f with routes := sset f.routes d (x &&& 0x83FF#16) } else f

/-- Is the port quiesced (R252)? -/
def Fabric.quiesced (f : Fabric) : Bool :=
  f.sendq.isEmpty && f.owed.isEmpty && f.relayq.isEmpty && f.rwait.isEmpty && f.recs.isEmpty && f.replay.isEmpty && f.lost.isEmpty

/-- Are a destination's ordered send queues and in-flight ordered flits empty, so that its route may change (R253)? -/
def Fabric.routeFree (f : Fabric) (d : Nat) : Bool :=
  !(f.sendq ++ f.owed ++ f.replay.flatMap (fun e => e.2)).any (fun x => x.dst == d && netOrdered x.net)

/-- FABRIC_SCHEDULE_LOAD (R252): the registers and both tables, while the port is quiesced; not on a die without power (R416). -/
def fabricScheduleLoadEvent (img : FabricImage) (s : State) : Option State :=
  if s.fab.quiesced && s.mgmt.powered then
    let f1 := { (s.fab.setFsched img.fsched) with t0 := img.fepoch.toNat, slotNow := 0, loaded := true }
    let f2 := (List.zip (List.range 64) img.slots).foldl (fun f e => (List.zip (List.range 48) e.2).foldl (fun f x => f.setSlot e.1 x.1 x.2) f) f1
    some { s with fab := (List.zip (List.range 1024) img.routes).foldl (fun f e => f.setRoute e.1 e.2) f2 }
  else none

/-- The meaning: the event, or nothing where it does not occur. -/
def execFabricScheduleLoad (img : FabricImage) (s : State) : Host.Outcome State Fault Refusal := happen s (fabricScheduleLoadEvent img s)

/-! ### Slots (R252, R258, R259) -/

/-- Is a slot due to start? -/
def slotDue (s : State) : Bool :=
  s.fab.loaded && (match s.fab.slotAt s.now with | some n => s.fab.slotNow != n + 1 | none => false)

/-- Buffer slots of fibres that stay occupied: by flits that wait for the relay buffer, and reserved for pulled payloads (R251, R261). -/
def Fabric.occupied (f : Fabric) : List (Nat × Flit) := f.rwait ++ f.pulled

/-- The counts of freed slots with which a slot starts: 512 less the occupied ones is what the first flit carries (R259). -/
def startFreed (f : Fabric) : Table Nat :=
  f.occupied.foldl (fun t e => let k := e.1 * 8 + netCode e.2.net; tset t k (((tget t k).getD 0 + 65535) % 65536)) []

/-- SLOT_START (R259): both ends of every link set their counts to zero, and every fibre may send again. -/
def slotStartEvent (s : State) : Option State :=
  match s.fab.slotAt s.now with
  | some n =>
    if slotDue s then
      some { s with fab := { s.fab with slotNow := n + 1, credit := [], freed := startFreed s.fab, dead := [], heard := [], got := [], stopped := [], ackq := [] } }
    else none
  | none => none

/-- The meaning: the event, or nothing where it does not occur. -/
def execSlotStart (s : State) : Host.Outcome State Fault Refusal := happen s (slotStartEvent s)

/-- Has the slot of the current time started? -/
def slotLive (s : State) : Bool := s.fab.loaded && (match s.fab.slotAt s.now with | some n => s.fab.slotNow == n + 1 | none => false)

/-- Must a fibre stop now (R252)? -/
def stopDue (s : State) (fib : Nat) : Bool :=
  slotLive s && decide (fib < Config.fibres) && !s.fab.stopped.contains fib && decide (s.fab.stopAt fib ≤ s.fab.slotPos s.now)

/-- Is a sequence number later than another, modulo 2^32? -/
def seqAfter (a b : Nat) : Bool := a != b && decide ((a + 2 ^ 32 - b) % 2 ^ 32 < 2 ^ 31)

/-- Are two flits of one source, destination and network? -/
def sameFlow (x y : Flit) : Bool := x.src == y.src && x.dst == y.dst && x.net == y.net

/-- Puts a flit back ahead of every later flit of its network (R258). -/
def requeue (q : List Flit) (x : Flit) : List Flit :=
  let before := q.takeWhile (fun y => !(sameFlow x y && seqAfter y.seq x.seq))
  before ++ x :: q.drop before.length

/-- The same for the relay buffer, where the flit has stood since an earlier slot. -/
def requeueRelay (q : List (Nat × Flit)) (x : Flit) : List (Nat × Flit) :=
  let before := q.takeWhile (fun e => !(sameFlow x e.2 && seqAfter e.2.seq x.seq))
  before ++ (0, x) :: q.drop before.length

/-- FIBRE_STOP (R258): flits that are not link-acknowledged go back to their queues, ahead of every later flit. -/
def fibreStopEvent (f : Nat) (s : State) : Option State :=
  if stopDue s f then
    let back := fibreList s.fab.replay f
    some { s with fab := { s.fab with
      sendq := (back.filter (fun x => x.src == s.mgmt.device)).foldl requeue s.fab.sendq,
      relayq := (back.filter (fun x => x.src != s.mgmt.device)).foldl requeueRelay s.fab.relayq,
      replay := terase s.fab.replay f, lost := terase s.fab.lost f, stopped := s.fab.stopped ++ [f] } }
  else none

/-- The meaning: the event, or nothing where it does not occur. -/
def execFibreStop (f : Nat) (s : State) : Host.Outcome State Fault Refusal := happen s (fibreStopEvent f s)

/-! ### The next flit (R254, R255) -/

/-- Credit of a fibre on a network: the latest count less the flits sent (R259). -/
def hasCredit (f : Fabric) (fib : Nat) (n : Net) : Bool :=
  let c := (tget f.credit (fib * 8 + netCode n)).getD (0, 0)
  decide (0 < (c.1 + 65536 - c.2 % 65536) % 65536)

/-- Does a peer lie on some live fibre of the slot in progress? -/
def Fabric.directNow (f : Fabric) (t p : Nat) : Bool := (List.range Config.fibres).any (fun fib => f.livePeer t fib == some p)

/-- Is a flit the first of its destination and network in the send queue? -/
def firstOf (f : Fabric) (x : Flit) : Bool := f.sendq.find? (fun y => y.dst == x.dst && y.net == x.net) == some x

/-- A REL release marker leaves only after every earlier REL flit to its destination has been acknowledged end to end (R254). -/
def markerReady (f : Fabric) (x : Flit) : Bool := !x.mark || !f.recs.any (fun r => r.flit.net == .dom .rel && r.peer == x.dst && decide (r.id < x.req))

/-- May an own flit go to this peer now: on its fixed path, direct, or through a relay when nothing reaches it directly (R254; that a flit waits for no
relay while its destination is reached is DESIGN CHOICE, log 11)? -/
def mayGo (f : Fabric) (t : Nat) (x : Flit) (p : Nat) : Bool :=
  if netOrdered x.net then firstOf f x && (match f.relay x.dst with | some r => r == p | none => x.dst == p)
  else if x.net == Net.fwd then x.dst == p && firstOf f x
  else if x.dst == p then markerReady f x
  else netAnyRelay x.net && !f.directNow t x.dst && markerReady f x && x.opc != FOp.resend

/-- Where the chosen flit lay. -/
inductive FlitPlace where
  | lost | relay | own
deriving DecidableEq, Repr

/-- The first flit of the relay buffer for a peer that came in an earlier slot (R254). -/
def relayFlit (f : Fabric) (p : Nat) (ok : Flit → Bool) : Option (FlitPlace × Flit) :=
  (f.relayq.find? (fun e => e.2.dst == p && decide (e.1 < f.slotNow) && ok e.2)).map (fun e => (.relay, e.2))

/-- The first flit of a network for a peer: the relay buffer's before the device's own (R255). -/
def netFlit (f : Fabric) (t fib p : Nat) (n : Net) : Option (FlitPlace × Flit) :=
  if !hasCredit f fib n then none
  else match relayFlit f p (fun x => x.net == n && !x.hp) with
    | some x => some x
    | none => (f.sendq.find? (fun x => x.net == n && mayGo f t x p)).map (fun x => (.own, x))

/-- The rank-0 networks in rotation from a place (R255). -/
def rank0 (k : Nat) : List (Nat × Net) :=
  let l : List (Nat × Net) := [(0, .dom .seq), (1, .dom .tso), (2, .dom .cau), (3, .dom .rel), (4, .dom .bulk)]
  l.drop (k % 5) ++ l.take (k % 5)

/-- The flit that a fibre sends next, with the rotation after it; none is an idle flit (R255). -/
def nextFlit (f : Fabric) (t fib p : Nat) : Option (FlitPlace × Flit × Nat) :=
  let k := (tget f.rr fib).getD 0
  match fibreList f.lost fib with
  | x :: _ => some (.lost, x, k)
  | [] =>
    match netFlit f t fib p .rsp with
    | some (w, x) => some (w, x, k)
    | none =>
      match netFlit f t fib p .fwd with
      | some (w, x) => some (w, x, k)
      | none =>
        match relayFlit f p (fun x => x.hp && hasCredit f fib x.net) with
        | some (w, x) => some (w, x, k)
        | none => (rank0 k).findSome? (fun e => (netFlit f t fib p e.2).map (fun r => (r.1, r.2, (e.1 + 1) % 5)))

/-- The counts that a fibre's flit carries back: the buffer slots free at the start of the slot and those freed in it (R259). -/
def creditCounts (f : Fabric) (fib : Nat) : List Nat := (List.range 7).map (fun n => (512 + (tget f.freed (fib * 8 + n)).getD 0) % 65536)

/-- A flit as it goes on the fibre: with the latest counts, the acknowledgements owed, and its CRC. -/
def onWire (f : Fabric) (fib : Nat) (x : Flit) : Flit := sealFlit { x with cr := creditCounts f fib, acks := fibreList f.ackq fib }

/-- May a fibre send now? -/
def fibreLive (s : State) (fib : Nat) : Bool :=
  slotLive s && decide (fib < Config.fibres) && (s.fab.livePeer s.now fib).isSome && !s.fab.stopped.contains fib && !stopDue s fib

/-- A buffer slot of a fibre is freed (R259). -/
def freeSlot (f : Fabric) (fib : Nat) (n : Net) : Fabric :=
  let k := fib * 8 + netCode n
  { f with freed := tset f.freed k (((tget f.freed k).getD 0 + 1) % 65536) }

/-- Bytes of the relay buffer that a network's flits take. -/
def relayBytes (f : Fabric) (n : Nat) : Nat := ((f.relayq.filter (fun e => netCode e.2.net == n)).map (fun e => flitSize e.2)).sum

/-- Is there room in the relay buffer: 1 MiB for each network, and 25 MiB that all share (R251)? -/
def relayRoom (f : Fabric) (x : Flit) : Bool :=
  let used := fun (n : Nat) => relayBytes f n + (if n = netCode x.net then flitSize x else 0)
  decide (((List.range 7).map (fun n => used n - 2 ^ 20)).sum ≤ 25 * 2 ^ 20)

/-- Flits that wait in the receive buffer go to the relay buffer as it has room, those of a network in order (R251, R258). -/
def relayPump (f : Fabric) : Fabric :=
  f.rwait.foldl (fun f e =>
    if relayRoom f e.2 && !f.rwait.any (fun y => y.2.net == e.2.net) then freeSlot { f with relayq := f.relayq ++ [(f.slotNow, e.2)] } e.1 e.2.net
    else { f with rwait := f.rwait ++ [e] }) { f with rwait := [] }

/-- The port after a flit has gone: a replay moves to the end of the replay buffer, any other leaves its queue and takes a credit (R258, R259). -/
def afterSend (f : Fabric) (fib rr : Nat) (place : FlitPlace) (x : Flit) : Fabric :=
  let k := fib * 8 + netCode x.net
  let c := (tget f.credit k).getD (0, 0)
  let f1 := { f with wire := tset f.wire fib (onWire f fib x), ackq := terase f.ackq fib, rr := tset f.rr fib rr,
                     replay := tset f.replay fib ((fibreList f.replay fib).erase x ++ [x]) }
  match place with
  | .lost => let l := (fibreList f.lost fib).drop 1; { f1 with lost := if l.isEmpty then terase f.lost fib else tset f.lost fib l }
  | .relay => relayPump { f1 with relayq := f.relayq.eraseP (fun e => e.2 == x), credit := tset f.credit k (c.1, (c.2 + 1) % 65536) }
  | .own => { f1 with sendq := f.sendq.erase x, credit := tset f.credit k (c.1, (c.2 + 1) % 65536) }

/-- FIBRE_FLIT_SEND (R255): a replay, or the next flit by rank, or an idle flit. -/
def fibreFlitSendEvent (f : Nat) (s : State) : Option State :=
  match s.fab.livePeer s.now f with
  | none => none
  | some p =>
    if fibreLive s f then
      match nextFlit s.fab s.now f p with
      | none =>
        let idle := flitTo s p .idle .idle (0, Ptr.none) 0 0 0 0 [] false
        some { s with fab := { s.fab with wire := tset s.fab.wire f (onWire s.fab f idle), ackq := terase s.fab.ackq f } }
      | some (place, x, rr) => some (pumpOwed { s with fab := afterSend s.fab f rr place x })
    else none

/-- The meaning: the event, or nothing where it does not occur. -/
def execFibreFlitSend (f : Nat) (s : State) : Host.Outcome State Fault Refusal := happen s (fibreFlitSendEvent f s)

/-! ### Arrival (R253, R256, R258, R259, R261) -/

/-- What names a flit on a link: source, destination and network, and its sequence number. -/
def flitKey (x : Flit) : Nat × Nat := (seqKey x.src x.dst x.net, x.seq)

/-- Link acknowledgements that a flit carries: acknowledged flits leave the replay buffer, and those sent before an acknowledged
one, without acknowledgement, are lost and are sent again (R258). -/
def takeAcks (f : Fabric) (fib : Nat) (acks : List (Nat × Nat)) : Fabric :=
  let buf := fibreList f.replay fib
  let isAck := fun (x : Flit) => acks.contains (flitKey x)
  let lastAck := (buf.reverse.dropWhile (fun x => !isAck x)).length
  let keep := buf.filter (fun x => !isAck x)
  let lostNow := (buf.take lastAck).filter (fun x => !isAck x && !((fibreList f.lost fib).contains x))
  let put := fun (t : Table (List Flit)) (l : List Flit) => if l.isEmpty then terase t fib else tset t fib l
  { f with replay := put f.replay keep, lost := put f.lost ((fibreList f.lost fib).filter (fun x => !isAck x) ++ lostNow) }

/-- Does a network keep the order of its sequence numbers at the receiver (R258)? -/
def seqOrdered (n : Net) : Bool := netOrdered n || n == Net.fwd

/-- Does a receiver accept a flit's sequence number: the next of an ordered network, any not seen before of the others (R258)? -/
def seqOk (f : Fabric) (x : Flit) : Bool :=
  let l := fibreList f.rxseq (seqKey x.src x.dst x.net)
  if seqOrdered x.net then l.headD 0 == x.seq else !l.contains x.seq

/-- Has a receiver accepted a flit of this sequence number before? A later flit of an ordered network is discarded without acknowledgement, so
that its sender keeps it (R258). -/
def seqOld (f : Fabric) (x : Flit) : Bool :=
  let l := fibreList f.rxseq (seqKey x.src x.dst x.net)
  if seqOrdered x.net then seqAfter (l.headD 0) x.seq else l.contains x.seq

/-- The record of sequence numbers after an accepted flit. -/
def seqTake (f : Fabric) (x : Flit) : Fabric :=
  let k := seqKey x.src x.dst x.net
  let l := fibreList f.rxseq k
  { f with rxseq := tset f.rxseq k (if seqOrdered x.net then [(x.seq + 1) % 2 ^ 32] else l ++ [x.seq]) }

/-- Credit counts that a flit carries (R259). -/
def takeCredit (f : Fabric) (fib : Nat) (x : Flit) : Fabric :=
  { f with credit := (List.zip (List.range 7) x.cr).foldl (fun t e =>
      let c := (tget t (fib * 8 + e.1)).getD (0, 0)
      tset t (fib * 8 + e.1) (e.2 % 65536, c.2)) f.credit }

/-- A flit will be acknowledged on the link. -/
def oweAck (f : Fabric) (fib : Nat) (x : Flit) : Fabric := { f with ackq := tset f.ackq fib (fibreList f.ackq fib ++ [flitKey x]) }

/-- Has this link brought the flit before in this slot, so that its sender counted it once (R259)? -/
def gotHere (f : Fabric) (fib : Nat) (x : Flit) : Bool := (fibreList f.got fib).contains (flitKey x)

/-- Notes that the link has brought a flit. -/
def noteGot (f : Fabric) (fib : Nat) (x : Flit) : Fabric := { f with got := tset f.got fib (fibreList f.got fib ++ [flitKey x]) }

/-- A flit seen before: acknowledged again; its buffer slot is freed, unless it is a replay on the same link, which its sender did not count
(R258, R259). -/
def dropOld (f : Fabric) (fib : Nat) (x : Flit) : Fabric :=
  let f1 := oweAck f fib x
  if gotHere f fib x then f1 else freeSlot (noteGot f1 fib x) fib x.net

/-- A relay takes a flit for a later slot, trimmed when its next-hop queue is long (R261); without room in the relay buffer it stays in its buffer
slot. -/
def relayTake (f : Fabric) (fib : Nat) (x : Flit) : Fabric :=
  let queued := (f.relayq.filter (fun e => e.2.dst == x.dst)).length
  let y : Flit := if keptNet x.net && !x.tr && decide (f.trimth ≤ queued) then { x with tr := true, hp := true, items := [] } else x
  relayPump { f with rwait := f.rwait ++ [(fib, y)] }

/-- The target of a trimmed flit asks for its payload, and keeps a buffer slot for it (R261). -/
def sendPull (s : State) (fib : Nat) (x : Flit) : State :=
  enqueueFlit { s with fab := { s.fab with pulled := s.fab.pulled ++ [(fib, x)] } } { flitTo s x.src .fwd .pull (0, Ptr.none) 0 0 0 x.req [] false with ref := x.seq }

/-- The flits of a packet that have arrived, first to last, once all are there (R257). -/
def gathered (l : List Flit) (x : Flit) : Option (List Flit) :=
  (l.filter (fun h => h.fst && sameFlow h x)).findSome? (fun h =>
    let parts := (List.range h.nflits).map (fun i => l.find? (fun y => sameFlow h y && y.seq == (h.seq + i) % 2 ^ 32))
    if parts.all Option.isSome then some (parts.filterMap id) else none)

/-- A flit for this device joins its packet; the last of its flits completes it, under this port's own time (R257, R274). -/
def gather (s : State) (x : Flit) (act : State → Flit → State) : State :=
  if (x.fst && x.lst) || x.opc == .resend then act s { x with arr := s.now }
  else
    let l := s.fab.asm ++ [x]
    match gathered l x with
    | some (h :: rest) =>
      act { s with fab := { s.fab with asm := l.filter (fun y => !(h :: rest).contains y) } }
        { h with items := (h :: rest).flatMap (fun y => y.items), lst := true, arr := s.now }
    | _ => { s with fab := { s.fab with asm := l } }

/-- What a flit may name as sender: idle and forward flits and resends go direct, and a flit that this device is to relay is on its first hop, so that
their SRC is the fibre's peer (R253, R254, R261). -/
def srcOk (dev p : Nat) (x : Flit) : Bool := !(x.net == .idle || x.net == Net.fwd || x.opc == .resend || x.dst != dev) || x.src == p

/-- An accepted flit: the relay keeps it, the target pulls a trimmed payload or acts on the packet. Its buffer slot is freed as it leaves it. -/
def acceptFlit (s : State) (fib : Nat) (fl : Flit) (act : State → Flit → State) : State :=
  let f1 := noteGot (oweAck (seqTake s.fab fl) fib fl) fib fl
  if fl.dst ≠ s.mgmt.device then { s with fab := relayTake f1 fib fl }
  else if fl.tr then sendPull { s with fab := f1 } fib fl
  else gather { s with fab := freeSlot f1 fib fl.net } fl act

/-- A flit of an operation arrives on a fibre: a bad CRC or a reserved OPC drops it, a wrong SRC silences the fibre for the slot; then credit,
acknowledgements and the sequence number (R253, R256, R258, R259). -/
def arrive1 (s0 : State) (fib : Nat) (fl : Flit) (ops : List FOp) (act : State → Flit → State) : Option State :=
  match s0.fab.livePeer s0.now fib with
  | none => none
  | some p =>
    if !slotLive s0 || !(ops.contains fl.opc || opcReserved fl.opc) || decide (Config.fibres ≤ fib) then none
    else
      let s := { s0 with fab := { s0.fab with heard := if s0.fab.heard.contains fib then s0.fab.heard else s0.fab.heard ++ [fib] } }
      if fl.crc ≠ flitCrc fl ∨ opcReserved fl.opc = true then some s
      else if !srcOk s.mgmt.device p fl then some { s with fab := { s.fab with dead := s.fab.dead ++ [fib] } }
      else
        let s1 := { s with fab := takeAcks (takeCredit s.fab fib fl) fib fl.acks }
        if fl.opc = .idle then some s1
        else if seqOk s1.fab fl then some (acceptFlit s1 fib fl act)
        else if seqOld s1.fab fl then some { s1 with fab := dropOld s1.fab fib fl }
        else some s1

/-- A request's items are served and answered (R260, R263). -/
def serveFlit (s : State) (fl : Flit) : State := let (s1, as_) := serveItems s fl; answerTo s1 fl as_

/-- LOAD_REQUEST. -/
def loadRequestEvent (f : Nat) (fl : Flit) (s : State) : Option State := arrive1 s f fl [.load] serveFlit

/-- The meaning: the event, or nothing where it does not occur. -/
def execLoadRequest (f : Nat) (fl : Flit) (s : State) : Host.Outcome State Fault Refusal := happen s (loadRequestEvent f fl s)

/-- FLIT_STORE. -/
def flitStoreEvent (f : Nat) (fl : Flit) (s : State) : Option State := arrive1 s f fl [.store] serveFlit

/-- The meaning: the event, or nothing where it does not occur. -/
def execFlitStore (f : Nat) (fl : Flit) (s : State) : Host.Outcome State Fault Refusal := happen s (flitStoreEvent f fl s)

/-- FLIT_ATOMIC. -/
def flitAtomicEvent (f : Nat) (fl : Flit) (s : State) : Option State := arrive1 s f fl [.atomic] serveFlit

/-- The meaning: the event, or nothing where it does not occur. -/
def execFlitAtomic (f : Nat) (fl : Flit) (s : State) : Host.Outcome State Fault Refusal := happen s (flitAtomicEvent f fl s)

/-- FLIT_PUT. -/
def flitPutEvent (f : Nat) (fl : Flit) (s : State) : Option State := arrive1 s f fl [.put] serveFlit

/-- The meaning: the event, or nothing where it does not occur. -/
def execFlitPut (f : Nat) (fl : Flit) (s : State) : Host.Outcome State Fault Refusal := happen s (flitPutEvent f fl s)

/-- BLOCK_TRANSFER_READ_REQUEST. -/
def blockTransferReadRequestEvent (f : Nat) (fl : Flit) (s : State) : Option State :=
  arrive1 s f fl [.btRead] serveFlit

/-- The meaning: the event, or nothing where it does not occur. -/
def execBlockTransferReadRequest (f : Nat) (fl : Flit) (s : State) : Host.Outcome State Fault Refusal := happen s (blockTransferReadRequestEvent f fl s)

/-- BLOCK_TRANSFER_WRITE. -/
def blockTransferWriteEvent (f : Nat) (fl : Flit) (s : State) : Option State := arrive1 s f fl [.btWrite] serveFlit

/-- The meaning: the event, or nothing where it does not occur. -/
def execBlockTransferWrite (f : Nat) (fl : Flit) (s : State) : Host.Outcome State Fault Refusal := happen s (blockTransferWriteEvent f fl s)

/-- DATA_RESPONSE. -/
def dataResponseEvent (f : Nat) (fl : Flit) (s : State) : Option State :=
  arrive1 s f fl [.data] (fun s fl => applyAnswer s fl.req fl.items)

/-- The meaning: the event, or nothing where it does not occur. -/
def execDataResponse (f : Nat) (fl : Flit) (s : State) : Host.Outcome State Fault Refusal := happen s (dataResponseEvent f fl s)

/-- END_TO_END_ACKNOWLEDGEMENT. -/
def endToEndAcknowledgementEvent (f : Nat) (fl : Flit) (s : State) : Option State :=
  arrive1 s f fl [.ack] (fun s fl => applyAnswer s fl.req fl.items)

/-- The meaning: the event, or nothing where it does not occur. -/
def execEndToEndAcknowledgement (f : Nat) (fl : Flit) (s : State) : Host.Outcome State Fault Refusal := happen s (endToEndAcknowledgementEvent f fl s)

/-- ERROR_RESPONSE. -/
def errorResponseEvent (f : Nat) (fl : Flit) (s : State) : Option State :=
  arrive1 s f fl [.error] (fun s fl => applyAnswer s fl.req fl.items)

/-- The meaning: the event, or nothing where it does not occur. -/
def execErrorResponse (f : Nat) (fl : Flit) (s : State) : Host.Outcome State Fault Refusal := happen s (errorResponseEvent f fl s)

/-- The flit of a request that a pull names (R261). -/
def pulledFlit (r : RemReq) (ref : Nat) : Option Flit := (packetFlits r.flit).find? (fun x => x.seq == ref)

/-- PULL: the source sends the payload again from its send record, on the response network, direct (R261). -/
def pullEvent (f : Nat) (fl : Flit) (s : State) : Option State :=
  arrive1 s f fl [.pull] (fun s fl =>
    match (s.fab.recs.find? (fun r => r.id == fl.req && r.peer == fl.src)).bind (fun r => pulledFlit r fl.ref) with
    | none => s
    | some x => enqueueFlit s { x with net := .rsp, opc := .resend, ref := fl.ref, vt := s.now })

/-- The meaning: the event, or nothing where it does not occur. -/
def execPull (f : Nat) (fl : Flit) (s : State) : Host.Outcome State Fault Refusal := happen s (pullEvent f fl s)

/-- The payload of a resend joins the header that was trimmed, whose buffer slot it frees (R261). -/
def joinResend (s : State) (fl : Flit) (act : State → Flit → State) : State :=
  match s.fab.pulled.find? (fun e => e.2.src == fl.src && e.2.req == fl.req && e.2.seq == fl.ref) with
  | none => s
  | some e => gather { s with fab := freeSlot { s.fab with pulled := s.fab.pulled.erase e } e.1 e.2.net } { e.2 with tr := false, hp := false, items := fl.items } act

/-- RESEND. -/
def resendEvent (f : Nat) (fl : Flit) (s : State) : Option State := arrive1 s f fl [.resend] (fun s fl => joinResend s fl serveFlit)

/-- The meaning: the event, or nothing where it does not occur. -/
def execResend (f : Nat) (fl : Flit) (s : State) : Host.Outcome State Fault Refusal := happen s (resendEvent f fl s)

/-- IDLE_FLIT. -/
def idleFlitEvent (f : Nat) (fl : Flit) (s : State) : Option State := arrive1 s f fl [.idle] (fun s _ => s)

/-- The meaning: the event, or nothing where it does not occur. -/
def execIdleFlit (f : Nat) (fl : Flit) (s : State) : Host.Outcome State Fault Refusal := happen s (idleFlitEvent f fl s)

end Sys2Proof.Machine
end

