-- ==== Sys2Proof/Machine/Home.lean ====
section
/-! DEFINITION. The protocol's messages one at a time (spec/07_coherence.md R200 to R204, R208, R209): a request that reaches a home, and a
message that reaches its receiver. An instruction's own access makes the same steps in one go (log 7). -/

namespace Sys2Proof.Machine

open Sys2Proof

/-! ### Requests -/

/-- Is a child number one of the home's: a cluster, 64 for a requester without a cache, or one of four cores? -/
def childOk (h : HomeRef) (c : Nat) : Bool := match h with | .l2 => decide (c ≤ 64) | .cc _ => decide (c < 4)

/-- A request leaves its requester (R203); a cluster cache first takes the copy and the permission that its answer grants (R193). -/
def sendRequest (s : State) (h : HomeRef) (r : HeldReq) : State :=
  match h with
  | .l2 => sendReq s .l2 r
  | .cc n => ccAsk s n r 0

/-- The request sent last reaches its home, unless an earlier one of its pair is still on its way on a network that keeps their order (R209). -/
def arriveLast (s : State) : State := arriveReq s (s.reqs.length - 1)

/-- Does a requester send this request now (R201)? GETS and GETX come from a cache without a copy, UPG from one with a copy that it may not write, WT from
a cache that writes through or from the host. -/
def mayAsk (s : State) (h : HomeRef) (r : HeldReq) : Bool :=
  let cached : Bool := h != .l2 || decide (r.child < 64)
  let copy : Option Permission := if cached then (cacheGet s (childCache h r.child) r.sec).bind (fun x => if x.mode = .trk then some x.perm else none) else none
  if r.event ≤ 1 then cached && copy.isNone
  else if r.event ≤ 3 then copy.isSome && copy != some .own
  else if r.event = 7 then !cached || copy == some .writeThrough
  else true

/-- A request that the requester sends reaches its home (R201), but none behind its own write-back or request (R203). -/
def requestAt (s : State) (h : HomeRef) (r : HeldReq) : Option State :=
  if childOk h r.child && mayAsk s h r && !backPending s h r.child r.sec then some (arriveLast (sendRequest s h r)) else none

/-- GETS. -/
def getsEvent (home : HomeRef) (child : Requester) (sec : Nat) (s : State) : Option State :=
  requestAt s home (bareReq 0 child.child child.tag sec)

/-- The meaning: the event, or nothing where it does not occur. -/
def execGets (home : HomeRef) (child : Requester) (sec : Nat) (s : State) : Host.Outcome State Fault Refusal := happen s (getsEvent home child sec s)
/-- GETX. -/
def getxEvent (home : HomeRef) (child : Requester) (sec : Nat) (s : State) : Option State :=
  requestAt s home (bareReq 1 child.child child.tag sec)

/-- The meaning: the event, or nothing where it does not occur. -/
def execGetx (home : HomeRef) (child : Requester) (sec : Nat) (s : State) : Host.Outcome State Fault Refusal := happen s (getxEvent home child sec s)
/-- UPG, which the home classifies as UPG or UPGN (R201). -/
def upgEvent (home : HomeRef) (child : Requester) (sec : Nat) (s : State) : Option State :=
  requestAt s home (bareReq 2 child.child child.tag sec)

/-- The meaning: the event, or nothing where it does not occur. -/
def execUpg (home : HomeRef) (child : Requester) (sec : Nat) (s : State) : Host.Outcome State Fault Refusal := happen s (upgEvent home child sec s)
/-- WT. -/
def wtEvent (home : HomeRef) (child : Requester) (w : SecWrite) (s : State) : Option State :=
  requestAt s home { (bareReq 7 child.child child.tag w.sec) with ws := [w], dom := w.dom }

/-- The meaning: the event, or nothing where it does not occur. -/
def execWt (home : HomeRef) (child : Requester) (w : SecWrite) (s : State) : Host.Outcome State Fault Refusal := happen s (wtEvent home child w s)
/-- ATOMH. -/
def atomhEvent (home : HomeRef) (child : Requester) (op : HomeAtomic) (s : State) : Option State :=
  requestAt s home { (bareReq 8 child.child child.tag (secOf op.pa)) with op := some op, dom := op.dom }

/-- The meaning: the event, or nothing where it does not occur. -/
def execAtomh (home : HomeRef) (child : Requester) (op : HomeAtomic) (s : State) : Host.Outcome State Fault Refusal := happen s (atomhEvent home child op s)
/-- NTWB. -/
def ntwbEvent (home : HomeRef) (child : Requester) (w : SecWrite) (s : State) : Option State :=
  requestAt s home { (bareReq 9 child.child child.tag w.sec) with ws := [w], dom := w.dom }

/-- The meaning: the event, or nothing where it does not occur. -/
def execNtwb (home : HomeRef) (child : Requester) (w : SecWrite) (s : State) : Host.Outcome State Fault Refusal := happen s (ntwbEvent home child w s)

/-- The TRK sectors of a piece that a cache holds, a cluster cache with what its cores hold of them. -/
def heldPiece (s : State) (h : HomeRef) (child : Nat) (piece : List Nat) : List CSector :=
  let s1 := match h with | .l2 => ccRecall s child piece | .cc _ => s
  piece.filterMap (fun k => (cacheGet s1 (childCache h child) k).bind (fun x => if x.mode = .trk then some x else none))

/-- A cache gives up a piece that it holds, clean or with dirty sectors: the sectors stand in its write-back buffer until the home acknowledges
(R201, R203). -/
def evictAt (s : State) (dirty : Bool) (h : HomeRef) (child : Nat) (tag : ObjTag) (sec : Nat) : Option State :=
  let piece := (pieceOf s tag sec).2
  let xs := heldPiece s h child piece
  if childOk h child && !xs.isEmpty && xs.any (fun x => x.dirty != 0) == dirty then some (arriveLast (evictPiece s h child tag piece)) else none

/-- PUTS: a clean copy of the sector's piece is evicted. -/
def putsEvent (home : HomeRef) (child : Requester) (sec : Nat) (s : State) : Option State :=
  evictAt s false home child.child child.tag sec

/-- The meaning: the event, or nothing where it does not occur. -/
def execPuts (home : HomeRef) (child : Requester) (sec : Nat) (s : State) : Host.Outcome State Fault Refusal := happen s (putsEvent home child sec s)

/-- PUTX: the dirty sectors of the piece are written back; the home takes an owner's (PUTX_O) and discards stale ones (PUTX_N, R201). -/
def putxEvent (home : HomeRef) (child : Requester) (sec : Nat) (s : State) : Option State :=
  evictAt s true home child.child child.tag sec

/-- The meaning: the event, or nothing where it does not occur. -/
def execPutx (home : HomeRef) (child : Requester) (sec : Nat) (s : State) : Host.Outcome State Fault Refusal := happen s (putxEvent home child sec s)

/-! ### Messages (R202, R203, R209) -/

/-- A message of a kind reaches its receiver. -/
def receive (s : State) (k : MsgKind) (i : Nat) : Option State :=
  match s.net[i]? with
  | none => none
  | some m => if m.kind = k ∧ deliverable s i m = true then some (deliver (takeMsg s i m) m) else none

/-- INVALIDATION_ACK. -/
def invalidationAckEvent (i : Nat) (s : State) : Option State := receive s .invAck i

/-- The meaning: the event, or nothing where it does not occur. -/
def execInvalidationAck (i : Nat) (s : State) : Host.Outcome State Fault Refusal := happen s (invalidationAckEvent i s)
/-- DATA_S. -/
def dataSEvent (i : Nat) (s : State) : Option State := receive s .dataS i

/-- The meaning: the event, or nothing where it does not occur. -/
def execDataS (i : Nat) (s : State) : Host.Outcome State Fault Refusal := happen s (dataSEvent i s)
/-- DATA_SW. -/
def dataSwEvent (i : Nat) (s : State) : Option State := receive s .dataSW i

/-- The meaning: the event, or nothing where it does not occur. -/
def execDataSw (i : Nat) (s : State) : Host.Outcome State Fault Refusal := happen s (dataSwEvent i s)
/-- DATA_E. -/
def dataEEvent (i : Nat) (s : State) : Option State := receive s .dataE i

/-- The meaning: the event, or nothing where it does not occur. -/
def execDataE (i : Nat) (s : State) : Host.Outcome State Fault Refusal := happen s (dataEEvent i s)
/-- ACK. -/
def ackEvent (i : Nat) (s : State) : Option State := receive s .ack i

/-- The meaning: the event, or nothing where it does not occur. -/
def execAck (i : Nat) (s : State) : Host.Outcome State Fault Refusal := happen s (ackEvent i s)
/-- WTACK. -/
def wtackEvent (i : Nat) (s : State) : Option State := receive s .wtack i

/-- The meaning: the event, or nothing where it does not occur. -/
def execWtack (i : Nat) (s : State) : Host.Outcome State Fault Refusal := happen s (wtackEvent i s)
/-- ATOMR. -/
def atomrEvent (i : Nat) (s : State) : Option State := receive s .atomr i

/-- The meaning: the event, or nothing where it does not occur. -/
def execAtomr (i : Nat) (s : State) : Host.Outcome State Fault Refusal := happen s (atomrEvent i s)
/-- INV. -/
def invEvent (i : Nat) (s : State) : Option State := receive s .inv i

/-- The meaning: the event, or nothing where it does not occur. -/
def execInv (i : Nat) (s : State) : Host.Outcome State Fault Refusal := happen s (invEvent i s)
/-- UPDATE. -/
def updateEvent (i : Nat) (s : State) : Option State := receive s .update i

/-- The meaning: the event, or nothing where it does not occur. -/
def execUpdate (i : Nat) (s : State) : Host.Outcome State Fault Refusal := happen s (updateEvent i s)
/-- FWD_GETS. -/
def fwdGetsEvent (i : Nat) (s : State) : Option State := receive s .fwdGets i

/-- The meaning: the event, or nothing where it does not occur. -/
def execFwdGets (i : Nat) (s : State) : Host.Outcome State Fault Refusal := happen s (fwdGetsEvent i s)
/-- FWD_GETX. -/
def fwdGetxEvent (i : Nat) (s : State) : Option State := receive s .fwdGetx i

/-- The meaning: the event, or nothing where it does not occur. -/
def execFwdGetx (i : Nat) (s : State) : Host.Outcome State Fault Refusal := happen s (fwdGetxEvent i s)

end Sys2Proof.Machine
end

