-- ==== Sys2Proof/Machine/Host.lean ====
section
/-! DEFINITION. What the host and the management interface do: doorbells, the service ring, population requests, ATS and PRI, posted writes,
TDISP, keys and SPDM, the host link, the registers without a row of their own and the clock sweeper (spec/13_isolation.md R349, R350, R352 to
R356, R361, R362; 14_recovery.md R371 to R373, R383; 18_package.md R415 to R418, R421 to R424; 06_domains.md R190). Function 16 is the physical
function, function n below 16 the virtual function of tenant n. -/

namespace Sys2Proof.Machine

open Sys2Proof

/-! ### Doorbells (R281, R352, R373, R418) -/

/-- Does a function act for a context (R352)? -/
def fnActs (s : State) (fn ctx : Nat) : Bool := if fn = 16 then ctx == 0 else tenantIdx s ctx == some fn

/-- Is traffic of a function refused: its interface is in RUN, and it is outside the IDE stream (R354)? -/
def refused (s : State) (fn : Nat) (ide : Bool) : Bool := decide (fn < 16) && s.host.run.contains fn && !ide

/-- A completer abort. -/
def abortHost (s : State) : State := { s with host := { s.host with aborts := s.host.aborts + 1 } }

/-- Are the functions enabled: the link is up, and boot stage 8 has ended on a powered module (R416, R422)? -/
def enabled (s : State) : Bool := s.host.up && s.mgmt.ready && s.mgmt.powered

/-- QDOOR (R281, R352, R354): the new TAIL of a queue of the function's tenant; every other write is discarded. -/
def qdoorEvent (fn : HostFn) (q : Nat) (tail : Nat) (s : State) : Option State :=
  if enabled s = false then none
  else if refused s fn.fn fn.ide then some (abortHost s)
  else if q < 4096 ∧ fnActs s fn.fn (queueOf s q).ctx = true then some (setQueue s q ((queueOf s q).moveTail (tail % 2 ^ 48)))
  else some s

/-- The meaning: the event, or nothing where it does not occur. -/
def execQdoor (fn : HostFn) (q : Nat) (tail : Nat) (s : State) : Host.Outcome State Fault Refusal := happen s (qdoorEvent fn q tail s)

/-- The replies that an entry holds for the lanes of an SVC, as register writes (R373). -/
def replyWrites (bs : List Byte) (d : Nat) (lanes : Mask) : List RegWrite :=
  (lanesOf lanes).flatMap (fun l =>
    let x := leAt bs (0x880 + 8 * l) 8
    [RegWrite.v l d (BitVec.ofNat 32 x), RegWrite.v l (d + 1) (BitVec.ofNat 32 (x / 2 ^ 32))])

/-- An acquire in all five domains by the device for a block: of its core, or of the horizons saved with it (R191, R373). -/
def acquireFor (s : State) (b : Nat) : State :=
  match tget s.blocks b with
  | none => s
  | some bl => if bl.res = .resident then acquireAll s bl.core else s.mapBlock b (fun x => { x with hor := List.replicate 5 s.now })

/-- A group whose entry the host has answered with ACTION 1 (R373): replies, RESUME, and the transfers that its trap stopped. -/
def svcResume (s : State) (b g : Nat) (bs : List Byte) (isSvc : Bool) (d : Nat) (lanes : Mask) : State :=
  let pc : Word := BitVec.ofNat 64 (leAt bs 0x18 8) &&& ~~~ 7#64
  let s1 := acquireFor s b
  let s2 := s1.mapGroup b g (fun x =>
    { x with r := { (x.r.writes (if isSvc then replyWrites bs d lanes else [])) with pc := pc }, run := .parkedOff .resumed })
  match s2.group? b g with
  | some x => if x.handler.isNone then resumeStopped s2 b g else s2
  | none => s2

/-- The service wait of a group: that at which it is parked, or from which a held trap has called it (R375). -/
def Group.serviceWait (g : Group) : Option Park :=
  match g.run with
  | .parkedOff (.service e isSvc d lanes r) => some (.service e isSvc d lanes r)
  | _ => g.called.map Prod.fst

/-- Is a group parked at its service entry? -/
def Group.atService (g : Group) : Bool := match g.run with | .parkedOff (.service ..) => true | _ => false

/-- The host's answer to the entry at which a group waits (R373). One that a held trap has called from its entry takes it when it is back there (R375;
DEDUCED, log 23). -/
def svcAct (s : State) (x : Nat × Nat) : State :=
  match tget s.blocks x.1, s.group? x.1 x.2 with
  | some bl, some g =>
    match g.serviceWait with
    | some (.service (some i) isSvc d lanes r) =>
      match svcHeader s bl.ctx with
      | none => s
      | some (base, _, _, lg) =>
        match ctxRead s bl.ctx (svcEntryVa base i lg) 4096 with
        | none => s
        | some bs =>
          match leAt bs 0x20 8 with
          | 1 => if g.atService then svcResume s x.1 x.2 bs isSvc d lanes
                 else s.mapGroup x.1 x.2 (fun y => { y with called := some (.service (some i) isSvc d lanes r, true) })
          | 2 => abortGrid s bl.grid 7
          | _ => s
    | _ => s
  | _, _ => s

/-- A group that held traps called from its service entry is back there (R375): it parks, and takes the answer that has come since. -/
def serviceReturn (s : State) (b g : Nat) : Option State :=
  match (s.group? b g).bind (fun x => x.called) with
  | none => none
  | some (p, rang) =>
    let s1 := parkGroup (s.mapGroup b g (fun x => { x with called := none })) b g p
    some (if rang then svcAct s1 (b, g) else s1)

/-- The groups of a function's contexts that wait at an entry index. -/
def svcGroups (s : State) (fn i : Nat) : List (Nat × Nat) :=
  s.blocks.flatMap (fun e => if fnActs s fn e.2.ctx then
    (e.2.groups.filter (fun q => match q.2.serviceWait with | some (.service (some n) _ _ _ _) => n == i | _ => false)).map (fun q => (e.1, q.1)) else [])

/-- SDOOR (R373): the device reads the entry and acts on ACTION; an index at which no group is parked is ignored. -/
def sdoorEvent (fn : HostFn) (i : Nat) (s : State) : Option State :=
  if enabled s = false then none
  else some (if refused s fn.fn fn.ide then abortHost s else (svcGroups s fn.fn i).foldl svcAct s)

/-- The meaning: the event, or nothing where it does not occur. -/
def execSdoor (fn : HostFn) (i : Nat) (s : State) : Host.Outcome State Fault Refusal := happen s (sdoorEvent fn i s)

/-! ### The service ring (R372) -/

/-- A service wait whose entry waited for room waits for the host's answer to entry `i`. -/
def Park.entered (i : Nat) (p : Park) : Park :=
  match p with
  | .service none isSvc d lanes r => .service (some i) isSvc d lanes r
  | _ => p

/-- A group that is parked with a waiting entry, or was called from there, waits for the host's answer to entry `i`. -/
def Group.entered (i : Nat) (g : Group) : Group :=
  match g.run with
  | .parkedOff (.service e isSvc d lanes r) => { g with run := .parkedOff (Park.entered i (.service e isSvc d lanes r)) }
  | _ => { g with called := g.called.map (fun x => (x.1.entered i, x.2)) }

/-- Writes a waiting service entry, whose group then waits for its answer; a ring that cannot be used aborts the grid. -/
def svcServe (s : State) (x : SvcWait) : Option State :=
  let s0 := { s with svcq := s.svcq.erase x }
  let fails := match tget s.blocks x.blk with | some bl => abortGrid s0 bl.grid 7 | none => s0
  match svcHeader s x.ctx with
  | none => some fails
  | some (base, head, tail, lg) =>
    if svcFull head tail lg || svcWaits s x.ctx base tail lg then none
    else
      match svcWrite s0 x.ctx base tail lg x.kind x.who x.lanes x.record.resume x.record x.args with
      | none => some fails
      | some s1 =>
        let s2 := sendMsix s1 (tenantIdx s x.ctx) (svcVector x.isSvc)
        some (if x.parks then s2.mapGroup x.blk x.grp (Group.entered tail) else s2)

/-- The first waiting entry of a context, written if it can be. -/
def svcNext (s : State) (ctx : Nat) : Option State := (s.svcq.find? (fun x => x.ctx == ctx)).bind (svcServe s)

/-- SERVICE_RING_ENTRY_WRITE (R372). -/
def serviceRingEntryWriteEvent (ctx : Nat) (s : State) : Option State :=
  match svcNext s ctx with
  | some t => some t
  | none => none

/-- The meaning: the event, or nothing where it does not occur. -/
def execServiceRingEntryWrite (ctx : Nat) (s : State) : Host.Outcome State Fault Refusal := happen s (serviceRingEntryWriteEvent ctx s)

/-! ### Population requests, PRI and ATS (R349, R353) -/

/-- The tenant whose ring a request goes to; 16 for the privileged context. -/
def PopReq.tenant (s : State) (p : PopReq) : Nat := (tenantIdx s p.ctx).getD 16

/-- The number of a tenant's next ring entry. -/
def popNext (s : State) (t : Nat) : Nat := (tget s.popIdx t).getD 0

/-- Is the tenant's next ring entry free: has popdone named the page that it held? -/
def popRoom (s : State) (t : Nat) : Bool :=
  !s.pops.any (fun p => p.tenant s == t && (match p.written with | some n => decide (n + Config.popRing ≤ popNext s t) | none => false))

/-- The bytes of a request. -/
def popBytes (p : PopReq) : List Byte := toBytes 8 p.page.toNat ++ toBytes 8 (p.kind * 2 ^ 13 + p.ctx % 1024 * 2 ^ 3)

/-- The first request of a tenant that can be written. -/
def popReady (s : State) (t : Nat) : Option PopReq := s.pops.find? (fun p => p.tenant s == t && p.written.isNone && !p.pri)

/-- The device writes bytes for no context: none in a protected window (R355). -/
def guardedPut (s : State) (pa : Nat) (bs : List Byte) : State := if protectedFrom s 1024 pa bs.length then s else physPut s pa bs

/-- Writes a request and sends vector 1. The privileged context has no ring. -/
def popWrite (s : State) (t : Nat) (p : PopReq) : State :=
  let n := popNext s t
  let s1 := { s with pops := s.pops.map (fun x => if x = p then { x with written := some n } else x), popIdx := tset s.popIdx t (n + 1) }
  let s2 := match tget s.tenants t with
    | some d => guardedPut s1 (d.popring + 16 * (n % Config.popRing)) (popBytes p)
    | none => s1
  sendMsix s2 (tenantIdx s p.ctx) 1

/-- The next population request of a tenant, written if it can be. -/
def popServe (s : State) (t : Nat) : Option State := if popRoom s t then (popReady s t).map (popWrite s t) else none

/-- POPULATION_REQUEST_WRITE (R349). -/
def populationRequestWriteEvent (tenant : Nat) (s : State) : Option State :=
  match popServe s tenant with
  | some t => some t
  | none => none

/-- The meaning: the event, or nothing where it does not occur. -/
def execPopulationRequestWrite (tenant : Nat) (s : State) : Host.Outcome State Fault Refusal := happen s (populationRequestWriteEvent tenant s)

/-- The function under which a context's host pages are translated, and the host frames of the page that holds an address (R353). -/
def hostFrames (s : State) (ctx : Nat) (va : Word) : List (Nat × Nat) :=
  match walk s ctx va with
  | none => []
  | some p => if pteTier p.pte = 2 then (List.range (pageBytes p.big / 65536)).map (fun i => ((tenantIdx s ctx).getD 16, ptePfn p.pte + i)) else []

/-- PRI_RESPONSE (R353): the host has brought the page in, and its population request is written, when the ring has room. -/
def priResponseEvent (i : Nat) (s : State) : Option State :=
  match s.pops[i]? with
  | none => none
  | some p =>
    if p.pri && s.host.up then
      let s1 := { s with pops := s.pops.set i { p with pri := false },
                         host := { s.host with absent := s.host.absent.filter (fun f => !(hostFrames s p.ctx p.page).contains f) } }
      some ((popServe s1 (p.tenant s)).getD s1)
    else none

/-- The meaning: the event, or nothing where it does not occur. -/
def execPriResponse (i : Nat) (s : State) : Host.Outcome State Fault Refusal := happen s (priResponseEvent i s)

/-- Does a TLB entry of a function's contexts hold the translation of a host frame? -/
def TlbEntry.hostHit (s : State) (fn frame : Nat) (e : TlbEntry) : Bool :=
  pteTier e.pte == 2 && (if e.g then e.tag == fn else fnActs s fn e.tag) && decide (ptePfn e.pte ≤ frame) && decide (frame < ptePfn e.pte + pageBytes e.big / 65536)

/-- ATS_INVALIDATION (R353): the accesses that used the translation are acknowledged, it leaves every TLB, and the frame is absent until a PRI
response (log 13). -/
def atsInvalidationEvent (fn : Nat) (hostPage : Nat) (s : State) : Option State :=
  match (if s.host.up then drainCtxs s (fnActs s fn) else none) with
  | none => none
  | some s1 =>
    let s2 := tlbKeep s1 (fun e => !e.hostHit s1 fn hostPage)
    some { s2 with host := { s2.host with absent := if s2.host.absent.contains (fn, hostPage) then s2.host.absent else (fn, hostPage) :: s2.host.absent } }

/-- The meaning: the event, or nothing where it does not occur. -/
def execAtsInvalidation (fn : Nat) (hostPage : Nat) (s : State) : Host.Outcome State Fault Refusal := happen s (atsInvalidationEvent fn hostPage s)

/-! ### Posted writes (R190, R354, R355) -/

/-- May a function read or write a device range: no protected window, its tenant's windows, and the IDE stream alone while its interface is in RUN? -/
def hostMayWrite (s : State) (fn pa n : Nat) (ide : Bool) : Bool :=
  decide (pa + n ≤ hostBase) && !protectedFrom s 1024 pa n &&
  (if fn = 16 then true
   else (match tget s.tenants fn with | some t => (t.window false pa n).isSome | none => false) && !refused s fn ide)

/-- What the host reads through a function; none is completer abort, with no data (R354, R355). A read has no row in the opcode table and leaves no
state. -/
def hostRead (s : State) (fn pa n : Nat) (ide : Bool) : Option (List Byte) := if hostMayWrite s fn pa n ide then some (physBytes s pa n) else none

/-- A write of the host at the home, noted as its release (R190, R385, R393). -/
def hostPut (s : State) (pa : Nat) (bs : List Byte) : State := noteWrite (physPut s pa bs) 264 pa bs.length

/-- The host writes its own memory, which needs no link. -/
def hostOwnWrite (s : State) (pa : Nat) (bs : List Byte) : State :=
  let s1 := hostPut { s with host := { s.host with up := true } } pa bs
  { s1 with host := { s1.host with up := s.host.up } }

/-- HOST_POSTED_WRITE (R190): it takes its place in coherence order as a release, or meets completer abort. An address from `hostBase` up is
the host's own memory. -/
def hostPostedWriteEvent (fn : Nat) (pa : Nat) (bytes : List Byte) (ide : Bool) (s : State) : Option State :=
  if hostBase ≤ pa then some (hostOwnWrite s pa bytes)
  else if enabled s = false then none
  else if hostMayWrite s fn pa bytes.length ide then some (hostPut s pa bytes)
  else some (abortHost s)

/-- The meaning: the event, or nothing where it does not occur. -/
def execHostPostedWrite (fn : Nat) (pa : Nat) (bytes : List Byte) (ide : Bool) (s : State) : Host.Outcome State Fault Refusal := happen s (hostPostedWriteEvent fn pa bytes ide s)

/-! ### TDISP, keys and measurements (R354, R356, R362) -/

/-- TDISP_INTERFACE_RUN (R354). -/
def tdispInterfaceRunEvent (t : Nat) (s : State) : Option State :=
  if t < 16 ∧ enabled s = true then some { s with host := { s.host with run := if s.host.run.contains t then s.host.run else t :: s.host.run } }
  else none

/-- The meaning: the event, or nothing where it does not occur. -/
def execTdispInterfaceRun (t : Nat) (s : State) : Host.Outcome State Fault Refusal := happen s (tdispInterfaceRunEvent t s)

/-- TDISP_LEAVE_RUN (R354): the tenant's confidential contexts are destroyed. -/
def tdispLeaveRunEvent (t : Nat) (s : State) : Option State :=
  if s.host.run.contains t then
    let s1 := { s with host := { s.host with run := s.host.run.filter (fun x => x != t) } }
    some ((confidentialOf s1 t).foldl destroyContext s1)
  else none

/-- The meaning: the event, or nothing where it does not occur. -/
def execTdispLeaveRun (t : Nat) (s : State) : Host.Outcome State Fault Refusal := happen s (tdispLeaveRunEvent t s)

/-- Does a tenant hold a key slot (R342)? -/
def tenantHoldsKey (s : State) (t slot : Nat) : Bool := match tget s.tenants t with | some d => d.flags.getLsbD 0 && d.keys.getLsbD slot | none => false

/-- KEY_INSTALL (R356): a slot that the tenant holds takes the key, and its last counters go to 0. -/
def keyInstallEvent (slot : Nat) (key : BitVec 256) (t : Nat) (s : State) : Option State :=
  if enabled s = false then none
  else if slot < 64 ∧ tenantHoldsKey s t slot = true then some { s with keys := tset s.keys slot key, ctrs := s.ctrs.filter (fun e => e.1 % 64 != slot) }
  else some s

/-- The meaning: the event, or nothing where it does not occur. -/
def execKeyInstall (slot : Nat) (key : BitVec 256) (t : Nat) (s : State) : Host.Outcome State Fault Refusal := happen s (keyInstallEvent slot key t s)

/-- The 128-byte image of a context's descriptor (R343). -/
def ctxImage (c : Ctx) : List Byte :=
  toBytes 8 c.ptroot ++ toBytes 1 (c.tenant.getD 0) ++ toBytes 1 ((if c.conf then 1 else 0) + (if c.mgr then 2 else 0)) ++ toBytes 1 c.cres ++ toBytes 1 0 ++
  toBytes 4 c.salt.toNat ++ toBytes 8 c.pool ++ toBytes 8 c.poolsz ++ toBytes 8 c.objtab ++ toBytes 8 c.traprt.toNat ++ toBytes 8 c.svcring.toNat ++
  toBytes 8 c.chain.toNat ++ toBytes 4 c.rjt ++ toBytes 4 c.hangt ++ toBytes 8 c.protbase ++ toBytes 8 c.protlen ++ toBytes 40 0

/-- The 1,056-byte table of a protocol slot (R199); an empty slot measures as nothing. -/
def protoImage (s : State) (slot : Nat) : List Byte := match tget s.protos slot with | none => [] | some p => protoBytes p

/-- The image of the copy that runs. -/
def Flash.running (f : Flash) : List Byte := if f.runsB then f.b else f.a

/-- What a measurement through a function covers (R362). -/
def measurement (s : State) (fn : Nat) : List Byte :=
  Config.firmwareDigest s.mgmt.flash.running ++ Config.validatorDigest ++ [4, 5, 6, 7].flatMap (protoImage s) ++
  (if fn < 16 then (s.ctxs.filter (fun e => e.2.conf && e.2.tenant == some fn)).flatMap (fun e => ctxImage e.2) else [])

/-- SPDM_MEASUREMENT (R362): the signed answer. The request is retried until functions are enabled (R422), and not answered at all by an I/O die without
power (R416). -/
def execSpdmMeasurement (fn : Nat) (s : State) : Host.Outcome State Fault Refusal :=
  if s.mgmt.powered = false then .next s
  else if s.mgmt.ready then
    let m := measurement s fn
    .next { s with host := { s.host with answers := s.host.answers ++ [m ++ Config.spdmSignature fn m] } }
  else .next { s with host := { s.host with retried := s.host.retried + 1 } }

/-! ### The link (R421, R422) -/

/-- PCIE_LINK_DOWN (R421): nothing is aborted; accesses to host memory wait. -/
def pcieLinkDownEvent (s : State) : Option State :=
  if s.host.up then some { s with host := { s.host with up := false } } else none

/-- The meaning: the event, or nothing where it does not occur. -/
def execPcieLinkDown (s : State) : Host.Outcome State Fault Refusal := happen s (pcieLinkDownEvent s)

/-- PCIE_LINK_UP (R421): the waiting writes go out in order, and the waiting items of remote accesses are performed. -/
def pcieLinkUpEvent (s : State) : Option State :=
  if s.host.up = false ∧ s.host.width ≠ 0 then
    some (performHosted { s with mem := s.host.pending.foldl (fun m w => putBytes m w.1 w.2) s.mem, host := { s.host with up := true, pending := [] } })
  else none

/-- The meaning: the event, or nothing where it does not occur. -/
def execPcieLinkUp (s : State) : Host.Outcome State Fault Refusal := happen s (pcieLinkUpEvent s)

/-- CONFIGURATION_REQUEST (R422): Request Retry Status until stage 8 ends. An I/O die without power completes none (R416). -/
def execConfigurationRequest (_ : Nat) (s : State) : Host.Outcome State Fault Refusal :=
  if s.mgmt.ready || !s.mgmt.powered then .next s else .next { s with host := { s.host with retried := s.host.retried + 1 } }

/-- UCIE_RETRY (R210): a replay in the original order has no effect on what the networks carry. -/
def execUcieRetry (_ : Nat) (s : State) : Host.Outcome State Fault Refusal := .next { s with mgmt := { s.mgmt with ucie := s.mgmt.ucie + 1 } }

/-! ### Management registers (R361, R383, R415, R423, R424) -/

/-- BOOTST (R423). -/
def bootst (m : Mgmt) : Word := BitVec.ofNat 64 (m.fail % 256 * 2 ^ 24 + m.stage % 256 * 2 ^ 8 + (if m.ready then 1 else 0))

/-- PLIM_WRITE (R415): from 1,000 W to 2,200 W in steps of 10 W; any other write leaves the limit. -/
def execPlimWrite (watts : Nat) (s : State) : Host.Outcome State Fault Refusal :=
  .next (if 1000 ≤ watts ∧ watts ≤ 2200 ∧ watts % 10 = 0 then { s with mgmt := { s.mgmt with plim := watts } } else s)

/-- SWCTL_WRITE (R361). -/
def execSwctlWrite (x : Word) (s : State) : Host.Outcome State Fault Refusal := .next { s with priv := swctlWrite s.priv x }

/-- FIRMWARE_IMAGE_DELIVERY (R424): the image replaces the copy that does not run. It takes effect at the next reset: stage 1 then tries it first, as copy A,
and the copy that runs now second (DEDUCED, log 46). -/
def execFirmwareImageDelivery (bytes : List Byte) (s : State) : Host.Outcome State Fault Refusal :=
  .next { s with mgmt := { s.mgmt with flash := { a := bytes, b := s.mgmt.flash.running, runsB := true } } }

/-! ### BAR0 (R418) -/

/-- Entries of a function's MSI-X table: 64 on the physical function, MSIXN on a tenant's (R342). -/
def msixSlots (s : State) (fn : Nat) : Nat := if fn = 16 then 64 else match tget s.tenants fn with | some t => t.msixn | none => 0

/-- An MSI-X entry as PCI Express lays it out (PRESUMED, log 46): address, data, vector control. -/
def MsixEntry.bytes (e : MsixEntry) : List Byte := toBytes 8 e.addr.toNat ++ toBytes 4 e.data.toNat ++ toBytes 4 e.ctl.toNat

/-- An entry from its bytes; of vector control only the mask bit is kept. -/
def MsixEntry.ofBytes (x : List Byte) : MsixEntry := { addr := BitVec.ofNat 64 (leAt x 0 8), data := BitVec.ofNat 32 (leAt x 8 4), ctl := BitVec.ofNat 32 (leAt x 12 4 % 2) }

/-- One byte of an MSI-X table is written. -/
def msixByte (h : HostLink) (fn : Nat) (o : Nat) (b : Byte) : HostLink :=
  let x := (fn, o / 16)
  { h with msixTab := tset h.msixTab (64 * fn + o / 16) (MsixEntry.ofBytes (listSet (h.entry x).bytes (o % 16) b)) }

/-- Pending vectors that are no longer masked are sent. -/
def sendPending (h : HostLink) : HostLink :=
  { h with msix := h.msix ++ h.msixPend.filter (fun x => !h.masked x), msixPend := h.msixPend.filter h.masked }

/-- One byte of BAR0 beside the doorbells: the debug mailbox's command area on the physical function, or the MSI-X table; every other write is
discarded. -/
def bar0Byte (s : State) (fn : Nat) (h : HostLink) (o : Nat) (b : Byte) : HostLink :=
  if fn = 16 ∧ 0x1000 ≤ o ∧ o < 0x10F8 then { h with mbx := sset h.mbx (o - 0x1000) b }
  else if 0x2000 ≤ o ∧ o < 0x2000 + 16 * msixSlots s fn then msixByte h fn (o - 0x2000) b
  else h

/-- A write to BAR0 of a function (R418): a doorbell with all its 8 bytes, or bytes of the areas. -/
def bar0Write (s : State) (fn : HostFn) (off : Nat) (x : List Byte) : State :=
  let w := fromBytes x
  if enabled s = false then s
  else if off = 0 ∧ x.length = 8 then (qdoorEvent fn (bitsOf w 59 48) (w % 2 ^ 48) s).getD s
  else if off = 8 ∧ x.length = 8 then (sdoorEvent fn (w % 2 ^ 48) s).getD s
  else if refused s fn.fn fn.ide then abortHost s
  else { s with host := sendPending ((List.zip (List.range x.length) x).foldl (fun h e => bar0Byte s fn.fn h (off + e.1) e.2) s.host) }

/-- What a read of a byte of BAR0 gives (R418): zero outside the areas. A read has no row in the opcode table and leaves no state. -/
def bar0Read (s : State) (fn o : Nat) : Byte :=
  let h := s.host
  if fn = 16 ∧ 0x1000 ≤ o ∧ o < 0x10F8 then sget h.mbx (o - 0x1000)
  else if fn = 16 ∧ o = 0x10F8 then h.mbxStatus
  else if 0x2000 ≤ o ∧ o < 0x2000 + 16 * msixSlots s fn then (h.entry (fn, (o - 0x2000) / 16)).bytes.getD (o % 16) 0
  else if 0x3000 ≤ o ∧ o < 0x3008 then
    (List.range 8).foldl (fun (b : Byte) i => if h.msixPend.contains (fn, 8 * (o - 0x3000) + i) then b ||| (1#8 <<< i) else b) 0
  else 0

/-! ### Registers without a row of their own -/

/-- A fabric register or slot-table entry, while the port is quiesced (R252, R253). -/
def fabricWrite (s : State) (f : Fabric → Fabric) : State := if s.fab.quiesced then { s with fab := f s.fab } else s

/-- A routing-table entry, while the ordered networks hold nothing for its destination (R253). -/
def routeWrite (s : State) (d : Nat) (x : BitVec 16) : State := if s.fab.routeFree d then { s with fab := s.fab.setRoute d x } else s

/-- REGISTER_WRITE (R22, R252, R253, R294, R361, R418, R423), and what the sensors come to read (R424). Dies without power take no write (R416); the management
core still reads its sensors. -/
def execRegisterWrite (r : RegWriteTarget) (s : State) : Host.Outcome State Fault Refusal :=
  .next (if s.mgmt.powered = false then (match r with | .sensors x => { s with mgmt := { s.mgmt with sensors := x } } | _ => s) else match r with
    | .fsched x => fabricWrite s (fun f => f.setFsched x)
    | .fepoch x => fabricWrite s (fun f => { f with t0 := x.toNat, slotNow := 0 })
    | .slot n fib x => fabricWrite s (fun f => f.setSlot n fib x)
    | .route d x => routeWrite s d x
    | .device n => { s with mgmt := { s.mgmt with device := n % 1024 } }
    | .quantum us => if 10 ≤ us ∧ us ≤ 1000 then { s with mgmt := { s.mgmt with quantumUs := us } } else s
    | .bootst _ => s
    | .swrq x => { s with priv := { s.priv with swrq := x } }
    | .swhead x => { s with priv := s.priv.setHead x.toNat }
    | .swft x => { s with priv := { s.priv with swft := x } }
    | .bar0 fn off x => bar0Write s fn off x
    | .sensors x => { s with mgmt := { s.mgmt with sensors := x } })

/-- The indicators of a die (R383); every die has those of reset until its first refresh. -/
def ageingOf (m : Mgmt) (die : Nat) : Ageing := (tget m.ageing die).getD Ageing.fresh

/-- AGEDLY, AGECE, AGELAS and AGEWEAR of a die as the management interface reads them (R383). -/
def ageingWords (m : Mgmt) (die : Nat) : List Word :=
  let a := ageingOf m die
  [a.rod.setWidth 64, BitVec.ofNat 64 (a.cew.toNat * 2 ^ 32 + ((tget m.cet die).getD 0).toNat), BitVec.ofNat 64 (a.widx.toNat * 2 ^ 16 + a.lbd.toNat),
   BitVec.ofNat 64 (a.eol.toNat * 2 ^ 16 + a.wear.toNat)]

/-- AGEING_REFRESH (R383): WEAR never decreases nor exceeds 1,000, EOL is 0 at its end, and only the I/O die has lasers. -/
def ageingRefreshEvent (die : Nat) (m : Ageing) (s : State) : Option State :=
  if 4 < die then none
  else
    let old := (ageingOf s.mgmt die).wear.toNat
    let wear := max old (min 1000 m.wear.toNat)
    let errs := ((tget s.mgmt.cew die).getD []).filter (fun t => decide (s.clk.toNat < t + 2 ^ 30))
    let a : Ageing := { m with cew := BitVec.ofNat 32 errs.length, wear := BitVec.ofNat 10 wear, eol := if wear = 1000 then 0 else m.eol,
                               widx := if die = 4 then m.widx else 0, lbd := if die = 4 then m.lbd else 0 }
    some { s with mgmt := { s.mgmt with ageing := tset s.mgmt.ageing die a, cew := tset s.mgmt.cew die errs } }

/-- The meaning: the event, or nothing where it does not occur. -/
def execAgeingRefresh (die : Nat) (m : Ageing) (s : State) : Host.Outcome State Fault Refusal := happen s (ageingRefreshEvent die m s)

/-- THERMAL_THROTTLE (R416): issue is withheld, which changes timing alone (R415). -/
def execThermalThrottle (die : Nat) (s : State) : Host.Outcome State Fault Refusal :=
  .next { s with mgmt := { s.mgmt with throttled := if s.mgmt.throttled.contains die then s.mgmt.throttled else die :: s.mgmt.throttled } }

/-- THERMAL_THROTTLE_END (R416). -/
def execThermalThrottleEnd (die : Nat) (s : State) : Host.Outcome State Fault Refusal :=
  .next { s with mgmt := { s.mgmt with throttled := s.mgmt.throttled.filter (fun d => d != die) } }

/-! ### The clock sweeper (R350) -/

/-- HI and LO of SWCTL. -/
def sweepHi (p : Priv) : Nat := bitsOf p.swctl.toNat 39 20
/-- LO. -/
def sweepLo (p : Priv) : Nat := bitsOf p.swctl.toNat 19 0

/-- The numbers of the queued frames. -/
def sweepQueued (s : State) : List Nat :=
  (List.range s.priv.swheld).map (fun i => (physWord s (s.priv.swrq.toNat + 8 * ((s.priv.swhead + i) % 8192))).toNat)

/-- Is the sweeper paused: from HI entries until fewer than LO (R350)? -/
def sweepPaused (p : Priv) : Bool := if p.swpause then decide (sweepLo p ≤ p.swheld) else decide (sweepHi p ≤ p.swheld)

/-- Does a TLB entry map an HBM frame? -/
def TlbEntry.maps (e : TlbEntry) (f : Nat) : Bool := pteTier e.pte == 0 && decide (ptePfn e.pte ≤ f) && decide (f < ptePfn e.pte + pageBytes e.big / 65536)

/-- Clears A of the leaf of a frame at its home and invalidates every TLB entry that maps the frame. -/
def clearAccessed (s : State) (f pa : Nat) (pte : Word) : State :=
  tlbKeep (physPutWord s pa (pte &&& ~~~ 0x20#64)) (fun e => e.addr != pa && !e.maps f)

/-- Appends a frame number to the ready queue. -/
def queueFrame (s : State) (f : Nat) : State :=
  let s1 := guardedPut s (s.priv.swrq.toNat + 8 * s.priv.swtail) (toBytes 8 f)
  { s1 with priv := { s1.priv with swtail := (s1.priv.swtail + 1) % 8192, swheld := s1.priv.swheld + 1 } }

/-- What the sweeper does with the entry of a frame (R350). It reads no entry and no leaf in a protected window, which is for the agents of its context
alone (R355). -/
def sweepFrame (s : State) (f : Nat) : State :=
  let at_ := s.priv.swft.toNat + 8 * f
  let pa := (physWord s at_).toNat
  if pa = 0 ∨ protectedFrom s 1024 at_ 8 = true ∨ protectedFrom s 1024 pa 8 = true then s
  else
    let pte := physWord s pa
    if pteV pte && pteRes pte && pteTier pte == 0 && pte.getLsbD 5 then clearAccessed s f pa pte
    else if !pte.getLsbD 5 && !(sweepQueued s).contains f then queueFrame s f
    else s

/-- Is an entry due: enabled, and one 4-cycle period not yet used? -/
def sweepDue (s : State) : Bool := s.priv.swctl.getLsbD 63 && decide (s.priv.swept < s.clk.toNat / 4)

/-- SWEEPER_STEP (R350): one entry every 4 cycles, in frame order; a paused sweeper reads none. -/
def sweeperStepEvent (s : State) : Option State :=
  if sweepDue s then
    let stop := sweepPaused s.priv
    let s1 := { s with priv := { s.priv with swept := s.clk.toNat / 4, swpause := stop } }
    if stop then some s1
    else
      let s2 := sweepFrame s1 s1.priv.frame
      some { s2 with priv := { s2.priv with frame := (s2.priv.frame + 1) % Config.hbmFrames } }
  else none

/-- The meaning: the event, or nothing where it does not occur. -/
def execSweeperStep (s : State) : Host.Outcome State Fault Refusal := happen s (sweeperStepEvent s)

end Sys2Proof.Machine
end

