-- ==== Sys2Proof/Machine/Repair.lean ====
section
/-! DEFINITION. Errors that are corrected, repaired or reported (spec/14_recovery.md R379 to R383; 05_matrix.md R148; 08_memory_instructions.md
R237). -/

namespace Sys2Proof.Machine

open Sys2Proof

/-! ### SOFT of a block (R365, R379) -/

/-- The instruction word at a PC; 0 where none can be fetched. -/
def wordAt (s : State) (core ctx : Nat) (pc : Word) : Word :=
  match fetchCheck s core ctx pc 8 with
  | .inr sp => wordOfBytes (fetchBytes s core sp)
  | .inl _ => 0

/-- The SOFT trap of a group that has lost state: delivered at its next boundary. -/
def softTrap (s : State) (bl : Block) (code : Nat) (g : Group) : HeldTrap :=
  { cause := .soft, code := code, lane := none, addr := 0, acc := none, ecsn := 0, pc := g.r.pc, iword := wordAt s bl.core bl.ctx g.r.pc, vt := s.now,
    write := false, wsp := g.spent.isSome, resume := g.r.pc }

/-- SOFT in every group of a block that has not ended. -/
def softBlock (s : State) (b code : Nat) : State :=
  s.mapBlock b (fun bl => { bl with groups := tmap (fun (g : Group) =>
    if g.run = .retired then g else { g with async := g.async ++ [softTrap s bl code g] }) bl.groups })

/-! ### Lost state (R379) -/

/-- Does a lane register of a group lie in register granule `gr` of its block? Groups follow one another, registers within a group (log 14). -/
def regInGranule (regs gi key gr : Nat) : Bool := (gi * 256 * regs + key % 256 * 256 + key / 256 * 4) / Config.granule == gr

/-- A register granule reads as zero. -/
def loseRegs (p : Packet) (bl : Block) (gr : Nat) : Block :=
  { bl with groups := bl.groups.map (fun (e : Nat × Group) =>
      (e.1, { e.2 with r := { e.2.r with v := e.2.r.v.filter (fun x => !regInGranule p.regs e.1 x.1 gr) } })) }

/-- A granule of bytes reads as zero. -/
def loseBytes (m : Sparse 8) (gr : Nat) : Sparse 8 := clearBytes m (gr * Config.granule) Config.granule

/-- A granule of a W- or A-buffer of a block; those after the leader's lie on the follower (R139). -/
def loseWbuf (p : Packet) (bl : Block) (gr : Nat) : Block :=
  let n := granNeed p .wbuf false
  if gr < n then { bl with wbuf := loseBytes bl.wbuf gr } else { bl with fw := loseBytes bl.fw (gr - n) }

/-- A group's stack becomes empty: the lanes ejected under its entries are gone, and it goes on with its current path. -/
def loseStack (s : State) (b g : Nat) : State :=
  let s1 := s.mapGroup b g (fun x =>
    { x with stack := [], threads := [], held := [], noEj := [], resv := x.resv.filter (fun r => r.lane == 64 || x.r.mask.getLsbD r.lane),
             run := match x.run with | .parkedJoin _ => .ready | r => r })
  match s1.group? b g with
  | some x => if x.r.mask = 0 ∧ x.run ≠ .retired then retireGroup s1 b g else s1
  | none => s1

/-! ### Replay of a block (R380) -/

/-- A group at block start, with the TRIG that it has counted. -/
def replayGroup (p : Packet) (now i : Nat) (trigd : Bool) : Group := { Group.start p i 0 now with trigd := trigd }

/-- Has a group of a block counted its TRIG? A block that has retired has. -/
def trigdOf (s : State) (key i : Nat) : Bool := match tget s.blocks key with | some bl => ((tget bl.groups i).map (fun (g : Group) => g.trigd)).getD false | none => true

/-- One block of the cluster stops, its granules are scrubbed, and it waits to start again from ENTRY with zero L-space. -/
def replayBlock (g : Grid) (gi replays : Nat) (s : State) (key : Nat) : State :=
  let p := g.pkt
  let groups := (List.range p.groups).map (fun i => (i, replayGroup p s.now i (trigdOf s key i)))
  let new : Block := { Block.fresh gi (key % 2 ^ 32) g.ctx p.prio s.now with
    rank := key % 2 ^ 32 % max 1 p.cluster, res := .preempted, groups := groups, started := true, replays := replays, hor := List.replicate 5 s.now }
  match tget s.blocks key with
  | none => s.setBlock key { new with save := freeSave s g.ctx (saveBytes p) }
  | some bl =>
    let s1 := dropEngines s key bl
    let stay := s1.svcq.map (fun x => if x.blk = key then { x with parks := false } else x)
    let s2 := freeSlots { s1 with svcq := stay } key bl
    let s3 := freeGranules s2 key { bl with loc := [], abuf := [], wbuf := [], zbuf := [], fw := [], fz := [] }
    s3.setBlock key { new with core := bl.core, first := bl.first, save := bl.save }

/-- The keys of a block's cluster, with blocks that have retired. -/
def wholeCluster (g : Grid) (bl : Block) : List Nat :=
  let c := max 1 g.pkt.cluster
  (List.range c).map (fun i => blockKey bl.grid (bl.index / c * c + i))

/-- Restarts the cluster of a block. -/
def replayCluster (s : State) (bl : Block) (g : Grid) : State :=
  let n := bl.index / max 1 g.pkt.cluster * 4
  let s1 := { s with grids := tset s.grids bl.grid { g with bars := g.bars.filter (fun e => decide (e.1 < n) || decide (n + 4 ≤ e.1)) } }
  (wholeCluster g bl).foldl (replayBlock g bl.grid (bl.replays + 1)) s1

/-- A block loses state: its cluster is replayed under REPL, at most three times; else the loss is made by `f` and SOFT raised (R379, R380). -/
def loseState (s : State) (b : Nat) (f : Packet → State → State) : Option State :=
  match tget s.blocks b with
  | none => none
  | some bl =>
    match tget s.grids bl.grid with
    | none => none
    | some g =>
      if g.pkt.repl && decide (bl.replays < Config.replayLimit) then some (replayCluster s bl g)
      else some (softBlock (f g.pkt s) b (if g.pkt.repl then 4 else 2))

/-! ### Where an error strikes -/

/-- A command of the matrix engine fails (R148): an MQNT will write zero codes and scales. -/
def failCmd (s : State) (c : MCmd) : MCmd :=
  match c.kind, tget s.blocks c.blk, s.group? c.blk c.grp with
  | .mqnt df t auto, some bl, some g => { c with failed := true, bytes := (mqntResults bl g (packetOf s bl) c df t auto true).1 }
  | _, _, _ => { c with failed := true }

/-- Is a cached sector part of a clean line that its cache may drop and fetch again? A TRK copy is fetched again at once, with the
permission that it had. -/
def droppable (line : Nat) (x : CSector) : Bool := x.sec / 4 == line && x.mode == .siv && x.dirty == 0

/-- The effect of an uncorrectable error; none where there is nothing that it could strike. -/
def errorAt (s : State) (site : ErrorSite) : Option State :=
  match site with
  | .bte core store i => ((btQueueOf s core store)[i]?).map (fun c => mapBt s core store c.id restartBtg)
  | .mirror b g lanes =>
    match tget s.blocks b, s.group? b g with
    | some bl, some x => if (packetOf s bl).mirror && x.run != .retired && lanes != 0 then some (s.mapGroup b g (fun y => { y with strike := y.strike ||| lanes })) else none
    | _, _ => none
  | .cleanLine c line => some (setCache s c ((cacheOf s c).filter (fun e => !droppable line e.2)))
  | .regGranule b gr => loseState s b (fun p s => s.mapBlock b (fun bl => loseRegs p bl gr))
  | .kregs b g => loseState s b (fun _ s => s.mapGroup b g (fun x => { x with r := { x.r with k := [] } }))
  | .stack b g => loseState s b (fun _ s => loseStack s b g)
  | .lspace b gr => loseState s b (fun _ s => s.mapBlock b (fun bl => { bl with loc := loseBytes bl.loc gr }))
  | .abuf b gr => loseState s b (fun _ s => s.mapBlock b (fun bl => { bl with abuf := loseBytes bl.abuf gr }))
  | .wbuf b gr => loseState s b (fun p s => s.mapBlock b (fun bl => loseWbuf p bl gr))
  | .matrix core i =>
    match (s.core core).mtx[i]? with
    | none => none
    | some c => if c.started then some (s.mapCore core (fun k => { k with mtx := k.mtx.map (fun x => if x.id = c.id then failCmd s c else x) })) else none

/-- UNCORRECTABLE_ERROR (R148, R319, R379, R380). -/
def uncorrectableErrorEvent (site : ErrorSite) (s : State) : Option State :=
  match errorAt s site with
  | some t => some t
  | none => none

/-- The meaning: the event, or nothing where it does not occur. -/
def execUncorrectableError (site : ErrorSite) (s : State) : Host.Outcome State Fault Refusal := happen s (uncorrectableErrorEvent site s)

/-- CORRECTABLE_ERROR (R382, R383): corrected, counted on its die, and recorded. -/
def execCorrectableError (die : Nat) (ctx : Nat) (s : State) : Host.Outcome State Fault Refusal :=
  let n := (tget s.mgmt.cet die).getD 0
  let s1 := { s with mgmt := { s.mgmt with cet := tset s.mgmt.cet die (if n = BitVec.allOnes 32 then n else n + 1),
                                           cew := tset s.mgmt.cew die ((tget s.mgmt.cew die).getD [] ++ [s.clk.toNat]) } }
  .next (s1.logEvent 3 0 0 0 (ctx % 2 ^ 16) 0)

/-- MEMORY_POISON (R381, R382): the sector is poisoned at its home, and the event is recorded. -/
def execMemoryPoison (sec : Nat) (s : State) : Host.Outcome State Fault Refusal :=
  let s1 := { s with poison := if s.poison.contains sec then s.poison else sec :: s.poison }
  .next (s1.logEvent 4 0 0 0 0 (32 * sec))

end Sys2Proof.Machine
end

