-- ==== Sys2Proof/Machine/Observe.lean ====
section
/-! DEFINITION. The debug interface, PC sampling and the Chain's walk (spec/15_observation.md R386 to R392, R395, R396). -/

namespace Sys2Proof.Machine

open Sys2Proof

/-! ### The Chain's walk (R394 to R396) -/

/-- An edge record as it is read back. -/
structure Edge where
  waiter  : Nat
  arriver : Nat
  ptr     : Ptr
  arrival : Nat
  release : Nat
  remote  : Bool
deriving DecidableEq, Repr

/-- A 32-bit time of an edge in a step from `t0` to `t` widened (R396): to the latest value not after `t`; in a step longer than 2^32 cycles the spec
leaves the widening of older edges open, and the value is a free one with the same low 32 bits (log 43). -/
def widen (t0 t x : Nat) : Nat :=
  if 2 ^ 32 < t - t0 then x % 2 ^ 32 + 2 ^ 32 * Config.widenPick t x else t - (t + 2 ^ 32 - x % 2 ^ 32) % 2 ^ 32

/-- The edge record that a pointer names; none when it is overwritten. -/
def edgeAt (s : State) (ctx : Nat) (base : Word) (t0 t1 : Nat) (e : Ptr) : Option Edge :=
  match tget (chainOf s ctx).laps (((e.va - base).toNat - 0x40) / 32), ctxRead s ctx e.va 32 with
  | some (lap, ptrLap), some bs =>
    if lap ≠ e.lap then none
    else some { waiter := leAt bs 0 4, arriver := leAt bs 4 4, ptr := { va := BitVec.ofNat 64 (leAt bs 8 8), lap := ptrLap }, arrival := widen t0 t1 (leAt bs 20 4),
                release := widen t0 t1 (leAt bs 24 4), remote := (BitVec.ofNat 8 (leAt bs 29 1)).getLsbD 0 }
  | _, _ => none

/-- A segment: agent, cause (0 RUN, 1 SYNC, 2 REMOTE, 3 START, 4 TRUNC), start, end, record. -/
structure Seg where
  who   : Nat
  cause : Nat
  start : Nat
  stop  : Nat
  ref   : Word
deriving DecidableEq, Repr

/-- The walk back from a record (R396): segments from the latest to the earliest, and whether it met an overwritten record. -/
def walkBack (s : State) (ctx : Nat) (base : Word) (t0 t1 : Nat) : Nat → List Seg → Nat → Nat → Ptr → List Seg × Bool
  | 0, acc, _, _, _ => (acc, false)
  | n + 1, acc, who, t, e =>
    let start : Seg := { who := who, cause := 3, start := t0, stop := t, ref := 0 }
    if e.va = 0 then (acc ++ [start], false)
    else if 4096 ≤ acc.length then (acc, false)
    else match edgeAt s ctx base t0 t1 e with
      | none => (acc ++ [{ who := who, cause := 4, start := 0, stop := t, ref := e.va }], true)
      | some x =>
        if x.release < t0 then (acc ++ [start], false)
        else
          let acc1 := acc ++ [{ who := who, cause := 0, start := x.release, stop := t, ref := e.va },
                              { who := x.waiter, cause := 1, start := x.arrival, stop := x.release, ref := e.va }]
          if x.remote then (acc1 ++ [{ who := x.arriver, cause := 2, start := 0, stop := x.arrival, ref := x.ptr.va }], false)
          else walkBack s ctx base t0 t1 n acc1 x.arriver x.arrival x.ptr

/-- The 32 bytes of a segment. -/
def segBytes (x : Seg) : List Byte :=
  toBytes 4 x.who ++ toBytes 1 x.cause ++ toBytes 3 0 ++ toBytes 8 x.start ++ toBytes 8 x.stop ++ toBytes 8 x.ref.toNat

/-- A report: its header and the segments in ascending time order. -/
def reportBytes (label : Word) (t0 t1 : Nat) (r : List Seg × Bool) : List Byte :=
  let n := r.1.length
  toBytes 8 label.toNat ++ toBytes 8 t0 ++ toBytes 8 t1 ++ toBytes 4 n ++ toBytes 4 ((if r.2 then 1 else 0) + (if 4096 ≤ n then 2 else 0)) ++
  r.1.reverse.flatMap segBytes

/-- Writes bytes into the report ring from RTAIL on, going on at its start (R395). -/
def ringPut (s : State) (ctx : Nat) (base : Word) (size tail : Nat) (bs : List Byte) : Option State :=
  let half := size / 2
  let at_ := tail % half
  let room := half - at_
  let put := fun (s : State) (o : Nat) (bs : List Byte) => if bs.isEmpty then some s else ctxPut s ctx (base + BitVec.ofNat 64 (half + o)) bs
  (put s at_ (bs.take room)).bind (fun s => put s 0 (bs.drop room))

/-- Writes the report of a walk when the ring has room and the buffer can be written; RTAIL advances after it. -/
def writeReport (s : State) (ctx : Nat) (label : Word) (t0 t1 who : Nat) (ptr : Ptr) : State :=
  match chainBuffer s ctx with
  | none => s
  | some (base, size) =>
    match ctxWord s ctx (base + 16), ctxWord s ctx (base + 24) with
    | some tail, some head =>
      let bs := reportBytes label t0 t1 (walkBack s ctx base t0 t1 4097 [] who t1 ptr)
      if size / 2 < tail.toNat - head.toNat + bs.length then s
      else ((ringPut s ctx base size tail.toNat bs).bind (fun s => ctxPutWord s ctx (base + 16) (tail + BitVec.ofNat 64 bs.length))).getD s
    | _, _ => s

/-- The group that opens the next step: of those that still wait at STEPB, the first to have issued it, then the lowest id (R340). -/
def firstStalled (s : State) (c : Chain) : Option (Nat × Nat × Word × Nat × Nat) :=
  (c.stalled.filter (fun x => match s.group? x.1 x.2.1 with | some g => (match g.run with | .waiting .walk _ => true | _ => false) | none => false)).foldl
    (fun (b : Option (Nat × Nat × Word × Nat × Nat)) x =>
      match b with
      | none => some x
      | some y => if x.2.2.2.1 < y.2.2.2.1 ∨ (x.2.2.2.1 = y.2.2.2.1 ∧ x.2.2.2.2 < y.2.2.2.2) then some x else some y) none

/-- A STEPB that has waited for the walk completes: its group found a step open, or opened it (R340). -/
def completeStepb (s : State) (b g : Nat) : State :=
  match viewOf s { blk := b, grp := g, lane := none } with
  | none => s
  | some v => match v.run with
    | .waiting .walk _ => stepSettle (skip s v 16) v (wordAt s v.core v.ctx v.r.pc)
    | _ => s

/-- CHAIN_WALK_COMPLETE (R340, R395, R396): the report is written, the first group that stalled at STEPB opens the next step, and every group that
stalled there goes on. -/
def chainWalkCompleteEvent (ctx : Nat) (s : State) : Option State :=
  match (chainOf s ctx).walk with
  | none => none
  | some (label, t0, t1, who, ptr) =>
    let s1 := writeReport s ctx label t0 t1 who ptr
    let c := chainOf s1 ctx
    let s2 := setChainOf s1 ctx { c with walk := none, stalled := [], step := (firstStalled s1 c).map (fun x => (x.2.2.1, s.now)) }
    some (c.stalled.foldl (fun s x => completeStepb s x.1 x.2.1) s2)

/-- The meaning: the event, or nothing where it does not occur. -/
def execChainWalkComplete (ctx : Nat) (s : State) : Host.Outcome State Fault Refusal := happen s (chainWalkCompleteEvent ctx s)

/-! ### PC sampling (R392) -/

/-- May sampling use the range: in the tenant's windows, and in no protected window (R341, R342, R355)? -/
def sampleOk (s : State) (t : Tenant) (pa n : Nat) : Bool := (t.window false pa n).isSome && !protectedFrom s 1024 pa n

/-- A tenant's sample header: period exponent and capacity; none when sampling is off. -/
def sampleHeader (s : State) (t : Tenant) : Option (Nat × Nat) :=
  let w := physWord s t.sample
  if sampleOk s t t.sample 0x40 && w.getLsbD 63 then some (max 6 (min 20 (w.toNat % 32)), (max 1 (bitsOf w.toNat 47 32) * 65536 - 0x40) / 32) else none

/-- Is a sampling of a core due for a tenant: has a period boundary passed since the latest? -/
def samplePeriod (s : State) (core : Nat) (t : Tenant) : Bool :=
  match sampleHeader s t with
  | some (n, _) => decide ((s.core core).sampled / 2 ^ n < s.clk.toNat / 2 ^ n)
  | none => false

/-- Is a sampling of a core due? -/
def sampleDue (s : State) (core : Nat) : Bool := s.tenants.any (fun e => e.2.flags.getLsbD 0 && samplePeriod s core e.2)

/-- An agent's stall reason from what it waits for, its opcode, and the engine queue that it names; 29 where only another cause tells. -/
def waitReason (k : WaitKind) (cl : Bool) (want : List Nat) (op : Nat) : Nat :=
  match k with
  | .barrier => if cl then 11 else 10
  | .tb => 12
  | .waitv => 13
  | .mwait => 9
  | .mbatch => 8
  | .tile => 14
  | .arrival => 20
  | .rfence => 25
  | .recall => 22
  | .validator => 19
  | .queue => match want with | [0] | [1] => 6 | [2] => 7 | _ => 5
  | .launch => 19
  | .walk | .engines | .transfer => 29
  | .remote =>
    if 0xC0 ≤ op ∧ op ≤ 0xC5 then 25
    else if op = 0x79 ∨ op = 0x7A ∨ op = 0x9B ∨ op = 0xE5 then 21
    else if op = 0xE3 then 26
    else if op = 0xA4 ∨ op = 0xA5 ∨ op = 0xE6 ∨ op = 0xE7 then 19
    else 29

/-- What keeps the next instruction of an agent from issuing: a window (R38), the fetch, a full store queue (R176), full send storage (R260). -/
def heldReason (s : State) (bl : Block) (ag : AgentRef) (ejected : List Nat) (r : Regs) (w : Word) : List Nat :=
  (if windowBlocked r w then [2] else []) ++ (if fetchWaits s bl.core bl.ctx r.pc (takesX (w.toNat / 2 ^ 47 % 256)) then [3] else []) ++
  (if queueStalls s bl.core ag ejected then [5] else []) ++ (if unsent s ag then [25] else [])

/-- The causes that hold for a group or lane that did not issue (R392). One that could issue is 1; no turn of the model finds the vector datapath
busy (code 4), and other cycles are 29. -/
def stallCauses (s : State) (b : Nat) (bl : Block) (gi : Nat) (g : Group) (lane : Option Nat) (r : Regs) (run : RunState) : List Nat :=
  let w := wordAt s bl.core bl.ctx r.pc
  let held := heldReason s bl { blk := b, grp := gi, lane := lane } (g.threads.map (fun t => t.lane)) r w
  let inactive : Bool := (s.core bl.core).active != some bl.ctx
  let atWide : Bool := (g.focus.map (fun f => f.atWide)) == some true
  let entry : Bool := lane.isNone && g.handler.isNone && (!g.async.isEmpty || (heldFirst g.held).isSome) && r.awaiting
  let own : List Nat := match run with
    | .ready => if held.isEmpty && !inactive && !g.halted && !bl.stopping then [1] else []
    | .waiting k _ => [waitReason k (w.getLsbD 4) (if lane.isNone then g.want else []) (w.toNat / 2 ^ 47 % 256)]
    | .parkedJoin _ => [if g.threads.any (fun t => t.run == .recalling) then 15 else 16]
    | .recalling => [15]
    | .sleeping _ => [17]
    | .yielding _ _ => [18]
    | _ => []
  own ++ held ++ (if inactive then [23] else []) ++ (if g.halted then [if atWide then 28 else 24] else []) ++ (if entry then [26] else []) ++
  (if bl.stopping then [27] else [])

/-- The stall reason of a group or lane (R392): the first of the table that holds. -/
def stallReason (s : State) (b : Nat) (bl : Block) (gi : Nat) (g : Group) (lane : Option Nat) (r : Regs) (run : RunState) (issued : Bool) : Nat :=
  if issued then 0 else (stallCauses s b bl gi g lane r run).foldl min 29

/-- The engine command that a stalled group waits for, as ECSN: the oldest of a full queue, or the group's oldest matrix command. -/
def stallEcsn (s : State) (b : Nat) (bl : Block) (gi : Nat) (g : Group) (reason : Nat) : Word :=
  let k := s.core bl.core
  match reason with
  | 6 => ((if g.want = [0] then k.btl else k.bts).head?.map (fun c => ecsnWord c.ecsn)).getD 0
  | 7 => (k.mtx.head?.map (fun c => ecsnWord c.ecsn)).getD 0
  | 8 | 9 => ((k.mtx.find? (fun c => c.blk == b && c.grp == gi)).map (fun c => ecsnWord c.ecsn)).getD 0
  | _ => 0

/-- Writes one sample record to a tenant's buffer; a full ring counts it as lost. LEN is the tenant's own word: a record whose place lies outside the
tenant's windows, or in a protected window, is dropped (R341; DEDUCED, log 45). -/
def putSample (s : State) (t : Tenant) (rec_ : List Byte) : State :=
  match sampleHeader s t with
  | none => s
  | some (_, cap) =>
    let tail := physWord s (t.sample + 8)
    let head := physWord s (t.sample + 16)
    let at_ := t.sample + 0x40 + 32 * (tail.toNat % cap)
    if cap ≤ (tail - head).toNat then physPutWord s (t.sample + 24) (physWord s (t.sample + 24) + 1)
    else if !sampleOk s t at_ 32 then s
    else physPutWord (physPut s at_ rec_) (t.sample + 8) (tail + 1)

/-- One sample of an agent, written when its tenant's period has passed. `core` is as it was before this sampling. -/
def sampleAgent (s0 s : State) (b : Nat) (bl : Block) (gi : Nat) (g : Group) (th : Option Thread) : State :=
  match tenantOf s0 bl.ctx with
  | none => s
  | some t =>
    if samplePeriod s0 bl.core t then
      let r := match th with | some x => x.r | none => g.r
      let run := match th with | some x => x.run | none => g.run
      let issued : Bool := match th with
        | some x => s0.now == x.lastIss + 1
        | none => s0.now == g.issAt + 1 && tget (s0.core bl.core).greedy (g.slot / 64) == some (b, gi)
      let why := stallReason s0 b bl gi g (th.map (fun x => x.lane)) r run issued
      putSample s t (toBytes 8 r.pc.toNat ++ toBytes 8 (stallEcsn s0 b bl gi g why).toNat ++
        toBytes 4 (agentId s0 bl.core (match th with | some x => 272 + x.num | none => g.slot)) ++ toBytes 2 bl.ctx ++
        toBytes 1 (why + (if issued then 128 else 0)) ++ toBytes 1 0 ++ toBytes 8 s0.now)
    else s

/-- The first item at or after a place in rotation, else the first. -/
def nextInTurn {α : Type} (key : α → Nat) (from_ : Nat) (l : List α) : Option α :=
  let low := fun (l : List α) => l.foldl (fun (b : Option α) x => match b with | none => some x | some y => if key x < key y then some x else some y) none
  match low (l.filter (fun x => decide (from_ ≤ key x))) with
  | some x => some x
  | none => low l

/-- The groups in slots of a core, and its threads. -/
def slotAgents (s : State) (core : Nat) : List (Nat × Block × Nat × Group) :=
  s.blocks.flatMap (fun e => if e.2.core = core ∧ e.2.res = .resident then
    (e.2.groups.filter (fun q => match q.2.run with | .parkedOff _ | .retired => false | _ => true)).map (fun q => (e.1, e.2, q.1, q.2)) else [])

/-- The threads of a core's scruple pool. -/
def poolAgents (s : State) (core : Nat) : List (Nat × Block × Nat × Group × Thread) :=
  (slotAgents s core).flatMap (fun x => x.2.2.2.threads.map (fun t => (x.1, x.2.1, x.2.2.1, x.2.2.2, t)))

/-- A quarter samples its next occupied group slot. -/
def sampleQuarter (s0 : State) (core : Nat) (s : State) (q : Nat) : State :=
  match nextInTurn (fun (x : Nat × Block × Nat × Group) => x.2.2.2.slot) ((s0.core core).sample.getD q 0) ((slotAgents s0 core).filter (fun x => x.2.2.2.slot / 64 == q)) with
  | none => s
  | some x => (sampleAgent s0 s x.1 x.2.1 x.2.2.1 x.2.2.2 none).mapCore core (fun c => { c with sample := c.sample.set q (x.2.2.2.slot + 1) })

/-- The scruple pool samples its next occupied thread. -/
def samplePool (s0 : State) (core : Nat) (s : State) : State :=
  match nextInTurn (fun (x : Nat × Block × Nat × Group × Thread) => x.2.2.2.2.num) ((s0.core core).sample.getD 4 0) (poolAgents s0 core) with
  | none => s
  | some x => (sampleAgent s0 s x.1 x.2.1 x.2.2.1 x.2.2.2.1 (some x.2.2.2.2)).mapCore core (fun c => { c with sample := c.sample.set 4 (x.2.2.2.2.num + 1) })

/-- PC_SAMPLE (R392): the quarters and the scruple pool of a core write one record each. -/
def pcSampleEvent (core : Nat) (s : State) : Option State :=
  if sampleDue s core then
    let s1 := samplePool s core ([0, 1, 2, 3].foldl (sampleQuarter s core) s)
    some (s1.mapCore core (fun c => { c with sampled := s.clk.toNat }))
  else none

/-- The meaning: the event, or nothing where it does not occur. -/
def execPcSample (core : Nat) (s : State) : Host.Outcome State Fault Refusal := happen s (pcSampleEvent core s)

/-! ### Debug commands (R386) -/

/-- A command's status byte, which the mailbox holds (R418; that both mailboxes show it is the model's choice, log 15). -/
def reply (s : State) (n : Nat) : Host.Outcome State Fault Refusal :=
  .next { s with host := { s.host with status := s.host.status ++ [n], mbxStatus := BitVec.ofNat 8 n } }

/-- The debugger's hold on a context. -/
def dbgOf (s : State) (ctx : Nat) : Dbg := (tget s.dbg ctx).getD { attached := false, allstop := false, bp := [], wp := [] }

/-- Replaces it. -/
def setDbg (s : State) (ctx : Nat) (d : Dbg) : State := { s with dbg := tset s.dbg ctx d }

/-- Is a context confidential? -/
def isConf (s : State) (ctx : Nat) : Bool := match tget s.ctxs ctx with | some c => c.conf | none => false

/-- The status that refuses a command on a context, if any: no such context, not held, or confidential where that matters. -/
def dbgRefused (s : State) (ctx : Nat) (secret : Bool) : Option Nat :=
  if (tget s.ctxs ctx).isNone then some 2 else if (secret && isConf s ctx) || !debugged s ctx then some 3 else none

/-- A group of a context, with its block. -/
def dbgGroup (s : State) (ctx b g : Nat) : Option (Block × Group) :=
  match tget s.blocks b, s.group? b g with
  | some bl, some x => if bl.ctx = ctx then some (bl, x) else none
  | _, _ => none

/-- Does a block key name a block of a launched grid of a context, placed or not, retired or not? -/
def dbgNames (s : State) (ctx b g : Nat) : Bool :=
  match tget s.grids (b / 2 ^ 32) with
  | none => false
  | some x => x.ctx == ctx && decide (b % 2 ^ 32 < x.pkt.blocks) && decide (g < x.pkt.groups)

/-- The groups that a command names; none when the target is out of range. -/
def dbgTargets (s : State) (ctx : Nat) (t : DbgTarget) : Option (List (Nat × Nat)) :=
  match t with
  | .group b g => if dbgNames s ctx b g then some ((dbgGroup s ctx b g).map (fun _ => (b, g))).toList else none
  | .block b =>
    if dbgNames s ctx b 0 then some (match tget s.blocks b with | some bl => bl.groups.map (fun q => (b, q.1)) | none => []) else none
  | .context => some (s.blocks.flatMap (fun e => if e.2.ctx = ctx then e.2.groups.map (fun q => (e.1, q.1)) else []))

/-- ATTACH. -/
def execAttach (ctx : Nat) (allstop : Bool) (s : State) : Host.Outcome State Fault Refusal :=
  if (tget s.ctxs ctx).isNone then reply s 2 else reply (setDbg s ctx { dbgOf s ctx with attached := true, allstop := allstop }) 0

/-- Has a focused path come to the entry of the deferred lanes, so that the two may merge (R390)? -/
def mayMerge (g : Group) (f : Focus) (e : StackEntry) : Bool := f.pushed && g.r.mask == laneBit f.lane && !e.kd && e.rpc == g.r.rpc && e.pc == g.r.pc

/-- Ends focus (R390). -/
def unfocusGroup (g : Group) : Group :=
  match g.focus, g.stack with
  | some f, e :: rest =>
    if mayMerge g f e then { g with focus := none, stack := rest, fair := 0, defer := 0, r := { g.r with mask := g.r.mask ||| e.mask } } else { g with focus := none }
  | _, _ => { g with focus := none }

/-- DETACH. -/
def execDetach (ctx : Nat) (s : State) : Host.Outcome State Fault Refusal :=
  match dbgRefused s ctx false with
  | some n => reply s n
  | none =>
    let s1 := setDbg s ctx { attached := false, allstop := false, bp := [], wp := [] }
    reply { s1 with blocks := tmap (fun (bl : Block) => if bl.ctx = ctx then
      { bl with groups := tmap (fun g => { unfocusGroup g with halted := false, stepping := none }) bl.groups } else bl) s1.blocks } 0

/-- A group halts at its boundary, with what its windows hold written. -/
def haltGroup (g : Group) : Group := { g.halt with stepping := none }

/-- HALT: every stop halts every group of the context under ALLSTOP. -/
def execHalt (ctx : Nat) (t : DbgTarget) (s : State) : Host.Outcome State Fault Refusal :=
  match dbgRefused s ctx false, dbgTargets s ctx t with
  | some n, _ => reply s n
  | none, none => reply s 2
  | none, some l => reply (if l.isEmpty then s else stopOthers (l.foldl (fun s x => s.mapGroup x.1 x.2 haltGroup) s) ctx) 0

/-- RESUME: a group that is not halted is no target. -/
def execResume (ctx : Nat) (t : DbgTarget) (s : State) : Host.Outcome State Fault Refusal :=
  match dbgRefused s ctx false, dbgTargets s ctx t with
  | some n, _ => reply s n
  | none, none => reply s 2
  | none, some l =>
    let halted := l.filter (fun x => match s.group? x.1 x.2 with | some g => g.halted | none => false)
    if halted.isEmpty then reply s 1 else reply (halted.foldl (fun s x => s.mapGroup x.1 x.2 (fun g => { g with halted := false, stepping := none })) s) 0

/-- Is a group halted with its windows settled? -/
def stopped (g : Group) : Bool := g.halted && !g.r.awaiting

/-- What STEP, FOCUS, UNFOCUS, CATCHUP, READ and WRITE share: the group must exist and be halted. -/
def onHalted (s : State) (ctx b g : Nat) (f : Block → Group → Host.Outcome State Fault Refusal) : Host.Outcome State Fault Refusal :=
  match dbgRefused s ctx true, dbgGroup s ctx b g with
  | some n, _ => reply s n
  | none, none => reply s (if dbgNames s ctx b g then 1 else 2)
  | none, some (bl, x) => if stopped x then f bl x else reply s 1

/-- STEP (R389): the group, or under focus of an ejected lane its thread alone (R391), runs until the step ends. -/
def execStep (ctx : Nat) (b : Nat) (g : Nat) (k : StepKind) (s : State) : Host.Outcome State Fault Refusal :=
  onHalted s ctx b g (fun _ x =>
    let thread : Bool := (x.focus.map (fun f => f.isThread)) = some true
    if thread && k == .out then reply s 2
    else reply (s.mapGroup b g (fun x =>
      { x with stepping := some { kind := k, link := none, depth := x.stack.length, nest := 0, mask := x.r.mask }, halted := thread,
               focus := x.focus.map (fun f => { f with atWide := false }) })) 0)

/-- Lane focus on a lane of the current path (R390): the others become a pending entry. -/
def focusLane (g : Group) (l : Nat) : Group :=
  let rest := g.r.mask &&& ~~~ laneBit l
  let f : Focus := { lane := l, pushed := rest != 0, isThread := false, atWide := false, catchUp := none }
  if rest = 0 then { g with focus := some f }
  else { g with focus := some f, fair := 0, defer := 0, r := { g.r with mask := laneBit l },
                stack := { ej := 0, rpc := g.r.rpc, mask := rest, pc := g.r.pc, kd := false, recalled := false } :: g.stack }

/-- FOCUS (R390, R391). -/
def execFocus (ctx : Nat) (b : Nat) (g : Nat) (l : Nat) (s : State) : Host.Outcome State Fault Refusal :=
  onHalted s ctx b g (fun _ x =>
    if 64 ≤ l then reply s 2
    else if x.focus.isSome then reply s 1
    else if (x.thread? l).isSome then
      reply (s.mapGroup b g (fun x => { x with focus := some { lane := l, pushed := false, isThread := true, atWide := false, catchUp := none } })) 0
    else if !x.r.mask.getLsbD l then reply s 1
    else if x.r.mask ≠ laneBit l ∧ x.freeEntries = 0 then reply s 4
    else reply (s.mapGroup b g (fun x => focusLane x l)) 0)

/-- UNFOCUS (R390). -/
def execUnfocus (ctx : Nat) (b : Nat) (g : Nat) (s : State) : Host.Outcome State Fault Refusal :=
  onHalted s ctx b g (fun _ x => if x.focus.isSome then reply (s.mapGroup b g unfocusGroup) 0 else reply s 1)

/-- CATCHUP (R390): the deferred lanes run in place of the focused one, unless they are there already. -/
def execCatchup (ctx : Nat) (b : Nat) (g : Nat) (s : State) : Host.Outcome State Fault Refusal :=
  onHalted s ctx b g (fun _ x =>
    match x.focus, x.stack with
    | some f, e :: _ =>
      if !f.pushed || x.r.mask != laneBit f.lane || e.kd || e.rpc != x.r.rpc then reply s 1
      else if e.pc = x.r.pc ∨ e.pc = e.rpc then reply s 0
      else reply (s.mapGroup b g (fun x =>
        { x.swapTop with halted := false, stepping := none, focus := some { f with catchUp := some (x.r.pc, x.stack.length) } })) 0
    | _, _ => reply s 1)

/-! ### READ and WRITE -/

/-- An entry in the form of R296. -/
def entryBytes (e : StackEntry) : List Byte :=
  toBytes 8 (e.pc.toNat / 8 * 8 + (if e.kd then 1 else 0)) ++ toBytes 8 e.mask.toNat ++ toBytes 8 e.rpc.toNat ++ toBytes 8 e.ej.toNat

/-- The registers that hold a lane: its thread's, or its group's. -/
def laneHome (g : Group) (l : Nat) : Regs := match g.thread? l with | some t => t.r | none => g.r

/-- A guard slot: 0 unresolved, 1 armed, 2 resolved false, 3 resolved true, and its commands (log 15). -/
def guardBytes (x : Guard) : List Byte :=
  match x with
  | .free => [0, 0, 0]
  | .armed n => toBytes 1 1 ++ toBytes 2 n
  | .resolved v n => toBytes 1 (if v then 3 else 2) ++ toBytes 2 n

/-- The space that an item of bytes names, with its range. -/
def itemSpace (it : DbgItem) : Option (Space × Nat × Nat) :=
  match it with
  | .local off len => some (.loc, off, len)
  | .abuf off len => some (.abuf, off, len)
  | .wbuf off len => some (.wbuf, off, len)
  | .zbuf off len => some (.zbuf, off, len)
  | _ => none

/-- A glb READ (R213, R386): the device's read of the range, none where it does not pass, a poisoned sector (R381; DEDUCED, log 15) too. -/
def readGlb (s : State) (ctx : Nat) (va : Word) (n : Nat) : Option (List Byte) :=
  match ctxSpans s ctx va n false with
  | none => none
  | some l => if poisoned s l then none else ctxRead s ctx va n

/-- What a READ leaves: its glb access sets A in the leaves (R346). -/
def readMarks (s : State) (ctx : Nat) (it : DbgItem) : State :=
  match it with
  | .glb va len => ((ctxSpans s ctx va len false).getD []).foldl (fun s sp => markPte s sp.page false) s
  | _ => s

/-- What READ gives; none for a field out of range. -/
def readItem (s : State) (b : Nat) (bl : Block) (g : Group) (it : DbgItem) : Option (List Byte) :=
  let p := packetOf s bl
  match it with
  | .v l n => if l < 64 ∧ n < p.regs then some (toBytes 4 ((laneHome g l).vget l n).toNat) else none
  | .k n => if n < 64 then some (toBytes 8 (g.r.kget n).toNat) else none
  | .p l n => if l < 64 ∧ n < 7 then some (toBytes 1 (if (laneHome g l).pget l n then 1 else 0)) else none
  | .q n => if n < 7 then some (toBytes 1 (if g.r.qget n then 1 else 0)) else none
  | .g n => if n < 8 then some (guardBytes (g.guard n)) else none
  | .path => some (toBytes 8 g.r.pc.toNat ++ toBytes 8 g.r.mask.toNat ++ toBytes 8 g.r.rpc.toNat)
  | .entry i => (g.stack.reverse[i]?).map entryBytes
  | .fpf => some (toBytes 8 (fpfWord g.r.fpf).toNat)
  | .glb va len => readGlb s bl.ctx va len
  | _ => (itemSpace it).bind (fun x => (sideOf p x.1 x.2.1 x.2.2).map (fun y => localRead s x.1 { blk := b, fol := y.1, off := y.2 } x.2.2))

/-- READ (R386). -/
def execRead (ctx : Nat) (b : Nat) (g : Nat) (it : DbgItem) (s : State) : Host.Outcome State Fault Refusal :=
  onHalted s ctx b g (fun bl x =>
    match readItem s b bl x it with
    | none => reply s 2
    | some bs => reply { readMarks s ctx it with host := { s.host with answers := s.host.answers ++ [bs] } } 0)

/-- Applies a function to the registers that hold a lane. -/
def onLane (s : State) (b g : Nat) (x : Group) (l : Nat) (f : Regs → Regs) : State :=
  s.mapRegs { blk := b, grp := g, lane := if (x.thread? l).isSome then some l else none } f

/-- A word of an image. -/
def imageWord (x : List Byte) (i : Nat) : Word := BitVec.ofNat 64 (leAt x (8 * i) 8)

/-- An entry after a write in the form of R296; EJ is read-only. -/
def imageEntry (e : StackEntry) (x : List Byte) : StackEntry :=
  { e with pc := imageWord x 0 &&& ~~~ 7#64, kd := (imageWord x 0).getLsbD 0, mask := imageWord x 1, rpc := imageWord x 2 }

/-- A guard slot from its bytes. -/
def guardOf (x : List Byte) : Guard :=
  match leAt x 0 1 with
  | 1 => .armed (leAt x 1 2)
  | 2 => .resolved false (leAt x 1 2)
  | 3 => .resolved true (leAt x 1 2)
  | _ => .free

/-- What WRITE does; none for a field out of range or an image of the wrong length. -/
def writeItem (s : State) (b gi : Nat) (bl : Block) (g : Group) (it : DbgItem) (x : List Byte) : Option State :=
  let p := packetOf s bl
  let ag : AgentRef := { blk := b, grp := gi, lane := none }
  match it with
  | .v l n => if l < 64 ∧ n < p.regs ∧ x.length = 4 then some (onLane s b gi g l (fun r => r.write (.v l n (BitVec.ofNat 32 (fromBytes x))))) else none
  | .k n => if n < 64 ∧ x.length = 8 then some (s.mapRegs ag (fun r => r.write (.k n (imageWord x 0)))) else none
  | .p l n => if l < 64 ∧ n < 7 ∧ x.length = 1 then some (onLane s b gi g l (fun r => r.write (.p l n (leAt x 0 1 % 2 == 1)))) else none
  | .q n => if n < 7 ∧ x.length = 1 then some (s.mapRegs ag (fun r => r.write (.q n (leAt x 0 1 % 2 == 1)))) else none
  | .g n => if n < 8 ∧ x.length = 3 then some (s.mapGroup b gi (fun y => y.setGuard n (guardOf x))) else none
  | .path =>
    if x.length = 24 ∧ (imageWord x 0).toNat % 8 = 0 then
      some (s.mapRegs ag (fun r => { r with pc := imageWord x 0, mask := imageWord x 1, rpc := imageWord x 2 }))
    else none
  | .entry i =>
    if i < g.stack.length ∧ x.length = 32 then
      some (s.mapGroup b gi (fun y => { y with stack := (listMod y.stack.reverse i (fun e => imageEntry e x)).reverse }))
    else none
  | .fpf => if x.length = 8 then some (s.mapRegs ag (fun r => { r with fpf := (imageWord x 0).setWidth 5 })) else none
  | .glb va len => if x.length = len then ctxPut s bl.ctx va x else none
  | _ => (itemSpace it).bind (fun y => if x.length = y.2.2 then
      (sideOf p y.1 y.2.1 y.2.2).map (fun z => localWrite s y.1 { blk := b, fol := z.1, off := z.2 } x) else none)

/-- WRITE (R386). -/
def execWrite (ctx : Nat) (b : Nat) (g : Nat) (it : DbgItem) (x : List Byte) (s : State) : Host.Outcome State Fault Refusal :=
  onHalted s ctx b g (fun bl y =>
    match writeItem s b g bl y it x with
    | none => reply s 2
    | some t => reply t 0)

/-! ### Breakpoints and watchpoints (R387) -/

/-- The status that refuses SETBP and SETWP, which need no attached debugger: the example of R376 routes a watchpoint to a handler (log 15). -/
def bpRefused (s : State) (ctx : Nat) : Option Nat := if (tget s.ctxs ctx).isNone then some 2 else if isConf s ctx then some 3 else none

/-- SETBP. -/
def execSetbp (ctx : Nat) (n : Nat) (x : Word) (s : State) : Host.Outcome State Fault Refusal :=
  match bpRefused s ctx with
  | some k => reply s k
  | none => if 8 ≤ n ∨ bitsOf x.toNat 2 1 ≠ 0 then reply s 2 else reply (setDbg s ctx { dbgOf s ctx with bp := tset (dbgOf s ctx).bp n x }) 0

/-- SETWP: word 1, then word 0. -/
def execSetwp (ctx : Nat) (n : Nat) (w1 : Word) (w0 : Word) (s : State) : Host.Outcome State Fault Refusal :=
  match bpRefused s ctx with
  | some k => reply s k
  | none => if 4 ≤ n ∨ bitsOf w1.toNat 55 40 ≠ 0 then reply s 2 else reply (setDbg s ctx { dbgOf s ctx with wp := tset (dbgOf s ctx).wp n (w1, w0) }) 0

end Sys2Proof.Machine
end

