-- ==== Sys2Proof/Machine/Dispatch.lean ====
section
/-! DEFINITION. The meaning of every instruction and event: one arm for each constructor of Instr. -/

namespace Sys2Proof.Machine

open Sys2Proof

def exec (i : Instr) (s : State) : Host.Outcome State Fault Refusal :=
  match i with
  | .add h m => Sys2Proof.Machine.execAdd h m s
  | .sub h m => Sys2Proof.Machine.execSub h m s
  | .min h m => Sys2Proof.Machine.execMin h m s
  | .max h m => Sys2Proof.Machine.execMax h m s
  | .abs h m => Sys2Proof.Machine.execAbs h m s
  | .mul h m => Sys2Proof.Machine.execMul h m s
  | .mulh h m => Sys2Proof.Machine.execMulh h m s
  | .mad h m => Sys2Proof.Machine.execMad h m s
  | .divu h m => Sys2Proof.Machine.execDivu h m s
  | .divs h m => Sys2Proof.Machine.execDivs h m s
  | .remu h m => Sys2Proof.Machine.execRemu h m s
  | .rems h m => Sys2Proof.Machine.execRems h m s
  | .and h m => Sys2Proof.Machine.execAnd h m s
  | .or h m => Sys2Proof.Machine.execOr h m s
  | .xor h m => Sys2Proof.Machine.execXor h m s
  | .blut h tt => Sys2Proof.Machine.execBlut h tt s
  | .shl h m => Sys2Proof.Machine.execShl h m s
  | .shr h m => Sys2Proof.Machine.execShr h m s
  | .sar h m => Sys2Proof.Machine.execSar h m s
  | .fsh h m => Sys2Proof.Machine.execFsh h m s
  | .bfx h m => Sys2Proof.Machine.execBfx h m s
  | .bfi h m => Sys2Proof.Machine.execBfi h m s
  | .popc h m => Sys2Proof.Machine.execPopc h m s
  | .clz h m => Sys2Proof.Machine.execClz h m s
  | .ctz h m => Sys2Proof.Machine.execCtz h m s
  | .brev h m => Sys2Proof.Machine.execBrev h m s
  | .sel h m => Sys2Proof.Machine.execSel h m s
  | .iset h m cc => Sys2Proof.Machine.execIset h m cc s
  | .cmp h m cc => Sys2Proof.Machine.execCmp h m cc s
  | .lea h m => Sys2Proof.Machine.execLea h m s
  | .mov h m => Sys2Proof.Machine.execMov h m s
  | .movi h w x => Sys2Proof.Machine.execMovi h w x s
  | .fadd h m => Sys2Proof.Machine.execFadd h m s
  | .fmul h m => Sys2Proof.Machine.execFmul h m s
  | .ffma h m => Sys2Proof.Machine.execFfma h m s
  | .fmin h m => Sys2Proof.Machine.execFmin h m s
  | .fmax h m => Sys2Proof.Machine.execFmax h m s
  | .fcmp h m cc => Sys2Proof.Machine.execFcmp h m cc s
  | .fset h m cc => Sys2Proof.Machine.execFset h m cc s
  | .frcp h m => Sys2Proof.Machine.execFrcp h m s
  | .frsq h m => Sys2Proof.Machine.execFrsq h m s
  | .fsqrt h m => Sys2Proof.Machine.execFsqrt h m s
  | .fdiv h m => Sys2Proof.Machine.execFdiv h m s
  | .fexp2 h m => Sys2Proof.Machine.execFexp2 h m s
  | .flog2 h m => Sys2Proof.Machine.execFlog2 h m s
  | .fsin h m => Sys2Proof.Machine.execFsin h m s
  | .fcos h m => Sys2Proof.Machine.execFcos h m s
  | .frnd h m => Sys2Proof.Machine.execFrnd h m s
  | .fclass h m => Sys2Proof.Machine.execFclass h m s
  | .fscale h m => Sys2Proof.Machine.execFscale h m s
  | .fdot2 h m => Sys2Proof.Machine.execFdot2 h m s
  | .fdot4 h m pr => Sys2Proof.Machine.execFdot4 h m pr s
  | .cvt h m => Sys2Proof.Machine.execCvt h m s
  | .pack h m => Sys2Proof.Machine.execPack h m s
  | .unpack h m => Sys2Proof.Machine.execUnpack h m s
  | .amax h m => Sys2Proof.Machine.execAmax h m s
  | .qscale h m => Sys2Proof.Machine.execQscale h m s
  | .quant h m => Sys2Proof.Machine.execQuant h m s
  | .deq h m => Sys2Proof.Machine.execDeq h m s
  | .sround h => Sys2Proof.Machine.execSround h s
  | .prmt h ck => Sys2Proof.Machine.execPrmt h ck s
  | .shfl h m => Sys2Proof.Machine.execShfl h m s
  | .qxch h m => Sys2Proof.Machine.execQxch h m s
  | .qbcast h m => Sys2Proof.Machine.execQbcast h m s
  | .vote h m => Sys2Proof.Machine.execVote h m s
  | .matchLanes h m => Sys2Proof.Machine.execMatchLanes h m s
  | .redux h m => Sys2Proof.Machine.execRedux h m s
  | .scan h m => Sys2Proof.Machine.execScan h m s
  | .bra h lo => Sys2Proof.Machine.execBra h lo s
  | .braFar h x => Sys2Proof.Machine.execBraFar h x s
  | .brx h live => Sys2Proof.Machine.execBrx h live s
  | .join h => Sys2Proof.Machine.execJoin h s
  | .call h lo => Sys2Proof.Machine.execCall h lo s
  | .callFar h x => Sys2Proof.Machine.execCallFar h x s
  | .ret h => Sys2Proof.Machine.execRet h s
  | .jmpi h => Sys2Proof.Machine.execJmpi h s
  | .exit h => Sys2Proof.Machine.execExit h s
  | .recall h => Sys2Proof.Machine.execRecall h s
  | .bara h m => Sys2Proof.Machine.execBara h m s
  | .barw h m => Sys2Proof.Machine.execBarw h m s
  | .bars h m => Sys2Proof.Machine.execBars h m s
  | .tbinit h => Sys2Proof.Machine.execTbinit h s
  | .tbarr h => Sys2Proof.Machine.execTbarr h s
  | .tbexp h => Sys2Proof.Machine.execTbexp h s
  | .tbwait h => Sys2Proof.Machine.execTbwait h s
  | .tbtest h => Sys2Proof.Machine.execTbtest h s
  | .waitv h m => Sys2Proof.Machine.execWaitv h m s
  | .fence h dom sc all => Sys2Proof.Machine.execFence h dom sc all s
  | .brg h d1 sc d2 => Sys2Proof.Machine.execBrg h d1 sc d2 s
  | .gset h => Sys2Proof.Machine.execGset h s
  | .ldGlb h m => Sys2Proof.Machine.execLdGlb h m s
  | .ldLoc h m => Sys2Proof.Machine.execLdLoc h m s
  | .ldNbr h m => Sys2Proof.Machine.execLdNbr h m s
  | .ldAbuf h m => Sys2Proof.Machine.execLdAbuf h m s
  | .ldZbuf h m => Sys2Proof.Machine.execLdZbuf h m s
  | .stGlb h m => Sys2Proof.Machine.execStGlb h m s
  | .stLoc h m => Sys2Proof.Machine.execStLoc h m s
  | .stNbr h m => Sys2Proof.Machine.execStNbr h m s
  | .stAbuf h m => Sys2Proof.Machine.execStAbuf h m s
  | .stZbuf h m => Sys2Proof.Machine.execStZbuf h m s
  | .gldGlb h m => Sys2Proof.Machine.execGldGlb h m s
  | .gldLoc h m => Sys2Proof.Machine.execGldLoc h m s
  | .gstGlb h m => Sys2Proof.Machine.execGstGlb h m s
  | .gstLoc h m => Sys2Proof.Machine.execGstLoc h m s
  | .atomGlb h m => Sys2Proof.Machine.execAtomGlb h m s
  | .atomLoc h m => Sys2Proof.Machine.execAtomLoc h m s
  | .redGlb h m => Sys2Proof.Machine.execRedGlb h m s
  | .redLoc h m => Sys2Proof.Machine.execRedLoc h m s
  | .lr h m => Sys2Proof.Machine.execLr h m s
  | .sc h m => Sys2Proof.Machine.execSc h m s
  | .mxldGlb h m => Sys2Proof.Machine.execMxldGlb h m s
  | .mxstGlb h m => Sys2Proof.Machine.execMxstGlb h m s
  | .mxldLoc h m => Sys2Proof.Machine.execMxldLoc h m s
  | .mxstLoc h m => Sys2Proof.Machine.execMxstLoc h m s
  | .probe h m => Sys2Proof.Machine.execProbe h m s
  | .pgin h m => Sys2Proof.Machine.execPgin h m s
  | .pfch h m => Sys2Proof.Machine.execPfch h m s
  | .wbinv h m => Sys2Proof.Machine.execWbinv h m s
  | .bt h m => Sys2Proof.Machine.execBt h m s
  | .btg h m => Sys2Proof.Machine.execBtg h m s
  | .tile h => Sys2Proof.Machine.execTile h s
  | .tileq h => Sys2Proof.Machine.execTileq h s
  | .objdcl h slot => Sys2Proof.Machine.execObjdcl h slot s
  | .objrel h => Sys2Proof.Machine.execObjrel h s
  | .mmaF16 h m => Sys2Proof.Machine.execMmaF16 h m s
  | .mmaF8 h m => Sys2Proof.Machine.execMmaF8 h m s
  | .mmaI8 h m => Sys2Proof.Machine.execMmaI8 h m s
  | .mmaN4 h m => Sys2Proof.Machine.execMmaN4 h m s
  | .mmaMx8 h m => Sys2Proof.Machine.execMmaMx8 h m s
  | .mzero h => Sys2Proof.Machine.execMzero h s
  | .mrdy h => Sys2Proof.Machine.execMrdy h s
  | .mbatch h => Sys2Proof.Machine.execMbatch h s
  | .mwait h => Sys2Proof.Machine.execMwait h s
  | .mqnt h df => Sys2Proof.Machine.execMqnt h df s
  | .rmld h m => Sys2Proof.Machine.execRmld h m s
  | .rmst h m => Sys2Proof.Machine.execRmst h m s
  | .rmat h m => Sys2Proof.Machine.execRmat h m s
  | .xch h m => Sys2Proof.Machine.execXch h m s
  | .xexp h m => Sys2Proof.Machine.execXexp h m s
  | .rfence h dom => Sys2Proof.Machine.execRfence h dom s
  | .slotq h => Sys2Proof.Machine.execSlotq h s
  | .launch h x => Sys2Proof.Machine.execLaunch h x s
  | .trig h => Sys2Proof.Machine.execTrig h s
  | .yield h => Sys2Proof.Machine.execYield h s
  | .sleep h => Sys2Proof.Machine.execSleep h s
  | .stepb h x => Sys2Proof.Machine.execStepb h x s
  | .stepe h => Sys2Proof.Machine.execStepe h s
  | .nop h => Sys2Proof.Machine.execNop h s
  | .svc h num => Sys2Proof.Machine.execSvc h num s
  | .brk h code => Sys2Proof.Machine.execBrk h code s
  | .tret h => Sys2Proof.Machine.execTret h s
  | .sysrd h => Sys2Proof.Machine.execSysrd h s
  | .syswr h => Sys2Proof.Machine.execSyswr h s
  | .ptload h => Sys2Proof.Machine.execPtload h s
  | .ctxctlCreate h => Sys2Proof.Machine.execCtxctlCreate h s
  | .ctxctlDestroy h => Sys2Proof.Machine.execCtxctlDestroy h s
  | .ctxctlTenant h => Sys2Proof.Machine.execCtxctlTenant h s
  | .ctxctlQueue h => Sys2Proof.Machine.execCtxctlQueue h s
  | .ctxctlWindow h => Sys2Proof.Machine.execCtxctlWindow h s
  | .ctxctlExpasg h => Sys2Proof.Machine.execCtxctlExpasg h s
  | .ctxctlExpwr h => Sys2Proof.Machine.execCtxctlExpwr h s
  | .ctxctlTlbinv h => Sys2Proof.Machine.execCtxctlTlbinv h s
  | .ctxctlPopdone h => Sys2Proof.Machine.execCtxctlPopdone h s
  | .unallocatedOpcode w => Sys2Proof.Machine.execUnallocatedOpcode w s
  | .longLatencyWriteback ag n => Sys2Proof.Machine.execLongLatencyWriteback ag n s
  | .storeAcknowledgement core dom n => Sys2Proof.Machine.execStoreAcknowledgement core dom n s
  | .bulkCombiningTimeout core n => Sys2Proof.Machine.execBulkCombiningTimeout core n s
  | .sivLineAgeOut cache sec => Sys2Proof.Machine.execSivLineAgeOut cache sec s
  | .barrierArrivalApply b g => Sys2Proof.Machine.execBarrierArrivalApply b g s
  | .tbarrApply b g => Sys2Proof.Machine.execTbarrApply b g s
  | .trigCountApply b g => Sys2Proof.Machine.execTrigCountApply b g s
  | .waitvReevaluation ag => Sys2Proof.Machine.execWaitvReevaluation ag s
  | .btCommandStart core store n => Sys2Proof.Machine.execBtCommandStart core store n s
  | .btRowWrite core store n => Sys2Proof.Machine.execBtRowWrite core store n s
  | .matrixCommandStart core n => Sys2Proof.Machine.execMatrixCommandStart core n s
  | .matrixCommandComplete core n => Sys2Proof.Machine.execMatrixCommandComplete core n s
  | .scrupleThreadStart ag => Sys2Proof.Machine.execScrupleThreadStart ag s
  | .laneReturnComplete ag => Sys2Proof.Machine.execLaneReturnComplete ag s
  | .laneRecallComplete ag => Sys2Proof.Machine.execLaneRecallComplete ag s
  | .rejoinTimeout b g => Sys2Proof.Machine.execRejoinTimeout b g s
  | .fairnessRotation b g => Sys2Proof.Machine.execFairnessRotation b g s
  | .hangWatchdogExpiry ag => Sys2Proof.Machine.execHangWatchdogExpiry ag s
  | .starvationTimeout b g => Sys2Proof.Machine.execStarvationTimeout b g s
  | .contextSwitch core => Sys2Proof.Machine.execContextSwitch core s
  | .sleepWake b g => Sys2Proof.Machine.execSleepWake b g s
  | .yieldEnd b g => Sys2Proof.Machine.execYieldEnd b g s
  | .mappingQuantumEnd => Sys2Proof.Machine.execMappingQuantumEnd s
  | .queueSlotMap slot => Sys2Proof.Machine.execQueueSlotMap slot s
  | .gridLaunch slot => Sys2Proof.Machine.execGridLaunch slot s
  | .timesliceQuantumEnd => Sys2Proof.Machine.execTimesliceQuantumEnd s
  | .blockPlace b cores f => Sys2Proof.Machine.execBlockPlace b cores f s
  | .preempt b => Sys2Proof.Machine.execPreempt b s
  | .blockResume b cores f => Sys2Proof.Machine.execBlockResume b cores f s
  | .granuleStreamOperation core gr => Sys2Proof.Machine.execGranuleStreamOperation core gr s
  | .parkedGroupReload b g => Sys2Proof.Machine.execParkedGroupReload b g s
  | .heldTrapDelivery b g => Sys2Proof.Machine.execHeldTrapDelivery b g s
  | .asyncTrapDelivery b g => Sys2Proof.Machine.execAsyncTrapDelivery b g s
  | .serviceRingEntryWrite ctx => Sys2Proof.Machine.execServiceRingEntryWrite ctx s
  | .populationRequestWrite tenant => Sys2Proof.Machine.execPopulationRequestWrite tenant s
  | .validatorComplete => Sys2Proof.Machine.execValidatorComplete s
  | .chainWalkComplete ctx => Sys2Proof.Machine.execChainWalkComplete ctx s
  | .pcSample core => Sys2Proof.Machine.execPcSample core s
  | .sweeperStep => Sys2Proof.Machine.execSweeperStep s
  | .gets home child sec => Sys2Proof.Machine.execGets home child sec s
  | .getx home child sec => Sys2Proof.Machine.execGetx home child sec s
  | .upg home child sec => Sys2Proof.Machine.execUpg home child sec s
  | .puts home child sec => Sys2Proof.Machine.execPuts home child sec s
  | .putx home child sec => Sys2Proof.Machine.execPutx home child sec s
  | .wt home child w => Sys2Proof.Machine.execWt home child w s
  | .atomh home child op => Sys2Proof.Machine.execAtomh home child op s
  | .ntwb home child w => Sys2Proof.Machine.execNtwb home child w s
  | .invalidationAck n => Sys2Proof.Machine.execInvalidationAck n s
  | .dataS n => Sys2Proof.Machine.execDataS n s
  | .dataSw n => Sys2Proof.Machine.execDataSw n s
  | .dataE n => Sys2Proof.Machine.execDataE n s
  | .ack n => Sys2Proof.Machine.execAck n s
  | .wtack n => Sys2Proof.Machine.execWtack n s
  | .atomr n => Sys2Proof.Machine.execAtomr n s
  | .inv n => Sys2Proof.Machine.execInv n s
  | .update n => Sys2Proof.Machine.execUpdate n s
  | .fwdGets n => Sys2Proof.Machine.execFwdGets n s
  | .fwdGetx n => Sys2Proof.Machine.execFwdGetx n s
  | .slotStart => Sys2Proof.Machine.execSlotStart s
  | .fibreStop f => Sys2Proof.Machine.execFibreStop f s
  | .fibreFlitSend f => Sys2Proof.Machine.execFibreFlitSend f s
  | .remoteAnswerTimeout n => Sys2Proof.Machine.execRemoteAnswerTimeout n s
  | .interimAnswerRepeat n => Sys2Proof.Machine.execInterimAnswerRepeat n s
  | .remotePassSend ag => Sys2Proof.Machine.execRemotePassSend ag s
  | .sdoor fn n => Sys2Proof.Machine.execSdoor fn n s
  | .qdoor fn q tail => Sys2Proof.Machine.execQdoor fn q tail s
  | .ageingRefresh die m => Sys2Proof.Machine.execAgeingRefresh die m s
  | .fabricScheduleLoad img => Sys2Proof.Machine.execFabricScheduleLoad img s
  | .loadRequest f fl => Sys2Proof.Machine.execLoadRequest f fl s
  | .flitStore f fl => Sys2Proof.Machine.execFlitStore f fl s
  | .flitAtomic f fl => Sys2Proof.Machine.execFlitAtomic f fl s
  | .flitPut f fl => Sys2Proof.Machine.execFlitPut f fl s
  | .blockTransferReadRequest f fl => Sys2Proof.Machine.execBlockTransferReadRequest f fl s
  | .blockTransferWrite f fl => Sys2Proof.Machine.execBlockTransferWrite f fl s
  | .dataResponse f fl => Sys2Proof.Machine.execDataResponse f fl s
  | .endToEndAcknowledgement f fl => Sys2Proof.Machine.execEndToEndAcknowledgement f fl s
  | .errorResponse f fl => Sys2Proof.Machine.execErrorResponse f fl s
  | .pull f fl => Sys2Proof.Machine.execPull f fl s
  | .resend f fl => Sys2Proof.Machine.execResend f fl s
  | .idleFlit f fl => Sys2Proof.Machine.execIdleFlit f fl s
  | .hostPostedWrite fn pa bytes ide => Sys2Proof.Machine.execHostPostedWrite fn pa bytes ide s
  | .priResponse n => Sys2Proof.Machine.execPriResponse n s
  | .atsInvalidation fn hostPage => Sys2Proof.Machine.execAtsInvalidation fn hostPage s
  | .tdispLeaveRun t => Sys2Proof.Machine.execTdispLeaveRun t s
  | .keyInstall slot key t => Sys2Proof.Machine.execKeyInstall slot key t s
  | .spdmMeasurement fn => Sys2Proof.Machine.execSpdmMeasurement fn s
  | .uncorrectableError site => Sys2Proof.Machine.execUncorrectableError site s
  | .correctableError die ctx => Sys2Proof.Machine.execCorrectableError die ctx s
  | .memoryPoison sec => Sys2Proof.Machine.execMemoryPoison sec s
  | .coldReset vaux => Sys2Proof.Machine.execColdReset vaux s
  | .warmReset => Sys2Proof.Machine.execWarmReset s
  | .vfFunctionLevelReset t => Sys2Proof.Machine.execVfFunctionLevelReset t s
  | .bootStageComplete r => Sys2Proof.Machine.execBootStageComplete r s
  | .linkTrainRetry width rate => Sys2Proof.Machine.execLinkTrainRetry width rate s
  | .pcieLinkDown => Sys2Proof.Machine.execPcieLinkDown s
  | .pcieLinkUp => Sys2Proof.Machine.execPcieLinkUp s
  | .vbulkLoss => Sys2Proof.Machine.execVbulkLoss s
  | .thermalThrottle die => Sys2Proof.Machine.execThermalThrottle die s
  | .thermalTrip die => Sys2Proof.Machine.execThermalTrip die s
  | .plimWrite watts => Sys2Proof.Machine.execPlimWrite watts s
  | .swctlWrite x => Sys2Proof.Machine.execSwctlWrite x s
  | .firmwareImageDelivery bytes => Sys2Proof.Machine.execFirmwareImageDelivery bytes s
  | .registerWrite r => Sys2Proof.Machine.execRegisterWrite r s
  | .attach ctx allstop => Sys2Proof.Machine.execAttach ctx allstop s
  | .detach ctx => Sys2Proof.Machine.execDetach ctx s
  | .halt ctx t => Sys2Proof.Machine.execHalt ctx t s
  | .resume ctx t => Sys2Proof.Machine.execResume ctx t s
  | .step ctx b g k => Sys2Proof.Machine.execStep ctx b g k s
  | .focus ctx b g l => Sys2Proof.Machine.execFocus ctx b g l s
  | .unfocus ctx b g => Sys2Proof.Machine.execUnfocus ctx b g s
  | .catchup ctx b g => Sys2Proof.Machine.execCatchup ctx b g s
  | .read ctx b g it => Sys2Proof.Machine.execRead ctx b g it s
  | .write ctx b g it x => Sys2Proof.Machine.execWrite ctx b g it x s
  | .setbp ctx n x => Sys2Proof.Machine.execSetbp ctx n x s
  | .setwp ctx n w1 w0 => Sys2Proof.Machine.execSetwp ctx n w1 w0 s
  | .tdispInterfaceRun t => Sys2Proof.Machine.execTdispInterfaceRun t s
  | .thermalThrottleEnd die => Sys2Proof.Machine.execThermalThrottleEnd die s
  | .ucieRetry link => Sys2Proof.Machine.execUcieRetry link s
  | .configurationRequest fn => Sys2Proof.Machine.execConfigurationRequest fn s

end Sys2Proof.Machine
end

