-- ==== Sys2Proof/Machine/Turn.lean ====
section
/-! DEFINITION. One turn of the machine, and what happens next when the agenda names nothing (log 1). -/

namespace Sys2Proof.Machine

open Sys2Proof

/-- The place of a core's quarter in the rotation of turns; the scruple pool of a core is its fifth. -/
def turnKey (t : Nat × Nat) : Nat := 5 * t.1 + t.2

/-- The quarters and pools that have an agent to issue, with the turn each gives. -/
def issuers (s : State) : List (Nat × Turn) :=
  (s.blocks.flatMap (fun e => e.2.groups.filterMap (fun q =>
    if selectable s e.2.core (q.2.slot / 64) false e q || selectable s e.2.core (q.2.slot / 64) true e q then
      some (turnKey (e.2.core, q.2.slot / 64), Turn.issue e.2.core (q.2.slot / 64)) else none))) ++
  (readyThreads s).map (fun a => (turnKey (((tget s.blocks a.blk).map (fun b => b.core)).getD 0, 4), Turn.thread a.blk a.grp (a.lane.getD 0)))

/-- The first issuer after the latest turn, in rotation. -/
def nextIssuer (s : State) : Option (Nat × Turn) :=
  let now := turnKey s.turn
  let far := fun (k : Nat) => if now < k then k - now else k + 5 * Config.cores - now
  (issuers s).foldl (fun (b : Option (Nat × Turn)) x =>
    match b with
    | none => some x
    | some y => if far x.1 < far y.1 then some x else some y) none

/-! ### Internal events -/

/-- The groups of resident and saved blocks. -/
def allGroups (s : State) : List (Nat × Nat) := s.blocks.flatMap (fun e => e.2.groups.map (fun q => (e.1, q.1)))

/-- The ejected lanes. -/
def allThreads (s : State) : List AgentRef :=
  s.blocks.flatMap (fun e => e.2.groups.flatMap (fun q => q.2.threads.map (fun t => { blk := e.1, grp := q.1, lane := some t.lane })))

/-- Events of a group. -/
def groupEvents (x : Nat × Nat) : List Instr :=
  [.barrierArrivalApply x.1 x.2, .tbarrApply x.1 x.2, .trigCountApply x.1 x.2, .rejoinTimeout x.1 x.2, .fairnessRotation x.1 x.2, .sleepWake x.1 x.2,
   .yieldEnd x.1 x.2, .parkedGroupReload x.1 x.2, .heldTrapDelivery x.1 x.2, .asyncTrapDelivery x.1 x.2]

/-- Events of a group or of an ejected lane. -/
def agentEvents (ag : AgentRef) : List Instr :=
  (List.range 17).map (Instr.longLatencyWriteback ag) ++ [.waitvReevaluation ag, .hangWatchdogExpiry ag, .remotePassSend ag]

/-- Events of an ejected lane. -/
def threadEvents (ag : AgentRef) : List Instr := [.scrupleThreadStart ag, .laneReturnComplete ag, .laneRecallComplete ag]

/-- Events of a core. -/
def coreEvents (e : Nat × Core) : List Instr :=
  [Dom.seq, .tso, .rel, .cau].flatMap (fun d => (List.range (e.2.sq.filter (fun x => x.dom == d)).length).map (Instr.storeAcknowledgement e.1 d)) ++
  (List.range (e.2.sq.filter (fun x => x.dom == .bulk)).length).flatMap (fun i => [Instr.bulkCombiningTimeout e.1 i, .storeAcknowledgement e.1 .bulk i]) ++
  (List.range e.2.btl.length).flatMap (fun i => [Instr.btCommandStart e.1 false i, .btRowWrite e.1 false i]) ++
  (List.range e.2.bts.length).flatMap (fun i => [Instr.btCommandStart e.1 true i, .btRowWrite e.1 true i]) ++
  (List.range e.2.mtx.length).flatMap (fun i => [Instr.matrixCommandStart e.1 i, .matrixCommandComplete e.1 i]) ++
  (e.2.l1.map (fun x => Instr.sivLineAgeOut (.l1 e.1) x.1)) ++ (e.2.gran.map (fun x => Instr.granuleStreamOperation e.1 x.1)) ++
  [.contextSwitch e.1, .pcSample e.1]

/-- The event in which a message is received (R202, R209). -/
def Msg.event (i : Nat) (m : Msg) : Instr :=
  match m.kind with
  | .dataS => .dataS i
  | .dataSW => .dataSw i
  | .dataE => .dataE i
  | .ack => .ack i
  | .wtack => .wtack i
  | .atomr => .atomr i
  | .inv => .inv i
  | .update => .update i
  | .fwdGets => .fwdGets i
  | .fwdGetx => .fwdGetx i
  | .invAck => .invalidationAck i

/-- The placement of the first waiting cluster that has room (R286, R289, R294). -/
def placeEvents (s : State) : List Instr :=
  match (waiting s).find? (fun w => saveRoom s w && (findCores s w).isSome) with
  | none => []
  | some w => match w.keys.head?, findCores s w with
    | some b, some (cs, f) => [if w.fresh then .blockPlace b cs f else .blockResume b cs f]
    | _, _ => []

/-- Fibres with a flit to send, or acknowledgements to carry. -/
def sendEvents (s : State) : List Instr :=
  if s.fab.sendq.isEmpty && s.fab.relayq.isEmpty && s.fab.lost.isEmpty && s.fab.ackq.isEmpty then []
  else (List.range Config.fibres).filterMap (fun f => match s.fab.livePeer s.now f with
    | some p => if (nextFlit s.fab s.now f p).isSome || !(fibreList s.fab.ackq f).isEmpty then some (Instr.fibreFlitSend f) else none
    | none => none)

/-- Events of the fabric port. -/
def fabricEvents (s : State) : List Instr :=
  (if s.fab.loaded then [Instr.slotStart] else []) ++ (s.fab.replay.map (fun x => Instr.fibreStop x.1)) ++ sendEvents s ++
  (List.range s.fab.recs.length).map Instr.remoteAnswerTimeout ++ (List.range s.fab.items.length).map Instr.interimAnswerRepeat

/-- Events of the scheduler and of the device's own agents. -/
def deviceEvents (s : State) : List Instr :=
  [.mappingQuantumEnd, .timesliceQuantumEnd, .validatorComplete, .sweeperStep] ++
  (slotTenants s).flatMap (fun t => (slotList s t).flatMap (fun x => [Instr.queueSlotMap x, .gridLaunch x])) ++ placeEvents s ++
  ((nextVictim s).map Instr.preempt).toList ++ (s.svcq.map (fun x => Instr.serviceRingEntryWrite x.ctx)) ++
  ((s.tenants.map (fun x => Instr.populationRequestWrite x.1)) ++ (s.chains.map (fun x => Instr.chainWalkComplete x.1)))

/-- The events that the device itself makes, in one order (log 1); most of them cannot occur now. -/
def internals (s : State) : List Instr :=
  (List.zip (List.range s.net.length) s.net).map (fun x => x.2.event x.1) ++ deviceEvents s ++ s.cores.flatMap coreEvents ++
  s.ccs.flatMap (fun c => c.2.map (fun x => Instr.sivLineAgeOut (.cc c.1) x.1)) ++ (allGroups s).flatMap groupEvents ++
  (allGroups s).flatMap (fun x => agentEvents { blk := x.1, grp := x.2, lane := none }) ++ (allThreads s).flatMap (fun a => threadEvents a ++ agentEvents a) ++
  fabricEvents s

/-- What an internal event does now; none where it does not occur. Every other row is an instruction, or comes from outside. -/
def eventOf (i : Instr) (s : State) : Option State :=
  match i with
  | .barrierArrivalApply b g => barrierArrivalApplyEvent b g s
  | .tbarrApply b g => tbarrApplyEvent b g s
  | .trigCountApply b g => trigCountApplyEvent b g s
  | .rejoinTimeout b g => rejoinTimeoutEvent b g s
  | .fairnessRotation b g => fairnessRotationEvent b g s
  | .sleepWake b g => sleepWakeEvent b g s
  | .yieldEnd b g => yieldEndEvent b g s
  | .parkedGroupReload b g => parkedGroupReloadEvent b g s
  | .heldTrapDelivery b g => heldTrapDeliveryEvent b g s
  | .asyncTrapDelivery b g => asyncTrapDeliveryEvent b g s
  | .longLatencyWriteback ag i => longLatencyWritebackEvent ag i s
  | .waitvReevaluation ag => waitvReevaluationEvent ag s
  | .hangWatchdogExpiry ag => hangWatchdogExpiryEvent ag s
  | .remotePassSend ag => remotePassSendEvent ag s
  | .scrupleThreadStart ag => scrupleThreadStartEvent ag s
  | .laneReturnComplete ag => laneReturnCompleteEvent ag s
  | .laneRecallComplete ag => laneRecallCompleteEvent ag s
  | .storeAcknowledgement core dom i => storeAcknowledgementEvent core dom i s
  | .bulkCombiningTimeout core i => bulkCombiningTimeoutEvent core i s
  | .btCommandStart core store i => btCommandStartEvent core store i s
  | .btRowWrite core store i => btRowWriteEvent core store i s
  | .matrixCommandStart core i => matrixCommandStartEvent core i s
  | .matrixCommandComplete core i => matrixCommandCompleteEvent core i s
  | .sivLineAgeOut cache sec => sivLineAgeOutEvent cache sec s
  | .granuleStreamOperation core gr => granuleStreamOperationEvent core gr s
  | .contextSwitch core => contextSwitchEvent core s
  | .pcSample core => pcSampleEvent core s
  | .dataS i => dataSEvent i s
  | .dataSw i => dataSwEvent i s
  | .dataE i => dataEEvent i s
  | .ack i => ackEvent i s
  | .wtack i => wtackEvent i s
  | .atomr i => atomrEvent i s
  | .inv i => invEvent i s
  | .update i => updateEvent i s
  | .fwdGets i => fwdGetsEvent i s
  | .fwdGetx i => fwdGetxEvent i s
  | .invalidationAck i => invalidationAckEvent i s
  | .blockPlace b cores f => blockPlaceEvent b cores f s
  | .blockResume b cores f => blockResumeEvent b cores f s
  | .fibreFlitSend f => fibreFlitSendEvent f s
  | .slotStart => slotStartEvent s
  | .fibreStop f => fibreStopEvent f s
  | .remoteAnswerTimeout i => remoteAnswerTimeoutEvent i s
  | .interimAnswerRepeat i => interimAnswerRepeatEvent i s
  | .mappingQuantumEnd => mappingQuantumEndEvent s
  | .timesliceQuantumEnd => timesliceQuantumEndEvent s
  | .validatorComplete => validatorCompleteEvent s
  | .sweeperStep => sweeperStepEvent s
  | .queueSlotMap slot => queueSlotMapEvent slot s
  | .gridLaunch slot => gridLaunchEvent slot s
  | .preempt b => preemptEvent b s
  | .serviceRingEntryWrite ctx => serviceRingEntryWriteEvent ctx s
  | .populationRequestWrite tenant => populationRequestWriteEvent tenant s
  | .chainWalkComplete ctx => chainWalkCompleteEvent ctx s
  | _ => none

/-- Can an event occur? -/
def occurs (s : State) (i : Instr) : Bool := (eventOf i s).isSome

/-- The first event from a place of the order on that can occur, with the place after it. -/
def firstEvent (s : State) (n : Nat) : List Instr → Option (Nat × Instr)
  | [] => none
  | i :: rest => if occurs s i then some (n + 1, i) else firstEvent s (n + 1) rest

/-- An internal event that can occur now, in the sweep that `evt` counts; none in a device without power (R424). -/
def nextInternal (s : State) : Option (Nat × Instr) := if s.mgmt.powered then firstEvent s s.evt ((internals s).drop s.evt) else none

/-- What the agenda has put off and can go on now: a load that has issued and is not performed (R165), or a request on its way to its home (R209). -/
def nextOpen (s : State) : Option Turn :=
  if s.mgmt.powered then
    match s.late.find? (lateReady s) with
    | some x => some (.perform x.id)
    | none => ((List.zip (List.range s.reqs.length) s.reqs).find? (fun x => reqReady s x.1 x.2)).map (fun x => .arrive x.1)
  else none

/-- The next turn, and the state that has taken it: what the agenda has put off, then the rest of a sweep over the internal events, then one agent
issues. -/
def nextTurn (s : State) : State × Turn :=
  match nextOpen s with
  | some t => (s, t)
  | none =>
    match nextInternal s with
    | some (n, i) => ({ s with evt := n }, .event i)
    | none =>
      match (if s.mgmt.powered then nextIssuer s else none) with
      | some (k, t) => ({ s with turn := (k / 5, k % 5), evt := 0 }, t)
      | none => ({ s with evt := 0 }, .tick)

/-! ### A turn -/

/-- Has a group a held or an asynchronous trap that its next boundary delivers (R365, R375)? -/
def trapDue (g : Group) : Bool := g.handler.isNone && (!g.async.isEmpty || (heldFirst g.held).isSome)

/-- What comes at an instruction boundary of a group before its instruction: a rotation that is due (R310), a held or an asynchronous trap (R365,
R375). A trap that is due waits for the answers of open windows, and the group with it. A group that held traps called from its service entry goes back
there when none is left. -/
def boundaryFirst (s : State) (v : View) : Option State :=
  if v.ej then none
  else match fairnessRotationEvent v.ag.blk v.ag.grp s with
    | some t => some t
    | none =>
      match heldTrapDeliveryEvent v.ag.blk v.ag.grp s with
      | some t => some t
      | none =>
        match asyncTrapDeliveryEvent v.ag.blk v.ag.grp s with
        | some t => some t
        | none =>
          let called : Bool := v.g.called.isSome && v.g.handler.isNone
          if trapDue v.g && ((v.r.awaiting && !v.g.completing) || called) then some (afterIssue v 0 (stallWindows s v))
          else if called then (serviceReturn s v.ag.blk v.ag.grp).map advance
          else none

/-- The instruction at the PC issues: a breakpoint that matches is raised unless the instruction raises a trap of higher priority (R363, R388). -/
def issueInstr (s : State) (v : View) (w : Word) (i : Instr) : Host.Outcome State Fault Refusal :=
  let out := exec i (beforeIssue s v w)
  match breakpoint s v with
  | some n => match out with
    | .next t => if outranksBreak t then .next (afterIssue v w t) else .next (breakTrap s v w n)
    | _ => .next (breakTrap s v w n)
  | none =>
    match focusStop s v w with
    | some t => .next t
    | none => match out with
      | .next t => .next (afterIssue v w t)
      | .fault f => .fault f
      | .refused r => .refused r

/-- An agent issues the instruction at its PC (R34): what the boundary and the fetch give, else the decoded instruction. -/
def stepAgent (s : State) (ag : AgentRef) : Host.Outcome State Fault Refusal :=
  match viewOf s ag with
  | none => .next (advance s)
  | some v =>
    match boundaryFirst s v with
    | some t => .next t
    | none =>
      match fetch { s with cur := some ag } v.core v.ctx v.r.pc with
      | .fault c w va => .next (match breakpoint s v with | some n => breakTrap s v w n | none => fetchTrap s v w c va)
      | .word w none => .next (fetchTrap s v w .ill 0)
      | .word w (some i) => match holdBack s v w with
        | some t => .next t
        | none => issueInstr s v w i

/-- A load of an agent is satisfied ahead of program order (R165, R171), where it passes the checks of R213; else nothing happens. -/
def aheadTurn (s : State) (ag : AgentRef) (va : Word) (d : Dom) (sc : Scope) : State :=
  match viewOf s ag with
  | none => s
  | some v =>
    let c := checkVa s v.core v.ctx va 1 true false d false
    match c.cause, c.spans with
    | none, sp :: _ =>
      if domIdx c.dom ≤ 2 ∧ hostWaits s [secOf sp.pa] = false then readAhead s v.core ag v.mask (secOf sp.pa) sp.page.kind { dom := c.dom, enc := d, sc := sc } else s
    | _, _ => s

/-- A unit of MXLD is satisfied ahead of program order (R162, R165), where both its parts pass the checks and no transfer is between them (R184). -/
def aheadUnitTurn (s : State) (ag : AgentRef) (u sc_ : Word) (d : Dom) (sc : Scope) : State :=
  match viewOf s ag with
  | none => s
  | some v =>
    let c := checkVa s v.core v.ctx u 32 true false d false
    let t := checkVa s v.core v.ctx sc_ 2 true false d false
    match c.cause, t.cause, c.spans, t.spans with
    | none, none, x :: _, y :: _ =>
      if ag.lane = none ∧ domIdx (domMax c.dom t.dom) ≤ 2 ∧ hostWaits s [secOf x.pa, secOf y.pa] = false ∧ partUnit s ag.blk v.ctx none u.toNat 32 sc_.toNat 2 = false then
        readUnitAhead s v.core ag (secOf x.pa, x.page.kind) (secOf y.pa, y.page.kind) { dom := domMax c.dom t.dom, enc := d, sc := sc }
      else s
    | _, _, _, _ => s

/-- An agent's next load will be performed later than it issues (R165, R171). -/
def deferTurn (s : State) (ag : AgentRef) : State :=
  s.mapGroup ag.blk ag.grp (fun g => { g with later := agNum ag :: g.later.filter (fun n => n != agNum ag) })

/-- A load that has issued is performed, where nothing that it waits for is open. -/
def performTurn (s : State) (id : Nat) : State :=
  match s.late.find? (fun x => x.id == id) with
  | some x => if lateReady s x then performLate s x else s
  | none => s

/-- A queued store becomes observable to an agent before others (R167), where it may. -/
def spreadTurn (s : State) (core id : Nat) (ag : AgentRef) : State :=
  match viewOf s ag, (s.core core).sq.find? (fun e => e.id == id) with
  | some v, some e => if spreads s core ag v.mask e then spread s core e ag else s
  | _, _ => s

/-- A TLB entry is evicted: of the L2 TLB of a core, or of a quarter's TLB (R347). -/
def forgetTurn (s : State) (core : Nat) (quarter : Option Nat) (i : Nat) : State :=
  s.mapCore core (fun c => match quarter with
    | none => { c with tlb := c.tlb.eraseIdx i }
    | some q => { c with qtlb := tset c.qtlb q (((tget c.qtlb q).getD []).eraseIdx i) })

/-- A line is evicted from a cache (R425). -/
def evictTurn (s : State) (c : CacheRef) (sec : Nat) : State := evictLine s c (sec / 4)

/-- A core's instruction cache keeps the line of an agent's next instruction as it stands now, where the fetch passes its checks (R17, R34). -/
def keepCodeTurn (s : State) (ag : AgentRef) : State :=
  match viewOf s ag with
  | none => s
  | some v => match fetchCheck { s with cur := some ag } v.core v.ctx v.r.pc 8 with
    | .inr (sp :: _) => keepLine s v.core sp.pa
    | _ => s

/-- A line leaves a core's instruction cache. -/
def dropCodeTurn (s : State) (core i : Nat) : State := s.mapCore core (fun c => { c with code := c.code.eraseIdx i })

/-- A core comes out of its reset while the module boots, and counts its CYCLE from there (R15, log 1): the cores' counters are not synchronised. -/
def coreResetTurn (s : State) (core : Nat) : State := if s.mgmt.ready = false ∧ core < 256 then { s with cyc0 := sset s.cyc0 core s.clk } else s

/-- A cycle passes, but on dies without power (R416). -/
def tickTurn (s : State) : State := if s.mgmt.powered then advance s else s

/-- One turn. -/
def takeTurn (s : State) (t : Turn) : Host.Outcome State Fault Refusal :=
  match t with
  | .event i => exec i s
  | .tick => .next (tickTurn s)
  | .issue c q => match pick s c q with | none => .next (tickTurn s) | some ag => stepAgent s ag
  | .thread b g l => if (readyThreads s).contains { blk := b, grp := g, lane := some l } then stepAgent s { blk := b, grp := g, lane := some l }
                     else .next (tickTurn s)
  | .ahead ag va d sc => .next (aheadTurn s ag va d sc)
  | .aheadUnit ag u sc_ d sc => .next (aheadUnitTurn s ag u sc_ d sc)
  | .defer ag => .next (deferTurn s ag)
  | .perform id => .next (performTurn s id)
  | .arrive i => .next (arriveReq s i)
  | .spread core id ag => .next (spreadTurn s core id ag)
  | .evict c sec => .next (evictTurn s c sec)
  | .forget core q i => .next (forgetTurn s core q i)
  | .keepCode ag => .next (keepCodeTurn s ag)
  | .dropCode core i => .next (dropCodeTurn s core i)
  | .coreReset core => .next (coreResetTurn s core)

end Sys2Proof.Machine
end

