-- ==== Sys2Proof/Machine/Step.lean ====
section
/-! DEFINITION. One step of the device (log 1): the next turn of the agenda, or, with an empty agenda, an internal event that
can occur, else the next agent that can issue, else a cycle in which nothing issues. -/

namespace Sys2Proof.Machine

open Sys2Proof

/-- One step of the device. -/
def step (s : State) : Host.Outcome State Fault Refusal :=
  match s.agenda with
  | t :: rest => takeTurn { s with agenda := rest } t
  | [] => takeTurn (nextTurn s).1 (nextTurn s).2

/-- The state in which the instruction with these words is the next that the machine runs (log 8). -/
def State.withFetchWord (s : State) (nbits w : Nat) : State := placeWords s (tableBytes nbits w)

end Sys2Proof.Machine
end

