-- ==== Sys2Proof/Laws/Table.lean ====
section
/-! SUPPORT. Sparse maps and tables: read after write, and the canonical form that every write keeps. -/

namespace Sys2Proof.Machine

open Sys2Proof

/-! ### Read after write -/

theorem sget_sput_same {w : Nat} (m : Sparse w) (k : Nat) (x : BitVec w) : sget (sput m k x) k = x := by
  induction m with
  | nil => simp [sput, sget]
  | cons e t ih =>
    obtain ⟨j, y⟩ := e
    unfold sput
    split
    · simp [sget]
    · split
      · simp [sget]
      · simp only [sget]
        rw [if_neg (by omega)]
        exact ih

theorem sget_sput_ne {w : Nat} (m : Sparse w) {k j : Nat} (x : BitVec w) (h : j ≠ k) : sget (sput m k x) j = sget m j := by
  induction m with
  | nil => simp [sput, sget, Ne.symm h]
  | cons e t ih =>
    obtain ⟨i, y⟩ := e
    unfold sput
    split
    · simp [sget, Ne.symm h]
    · split
      · rename_i h1; subst h1; simp [sget, Ne.symm h]
      · simp only [sget, ih]

theorem sget_filter_same {w : Nat} (m : Sparse w) (k : Nat) : sget (m.filter (fun e => e.1 != k)) k = 0 := by
  induction m with
  | nil => rfl
  | cons e t ih =>
    obtain ⟨i, y⟩ := e
    by_cases h : i = k
    · subst h; simpa using ih
    · simpa [List.filter_cons, h, sget] using ih

theorem sget_filter_ne {w : Nat} (m : Sparse w) {k j : Nat} (h : j ≠ k) : sget (m.filter (fun e => e.1 != k)) j = sget m j := by
  induction m with
  | nil => rfl
  | cons e t ih =>
    obtain ⟨i, y⟩ := e
    by_cases h' : i = k
    · subst h'; simp [sget, Ne.symm h, ih]
    · simp [h', sget, ih]

/-- Reading a key that was just written gives what was written. -/
@[simp] theorem sget_sset_same {w : Nat} (m : Sparse w) (k : Nat) (x : BitVec w) : sget (sset m k x) k = x := by
  unfold sset
  split
  · rename_i h; rw [sget_filter_same, h]
  · exact sget_sput_same m k x

/-- A write leaves every other key alone. -/
theorem sget_sset_ne {w : Nat} (m : Sparse w) {k j : Nat} (x : BitVec w) (h : j ≠ k) : sget (sset m k x) j = sget m j := by
  unfold sset
  split
  · exact sget_filter_ne m h
  · exact sget_sput_ne m x h

/-- What a key reads after a write to any key. -/
theorem sget_sset {w : Nat} (m : Sparse w) (k j : Nat) (x : BitVec w) : sget (sset m k x) j = if j = k then x else sget m j := by
  by_cases h : j = k
  · subst h; simp
  · simp [h, sget_sset_ne m x h]

@[simp] theorem tget_tset_same {α : Type} (m : Table α) (k : Nat) (x : α) : tget (tset m k x) k = some x := by
  induction m with
  | nil => simp [tset, tget]
  | cons e t ih =>
    obtain ⟨j, y⟩ := e
    unfold tset
    split
    · simp [tget]
    · split
      · simp [tget]
      · simp only [tget]
        rw [if_neg (by omega)]
        exact ih

theorem tget_tset_ne {α : Type} (m : Table α) {k j : Nat} (x : α) (h : j ≠ k) : tget (tset m k x) j = tget m j := by
  induction m with
  | nil => simp [tset, tget, Ne.symm h]
  | cons e t ih =>
    obtain ⟨i, y⟩ := e
    unfold tset
    split
    · simp [tget, Ne.symm h]
    · split
      · rename_i h1; subst h1; simp [tget, Ne.symm h]
      · simp only [tget, ih]

/-- What a key holds after a write to any key. -/
theorem tget_tset {α : Type} (m : Table α) (k j : Nat) (x : α) : tget (tset m k x) j = if j = k then some x else tget m j := by
  by_cases h : j = k
  · subst h; simp
  · simp [h, tget_tset_ne m x h]

/-! ### The canonical form -/

/-- Every key of a map in canonical form lies above the first. -/
theorem sparseWf_cons {w : Nat} {k : Nat} {x : BitVec w} {t : Sparse w} :
    sparseWf ((k, x) :: t) = true ↔ x ≠ 0 ∧ (∀ e ∈ t, k < e.1) ∧ sparseWf t = true := by
  induction t generalizing k x with
  | nil => simp [sparseWf]
  | cons e u ih =>
    obtain ⟨j, y⟩ := e
    rw [show sparseWf ((k, x) :: (j, y) :: u) = (x != 0 && decide (k < j) && sparseWf ((j, y) :: u)) from rfl]
    simp only [Bool.and_eq_true, bne_iff_ne, decide_eq_true_eq]
    constructor
    · rintro ⟨⟨h1, h2⟩, h3⟩
      refine ⟨h1, ?_, h3⟩
      intro e he
      rcases List.mem_cons.1 he with rfl | he
      · exact h2
      · exact Nat.lt_trans h2 ((ih.1 h3).2.1 e he)
    · rintro ⟨h1, h2, h3⟩
      exact ⟨⟨h1, h2 _ (List.mem_cons_self ..)⟩, h3⟩

/-- Any selection of a map's entries is in canonical form. -/
theorem sparseWf_filter {w : Nat} (m : Sparse w) (p : Nat × BitVec w → Bool) (h : sparseWf m = true) : sparseWf (m.filter p) = true := by
  induction m with
  | nil => rfl
  | cons e t ih =>
    obtain ⟨k, x⟩ := e
    obtain ⟨h1, h2, h3⟩ := sparseWf_cons.1 h
    rw [List.filter_cons]
    split
    · exact sparseWf_cons.2 ⟨h1, fun e he => h2 e (List.mem_filter.1 he).1, ih h3⟩
    · exact ih h3

theorem mem_sput {w : Nat} {m : Sparse w} {k : Nat} {x : BitVec w} {e : Nat × BitVec w} (h : e ∈ sput m k x) : e = (k, x) ∨ e ∈ m := by
  induction m with
  | nil => simpa [sput] using h
  | cons a t ih =>
    obtain ⟨j, y⟩ := a
    unfold sput at h
    split at h
    · simpa using h
    · split at h
      · simp only [List.mem_cons] at h ⊢; tauto
      · simp only [List.mem_cons] at h ⊢
        rcases h with h | h
        · exact .inr (.inl h)
        · rcases ih h with h | h <;> tauto

theorem sparseWf_sput {w : Nat} (m : Sparse w) (k : Nat) (x : BitVec w) (hx : x ≠ 0) (h : sparseWf m = true) : sparseWf (sput m k x) = true := by
  induction m with
  | nil => simpa [sput, sparseWf] using hx
  | cons e t ih =>
    obtain ⟨j, y⟩ := e
    obtain ⟨h1, h2, h3⟩ := sparseWf_cons.1 h
    unfold sput
    split
    · rename_i hk
      refine sparseWf_cons.2 ⟨hx, ?_, h⟩
      intro e he
      rcases List.mem_cons.1 he with rfl | he
      · exact hk
      · exact Nat.lt_trans hk (h2 e he)
    · split
      · rename_i hk; subst hk
        exact sparseWf_cons.2 ⟨hx, h2, h3⟩
      · refine sparseWf_cons.2 ⟨h1, ?_, ih h3⟩
        intro e he
        rcases mem_sput he with rfl | he
        · show j < k; omega
        · exact h2 e he

/-- A write keeps the canonical form. -/
theorem sparseWf_sset {w : Nat} (m : Sparse w) (k : Nat) (x : BitVec w) (h : sparseWf m = true) : sparseWf (sset m k x) = true := by
  unfold sset
  split
  · exact sparseWf_filter m _ h
  · rename_i hx; exact sparseWf_sput m k x hx h

theorem sget_eq_zero {w : Nat} {m : Sparse w} {k : Nat} (h : ∀ e ∈ m, e.1 ≠ k) : sget m k = 0 := by
  induction m with
  | nil => rfl
  | cons e t ih =>
    obtain ⟨j, y⟩ := e
    have h0 : j ≠ k := h (j, y) (List.mem_cons_self ..)
    simp only [sget, if_neg h0]
    exact ih fun e he => h e (List.mem_cons_of_mem _ he)

/-- Maps in canonical form that read the same are the same. -/
theorem sparse_ext {w : Nat} {m n : Sparse w} (hm : sparseWf m = true) (hn : sparseWf n = true) (h : ∀ k, sget m k = sget n k) : m = n := by
  induction m generalizing n with
  | nil =>
    cases n with
    | nil => rfl
    | cons e t =>
      obtain ⟨k, x⟩ := e
      have := h k
      simp only [sget, if_true] at this
      exact absurd this.symm (sparseWf_cons.1 hn).1
  | cons e t ih =>
    obtain ⟨k, x⟩ := e
    obtain ⟨h1, h2, h3⟩ := sparseWf_cons.1 hm
    cases n with
    | nil => have := h k; simp only [sget, if_true] at this; exact absurd this h1
    | cons f u =>
      obtain ⟨j, y⟩ := f
      obtain ⟨g1, g2, g3⟩ := sparseWf_cons.1 hn
      have hkj : k = j := by
        rcases Nat.lt_trichotomy k j with hlt | heq | hgt
        · exfalso
          have := h k
          simp only [sget, if_true, if_neg (Nat.ne_of_gt hlt)] at this
          rw [sget_eq_zero fun e he => by have := g2 e he; omega] at this
          exact h1 this
        · exact heq
        · exfalso
          have := h j
          simp only [sget, if_true, if_neg (Nat.ne_of_gt hgt)] at this
          rw [sget_eq_zero fun e he => by have := h2 e he; omega] at this
          exact g1 this.symm
      subst hkj
      have hxy : x = y := by simpa [sget] using h k
      subst hxy
      congr 1
      refine ih h3 g3 fun i => ?_
      by_cases hi : k = i
      · subst hi
        rw [sget_eq_zero fun e he => by have := h2 e he; omega, sget_eq_zero fun e he => by have := g2 e he; omega]
      · simpa [sget, hi] using h i

/-! ### Bytes and sectors -/

theorem sparseWf_putBytes (m : Sparse 8) (a : Nat) (bs : List Byte) (h : sparseWf m = true) : sparseWf (putBytes m a bs) = true := by
  induction bs generalizing m a with
  | nil => exact h
  | cons b bs ih => exact ih _ _ (sparseWf_sset m a b h)

theorem sparseWf_clearBytes (m : Sparse 8) (a n : Nat) (h : sparseWf m = true) : sparseWf (clearBytes m a n) = true := sparseWf_filter m _ h

theorem Memory.wf_memSet (m : List Host.Cell) (a : Nat) (x : Byte) (h : Memory.wf m = true) : Memory.wf (memSet m a x) = true := sparseWf_sset m a x h

theorem Memory.wf_memPutSector (m : List Host.Cell) (sec : Nat) (d : BitVec 256) (mask : BitVec 32) (h : Memory.wf m = true) :
    Memory.wf (memPutSector m sec d mask) = true := by
  unfold memPutSector
  have : ∀ (l : List Nat) (m : List Host.Cell), Memory.wf m = true →
      Memory.wf (l.foldl (fun m i => if mask.getLsbD i then sset m (32 * sec + i) (sectorByte d i) else m) m) = true := by
    intro l
    induction l with
    | nil => exact fun m h => h
    | cons i l ih =>
      intro m h
      refine ih _ ?_
      beta_reduce
      split
      · exact sparseWf_sset _ _ _ h
      · exact h
  exact this _ m h

/-- A byte outside the bytes that are put reads as before. -/
theorem sget_putBytes_out (m : Sparse 8) (a : Nat) (bs : List Byte) (k : Nat) (h : k < a ∨ a + bs.length ≤ k) : sget (putBytes m a bs) k = sget m k := by
  induction bs generalizing m a with
  | nil => rfl
  | cons b bs ih =>
    simp only [List.length_cons] at h
    rw [putBytes, ih _ _ (by omega), sget_sset_ne _ _ (by omega)]

/-- The bytes that are put read as put. -/
theorem sget_putBytes_in (m : Sparse 8) (a : Nat) (bs : List Byte) (i : Nat) (h : i < bs.length) : sget (putBytes m a bs) (a + i) = bs[i] := by
  induction bs generalizing m a i with
  | nil => simp at h
  | cons b bs ih =>
    cases i with
    | zero => rw [putBytes, sget_putBytes_out _ _ _ _ (by omega)]; simp
    | succ i =>
      have := ih (sset m a b) (a + 1) i (by simpa using h)
      rw [show a + (i + 1) = a + 1 + i by omega, putBytes, this]
      simp

end Sys2Proof.Machine
end

