-- ==== Sys2Proof/Laws/State.lean ====
section
/-! SUPPORT. The fields of State under each of its updates, one lemma per field and update, and what the updates of records read. -/

namespace Sys2Proof.Machine

open Sys2Proof

/-! ### `setBlock` -/

@[simp] theorem State.setBlock_vtime (s : State) (b : Nat) (x : Block) : (s.setBlock b x).vtime = s.vtime := rfl
@[simp] theorem State.setBlock_clk (s : State) (b : Nat) (x : Block) : (s.setBlock b x).clk = s.clk := rfl
@[simp] theorem State.setBlock_cyc0 (s : State) (b : Nat) (x : Block) : (s.setBlock b x).cyc0 = s.cyc0 := rfl
@[simp] theorem State.setBlock_agenda (s : State) (b : Nat) (x : Block) : (s.setBlock b x).agenda = s.agenda := rfl
@[simp] theorem State.setBlock_turn (s : State) (b : Nat) (x : Block) : (s.setBlock b x).turn = s.turn := rfl
@[simp] theorem State.setBlock_cur (s : State) (b : Nat) (x : Block) : (s.setBlock b x).cur = s.cur := rfl
@[simp] theorem State.setBlock_word (s : State) (b : Nat) (x : Block) : (s.setBlock b x).word = s.word := rfl
@[simp] theorem State.setBlock_raised (s : State) (b : Nat) (x : Block) : (s.setBlock b x).raised = s.raised := rfl
@[simp] theorem State.setBlock_free (s : State) (b : Nat) (x : Block) : (s.setBlock b x).free = s.free := rfl
@[simp] theorem State.setBlock_ids (s : State) (b : Nat) (x : Block) : (s.setBlock b x).ids = s.ids := rfl
@[simp] theorem State.setBlock_evt (s : State) (b : Nat) (x : Block) : (s.setBlock b x).evt = s.evt := rfl
@[simp] theorem State.setBlock_mem (s : State) (b : Nat) (x : Block) : (s.setBlock b x).mem = s.mem := rfl
@[simp] theorem State.setBlock_poison (s : State) (b : Nat) (x : Block) : (s.setBlock b x).poison = s.poison := rfl
@[simp] theorem State.setBlock_stamps (s : State) (b : Nat) (x : Block) : (s.setBlock b x).stamps = s.stamps := rfl
@[simp] theorem State.setBlock_late (s : State) (b : Nat) (x : Block) : (s.setBlock b x).late = s.late := rfl
@[simp] theorem State.setBlock_notes (s : State) (b : Nat) (x : Block) : (s.setBlock b x).notes = s.notes := rfl
@[simp] theorem State.setBlock_cores (s : State) (b : Nat) (x : Block) : (s.setBlock b x).cores = s.cores := rfl
@[simp] theorem State.setBlock_ccs (s : State) (b : Nat) (x : Block) : (s.setBlock b x).ccs = s.ccs := rfl
@[simp] theorem State.setBlock_dir (s : State) (b : Nat) (x : Block) : (s.setBlock b x).dir = s.dir := rfl
@[simp] theorem State.setBlock_net (s : State) (b : Nat) (x : Block) : (s.setBlock b x).net = s.net := rfl
@[simp] theorem State.setBlock_reqs (s : State) (b : Nat) (x : Block) : (s.setBlock b x).reqs = s.reqs := rfl
@[simp] theorem State.setBlock_setq (s : State) (b : Nat) (x : Block) : (s.setBlock b x).setq = s.setq := rfl
@[simp] theorem State.setBlock_outst (s : State) (b : Nat) (x : Block) : (s.setBlock b x).outst = s.outst := rfl
@[simp] theorem State.setBlock_wbacks (s : State) (b : Nat) (x : Block) : (s.setBlock b x).wbacks = s.wbacks := rfl
@[simp] theorem State.setBlock_protos (s : State) (b : Nat) (x : Block) : (s.setBlock b x).protos = s.protos := rfl
@[simp] theorem State.setBlock_objs (s : State) (b : Nat) (x : Block) : (s.setBlock b x).objs = s.objs := rfl
@[simp] theorem State.setBlock_grids (s : State) (b : Nat) (x : Block) : (s.setBlock b x).grids = s.grids := rfl
@[simp] theorem State.setBlock_sched (s : State) (b : Nat) (x : Block) : (s.setBlock b x).sched = s.sched := rfl
@[simp] theorem State.setBlock_queues (s : State) (b : Nat) (x : Block) : (s.setBlock b x).queues = s.queues := rfl
@[simp] theorem State.setBlock_ctxs (s : State) (b : Nat) (x : Block) : (s.setBlock b x).ctxs = s.ctxs := rfl
@[simp] theorem State.setBlock_tenants (s : State) (b : Nat) (x : Block) : (s.setBlock b x).tenants = s.tenants := rfl
@[simp] theorem State.setBlock_windows (s : State) (b : Nat) (x : Block) : (s.setBlock b x).windows = s.windows := rfl
@[simp] theorem State.setBlock_experts (s : State) (b : Nat) (x : Block) : (s.setBlock b x).experts = s.experts := rfl
@[simp] theorem State.setBlock_expCtx (s : State) (b : Nat) (x : Block) : (s.setBlock b x).expCtx = s.expCtx := rfl
@[simp] theorem State.setBlock_keys (s : State) (b : Nat) (x : Block) : (s.setBlock b x).keys = s.keys := rfl
@[simp] theorem State.setBlock_ctrs (s : State) (b : Nat) (x : Block) : (s.setBlock b x).ctrs = s.ctrs := rfl
@[simp] theorem State.setBlock_svcq (s : State) (b : Nat) (x : Block) : (s.setBlock b x).svcq = s.svcq := rfl
@[simp] theorem State.setBlock_pops (s : State) (b : Nat) (x : Block) : (s.setBlock b x).pops = s.pops := rfl
@[simp] theorem State.setBlock_popIdx (s : State) (b : Nat) (x : Block) : (s.setBlock b x).popIdx = s.popIdx := rfl
@[simp] theorem State.setBlock_priv (s : State) (b : Nat) (x : Block) : (s.setBlock b x).priv = s.priv := rfl
@[simp] theorem State.setBlock_fab (s : State) (b : Nat) (x : Block) : (s.setBlock b x).fab = s.fab := rfl
@[simp] theorem State.setBlock_dbg (s : State) (b : Nat) (x : Block) : (s.setBlock b x).dbg = s.dbg := rfl
@[simp] theorem State.setBlock_chains (s : State) (b : Nat) (x : Block) : (s.setBlock b x).chains = s.chains := rfl
@[simp] theorem State.setBlock_host (s : State) (b : Nat) (x : Block) : (s.setBlock b x).host = s.host := rfl
@[simp] theorem State.setBlock_mgmt (s : State) (b : Nat) (x : Block) : (s.setBlock b x).mgmt = s.mgmt := rfl

/-! ### `setCore` -/

@[simp] theorem State.setCore_vtime (s : State) (c : Nat) (x : Core) : (s.setCore c x).vtime = s.vtime := rfl
@[simp] theorem State.setCore_clk (s : State) (c : Nat) (x : Core) : (s.setCore c x).clk = s.clk := rfl
@[simp] theorem State.setCore_cyc0 (s : State) (c : Nat) (x : Core) : (s.setCore c x).cyc0 = s.cyc0 := rfl
@[simp] theorem State.setCore_agenda (s : State) (c : Nat) (x : Core) : (s.setCore c x).agenda = s.agenda := rfl
@[simp] theorem State.setCore_turn (s : State) (c : Nat) (x : Core) : (s.setCore c x).turn = s.turn := rfl
@[simp] theorem State.setCore_cur (s : State) (c : Nat) (x : Core) : (s.setCore c x).cur = s.cur := rfl
@[simp] theorem State.setCore_word (s : State) (c : Nat) (x : Core) : (s.setCore c x).word = s.word := rfl
@[simp] theorem State.setCore_raised (s : State) (c : Nat) (x : Core) : (s.setCore c x).raised = s.raised := rfl
@[simp] theorem State.setCore_free (s : State) (c : Nat) (x : Core) : (s.setCore c x).free = s.free := rfl
@[simp] theorem State.setCore_ids (s : State) (c : Nat) (x : Core) : (s.setCore c x).ids = s.ids := rfl
@[simp] theorem State.setCore_evt (s : State) (c : Nat) (x : Core) : (s.setCore c x).evt = s.evt := rfl
@[simp] theorem State.setCore_mem (s : State) (c : Nat) (x : Core) : (s.setCore c x).mem = s.mem := rfl
@[simp] theorem State.setCore_poison (s : State) (c : Nat) (x : Core) : (s.setCore c x).poison = s.poison := rfl
@[simp] theorem State.setCore_stamps (s : State) (c : Nat) (x : Core) : (s.setCore c x).stamps = s.stamps := rfl
@[simp] theorem State.setCore_late (s : State) (c : Nat) (x : Core) : (s.setCore c x).late = s.late := rfl
@[simp] theorem State.setCore_notes (s : State) (c : Nat) (x : Core) : (s.setCore c x).notes = s.notes := rfl
@[simp] theorem State.setCore_ccs (s : State) (c : Nat) (x : Core) : (s.setCore c x).ccs = s.ccs := rfl
@[simp] theorem State.setCore_dir (s : State) (c : Nat) (x : Core) : (s.setCore c x).dir = s.dir := rfl
@[simp] theorem State.setCore_net (s : State) (c : Nat) (x : Core) : (s.setCore c x).net = s.net := rfl
@[simp] theorem State.setCore_reqs (s : State) (c : Nat) (x : Core) : (s.setCore c x).reqs = s.reqs := rfl
@[simp] theorem State.setCore_setq (s : State) (c : Nat) (x : Core) : (s.setCore c x).setq = s.setq := rfl
@[simp] theorem State.setCore_outst (s : State) (c : Nat) (x : Core) : (s.setCore c x).outst = s.outst := rfl
@[simp] theorem State.setCore_wbacks (s : State) (c : Nat) (x : Core) : (s.setCore c x).wbacks = s.wbacks := rfl
@[simp] theorem State.setCore_protos (s : State) (c : Nat) (x : Core) : (s.setCore c x).protos = s.protos := rfl
@[simp] theorem State.setCore_objs (s : State) (c : Nat) (x : Core) : (s.setCore c x).objs = s.objs := rfl
@[simp] theorem State.setCore_blocks (s : State) (c : Nat) (x : Core) : (s.setCore c x).blocks = s.blocks := rfl
@[simp] theorem State.setCore_grids (s : State) (c : Nat) (x : Core) : (s.setCore c x).grids = s.grids := rfl
@[simp] theorem State.setCore_sched (s : State) (c : Nat) (x : Core) : (s.setCore c x).sched = s.sched := rfl
@[simp] theorem State.setCore_queues (s : State) (c : Nat) (x : Core) : (s.setCore c x).queues = s.queues := rfl
@[simp] theorem State.setCore_ctxs (s : State) (c : Nat) (x : Core) : (s.setCore c x).ctxs = s.ctxs := rfl
@[simp] theorem State.setCore_tenants (s : State) (c : Nat) (x : Core) : (s.setCore c x).tenants = s.tenants := rfl
@[simp] theorem State.setCore_windows (s : State) (c : Nat) (x : Core) : (s.setCore c x).windows = s.windows := rfl
@[simp] theorem State.setCore_experts (s : State) (c : Nat) (x : Core) : (s.setCore c x).experts = s.experts := rfl
@[simp] theorem State.setCore_expCtx (s : State) (c : Nat) (x : Core) : (s.setCore c x).expCtx = s.expCtx := rfl
@[simp] theorem State.setCore_keys (s : State) (c : Nat) (x : Core) : (s.setCore c x).keys = s.keys := rfl
@[simp] theorem State.setCore_ctrs (s : State) (c : Nat) (x : Core) : (s.setCore c x).ctrs = s.ctrs := rfl
@[simp] theorem State.setCore_svcq (s : State) (c : Nat) (x : Core) : (s.setCore c x).svcq = s.svcq := rfl
@[simp] theorem State.setCore_pops (s : State) (c : Nat) (x : Core) : (s.setCore c x).pops = s.pops := rfl
@[simp] theorem State.setCore_popIdx (s : State) (c : Nat) (x : Core) : (s.setCore c x).popIdx = s.popIdx := rfl
@[simp] theorem State.setCore_priv (s : State) (c : Nat) (x : Core) : (s.setCore c x).priv = s.priv := rfl
@[simp] theorem State.setCore_fab (s : State) (c : Nat) (x : Core) : (s.setCore c x).fab = s.fab := rfl
@[simp] theorem State.setCore_dbg (s : State) (c : Nat) (x : Core) : (s.setCore c x).dbg = s.dbg := rfl
@[simp] theorem State.setCore_chains (s : State) (c : Nat) (x : Core) : (s.setCore c x).chains = s.chains := rfl
@[simp] theorem State.setCore_host (s : State) (c : Nat) (x : Core) : (s.setCore c x).host = s.host := rfl
@[simp] theorem State.setCore_mgmt (s : State) (c : Nat) (x : Core) : (s.setCore c x).mgmt = s.mgmt := rfl

/-! ### `mapCore` -/

@[simp] theorem State.mapCore_vtime (s : State) (c : Nat) (f : Core → Core) : (s.mapCore c f).vtime = s.vtime := rfl
@[simp] theorem State.mapCore_clk (s : State) (c : Nat) (f : Core → Core) : (s.mapCore c f).clk = s.clk := rfl
@[simp] theorem State.mapCore_cyc0 (s : State) (c : Nat) (f : Core → Core) : (s.mapCore c f).cyc0 = s.cyc0 := rfl
@[simp] theorem State.mapCore_agenda (s : State) (c : Nat) (f : Core → Core) : (s.mapCore c f).agenda = s.agenda := rfl
@[simp] theorem State.mapCore_turn (s : State) (c : Nat) (f : Core → Core) : (s.mapCore c f).turn = s.turn := rfl
@[simp] theorem State.mapCore_cur (s : State) (c : Nat) (f : Core → Core) : (s.mapCore c f).cur = s.cur := rfl
@[simp] theorem State.mapCore_word (s : State) (c : Nat) (f : Core → Core) : (s.mapCore c f).word = s.word := rfl
@[simp] theorem State.mapCore_raised (s : State) (c : Nat) (f : Core → Core) : (s.mapCore c f).raised = s.raised := rfl
@[simp] theorem State.mapCore_free (s : State) (c : Nat) (f : Core → Core) : (s.mapCore c f).free = s.free := rfl
@[simp] theorem State.mapCore_ids (s : State) (c : Nat) (f : Core → Core) : (s.mapCore c f).ids = s.ids := rfl
@[simp] theorem State.mapCore_evt (s : State) (c : Nat) (f : Core → Core) : (s.mapCore c f).evt = s.evt := rfl
@[simp] theorem State.mapCore_mem (s : State) (c : Nat) (f : Core → Core) : (s.mapCore c f).mem = s.mem := rfl
@[simp] theorem State.mapCore_poison (s : State) (c : Nat) (f : Core → Core) : (s.mapCore c f).poison = s.poison := rfl
@[simp] theorem State.mapCore_stamps (s : State) (c : Nat) (f : Core → Core) : (s.mapCore c f).stamps = s.stamps := rfl
@[simp] theorem State.mapCore_late (s : State) (c : Nat) (f : Core → Core) : (s.mapCore c f).late = s.late := rfl
@[simp] theorem State.mapCore_notes (s : State) (c : Nat) (f : Core → Core) : (s.mapCore c f).notes = s.notes := rfl
@[simp] theorem State.mapCore_ccs (s : State) (c : Nat) (f : Core → Core) : (s.mapCore c f).ccs = s.ccs := rfl
@[simp] theorem State.mapCore_dir (s : State) (c : Nat) (f : Core → Core) : (s.mapCore c f).dir = s.dir := rfl
@[simp] theorem State.mapCore_net (s : State) (c : Nat) (f : Core → Core) : (s.mapCore c f).net = s.net := rfl
@[simp] theorem State.mapCore_reqs (s : State) (c : Nat) (f : Core → Core) : (s.mapCore c f).reqs = s.reqs := rfl
@[simp] theorem State.mapCore_setq (s : State) (c : Nat) (f : Core → Core) : (s.mapCore c f).setq = s.setq := rfl
@[simp] theorem State.mapCore_outst (s : State) (c : Nat) (f : Core → Core) : (s.mapCore c f).outst = s.outst := rfl
@[simp] theorem State.mapCore_wbacks (s : State) (c : Nat) (f : Core → Core) : (s.mapCore c f).wbacks = s.wbacks := rfl
@[simp] theorem State.mapCore_protos (s : State) (c : Nat) (f : Core → Core) : (s.mapCore c f).protos = s.protos := rfl
@[simp] theorem State.mapCore_objs (s : State) (c : Nat) (f : Core → Core) : (s.mapCore c f).objs = s.objs := rfl
@[simp] theorem State.mapCore_blocks (s : State) (c : Nat) (f : Core → Core) : (s.mapCore c f).blocks = s.blocks := rfl
@[simp] theorem State.mapCore_grids (s : State) (c : Nat) (f : Core → Core) : (s.mapCore c f).grids = s.grids := rfl
@[simp] theorem State.mapCore_sched (s : State) (c : Nat) (f : Core → Core) : (s.mapCore c f).sched = s.sched := rfl
@[simp] theorem State.mapCore_queues (s : State) (c : Nat) (f : Core → Core) : (s.mapCore c f).queues = s.queues := rfl
@[simp] theorem State.mapCore_ctxs (s : State) (c : Nat) (f : Core → Core) : (s.mapCore c f).ctxs = s.ctxs := rfl
@[simp] theorem State.mapCore_tenants (s : State) (c : Nat) (f : Core → Core) : (s.mapCore c f).tenants = s.tenants := rfl
@[simp] theorem State.mapCore_windows (s : State) (c : Nat) (f : Core → Core) : (s.mapCore c f).windows = s.windows := rfl
@[simp] theorem State.mapCore_experts (s : State) (c : Nat) (f : Core → Core) : (s.mapCore c f).experts = s.experts := rfl
@[simp] theorem State.mapCore_expCtx (s : State) (c : Nat) (f : Core → Core) : (s.mapCore c f).expCtx = s.expCtx := rfl
@[simp] theorem State.mapCore_keys (s : State) (c : Nat) (f : Core → Core) : (s.mapCore c f).keys = s.keys := rfl
@[simp] theorem State.mapCore_ctrs (s : State) (c : Nat) (f : Core → Core) : (s.mapCore c f).ctrs = s.ctrs := rfl
@[simp] theorem State.mapCore_svcq (s : State) (c : Nat) (f : Core → Core) : (s.mapCore c f).svcq = s.svcq := rfl
@[simp] theorem State.mapCore_pops (s : State) (c : Nat) (f : Core → Core) : (s.mapCore c f).pops = s.pops := rfl
@[simp] theorem State.mapCore_popIdx (s : State) (c : Nat) (f : Core → Core) : (s.mapCore c f).popIdx = s.popIdx := rfl
@[simp] theorem State.mapCore_priv (s : State) (c : Nat) (f : Core → Core) : (s.mapCore c f).priv = s.priv := rfl
@[simp] theorem State.mapCore_fab (s : State) (c : Nat) (f : Core → Core) : (s.mapCore c f).fab = s.fab := rfl
@[simp] theorem State.mapCore_dbg (s : State) (c : Nat) (f : Core → Core) : (s.mapCore c f).dbg = s.dbg := rfl
@[simp] theorem State.mapCore_chains (s : State) (c : Nat) (f : Core → Core) : (s.mapCore c f).chains = s.chains := rfl
@[simp] theorem State.mapCore_host (s : State) (c : Nat) (f : Core → Core) : (s.mapCore c f).host = s.host := rfl
@[simp] theorem State.mapCore_mgmt (s : State) (c : Nat) (f : Core → Core) : (s.mapCore c f).mgmt = s.mgmt := rfl

/-! ### `setCc` -/

@[simp] theorem State.setCc_vtime (s : State) (n : Nat) (x : Table CSector) : (s.setCc n x).vtime = s.vtime := rfl
@[simp] theorem State.setCc_clk (s : State) (n : Nat) (x : Table CSector) : (s.setCc n x).clk = s.clk := rfl
@[simp] theorem State.setCc_cyc0 (s : State) (n : Nat) (x : Table CSector) : (s.setCc n x).cyc0 = s.cyc0 := rfl
@[simp] theorem State.setCc_agenda (s : State) (n : Nat) (x : Table CSector) : (s.setCc n x).agenda = s.agenda := rfl
@[simp] theorem State.setCc_turn (s : State) (n : Nat) (x : Table CSector) : (s.setCc n x).turn = s.turn := rfl
@[simp] theorem State.setCc_cur (s : State) (n : Nat) (x : Table CSector) : (s.setCc n x).cur = s.cur := rfl
@[simp] theorem State.setCc_word (s : State) (n : Nat) (x : Table CSector) : (s.setCc n x).word = s.word := rfl
@[simp] theorem State.setCc_raised (s : State) (n : Nat) (x : Table CSector) : (s.setCc n x).raised = s.raised := rfl
@[simp] theorem State.setCc_free (s : State) (n : Nat) (x : Table CSector) : (s.setCc n x).free = s.free := rfl
@[simp] theorem State.setCc_ids (s : State) (n : Nat) (x : Table CSector) : (s.setCc n x).ids = s.ids := rfl
@[simp] theorem State.setCc_evt (s : State) (n : Nat) (x : Table CSector) : (s.setCc n x).evt = s.evt := rfl
@[simp] theorem State.setCc_mem (s : State) (n : Nat) (x : Table CSector) : (s.setCc n x).mem = s.mem := rfl
@[simp] theorem State.setCc_poison (s : State) (n : Nat) (x : Table CSector) : (s.setCc n x).poison = s.poison := rfl
@[simp] theorem State.setCc_stamps (s : State) (n : Nat) (x : Table CSector) : (s.setCc n x).stamps = s.stamps := rfl
@[simp] theorem State.setCc_late (s : State) (n : Nat) (x : Table CSector) : (s.setCc n x).late = s.late := rfl
@[simp] theorem State.setCc_notes (s : State) (n : Nat) (x : Table CSector) : (s.setCc n x).notes = s.notes := rfl
@[simp] theorem State.setCc_cores (s : State) (n : Nat) (x : Table CSector) : (s.setCc n x).cores = s.cores := rfl
@[simp] theorem State.setCc_dir (s : State) (n : Nat) (x : Table CSector) : (s.setCc n x).dir = s.dir := rfl
@[simp] theorem State.setCc_net (s : State) (n : Nat) (x : Table CSector) : (s.setCc n x).net = s.net := rfl
@[simp] theorem State.setCc_reqs (s : State) (n : Nat) (x : Table CSector) : (s.setCc n x).reqs = s.reqs := rfl
@[simp] theorem State.setCc_setq (s : State) (n : Nat) (x : Table CSector) : (s.setCc n x).setq = s.setq := rfl
@[simp] theorem State.setCc_outst (s : State) (n : Nat) (x : Table CSector) : (s.setCc n x).outst = s.outst := rfl
@[simp] theorem State.setCc_wbacks (s : State) (n : Nat) (x : Table CSector) : (s.setCc n x).wbacks = s.wbacks := rfl
@[simp] theorem State.setCc_protos (s : State) (n : Nat) (x : Table CSector) : (s.setCc n x).protos = s.protos := rfl
@[simp] theorem State.setCc_objs (s : State) (n : Nat) (x : Table CSector) : (s.setCc n x).objs = s.objs := rfl
@[simp] theorem State.setCc_blocks (s : State) (n : Nat) (x : Table CSector) : (s.setCc n x).blocks = s.blocks := rfl
@[simp] theorem State.setCc_grids (s : State) (n : Nat) (x : Table CSector) : (s.setCc n x).grids = s.grids := rfl
@[simp] theorem State.setCc_sched (s : State) (n : Nat) (x : Table CSector) : (s.setCc n x).sched = s.sched := rfl
@[simp] theorem State.setCc_queues (s : State) (n : Nat) (x : Table CSector) : (s.setCc n x).queues = s.queues := rfl
@[simp] theorem State.setCc_ctxs (s : State) (n : Nat) (x : Table CSector) : (s.setCc n x).ctxs = s.ctxs := rfl
@[simp] theorem State.setCc_tenants (s : State) (n : Nat) (x : Table CSector) : (s.setCc n x).tenants = s.tenants := rfl
@[simp] theorem State.setCc_windows (s : State) (n : Nat) (x : Table CSector) : (s.setCc n x).windows = s.windows := rfl
@[simp] theorem State.setCc_experts (s : State) (n : Nat) (x : Table CSector) : (s.setCc n x).experts = s.experts := rfl
@[simp] theorem State.setCc_expCtx (s : State) (n : Nat) (x : Table CSector) : (s.setCc n x).expCtx = s.expCtx := rfl
@[simp] theorem State.setCc_keys (s : State) (n : Nat) (x : Table CSector) : (s.setCc n x).keys = s.keys := rfl
@[simp] theorem State.setCc_ctrs (s : State) (n : Nat) (x : Table CSector) : (s.setCc n x).ctrs = s.ctrs := rfl
@[simp] theorem State.setCc_svcq (s : State) (n : Nat) (x : Table CSector) : (s.setCc n x).svcq = s.svcq := rfl
@[simp] theorem State.setCc_pops (s : State) (n : Nat) (x : Table CSector) : (s.setCc n x).pops = s.pops := rfl
@[simp] theorem State.setCc_popIdx (s : State) (n : Nat) (x : Table CSector) : (s.setCc n x).popIdx = s.popIdx := rfl
@[simp] theorem State.setCc_priv (s : State) (n : Nat) (x : Table CSector) : (s.setCc n x).priv = s.priv := rfl
@[simp] theorem State.setCc_fab (s : State) (n : Nat) (x : Table CSector) : (s.setCc n x).fab = s.fab := rfl
@[simp] theorem State.setCc_dbg (s : State) (n : Nat) (x : Table CSector) : (s.setCc n x).dbg = s.dbg := rfl
@[simp] theorem State.setCc_chains (s : State) (n : Nat) (x : Table CSector) : (s.setCc n x).chains = s.chains := rfl
@[simp] theorem State.setCc_host (s : State) (n : Nat) (x : Table CSector) : (s.setCc n x).host = s.host := rfl
@[simp] theorem State.setCc_mgmt (s : State) (n : Nat) (x : Table CSector) : (s.setCc n x).mgmt = s.mgmt := rfl

/-! ### `setGroup` -/

@[simp] theorem State.setGroup_vtime (s : State) (b g : Nat) (x : Group) : (s.setGroup b g x).vtime = s.vtime := by unfold State.setGroup; split <;> rfl
@[simp] theorem State.setGroup_clk (s : State) (b g : Nat) (x : Group) : (s.setGroup b g x).clk = s.clk := by unfold State.setGroup; split <;> rfl
@[simp] theorem State.setGroup_cyc0 (s : State) (b g : Nat) (x : Group) : (s.setGroup b g x).cyc0 = s.cyc0 := by unfold State.setGroup; split <;> rfl
@[simp] theorem State.setGroup_agenda (s : State) (b g : Nat) (x : Group) : (s.setGroup b g x).agenda = s.agenda := by unfold State.setGroup; split <;> rfl
@[simp] theorem State.setGroup_turn (s : State) (b g : Nat) (x : Group) : (s.setGroup b g x).turn = s.turn := by unfold State.setGroup; split <;> rfl
@[simp] theorem State.setGroup_cur (s : State) (b g : Nat) (x : Group) : (s.setGroup b g x).cur = s.cur := by unfold State.setGroup; split <;> rfl
@[simp] theorem State.setGroup_word (s : State) (b g : Nat) (x : Group) : (s.setGroup b g x).word = s.word := by unfold State.setGroup; split <;> rfl
@[simp] theorem State.setGroup_raised (s : State) (b g : Nat) (x : Group) : (s.setGroup b g x).raised = s.raised := by unfold State.setGroup; split <;> rfl
@[simp] theorem State.setGroup_free (s : State) (b g : Nat) (x : Group) : (s.setGroup b g x).free = s.free := by unfold State.setGroup; split <;> rfl
@[simp] theorem State.setGroup_ids (s : State) (b g : Nat) (x : Group) : (s.setGroup b g x).ids = s.ids := by unfold State.setGroup; split <;> rfl
@[simp] theorem State.setGroup_evt (s : State) (b g : Nat) (x : Group) : (s.setGroup b g x).evt = s.evt := by unfold State.setGroup; split <;> rfl
@[simp] theorem State.setGroup_mem (s : State) (b g : Nat) (x : Group) : (s.setGroup b g x).mem = s.mem := by unfold State.setGroup; split <;> rfl
@[simp] theorem State.setGroup_poison (s : State) (b g : Nat) (x : Group) : (s.setGroup b g x).poison = s.poison := by unfold State.setGroup; split <;> rfl
@[simp] theorem State.setGroup_stamps (s : State) (b g : Nat) (x : Group) : (s.setGroup b g x).stamps = s.stamps := by unfold State.setGroup; split <;> rfl
@[simp] theorem State.setGroup_late (s : State) (b g : Nat) (x : Group) : (s.setGroup b g x).late = s.late := by unfold State.setGroup; split <;> rfl
@[simp] theorem State.setGroup_notes (s : State) (b g : Nat) (x : Group) : (s.setGroup b g x).notes = s.notes := by unfold State.setGroup; split <;> rfl
@[simp] theorem State.setGroup_cores (s : State) (b g : Nat) (x : Group) : (s.setGroup b g x).cores = s.cores := by unfold State.setGroup; split <;> rfl
@[simp] theorem State.setGroup_ccs (s : State) (b g : Nat) (x : Group) : (s.setGroup b g x).ccs = s.ccs := by unfold State.setGroup; split <;> rfl
@[simp] theorem State.setGroup_dir (s : State) (b g : Nat) (x : Group) : (s.setGroup b g x).dir = s.dir := by unfold State.setGroup; split <;> rfl
@[simp] theorem State.setGroup_net (s : State) (b g : Nat) (x : Group) : (s.setGroup b g x).net = s.net := by unfold State.setGroup; split <;> rfl
@[simp] theorem State.setGroup_reqs (s : State) (b g : Nat) (x : Group) : (s.setGroup b g x).reqs = s.reqs := by unfold State.setGroup; split <;> rfl
@[simp] theorem State.setGroup_setq (s : State) (b g : Nat) (x : Group) : (s.setGroup b g x).setq = s.setq := by unfold State.setGroup; split <;> rfl
@[simp] theorem State.setGroup_outst (s : State) (b g : Nat) (x : Group) : (s.setGroup b g x).outst = s.outst := by unfold State.setGroup; split <;> rfl
@[simp] theorem State.setGroup_wbacks (s : State) (b g : Nat) (x : Group) : (s.setGroup b g x).wbacks = s.wbacks := by unfold State.setGroup; split <;> rfl
@[simp] theorem State.setGroup_protos (s : State) (b g : Nat) (x : Group) : (s.setGroup b g x).protos = s.protos := by unfold State.setGroup; split <;> rfl
@[simp] theorem State.setGroup_objs (s : State) (b g : Nat) (x : Group) : (s.setGroup b g x).objs = s.objs := by unfold State.setGroup; split <;> rfl
@[simp] theorem State.setGroup_grids (s : State) (b g : Nat) (x : Group) : (s.setGroup b g x).grids = s.grids := by unfold State.setGroup; split <;> rfl
@[simp] theorem State.setGroup_sched (s : State) (b g : Nat) (x : Group) : (s.setGroup b g x).sched = s.sched := by unfold State.setGroup; split <;> rfl
@[simp] theorem State.setGroup_queues (s : State) (b g : Nat) (x : Group) : (s.setGroup b g x).queues = s.queues := by unfold State.setGroup; split <;> rfl
@[simp] theorem State.setGroup_ctxs (s : State) (b g : Nat) (x : Group) : (s.setGroup b g x).ctxs = s.ctxs := by unfold State.setGroup; split <;> rfl
@[simp] theorem State.setGroup_tenants (s : State) (b g : Nat) (x : Group) : (s.setGroup b g x).tenants = s.tenants := by unfold State.setGroup; split <;> rfl
@[simp] theorem State.setGroup_windows (s : State) (b g : Nat) (x : Group) : (s.setGroup b g x).windows = s.windows := by unfold State.setGroup; split <;> rfl
@[simp] theorem State.setGroup_experts (s : State) (b g : Nat) (x : Group) : (s.setGroup b g x).experts = s.experts := by unfold State.setGroup; split <;> rfl
@[simp] theorem State.setGroup_expCtx (s : State) (b g : Nat) (x : Group) : (s.setGroup b g x).expCtx = s.expCtx := by unfold State.setGroup; split <;> rfl
@[simp] theorem State.setGroup_keys (s : State) (b g : Nat) (x : Group) : (s.setGroup b g x).keys = s.keys := by unfold State.setGroup; split <;> rfl
@[simp] theorem State.setGroup_ctrs (s : State) (b g : Nat) (x : Group) : (s.setGroup b g x).ctrs = s.ctrs := by unfold State.setGroup; split <;> rfl
@[simp] theorem State.setGroup_svcq (s : State) (b g : Nat) (x : Group) : (s.setGroup b g x).svcq = s.svcq := by unfold State.setGroup; split <;> rfl
@[simp] theorem State.setGroup_pops (s : State) (b g : Nat) (x : Group) : (s.setGroup b g x).pops = s.pops := by unfold State.setGroup; split <;> rfl
@[simp] theorem State.setGroup_popIdx (s : State) (b g : Nat) (x : Group) : (s.setGroup b g x).popIdx = s.popIdx := by unfold State.setGroup; split <;> rfl
@[simp] theorem State.setGroup_priv (s : State) (b g : Nat) (x : Group) : (s.setGroup b g x).priv = s.priv := by unfold State.setGroup; split <;> rfl
@[simp] theorem State.setGroup_fab (s : State) (b g : Nat) (x : Group) : (s.setGroup b g x).fab = s.fab := by unfold State.setGroup; split <;> rfl
@[simp] theorem State.setGroup_dbg (s : State) (b g : Nat) (x : Group) : (s.setGroup b g x).dbg = s.dbg := by unfold State.setGroup; split <;> rfl
@[simp] theorem State.setGroup_chains (s : State) (b g : Nat) (x : Group) : (s.setGroup b g x).chains = s.chains := by unfold State.setGroup; split <;> rfl
@[simp] theorem State.setGroup_host (s : State) (b g : Nat) (x : Group) : (s.setGroup b g x).host = s.host := by unfold State.setGroup; split <;> rfl
@[simp] theorem State.setGroup_mgmt (s : State) (b g : Nat) (x : Group) : (s.setGroup b g x).mgmt = s.mgmt := by unfold State.setGroup; split <;> rfl

/-! ### `mapBlock` -/

@[simp] theorem State.mapBlock_vtime (s : State) (b : Nat) (f : Block → Block) : (s.mapBlock b f).vtime = s.vtime := by unfold State.mapBlock; split <;> rfl
@[simp] theorem State.mapBlock_clk (s : State) (b : Nat) (f : Block → Block) : (s.mapBlock b f).clk = s.clk := by unfold State.mapBlock; split <;> rfl
@[simp] theorem State.mapBlock_cyc0 (s : State) (b : Nat) (f : Block → Block) : (s.mapBlock b f).cyc0 = s.cyc0 := by unfold State.mapBlock; split <;> rfl
@[simp] theorem State.mapBlock_agenda (s : State) (b : Nat) (f : Block → Block) : (s.mapBlock b f).agenda = s.agenda := by unfold State.mapBlock; split <;> rfl
@[simp] theorem State.mapBlock_turn (s : State) (b : Nat) (f : Block → Block) : (s.mapBlock b f).turn = s.turn := by unfold State.mapBlock; split <;> rfl
@[simp] theorem State.mapBlock_cur (s : State) (b : Nat) (f : Block → Block) : (s.mapBlock b f).cur = s.cur := by unfold State.mapBlock; split <;> rfl
@[simp] theorem State.mapBlock_word (s : State) (b : Nat) (f : Block → Block) : (s.mapBlock b f).word = s.word := by unfold State.mapBlock; split <;> rfl
@[simp] theorem State.mapBlock_raised (s : State) (b : Nat) (f : Block → Block) : (s.mapBlock b f).raised = s.raised := by unfold State.mapBlock; split <;> rfl
@[simp] theorem State.mapBlock_free (s : State) (b : Nat) (f : Block → Block) : (s.mapBlock b f).free = s.free := by unfold State.mapBlock; split <;> rfl
@[simp] theorem State.mapBlock_ids (s : State) (b : Nat) (f : Block → Block) : (s.mapBlock b f).ids = s.ids := by unfold State.mapBlock; split <;> rfl
@[simp] theorem State.mapBlock_evt (s : State) (b : Nat) (f : Block → Block) : (s.mapBlock b f).evt = s.evt := by unfold State.mapBlock; split <;> rfl
@[simp] theorem State.mapBlock_mem (s : State) (b : Nat) (f : Block → Block) : (s.mapBlock b f).mem = s.mem := by unfold State.mapBlock; split <;> rfl
@[simp] theorem State.mapBlock_poison (s : State) (b : Nat) (f : Block → Block) : (s.mapBlock b f).poison = s.poison := by unfold State.mapBlock; split <;> rfl
@[simp] theorem State.mapBlock_stamps (s : State) (b : Nat) (f : Block → Block) : (s.mapBlock b f).stamps = s.stamps := by unfold State.mapBlock; split <;> rfl
@[simp] theorem State.mapBlock_late (s : State) (b : Nat) (f : Block → Block) : (s.mapBlock b f).late = s.late := by unfold State.mapBlock; split <;> rfl
@[simp] theorem State.mapBlock_notes (s : State) (b : Nat) (f : Block → Block) : (s.mapBlock b f).notes = s.notes := by unfold State.mapBlock; split <;> rfl
@[simp] theorem State.mapBlock_cores (s : State) (b : Nat) (f : Block → Block) : (s.mapBlock b f).cores = s.cores := by unfold State.mapBlock; split <;> rfl
@[simp] theorem State.mapBlock_ccs (s : State) (b : Nat) (f : Block → Block) : (s.mapBlock b f).ccs = s.ccs := by unfold State.mapBlock; split <;> rfl
@[simp] theorem State.mapBlock_dir (s : State) (b : Nat) (f : Block → Block) : (s.mapBlock b f).dir = s.dir := by unfold State.mapBlock; split <;> rfl
@[simp] theorem State.mapBlock_net (s : State) (b : Nat) (f : Block → Block) : (s.mapBlock b f).net = s.net := by unfold State.mapBlock; split <;> rfl
@[simp] theorem State.mapBlock_reqs (s : State) (b : Nat) (f : Block → Block) : (s.mapBlock b f).reqs = s.reqs := by unfold State.mapBlock; split <;> rfl
@[simp] theorem State.mapBlock_setq (s : State) (b : Nat) (f : Block → Block) : (s.mapBlock b f).setq = s.setq := by unfold State.mapBlock; split <;> rfl
@[simp] theorem State.mapBlock_outst (s : State) (b : Nat) (f : Block → Block) : (s.mapBlock b f).outst = s.outst := by unfold State.mapBlock; split <;> rfl
@[simp] theorem State.mapBlock_wbacks (s : State) (b : Nat) (f : Block → Block) : (s.mapBlock b f).wbacks = s.wbacks := by unfold State.mapBlock; split <;> rfl
@[simp] theorem State.mapBlock_protos (s : State) (b : Nat) (f : Block → Block) : (s.mapBlock b f).protos = s.protos := by unfold State.mapBlock; split <;> rfl
@[simp] theorem State.mapBlock_objs (s : State) (b : Nat) (f : Block → Block) : (s.mapBlock b f).objs = s.objs := by unfold State.mapBlock; split <;> rfl
@[simp] theorem State.mapBlock_grids (s : State) (b : Nat) (f : Block → Block) : (s.mapBlock b f).grids = s.grids := by unfold State.mapBlock; split <;> rfl
@[simp] theorem State.mapBlock_sched (s : State) (b : Nat) (f : Block → Block) : (s.mapBlock b f).sched = s.sched := by unfold State.mapBlock; split <;> rfl
@[simp] theorem State.mapBlock_queues (s : State) (b : Nat) (f : Block → Block) : (s.mapBlock b f).queues = s.queues := by unfold State.mapBlock; split <;> rfl
@[simp] theorem State.mapBlock_ctxs (s : State) (b : Nat) (f : Block → Block) : (s.mapBlock b f).ctxs = s.ctxs := by unfold State.mapBlock; split <;> rfl
@[simp] theorem State.mapBlock_tenants (s : State) (b : Nat) (f : Block → Block) : (s.mapBlock b f).tenants = s.tenants := by unfold State.mapBlock; split <;> rfl
@[simp] theorem State.mapBlock_windows (s : State) (b : Nat) (f : Block → Block) : (s.mapBlock b f).windows = s.windows := by unfold State.mapBlock; split <;> rfl
@[simp] theorem State.mapBlock_experts (s : State) (b : Nat) (f : Block → Block) : (s.mapBlock b f).experts = s.experts := by unfold State.mapBlock; split <;> rfl
@[simp] theorem State.mapBlock_expCtx (s : State) (b : Nat) (f : Block → Block) : (s.mapBlock b f).expCtx = s.expCtx := by unfold State.mapBlock; split <;> rfl
@[simp] theorem State.mapBlock_keys (s : State) (b : Nat) (f : Block → Block) : (s.mapBlock b f).keys = s.keys := by unfold State.mapBlock; split <;> rfl
@[simp] theorem State.mapBlock_ctrs (s : State) (b : Nat) (f : Block → Block) : (s.mapBlock b f).ctrs = s.ctrs := by unfold State.mapBlock; split <;> rfl
@[simp] theorem State.mapBlock_svcq (s : State) (b : Nat) (f : Block → Block) : (s.mapBlock b f).svcq = s.svcq := by unfold State.mapBlock; split <;> rfl
@[simp] theorem State.mapBlock_pops (s : State) (b : Nat) (f : Block → Block) : (s.mapBlock b f).pops = s.pops := by unfold State.mapBlock; split <;> rfl
@[simp] theorem State.mapBlock_popIdx (s : State) (b : Nat) (f : Block → Block) : (s.mapBlock b f).popIdx = s.popIdx := by unfold State.mapBlock; split <;> rfl
@[simp] theorem State.mapBlock_priv (s : State) (b : Nat) (f : Block → Block) : (s.mapBlock b f).priv = s.priv := by unfold State.mapBlock; split <;> rfl
@[simp] theorem State.mapBlock_fab (s : State) (b : Nat) (f : Block → Block) : (s.mapBlock b f).fab = s.fab := by unfold State.mapBlock; split <;> rfl
@[simp] theorem State.mapBlock_dbg (s : State) (b : Nat) (f : Block → Block) : (s.mapBlock b f).dbg = s.dbg := by unfold State.mapBlock; split <;> rfl
@[simp] theorem State.mapBlock_chains (s : State) (b : Nat) (f : Block → Block) : (s.mapBlock b f).chains = s.chains := by unfold State.mapBlock; split <;> rfl
@[simp] theorem State.mapBlock_host (s : State) (b : Nat) (f : Block → Block) : (s.mapBlock b f).host = s.host := by unfold State.mapBlock; split <;> rfl
@[simp] theorem State.mapBlock_mgmt (s : State) (b : Nat) (f : Block → Block) : (s.mapBlock b f).mgmt = s.mgmt := by unfold State.mapBlock; split <;> rfl

/-! ### `mapGroup` -/

@[simp] theorem State.mapGroup_vtime (s : State) (b g : Nat) (f : Group → Group) : (s.mapGroup b g f).vtime = s.vtime := by unfold State.mapGroup; split <;> simp
@[simp] theorem State.mapGroup_clk (s : State) (b g : Nat) (f : Group → Group) : (s.mapGroup b g f).clk = s.clk := by unfold State.mapGroup; split <;> simp
@[simp] theorem State.mapGroup_cyc0 (s : State) (b g : Nat) (f : Group → Group) : (s.mapGroup b g f).cyc0 = s.cyc0 := by unfold State.mapGroup; split <;> simp
@[simp] theorem State.mapGroup_agenda (s : State) (b g : Nat) (f : Group → Group) : (s.mapGroup b g f).agenda = s.agenda := by unfold State.mapGroup; split <;> simp
@[simp] theorem State.mapGroup_turn (s : State) (b g : Nat) (f : Group → Group) : (s.mapGroup b g f).turn = s.turn := by unfold State.mapGroup; split <;> simp
@[simp] theorem State.mapGroup_cur (s : State) (b g : Nat) (f : Group → Group) : (s.mapGroup b g f).cur = s.cur := by unfold State.mapGroup; split <;> simp
@[simp] theorem State.mapGroup_word (s : State) (b g : Nat) (f : Group → Group) : (s.mapGroup b g f).word = s.word := by unfold State.mapGroup; split <;> simp
@[simp] theorem State.mapGroup_raised (s : State) (b g : Nat) (f : Group → Group) : (s.mapGroup b g f).raised = s.raised := by unfold State.mapGroup; split <;> simp
@[simp] theorem State.mapGroup_free (s : State) (b g : Nat) (f : Group → Group) : (s.mapGroup b g f).free = s.free := by unfold State.mapGroup; split <;> simp
@[simp] theorem State.mapGroup_ids (s : State) (b g : Nat) (f : Group → Group) : (s.mapGroup b g f).ids = s.ids := by unfold State.mapGroup; split <;> simp
@[simp] theorem State.mapGroup_evt (s : State) (b g : Nat) (f : Group → Group) : (s.mapGroup b g f).evt = s.evt := by unfold State.mapGroup; split <;> simp
@[simp] theorem State.mapGroup_mem (s : State) (b g : Nat) (f : Group → Group) : (s.mapGroup b g f).mem = s.mem := by unfold State.mapGroup; split <;> simp
@[simp] theorem State.mapGroup_poison (s : State) (b g : Nat) (f : Group → Group) : (s.mapGroup b g f).poison = s.poison := by unfold State.mapGroup; split <;> simp
@[simp] theorem State.mapGroup_stamps (s : State) (b g : Nat) (f : Group → Group) : (s.mapGroup b g f).stamps = s.stamps := by unfold State.mapGroup; split <;> simp
@[simp] theorem State.mapGroup_late (s : State) (b g : Nat) (f : Group → Group) : (s.mapGroup b g f).late = s.late := by unfold State.mapGroup; split <;> simp
@[simp] theorem State.mapGroup_notes (s : State) (b g : Nat) (f : Group → Group) : (s.mapGroup b g f).notes = s.notes := by unfold State.mapGroup; split <;> simp
@[simp] theorem State.mapGroup_cores (s : State) (b g : Nat) (f : Group → Group) : (s.mapGroup b g f).cores = s.cores := by unfold State.mapGroup; split <;> simp
@[simp] theorem State.mapGroup_ccs (s : State) (b g : Nat) (f : Group → Group) : (s.mapGroup b g f).ccs = s.ccs := by unfold State.mapGroup; split <;> simp
@[simp] theorem State.mapGroup_dir (s : State) (b g : Nat) (f : Group → Group) : (s.mapGroup b g f).dir = s.dir := by unfold State.mapGroup; split <;> simp
@[simp] theorem State.mapGroup_net (s : State) (b g : Nat) (f : Group → Group) : (s.mapGroup b g f).net = s.net := by unfold State.mapGroup; split <;> simp
@[simp] theorem State.mapGroup_reqs (s : State) (b g : Nat) (f : Group → Group) : (s.mapGroup b g f).reqs = s.reqs := by unfold State.mapGroup; split <;> simp
@[simp] theorem State.mapGroup_setq (s : State) (b g : Nat) (f : Group → Group) : (s.mapGroup b g f).setq = s.setq := by unfold State.mapGroup; split <;> simp
@[simp] theorem State.mapGroup_outst (s : State) (b g : Nat) (f : Group → Group) : (s.mapGroup b g f).outst = s.outst := by unfold State.mapGroup; split <;> simp
@[simp] theorem State.mapGroup_wbacks (s : State) (b g : Nat) (f : Group → Group) : (s.mapGroup b g f).wbacks = s.wbacks := by unfold State.mapGroup; split <;> simp
@[simp] theorem State.mapGroup_protos (s : State) (b g : Nat) (f : Group → Group) : (s.mapGroup b g f).protos = s.protos := by unfold State.mapGroup; split <;> simp
@[simp] theorem State.mapGroup_objs (s : State) (b g : Nat) (f : Group → Group) : (s.mapGroup b g f).objs = s.objs := by unfold State.mapGroup; split <;> simp
@[simp] theorem State.mapGroup_grids (s : State) (b g : Nat) (f : Group → Group) : (s.mapGroup b g f).grids = s.grids := by unfold State.mapGroup; split <;> simp
@[simp] theorem State.mapGroup_sched (s : State) (b g : Nat) (f : Group → Group) : (s.mapGroup b g f).sched = s.sched := by unfold State.mapGroup; split <;> simp
@[simp] theorem State.mapGroup_queues (s : State) (b g : Nat) (f : Group → Group) : (s.mapGroup b g f).queues = s.queues := by unfold State.mapGroup; split <;> simp
@[simp] theorem State.mapGroup_ctxs (s : State) (b g : Nat) (f : Group → Group) : (s.mapGroup b g f).ctxs = s.ctxs := by unfold State.mapGroup; split <;> simp
@[simp] theorem State.mapGroup_tenants (s : State) (b g : Nat) (f : Group → Group) : (s.mapGroup b g f).tenants = s.tenants := by unfold State.mapGroup; split <;> simp
@[simp] theorem State.mapGroup_windows (s : State) (b g : Nat) (f : Group → Group) : (s.mapGroup b g f).windows = s.windows := by unfold State.mapGroup; split <;> simp
@[simp] theorem State.mapGroup_experts (s : State) (b g : Nat) (f : Group → Group) : (s.mapGroup b g f).experts = s.experts := by unfold State.mapGroup; split <;> simp
@[simp] theorem State.mapGroup_expCtx (s : State) (b g : Nat) (f : Group → Group) : (s.mapGroup b g f).expCtx = s.expCtx := by unfold State.mapGroup; split <;> simp
@[simp] theorem State.mapGroup_keys (s : State) (b g : Nat) (f : Group → Group) : (s.mapGroup b g f).keys = s.keys := by unfold State.mapGroup; split <;> simp
@[simp] theorem State.mapGroup_ctrs (s : State) (b g : Nat) (f : Group → Group) : (s.mapGroup b g f).ctrs = s.ctrs := by unfold State.mapGroup; split <;> simp
@[simp] theorem State.mapGroup_svcq (s : State) (b g : Nat) (f : Group → Group) : (s.mapGroup b g f).svcq = s.svcq := by unfold State.mapGroup; split <;> simp
@[simp] theorem State.mapGroup_pops (s : State) (b g : Nat) (f : Group → Group) : (s.mapGroup b g f).pops = s.pops := by unfold State.mapGroup; split <;> simp
@[simp] theorem State.mapGroup_popIdx (s : State) (b g : Nat) (f : Group → Group) : (s.mapGroup b g f).popIdx = s.popIdx := by unfold State.mapGroup; split <;> simp
@[simp] theorem State.mapGroup_priv (s : State) (b g : Nat) (f : Group → Group) : (s.mapGroup b g f).priv = s.priv := by unfold State.mapGroup; split <;> simp
@[simp] theorem State.mapGroup_fab (s : State) (b g : Nat) (f : Group → Group) : (s.mapGroup b g f).fab = s.fab := by unfold State.mapGroup; split <;> simp
@[simp] theorem State.mapGroup_dbg (s : State) (b g : Nat) (f : Group → Group) : (s.mapGroup b g f).dbg = s.dbg := by unfold State.mapGroup; split <;> simp
@[simp] theorem State.mapGroup_chains (s : State) (b g : Nat) (f : Group → Group) : (s.mapGroup b g f).chains = s.chains := by unfold State.mapGroup; split <;> simp
@[simp] theorem State.mapGroup_host (s : State) (b g : Nat) (f : Group → Group) : (s.mapGroup b g f).host = s.host := by unfold State.mapGroup; split <;> simp
@[simp] theorem State.mapGroup_mgmt (s : State) (b g : Nat) (f : Group → Group) : (s.mapGroup b g f).mgmt = s.mgmt := by unfold State.mapGroup; split <;> simp

/-! ### `mapRegs` -/

@[simp] theorem State.mapRegs_vtime (s : State) (ag : AgentRef) (f : Regs → Regs) : (s.mapRegs ag f).vtime = s.vtime := State.mapGroup_vtime ..
@[simp] theorem State.mapRegs_clk (s : State) (ag : AgentRef) (f : Regs → Regs) : (s.mapRegs ag f).clk = s.clk := State.mapGroup_clk ..
@[simp] theorem State.mapRegs_cyc0 (s : State) (ag : AgentRef) (f : Regs → Regs) : (s.mapRegs ag f).cyc0 = s.cyc0 := State.mapGroup_cyc0 ..
@[simp] theorem State.mapRegs_agenda (s : State) (ag : AgentRef) (f : Regs → Regs) : (s.mapRegs ag f).agenda = s.agenda := State.mapGroup_agenda ..
@[simp] theorem State.mapRegs_turn (s : State) (ag : AgentRef) (f : Regs → Regs) : (s.mapRegs ag f).turn = s.turn := State.mapGroup_turn ..
@[simp] theorem State.mapRegs_cur (s : State) (ag : AgentRef) (f : Regs → Regs) : (s.mapRegs ag f).cur = s.cur := State.mapGroup_cur ..
@[simp] theorem State.mapRegs_word (s : State) (ag : AgentRef) (f : Regs → Regs) : (s.mapRegs ag f).word = s.word := State.mapGroup_word ..
@[simp] theorem State.mapRegs_raised (s : State) (ag : AgentRef) (f : Regs → Regs) : (s.mapRegs ag f).raised = s.raised := State.mapGroup_raised ..
@[simp] theorem State.mapRegs_free (s : State) (ag : AgentRef) (f : Regs → Regs) : (s.mapRegs ag f).free = s.free := State.mapGroup_free ..
@[simp] theorem State.mapRegs_ids (s : State) (ag : AgentRef) (f : Regs → Regs) : (s.mapRegs ag f).ids = s.ids := State.mapGroup_ids ..
@[simp] theorem State.mapRegs_evt (s : State) (ag : AgentRef) (f : Regs → Regs) : (s.mapRegs ag f).evt = s.evt := State.mapGroup_evt ..
@[simp] theorem State.mapRegs_mem (s : State) (ag : AgentRef) (f : Regs → Regs) : (s.mapRegs ag f).mem = s.mem := State.mapGroup_mem ..
@[simp] theorem State.mapRegs_poison (s : State) (ag : AgentRef) (f : Regs → Regs) : (s.mapRegs ag f).poison = s.poison := State.mapGroup_poison ..
@[simp] theorem State.mapRegs_stamps (s : State) (ag : AgentRef) (f : Regs → Regs) : (s.mapRegs ag f).stamps = s.stamps := State.mapGroup_stamps ..
@[simp] theorem State.mapRegs_late (s : State) (ag : AgentRef) (f : Regs → Regs) : (s.mapRegs ag f).late = s.late := State.mapGroup_late ..
@[simp] theorem State.mapRegs_notes (s : State) (ag : AgentRef) (f : Regs → Regs) : (s.mapRegs ag f).notes = s.notes := State.mapGroup_notes ..
@[simp] theorem State.mapRegs_cores (s : State) (ag : AgentRef) (f : Regs → Regs) : (s.mapRegs ag f).cores = s.cores := State.mapGroup_cores ..
@[simp] theorem State.mapRegs_ccs (s : State) (ag : AgentRef) (f : Regs → Regs) : (s.mapRegs ag f).ccs = s.ccs := State.mapGroup_ccs ..
@[simp] theorem State.mapRegs_dir (s : State) (ag : AgentRef) (f : Regs → Regs) : (s.mapRegs ag f).dir = s.dir := State.mapGroup_dir ..
@[simp] theorem State.mapRegs_net (s : State) (ag : AgentRef) (f : Regs → Regs) : (s.mapRegs ag f).net = s.net := State.mapGroup_net ..
@[simp] theorem State.mapRegs_reqs (s : State) (ag : AgentRef) (f : Regs → Regs) : (s.mapRegs ag f).reqs = s.reqs := State.mapGroup_reqs ..
@[simp] theorem State.mapRegs_setq (s : State) (ag : AgentRef) (f : Regs → Regs) : (s.mapRegs ag f).setq = s.setq := State.mapGroup_setq ..
@[simp] theorem State.mapRegs_outst (s : State) (ag : AgentRef) (f : Regs → Regs) : (s.mapRegs ag f).outst = s.outst := State.mapGroup_outst ..
@[simp] theorem State.mapRegs_wbacks (s : State) (ag : AgentRef) (f : Regs → Regs) : (s.mapRegs ag f).wbacks = s.wbacks := State.mapGroup_wbacks ..
@[simp] theorem State.mapRegs_protos (s : State) (ag : AgentRef) (f : Regs → Regs) : (s.mapRegs ag f).protos = s.protos := State.mapGroup_protos ..
@[simp] theorem State.mapRegs_objs (s : State) (ag : AgentRef) (f : Regs → Regs) : (s.mapRegs ag f).objs = s.objs := State.mapGroup_objs ..
@[simp] theorem State.mapRegs_grids (s : State) (ag : AgentRef) (f : Regs → Regs) : (s.mapRegs ag f).grids = s.grids := State.mapGroup_grids ..
@[simp] theorem State.mapRegs_sched (s : State) (ag : AgentRef) (f : Regs → Regs) : (s.mapRegs ag f).sched = s.sched := State.mapGroup_sched ..
@[simp] theorem State.mapRegs_queues (s : State) (ag : AgentRef) (f : Regs → Regs) : (s.mapRegs ag f).queues = s.queues := State.mapGroup_queues ..
@[simp] theorem State.mapRegs_ctxs (s : State) (ag : AgentRef) (f : Regs → Regs) : (s.mapRegs ag f).ctxs = s.ctxs := State.mapGroup_ctxs ..
@[simp] theorem State.mapRegs_tenants (s : State) (ag : AgentRef) (f : Regs → Regs) : (s.mapRegs ag f).tenants = s.tenants := State.mapGroup_tenants ..
@[simp] theorem State.mapRegs_windows (s : State) (ag : AgentRef) (f : Regs → Regs) : (s.mapRegs ag f).windows = s.windows := State.mapGroup_windows ..
@[simp] theorem State.mapRegs_experts (s : State) (ag : AgentRef) (f : Regs → Regs) : (s.mapRegs ag f).experts = s.experts := State.mapGroup_experts ..
@[simp] theorem State.mapRegs_expCtx (s : State) (ag : AgentRef) (f : Regs → Regs) : (s.mapRegs ag f).expCtx = s.expCtx := State.mapGroup_expCtx ..
@[simp] theorem State.mapRegs_keys (s : State) (ag : AgentRef) (f : Regs → Regs) : (s.mapRegs ag f).keys = s.keys := State.mapGroup_keys ..
@[simp] theorem State.mapRegs_ctrs (s : State) (ag : AgentRef) (f : Regs → Regs) : (s.mapRegs ag f).ctrs = s.ctrs := State.mapGroup_ctrs ..
@[simp] theorem State.mapRegs_svcq (s : State) (ag : AgentRef) (f : Regs → Regs) : (s.mapRegs ag f).svcq = s.svcq := State.mapGroup_svcq ..
@[simp] theorem State.mapRegs_pops (s : State) (ag : AgentRef) (f : Regs → Regs) : (s.mapRegs ag f).pops = s.pops := State.mapGroup_pops ..
@[simp] theorem State.mapRegs_popIdx (s : State) (ag : AgentRef) (f : Regs → Regs) : (s.mapRegs ag f).popIdx = s.popIdx := State.mapGroup_popIdx ..
@[simp] theorem State.mapRegs_priv (s : State) (ag : AgentRef) (f : Regs → Regs) : (s.mapRegs ag f).priv = s.priv := State.mapGroup_priv ..
@[simp] theorem State.mapRegs_fab (s : State) (ag : AgentRef) (f : Regs → Regs) : (s.mapRegs ag f).fab = s.fab := State.mapGroup_fab ..
@[simp] theorem State.mapRegs_dbg (s : State) (ag : AgentRef) (f : Regs → Regs) : (s.mapRegs ag f).dbg = s.dbg := State.mapGroup_dbg ..
@[simp] theorem State.mapRegs_chains (s : State) (ag : AgentRef) (f : Regs → Regs) : (s.mapRegs ag f).chains = s.chains := State.mapGroup_chains ..
@[simp] theorem State.mapRegs_host (s : State) (ag : AgentRef) (f : Regs → Regs) : (s.mapRegs ag f).host = s.host := State.mapGroup_host ..
@[simp] theorem State.mapRegs_mgmt (s : State) (ag : AgentRef) (f : Regs → Regs) : (s.mapRegs ag f).mgmt = s.mgmt := State.mapGroup_mgmt ..

/-! ### `setRun` -/

@[simp] theorem State.setRun_vtime (s : State) (ag : AgentRef) (k : RunState) : (s.setRun ag k).vtime = s.vtime := State.mapGroup_vtime ..
@[simp] theorem State.setRun_clk (s : State) (ag : AgentRef) (k : RunState) : (s.setRun ag k).clk = s.clk := State.mapGroup_clk ..
@[simp] theorem State.setRun_cyc0 (s : State) (ag : AgentRef) (k : RunState) : (s.setRun ag k).cyc0 = s.cyc0 := State.mapGroup_cyc0 ..
@[simp] theorem State.setRun_agenda (s : State) (ag : AgentRef) (k : RunState) : (s.setRun ag k).agenda = s.agenda := State.mapGroup_agenda ..
@[simp] theorem State.setRun_turn (s : State) (ag : AgentRef) (k : RunState) : (s.setRun ag k).turn = s.turn := State.mapGroup_turn ..
@[simp] theorem State.setRun_cur (s : State) (ag : AgentRef) (k : RunState) : (s.setRun ag k).cur = s.cur := State.mapGroup_cur ..
@[simp] theorem State.setRun_word (s : State) (ag : AgentRef) (k : RunState) : (s.setRun ag k).word = s.word := State.mapGroup_word ..
@[simp] theorem State.setRun_raised (s : State) (ag : AgentRef) (k : RunState) : (s.setRun ag k).raised = s.raised := State.mapGroup_raised ..
@[simp] theorem State.setRun_free (s : State) (ag : AgentRef) (k : RunState) : (s.setRun ag k).free = s.free := State.mapGroup_free ..
@[simp] theorem State.setRun_ids (s : State) (ag : AgentRef) (k : RunState) : (s.setRun ag k).ids = s.ids := State.mapGroup_ids ..
@[simp] theorem State.setRun_evt (s : State) (ag : AgentRef) (k : RunState) : (s.setRun ag k).evt = s.evt := State.mapGroup_evt ..
@[simp] theorem State.setRun_mem (s : State) (ag : AgentRef) (k : RunState) : (s.setRun ag k).mem = s.mem := State.mapGroup_mem ..
@[simp] theorem State.setRun_poison (s : State) (ag : AgentRef) (k : RunState) : (s.setRun ag k).poison = s.poison := State.mapGroup_poison ..
@[simp] theorem State.setRun_stamps (s : State) (ag : AgentRef) (k : RunState) : (s.setRun ag k).stamps = s.stamps := State.mapGroup_stamps ..
@[simp] theorem State.setRun_late (s : State) (ag : AgentRef) (k : RunState) : (s.setRun ag k).late = s.late := State.mapGroup_late ..
@[simp] theorem State.setRun_notes (s : State) (ag : AgentRef) (k : RunState) : (s.setRun ag k).notes = s.notes := State.mapGroup_notes ..
@[simp] theorem State.setRun_cores (s : State) (ag : AgentRef) (k : RunState) : (s.setRun ag k).cores = s.cores := State.mapGroup_cores ..
@[simp] theorem State.setRun_ccs (s : State) (ag : AgentRef) (k : RunState) : (s.setRun ag k).ccs = s.ccs := State.mapGroup_ccs ..
@[simp] theorem State.setRun_dir (s : State) (ag : AgentRef) (k : RunState) : (s.setRun ag k).dir = s.dir := State.mapGroup_dir ..
@[simp] theorem State.setRun_net (s : State) (ag : AgentRef) (k : RunState) : (s.setRun ag k).net = s.net := State.mapGroup_net ..
@[simp] theorem State.setRun_reqs (s : State) (ag : AgentRef) (k : RunState) : (s.setRun ag k).reqs = s.reqs := State.mapGroup_reqs ..
@[simp] theorem State.setRun_setq (s : State) (ag : AgentRef) (k : RunState) : (s.setRun ag k).setq = s.setq := State.mapGroup_setq ..
@[simp] theorem State.setRun_outst (s : State) (ag : AgentRef) (k : RunState) : (s.setRun ag k).outst = s.outst := State.mapGroup_outst ..
@[simp] theorem State.setRun_wbacks (s : State) (ag : AgentRef) (k : RunState) : (s.setRun ag k).wbacks = s.wbacks := State.mapGroup_wbacks ..
@[simp] theorem State.setRun_protos (s : State) (ag : AgentRef) (k : RunState) : (s.setRun ag k).protos = s.protos := State.mapGroup_protos ..
@[simp] theorem State.setRun_objs (s : State) (ag : AgentRef) (k : RunState) : (s.setRun ag k).objs = s.objs := State.mapGroup_objs ..
@[simp] theorem State.setRun_grids (s : State) (ag : AgentRef) (k : RunState) : (s.setRun ag k).grids = s.grids := State.mapGroup_grids ..
@[simp] theorem State.setRun_sched (s : State) (ag : AgentRef) (k : RunState) : (s.setRun ag k).sched = s.sched := State.mapGroup_sched ..
@[simp] theorem State.setRun_queues (s : State) (ag : AgentRef) (k : RunState) : (s.setRun ag k).queues = s.queues := State.mapGroup_queues ..
@[simp] theorem State.setRun_ctxs (s : State) (ag : AgentRef) (k : RunState) : (s.setRun ag k).ctxs = s.ctxs := State.mapGroup_ctxs ..
@[simp] theorem State.setRun_tenants (s : State) (ag : AgentRef) (k : RunState) : (s.setRun ag k).tenants = s.tenants := State.mapGroup_tenants ..
@[simp] theorem State.setRun_windows (s : State) (ag : AgentRef) (k : RunState) : (s.setRun ag k).windows = s.windows := State.mapGroup_windows ..
@[simp] theorem State.setRun_experts (s : State) (ag : AgentRef) (k : RunState) : (s.setRun ag k).experts = s.experts := State.mapGroup_experts ..
@[simp] theorem State.setRun_expCtx (s : State) (ag : AgentRef) (k : RunState) : (s.setRun ag k).expCtx = s.expCtx := State.mapGroup_expCtx ..
@[simp] theorem State.setRun_keys (s : State) (ag : AgentRef) (k : RunState) : (s.setRun ag k).keys = s.keys := State.mapGroup_keys ..
@[simp] theorem State.setRun_ctrs (s : State) (ag : AgentRef) (k : RunState) : (s.setRun ag k).ctrs = s.ctrs := State.mapGroup_ctrs ..
@[simp] theorem State.setRun_svcq (s : State) (ag : AgentRef) (k : RunState) : (s.setRun ag k).svcq = s.svcq := State.mapGroup_svcq ..
@[simp] theorem State.setRun_pops (s : State) (ag : AgentRef) (k : RunState) : (s.setRun ag k).pops = s.pops := State.mapGroup_pops ..
@[simp] theorem State.setRun_popIdx (s : State) (ag : AgentRef) (k : RunState) : (s.setRun ag k).popIdx = s.popIdx := State.mapGroup_popIdx ..
@[simp] theorem State.setRun_priv (s : State) (ag : AgentRef) (k : RunState) : (s.setRun ag k).priv = s.priv := State.mapGroup_priv ..
@[simp] theorem State.setRun_fab (s : State) (ag : AgentRef) (k : RunState) : (s.setRun ag k).fab = s.fab := State.mapGroup_fab ..
@[simp] theorem State.setRun_dbg (s : State) (ag : AgentRef) (k : RunState) : (s.setRun ag k).dbg = s.dbg := State.mapGroup_dbg ..
@[simp] theorem State.setRun_chains (s : State) (ag : AgentRef) (k : RunState) : (s.setRun ag k).chains = s.chains := State.mapGroup_chains ..
@[simp] theorem State.setRun_host (s : State) (ag : AgentRef) (k : RunState) : (s.setRun ag k).host = s.host := State.mapGroup_host ..
@[simp] theorem State.setRun_mgmt (s : State) (ag : AgentRef) (k : RunState) : (s.setRun ag k).mgmt = s.mgmt := State.mapGroup_mgmt ..

/-! ### Records after an update -/

@[simp] theorem State.setBlock_blocks (s : State) (b : Nat) (x : Block) : (s.setBlock b x).blocks = tset s.blocks b x := rfl
@[simp] theorem State.setCore_cores (s : State) (c : Nat) (x : Core) : (s.setCore c x).cores = tset s.cores c x := rfl
@[simp] theorem State.mapCore_cores (s : State) (c : Nat) (f : Core → Core) : (s.mapCore c f).cores = tset s.cores c (f (s.core c)) := rfl
@[simp] theorem State.setCc_ccs (s : State) (n : Nat) (x : Table CSector) : (s.setCc n x).ccs = tset s.ccs n x := rfl

/-- The core that is replaced is the one put there. -/
@[simp] theorem State.core_setCore (s : State) (c : Nat) (x : Core) : (s.setCore c x).core c = x := by simp [State.core]

/-- Another core is as before. -/
theorem State.core_setCore_ne (s : State) {c d : Nat} (x : Core) (h : d ≠ c) : (s.setCore c x).core d = s.core d := by
  simp [State.core, tget_tset_ne _ _ h]

@[simp] theorem State.core_mapCore (s : State) (c : Nat) (f : Core → Core) : (s.mapCore c f).core c = f (s.core c) := State.core_setCore ..

theorem State.core_mapCore_ne (s : State) {c d : Nat} (f : Core → Core) (h : d ≠ c) : (s.mapCore c f).core d = s.core d := State.core_setCore_ne _ _ h

@[simp] theorem State.cc_setCc (s : State) (n : Nat) (x : Table CSector) : (s.setCc n x).cc n = x := by simp [State.cc]

theorem State.block_of_group {s : State} {b g : Nat} {x : Group} (h : s.group? b g = some x) :
    ∃ bl, tget s.blocks b = some bl ∧ tget bl.groups g = some x := by
  unfold State.group? at h
  cases hb : tget s.blocks b with
  | none => rw [hb] at h; cases h
  | some bl => rw [hb] at h; exact ⟨bl, rfl, h⟩

/-- A function applied to a group that is there. -/
theorem State.mapGroup_of {s : State} {b g : Nat} {bl : Block} {x : Group} (hb : tget s.blocks b = some bl) (hg : tget bl.groups g = some x)
    (f : Group → Group) : s.mapGroup b g f = s.setBlock b { bl with groups := tset bl.groups g (f x) } := by
  simp [State.mapGroup, State.group?, State.setGroup, hb, hg]

/-- The group after a function has been applied to it. -/
theorem State.group_mapGroup (s : State) (b g : Nat) (f : Group → Group) : (s.mapGroup b g f).group? b g = (s.group? b g).map f := by
  cases h : s.group? b g with
  | none => simp [State.mapGroup, h]
  | some x =>
    obtain ⟨bl, hb, hg⟩ := State.block_of_group h
    simp [State.mapGroup_of hb hg, State.group?]

/-- Every other group is as before. -/
theorem State.group_mapGroup_ne (s : State) {b g b' g' : Nat} (f : Group → Group) (h : b' ≠ b ∨ g' ≠ g) :
    (s.mapGroup b g f).group? b' g' = s.group? b' g' := by
  cases hx : s.group? b g with
  | none => simp [State.mapGroup, hx]
  | some x =>
    obtain ⟨bl, hb, hg⟩ := State.block_of_group hx
    rw [State.mapGroup_of hb hg]
    by_cases hbb : b' = b
    · subst hbb
      have hgg : g' ≠ g := h.resolve_left (by simp)
      simp [State.group?, hb, tget_tset_ne _ _ hgg]
    · simp [State.group?, tget_tset_ne _ _ hbb]

/-- Another block is as before. -/
theorem State.block_mapGroup_ne (s : State) {b b' g : Nat} (f : Group → Group) (h : b' ≠ b) :
    tget (s.mapGroup b g f).blocks b' = tget s.blocks b' := by
  cases hx : s.group? b g with
  | none => simp [State.mapGroup, hx]
  | some x =>
    obtain ⟨bl, hb, hg⟩ := State.block_of_group hx
    simp [State.mapGroup_of hb hg, tget_tset_ne _ _ h]

/-- What an agent's view says about where it lies. -/
theorem viewOf_some {s : State} {ag : AgentRef} {v : View} (h : viewOf s ag = some v) :
    v.ag = ag ∧ tget s.blocks ag.blk = some v.bl ∧ tget v.bl.groups ag.grp = some v.g ∧ v.pkt = packetOf s v.bl ∧
      (match ag.lane with
       | none => v.th = none ∧ v.r = v.g.r ∧ v.mask = v.g.r.mask
       | some l => ∃ t, v.g.thread? l = some t ∧ v.th = some t ∧ v.r = t.r ∧ v.mask = laneBit l) := by
  unfold viewOf at h
  cases hb : tget s.blocks ag.blk with
  | none => simp [hb] at h
  | some bl =>
    cases hg : tget bl.groups ag.grp with
    | none => simp [hb, hg] at h
    | some g =>
      cases hl : ag.lane with
      | none => simp only [hb, hg, hl, Option.some.injEq] at h; subst h; simp [hg]
      | some l =>
        cases ht : g.thread? l with
        | none => simp [hb, hg, hl, ht] at h
        | some t => simp only [hb, hg, hl, ht, Option.some.injEq] at h; subst h; simp [hg, ht]

/-- The executing agent's view is the view of the agent that executes. -/
theorem view_some {s : State} {v : View} (h : view? s = some v) : viewOf s v.ag = some v := by
  unfold view? at h
  cases hc : s.cur with
  | none => rw [hc] at h; cases h
  | some ag =>
    rw [hc] at h
    have : v.ag = ag := (viewOf_some h).1
    rw [this]; exact h

end Sys2Proof.Machine
end

