-- ==== Sys2Proof/Safety.lean ====
section
/-! DEFINITION. What counts as a safe state, and the terms in which claims are stated: what an instruction leaves as it was. -/

namespace Sys2Proof

open Sys2Proof.Machine

/-- Memory is in its canonical form: addresses strictly rising, no entry equal to what an unlisted address reads. -/
def MemOk (s : State) : Prop := Memory.wf s.mem = true

/-- A run that takes `n` steps without a fault. -/
def RunsFor (n : Nat) (s : State) : Prop := ∃ t, Host.Core.run core n s = .next t

/-- A register of a group, or of an ejected lane on its thread (R20, R80). -/
inductive RegName where
  | v (lane n : Nat)
  | k (n : Nat)
  | p (lane n : Nat)
  | q (n : Nat)
  | gen (lane : Nat)
deriving DecidableEq, Repr

/-- The register that a write goes to. -/
def nameOf : RegWrite → RegName
  | .v l n _ => .v l n
  | .k n _ => .k n
  | .p l n _ => .p l n
  | .q n _ => .q n
  | .gen l _ => .gen l

/-- The registers of an agent. -/
def regsOf (s : State) (ag : AgentRef) : Option Regs := (viewOf s ag).map (fun v => v.r)

/-- Every register but those in `d` reads as before, and so do the path mask and the rejoin point. -/
structure RegsKept (r r' : Regs) (d : RegName → Prop) : Prop where
  v : ∀ l n, l < 64 → n < 256 → ¬ d (.v l n) → r'.vget l n = r.vget l n
  k : ∀ n, ¬ d (.k n) → r'.kget n = r.kget n
  p : ∀ l n, l < 64 → ¬ d (.p l n) → r'.pget l n = r.pget l n
  q : ∀ n, n < 8 → ¬ d (.q n) → r'.qget n = r.qget n
  gen : ∀ l, ¬ d (.gen l) → sget r'.gen l = sget r.gen l
  mask : r'.mask = r.mask
  rpc : r'.rpc = r.rpc

/-- Outside one agent's registers and issue record, `t` is `s`: memory, caches, queues, every other block and group, the
group's stack, guards, reservations, batches and traps, and every other lane's thread. -/
structure Elsewhere (s t : State) (ag : AgentRef) : Prop where
  device : { t with blocks := s.blocks } = s
  blocks : ∀ b, b ≠ ag.blk → tget t.blocks b = tget s.blocks b
  block : ∀ x y, tget s.blocks ag.blk = some x → tget t.blocks ag.blk = some y → { y with groups := x.groups } = x
  groups : ∀ g, g ≠ ag.grp → t.group? ag.blk g = s.group? ag.blk g
  group : ∀ x y, s.group? ag.blk ag.grp = some x → t.group? ag.blk ag.grp = some y →
    { y with r := x.r, run := x.run, fair := x.fair, defer := x.defer, hang := x.hang, waitAt := x.waitAt, wake := x.wake, want := x.want,
             tbMet := x.tbMet, barsAt := x.barsAt, spent := x.spent, threads := x.threads } = x ∧
    (y.barsAt = x.barsAt ∨ y.barsAt = x.barsAt.filter (fun e => e.2.2 != x.r.mask)) ∧
    (∀ l, ag.lane ≠ some l → y.thread? l = x.thread? l) ∧ (ag.lane ≠ none → y.r = x.r)

/-- `t` is `s` after an instruction of the viewed agent that ends at `pc`, raises the flags `fl` and writes no register but
those in `d`; its registers are then `r`. -/
structure Ends (s t : State) (v : View) (pc : Word) (fl : Flags) (d : RegName → Prop) (r : Regs) : Prop where
  regs : regsOf t v.ag = some r
  pc : r.pc = pc
  fpf : r.fpf = v.r.fpf ||| fl
  kept : RegsKept v.r r d
  elsewhere : Elsewhere s t v.ag

/-- An instruction of the viewed agent can compute its results: its registers lie within the launch's allocation, a group-wide
form is executed by the group, an ejected lane has a slot for each lane register in `ns` that it writes, and no comparison of mirror mode fails (R35,
R302, R306, R319). -/
structure Computes (v : View) (h : Hdr) (regs : List (BitVec 8 × Nat)) (ns : List Nat) : Prop where
  group : h.u = true → v.ej = false
  within : v.within h.u regs = true
  slot : v.noSlot (ns.map (fun n => RegWrite.v 0 n 0)) = false
  agree : v.mismatch h = 0

/-- The lane registers of a destination. -/
def destRegs (d : BitVec 8) (wide : Bool) : List Nat := if wide then [d.toNat, d.toNat + 1] else [d.toNat]

/-- The registers that an instruction's results go to: K(D) in the group-wide form, V(l, D) of each active lane otherwise, with
the next register for a 64-bit result (R21, R35). -/
def Dest (v : View) (h : Hdr) (wide : Bool) (x : RegName) : Prop :=
  if h.u then v.groupOn h = true ∧ x = .k h.d.toNat else ∃ l ∈ v.active h, ∃ n ∈ destRegs h.d wide, x = .v l n

/-- The destination at a place holds the low bits of `x`: 32 or 64 bits of a lane, or K(D), extended by the type's signedness
(R21, R95); k63 reads as zero (R20). -/
def Holds (r : Regs) (l : Option Nat) (d : BitVec 8) (wide signed : Bool) (x : Nat) : Prop :=
  match l with
  | some l => if wide then r.v64 l d.toNat = BitVec.ofNat 64 x else r.vget l d.toNat = BitVec.ofNat 32 x
  | none => r.kget d.toNat = if d.toNat = 63 then 0 else if wide then BitVec.ofNat 64 x
      else if signed then (BitVec.ofNat 32 x).signExtend 64 else (BitVec.ofNat 32 x).zeroExtend 64

/-- The predicates that a comparison writes: q(D) in the group-wide form, p(D) of each active lane otherwise (R35). -/
def PredDest (v : View) (h : Hdr) (x : RegName) : Prop :=
  if h.u then v.groupOn h = true ∧ x = .q h.d.toNat else ∃ l ∈ v.active h, x = .p l h.d.toNat

/-- The instruction has opened a lookahead window of LA instructions that holds the writes `ws`; the windows that were open
before it come first (R38). -/
def Opens (s : State) (v : View) (h : Hdr) (r : Regs) (ws : List RegWrite) : Prop :=
  ∃ old, old.length = v.r.pend.length ∧
    r.pend = old ++ [{ left := h.la.toNat, pc := v.r.pc, iword := s.word, ecsn := 0, writes := ws, await := [], fails := [], acq := none }]

/-- `t` is `s` after an instruction of the viewed agent that ends at `pc` with the register writes `ws` and the flags `fl`. -/
def Finishes (s t : State) (v : View) (pc : Word) (ws : List RegWrite) (fl : Flags) : Prop :=
  Ends s t v pc fl (fun x => ∃ w ∈ ws, nameOf w = x) (v.r.after pc ws fl [])

/-- `t` is `s` after a long-latency instruction whose writes `ws` wait in a new window of LA instructions. -/
def FinishesLong (s t : State) (v : View) (h : Hdr) (ws : List RegWrite) (fl : Flags) : Prop :=
  ∃ r, Ends s t v (v.r.pc + 8) fl (fun _ => False) r ∧ Opens s v h r ws

end Sys2Proof
end

