-- ==== Sys2Proof/Laws/Regs.lean ====
section
/-! SUPPORT. Registers after writes, and the one law of ending an instruction: what `finishAt` can do. -/

namespace Sys2Proof.Machine

open Sys2Proof

/-! ### Register writes -/

@[simp] theorem Regs.write_pc (r : Regs) (w : RegWrite) : (r.write w).pc = r.pc := by cases w <;> simp [Regs.write]; split <;> rfl
@[simp] theorem Regs.write_mask (r : Regs) (w : RegWrite) : (r.write w).mask = r.mask := by cases w <;> simp [Regs.write]; split <;> rfl
@[simp] theorem Regs.write_rpc (r : Regs) (w : RegWrite) : (r.write w).rpc = r.rpc := by cases w <;> simp [Regs.write]; split <;> rfl
@[simp] theorem Regs.write_fpf (r : Regs) (w : RegWrite) : (r.write w).fpf = r.fpf := by cases w <;> simp [Regs.write]; split <;> rfl
@[simp] theorem Regs.write_pend (r : Regs) (w : RegWrite) : (r.write w).pend = r.pend := by cases w <;> simp [Regs.write]; split <;> rfl

@[simp] theorem Regs.writes_nil (r : Regs) : r.writes [] = r := rfl
@[simp] theorem Regs.writes_cons (r : Regs) (w : RegWrite) (ws : List RegWrite) : r.writes (w :: ws) = (r.write w).writes ws := rfl
theorem Regs.writes_append (r : Regs) (ws xs : List RegWrite) : r.writes (ws ++ xs) = (r.writes ws).writes xs := by simp [Regs.writes]

/-- A property of registers that each write keeps is kept by all of them. -/
theorem Regs.writes_keep {α : Type} (f : Regs → α) (ws : List RegWrite) (h : ∀ w ∈ ws, ∀ r, f (r.write w) = f r) (r : Regs) :
    f (r.writes ws) = f r := by
  induction ws generalizing r with
  | nil => rfl
  | cons w ws ih =>
    rw [Regs.writes_cons, ih (fun x hx => h x (List.mem_cons_of_mem _ hx)), h w (List.mem_cons_self ..)]

@[simp] theorem Regs.writes_pc (r : Regs) (ws : List RegWrite) : (r.writes ws).pc = r.pc := Regs.writes_keep (·.pc) ws (by simp) r
@[simp] theorem Regs.writes_mask (r : Regs) (ws : List RegWrite) : (r.writes ws).mask = r.mask := Regs.writes_keep (·.mask) ws (by simp) r
@[simp] theorem Regs.writes_rpc (r : Regs) (ws : List RegWrite) : (r.writes ws).rpc = r.rpc := Regs.writes_keep (·.rpc) ws (by simp) r
@[simp] theorem Regs.writes_fpf (r : Regs) (ws : List RegWrite) : (r.writes ws).fpf = r.fpf := Regs.writes_keep (·.fpf) ws (by simp) r
@[simp] theorem Regs.writes_pend (r : Regs) (ws : List RegWrite) : (r.writes ws).pend = r.pend := Regs.writes_keep (·.pend) ws (by simp) r

/-- A write to another lane register, whose number a register field holds or follows (R35), leaves a lane register alone. -/
theorem Regs.vget_write_ne (r : Regs) (w : RegWrite) (l n : Nat) (h : ∀ l' n' x, w = .v l' n' x → 256 * l' + n' ≠ 256 * l + n) :
    (r.write w).vget l n = r.vget l n := by
  cases w with
  | v l' n' x => simp only [Regs.write, Regs.vget]; exact sget_sset_ne _ _ (Ne.symm (h l' n' x rfl))
  | k n' x => simp only [Regs.write, Regs.vget]; split <;> rfl
  | p l' n' b => rfl
  | q n' b => rfl
  | gen l' x => rfl

@[simp] theorem Regs.vget_write_same (r : Regs) (l n : Nat) (x : Half) : (r.write (.v l n x)).vget l n = x := by simp [Regs.write, Regs.vget]

theorem Regs.kget_write_ne (r : Regs) (w : RegWrite) (n : Nat) (h : ∀ n' x, w = .k n' x → n' ≠ n) : (r.write w).kget n = r.kget n := by
  cases w with
  | v l' n' x => rfl
  | k n' x =>
    simp only [Regs.write]
    split
    · rfl
    · simp only [Regs.kget]; split
      · rfl
      · exact sget_sset_ne _ _ (Ne.symm (h n' x rfl))
  | p l' n' b => rfl
  | q n' b => rfl
  | gen l' x => rfl

/-- k63 reads as zero whatever is written to it (R20). -/
@[simp] theorem Regs.kget_write_same (r : Regs) (n : Nat) (x : Word) : (r.write (.k n x)).kget n = if n = 63 then 0 else x := by
  by_cases h : n = 63 <;> simp [Regs.write, Regs.kget, h]

theorem getLsbD_two_pow (w l i : Nat) : (BitVec.ofNat w (2 ^ l)).getLsbD i = (decide (i < w) && decide (l = i)) := by
  rw [BitVec.getLsbD_ofNat, Nat.testBit_two_pow]

/-- Bit i of a lane's mask. -/
theorem laneBit_getLsbD (l i : Nat) : (laneBit l).getLsbD i = (decide (i < 64) && decide (l = i)) := getLsbD_two_pow 64 l i

theorem Regs.pget_write_ne (r : Regs) (w : RegWrite) (l n : Nat) (hl : l < 64) (h : ∀ l' n' b, w = .p l' n' b → l' ≠ l ∨ n' ≠ n) :
    (r.write w).pget l n = r.pget l n := by
  cases w with
  | v l' n' x => rfl
  | k n' x => simp only [Regs.write, Regs.pget]; split <;> rfl
  | p l' n' b =>
    simp only [Regs.write, Regs.pget]
    by_cases hn : n = n'
    · subst hn
      have hll : l' ≠ l := (h l' n b rfl).resolve_right (by simp)
      rw [sget_sset_same]
      have hbit : (laneBit l').getLsbD l = false := by rw [laneBit_getLsbD]; simp [hll]
      split
      · rw [BitVec.getLsbD_or, hbit, Bool.or_false]
      · rw [BitVec.getLsbD_and, BitVec.getLsbD_not, hbit]; simp [hl]
    · rw [sget_sset_ne _ _ hn]
  | q n' b => rfl
  | gen l' x => rfl

@[simp] theorem Regs.pget_write_same (r : Regs) (l n : Nat) (b : Bool) (hl : l < 64) : (r.write (.p l n b)).pget l n = b := by
  have hbit : (laneBit l).getLsbD l = true := by rw [laneBit_getLsbD]; simp [hl]
  simp only [Regs.write, Regs.pget, sget_sset_same]
  cases b
  · rw [if_neg (by simp), BitVec.getLsbD_and, BitVec.getLsbD_not, hbit]; simp
  · rw [if_pos rfl, BitVec.getLsbD_or, hbit, Bool.or_true]

theorem Regs.qget_write_ne (r : Regs) (w : RegWrite) (n : Nat) (hn : n < 8) (h : ∀ n' b, w = .q n' b → n' ≠ n) : (r.write w).qget n = r.qget n := by
  cases w with
  | v l' n' x => rfl
  | k n' x => simp only [Regs.write, Regs.qget]; split <;> rfl
  | p l' n' b => rfl
  | q n' b =>
    have : n' ≠ n := h n' b rfl
    simp only [Regs.write, Regs.qget]
    have hbit : (BitVec.ofNat 8 (2 ^ n')).getLsbD n = false := by rw [getLsbD_two_pow]; simp [this]
    split
    · rw [BitVec.getLsbD_or, hbit, Bool.or_false]
    · rw [BitVec.getLsbD_and, BitVec.getLsbD_not, hbit]; simp [hn]
  | gen l' x => rfl

@[simp] theorem Regs.qget_write_same (r : Regs) (n : Nat) (b : Bool) (hn : n < 8) : (r.write (.q n b)).qget n = b := by
  have hbit : (BitVec.ofNat 8 (2 ^ n)).getLsbD n = true := by rw [getLsbD_two_pow]; simp [hn]
  simp only [Regs.write, Regs.qget]
  cases b
  · rw [if_neg (by simp), BitVec.getLsbD_and, BitVec.getLsbD_not, hbit]; simp
  · rw [if_pos rfl, BitVec.getLsbD_or, hbit, Bool.or_true]

theorem Regs.gen_write_ne (r : Regs) (w : RegWrite) (l : Nat) (h : ∀ l' x, w = .gen l' x → l' ≠ l) : sget (r.write w).gen l = sget r.gen l := by
  cases w with
  | v l' n' x => rfl
  | k n' x => simp only [Regs.write]; split <;> rfl
  | p l' n' b => rfl
  | q n' b => rfl
  | gen l' x => exact sget_sset_ne _ _ (Ne.symm (h l' x rfl))

/-- Writes leave every register alone that none of them goes to, where lane register numbers are below 256 (R20). -/
theorem Regs.writes_kept (r : Regs) (ws : List RegWrite) (hw : ∀ w ∈ ws, ∀ l n x, w = .v l n x → n < 256) :
    RegsKept r (r.writes ws) (fun x => ∃ w ∈ ws, nameOf w = x) where
  v l n _ hn hd := Regs.writes_keep (fun r => r.vget l n) ws (fun w hmem r => Regs.vget_write_ne r w l n (by
    intro l' n' x hx heq
    have hn' := hw w hmem l' n' x hx
    exact hd ⟨w, hmem, by subst hx; simp only [nameOf]; rw [show l' = l by omega, show n' = n by omega]⟩)) r
  k n hd := Regs.writes_keep (fun r => r.kget n) ws (fun w hmem r => Regs.kget_write_ne r w n (by
    intro n' x hx heq; exact hd ⟨w, hmem, by subst hx heq; rfl⟩)) r
  p l n hl hd := Regs.writes_keep (fun r => r.pget l n) ws (fun w hmem r => Regs.pget_write_ne r w l n hl (by
    intro l' n' b hx
    by_contra hc
    push Not at hc
    obtain ⟨rfl, rfl⟩ := hc
    exact hd ⟨w, hmem, by subst hx; rfl⟩)) r
  q n hn hd := Regs.writes_keep (fun r => r.qget n) ws (fun w hmem r => Regs.qget_write_ne r w n hn (by
    intro n' x hx heq; exact hd ⟨w, hmem, by subst hx heq; rfl⟩)) r
  gen l hd := Regs.writes_keep (fun r => sget r.gen l) ws (fun w hmem r => Regs.gen_write_ne r w l (by
    intro l' x hx heq; exact hd ⟨w, hmem, by subst hx heq; rfl⟩)) r
  mask := by simp
  rpc := by simp

/-! ### The end of an instruction -/

@[simp] theorem Regs.after_pc (r : Regs) (pc : Word) (ws : List RegWrite) (fl : Flags) (win : List Pend) : (r.after pc ws fl win).pc = pc := rfl
@[simp] theorem Regs.after_fpf (r : Regs) (pc : Word) (ws : List RegWrite) (fl : Flags) (win : List Pend) :
    (r.after pc ws fl win).fpf = r.fpf ||| fl := rfl
@[simp] theorem Regs.after_mask (r : Regs) (pc : Word) (ws : List RegWrite) (fl : Flags) (win : List Pend) :
    (r.after pc ws fl win).mask = r.mask := by simp [Regs.after]
@[simp] theorem Regs.after_rpc (r : Regs) (pc : Word) (ws : List RegWrite) (fl : Flags) (win : List Pend) :
    (r.after pc ws fl win).rpc = r.rpc := by simp [Regs.after]
@[simp] theorem Regs.after_pend (r : Regs) (pc : Word) (ws : List RegWrite) (fl : Flags) (win : List Pend) :
    (r.after pc ws fl win).pend = cancelWrites (tickPend r.pend) (ws ++ win.flatMap (fun (p : Pend) => p.writes)) ++ win := by simp [Regs.after]

/-- Windows play no part in what a register reads. -/
theorem Regs.writes_with_pend (r : Regs) (ws : List RegWrite) (p : List Pend) :
    ({ r with pend := p } : Regs).writes ws = { r.writes ws with pend := p } := by
  induction ws generalizing r with
  | nil => rfl
  | cons w ws ih =>
    rw [Regs.writes_cons, Regs.writes_cons]
    have : ({ r with pend := p } : Regs).write w = { r.write w with pend := p } := by
      cases w <;> simp [Regs.write]; split <;> rfl
    rw [this, ih]

theorem Regs.after_eq (r : Regs) (pc : Word) (ws : List RegWrite) (fl : Flags) (win : List Pend) :
    r.after pc ws fl win = { r.writes ws with pc := pc, fpf := r.fpf ||| fl, pend := (r.after pc ws fl win).pend } := by
  rw [Regs.after_pend]
  simp [Regs.after, Regs.writes_with_pend, fpfRaise]

@[simp] theorem Regs.after_vget (r : Regs) (pc : Word) (ws : List RegWrite) (fl : Flags) (win : List Pend) (l n : Nat) :
    (r.after pc ws fl win).vget l n = (r.writes ws).vget l n := by rw [Regs.after_eq]; rfl
@[simp] theorem Regs.after_kget (r : Regs) (pc : Word) (ws : List RegWrite) (fl : Flags) (win : List Pend) (n : Nat) :
    (r.after pc ws fl win).kget n = (r.writes ws).kget n := by rw [Regs.after_eq]; rfl
@[simp] theorem Regs.after_pget (r : Regs) (pc : Word) (ws : List RegWrite) (fl : Flags) (win : List Pend) (l n : Nat) :
    (r.after pc ws fl win).pget l n = (r.writes ws).pget l n := by rw [Regs.after_eq]; rfl
@[simp] theorem Regs.after_qget (r : Regs) (pc : Word) (ws : List RegWrite) (fl : Flags) (win : List Pend) (n : Nat) :
    (r.after pc ws fl win).qget n = (r.writes ws).qget n := by rw [Regs.after_eq]; rfl
@[simp] theorem Regs.after_gen (r : Regs) (pc : Word) (ws : List RegWrite) (fl : Flags) (win : List Pend) :
    (r.after pc ws fl win).gen = (r.writes ws).gen := by rw [Regs.after_eq]

theorem Regs.after_kept (r : Regs) (pc : Word) (ws : List RegWrite) (fl : Flags) (win : List Pend)
    (hw : ∀ w ∈ ws, ∀ l n x, w = .v l n x → n < 256) : RegsKept r (r.after pc ws fl win) (fun x => ∃ w ∈ ws, nameOf w = x) := by
  have h := Regs.writes_kept r ws hw
  exact { v := by simpa using h.v, k := by simpa using h.k, p := by simpa using h.p, q := by simpa using h.q, gen := by simpa using h.gen,
          mask := by simp, rpc := by simp }

/-- The view of an agent after its group has been changed by `f`, for the group itself. -/
theorem viewOf_mapGroup_group {s : State} {ag : AgentRef} {v : View} (h : viewOf s ag = some v) (hl : ag.lane = none) (f : Group → Group) :
    ∃ v', viewOf (s.mapGroup ag.blk ag.grp f) ag = some v' ∧ v'.r = (f v.g).r ∧ v'.g = f v.g := by
  obtain ⟨-, hb, hg, -, -⟩ := viewOf_some h
  rw [State.mapGroup_of hb hg]
  simp [viewOf, hl]

theorem find_map_lane (ts : List Thread) (l : Nat) (f : Thread → Thread) (hf : ∀ t, (f t).lane = t.lane) (t : Thread)
    (h : ts.find? (fun t => t.lane == l) = some t) :
    (ts.map (fun t => if t.lane = l then f t else t)).find? (fun t => t.lane == l) = some (f t) := by
  induction ts with
  | nil => simp at h
  | cons a ts ih =>
    by_cases ha : a.lane = l
    · simp only [List.find?_cons, ha, beq_self_eq_true, Option.some.injEq] at h
      subst h; simp [ha, hf]
    · simp only [List.find?_cons, beq_eq_false_iff_ne.2 ha] at h
      simp [ha, beq_eq_false_iff_ne.2 ha, ih h]

theorem find_map_lane_ne (ts : List Thread) (l m : Nat) (f : Thread → Thread) (hf : ∀ t, (f t).lane = t.lane) (hm : m ≠ l) :
    (ts.map (fun t => if t.lane = l then f t else t)).find? (fun t => t.lane == m) = ts.find? (fun t => t.lane == m) := by
  induction ts with
  | nil => rfl
  | cons a ts ih =>
    by_cases ha : a.lane = l
    · have h1 : (a.lane == m) = false := beq_eq_false_iff_ne.2 (by omega)
      have h2 : ((f a).lane == m) = false := by rw [hf]; exact h1
      rw [List.map_cons, if_pos ha, List.find?_cons, h2, List.find?_cons, h1]
      exact ih
    · by_cases hb : a.lane = m
      · simp [hb, hm]
      · simp [ha, beq_eq_false_iff_ne.2 hb, ih]

/-- Changing an agent's group only in registers, issue record and its own thread leaves the rest. -/
theorem elsewhere_mapGroup {s : State} {ag : AgentRef} {v : View} (h : viewOf s ag = some v) (f : Group → Group)
    (hf : { f v.g with r := v.g.r, run := v.g.run, fair := v.g.fair, defer := v.g.defer, hang := v.g.hang, waitAt := v.g.waitAt, wake := v.g.wake,
                       want := v.g.want, tbMet := v.g.tbMet, barsAt := v.g.barsAt, spent := v.g.spent, threads := v.g.threads } = v.g)
    (hb' : (f v.g).barsAt = v.g.barsAt ∨ (f v.g).barsAt = v.g.barsAt.filter (fun e => e.2.2 != v.g.r.mask))
    (ht : ∀ l, ag.lane ≠ some l → (f v.g).thread? l = v.g.thread? l) (hr : ag.lane ≠ none → (f v.g).r = v.g.r) :
    Elsewhere s (s.mapGroup ag.blk ag.grp f) ag := by
  obtain ⟨-, hb, hg, -, -⟩ := viewOf_some h
  refine ⟨?_, fun b hne => State.block_mapGroup_ne s f hne, ?_, fun g hne => State.group_mapGroup_ne s f (.inr hne), ?_⟩
  · rw [State.mapGroup_of hb hg]; rfl
  · intro x y hx hy
    rw [State.mapGroup_of hb hg] at hy
    rw [hb] at hx
    obtain rfl := Option.some.inj hx
    simp only [State.setBlock_blocks, tget_tset_same, Option.some.injEq] at hy
    subst hy; rfl
  · intro x y hx hy
    rw [State.group_mapGroup, hx] at hy
    simp only [Option.map_some, Option.some.injEq] at hy
    simp only [State.group?, hb, Option.bind_some, hg, Option.some.injEq] at hx
    subst hx; subst hy
    exact ⟨hf, hb', ht, hr⟩

/-- THE LAW OF `finishAt`: with a slot for every write, the agent's registers are those after the writes, and nothing else changes. -/
theorem finishAt_ends {s : State} {v : View} (h : viewOf s v.ag = some v) {pc : Word} {ws : List RegWrite} {fl : Flags} {win : List Pend}
    (hs : v.noSlot (ws ++ win.flatMap (fun p => p.writes)) = false) (hw : ∀ w ∈ ws, ∀ l n x, w = .v l n x → n < 256) :
    Ends s (finishAt s v pc ws fl win) v pc fl (fun x => ∃ w ∈ ws, nameOf w = x) (v.r.after pc ws fl win) := by
  obtain ⟨-, hb, hg, -, hl⟩ := viewOf_some h
  have hk := Regs.after_kept v.r pc ws fl win hw
  cases hlane : v.ag.lane with
  | none =>
    simp only [hlane] at hl
    obtain ⟨-, hr, -⟩ := hl
    have hfin : finishAt s v pc ws fl win = s.mapGroup v.ag.blk v.ag.grp (fun g => { (g.retired v.r.pc) with r := g.r.after pc ws fl win }) := by
      simp [finishAt, hs, hlane]
    rw [hfin]
    refine ⟨?_, rfl, by simp, hk, elsewhere_mapGroup h _ (by simp [Group.retired]) (.inr (by simp [Group.retired])) (by intro l _; rfl) (by simp [hlane])⟩
    obtain ⟨v', hv', hr', -⟩ := viewOf_mapGroup_group h hlane (fun g => { (g.retired v.r.pc) with r := g.r.after pc ws fl win })
    rw [regsOf, hv', Option.map_some, hr', hr]
  | some l =>
    simp only [hlane] at hl
    obtain ⟨t, ht, -, hr, -⟩ := hl
    let u : Thread → Thread := fun t =>
      { t with r := t.r.after pc ws fl win, run := .ready, hang := 0, slots := t.slotsAfter (ws ++ win.flatMap (fun p => p.writes)) }
    have hfin : finishAt s v pc ws fl win =
        s.mapGroup v.ag.blk v.ag.grp (fun g => { g with threads := g.threads.map (fun t => if t.lane = l then u t else t) }) := by
      simp [finishAt, hs, hlane, u]
    have hu : ∀ t, (u t).lane = t.lane := fun _ => rfl
    rw [hfin]
    refine ⟨?_, rfl, by simp, hk, elsewhere_mapGroup h _ (by simp) (.inl rfl) ?_ (by simp)⟩
    · rw [State.mapGroup_of hb hg]
      have hfind := find_map_lane v.g.threads l u hu t ht
      simp [regsOf, viewOf, hlane, Group.thread?, hfind, hr, u]
    · intro m hm
      simp only [hlane, ne_eq, Option.some.injEq] at hm
      exact find_map_lane_ne v.g.threads l m u hu (Ne.symm hm)

end Sys2Proof.Machine
end

