-- ==== Sys2Proof/Laws/Compute.lean ====
section
/-! SUPPORT. The law of instructions that read registers and write registers: where `compute` completes, and what its destinations
then hold. -/

namespace Sys2Proof.Machine

open Sys2Proof

/-- Only the lane registers that writes name decide whether a lane has a slot for them. -/
theorem noSlot_congr (v : View) {ws xs : List RegWrite} (h : laneRegs ws = laneRegs xs) : v.noSlot ws = v.noSlot xs := by
  unfold View.noSlot Thread.slotsAfter; rw [h]

theorem laneRegs_append (ws xs : List RegWrite) : laneRegs (ws ++ xs) = laneRegs ws ++ laneRegs xs := List.filterMap_append ..

theorem noSlot_group (v : View) (ws : List RegWrite) (h : v.th = none) : v.noSlot ws = false := by simp [View.noSlot, h]

theorem noSlot_nil (v : View) : v.noSlot [] = false := by
  unfold View.noSlot
  cases v.th with
  | none => rfl
  | some t => simp [Thread.slotsAfter, laneRegs]

theorem mem_lanesOf {m : Mask} {l : Nat} : l ∈ lanesOf m ↔ l < 64 ∧ m.getLsbD l = true := by simp [lanesOf]

theorem lanesOf_nodup (m : Mask) : (lanesOf m).Nodup := List.nodup_range.filter _

theorem active_nodup (v : View) (h : Hdr) : (v.active h).Nodup := by
  unfold View.active
  split
  · exact lanesOf_nodup _
  · exact (lanesOf_nodup _).filter _

theorem active_sub {v : View} {h : Hdr} {l : Nat} (hl : l ∈ v.active h) : l ∈ lanesOf v.mask := by
  unfold View.active at hl
  split at hl
  · exact hl
  · exact (List.mem_filter.1 hl).1

theorem active_lt {v : View} {h : Hdr} {l : Nat} (hl : l ∈ v.active h) : l < 64 := (mem_lanesOf.1 (active_sub hl)).1

/-- An ejected lane is the only lane of its path. -/
theorem active_thread {s : State} {v : View} (hv : viewOf s v.ag = some v) {h : Hdr} (ht : v.th ≠ none) :
    v.active h = [] ∨ ∃ l, v.active h = [l] := by
  obtain ⟨-, -, -, -, hl⟩ := viewOf_some hv
  cases hlane : v.ag.lane with
  | none => simp only [hlane] at hl; exact absurd hl.1 ht
  | some l =>
    simp only [hlane] at hl
    obtain ⟨t, -, -, -, hm⟩ := hl
    have hsub : ∀ x ∈ v.active h, x = l := by
      intro x hx
      have := (mem_lanesOf.1 (active_sub hx)).2
      rw [hm, laneBit_getLsbD] at this
      simp only [Bool.and_eq_true, decide_eq_true_eq] at this
      exact this.2.symm
    have hnd := active_nodup v h
    match hx : v.active h with
    | [] => exact .inl rfl
    | [a] => exact .inr ⟨a, rfl⟩
    | a :: b :: rest =>
      rw [hx] at hsub hnd
      have h1 := hsub a (by simp)
      have h2 := hsub b (by simp)
      subst h1; subst h2
      simp at hnd

theorem ej_iff (v : View) : v.ej = false ↔ v.th = none := by unfold View.ej; cases v.th <;> simp

/-- The writes of a computation at its places. -/
def placeWrites (v : View) (h : Hdr) (f : Option Nat → List RegWrite × Flags) : List RegWrite := ((v.places h).map f).flatMap Prod.fst

/-- WHERE `compute` COMPLETES, for results written at once. -/
theorem compute_next {s : State} {v : View} {h : Hdr} {size : Nat} {regs : List (BitVec 8 × Nat)} {f : View → Option Nat → List RegWrite × Flags}
    (hv : view? s = some v) (hg : h.u = true → v.ej = false) (hw : v.within h.u regs = true) (hm : v.mismatch h = 0) :
    compute s h size false regs f =
      .next (finish s v size (((v.places h).map (f v)).flatMap Prod.fst) (flagsAll (((v.places h).map (f v)).map Prod.snd))) := by
  have hcond : (v.ej && h.u) = false := by
    cases hu : h.u
    · simp
    · simp [hg hu]
  simp [compute, computeBy, withView, hv, hcond, hw, hm]

/-- WHERE `compute` COMPLETES, for results that a window holds back. -/
theorem compute_next_long {s : State} {v : View} {h : Hdr} {size : Nat} {regs : List (BitVec 8 × Nat)} {f : View → Option Nat → List RegWrite × Flags}
    (hv : view? s = some v) (hg : h.u = true → v.ej = false) (hw : v.within h.u regs = true) (hm : v.mismatch h = 0) :
    compute s h size true regs f =
      .next (finishLong s v h (((v.places h).map (f v)).flatMap Prod.fst) (flagsAll (((v.places h).map (f v)).map Prod.snd))) := by
  have hcond : (v.ej && h.u) = false := by
    cases hu : h.u
    · simp
    · simp [hg hu]
  simp [compute, computeBy, withView, hv, hcond, hw, hm]

/-! ### Destinations -/

theorem laneRegs_writeReg (l : Nat) (d : BitVec 8) (wide signed : Bool) (x : Nat) : laneRegs (writeReg (some l) d wide signed x) = destRegs d wide := by
  unfold writeReg destRegs
  cases wide <;> rfl

theorem laneRegs_probe (ns : List Nat) : laneRegs (ns.map (fun n => RegWrite.v 0 n 0)) = ns := by
  induction ns with
  | nil => rfl
  | cons n ns ih => simp only [List.map_cons, laneRegs, List.filterMap_cons]; exact congrArg (n :: ·) ih

/-- Results written to a destination at every place find their slots. -/
theorem noSlot_results {s : State} {v : View} (hv : viewOf s v.ag = some v) {h : Hdr} {d : BitVec 8} {wide signed : Bool} {x : Option Nat → Nat}
    (hg : h.u = true → v.ej = false) (hs : v.noSlot ((destRegs d wide).map (fun n => RegWrite.v 0 n 0)) = false) :
    v.noSlot ((v.places h).flatMap (fun l => writeReg l d wide signed (x l))) = false := by
  cases hth : v.th with
  | none => exact noSlot_group v _ hth
  | some t =>
    have hu : h.u = false := by
      by_contra hc
      have := (ej_iff v).1 (hg (by simpa using hc))
      rw [hth] at this; cases this
    unfold View.places
    simp only [hu, Bool.false_eq_true, if_false]
    rcases active_thread hv (h := h) (by simp [hth]) with ha | ⟨l, ha⟩
    · simp [ha, noSlot_nil]
    · rw [ha, noSlot_congr v (xs := (destRegs d wide).map (fun n => RegWrite.v 0 n 0))]
      · exact hs
      · rw [laneRegs_probe]; simp [laneRegs_writeReg]

/-- The registers that results go to. -/
theorem names_results (v : View) (h : Hdr) (wide signed : Bool) (x : Option Nat → Nat) (n : RegName) :
    (∃ w ∈ (v.places h).flatMap (fun l => writeReg l h.d wide signed (x l)), nameOf w = n) ↔ Dest v h wide n := by
  unfold View.places Dest
  cases hu : h.u
  · simp only [Bool.false_eq_true, if_false, List.mem_flatMap, List.mem_map]
    constructor
    · rintro ⟨w, ⟨_, ⟨l, hl, rfl⟩, hw⟩, rfl⟩
      refine ⟨l, hl, ?_⟩
      unfold writeReg at hw
      cases wide
      · simp only [Bool.false_eq_true, if_false, List.mem_singleton] at hw
        subst hw; exact ⟨h.d.toNat, by simp [destRegs], rfl⟩
      · simp only [if_true, List.mem_cons, List.not_mem_nil, or_false] at hw
        rcases hw with rfl | rfl
        · exact ⟨h.d.toNat, by simp [destRegs], rfl⟩
        · exact ⟨h.d.toNat + 1, by simp [destRegs], rfl⟩
    · rintro ⟨l, hl, n', hn, rfl⟩
      cases wide
      · simp only [destRegs, Bool.false_eq_true, if_false, List.mem_singleton] at hn
        subst hn
        exact ⟨_, ⟨some l, ⟨l, hl, rfl⟩, List.mem_singleton.2 rfl⟩, rfl⟩
      · simp only [destRegs, if_true, List.mem_cons, List.not_mem_nil, or_false] at hn
        rcases hn with rfl | rfl
        · exact ⟨_, ⟨some l, ⟨l, hl, rfl⟩, List.mem_cons_self ..⟩, rfl⟩
        · exact ⟨_, ⟨some l, ⟨l, hl, rfl⟩, List.mem_cons_of_mem _ (List.mem_cons_self ..)⟩, rfl⟩
  · simp only [if_true]
    cases hgo : v.groupOn h
    · simp
    · simp [writeReg, nameOf, eq_comm]

theorem kept_congr {r r' : Regs} {d e : RegName → Prop} (h : ∀ x, d x ↔ e x) (hk : RegsKept r r' d) : RegsKept r r' e := by
  have : d = e := funext fun x => propext (h x)
  rwa [← this]

theorem ends_congr {s t : State} {v : View} {pc : Word} {fl : Flags} {d e : RegName → Prop} {r : Regs} (h : ∀ x, d x ↔ e x)
    (hk : Ends s t v pc fl d r) : Ends s t v pc fl e r := by
  have : d = e := funext fun x => propext (h x)
  rwa [← this]

/-- Lane register numbers of results lie below 256 when a 64-bit destination is even (R35). -/
theorem results_lt {v : View} {h : Hdr} {wide signed : Bool} {x : Option Nat → Nat} (hd : wide = true → h.d.toNat % 2 = 0) :
    ∀ w ∈ (v.places h).flatMap (fun l => writeReg l h.d wide signed (x l)), ∀ l n y, w = .v l n y → n < 256 := by
  intro w hw l n y hwy
  have : ∃ w ∈ (v.places h).flatMap (fun l => writeReg l h.d wide signed (x l)), nameOf w = .v l n := ⟨w, hw, by rw [hwy]; rfl⟩
  rw [names_results] at this
  unfold Dest at this
  split at this
  · obtain ⟨-, h2⟩ := this; cases h2
  · obtain ⟨l', -, n', hn, hx⟩ := this
    cases hx
    have hlt := h.d.isLt
    unfold destRegs at hn
    split at hn
    · rename_i hwide
      have := hd hwide
      simp only [List.mem_cons, List.not_mem_nil, or_false] at hn
      omega
    · simp only [List.mem_singleton] at hn; omega

theorem vget_flatMap_out (r : Regs) (ls : List Nat) (d : BitVec 8) (wide signed : Bool) (x : Option Nat → Nat) (l n : Nat) (hl : l ∉ ls)
    (hn : n < 256) (hd : wide = true → d.toNat % 2 = 0) :
    (r.writes ((ls.map some).flatMap (fun l => writeReg l d wide signed (x l)))).vget l n = r.vget l n := by
  have hlt := d.isLt
  refine Regs.writes_keep (fun r => r.vget l n) _ (fun w hw r => Regs.vget_write_ne r w l n ?_) r
  intro l' n' y hwy
  simp only [List.mem_flatMap, List.mem_map] at hw
  obtain ⟨_, ⟨l2, hl2, rfl⟩, hw⟩ := hw
  have hne : l2 ≠ l := fun hc => hl (hc ▸ hl2)
  subst hwy
  have : l' = l2 ∧ n' < 256 := by
    unfold writeReg at hw
    cases wide
    · simp only [Bool.false_eq_true, if_false, List.mem_singleton, RegWrite.v.injEq] at hw
      omega
    · have := hd rfl
      simp only [if_true, List.mem_cons, RegWrite.v.injEq, List.not_mem_nil, or_false] at hw
      omega
  omega

theorem append_halves (x : Nat) : BitVec.ofNat 32 (x / 2 ^ 32) ++ BitVec.ofNat 32 x = BitVec.ofNat 64 x := by
  apply BitVec.eq_of_toNat_eq
  rw [BitVec.toNat_append]
  simp only [BitVec.toNat_ofNat]
  rw [← Nat.shiftLeft_add_eq_or_of_lt (Nat.mod_lt _ (by decide)), Nat.shiftLeft_eq]
  omega

theorem sext64_eq (x : Nat) : sext64 32 x = (BitVec.ofNat 32 x).signExtend 64 := by
  apply BitVec.eq_of_toInt_eq
  rw [BitVec.toInt_signExtend_of_le (by decide)]
  unfold sext64 wrapTo signedOf
  rw [BitVec.toInt_ofNat', BitVec.toInt_ofNat']
  simp only [Int.bmod]
  norm_num
  split <;> split <;> split <;> omega

/-- WHAT DESTINATIONS HOLD after the results have been written. -/
theorem holds_results (r : Regs) (v : View) (h : Hdr) (wide signed : Bool) (x : Option Nat → Nat) (hd : wide = true → h.d.toNat % 2 = 0)
    (l : Option Nat) (hl : l ∈ v.places h) :
    Holds (r.writes ((v.places h).flatMap (fun l => writeReg l h.d wide signed (x l)))) l h.d wide signed (x l) := by
  have hlt := h.d.isLt
  unfold View.places at hl ⊢
  cases hu : h.u
  · simp only [hu, Bool.false_eq_true, if_false] at hl ⊢
    obtain ⟨l, hm, rfl⟩ := List.mem_map.1 hl
    have hnd := active_nodup v h
    obtain ⟨as, bs, hab⟩ := List.append_of_mem hm
    rw [hab] at hnd ⊢
    have hnotin : l ∉ bs := by
      intro hc
      have := (List.nodup_append.1 hnd).2.1
      simp [hc] at this
    rw [List.map_append, List.flatMap_append, Regs.writes_append, List.map_cons, List.flatMap_cons, Regs.writes_append]
    unfold Holds
    cases wide
    · simp only [Bool.false_eq_true, if_false]
      rw [vget_flatMap_out _ bs h.d false signed x l _ hnotin hlt (by simp)]
      simp [writeReg]
    · have hev := hd rfl
      simp only [if_true, Regs.v64]
      rw [vget_flatMap_out _ bs h.d true signed x l _ hnotin (by omega) hd, vget_flatMap_out _ bs h.d true signed x l _ hnotin hlt hd]
      simp only [writeReg, if_true, Regs.writes_cons, Regs.writes_nil, Regs.vget_write_same]
      rw [Regs.vget_write_ne _ _ _ _ (by intro l' n' y hy; cases hy; omega), Regs.vget_write_same]
      exact append_halves _
  · simp only [hu, if_true] at hl ⊢
    cases hgo : v.groupOn h
    · simp [hgo] at hl
    · simp only [hgo, if_true, List.mem_singleton] at hl
      subst hl
      simp only [if_true, List.flatMap_cons, List.flatMap_nil, List.append_nil, writeReg, Regs.writes_cons, Regs.writes_nil, Regs.kget_write_same,
        Holds]
      split
      · rfl
      · cases wide <;> cases signed <;> simp [sext64_eq]
        apply BitVec.eq_of_toNat_eq
        simp

/-- THE LAW OF RESULTS: an instruction that writes a result to its destination at every place ends with the destinations holding
the results and every other register as it was. -/
theorem compute_results {s : State} {v : View} {h : Hdr} {size : Nat} {regs : List (BitVec 8 × Nat)} {wide signed : Bool}
    {f : View → Option Nat → Nat × Flags} (hv : view? s = some v) (hd : wide = true → h.d.toNat % 2 = 0)
    (hc : Computes v h regs (destRegs h.d wide)) :
    ∃ t r, compute s h size false regs (fun v l => (writeReg l h.d wide signed (f v l).1, (f v l).2)) = .next t ∧
      Ends s t v (v.r.pc + BitVec.ofNat 64 size) (flagsAll ((v.places h).map (fun l => (f v l).2))) (Dest v h wide) r ∧
      ∀ l ∈ v.places h, Holds r l h.d wide signed (f v l).1 := by
  have hvo := view_some hv
  rw [compute_next hv hc.group hc.within hc.agree]
  have hws : (List.map ((fun v l => (writeReg l h.d wide signed (f v l).1, (f v l).2)) v) (v.places h)).flatMap Prod.fst =
      (v.places h).flatMap (fun l => writeReg l h.d wide signed (f v l).1) := by
    rw [List.flatMap_map]
  have hfl : (List.map ((fun v l => (writeReg l h.d wide signed (f v l).1, (f v l).2)) v) (v.places h)).map Prod.snd =
      (v.places h).map (fun l => (f v l).2) := by
    rw [List.map_map]; rfl
  rw [hws, hfl]
  have hslot := noSlot_results hvo (h := h) (signed := signed) (x := fun l => (f v l).1) hc.group hc.slot
  refine ⟨_, _, rfl, ends_congr (names_results v h wide signed (fun l => (f v l).1)) (finishAt_ends hvo (by simpa using hslot) (results_lt hd)), ?_⟩
  intro l hl
  have := holds_results v.r v h wide signed (fun l => (f v l).1) hd l hl
  unfold Holds at this ⊢
  cases l with
  | some l => simpa [Regs.v64] using this
  | none => simpa using this

end Sys2Proof.Machine
end

