-- ==== Sys2Proof/Certificates/Slice0/Obligations.lean ====
section
/-! DEFINITION. The statements of this model, one `Obligations` definition each, and the terms they are written in. A statement of several parts names each part
in `Sys2Proof.Claims`. -/

/-! ### Integer instructions (spec/04_arithmetic_instructions.md R100 to R107) -/

namespace Sys2Proof.Claims

open Sys2Proof.Machine

/-- The integer that a `w`-bit element stands for, by the type's signedness (R101). -/
def value (ty : IntTy) (x : Nat) : Int := if ty.signed then (BitVec.ofNat ty.width x).toInt else ((BitVec.ofNat ty.width x).toNat : Int)

/-- The range of a type. -/
def lowest (ty : IntTy) : Int := if ty.signed then -2 ^ (ty.width - 1) else 0
/-- Its other end. -/
def highest (ty : IntTy) : Int := if ty.signed then 2 ^ (ty.width - 1) - 1 else 2 ^ ty.width - 1

/-- An exact integer narrowed to the type: clamped under `.sat`, modulo 2^w otherwise (R101). -/
def fit (ty : IntTy) (sat : Bool) (z : Int) : Nat := (BitVec.ofInt ty.width (if sat then max (lowest ty) (min (highest ty) z) else z)).toNat

/-- The elements of the first source at a place, and those of the second source of a two-source form (R43, R96). -/
def srcA (v : View) (h : Hdr) (m : IntMod) (l : Option Nat) : List Nat := intElems m.ty m.swa (readReg v.r l h.a m.ty.wide)
/-- The second source of a three-source form. -/
def srcB3 (v : View) (h : Hdr) (m : IntMod) (l : Option Nat) : List Nat := intElems m.ty m.swb (secondOf3 v.r l h m.bk m.ty.wide)
/-- The third source. -/
def srcC (v : View) (h : Hdr) (m : IntMod) (l : Option Nat) : List Nat := intElems m.ty 0 (third v.r l h m.ck m.ty.wide (intImm m.ty m.ck h.c))
/-- The old destination. -/
def oldD (v : View) (h : Hdr) (m : IntMod) (l : Option Nat) : List Nat := intElems m.ty 0 (readReg v.r l h.d m.ty.wide)

/-- `w`-bit words of elements. -/
def word (m : IntMod) (x : Nat) : BitVec m.ty.width := BitVec.ofNat m.ty.width x

/-- The two-source integer instructions and what each makes of an element of a and one of b. -/
def twoSource : List ((Hdr → IntMod → Instr) × (IntMod → Nat → Nat → Nat)) :=
  [(Instr.add, fun m a b => fit m.ty m.sat (value m.ty a + value m.ty b)),
   (Instr.sub, fun m a b => fit m.ty m.sat (value m.ty a - value m.ty b)),
   (Instr.mul, fun m a b => fit m.ty m.sat (value m.ty a * value m.ty b)),
   (Instr.mulh, fun m a b => fit m.ty false (value m.ty a * value m.ty b / 2 ^ m.ty.width)),
   (Instr.min, fun m a b => fit m.ty false (min (value m.ty a) (value m.ty b))),
   (Instr.max, fun m a b => fit m.ty false (max (value m.ty a) (value m.ty b))),
   (Instr.and, fun m a b => (word m a &&& word m b).toNat),
   (Instr.or, fun m a b => (word m a ||| word m b).toNat),
   (Instr.xor, fun m a b => (word m a ^^^ word m b).toNat),
   (Instr.shl, fun m a b => (word m a <<< (b % m.ty.width)).toNat),
   (Instr.shr, fun m a b => (word m a >>> (b % m.ty.width)).toNat),
   (Instr.sar, fun m a b => ((word m a).sshiftRight (b % m.ty.width)).toNat),
   (fun h m => Instr.iset h m .eq, fun m a b => if value m.ty a = value m.ty b then 1 else 0),
   (fun h m => Instr.iset h m .ne, fun m a b => if value m.ty a ≠ value m.ty b then 1 else 0),
   (fun h m => Instr.iset h m .lt, fun m a b => if value m.ty a < value m.ty b then 1 else 0),
   (fun h m => Instr.iset h m .le, fun m a b => if value m.ty a ≤ value m.ty b then 1 else 0),
   (fun h m => Instr.iset h m .gt, fun m a b => if value m.ty a > value m.ty b then 1 else 0),
   (fun h m => Instr.iset h m .ge, fun m a b => if value m.ty a ≥ value m.ty b then 1 else 0)]

/-- The one-source integer instructions. -/
def oneSource : List ((Hdr → IntMod → Instr) × (IntMod → Nat → Nat)) :=
  [(Instr.abs, fun m a => fit m.ty m.sat |value m.ty a|),
   (Instr.popc, fun m a => ((List.range m.ty.width).map (fun i => ((word m a).getLsbD i).toNat)).sum),
   (Instr.clz, fun m a => ((List.range m.ty.width).reverse.takeWhile (fun i => !(word m a).getLsbD i)).length),
   (Instr.ctz, fun m a => ((List.range m.ty.width).takeWhile (fun i => !(word m a).getLsbD i)).length),
   (Instr.brev, fun m a => (word m a).reverse.toNat),
   (Instr.mov, fun _ a => a)]

/-- The three-source integer instructions: elements of a, b, c and of the old destination. -/
def threeSource : List ((Hdr → IntMod → Instr) × (IntMod → Nat → Nat → Nat → Nat → Nat)) :=
  [(Instr.mad, fun m a b c _ => fit m.ty m.sat (value m.ty a * value m.ty b + value m.ty c)),
   (Instr.fsh, fun m a b c _ => ((word m b ++ word m a) >>> (c % m.ty.width)).toNat % 2 ^ m.ty.width),
   (Instr.bfx, fun m a b c _ =>
      let p := b % 256
      let n := min (c % 256) (m.ty.width - p)
      if n = 0 then 0 else
        let x := (word m a).extractLsb' p n
        (if m.ty.signed then x.signExtend m.ty.width else x.zeroExtend m.ty.width).toNat),
   (Instr.bfi, fun m a b c d =>
      let p := b % 256
      let n := min (c % 256) (m.ty.width - p)
      (BitVec.ofBoolListLE ((List.range m.ty.width).map (fun i =>
        if p ≤ i ∧ i < p + n then (word m a).getLsbD (i - p) else (word m d).getLsbD i))).toNat)]

/-- The divisions and what each makes of an element of a and one of b (R102): quotient truncated toward zero, remainder with
the sign of a; x / 0 is all ones, x mod 0 is x; the most negative value over −1 is itself, with remainder 0. -/
def divisions : List ((Hdr → IntMod → Instr) × (IntMod → Nat → Nat → Nat)) :=
  let q := fun (m : IntMod) (a b : Nat) => if value m.ty b = 0 then 2 ^ m.ty.width - 1 else fit m.ty false ((value m.ty a).tdiv (value m.ty b))
  let r := fun (m : IntMod) (a b : Nat) => if value m.ty b = 0 then a else fit m.ty false ((value m.ty a).tmod (value m.ty b))
  [(Instr.divu, q), (Instr.divs, q), (Instr.remu, r), (Instr.rems, r)]

/-- R101, R103, R105: ADD, SUB, MUL, MULH, MIN, MAX, AND, OR, XOR, SHL, SHR, SAR and ISET complete, put each element's result into the
destination of every active lane, or of the group, and change no other register, no flag and nothing else. -/
def IntegerTwoSource : Prop :=
  ∀ e ∈ twoSource, ∀ (s : State) (v : View) (h : Hdr) (m : IntMod), view? s = some v → WellFormed (e.1 h m) = true →
    Computes v h ([(h.d, span m.ty.wide), (h.a, span m.ty.wide)] ++ regs2 h m.bk m.ck m.ty.wide) (destRegs h.d m.ty.wide) →
    ∃ t r, exec (e.1 h m) s = .next t ∧ Ends s t v (v.r.pc + 8) 0 (Dest v h m.ty.wide) r ∧
      ∀ l ∈ v.places h, Holds r l h.d m.ty.wide m.ty.copiesSign (joinElems (List.zipWith (e.2 m) (srcA v h m l) (intSecond v.r l h m)))

/-- R101, R103, R107: ABS, POPC, CLZ, CTZ, BREV and MOV complete with each element's result, and change nothing else. -/
def IntegerOneSource : Prop :=
  ∀ e ∈ oneSource, ∀ (s : State) (v : View) (h : Hdr) (m : IntMod), view? s = some v → WellFormed (e.1 h m) = true →
    Computes v h [(h.d, span m.ty.wide), (h.a, span m.ty.wide)] (destRegs h.d m.ty.wide) →
    ∃ t r, exec (e.1 h m) s = .next t ∧ Ends s t v (v.r.pc + 8) 0 (Dest v h m.ty.wide) r ∧
      ∀ l ∈ v.places h, Holds r l h.d m.ty.wide m.ty.copiesSign (joinElems ((srcA v h m l).map (e.2 m)))

/-- R319: under MIRROR a lane-form instruction that the group executes checks lane l where l is active and the lane 32 away is not; the first comparison that fails raises SOFT with CODE 1 and the failing lanes before any lane
writes, and the instruction has no other effect. That a failure is an error that struck the lane before is the model's (log 14). -/
def MirrorCheck : Prop :=
  (∀ (v : View) (h : Hdr) (l : Nat), l < 64 → ((v.mismatch h).getLsbD l = true ↔
    v.pkt.flags.getLsbD 3 = true ∧ h.u = false ∧ v.ej = false ∧ v.g.strike.getLsbD l = true ∧ l ∈ v.active h ∧ (l + 32) % 64 ∉ v.active h)) ∧
  (∀ (s : State) (v : View) (h : Hdr) (m : IntMod), view? s = some v → v.r.awaiting = false → v.mismatch h ≠ 0 →
    let trap := takeTrap (s.mapGroup v.ag.blk v.ag.grp (fun g => { g with strike := 0 })) v { cause := .soft, code := 1, lanes := v.mismatch h }
    let own := [(h.d, span m.ty.wide), (h.a, span m.ty.wide)]
    (∀ e ∈ oneSource, v.within h.u own = true → exec (e.1 h m) s = .next trap) ∧
    (∀ e ∈ twoSource ++ divisions, v.within h.u (own ++ regs2 h m.bk m.ck m.ty.wide) = true → exec (e.1 h m) s = .next trap) ∧
    (∀ e ∈ threeSource, v.within h.u (own ++ regs3 h m.bk m.ck m.ty.wide) = true → exec (e.1 h m) s = .next trap))

end Sys2Proof.Claims

section

open Sys2Proof Sys2Proof.Machine Sys2Proof.Claims

/-- Integer instructions of one and two sources: results, frames and completion, and the mirror check of lane forms: each of its parts holds. -/
def Obligations.IntegerOneAndTwoSource : Prop :=
  IntegerTwoSource ∧ IntegerOneSource ∧ MirrorCheck

/-- R101, R103: MAD, FSH, BFX and BFI complete with each element's result, BFI inserting into the old destination, and change nothing
else. -/
def Obligations.IntegerThreeSource : Prop :=
  ∀ e ∈ threeSource, ∀ (s : State) (v : View) (h : Hdr) (m : IntMod), view? s = some v → WellFormed (e.1 h m) = true →
    Computes v h ([(h.d, span m.ty.wide), (h.a, span m.ty.wide)] ++ regs3 h m.bk m.ck m.ty.wide) (destRegs h.d m.ty.wide) →
    ∃ t r, exec (e.1 h m) s = .next t ∧ Ends s t v (v.r.pc + 8) 0 (Dest v h m.ty.wide) r ∧
      ∀ l ∈ v.places h, Holds r l h.d m.ty.wide m.ty.copiesSign
        (joinElems (((List.zip (srcA v h m l) (srcB3 v h m l)).zip (List.zip (srcC v h m l) (oldD v h m l))).map
          (fun x => e.2 m x.1.1 x.1.2 x.2.1 x.2.2)))

/-- R102: DIVU, DIVS, REMU and REMS complete and never trap: their results wait in a window of LA instructions, and nothing else changes. A word of these opcodes decodes only
to its own division, with an unsigned type for DIVU and REMU and a signed one for DIVS and REMS: the packed types are no such instruction. -/
def Obligations.IntegerDivision : Prop :=
  (∀ e ∈ divisions, ∀ (s : State) (v : View) (h : Hdr) (m : IntMod), view? s = some v → WellFormed (e.1 h m) = true →
    Computes v h ([(h.d, span m.ty.wide), (h.a, span m.ty.wide)] ++ regs2 h m.bk m.ck m.ty.wide) (destRegs h.d m.ty.wide) →
    ∃ t r ws, exec (e.1 h m) s = .next t ∧ Ends s t v (v.r.pc + 8) 0 (fun _ => False) r ∧ Opens s v h r ws ∧
      ∀ l ∈ v.places h, Holds (v.r.writes ws) l h.d m.ty.wide m.ty.copiesSign (joinElems (List.zipWith (e.2 m) (srcA v h m l) (intSecond v.r l h m)))) ∧
  (∀ (w x : Word) (i : Instr), ∀ e ∈ [(0x08#8, Instr.divu, [IntTy.ui32, .ui64]), (0x09#8, .divs, [.i32, .i64]), (0x0A#8, .remu, [.ui32, .ui64]), (0x0B#8, .rems, [.i32, .i64])],
    (rawOf w).op = e.1 → decodeWord w x = .ok i → ∃ m, i = e.2.1 (rawOf w).hdr m ∧ m.ty ∈ e.2.2)

/-- R104 to R107: BLUT looks each bit up, SEL selects by a predicate, CMP writes a predicate, LEA adds a shifted index and MOVI writes its
immediate; each completes and changes no other register, no flag and nothing else. -/
def Obligations.IntegerLookupSelectMove : Prop :=
  (∀ (s : State) (v : View) (h : Hdr) (tt : BitVec 8), view? s = some v → WellFormed (.blut h tt) = true →
    Computes v h [(h.d, 1), (h.a, 1), (h.b, 1), (h.c, 1)] (destRegs h.d false) →
    let bit := fun (n : BitVec 8) (l : Option Nat) (i : Nat) => ((readReg v.r l n h.u).testBit i).toNat
    ∃ t r, exec (.blut h tt) s = .next t ∧ Ends s t v (v.r.pc + 8) 0 (Dest v h false) r ∧
      ∀ l ∈ v.places h, (l = none → h.d.toNat ≠ 63) → ∀ i, i < (if h.u then 64 else 32) →
        (readReg r l h.d h.u).testBit i = tt.getLsbD (bit h.a l i + 2 * bit h.b l i + 4 * bit h.c l i)) ∧
  (∀ (s : State) (v : View) (h : Hdr) (m : IntMod), view? s = some v → WellFormed (.sel h m) = true →
    Computes v h ([(h.d, span m.ty.wide), (h.a, span m.ty.wide)] ++ (if m.bk then [] else [(h.b, span m.ty.wide)])) (destRegs h.d m.ty.wide) →
    ∃ t r, exec (.sel h m) s = .next t ∧ Ends s t v (v.r.pc + 8) 0 (Dest v h m.ty.wide) r ∧
      ∀ l ∈ v.places h, Holds r l h.d m.ty.wide m.ty.copiesSign (joinElems (if readPred v.r l h.c then srcA v h m l else srcB3 v h m l))) ∧
  (∀ (s : State) (v : View) (h : Hdr) (m : IntMod) (cc : ICond), view? s = some v → WellFormed (.cmp h m cc) = true →
    Computes v h ([(h.a, span m.ty.wide)] ++ regs2 h m.bk m.ck m.ty.wide) [] →
    let x := fun (l : Option Nat) => value m.ty (readReg v.r l h.a m.ty.wide)
    let y := fun (l : Option Nat) => value m.ty (second v.r l h m.bk m.ck m.ty.wide (intImm m.ty m.ck h.c))
    ∃ t r, exec (.cmp h m cc) s = .next t ∧ Ends s t v (v.r.pc + 8) 0 (PredDest v h) r ∧
      ∀ l ∈ v.places h, (readPred r l h.d = true ↔ (match cc with
        | .eq => x l = y l | .ne => x l ≠ y l | .lt => x l < y l | .le => x l ≤ y l | .gt => x l > y l | .ge => x l ≥ y l))) ∧
  (∀ (s : State) (v : View) (h : Hdr) (m : IntMod), view? s = some v → WellFormed (.lea h m) = true →
    Computes v h ([(h.d, span m.ty.wide), (h.a, span m.ty.wide)] ++ (if m.bk then [] else [(h.b, 1)])) (destRegs h.d m.ty.wide) →
    let idx := fun (l : Option Nat) => BitVec.ofNat 32 (secondOf3 v.r l h m.bk false)
    ∃ t r, exec (.lea h m) s = .next t ∧ Ends s t v (v.r.pc + 8) 0 (Dest v h m.ty.wide) r ∧
      ∀ l ∈ v.places h, Holds r l h.d m.ty.wide m.ty.copiesSign
        (BitVec.ofNat 64 (readReg v.r l h.a m.ty.wide) + ((if m.ty.signed then (idx l).signExtend 64 else (idx l).zeroExtend 64) <<< h.c.toNat)).toNat) ∧
  (∀ (s : State) (v : View) (h : Hdr) (w : Bool) (x : Word), view? s = some v → WellFormed (.movi h w x) = true →
    Computes v h [(h.d, span w)] (destRegs h.d w) →
    ∃ t r, exec (.movi h w x) s = .next t ∧ Ends s t v (v.r.pc + 16) 0 (Dest v h w) r ∧ ∀ l ∈ v.places h, Holds r l h.d (w || h.u) false x.toNat)

end

/-! ### Floating point (spec/03_formats.md R77, R78; 04_arithmetic_instructions.md R108 to R116) -/

namespace Sys2Proof.Claims

open Sys2Proof.Machine

/-- The rational that a finite value stands for; 0 for a NaN or an infinity. -/
def rat : Exact → ℚ
  | .fin neg m e _ => (if neg then -1 else 1) * m * (2 : ℚ) ^ e
  | _ => 0

/-- A value that a format holds, or an exact sum or product of such values: finite, with no part below its last bit. -/
def dyadic : Exact → Prop
  | .zero _ => True
  | .fin _ m _ sticky => m ≠ 0 ∧ sticky = false
  | _ => False

/-- A number in the order of the extended rationals. -/
def ext : Exact → WithBot (WithTop ℚ)
  | .inf true => ⊥
  | .inf false => ((⊤ : WithTop ℚ) : WithBot (WithTop ℚ))
  | x => ((rat x : WithTop ℚ) : WithBot (WithTop ℚ))

/-- The elements of A and of B at a place. -/
def fpA (v : View) (h : Hdr) (m : FpMod) (l : Option Nat) : List Nat := fpElems m.ty m.swa m.na (readReg v.r l h.a m.ty.wide)
/-- B of a three-source form. -/
def fpB3 (v : View) (h : Hdr) (m : FpMod) (l : Option Nat) : List Nat := fpElems m.ty m.swb m.nb (secondOf3 v.r l h m.bk m.ty.wide)
/-- C. -/
def fpC (v : View) (h : Hdr) (m : FpMod) (l : Option Nat) : List Nat := fpElems m.ty 0 false (third v.r l h m.ck m.ty.wide (fpImm m.ty m.ck h.c))

/-- The smaller (or larger) of two elements (R111). -/
def smallerOf (larger : Bool) (m : FpMod) (a b : Nat) : Nat × Flags :=
  let x := fpVal m a
  let y := fpVal m b
  let less : Prop := ext x < ext y ∨ (ext x = ext y ∧ x.isNeg = true ∧ y.isNeg = false)
  open Classical in
  (if x.isNan && y.isNan then (ftyFormat m.ty).nanBits else if x.isNan then b else if y.isNan then a
   else if (if larger then ¬ less else less) then a else b, sigFlag x ||| sigFlag y)

/-- Does a comparison hold (R112)? -/
def holdsFp (cc : FCond) (x y : Exact) : Prop :=
  let nan := x.isNan = true ∨ y.isNan = true
  match cc with
  | .eq => ¬ nan ∧ ext x = ext y
  | .ne => nan ∨ ext x ≠ ext y
  | .lt => ¬ nan ∧ ext x < ext y
  | .le => ¬ nan ∧ ext x ≤ ext y
  | .gt => ¬ nan ∧ ext y < ext x
  | .ge => ¬ nan ∧ ext y ≤ ext x
  | .ord => ¬ nan
  | .uno => nan

/-- The flags of a comparison (R112). -/
def flagsFp (cc : FCond) (x y : Exact) : Flags :=
  match cc with
  | .lt | .le | .gt | .ge => if x.isNan || y.isNan then fNV else 0
  | _ => sigFlag x ||| sigFlag y

/-- Two-source instructions whose results are written at once, with each element's result and flags. -/
noncomputable def floatTwo : List ((Hdr → FpMod → Instr) × (FpMod → Nat → Nat → Nat × Flags)) :=
  [(Instr.fadd, fun m a b => fpNarrow m (exAdd m.rm (fpVal m a) (fpVal m b))),
   (Instr.fmul, fun m a b => fpNarrow m (exMul (fpVal m a) (fpVal m b)))] ++
  [FCond.eq, .ne, .lt, .le, .gt, .ge, .ord, .uno].map (fun cc => (fun h m => Instr.fset h m cc, fun m a b =>
    open Classical in
    (if holdsFp cc (fpVal m a) (fpVal m b) then (ftyFormat m.ty).one else 0, flagsFp cc (fpVal m a) (fpVal m b))))

/-- One-source long-latency instructions. -/
def floatLong : List ((Hdr → FpMod → Instr) × (Exact → Exact × Flags)) :=
  [(Instr.frcp, exDiv exOne), (Instr.frsq, exRsqrt), (Instr.fsqrt, exSqrt), (Instr.fexp2, exExp2), (Instr.flog2, exLog2), (Instr.fsin, exSin),
   (Instr.fcos, exCos)]

/-- The class of an encoding by its fields (R115): sign, exponent field, significand field. -/
def classBit (f : FFmt) (a : Nat) : Nat :=
  let neg := a / 2 ^ (f.width - 1) % 2 = 1
  let ex := a / 2 ^ f.mbits % 2 ^ f.ebits
  let mant := a % 2 ^ f.mbits
  if ex = 2 ^ f.ebits - 1 then
    if mant = 0 then (if neg then 0 else 7) else if mant / 2 ^ (f.mbits - 1) = 0 then 8 else 9
  else if ex = 0 then
    if mant = 0 then (if neg then 3 else 4) else (if neg then 2 else 5)
  else (if neg then 1 else 6)

/-- R110: the sum that FADD and FFMA round is exact, and a zero sum has the sign that the rule gives it. -/
def ExactSum : Prop :=
  ∀ (mode : Rm) (x y : Exact), dyadic x → dyadic y →
    dyadic (exAdd mode x y).1 ∧ rat (exAdd mode x y).1 = rat x + rat y ∧ (exAdd mode x y).2 = 0 ∧
      (rat x + rat y = 0 → (exAdd mode x y).1 = .zero (if x = y then x.isNeg else decide (mode = .rdn)))

/-- R110: the product that FMUL and FFMA round is exact, and its sign is the XOR of the signs. -/
def ExactProduct : Prop :=
  ∀ (x y : Exact), dyadic x → dyadic y →
    dyadic (exMul x y).1 ∧ rat (exMul x y).1 = rat x * rat y ∧ (exMul x y).2 = 0 ∧ (exMul x y).1.isNeg = (x.isNeg != y.isNeg)

/-- R113: the quotient and the root that FDIV and FSQRT round lie in the interval that their value names: exactly at its lower end,
or strictly inside with `sticky`. -/
def QuotientAndRootBracketed : Prop :=
  (∀ (a b : Bool) (m n : Nat) (e k : Int), m ≠ 0 → n ≠ 0 → ∃ (q : Nat) (c : Int) (st : Bool),
    exDiv (.fin a m e false) (.fin b n k false) = (.fin (a != b) q c st, 0) ∧
    (if st then (q : ℚ) * 2 ^ c < (m * 2 ^ e) / (n * 2 ^ k) ∧ (m * 2 ^ e) / (n * 2 ^ k) < (q + 1 : ℚ) * 2 ^ c
     else (q : ℚ) * 2 ^ c = (m * 2 ^ e) / (n * 2 ^ k))) ∧
  (∀ (m : Nat) (e : Int), m ≠ 0 → ∃ (q : Nat) (c : Int) (st : Bool), exSqrt (.fin false m e false) = (.fin false q c st, 0) ∧
    (if st then ((q : ℚ) * 2 ^ c) ^ 2 < m * 2 ^ e ∧ (m : ℚ) * 2 ^ e < ((q + 1 : ℚ) * 2 ^ c) ^ 2 else ((q : ℚ) * 2 ^ c) ^ 2 = m * 2 ^ e))

/-- R110, R112: FADD, FMUL and FSET complete with each element's result, raise its flags, and change no other register and
nothing else. -/
def FloatTwoSource : Prop :=
  ∀ e ∈ floatTwo, ∀ (s : State) (v : View) (h : Hdr) (m : FpMod), view? s = some v → WellFormed (e.1 h m) = true →
    Computes v h ([(h.d, span m.ty.wide), (h.a, span m.ty.wide)] ++ regs2 h m.bk m.ck m.ty.wide) (destRegs h.d m.ty.wide) →
    let res := fun (l : Option Nat) => List.zipWith (e.2 m) (fpA v h m l) (fpSecond v.r l h m)
    ∃ t r, exec (e.1 h m) s = .next t ∧ Ends s t v (v.r.pc + 8) (flagsAll ((v.places h).flatMap (fun l => (res l).map Prod.snd))) (Dest v h m.ty.wide) r ∧
      ∀ l ∈ v.places h, Holds r l h.d m.ty.wide false (joinElems ((res l).map Prod.fst))

/-- R110, R112: FFMA rounds the exact a × b + c once; FCMP writes a predicate; each raises its flags and changes nothing else. -/
def FloatFusedAndCompare : Prop :=
  (∀ (s : State) (v : View) (h : Hdr) (m : FpMod), view? s = some v → WellFormed (.ffma h m) = true →
    Computes v h ([(h.d, span m.ty.wide), (h.a, span m.ty.wide)] ++ regs3 h m.bk m.ck m.ty.wide) (destRegs h.d m.ty.wide) →
    let res := fun (l : Option Nat) => (List.zip (fpA v h m l) (List.zip (fpB3 v h m l) (fpC v h m l))).map (fun x =>
      fpNarrow m (exFma m.rm (fpVal m x.1) (fpVal m x.2.1) (fpVal m x.2.2)))
    ∃ t r, exec (.ffma h m) s = .next t ∧ Ends s t v (v.r.pc + 8) (flagsAll ((v.places h).flatMap (fun l => (res l).map Prod.snd))) (Dest v h m.ty.wide) r ∧
      ∀ l ∈ v.places h, Holds r l h.d m.ty.wide false (joinElems ((res l).map Prod.fst))) ∧
  (∀ (s : State) (v : View) (h : Hdr) (m : FpMod) (cc : FCond), view? s = some v → WellFormed (.fcmp h m cc) = true →
    Computes v h ([(h.a, span m.ty.wide)] ++ regs2 h m.bk m.ck m.ty.wide) [] →
    let x := fun (l : Option Nat) => fpVal m ((fpA v h m l).headD 0)
    let y := fun (l : Option Nat) => fpVal m ((fpSecond v.r l h m).headD 0)
    ∃ t r, exec (.fcmp h m cc) s = .next t ∧ Ends s t v (v.r.pc + 8) (flagsAll ((v.places h).map (fun l => flagsFp cc (x l) (y l)))) (PredDest v h) r ∧
      ∀ l ∈ v.places h, (readPred r l h.d = true ↔ holdsFp cc (x l) (y l)))

/-- R115, R116: FRND, FCLASS, FSCALE, FDOT2 and FDOT4 complete with their results and flags and change nothing else; FCLASS sets the one bit
of the operand's class. -/
def FloatShapes : Prop :=
  ∀ (s : State) (v : View) (h : Hdr) (m : FpMod), view? s = some v →
  (WellFormed (.frnd h m) = true → Computes v h [(h.d, span m.ty.wide), (h.a, span m.ty.wide)] (destRegs h.d m.ty.wide) →
    let res := fun (l : Option Nat) => (fpA v h m l).map (roundIntegral (ftyFormat m.ty) m.rm)
    ∃ t r, exec (.frnd h m) s = .next t ∧ Ends s t v (v.r.pc + 8) (flagsAll ((v.places h).flatMap (fun l => (res l).map Prod.snd))) (Dest v h m.ty.wide) r ∧
      ∀ l ∈ v.places h, Holds r l h.d m.ty.wide false (joinElems ((res l).map Prod.fst))) ∧
  (WellFormed (.fclass h m) = true → Computes v h [(h.d, 1), (h.a, span m.ty.wide)] (destRegs h.d false) →
    ∃ t r, exec (.fclass h m) s = .next t ∧ Ends s t v (v.r.pc + 8) 0 (Dest v h false) r ∧
      ∀ l ∈ v.places h, Holds r l h.d false false (joinElems ((fpA v h m l).map (fun a => 2 ^ classBit (ftyFormat m.ty) a)))) ∧
  (WellFormed (.fscale h m) = true → Computes v h ([(h.d, span m.ty.wide), (h.a, span m.ty.wide)] ++ regs2 h m.bk m.ck false) (destRegs h.d m.ty.wide) →
    let res := fun (l : Option Nat) => List.zipWith (fun a n => fpNarrow m (exScale (fpVal m a) n)) (fpA v h m l) (scaleElems v.r l h m)
    ∃ t r, exec (.fscale h m) s = .next t ∧ Ends s t v (v.r.pc + 8) (flagsAll ((v.places h).flatMap (fun l => (res l).map Prod.snd))) (Dest v h m.ty.wide) r ∧
      ∀ l ∈ v.places h, Holds r l h.d m.ty.wide false (joinElems ((res l).map Prod.fst))) ∧
  (WellFormed (.fdot2 h m) = true → Computes v h ([(h.d, 1), (h.a, 1), (h.c, 1)] ++ (if m.bk then [] else [(h.b, 1)])) (destRegs h.d false) →
    let f := ftyFormat m.ty
    let res := fun (l : Option Nat) => chunkUpdate (v.pkt.nbv == 1) m.sat (readReg v.r l h.c false)
      (List.zipWith (fun x y => exMul (f.decode x) (f.decode y)) (fpElems m.ty m.swa m.na (readReg v.r l h.a false))
        (fpElems m.ty m.swb m.nb (secondOf3 v.r l h m.bk false)))
    ∃ t r, exec (.fdot2 h m) s = .next t ∧ Ends s t v (v.r.pc + 8) (flagsAll ((v.places h).map (fun l => (res l).2))) (Dest v h false) r ∧
      ∀ l ∈ v.places h, Holds r l h.d false false (res l).1) ∧
  (∀ pair, WellFormed (.fdot4 h m pair) = true → Computes v h ([(h.d, 1), (h.a, 1), (h.c, 1)] ++ (if m.bk then [] else [(h.b, 1)])) (destRegs h.d false) →
    let f := fp8Formats pair
    let res := fun (l : Option Nat) => chunkUpdate (v.pkt.nbv == 1) m.sat (readReg v.r l h.c false)
      (List.zipWith (fun x y => exMul (f.1.decode x) (f.2.decode y)) ((byteElems (readReg v.r l h.a false)).map (negEnc f.1 m.na))
        ((byteElems (secondOf3 v.r l h m.bk false)).map (negEnc f.2 m.nb)))
    ∃ t r, exec (.fdot4 h m pair) s = .next t ∧ Ends s t v (v.r.pc + 8) (flagsAll ((v.places h).map (fun l => (res l).2))) (Dest v h false) r ∧
      ∀ l ∈ v.places h, Holds r l h.d false false (res l).1)

end Sys2Proof.Claims

section

open Sys2Proof Sys2Proof.Machine Sys2Proof.Claims

/-- The sums, products, quotients and roots that floating-point instructions round are exact or bracketed: each of its parts holds. It is of the intermediate values of the model; the rounding is exact rational arithmetic. -/
def Obligations.ExactArithmetic : Prop :=
  ExactSum ∧ ExactProduct ∧ QuotientAndRootBracketed

/-- FADD, FMUL, FSET, FFMA, FCMP, FRND, FCLASS, FSCALE, FDOT2 and FDOT4: results, flags and frames: each of its parts holds. -/
def Obligations.FloatResults : Prop :=
  FloatTwoSource ∧ FloatFusedAndCompare ∧ FloatShapes

/-- R113, R114: FRCP, FRSQ, FSQRT, FEXP2, FLOG2, FSIN and FCOS, and FDIV, complete: the correctly rounded results wait in a window of LA
instructions, the flags are raised, and nothing else changes. The value of a transcendental function is computed to a fixed number of bits (log 33). -/
def Obligations.FloatLongLatency : Prop :=
  (∀ e ∈ floatLong, ∀ (s : State) (v : View) (h : Hdr) (m : FpMod), view? s = some v → WellFormed (e.1 h m) = true →
    Computes v h [(h.d, span m.ty.wide), (h.a, span m.ty.wide)] (destRegs h.d m.ty.wide) →
    let res := fun (l : Option Nat) => (fpA v h m l).map (fun a => fpNarrow m (e.2 (fpVal m a)))
    ∃ t r ws, exec (e.1 h m) s = .next t ∧ Ends s t v (v.r.pc + 8) (flagsAll ((v.places h).flatMap (fun l => (res l).map Prod.snd))) (fun _ => False) r ∧
      Opens s v h r ws ∧ ∀ l ∈ v.places h, Holds (v.r.writes ws) l h.d m.ty.wide false (joinElems ((res l).map Prod.fst))) ∧
  (∀ (s : State) (v : View) (h : Hdr) (m : FpMod), view? s = some v → WellFormed (.fdiv h m) = true →
    Computes v h ([(h.d, span m.ty.wide), (h.a, span m.ty.wide)] ++ regs2 h m.bk m.ck m.ty.wide) (destRegs h.d m.ty.wide) →
    let res := fun (l : Option Nat) => List.zipWith (fun a b => fpNarrow m (exDiv (fpVal m a) (fpVal m b))) (fpA v h m l) (fpSecond v.r l h m)
    ∃ t r ws, exec (.fdiv h m) s = .next t ∧ Ends s t v (v.r.pc + 8) (flagsAll ((v.places h).flatMap (fun l => (res l).map Prod.snd))) (fun _ => False) r ∧
      Opens s v h r ws ∧ ∀ l ∈ v.places h, Holds (v.r.writes ws) l h.d m.ty.wide false (joinElems ((res l).map Prod.fst)))

end

/-! ### Conversion and exchange (spec/03_formats.md R80 to R90; 04_arithmetic_instructions.md R117 to R130) -/

namespace Sys2Proof.Claims

open Sys2Proof.Machine

/-- The converted elements of the sources of CVT, PACK and UNPACK in a lane, with their draws (R80, R117 to R119). -/
def converted (m : CvMod) (ds xs : List Nat) : List (Nat × Flags) := List.zipWith (convert m.df m.sf m.rm m.sat) ds xs

/-- The source lane of SHFL, for the lane count b, in the segment of 2^SEG lanes that holds lane l (R127). -/
def shuffleLane (opk seg l b : Nat) : Option Nat :=
  let n := 2 ^ seg
  let base := n * (l / n)
  let i := l % n
  match opk with
  | 0 => some (base + b % n)
  | 1 => if b ≤ i then some (base + (i - b)) else none
  | 2 => if i + b < n then some (base + (i + b)) else none
  | 3 => some (base + (i ^^^ (b % n)))
  | 4 => some (base + (i + b) % n)
  | _ => some (base + (n - 1 - i))

/-- The integer combinations of REDUX and SCAN over the contributors in ascending lane order (R130). -/
def combineSpec (ty : XTy) (opk : Nat) (xs : List Nat) : Nat :=
  let w := xWidth ty
  let val := fun (x : Nat) => if xSigned ty then (BitVec.ofNat w x).toInt else (x : Int)
  let least := fun (a b : Nat) => if val b < val a then b else a
  let most := fun (a b : Nat) => if val a < val b then b else a
  match opk with
  | 0 => xs.sum % 2 ^ w
  | 1 => xs.foldr (fun a b => least b a) (if xSigned ty then 2 ^ (w - 1) - 1 else 2 ^ w - 1)
  | 2 => xs.foldr (fun a b => most b a) (if xSigned ty then 2 ^ (w - 1) else 0)
  | 3 => (xs.foldr (fun a b => BitVec.ofNat w a &&& b) (BitVec.allOnes w)).toNat
  | 4 => (xs.foldr (fun a b => BitVec.ofNat w a ||| b) 0).toNat
  | _ => (xs.foldr (fun a b => BitVec.ofNat w a ^^^ b) 0).toNat

/-- The writes of a lane-to-lane move. -/
def laneMoves (v : View) (h : Hdr) (ty : XTy) (src : Nat → Option Nat) : List RegWrite :=
  (v.active h).flatMap (fun l => ((src l).map (fun k => writeReg (some l) h.d ty.wide false (readReg v.r (some k) h.a ty.wide))).getD [])

/-- The registers of an exchange instruction lie within the launch's allocation, and the group itself executes it (R35, R97). -/
abbrev Exchanges (v : View) (h : Hdr) (m : XMod) (useB : Bool) (d : Nat) : Prop := v.ej = false ∧ v.xWithin h m useB d = true

/-- R81 to R83, R117 to R119: CVT, PACK and UNPACK convert every source element, place the results, step the generator of every lane that draws,
raise the flags, and change nothing else. -/
def Conversions : Prop :=
  ∀ (s : State) (v : View) (h : Hdr) (m : CvMod), view? s = some v →
  (WellFormed (.cvt h m) = true → Computes v h [(h.d, span (m.df.width == 64)), (h.a, span (m.sf.width == 64))] (destRegs h.d (m.df.width == 64)) →
    let d := fun (l : Option Nat) => draws v.r l m.rm 1
    let x := fun (l : Option Nat) => convert m.df m.sf m.rm m.sat ((d l).1.headD 0) (readReg v.r l h.a (m.sf.width == 64))
    ∃ t, exec (.cvt h m) s = .next t ∧ Finishes s t v (v.r.pc + 8)
      ((v.places h).flatMap (fun l => writeReg l h.d (m.df.width == 64) (m.df.isInt && m.df.signed) (placeScalar m.df (x l).1) ++ (d l).2))
      (flagsAll ((v.places h).map (fun l => (x l).2)))) ∧
  (WellFormed (.pack h m) = true → Computes v h [(h.d, 1), (h.a, 1), (h.b, 1)] (destRegs h.d false) →
    let xs := fun (l : Option Nat) => packSources m (readReg v.r l h.a false) (readReg v.r l h.b false)
    let d := fun (l : Option Nat) => draws v.r l m.rm (xs l).length
    let ys := fun (l : Option Nat) => converted m (d l).1 (xs l)
    ∃ t, exec (.pack h m) s = .next t ∧ Finishes s t v (v.r.pc + 8)
      ((v.places h).flatMap (fun l => writeReg l h.d false false (packResult m (readReg v.r l h.d false) ((ys l).map Prod.fst)) ++ (d l).2))
      (flagsAll ((v.places h).flatMap (fun l => (ys l).map Prod.snd)))) ∧
  (WellFormed (.unpack h m) = true → Computes v h [(h.d, span (m.df.width == 64)), (h.a, 1)] (destRegs h.d (m.df.width == 64)) →
    let ys := fun (l : Option Nat) => (unpackSources m (readReg v.r l h.a false)).map (convert m.df m.sf .rne false 0)
    ∃ t, exec (.unpack h m) s = .next t ∧ Finishes s t v (v.r.pc + 8)
      ((v.places h).flatMap (fun l => writeReg l h.d (m.df.width == 64) (m.df.isInt && m.df.signed && m.df.width != 16) (packBits m.df.width ((ys l).map Prod.fst))))
      (flagsAll ((v.places h).flatMap (fun l => (ys l).map Prod.snd))))

/-- R82, R83: a floating-point value becomes an integer by rounding and clamping, NaN becoming 0, with NV out of range and NX when inexact; an
integer becomes an integer of another format modulo 2^w, or clamped under SAT where the rule clamps. -/
def ConversionToInteger : Prop :=
  ∀ (df : Fmt), df.isInt = true →
  (∀ mode, floatToInt df mode (.nan true) = (0, fNV) ∧ floatToInt df mode (.nan false) = (0, fNV)) ∧
  (∀ mode neg, floatToInt df mode (.inf neg) = (wrapTo df.width (if neg then fmtMin df else fmtMax df), fNV)) ∧
  (∀ neg m e, m ≠ 0 → ∃ n : Int, |(n : ℚ) - rat (.fin neg m e false)| < 1 ∧ (|(n : ℚ)| ≤ |rat (.fin neg m e false)|) ∧
    floatToInt df .rtz (.fin neg m e false) =
      (if n < fmtMin df then (wrapTo df.width (fmtMin df), fNV) else if fmtMax df < n then (wrapTo df.width (fmtMax df), fNV)
       else (wrapTo df.width n, if (n : ℚ) = rat (.fin neg m e false) then 0 else fNX))) ∧
  (∀ (sf : Fmt) (x : Int), sf.isInt = true → (BitVec.ofNat df.width (intToInt df sf false x) = BitVec.ofInt df.width x) ∧
    (fmtMin df ≤ x → x ≤ fmtMax df → ∀ sat, BitVec.ofNat df.width (intToInt df sf sat x) = BitVec.ofInt df.width x))

/-- R126 to R129: SHFL, QXCH, QBCAST, VOTE and MATCH complete: each active lane takes the value of its source lane, active or not, or keeps its
own register where there is no source; the vote goes to a q predicate or a k register; MATCH compares the lanes of a segment. Nothing else changes. -/
def LaneExchange : Prop :=
  ∀ (s : State) (v : View) (h : Hdr) (m : XMod), view? s = some v →
  (WellFormed (.shfl h m) = true → Exchanges v h m (m.opk != 5) (span m.ty.wide) →
    let b := fun (l : Nat) => if m.bk then (v.r.kget h.b.toNat).toNat % 2 ^ 32 else (v.r.vget l h.b.toNat).toNat
    ∃ t, exec (.shfl h m) s = .next t ∧ FinishesLong s t v h (laneMoves v h m.ty (fun l => shuffleLane m.opk.toNat m.seg.toNat l (b l))) 0) ∧
  (WellFormed (.qxch h m) = true → Exchanges v h m false (span m.ty.wide) →
    ∃ t, exec (.qxch h m) s = .next t ∧ Finishes s t v (v.r.pc + 8)
      (laneMoves v h m.ty (fun l => some (if m.opk = 0 then l ^^^ 1 else if m.opk = 1 then l ^^^ 2 else l ^^^ 3))) 0) ∧
  (WellFormed (.qbcast h m) = true → Exchanges v h m true (span m.ty.wide) →
    let b := fun (l : Nat) => if m.bk then (v.r.kget h.b.toNat).toNat % 2 ^ 32 else (v.r.vget l h.b.toNat).toNat
    ∃ t, exec (.qbcast h m) s = .next t ∧ Finishes s t v (v.r.pc + 8) (laneMoves v h m.ty (fun l => some (l - l % 4 + b l % 4))) 0) ∧
  (WellFormed (.vote h m) = true → v.ej = false →
    let yes := (v.active h).filter (fun l => h.a = 7 || v.r.pget l h.a.toNat)
    ∃ t, exec (.vote h m) s = .next t ∧ Finishes s t v (v.r.pc + 8)
      [match m.opk.toNat with
       | 0 => .q h.d.toNat (decide (∀ l ∈ v.active h, l ∈ yes))
       | 1 => .q h.d.toNat (decide (∃ l ∈ v.active h, l ∈ yes))
       | 2 => .q h.d.toNat (decide ((∀ l ∈ v.active h, l ∈ yes) ∨ ∀ l ∈ v.active h, l ∉ yes))
       | 3 => .k h.d.toNat (maskOf yes)
       | 4 => .k h.d.toNat (BitVec.ofNat 64 yes.length)
       | _ => .k h.d.toNat (BitVec.ofNat 64 (yes.head?.getD 64))] 0) ∧
  (WellFormed (.matchLanes h m) = true → Exchanges v h m false (if m.opk = 0 then 2 else 1) →
    let seg := fun (l : Nat) => (v.active h).filter (fun k => k / 2 ^ m.seg.toNat == l / 2 ^ m.seg.toNat)
    let same := fun (l : Nat) => (seg l).filter (fun k => readReg v.r (some k) h.a m.ty.wide == readReg v.r (some l) h.a m.ty.wide)
    ∃ t, exec (.matchLanes h m) s = .next t ∧ FinishesLong s t v h ((v.active h).flatMap (fun l =>
      match m.opk.toNat with
      | 0 => writeReg (some l) h.d true false (maskOf (same l)).toNat
      | 1 => writeReg (some l) h.d false false ((same l).head?.getD l)
      | 2 => writeReg (some l) h.d false false (same l).length
      | _ => writeReg (some l) h.d false false (if ∀ k ∈ seg l, k ∈ same l then 1 else 0))) 0)

/-- R130: REDUX combines the active lanes' values into kD, SCAN those of the lanes before each lane in its segment, in ascending lane order; an
integer combination is the sum, the least, the greatest, AND, OR or XOR of its contributors, or the identity with none. -/
def Reductions : Prop :=
  (∀ (ty : XTy) (opk : Nat) (xs : List Nat), xFloat ty = false → opk < 6 → (∀ x ∈ xs, x < 2 ^ xWidth ty) → combineAll ty opk xs = (combineSpec ty opk xs, 0)) ∧
  ∀ (s : State) (v : View) (h : Hdr) (m : XMod), view? s = some v →
  (WellFormed (.redux h m) = true → v.ej = false → v.within false [(h.a, span m.ty.wide)] = true →
    let x := combineAll m.ty m.opk.toNat ((v.active h).map (fun l => readReg v.r (some l) h.a m.ty.wide))
    ∃ t, exec (.redux h m) s = .next t ∧ FinishesLong s t v h [.k h.d.toNat (if m.ty.wide then BitVec.ofNat 64 x.1
      else if xSigned m.ty then (BitVec.ofNat 32 x.1).signExtend 64 else (BitVec.ofNat 32 x.1).zeroExtend 64)] x.2) ∧
  (WellFormed (.scan h m) = true → Exchanges v h m false (span m.ty.wide) →
    let before := fun (l : Nat) => (v.active h).filter (fun k => k / 2 ^ m.seg.toNat == l / 2 ^ m.seg.toNat && (decide (k < l) || (m.inc && k == l)))
    let x := fun (l : Nat) => combineAll m.ty m.opk.toNat ((before l).map (fun k => readReg v.r (some k) h.a m.ty.wide))
    ∃ t, exec (.scan h m) s = .next t ∧ FinishesLong s t v h ((v.active h).flatMap (fun l => writeReg (some l) h.d m.ty.wide false (x l).1))
      (flagsAll ((v.active h).map (fun l => (x l).2))))

end Sys2Proof.Claims

section

open Sys2Proof Sys2Proof.Machine Sys2Proof.Claims

/-- CVT, PACK and UNPACK, and what a value becomes in an integer format: each of its parts holds. -/
def Obligations.ConversionResults : Prop :=
  Conversions ∧ ConversionToInteger

/-- R80, R86 to R90, R120 to R122, R124: AMAX, QSCALE, QUANT, DEQ and PRMT complete with their results and change nothing else. -/
def Obligations.QuantiseAndPermute : Prop :=
  ∀ (s : State) (v : View) (h : Hdr), view? s = some v →
  (∀ m, WellFormed (.amax h m) = true → v.ej = false → v.within false [(h.d, 1), (h.a, 1)] = true →
    let quad := fun (l : Nat) => amaxOf (fmtFormat m.sf) (((v.active h).filter (fun k => k / 4 == l / 4)).flatMap (fun k => wideElems m.sf (v.r.vget k h.a.toNat).toNat))
    ∃ t, exec (.amax h m) s = .next t ∧ Finishes s t v (v.r.pc + 8) ((v.active h).map (fun l => .v l h.d.toNat (BitVec.ofNat 32 (quad l).1)))
      (flagsAll ((v.active h).map (fun l => (quad l).2)))) ∧
  (∀ m, WellFormed (.qscale h m) = true → v.ej = false → v.within false [(h.d, 1), (h.a, span (m.sf == .f64))] = true →
    let lead := fun (l : Nat) => (if m.df = .n4 then 4 else 8) * (l / (if m.df = .n4 then 4 else 8))
    let x := fun (l : Nat) => if m.sf = .f64 then (v.r.v64 (lead l) h.a.toNat).toNat else (v.r.vget (lead l) h.a.toNat).toNat
    let sc := fun (l : Nat) => scaleByte m.df h.c.toNat m.auto ((fmtFormat m.sf).decode (x l))
    ∃ t, exec (.qscale h m) s = .next t ∧ Finishes s t v (v.r.pc + 8) ((v.active h).map (fun l => .v l h.d.toNat (BitVec.ofNat 32 (sc l).1)))
      (flagsAll ((v.active h).map (fun l => (sc l).2)))) ∧
  (∀ m, WellFormed (.quant h m) = true → v.ej = false → v.within false [(h.d, 1), (h.a, quantRegs m.df m.sf), (h.b, 1)] = true →
    let n := if m.df = .n4 then 8 else 4
    let e := if m.sf = .f32 then 1 else 2
    let x := fun (l j : Nat) => (v.r.vget l (h.a.toNat + j / e)).toNat / 2 ^ (32 / e * (j % e)) % 2 ^ (32 / e)
    let d := fun (l : Nat) => draws v.r (some l) m.rm n
    let ys := fun (l : Nat) => List.zipWith (fun dr j => quantise m.df (laneScale v.r m.df h m.bs l) m.rm m.sat dr ((fmtFormat m.sf).decode (x l j))) (d l).1 (List.range n)
    ∃ t, exec (.quant h m) s = .next t ∧ Finishes s t v (v.r.pc + 8)
      ((v.active h).flatMap (fun l => .v l h.d.toNat (BitVec.ofNat 32 (packBits m.df.width ((ys l).map Prod.fst))) :: (d l).2))
      (flagsAll ((v.active h).flatMap (fun l => (ys l).map Prod.snd)))) ∧
  (∀ m, WellFormed (.deq h m) = true → v.ej = false → v.within false [(h.d, quantRegs m.sf m.df), (h.a, 1), (h.b, 1)] = true →
    let n := if m.sf = .n4 then 8 else 4
    let e := if m.df = .f32 then 1 else 2
    let ys := fun (l : Nat) => (List.range n).map (fun j =>
      dequantise m.df m.sf (laneScale v.r m.sf h m.bs l) ((v.r.vget l h.a.toNat).toNat / 2 ^ (m.sf.width * j) % 2 ^ m.sf.width))
    ∃ t, exec (.deq h m) s = .next t ∧ Finishes s t v (v.r.pc + 8)
      ((v.active h).flatMap (fun l => (List.range (quantRegs m.sf m.df)).map (fun i =>
        .v l (h.d.toNat + i) (BitVec.ofNat 32 (packBits (32 / e) ((((ys l).map Prod.fst).drop (i * e)).take e))))))
      (flagsAll ((v.active h).flatMap (fun l => (ys l).map Prod.snd)))) ∧
  (∀ ck, WellFormed (.prmt h ck) = true → Computes v h ([(h.d, 1), (h.a, 1), (h.b, 1)] ++ (if ck == .vreg then [(h.c, 1)] else [])) (destRegs h.d false) →
    let pair := fun (l : Option Nat) => BitVec.ofNat 32 (readReg v.r l h.b false) ++ BitVec.ofNat 32 (readReg v.r l h.a false)
    let sel := fun (l : Option Nat) (i : Nat) => (if ck = .kreg then readK v.r h.c false else readReg v.r l h.c false) / 256 ^ i % 256
    let byte := fun (l : Option Nat) (i : Nat) => (pair l).extractLsb' (8 * (sel l i % 8)) 8
    let out := fun (l : Option Nat) (i : Nat) =>
      if sel l i / 8 % 4 = 0 then byte l i else if sel l i / 8 % 4 = 1 then 0
      else if sel l i / 8 % 4 = 2 then (if (byte l i).msb then 0xFF else 0) else (byte l i).reverse
    ∃ t r, exec (.prmt h ck) s = .next t ∧ Ends s t v (v.r.pc + 8) 0 (Dest v h false) r ∧
      ∀ l ∈ v.places h, Holds r l h.d false false ((out l 3 ++ out l 2) ++ (out l 1 ++ out l 0)).toNat)

/-- SHFL, QXCH, QBCAST, VOTE, MATCH, REDUX and SCAN: results, flags and frames: each of its parts holds. -/
def Obligations.ExchangeAndReduce : Prop :=
  LaneExchange ∧ Reductions

end

/-! ### Control and traps (spec/11_divergence.md, 12_control_instructions.md, 14_recovery.md) -/

namespace Sys2Proof.Claims

open Sys2Proof.Machine

/-- The group-wide branches: each with its size, its target, whether the target is absolute, and the k register that takes the link (R322,
R323, R326). -/
def groupBranches (lo : BitVec 15) (x : Word) : List ((Hdr → Instr) × Nat × (View → Hdr → Word) × Bool × (Hdr → List RegName)) :=
  let near := fun (v : View) (h : Hdr) => v.r.pc + ((h.c ++ lo : BitVec 23).signExtend 64 <<< 3)
  [(fun h => .bra h lo, 8, near, false, fun _ => []),
   (fun h => .braFar h x, 16, fun _ _ => x, true, fun _ => []),
   (fun h => .call h lo, 8, near, false, fun h => [.k h.d.toNat]),
   (fun h => .callFar h x, 16, fun _ _ => x, true, fun h => [.k h.d.toNat]),
   (.ret, 8, fun v h => v.r.kget h.a.toNat, true, fun _ => []),
   (.jmpi, 8, fun v h => v.r.kget h.a.toNat, true, fun _ => [])]

/-- A target that a branch may take: canonical, and a multiple of 8 where it is absolute (R322). -/
abbrev goodTarget (absolute : Bool) (t : Word) : Prop := canonical t = true ∧ (absolute = true → t.toNat % 8 = 0)

/-- The group of an agent. -/
def groupOf (s : State) (v : View) : Option Group := s.group? v.ag.blk v.ag.grp

/-- The pending path and the outer path that a split pushes (R297). -/
def splitEntries (v : View) (rejoin : Word) (f : Mask) : List StackEntry :=
  [{ ej := 0, rpc := rejoin, mask := f, pc := v.r.pc + 8, kd := false, recalled := false },
   { ej := 0, rpc := v.r.rpc, mask := v.mask, pc := rejoin + 8, kd := true, recalled := false }]

/-- The state in which a trap of a group outside a handler is delivered: its windows are written, its reservations are gone, its spent bit is set by a
WATCH or a hardware BRKP (R39, R220, R376). -/
def trapReady (s : State) (v : View) (t : Trap) : State :=
  let s1 : State := { s with raised := some t.cause }
  ((if t.next then s1.mapGroup v.ag.blk v.ag.grp (fun x => x.passed v.r.pc) else s1).mapRegs v.ag Regs.flush).mapGroup v.ag.blk v.ag.grp (fun x =>
    { x with spent := spentOf t v.r.pc x.r.mask false x.spent, resv := [], ahead := [], want := [], tbMet := false, hang := if t.cause = .hang then 0 else x.hang, run := .ready })

/-- The trap record of R366. -/
def recordOf (s : State) (v : View) (t : Trap) : TrapRecord :=
  { info := infoWord t v.g.handler.isSome false false v.g.spent.isSome, lanes := t.lanes, pc := v.r.pc, addr := t.addr, iword := s.word,
    ecsn := t.ecsn, resume := t.resume.getD (if t.next then v.r.pc + BitVec.ofNat 64 t.size else v.r.pc), vt := s.vtime }

/-- R322, R323, R326: BRA, BRA.far, CALL, CALL.far, RET and JMPI in the group-wide form go to their target when the predicate passes, the calls
writing the address of the next instruction to K(D), and go on at the next instruction when it fails; BRA and BRA.far in the lane form are
taken when every lane of the path passes and not taken when none does. No other register and nothing else changes. -/
def Branches : Prop :=
  (∀ (lo : BitVec 15) (x : Word), ∀ e ∈ groupBranches lo x, ∀ (s : State) (v : View) (h : Hdr), view? s = some v → h.u = true → v.ej = false →
    (v.groupOn h = false → ∃ t r, exec (e.1 h) s = .next t ∧ Ends s t v (v.r.pc + BitVec.ofNat 64 e.2.1) 0 (fun _ => False) r) ∧
    (v.groupOn h = true → goodTarget e.2.2.2.1 (e.2.2.1 v h) → ∃ t r, exec (e.1 h) s = .next t ∧
      Ends s t v (e.2.2.1 v h) 0 (fun n => n ∈ e.2.2.2.2 h) r ∧
      (∀ n, .k n ∈ e.2.2.2.2 h → r.kget n = if n = 63 then 0 else v.r.pc + BitVec.ofNat 64 e.2.1))) ∧
  (∀ (lo : BitVec 15) (x : Word), ∀ e ∈ (groupBranches lo x).take 2, ∀ (s : State) (v : View) (h : Hdr), view? s = some v → h.u = false →
    v.mask ≠ 0 →
    (v.active h = [] → ∃ t r, exec (e.1 h) s = .next t ∧ Ends s t v (v.r.pc + BitVec.ofNat 64 e.2.1) 0 (fun _ => False) r) ∧
    (v.active h = lanesOf v.mask → goodTarget e.2.2.2.1 (e.2.2.1 v h) → ∃ t r, exec (e.1 h) s = .next t ∧ Ends s t v (e.2.2.1 v h) 0 (fun _ => False) r))

/-- R322, R323: a taken group-wide branch to a misaligned absolute target raises ALIGN, and to a non-canonical target XLAT, with the target as
address; a lane-form BRA that some lanes take and others do not raises ILL. -/
def BranchTraps : Prop :=
  (∀ (lo : BitVec 15) (x : Word), ∀ e ∈ groupBranches lo x, ∀ (s : State) (v : View) (h : Hdr), view? s = some v → h.u = true → v.ej = false →
    v.groupOn h = true →
    (e.2.2.2.1 = true → (e.2.2.1 v h).toNat % 8 ≠ 0 → exec (e.1 h) s = .next (takeTrap s v { cause := .align, lanes := v.mask, addr := e.2.2.1 v h })) ∧
    ((e.2.2.2.1 = true → (e.2.2.1 v h).toNat % 8 = 0) → canonical (e.2.2.1 v h) = false →
      exec (e.1 h) s = .next (takeTrap s v { cause := .xlat, lanes := v.mask, addr := e.2.2.1 v h }))) ∧
  (∀ (lo : BitVec 15) (x : Word), ∀ e ∈ (groupBranches lo x).take 2, ∀ (s : State) (v : View) (h : Hdr), view? s = some v → h.u = false →
    v.active h ≠ [] → v.active h ≠ lanesOf v.mask → exec (e.1 h) s = .next (takeTrap s v { cause := .ill, lanes := v.mask }))

/-- R366 to R368: a trap of a group whose context routes its cause to a handler writes the record (cause, lanes, PC, address, instruction word, ECSN, RESUME, VTIME) to the
group's place in the record area, saves the path {PC, MASK, RPC}, stack depth, hang counter, wait count and wake time, and goes on at the handler's address. -/
def TrapEntry : Prop :=
  ∀ (s : State) (v : View) (t : Trap) (hpc va : Word) (s2 : State) (g : Group), viewOf s v.ag = some v → v.ag.lane = none → v.r.awaiting = false →
    v.g.handler = none → t.cause ≠ .nres → (debugged s v.ctx = true → t.cause ≠ .brkp ∧ t.cause ≠ .watch) →
    trapRoute (trapReady s v t) v.ctx v.core v.g.slot t.cause = some (hpc, va) → ctxPut (trapReady s v t) v.ctx va (recordBytes (recordOf s v t)) = some s2 →
    groupOf s2 v = some g → g.stepping = none →
    (takeTrap s v t).mem = s2.mem ∧ groupOf (takeTrap s v t) v =
      some { g with r := { g.r with pc := hpc, pend := [] }, hang := 0, waitAt := none, wake := none, barsAt := [],
                    handler := some { pc := (recordOf s v t).resume, mask := g.r.mask, rpc := g.r.rpc, depth := g.stack.length, recVa := va, hang := g.hang, waitAt := g.waitAt, wake := g.wake,
                                      bars := g.barsAt, pend := g.r.pend } }

/-- R370: TRET in a handler takes the saved path at the RESUME that the record holds, and leaves the handler; outside a handler, or with another stack
depth than at entry, it raises ILL; where the record cannot be read, it raises what the access raises. -/
def TrapReturn : Prop :=
  ∀ (s : State) (v : View) (h : Hdr), view? s = some v → h.u = true → v.ej = false → v.groupOn h = true →
  (v.g.handler = none → exec (.tret h) s = .next (takeTrap s v { cause := .ill, lanes := v.mask })) ∧
  (∀ hd, v.g.handler = some hd → v.g.stack.length ≠ hd.depth → exec (.tret h) s = .next (takeTrap s v { cause := .ill, lanes := v.mask })) ∧
  (∀ hd k a, v.g.handler = some hd → v.g.stack.length = hd.depth → (groupAccess s v (hd.recVa + 0x30) 8 true false).cause = some (k, a) →
    exec (.tret h) s = .next (takeTrap s v (groupTrap v k a (groupAccess s v (hd.recVa + 0x30) 8 true false).dom .sys false))) ∧
  (∀ hd s1, v.g.handler = some hd → v.g.stack.length = hd.depth → (groupAccess s v (hd.recVa + 0x30) 8 true false).cause = none →
    releaseAll s v.core v.whole v.mask .grp = some s1 →
    let c := groupAccess s v (hd.recVa + 0x30) 8 true false
    let ld := loadSpans (touchAll s1 v.core v.ctx c.spans false) v.core v.whole v.mask c.spans { dom := .seq, enc := .seq, sc := .sys }
    let pc : Word := BitVec.ofNat 64 (fromBytes ld.2.1)
    pc.toNat % 8 = 0 → exec (.tret h) s = .next (leaveHandler (acquireAll ld.1 v.core) v hd pc)) ∧
  (∀ hd pc, v.ag.lane = none → v.g.held = [] → hd.mask ≠ 0 → ∃ g, groupOf (leaveHandler s v hd pc) v = some g ∧ g.handler = none ∧ g.r.pc = pc ∧ g.r.mask = hd.mask ∧ g.r.rpc = hd.rpc)

/-- R12, R374: SVC parks its group, which resumes at the next instruction, with the
service entry in the ring or waiting for room in it; an unallocated word raises ILL. -/
def TrappingInstructions : Prop :=
  ∀ (s : State) (v : View) (h : Hdr), view? s = some v →
  (∀ w, exec (.unallocatedOpcode w) s = .next (takeTrap s v { cause := .ill, lanes := v.mask })) ∧
  (∀ num s1, v.ej = false → v.within false [(h.d, 2), (h.a, h.c.toNat)] = true → v.active h ≠ [] → v.r.awaiting = false →
    releaseAll s v.core v.whole v.mask .sys = some s1 →
    let s2 := (skip s1 v 8).mapRegs v.ag Regs.flush
    let rec_ := svcRecord s v num.toNat (maskOf (v.active h))
    let regs := ((groupOf s2 v).map (fun (g : Group) => g.r)).getD v.r
    exec (.svc h num) s = .next (parkService (saveRecord (s2.mapGroup v.ag.blk v.ag.grp (fun g => { g with resv := [] })) v.ag.blk v.ag.grp v.g.handler.isSome rec_)
      v.ag.blk v.ag.grp true h.d.toNat (maskOf (v.active h)) (svcKind num.toNat h.c.toNat) rec_
      ((v.active h).map (fun l => (l, (List.range h.c.toNat).map (fun j => regs.vget l (h.a.toNat + j)))))))

/-- R293, R371, R372: a group that parks through the service ring frees its group slot, goes to its record in the save slot and waits for the host; its entry is written at TAIL
and its MSI-X vector sent when the ring has room and no entry waits, and waits in the device otherwise; without a usable ring the grid ends with status 0x07. -/
def ServiceParking : Prop :=
  ∀ (s : State) (b g : Nat) (bl : Block) (x : Group) (isSvc : Bool) (d : Nat) (lanes : Mask) (kind : Word) (r : TrapRecord) (args : List (Nat × List Half)),
    tget s.blocks b = some bl → tget bl.groups g = some x →
  (svcHeader s bl.ctx = none → parkService s b g isSvc d lanes kind r args = abortGrid s bl.grid 7) ∧
  (∀ base head tail n, svcHeader s bl.ctx = some (base, head, tail, n) → 2 ^ n ≤ (tail + 2 ^ 48 - head) % 2 ^ 48 →
    parkService s b g isSvc d lanes kind r args =
      parkGroup { s with svcq := s.svcq ++ [{ ctx := bl.ctx, blk := b, grp := g, parks := true, isSvc := isSvc, kind := kind,
                                              who := BitVec.ofNat 64 ((whoOf s { blk := b, grp := g, lane := none }).1 + bl.ctx * 2 ^ 32), lanes := lanes, record := r, args := args }] }
        b g (.service none isSvc d lanes r)) ∧
  (∀ p, (∀ n, tget ((freeGroupSlot s b g).core bl.core).used n ≠ some (b, g)) ∧
    (∀ y, (fillRecord (freeGroupSlot s b g) b g).group? b g = some y → (parkGroup s b g p).group? b g = some { y with run := .parkedOff p }) ∧
    (bl.save = none → (parkGroup s b g p).mem = s.mem ∧ (parkGroup s b g p).group? b g = some { x with run := .parkedOff p }) ∧
    (∀ base, bl.save = some base → fillRecord s b g = fillSlot s b (base + 2048 * g + 128) 1920)) ∧
  (∀ base head tail n s1, svcHeader s bl.ctx = some (base, head, tail, n) → (tail + 2 ^ 48 - head) % 2 ^ 48 < 2 ^ n → s.svcq.any (fun y => y.ctx == bl.ctx) = false →
    svcWaits s bl.ctx base tail n = false →
    svcWrite s bl.ctx base tail n kind (BitVec.ofNat 64 ((whoOf s { blk := b, grp := g, lane := none }).1 + bl.ctx * 2 ^ 32)) lanes r.resume r args = some s1 →
    parkService s b g isSvc d lanes kind r args =
      parkGroup (sendMsix s1 (tenantIdx s bl.ctx) (if isSvc then 0 else 2)) b g (.service (some tail) isSvc d lanes r))

end Sys2Proof.Claims

section

open Sys2Proof Sys2Proof.Machine Sys2Proof.Claims

/-- Branches, calls and returns: targets, links, frames, and where they trap: each of its parts holds. -/
def Obligations.GroupBranches : Prop :=
  Branches ∧ BranchTraps

/-- R297, R298, R299, R329: BRX branches when all lanes agree and otherwise pushes the pending path and the outer path and goes on with the taken
lanes, or ejects the smaller side when R301 lets it; JOIN at the rejoin point takes the pending path, and elsewhere goes on; EXIT removes its lanes and takes
the path below; RECALL with no lane out goes on. That a RECALL or JOIN where nothing is out only goes on, and how EXIT leaves the stack, follow log 22. -/
def Obligations.PathsSplitAndRejoin : Prop :=
  ∀ (s : State) (v : View) (h : Hdr), view? s = some v → v.ag.lane = none →
  let target := v.r.pc + ((h.d ++ h.a : BitVec 16).signExtend 64 <<< 3)
  let rejoin := v.r.pc + ((h.b ++ h.c : BitVec 16).signExtend 64 <<< 3)
  let taken := maskOf (v.active h)
  let rest := v.mask &&& ~~~taken
  (∀ live, taken = 0 → ∃ t r, exec (.brx h live) s = .next t ∧ Ends s t v (v.r.pc + 8) 0 (fun _ => False) r) ∧
  (∀ live, taken ≠ 0 → rest = 0 → canonical target = true → ∃ t r, exec (.brx h live) s = .next t ∧ Ends s t v target 0 (fun _ => False) r) ∧
  (∀ live, taken ≠ 0 → rest ≠ 0 → canonical target = true → 2 ≤ v.g.freeEntries →
    mayEject s v (if laneCount taken ≤ laneCount rest then taken else rest) live.toNat = false →
    ∃ t g, exec (.brx h live) s = .next t ∧ groupOf t v = some g ∧ g.r.pc = target ∧ g.r.mask = taken ∧ g.r.rpc = rejoin ∧
      g.stack = splitEntries v rejoin rest ++ v.g.stack ∧ g.threads = v.g.threads ∧ t.mem = s.mem) ∧
  (∀ live out back, taken ≠ 0 → rest ≠ 0 → canonical target = true →
    mayEject s v (if laneCount taken ≤ laneCount rest then taken else rest) live.toNat = true → liveEntry s v live.toNat = .inr (out, back) →
    let few := if laneCount taken ≤ laneCount rest then taken else rest
    ∃ t g, exec (.brx h live) s = .next t ∧ groupOf t v = some g ∧ g.r.mask = v.mask &&& ~~~few ∧
      g.r.pc = (if laneCount taken ≤ laneCount rest then v.r.pc + 8 else target) ∧ g.r.rpc = rejoin ∧
      (∃ ths, g.threads = v.g.threads ++ ths ∧ ths.map (fun x => x.lane) = lanesOf few ∧
        ∀ x ∈ ths, x.run = .starting ∧ x.rejoin = rejoin ∧ x.r.pc = (if laneCount taken ≤ laneCount rest then target else v.r.pc + 8)) ∧
      g.stack = { ej := few, rpc := v.r.rpc, mask := v.mask, pc := rejoin + 8, kd := true, recalled := false } :: v.g.stack) ∧
  (v.r.pc ≠ v.r.rpc → ∃ t r, exec (.join h) s = .next t ∧ Ends s t v (v.r.pc + 8) 0 (fun _ => False) r) ∧
  (∀ e below, v.r.pc = v.r.rpc → v.g.stack = e :: below → e.ej = 0 → e.mask ≠ 0 →
    ∃ t g, exec (.join h) s = .next t ∧ groupOf t v = some g ∧ g.r.pc = e.pc ∧ g.r.mask = e.mask ∧ g.r.rpc = e.rpc ∧ g.stack = below ∧ t.mem = s.mem) ∧
  (∀ e below, h.u = true → v.groupOn h = true → v.g.stack = e :: below → e.ej = 0 → e.mask &&& ~~~v.mask ≠ 0 →
    ∃ t g, exec (.exit h) s = .next t ∧ groupOf t v = some g ∧ g.r.pc = e.pc ∧ g.r.mask = e.mask &&& ~~~v.mask ∧ g.r.rpc = e.rpc ∧
      g.stack = below.map (fun x => { x with mask := x.mask &&& ~~~v.mask }) ∧ t.mem = s.mem) ∧
  (h.u = true → v.groupOn h = true → v.g.threads = [] → ∃ t r, exec (.recall h) s = .next t ∧ Ends s t v (v.r.pc + 8) 0 (fun _ => False) r)

/-- Taking a trap to a handler, and TRET: each of its parts holds. The access by which TRET reads RESUME is the model's (log 23). -/
def Obligations.TrapEntryAndReturn : Prop :=
  TrapEntry ∧ TrapReturn

/-- SVC parks its group through the service ring; an unallocated word raises ILL: each of its parts holds. SVC clears the group's reservations, and how a waiting entry is kept are the model's (log 23). -/
def Obligations.ServiceCalls : Prop :=
  TrappingInstructions ∧ ServiceParking

end

/-! ### Synchronisation (spec/11_divergence.md R312 to R318, 12_control_instructions.md R330 to R335, 06_domains.md R172, R226) -/

namespace Sys2Proof.Claims

open Sys2Proof.Machine

/-- The group executes the instruction: it is no ejected lane's, is group-wide, and its predicate passes. -/
def GroupRuns (s : State) (v : View) (h : Hdr) : Prop := view? s = some v ∧ h.u = true ∧ v.ej = false ∧ v.groupOn h = true

/-- The barrier that BARA, BARW and BARS name. -/
def barOf (m : BarMod) : BarRef := { cl := m.cl, n := m.n.toNat }

/-- The count of an arrival: K(B) under CNT = 1, which is legal from 1 to 16, or 64 for a cluster barrier (R330). -/
abbrev countOk (v : View) (h : Hdr) (m : BarMod) (n : Nat) : Prop :=
  if m.cnt then n = (v.r.kget h.b.toNat).toNat ∧ 1 ≤ n ∧ n ≤ (if m.cl then 64 else 16) else n = 0

/-- The offset that K(A) names is a transaction barrier in L-space (R332). -/
abbrev tbOk (v : View) (h : Hdr) : Prop := (v.r.kget h.a.toNat).toNat % 16 = 0 ∧ (v.r.kget h.a.toNat).toNat + 16 ≤ spaceAlloc v.pkt .loc

/-- The edge that ends a wait: it began when the wait did, or now when the instruction did not wait (R393). -/
def edgeAfterWait (s : State) (v : View) (who : AgentRef) (note : Option Note) (kind num : Nat) : State :=
  match v.run with
  | .waiting _ t => chainEdge s v.ctx who note t kind num false
  | _ => chainEdge s v.ctx who note s.now kind num true

/-- R313, R330, R331: BARA arrives, at once when the group's accesses are acknowledged and otherwise behind them; the event then applies the arrival. BARW ends when the
group's phase has completed, as an acquire, or at once when it has never arrived; BARS arrives and then waits as BARW does. A second arrival in a phase waits. -/
def BarrierInstructions : Prop :=
  ∀ (s : State) (v : View) (h : Hdr) (m : BarMod), GroupRuns s v h →
  let r := barOf m
  let b := v.ag.blk
  let g := v.ag.grp
  let ids := openBefore s v
  let now := arrive (sivReleaseAll s v.core (if m.cl then .cls else .blk)) b g r m.cnt
  let notes := fun (s : State) => s.mapGroup b g (fun x => { x with barsAt := tset x.barsAt r.key (v.r.pc, v.mask) })
  let queued := fun (n : Nat) => s.mapGroup b g (fun x => { x with barQ := x.barQ ++ [{ ids := ids, bar := r.n, cl := r.cl, count := n, cnt := m.cnt }] })
  (∀ n, countOk v h m n → v.g.arrived r.key = false → ids = [] →
    exec (.bara h m) s = .next (skip (now n) v 8) ∧
    (tget v.g.barsAt r.key ≠ some (v.r.pc, v.mask) → exec (.bars h m) s = .next (barWait (notes (now n)) v r))) ∧
  (∀ n, countOk v h m n → v.g.arrived r.key = false → ids ≠ [] →
    exec (.bara h m) s = .next (skip (queued n) v 8) ∧
    (tget v.g.barsAt r.key ≠ some (v.r.pc, v.mask) → exec (.bars h m) s = .next (barWait (notes (queued n)) v r))) ∧
  (∀ n, countOk v h m n → v.g.arrived r.key = true →
    exec (.bara h m) s = .next (stallOn s v .arrival [r.key]) ∧
    (tget v.g.barsAt r.key ≠ some (v.r.pc, v.mask) → exec (.bars h m) s = .next (stallOn s v .arrival [r.key]))) ∧
  (∀ a, tget v.g.arr r.key = some a → v.g.arrived r.key = false → exec (.barw h m) s =
    .next (skip (edgeAfterWait (acquireAll s v.core) v v.whole a.last (if m.cl then 2 else 1) r.n) v 8)) ∧
  (tget v.g.arr r.key = none → v.g.arrived r.key = false → exec (.barw h m) s =
    .next (skip (edgeAfterWait s v v.whole (getBar s b r).last (if m.cl then 2 else 1) r.n) v 8)) ∧
  (v.g.arrived r.key = true → exec (.barw h m) s = .next (stallOn s v .barrier [r.key])) ∧
  (∀ n, countOk v h m n → tget v.g.barsAt r.key = some (v.r.pc, v.mask) → exec (.bars h m) s = exec (.barw h m) s)

/-- R313, R315, R331: an arrival fixes the counts of a new phase, at K(B) or at the groups that have not executed EXIT, and lowers the pending count; the
last one flips the phase and marks every pending record of the barrier's groups completed. A deferred arrival is applied once its accesses are acknowledged. -/
def BarrierPhase : Prop :=
  (∀ (s : State) (b g : Nat) (bl : Block) (n : Nat) (cnt : Bool) (count : Nat), tget s.blocks b = some bl → tget bl.groups g ≠ none →
    let r : BarRef := { cl := false, n := n }
    let x := getBar s b r
    let c := if x.set then x.pending else if cnt then count else ((tvals bl.groups).filter (fun y => !y.exited)).length
    (1 < c → (getBar (arrive s b g r cnt count) b r).phase = x.phase ∧ (getBar (arrive s b g r cnt count) b r).pending = c - 1 ∧
      (getBar (arrive s b g r cnt count) b r).set = true ∧ (arrOf (arrive s b g r cnt count) b g r).map (fun a => a.done) = some false) ∧
    (c = 1 → (getBar (arrive s b g r cnt count) b r).phase = (x.phase + 1) % 4 ∧ (getBar (arrive s b g r cnt count) b r).set = false ∧
      ∀ y, y ∈ tvals (((tget (arrive s b g r cnt count).blocks b).map (fun z => z.groups)).getD []) → ∀ a, tget y.arr r.key = some a → a.done = true)) ∧
  (∀ (s : State) (b g : Nat) (bl : Block) (x : Group) (d : Deferred) (rest : List Deferred), tget s.blocks b = some bl → tget bl.groups g = some x →
    x.barQ = d :: rest → isOpen s d.ids = false →
    exec (.barrierArrivalApply b g) s = .next (arrive (sivReleaseAll (s.mapGroup b g (fun y => { y with barQ := y.barQ.filter (fun e => e != d) })) bl.core
      (if d.cl then .cls else .blk)) b g { cl := d.cl, n := d.bar } d.cnt d.count))

/-- R239, R240, R332 to R334: TBINIT, TBARR and TBEXP update the transaction barrier at K(A), at once or behind the accesses and updates that come before; TBWAIT ends when
its phase is reached, now or at an update while it waited, and waits otherwise; TBTEST writes whether it is reached; a deferred update is applied when its turn comes. -/
def TransactionBarrierInstructions : Prop :=
  (∀ (s : State) (v : View) (h : Hdr), GroupRuns s v h → tbOk v h →
    let off := (v.r.kget h.a.toNat).toNat
    let n := (v.r.kget h.b.toNat).toNat
    let free := v.g.tbQ.all (fun d => d.off != off)
    let ids := openBefore s v
    let apply : TbOp → Host.Outcome State Fault Refusal := fun op => .next (skip (tbApply s v.ag.blk off (noteOf s v.whole) op) v 8)
    let defer : List Nat → TbOp → Host.Outcome State Fault Refusal := fun ids op => .next (skip (s.mapGroup v.ag.blk v.ag.grp (fun x => { x with tbQ := x.tbQ ++ [{ ids := ids, off := off, op := op }] })) v 8)
    (1 ≤ n → n ≤ 65535 → exec (.tbinit h) s = if free then apply (.init n) else defer [] (.init n)) ∧
    (n ≤ 0x7FFFFFFF → exec (.tbexp h) s = if free then apply (.expect n) else defer [] (.expect n)) ∧
    (exec (.tbarr h) s = if free ∧ ids = [] then apply (.arrive h.c.toNat) else defer ids (.arrive h.c.toNat)) ∧
    let met : Prop := (free = true ∧ (getTb s v.ag.blk off).reached h.c.toNat = true) ∨ (v.g.tbMet = true ∧ v.g.want = [off, h.c.toNat])
    (met → exec (.tbwait h) s =
      .next (skip (edgeAfterWait (tbAcquire s v.core v.ag.blk off) v v.whole (tbNoteOf s v.ag.blk off) 3 h.c.toNat) v 8)) ∧
    (¬ met → exec (.tbwait h) s = .next (stallOn s v .tb [off, h.c.toNat])) ∧
    (exec (.tbtest h) s = .next (finish (if (getTb s v.ag.blk off).reached h.c.toNat then tbAcquire s v.core v.ag.blk off else s) v 8
      [.q h.d.toNat ((getTb s v.ag.blk off).reached h.c.toNat)] 0))) ∧
  (∀ (s : State) (b g : Nat) (bl : Block) (x : Group) (d : TbDeferred) (rest : List TbDeferred), tget s.blocks b = some bl → tget bl.groups g = some x →
    x.tbQ = d :: rest → isOpen s d.ids = false →
    exec (.tbarrApply b g) s = .next (tbApply (s.mapGroup b g (fun y => { y with tbQ := y.tbQ.erase d })) b d.off
      (noteOf (s.mapGroup b g (fun y => { y with tbQ := y.tbQ.erase d })) { blk := b, grp := g, lane := none }) d.op))

/-- R239, R240, R334: TBINIT leaves phase 0 with PEND and EXP at n and the rest 0; an arrival subtracts from PEND, an expectation adds to SECT; when both are zero the phase goes up by one
modulo 16 and PEND becomes EXP again; the phase field counts as reached while it is at most 7 ahead of the awaited phase. -/
def TransactionBarrierPhase : Prop :=
  (∀ (s : State) (b off : Nat) (who : Note) (bl : Block) (n : Nat), tget s.blocks b = some bl → n < 2 ^ 16 →
    getTb (tbApply s b off who (.init n)) b off = { phase := 0, pend := n, exp := n, sect := 0, last := 0, vt := 0 }) ∧
  (∀ (s : State) (b off : Nat) (who : Note) (bl : Block) (n : Nat), tget s.blocks b = some bl →
    let t := getTb s b off
    let u := getTb (tbApply s b off who (.arrive n)) b off
    (t.pend - n = 0 ∧ t.sect = 0 → u.phase = (t.phase + 1) % 16 ∧ u.pend = t.exp ∧ u.exp = t.exp ∧ u.sect = 0) ∧
    (¬ (t.pend - n = 0 ∧ t.sect = 0) → u.phase = t.phase ∧ u.pend = t.pend - n ∧ u.exp = t.exp ∧ u.sect = t.sect)) ∧
  (∀ (s : State) (b off : Nat) (who : Note) (bl : Block) (n : Nat), tget s.blocks b = some bl → (getTb s b off).pend ≠ 0 →
    (getTb (tbApply s b off who (.expect n)) b off).sect = ((getTb s b off).sect + n) % 2 ^ 32 ∧
    (getTb (tbApply s b off who (.expect n)) b off).phase = (getTb s b off).phase) ∧
  (∀ (t : Tb) (p : Nat), t.phase < 16 → p < 16 → (t.reached p = true ↔ ∃ k, k ≤ 7 ∧ t.phase = (p + k) % 16))

end Sys2Proof.Claims

section

open Sys2Proof Sys2Proof.Machine Sys2Proof.Claims

/-- BARA, BARW and BARS, and the phases of a named barrier: each of its parts holds. One deferred arrival for each barrier, and the edges recorded where a wait ends, follow log 20 and log 21. -/
def Obligations.NamedBarriers : Prop :=
  BarrierInstructions ∧ BarrierPhase

/-- TBINIT, TBARR, TBEXP, TBWAIT and TBTEST, and the phases of a transaction barrier: each of its parts holds. Deferral behind earlier updates and the edges recorded follow log 20 and log 21. -/
def Obligations.TransactionBarriers : Prop :=
  TransactionBarrierInstructions ∧ TransactionBarrierPhase

/-- R172, R173, R226, R335: FENCE and BRG bind, for every active lane (and the group in the group-wide form), each pair of domains that they name; GSET resolves an ARMED slot, leaves
a FREE one, and raises GUARD at a RESOLVED one. WAITV loads its location and goes on, as an acquire, when every comparand meets its condition, and else waits; the wait loads again, and a wait
that reaches the watchdog limit raises HANG. When a FENCE or BRG samples the earlier accesses follows log 7; the edges recorded follow log 21. -/
def Obligations.FencesGuardsAndWaits : Prop :=
  (∀ (s : State) (v : View) (h : Hdr) (d1 d2 : Dom) (sc : Scope), view? s = some v → (h.u = true → v.ej = false ∧ v.groupOn h = true) →
    let lanes := (if h.u then lanesOf v.mask else v.active h).map (fun l => ({ v.ag with lane := some l }, l))
    let agents : List (AgentRef × Nat) := lanes ++ (if h.u then [({ v.ag with lane := none }, 64)] else [])
    let bind : List (Dom × Dom) → Host.Outcome State Fault Refusal := fun ps => .next (skip (agents.foldl (fun s a => ps.foldl (fun s p => bridge s v.core a.1 v.mask a.2 p.1 p.2 sc) s) s) v 8)
    exec (.brg h d1 sc d2) s = bind [(d1, d2)] ∧ exec (.fence h d1 sc false) s = bind [(d1, d1)] ∧
    exec (.fence h d1 sc true) s = bind (allDoms.map (fun a => (a, a)) ++ allDoms.flatMap (fun a => (allDoms.filter (fun b => b != a)).map (fun b => (a, b))))) ∧
  (∀ (s : State) (v : View) (h : Hdr), GroupRuns s v h →
    (v.g.guard h.d.toNat = .free → exec (.gset h) s = .next (skip s v 8)) ∧
    (∀ b n, v.g.guard h.d.toNat = .resolved b n → exec (.gset h) s = .next (takeTrap s v { cause := .guard, lanes := v.mask })) ∧
    (∀ n, v.g.guard h.d.toNat = .armed n → exec (.gset h) s = .next (skip (pumpAll (s.mapGroup v.ag.blk v.ag.grp (fun g =>
      g.resolve h.d.toNat (h.a = 7 || v.r.qget h.a.toNat))) v.core v.ag.blk v.ag.grp) v 8))) ∧
  (∀ (s : State) (v : View) (h : Hdr) (m : MemMod) (s1 : State), view? s = some v → (h.u = true → v.ej = false) →
    v.within h.u [(h.b, span (m.size == .b8))] = true → v.places h ≠ [] →
    let n := sizeBytes m.size
    let c := lookGlb s v m.dom n true true false false { lane := v.ag.lane, va := v.r.kget h.a.toNat }
    lookedTrap v h m.sc false [c] = none → hostWaits s (spanSecs c.spans) = false → beforeLoad s v.core v.ag v.mask c.dom m.dom (spanSecs c.spans) = some s1 →
    let l : LoadAs := { dom := c.dom, enc := m.dom, sc := m.sc }
    let ld := loadSpans (touchAll s1 v.core v.ctx c.spans false) v.core v.ag v.mask c.spans l
    let met := (v.places h).all (fun l => waitvHolds h.c.toNat (8 * n) (fromBytes ld.2.1) (readReg v.r l h.b (m.size == .b8) % 2 ^ (8 * n)))
    let s3 := afterLoad ld.1 v.core v.ag v.mask l (m.dom != .bulk) ld.2.2
    (met = false → exec (.waitv h m) s = .next (stall (afterLoad ld.1 v.core v.ag v.mask l false ld.2.2) v .waitv)) ∧
    (met = true → exec (.waitv h m) s = .next (skip (match v.run with
      | .waiting _ t => chainEdge s3 v.ctx v.ag ((c.spans.head?).bind (fun sp => noteOfWrite s3 (secOf sp.pa) ld.2.2)) t 4 0 false
      | _ => chainEdge s3 v.ctx v.ag ((c.spans.head?).bind (fun sp => noteOfWrite s3 (secOf sp.pa) ld.2.2)) s.now 4 0 true) v 8))) ∧
  (∀ (s : State) (ag : AgentRef) (v : View) (t : Nat) (w : Word) (h : Hdr) (m : MemMod), viewOf s ag = some v → v.run = .waiting .waitv t → v.g.halted = false → v.bl.stopping = false → v.bl.res = .resident →
    fetch s v.core v.ctx v.r.pc = .word w (some (.waitv h m)) →
    exec (.waitvReevaluation ag) s = .next (stepSettle { (waitvBody { s with word := w } v h m) with word := s.word } v w)) ∧
  (∀ (s : State) (ag : AgentRef) (v : View), viewOf s ag = some v → hangDue s v = true →
    let w := match fetch s v.core v.ctx v.r.pc with | .word w _ => w | .fault _ w _ => w
    let s1 := s.mapGroup ag.blk ag.grp (fun g => { g with threads := g.threads.map (fun t => if some t.lane = ag.lane then { t with hang := 0 } else t) })
    exec (.hangWatchdogExpiry ag) s = .next { (takeTrap { s1 with word := w } v { cause := .hang, lanes := v.mask }) with word := s.word })

end

/-! ### Memory (spec/08_memory_instructions.md R212 to R225, 01_machine.md R25, R26, 06_domains.md R159 to R178) -/

namespace Sys2Proof.Claims

open Sys2Proof.Machine

/-- A local access has nothing to wait for: no gate binds it and none of its needs is open (R166 to R169, R172, R173). -/
abbrev Unheld (s : State) (v : View) (a : Access) (d : Dom) : Prop :=
  loadNeeds s v.core (v.agent a) v.mask d d [] = [] ∧ gatesOf s (v.agent a) v.mask d d = []

/-- The same of a store or atomic, which is no release. -/
abbrev UnheldStore (s : State) (v : View) (a : Access) (d : Dom) : Prop :=
  storeNeeds s v.core (v.agent a) v.mask d d false [] = [] ∧ gatesOf s (v.agent a) v.mask d d = []

/-- A space below an access of `n` bytes: aligned, inside an allocation, and free of poisoned Z elements where it is read. -/
abbrev LocalOk (s : State) (v : View) (sp : Space) (n : Nat) (rd : Bool) (a : Access) (r : Ref) : Prop :=
  a.va.toNat % n = 0 ∧ localRef s v sp a.va n = some r ∧ (rd = true → sp = .zbuf → zPoisoned s r n = false)

/-- The byte at an offset of a block's space. -/
def localByte (s : State) (sp : Space) (b : Nat) (fol : Bool) (off : Nat) : Byte :=
  match tget s.blocks b with
  | none => 0
  | some bl => sget (spaceBytes bl sp fol) off

/-- The bytes of a place. -/
def localBytes (s : State) (sp : Space) (r : Ref) (n : Nat) : List Byte := (List.range n).map (fun i => localByte s sp r.blk r.fol (r.off + i))

/-- The loads of a local space: LD by space, and GLD of L-space, each with its accesses, its register bounds, its domain, size and order. -/
def localLoadForms (m : MemMod) (g : GatMod) : List ((Hdr → Instr) × Space × (View → Hdr → List Access) × (Hdr → List (BitVec 8 × Nat)) × Dom × Scope × Size × Bool) :=
  let ld := fun v h => v.accesses h (sizeBytes m.size)
  let regs := fun h => dataRegs h m.size
  [(fun h => .ldLoc h m, .loc, ld, regs, m.dom, m.sc, m.size, m.ord == .acq), (fun h => .ldNbr h m, .nbr, ld, regs, m.dom, m.sc, m.size, m.ord == .acq),
   (fun h => .ldAbuf h m, .abuf, ld, regs, m.dom, m.sc, m.size, m.ord == .acq), (fun h => .ldZbuf h m, .zbuf, ld, regs, m.dom, m.sc, m.size, m.ord == .acq),
   (fun h => .gldLoc h g, .loc, fun v h => gathers v h g, fun h => gatRegs h g, g.dom, g.sc, g.size, false)]

/-- The stores of a local space. -/
def localStoreForms (m : MemMod) (g : GatMod) : List ((Hdr → Instr) × Space × (View → Hdr → List Access) × (Hdr → List (BitVec 8 × Nat)) × Dom × Scope × Size × Bool) :=
  let st := fun v h => v.accesses h (sizeBytes m.size)
  let regs := fun h => dataRegs h m.size
  [(fun h => .stLoc h m, .loc, st, regs, m.dom, m.sc, m.size, m.ord == .rls), (fun h => .stNbr h m, .nbr, st, regs, m.dom, m.sc, m.size, m.ord == .rls),
   (fun h => .stAbuf h m, .abuf, st, regs, m.dom, m.sc, m.size, m.ord == .rls), (fun h => .stZbuf h m, .zbuf, st, regs, m.dom, m.sc, m.size, m.ord == .rls),
   (fun h => .gstLoc h g, .loc, fun v h => gathers v h g, fun h => gatRegs h g, g.dom, g.sc, g.size, false)]

/-- A byte of a space after writes in turn: the last write that covers it, or what it was (R217). -/
def afterWrites (ws : List (Ref × List Byte)) (b : Nat) (fol : Bool) (off : Nat) (old : Byte) : Byte :=
  ws.foldl (fun x w => if w.1.blk = b ∧ w.1.fol = fol ∧ w.1.off ≤ off ∧ off < w.1.off + w.2.length then w.2.getD (off - w.1.off) 0 else x) old

/-- `t` is `s` with a space written by `ws` and nothing else changed: memory, caches and queues, the other spaces, every group's record but its times; a poisoned Z
element stays poisoned unless one write covers its four bytes (R149). -/
structure Stored (s t : State) (sp : Space) (ws : List (Ref × List Byte)) : Prop where
  device : { t with blocks := s.blocks } = s
  blocks : ∀ b, (tget t.blocks b).isSome = (tget s.blocks b).isSome
  groups : ∀ b g, (t.group? b g).isSome = (s.group? b g).isSome ∧
    ∀ x y, s.group? b g = some x → t.group? b g = some y → { y with doneT := x.doneT } = x
  written : ∀ b fol off, tget s.blocks b ≠ none → localByte t sp b fol off = afterWrites ws b (fol && sp == .zbuf) off (localByte s sp b fol off)
  others : ∀ sp' b fol off, sp' ∈ [Space.loc, .abuf, .zbuf, .wbuf] → sp' ≠ (if sp = .nbr then .loc else sp) → localByte t sp' b fol off = localByte s sp' b fol off
  poison : ∀ x y fol e, tget s.blocks x = some y → ∀ z, tget t.blocks x = some z → (e ∈ zPoison z fol ↔ e ∈ zPoison y fol ∧
    ∀ w ∈ ws, sp = .zbuf → w.1.blk = x → w.1.fol = fol → ¬ (w.1.off ≤ 4 * e ∧ 4 * e + 4 ≤ w.1.off + w.2.length))
  rest : ∀ x y z, tget s.blocks x = some y → tget t.blocks x = some z →
    { z with loc := y.loc, abuf := y.abuf, zbuf := y.zbuf, fz := y.fz, zpoison := y.zpoison, fpoison := y.fpoison, groups := y.groups } = y

/-- `t` is `s` but for the horizons of the cores and the times that the record of the viewed group keeps of its accesses (R178, R179). -/
structure TimesMoved (s t : State) (v : View) : Prop where
  device : { t with blocks := s.blocks, cores := s.cores } = s
  cores : ∀ k, { (t.core k) with hor := (s.core k).hor } = s.core k
  blocks : ∀ b, b ≠ v.ag.blk → tget t.blocks b = tget s.blocks b
  block : ∀ x y, tget s.blocks v.ag.blk = some x → tget t.blocks v.ag.blk = some y → { y with groups := x.groups } = x
  groups : ∀ g, g ≠ v.ag.grp → t.group? v.ag.blk g = s.group? v.ag.blk g
  group : ∀ x y, s.group? v.ag.blk v.ag.grp = some x → t.group? v.ag.blk v.ag.grp = some y → { y with seenT := x.seenT, doneT := x.doneT } = x

/-- The old and the new values of atomics of one L-space location after another: the bytes of a block as a function (R219). -/
def atomicSteps (n : Nat) (wide : Bool) (op : AtOp) (ops : List (Ref × Word × Word)) (f : Nat → Nat → Byte) : (Nat → Nat → Byte) × List Nat :=
  ops.foldl (fun acc x =>
    let old := fromBytes ((List.range n).map (fun i => acc.1 x.1.blk (x.1.off + i)))
    let new := toBytes n (atomOp op wide old x.2.1.toNat x.2.2.toNat)
    (fun b o => if b = x.1.blk ∧ x.1.off ≤ o ∧ o < x.1.off + n then new.getD (o - x.1.off) 0 else acc.1 b o, acc.2 ++ [old])) (f, [])

/-- The instruction that a glb load or store is, with its accesses and bounds. -/
def glbLoadForms (m : MemMod) (g : GatMod) : List ((Hdr → Instr) × (View → Hdr → List Access) × (Hdr → List (BitVec 8 × Nat)) × Dom × Scope × Size × Bool × BitVec 3) :=
  [(fun h => .ldGlb h m, fun v h => v.accesses h (sizeBytes m.size), fun h => dataRegs h m.size, m.dom, m.sc, m.size, m.ord == .acq, m.rp),
   (fun h => .gldGlb h g, fun v h => gathers v h g, fun h => gatRegs h g, g.dom, g.sc, g.size, false, 7)]

/-- The same of stores. -/
def glbStoreForms (m : MemMod) (g : GatMod) : List ((Hdr → Instr) × (View → Hdr → List Access) × (Hdr → List (BitVec 8 × Nat)) × Dom × Scope × Size × Bool) :=
  [(fun h => .stGlb h m, fun v h => v.accesses h (sizeBytes m.size), fun h => dataRegs h m.size, m.dom, m.sc, m.size, m.ord == .rls),
   (fun h => .gstGlb h g, fun v h => gathers v h g, fun h => gatRegs h g, g.dom, g.sc, g.size, false)]

/-- An ejected lane has a slot for the registers that a load of a size writes. -/
abbrev loadSlot (v : View) (h : Hdr) (z : Size) : Prop := v.noSlot ((List.range (sizeRegs z)).map (fun i => RegWrite.v 0 (h.d.toNat + i) 0)) = false

/-- The agent runs a memory instruction: its registers lie within the allocation, and the group-wide form is the group's. -/
def MemRuns (s : State) (v : View) (h : Hdr) (regs : List (BitVec 8 × Nat)) : Prop :=
  view? s = some v ∧ (h.u = true → v.ej = false) ∧ v.within h.u regs = true

/-- R216, R25, R26: a load of L-space, of the neighbour window, of the A-buffer or of the Z-buffer whose accesses are aligned, inside an allocation and not
poisoned completes: the bytes at each access wait in a window of LA instructions, and nothing else changes but the core's horizons and the times that the group's record keeps. An ejected
lane without a slot for the result is recalled first (R306). -/
def LocalLoads : Prop :=
  ∀ (m : MemMod) (g : GatMod), ∀ e ∈ localLoadForms m g, ∀ (s : State) (v : View) (h : Hdr) (ref : Access → Ref),
    let (mk, sp, accs, regs, d, sc, z, acq) := e
    MemRuns s v h (regs h) →
    (accs v h ≠ [] → v.lacks h.d (sizeRegs z) = true → exec (mk h) s = .next (startRecall s v.ag)) ∧
    (loadSlot v h z → ∀ x, lookedTrap v h sc false ((accs v h).map (fun a => (lookLocal s v sp d (sizeBytes z) true a).look)) = some x →
      exec (mk h) s = .next (takeTrap s v x)) ∧
    (loadSlot v h z → (∀ a ∈ accs v h, LocalOk s v sp (sizeBytes z) true a (ref a) ∧ Unheld s v a d) →
    ∃ s1 t, exec (mk h) s = .next t ∧ TimesMoved s s1 v ∧ (acq = false → d ≠ .cau → s1.cores = s.cores) ∧
      FinishesLong s1 t v h ((accs v h).flatMap (fun a => loadWrites a.lane h.d z (localBytes s sp (ref a) (sizeBytes z)))) 0)

/-- R216, R217, R25, R26, R149: a store to one of these spaces completes: each byte holds the last lane's write that covers it, no other byte, register or record
changes, and no byte of memory. -/
def LocalStores : Prop :=
  ∀ (m : MemMod) (g : GatMod), ∀ e ∈ localStoreForms m g, ∀ (s : State) (v : View) (h : Hdr) (ref : Access → Ref),
    let (mk, sp, accs, regs, d, sc, z, rls) := e
    MemRuns s v h (regs h) →
    let cs := (accs v h).map (lookLocal s v sp d (sizeBytes z) false)
    (∀ x, lookedTrap v h sc true (cs.map (fun c => c.look)) = some x → exec (mk h) s = .next (takeTrap s v x)) ∧
    (∀ s1, (∀ c ∈ cs, c.look.cause = none) → localStores s v sp d sc rls (cs.map (fun c => (c, storeBytes v.r c.look.acc.lane h.d z))) = some s1 →
      exec (mk h) s = .next (skip s1 v 8)) ∧
    (rls = false → (∀ a ∈ accs v h, LocalOk s v sp (sizeBytes z) false a (ref a) ∧ UnheldStore s v a d) →
    ∃ s1 t, exec (mk h) s = .next t ∧ Stored s s1 sp ((accs v h).map (fun a => (ref a, storeBytes v.r a.lane h.d z))) ∧ Finishes s1 t v (v.r.pc + 8) [] 0 ∧
      t.mem = s.mem)

/-- R219: atomics of L-space are applied by the active lanes in ascending order; ATOM's old values wait in a window, RED writes no register. -/
def LocalAtomics : Prop :=
  ∀ (s : State) (v : View) (h : Hdr) (m : MemMod) (op : AtOp) (ref : Access → Ref), MemRuns s v h [(h.d, atomRegs m.size op), (h.b, 1)] →
    atOpOf h.c.toNat = some op → m.ord ≠ .rls → m.ord ≠ .ar →
    let n := sizeBytes m.size
    let as_ := v.accessesPlain h
    (∀ a ∈ as_, LocalOk s v .loc n true a (ref a) ∧ (ref a).fol = false ∧ UnheldStore s v a m.dom) →
    let x := atomicSteps n (m.size == .b8) op (as_.map (fun a => (ref a, atomData v.r a.lane h.d m.size op))) (fun b o => localByte s .loc b false o)
    ∃ s1, exec (.redLoc h m) s = .next (skip s1 v 8) ∧
      (v.lacks h.d (sizeRegs m.size) = false → exec (.atomLoc h m) s = .next (finishLong s1 v h ((List.zip as_ x.2).flatMap (fun y => loadWrites y.1.lane h.d m.size (toBytes n y.2))) 0)) ∧
      (∀ b o, tget s.blocks b ≠ none → localByte s1 .loc b false o = x.1 b o) ∧ s1.mem = s.mem

/-- R213, R364: of the causes that the lanes' checks find, the trap has the one of lowest code; it names exactly the lanes that have that cause (in the group-wide
form the path) and the address of the lowest of them. -/
def MemoryTrapChoice : Prop :=
  ∀ (v : View) (h : Hdr) (sc : Scope) (wr : Bool) (cs : List Looked),
    (lookedTrap v h sc wr cs = none ↔ ∀ c ∈ cs, c.cause = none) ∧
    ∀ t, lookedTrap v h sc wr cs = some t →
      (∀ c ∈ cs, ∀ k a n, c.cause = some (k, a, n) → causeCode t.cause ≤ causeCode k) ∧ t.write = wr ∧ t.next = false ∧
      (∃ pre c post n, cs = pre ++ c :: post ∧ c.cause = some (t.cause, t.addr, n) ∧ t.code = n ∧ t.acc = some (c.dom, sc) ∧
        ∀ y ∈ pre, ∀ k a n, y.cause = some (k, a, n) → k ≠ t.cause) ∧
      (h.u = true → t.lanes = v.mask) ∧
      (h.u = false → ∀ l, l < 64 → (t.lanes.getLsbD l = true ↔ ∃ c ∈ cs, c.acc.lane = some l ∧ ∃ a n, c.cause = some (t.cause, a, n)))

/-- R213, R216, R217, R214: a load or a store of glb checks every lane first and traps as R364 says; else LD and GLD put the bytes of every access in a window of LA
instructions, with zero and a set predicate for a page that RP reports as absent, and ST and GST put every lane's bytes in the core's store queues and go on. A load that is performed
later (R165, log 7) keeps its window open until then. An ejected lane without a slot for the result is recalled first (R306). -/
def GlobalLoadsAndStores : Prop :=
  (∀ (m : MemMod) (g : GatMod), ∀ e ∈ glbLoadForms m g, ∀ (s : State) (v : View) (h : Hdr),
    let (mk, accs, regs, d, sc, z, acq, rp) := e
    MemRuns s v h (regs h) →
    (accs v h ≠ [] → v.lacks h.d (sizeRegs z) = true → exec (mk h) s = .next (startRecall s v.ag)) ∧
    ((accs v h ≠ [] → v.lacks h.d (sizeRegs z) = false) →
    let cs := (accs v h).map (lookGlb s v d (sizeBytes z) false true false (rp != 7))
    (∀ t, lookedTrap v h sc false cs = some t → exec (mk h) s = .next (takeTrap s v t)) ∧
    (∀ s1 l, (∀ c ∈ cs, c.cause = none) → performLoads s v d sc acq h.d z cs = some (s1, l) → exec (mk h) s = .next (finishWindow s1 v h (answerWrites h rp z l.out) 0 l.late) ∧
      l.out.map Prod.fst = accs v h ∧ (l.out.map (fun x => x.2.isNone) = cs.map (fun c => c.nres))) ∧
    (v.g.later = [] → s.host.up = true → s.late = [] → s.fab.recs = [] → (s.cores.all (fun c => c.2.sq.isEmpty)) = true → (∀ c ∈ cs, c.cause = none) →
      (∀ a ∈ accs v h, gatesOf s (v.agent a) v.mask d d = []) → (accs v h).length = 1 → performLoads s v d sc acq h.d z cs ≠ none))) ∧
  (∀ (m : MemMod) (g : GatMod), ∀ e ∈ glbStoreForms m g, ∀ (s : State) (v : View) (h : Hdr),
    let (mk, accs, regs, d, sc, z, rls) := e
    MemRuns s v h (regs h) →
    let cs := (accs v h).map (lookGlb s v d (sizeBytes z) false false true false)
    (∀ t, lookedTrap v h sc true cs = some t → exec (mk h) s = .next (takeTrap s v t)) ∧
    ((∀ c ∈ cs, c.cause = none) →
      exec (mk h) s = .next (skip (performStores s v d sc rls (cs.map (fun c => (c, storeBytes v.r c.acc.lane h.d z)))) v 8)))

/-- R176: a store of one access within one sector, which is no release, waits in its domain's queue as the newest entry with its bytes; memory does not change. -/
def StoreEntersItsQueue : Prop :=
  ∀ (s : State) (v : View) (h : Hdr) (m : MemMod) (a : Access) (c : Looked) (sp : Span), MemRuns s v h (dataRegs h m.size) → m.ord ≠ .rls →
    v.accesses h (sizeBytes m.size) = [a] → c = lookGlb s v m.dom (sizeBytes m.size) false false true false a → c.cause = none → c.spans = [sp] → sp.at_ = 0 →
    sp.len = sizeBytes m.size → sp.pa % 32 + sp.len ≤ 32 →
    let s1 := touchAll s v.core v.ctx c.spans true
    ∃ t e, exec (.stGlb h m) s = .next t ∧ (t.core v.core).sq = (s1.core v.core).sq ++ [e] ∧ t.mem = s1.mem ∧
      e.ag = v.agent a ∧ e.dom = c.dom ∧ e.enc = m.dom ∧ e.sc = m.sc ∧ e.sec = sp.pa / 32 ∧ e.kind = sp.page.kind ∧ e.rls = false ∧
      (∀ i, i < 32 → (e.mask.getLsbD i = true ↔ sp.pa % 32 ≤ i ∧ i < sp.pa % 32 + sp.len)) ∧
      (∀ i, i < sp.len → sectorByte e.data (sp.pa % 32 + i) = (storeBytes v.r a.lane h.d m.size).getD i 0)

/-- R38, R176, R427: a window that is used up and answered writes its destinations; a store that nothing before it holds leaves its queue, a BULK store also after 1,024
cycles; an SIV copy held for 65,536 cycles is written back and dropped. Before that these events do not happen. -/
def QueueAndWindowEvents : Prop :=
  (∀ (s : State) (ag : AgentRef) (i : Nat) (v : View) (p : Pend), viewOf s ag = some v → v.r.pend[i]? = some p →
    (p.left = 0 → p.await = [] → p.fails = [] → ∃ t, exec (.longLatencyWriteback ag i) s = .next t ∧
      regsOf t ag = some { (v.r.writes p.writes) with pend := v.r.pend.eraseIdx i }) ∧
    (p.left ≠ 0 ∨ p.await ≠ [] ∨ p.fails ≠ [] → exec (.longLatencyWriteback ag i) s = .next s)) ∧
  (∀ (s : State) (core i : Nat) (d : Dom) (e : StoreEntry), ((s.core core).sq.filter (fun e => e.dom == d))[i]? = some e → ackReady s core e = true →
    exec (.storeAcknowledgement core d i) s = .next (ackEntry s core e)) ∧
  (∀ (s : State) (core i : Nat) (d : Dom) (e : StoreEntry), ((s.core core).sq.filter (fun e => e.dom == d))[i]? = some e → ackReady s core e = false →
    exec (.storeAcknowledgement core d i) s = .next s) ∧
  (∀ (s : State) (core i : Nat) (e : StoreEntry), ((s.core core).sq.filter (fun e => e.dom == .bulk))[i]? = some e →
    (e.vt + 1024 ≤ s.now → ackReady s core e = true → exec (.bulkCombiningTimeout core i) s = .next (ackEntry s core e)) ∧
    (s.now < e.vt + 1024 → exec (.bulkCombiningTimeout core i) s = .next s)) ∧
  (∀ (s : State) (c : CacheRef) (sec : Nat) (x : CSector), cacheGet s c sec = some x → x.mode = .siv →
    (x.fetched + 65536 ≤ s.now → ∃ t, exec (.sivLineAgeOut c sec) s = .next t ∧ (x.sec = sec → cacheGet t c sec = none)) ∧
    (s.now < x.fetched + 65536 → exec (.sivLineAgeOut c sec) s = .next s))

/-- A write that no tracked mapping makes, and that names no object, meets no copy: no protocol is loaded for its piece, or the table's entry writes, sends nothing to other caches and answers with
ACK at most (R189, R192, R200). -/
def MeetsNoCopy (s : State) (r : HeldReq) : Prop :=
  let x := servedPiece s .l2 r
  let d := dirGet s .l2 x.1 x.2
  let e := slotEntry s d.slot d.st 9
  r.tag.obj = 0 ∧ (tget s.protos x.1 = none ∨ (s.net = [] ∧ s.reqs = [] ∧ d.held = [] ∧ setFull s x.2 = false ∧ dirConflicts s .l2 x.2 = [] ∧ dirVictim s (pieceKey x.2) = none ∧ d.acks = 0 ∧
    e.wr = true ∧ e.at_ = false ∧ e.fan = 0 ∧ (e.resp = 0 ∨ e.resp = 4) ∧ e.fwd = 0))

/-- R177, R178, R189: a store to a UNC page that leaves its queue writes its bytes to memory, changes no other byte, clears a full sector's poison and stamps the sector with
the time, as a release with that of the latest write it orders; the entry is gone. -/
def UncachedStoreBecomesVisible : Prop :=
  ∀ (s : State) (core i : Nat) (d : Dom) (e : StoreEntry), ((s.core core).sq.filter (fun e => e.dom == d))[i]? = some e → ackReady s core e = true →
    e.kind.cm = .unc → e.wb = [] → entryOf (s.core core).sq e.ent = [e] →
    MeetsNoCopy s { (bareReq 9 64 e.kind.tag e.sec) with ws := [{ sec := e.sec, data := e.data, mask := e.mask, dom := e.dom }], dom := e.dom } →
    ∃ t, exec (.storeAcknowledgement core d i) s = .next t ∧
      (∀ a, memGet t.mem a = if a / 32 = e.sec ∧ e.mask.getLsbD (a % 32) = true then sectorByte e.data (a % 32) else memGet s.mem a) ∧
      sget t.stamps e.sec = BitVec.ofNat 64 (if e.rls = true ∧ e.enc = .rel then e.rt else s.now) ∧
      (t.core core).sq.map (fun x => x.id) = ((s.core core).sq.filter (fun x => x.id != e.id)).map (fun x => x.id) ∧
      (e.mask = BitVec.allOnes 32 → e.sec ∉ t.poison)

/-- R180, R192, R216: on a UNC page, with no store queued that the agent must find and nothing read ahead, a load of one access returns the bytes that memory holds. -/
def UncachedLoadReadsMemory : Prop :=
  ∀ (s : State) (v : View) (h : Hdr) (m : MemMod) (a : Access) (c : Looked), MemRuns s v h (dataRegs h m.size) →
    v.accesses h (sizeBytes m.size) = [a] → c = lookGlb s v m.dom (sizeBytes m.size) false true false (m.rp != 7) a → c.cause = none → c.nres = false →
    (∀ sp ∈ c.spans, sp.page.kind.cm = .unc) → hostWaits s (spanSecs c.spans) = false →
    v.lacks h.d (sizeRegs m.size) = false → isLater s (v.agent a) = false → (m.ord = .acq → c.dom = m.dom) →
    loadNeeds s v.core (v.agent a) v.mask c.dom m.dom (spanSecs c.spans) = [] → gatesOf s (v.agent a) v.mask c.dom m.dom = [] →
    let s1 := touchAll s v.core v.ctx c.spans false
    (∀ k ∈ spanSecs c.spans, foundStores s1 v.core (v.agent a) v.mask s1.ids k = [] ∧ ∀ x ∈ v.g.ahead, x.sec ≠ k) →
    ∃ t, exec (.ldGlb h m) s = .next (finishLong t v h (answerWrites h m.rp m.size
      [(a, some (c.spans.flatMap (fun sp => (List.range sp.len).map (fun i => memGet s1.mem (sp.pa + i)))))]) 0) ∧ t.mem = s1.mem

/-- R164, R219, R220: an atomic of glb is applied lane by lane at its place and ATOM's old values wait in a window; LR loads and sets each lane's one reservation; SC stores only
under the lane's reservation for the same address and size, which what must be performed before it may clear still, writes 0 or 1 after its data, and clears the reservation. -/
def GlobalAtomicsAndReservations : Prop :=
  (∀ (s : State) (v : View) (h : Hdr) (m : MemMod) (op : AtOp) (s1 : State) (ws : List RegWrite), MemRuns s v h [(h.d, atomRegs m.size op), (h.b, 1)] →
    atOpOf h.c.toNat = some op →
    let acq : Bool := m.ord == .acq || m.ord == .ar
    let rls : Bool := m.ord == .rls || m.ord == .ar
    let cs := (v.accessesPlain h).map (lookGlb s v m.dom (sizeBytes m.size) true true true false)
    (∀ c ∈ cs, c.cause = none) →
    cs.foldlM (fun (st : State × List RegWrite) c => (atomOne st.1 v m.dom m.sc m.size op acq rls (atomData v.r c.acc.lane h.d m.size op).1
      (atomData v.r c.acc.lane h.d m.size op).2 c).map (fun r => (r.1, st.2 ++ loadWrites c.acc.lane h.d m.size (toBytes (sizeBytes m.size) r.2)))) (s, []) = some (s1, ws) →
    exec (.redGlb h m) s = .next (skip s1 v 8) ∧ (v.lacks h.d (sizeRegs m.size) = false → exec (.atomGlb h m) s = .next (finishLong s1 v h ws 0))) ∧
  (∀ (s : State) (v : View) (h : Hdr) (m : MemMod) (l : Nat) (c : Looked) (s1 : State) (bs : List Byte), MemRuns s v h (dataRegs h m.size) → h.u = false →
    v.accesses h (sizeBytes m.size) = [c.acc] → c.acc.lane = some l → c = lookGlb s v m.dom (sizeBytes m.size) true true false false c.acc → c.cause = none →
    v.lacks h.d (sizeRegs m.size) = false → c.spans ≠ [] → lrOne s v m c = some (s1, bs) →
    exec (.lr h m) s = .next (finishLong s1 v h (loadWrites (some l) h.d m.size bs) 0) ∧
      (∀ x, s1.group? v.ag.blk v.ag.grp = some x → ∃ r, x.resv.filter (fun y => y.lane = l) = [r] ∧ r.va = c.acc.va ∧ r.size = m.size)) ∧
  (∀ (s : State) (v : View) (h : Hdr) (m : MemMod) (l : Nat) (c : Looked), MemRuns s v h [(h.d, sizeRegs m.size + 1), (h.b, 1)] → h.u = false →
    v.accesses h (sizeBytes m.size) = [c.acc] → c.acc.lane = some l → c = lookGlb s v m.dom (sizeBytes m.size) true false true false c.acc → c.cause = none →
    v.lacks (h.d + BitVec.ofNat 8 (sizeRegs m.size)) 1 = false → c.spans ≠ [] →
    let clear := fun (s : State) => s.mapGroup v.ag.blk v.ag.grp (fun g => { g with resv := g.resv.filter (fun r => r.lane != l) })
    let status := fun (x : Half) => [RegWrite.v l (h.d.toNat + sizeRegs m.size) x]
    (holdsResv s v l c.acc.va m.size = false → exec (.sc h m) s = .next (finishLong (clear s) v h (status 1) 0)) ∧
    (∀ sp rest s1, c.spans = sp :: rest → holdsResv s v l c.acc.va m.size = true →
      beforeAtomic s v.core (v.agent c.acc) v.mask c.dom m.dom (m.ord == .rls) (lrscScope (pteCm sp.page.pte) m.sc) [secOf sp.pa] = some s1 →
      (holdsResv s1 v l c.acc.va m.size = false → exec (.sc h m) s = .next (finishLong (clear s1) v h (status 1) 0)) ∧
      (∀ r, holdsResv s1 v l c.acc.va m.size = true →
        atomOne s1 v m.dom (lrscScope (pteCm sp.page.pte) m.sc) m.size .exch false (m.ord == .rls) (atomData v.r (some l) h.d m.size .exch).1 0 c = some r →
        exec (.sc h m) s = .next (finishLong (clear r.1) v h (status 0) 0))))

/-- R52, R219: the new value of each operation of an atomic, on its low 32 or 64 bits. -/
def AtomicOperations : Prop :=
  ∀ (wide : Bool) (x d cmp : Nat), let w := if wide then 64 else 32
    x < 2 ^ w → d < 2 ^ w → cmp < 2 ^ w →
    atomOp .add wide x d cmp = (x + d) % 2 ^ w ∧ atomOp .exch wide x d cmp = d ∧ atomOp .umin wide x d cmp = min x d ∧ atomOp .umax wide x d cmp = max x d ∧
    (BitVec.ofNat w (atomOp .smin wide x d cmp)).toInt = min (BitVec.ofNat w x).toInt (BitVec.ofNat w d).toInt ∧
    (BitVec.ofNat w (atomOp .smax wide x d cmp)).toInt = max (BitVec.ofNat w x).toInt (BitVec.ofNat w d).toInt ∧
    atomOp .and wide x d cmp = x &&& d ∧ atomOp .or wide x d cmp = x ||| d ∧ atomOp .xor wide x d cmp = x ^^^ d ∧
    atomOp .cas wide x d x = d ∧ (cmp ≠ x → atomOp .cas wide x d cmp = x)

end Sys2Proof.Claims

section

open Sys2Proof Sys2Proof.Machine Sys2Proof.Claims

/-- Loads, stores and atomics of the local spaces: values, frames and traps: each of its parts holds. That these accesses are performed when issued is the model's (log 7). -/
def Obligations.LocalMemory : Prop :=
  LocalLoads ∧ LocalStores ∧ LocalAtomics

/-- Loads and stores of global memory: the choice of trap, and how they complete: each of its parts holds. When a load is performed is the model's (log 7). -/
def Obligations.GlobalMemory : Prop :=
  MemoryTrapChoice ∧ GlobalLoadsAndStores

/-- A store waits in its queue, leaves it and writes its bytes; a load of a UNC page reads memory; windows and aged lines end as due: each of its parts holds. -/
def Obligations.StoresBecomeVisible : Prop :=
  StoreEntersItsQueue ∧ QueueAndWindowEvents ∧ UncachedStoreBecomesVisible ∧ UncachedLoadReadsMemory

/-- Global atomics, LR and SC, and what each atomic operation computes: each of its parts holds. The order of steps inside one atomic is the model's (log 7). -/
def Obligations.AtomicsAndReservations : Prop :=
  GlobalAtomicsAndReservations ∧ AtomicOperations

/-- R162, R221: MXLD and MXST form their units, check the codes and the scale word of each, and load or store unit by unit, a store of glb as one entry of the queues; the scale word of a unit at `u` lies at
K(A+1) + 2 × ((u − K(A)) div 32). MXLD's codes go to D of the active lanes and its scale bytes to C of lanes 8b and 8b+4. The scale address and the time at which MXST acts follow log 16 and log 7. -/
def Obligations.ScaledBlockMoves : Prop :=
  (∀ (s : State) (v : View) (h : Hdr) (m : MemMod), view? s = some v → v.ej = false → v.within false (mxRegs h) = true →
    let us := (mxUnits v h).map (lookUnit v h (glbLook s v m.dom true false (m.rp != 7)))
    let ul := (mxUnits v h).map (lookUnit v h (fun n a => lookLocal s v .loc m.dom n true a))
    let uw := (mxUnits v h).map (lookUnit v h (glbLook s v m.dom false true false))
    let ux := (mxUnits v h).map (lookUnit v h (fun n a => lookLocal s v .loc m.dom n false a))
    (∀ t, lookedTrap v h m.sc false (us.flatMap (fun x => x.2.2.2)) = some t → exec (.mxldGlb h m) s = .next (takeTrap s v t)) ∧
    (∀ t, lookedTrap v h m.sc false (ul.flatMap (fun x => x.2.2.2)) = some t → exec (.mxldLoc h m) s = .next (takeTrap s v t)) ∧
    (∀ t, lookedTrap v h m.sc true (uw.flatMap (fun x => x.2.2.2)) = some t → exec (.mxstGlb h m) s = .next (takeTrap s v t)) ∧
    (∀ t, lookedTrap v h m.sc true (ux.flatMap (fun x => x.2.2.2)) = some t → exec (.mxstLoc h m) s = .next (takeTrap s v t)) ∧
    (∀ x r, us = [x] → (∀ y ∈ x.2.2.2, y.cause = none) → partUnit s v.ag.blk v.ctx none x.1.u.toNat 32 x.1.sc.toNat 2 = false →
      mxReadGlb v h m s x.1 x.2.1 x.2.2.1 = some r →
      let ws := mxWrites h x.1 (r.2.1.getD ([], [])).1 ((r.2.1.getD ([], [])).2.getD 0 0) ((r.2.1.getD ([], [])).2.getD 1 0)
      exec (.mxldGlb h m) s = .next (finishWindow r.1 v h (ws ++ (if m.rp = 7 then [] else x.1.lanes.map (fun l => .p l m.rp.toNat r.2.1.isNone))) 0 r.2.2)) ∧
    (∀ x, us = [x] → (x.2.1.look.nres = true ∨ x.2.2.1.look.nres = true → mxReadGlb v h m s x.1 x.2.1 x.2.2.1 = some (s, none, [])) ∧
      ∀ a b, x.2.1.look.nres = false → x.2.2.1.look.nres = false → mxParts x.2.1 x.2.2.1 = some (a, b) → hostWaits s [a.1, b.1] = false →
        (∀ l ∈ x.1.lanes, isLater s (v.lane l) = false) → aheadUnit (touchAll s v.core v.ctx (x.2.1.look.spans ++ x.2.2.1.look.spans) false) v.core v.whole a.1 b.1
          { dom := x.2.1.look.dom, enc := m.dom, sc := m.sc } { dom := x.2.2.1.look.dom, enc := m.dom, sc := m.sc } = none →
        (beforeUnit (touchAll s v.core v.ctx (x.2.1.look.spans ++ x.2.2.1.look.spans) false) v.core (x.1.lanes.map v.lane) v.mask
          [x.2.1.look.dom, x.2.2.1.look.dom].eraseDups m.dom [a.1, b.1]).isSome = true →
        ∃ r codes sb, mxReadGlb v h m s x.1 x.2.1 x.2.2.1 = some r ∧ r.2 = (some (codes, sb), []) ∧ codes.length = 32 ∧ sb.length = 2) ∧
    (∀ x, ul = [x] → (∀ y ∈ x.2.2.2, y.cause = none) → partUnit s v.ag.blk v.ctx (some .loc) x.1.u.toNat 32 x.1.sc.toNat 2 = false →
      (∀ l ∈ x.1.lanes, loadNeeds s v.core (v.lane l) v.mask m.dom m.dom [] = [] ∧ gatesOf s (v.lane l) v.mask m.dom m.dom = []) →
      ∃ s1, TimesMoved s s1 v ∧ (m.ord ≠ .acq → m.dom ≠ .cau → s1.cores = s.cores) ∧ exec (.mxldLoc h m) s = .next (finishLong s1 v h (mxWrites h x.1 (localBytes s .loc x.2.1.ref 32)
        ((localBytes s .loc x.2.2.1.ref 2).getD 0 0) ((localBytes s .loc x.2.2.1.ref 2).getD 1 0) ++
          (if m.rp = 7 then [] else x.1.lanes.map (fun l => .p l m.rp.toNat false))) 0)) ∧
    (∀ x, uw = [x] → (∀ y ∈ x.2.2.2, y.cause = none) → ∃ s1, mxWriteGlb v h m s x.1 x.2.1 x.2.2.1 = some s1 ∧ exec (.mxstGlb h m) s = .next (skip s1 v 8) ∧
      ∀ a b, m.ord ≠ .rls → mxParts x.2.1 x.2.2.1 = some (a, b) → ∃ e1 e2,
        (s1.core v.core).sq = ((touchAll s v.core v.ctx (x.2.1.look.spans ++ x.2.2.1.look.spans) true).core v.core).sq ++ [e1, e2] ∧ e1.ent = e2.ent ∧ e1.unit = e2.unit ∧
        e1.sec = a.1 ∧ e1.dom = x.2.1.look.dom ∧ (∀ i, i < 32 → (e1.mask.getLsbD i = true ↔ ∃ l ∈ x.1.lanes, 4 * (l - 8 * x.1.b) ≤ i ∧ i < 4 * (l - 8 * x.1.b) + 4)) ∧
        e2.sec = b.1 ∧ e2.dom = x.2.2.1.look.dom ∧ e2.mask = spanMask b.2.1 2) ∧
    (∀ x s1, ux = [x] → (∀ y ∈ x.2.2.2, y.cause = none) → partUnit s v.ag.blk v.ctx (some .loc) x.1.u.toNat 32 x.1.sc.toNat 2 = false →
      partCopy s v.ag.blk v.ctx (some .loc) x.1.u.toNat 32 x.1.sc.toNat 2 = false →
      x.1.lanes.foldlM (fun s l => beforeAtomic s v.core (v.lane l) v.mask m.dom m.dom (m.ord == .rls) m.sc []) s = some s1 →
      ∃ t, exec (.mxstLoc h m) s = .next t ∧ ∃ s2, Stored s1 s2 .loc (x.1.lanes.map (fun l => ({ x.2.1.ref with off := x.2.1.ref.off + 4 * (l - 8 * x.1.b) },
          toBytes 4 (v.r.vget l h.d.toNat).toNat)) ++ [(x.2.2.1.ref, [(v.r.vget (8 * x.1.b) h.c.toNat).setWidth 8, (v.r.vget (8 * x.1.b + 4) h.c.toNat).setWidth 8])]) ∧
        t = skip s2 v 8)) ∧
  (∀ (v : View) (h : Hdr), ∀ x ∈ mxUnits v h, x.b < 8 ∧ x.lanes = (v.active h).filter (fun l => l / 8 = x.b) ∧ x.lanes ≠ [] ∧
    (∀ l0, x.lanes.head? = some l0 → x.u = v.r.kget h.a.toNat + (v.r.vget l0 h.b.toNat).signExtend 64 - BitVec.ofNat 64 (4 * (l0 - 8 * x.b))) ∧
    x.sc = v.r.kget (h.a.toNat + 1) + 2 * BitVec.ofInt 64 ((x.u - v.r.kget h.a.toNat).toInt / 32) ∧
    (x.ok = true ↔ x.u.toNat % 32 = 0 ∧ (v.r.kget h.a.toNat).toNat % 32 = 0 ∧ (v.r.kget (h.a.toNat + 1)).toNat % 2 = 0 ∧
      ∀ l ∈ x.lanes, v.r.kget h.a.toNat + (v.r.vget l h.b.toNat).signExtend 64 = x.u + BitVec.ofNat 64 (4 * (l - 8 * x.b))))

/-- R222 to R225: PROBE writes whether each address is mapped and readable with RES set, and makes no access; PGIN posts a population request for a page whose RES is clear, has no effect
on another and raises XLAT for one that is not mapped; PFCH brings lines of resident pages in and never traps; WBINV, once the earlier accesses of its domain are acknowledged, writes back and drops the line's copies, has no
effect on a UNC page, and raises XLAT or PERM. -/
def Obligations.ResidencyAndCacheControl : Prop :=
  (∀ (s : State) (v : View) (h : Hdr) (m : MemMod), MemRuns s v h [(h.b, 1)] →
    exec (.probe h m) s = .next (finishLong s v h ((v.accesses h 1).map (fun a => writePred a.lane h.d (probeVa s v a.va))) 0) ∧
    ((∀ a ∈ v.accesses h 1, probeVa s v a.va = false) → exec (.pfch h m) s = .next (skip s v 8)) ∧
    (∀ a p, v.accesses h 1 = [a] → probeVa s v a.va = true → lookup s v.core v.ctx a.va = some p →
      exec (.pfch h m) s = .next (skip (if p.resident s a.va then prefetch (touch s v.core v.ctx p false) v.core p.kind (p.pa a.va) m.na else s) v 8))) ∧
  (∀ (s : State) (v : View) (va : Word), probeVa s v va = true ↔ ∃ p, lookup s v.core v.ctx va = some p ∧ frameCause s v.ctx p va 1 = none ∧ pteRd p.pte = true ∧
    pteRes p.pte = true) ∧
  (∀ (s : State) (v : View) (h : Hdr) (m : MemMod), GroupRuns s v h →
    let va := v.r.kget h.a.toNat + v.r.kget h.b.toNat + h.c.signExtend 64
    (∀ k, translate s v.core v.ctx va = .inl k → exec (.pgin h m) s = .next (takeTrap s v { cause := k, lanes := v.mask, addr := va }) ∧
      exec (.wbinv h m) s = .next (takeTrap s v { cause := k, lanes := v.mask, addr := va, acc := some (m.dom, m.sc) })) ∧
    (∀ p, translate s v.core v.ctx va = .inr p →
      (pteRes p.pte = true → exec (.pgin h m) s = .next (skip s v 8)) ∧
      (pteRes p.pte = false → exec (.pgin h m) s = .next (skip (postPop s v.ctx va 2) v 8)) ∧
      (∀ c, frameCause s v.ctx p va 1 = some c → exec (.wbinv h m) s = .next (takeTrap s v { cause := c, lanes := v.mask, addr := va, acc := some (m.dom, m.sc) })) ∧
      (frameCause s v.ctx p va 1 = none → pteRd p.pte = false →
        exec (.wbinv h m) s = .next (takeTrap s v { cause := .perm, lanes := v.mask, addr := va, acc := some (m.dom, m.sc) })) ∧
      (∀ s1, frameCause s v.ctx p va 1 = none → pteRd p.pte = true → drain s (openIds s v.core v.whole v.mask m.dom) = some s1 →
        exec (.wbinv h m) s = .next (skip (if pteCm p.pte = .unc then s1 else wbinvLine s1 v.core (m.sc != .cls) (p.pa va)) v 8))))

end

/-! ### Block transfers, tiles, objects and matrix commands (spec/08_memory_instructions.md R229 to R250, 05_matrix.md R131 to R158) -/

namespace Sys2Proof.Claims

open Sys2Proof.Machine

/-- The shape words of BT and BTG, K(B) to K(B+3). -/
def shapeWords (v : View) (h : Hdr) : List Word := (List.range 4).map (fun n => v.r.kget (h.b.toNat + n))

/-- BT and BTG. -/
def transfers (m : BtMod) : List ((Hdr → Instr) × Bool) := [(fun h => .bt h m, false), (fun h => .btg h m, true)]

/-- A transfer may be accepted: its shape is legal, the group is the producer, the barrier and the local sides are aligned and allocated, and BTG's key slot is held
(R229 to R231, R233, R237). -/
structure TransferOk (s : State) (v : View) (h : Hdr) (m : BtMod) (btg : Bool) : Prop where
  runs : GroupRuns s v h
  shape : shapeOk (shapeWords v h) = true ∧ (btg = true → (shapeFields (shapeWords v h)).rows * (shapeFields (shapeWords v h)).rb ≤ 65536)
  producer : v.ag.grp = v.pkt.producer
  barrier : (v.r.kget h.c.toNat).toNat % 16 = 0 ∧ (v.r.kget h.c.toNat).toNat + 16 ≤ spaceAlloc v.pkt .loc
  source : localSideCause v.pkt m.dir (shapeFields (shapeWords v h)) (sidesOf m.dir).1 true (v.r.kget h.a.toNat) = none
  target : localSideCause v.pkt m.dir (shapeFields (shapeWords v h)) (sidesOf m.dir).2 false (v.r.kget h.d.toNat) = none
  key : btg = true → holdsKey s v.ctx ((v.r.kget (h.b.toNat + 4)).toNat / 2 ^ 56) = true

/-- The guard slots of a group after a command that names one is accepted (R247). -/
def guardsAfter (g : Group) (named : Bool) (n : Nat) : Option Group :=
  if named then
    match g.guard n with
    | .free => some (g.setGuard n (.armed 1))
    | .armed k => some (g.setGuard n (.armed (k + 1)))
    | .resolved _ _ => none
  else some g

/-- The MMA classes, each with its number. -/
def mmaClasses : List ((Hdr → MmaMod → Instr) × Nat) := [(.mmaF16, 0), (.mmaF8, 1), (.mmaI8, 2), (.mmaN4, 3), (.mmaMx8, 4)]

/-- The command that a matrix instruction of the executing group becomes (R131). -/
def matrixCmd (s : State) (v : View) (k : MKind) (z : Nat) (x : MShape) (f : MCmd → MCmd) : MCmd :=
  f { id := s.ids, blk := v.ag.blk, grp := v.ag.grp, ecsn := (s.core v.core).ecsn, kind := k, z := z, m := x.m, n := x.n, kd := x.k, pitch := x.pitch,
      pr := false, ta := 0, tb := 0, da := 0, db := 0, guard := none, started := false, failed := false, res := [], bytes := [], flags := 0,
      batch := v.g.bctr, seg := v.g.mseg }

/-- The instruction waits at a full queue, and otherwise joins the stream as `c`: the command stands at its end, the group's open batch holds it, the ECSN counter goes up, and
what heads the stream without holding it is dropped (R131, R141, R152). -/
def Accepts (s : State) (v : View) (g : Group) (i : Instr) (c : MCmd) : Prop :=
  (Config.matrixQueue ≤ ((s.core v.core).mtx.filter (fun c => c.kind != .mrdy)).length → exec i s = .next (stallOn s v .queue [2])) ∧
  (((s.core v.core).mtx.filter (fun c => c.kind != .mrdy)).length < Config.matrixQueue →
  ∃ s1, exec i s = .next (skip (pumpMtx s1 v.core v.ag.blk v.ag.grp) v 8) ∧ (s1.core v.core).mtx = (s.core v.core).mtx ++ [c] ∧
    (s1.core v.core).ecsn = (s.core v.core).ecsn + 1 ∧ s1.mem = s.mem ∧
    (∀ x y, s.group? v.ag.blk v.ag.grp = some x → s1.group? v.ag.blk v.ag.grp = some y → y = { x with guards := g.guards, openB := x.openB ++ [c.id] }))

/-- The exact integer product of an element of an MMA in the integer class (R138). -/
def integerDot (bl : Block) (p : Packet) (c : MCmd) (m n : Nat) : Int :=
  let shift := if 128 ≤ n then 0x100000 else 0
  ((List.range c.kd).map (fun k => tileInt (tileDescOf c.da).fmt (tileElem bl p (tileDescOf c.da) 0 m k) *
    tileInt (tileDescOf c.db).fmt (tileElem bl p (tileDescOf c.db) shift (n % 128) k))).sum

/-- R231, R232, R240, R247: BT and BTG, when accepted, put one command at the end of their queue with the operands of their registers and the whole sector count still owed, take
the next ECSN and arm the guard slot that they name; a full queue holds the group. -/
def TransfersAreQueued : Prop :=
  ∀ (m : BtMod), ∀ e ∈ transfers m, ∀ (s : State) (v : View) (h : Hdr) (g1 : Group) (s1 : State), TransferOk s v h m e.2 →
    guardsAfter v.g m.g m.slot.toNat = some g1 →
    let store := storeQueueDir m.dir
    let x := shapeFields (shapeWords v h)
    (16 ≤ (btQueueOf s v.core store).length → exec (e.1 h) s = .next (stallOn s v .queue [if store then 1 else 0])) ∧
    ((btQueueOf s v.core store).length < 16 → beforeTransfer s v m.dom = some s1 →
      ∃ t c, exec (e.1 h) s = .next (skip t v 8) ∧ btQueueOf t v.core store = btQueueOf s1 v.core store ++ [c] ∧ t.mem = s1.mem ∧
        (t.core v.core).ecsn = (s1.core v.core).ecsn + 1 ∧ c.ecsn = (s1.core v.core).ecsn ∧ c.btg = e.2 ∧ c.blk = v.ag.blk ∧ c.grp = v.ag.grp ∧ c.dir = m.dir ∧ c.dom = m.dom ∧
        c.sc = m.sc ∧ c.dst = v.r.kget h.d.toNat ∧ c.src = v.r.kget h.a.toNat ∧ c.shape = shapeWords v h ∧ c.tb = (v.r.kget h.c.toNat).toNat ∧ c.row = 0 ∧
        c.owed = x.n1 * x.n2 * x.n3 * ((x.n0 * 2 ^ x.ebl + 31) / 32) ∧ c.started = false ∧ c.stopped = false ∧ c.guard = (if m.g then some m.slot.toNat else none) ∧
        (m.dir = .peerLoc → c.peer = v.r.kget (h.a.toNat + 1)) ∧ (m.dir = .locPeer → c.peer = v.r.kget (h.d.toNat + 1)) ∧
        (e.2 = true → c.key = v.r.kget (h.b.toNat + 4) ∧ c.tagVa = v.r.kget (h.b.toNat + 5)) ∧
        (∀ y z, s1.group? v.ag.blk v.ag.grp = some y → t.group? v.ag.blk v.ag.grp = some z → z = { y with guards := g1.guards }))

/-- R229, R231, R233, R247: a shape that is not legal raises ILL, another group than the producer STREAM, a misaligned barrier ALIGN with its address, a barrier outside L-space PERM, and a resolved
guard slot GUARD. -/
def TransferTraps : Prop :=
  ∀ (m : BtMod), ∀ e ∈ transfers m, ∀ (s : State) (v : View) (h : Hdr), GroupRuns s v h →
    let ok := shapeOk (shapeWords v h)
    let tb := v.r.kget h.c.toNat
    (ok = false → exec (e.1 h) s = .next (takeTrap s v { cause := .ill, lanes := v.mask })) ∧
    (e.2 = false → ok = true → v.ag.grp ≠ v.pkt.producer → exec (e.1 h) s = .next (takeTrap s v { cause := .stream, lanes := v.mask })) ∧
    (e.2 = false → ok = true → v.ag.grp = v.pkt.producer → tb.toNat % 16 ≠ 0 → exec (e.1 h) s = .next (takeTrap s v { cause := .align, lanes := v.mask, addr := tb })) ∧
    (e.2 = false → ok = true → v.ag.grp = v.pkt.producer → tb.toNat % 16 = 0 → spaceAlloc v.pkt .loc < tb.toNat + 16 →
      localSideCause v.pkt m.dir (shapeFields (shapeWords v h)) (sidesOf m.dir).1 true (v.r.kget h.a.toNat) = none →
      localSideCause v.pkt m.dir (shapeFields (shapeWords v h)) (sidesOf m.dir).2 false (v.r.kget h.d.toNat) = none →
      exec (e.1 h) s = .next (takeTrap s v { cause := .perm, lanes := v.mask, addr := tb })) ∧
    (TransferOk s v h m e.2 → guardsAfter v.g m.g m.slot.toNat = none → exec (e.1 h) s = .next (takeTrap s v { cause := .guard, lanes := v.mask }))

/-- R230: row r of a transfer lies, on its strided side, at the base plus i1·S1 + i2·S2 + i3·S3, and on its dense side at the base plus r times the pitch, modulo 2^64. -/
def TransferRows : Prop :=
  ∀ (c : BtCmd) (src : Bool) (r : Nat), let x := shapeFields c.shape
    1 ≤ x.n1 → 1 ≤ x.n2 → 1 ≤ x.n3 →
    let dense := c.dir = .locGlb ∨ c.dir = .abufGlb ∨ c.dir = .zbufGlb ∨ c.dir = .locPeer
    let base := if src then c.src else c.dst
    ((if src then ¬ dense else dense) → ∀ i1 i2 i3, i1 < x.n1 → i2 < x.n2 → i3 < x.n3 → r = i1 + x.n1 * (i2 + x.n2 * i3) →
      (rowVa c src r).toNat = (base.toNat + i1 * x.s1 + i2 * x.s2 + i3 * x.s3) % 2 ^ 64) ∧
    ((if src then dense else ¬ dense) → (rowVa c src r).toNat = (base.toNat + r * (if x.dp = 0 then x.n0 * 2 ^ x.ebl else x.dp)) % 2 ^ 64)

/-- R232, R234, R235, R237, R246, R291: of the commands of blocks that are not about to be pre-empted that head their blocks' queues with a true guard and no DRAINING tile over their target, the one whose block is next starts when fewer than two
run; a started command checks its next row, stops at it with the trap of highest priority, fails with a status, or moves its bytes and subtracts its sectors. A row moved from L-space to the
A-buffer puts exactly its bytes there. -/
def TransferProgress : Prop :=
  (∀ (s : State) (core i : Nat) (store : Bool) (c : BtCmd), (btQueueOf s core store)[i]? = some c →
    let running := ((btQueueOf s core store).filter (fun x => x.started && !x.stopped && x.popWait.isNone)).length
    let free := c.guard = none ∨ ∃ n, c.guard = some n ∧ guardValue s c.blk c.grp n = some true
    let s0 := mapBt (btTurn (leaveGuard s c.blk c.grp c.guard) core store c.blk) core store c.id (fun x => { x with started := true, guard := none, ctrOk := c.btg })
    let s1 := pumpBt s0 core c.blk store
    (btNext s core store = some c → (stoppingBlock s c.blk = false ∧ btHead s core c.blk store = some c ∧ running < 2 ∧ free ∧ drainHeld s core c = false) ∧
      (c.btg = false ∨ c.ctrOk = true → exec (.btCommandStart core store i) s = .next s1) ∧
      (∀ bl, tget s.blocks c.blk = some bl → c.btg = true → c.ctrOk = false →
        let key := bl.ctx * 64 + c.key.toNat / 2 ^ 56
        let ctr := c.key.toNat % 2 ^ 56
        (((tget s.ctrs key).getD 0 < ctr) → exec (.btCommandStart core store i) s = .next { s1 with ctrs := tset s1.ctrs key ctr }) ∧
        (ctr ≤ (tget s.ctrs key).getD 0 → exec (.btCommandStart core store i) s = .next (btFail s1 core store { c with started := true, guard := none } 2)))) ∧
    (stoppingBlock s c.blk = false → btHead s core c.blk store = some c → running < 2 → free → drainHeld s core c = false → (∀ x ∈ btQueueOf s core store, btCan s core store x = true → x = c) →
      btNext s core store = some c) ∧
    (btNext s core store ≠ some c → exec (.btCommandStart core store i) s = .next s)) ∧
  (∀ (s : State) (core i : Nat) (store : Bool) (c : BtCmd) (bl : Block), (btQueueOf s core store)[i]? = some c → tget s.blocks c.blk = some bl → c.started = true → c.stopped = false →
    c.popWait = none → c.btg = false → bl.stopping = false →
    let p := packetOf s bl
    let n := (shapeFields c.shape).rb
    let a := rowSide s core bl p c true n
    let b := rowSide s core bl p c false n
    sideWaits s a = false → sideWaits s b = false →
    (∀ k va d, sideTrap a b = some (k, va, d) → exec (.btRowWrite core store i) s = .next (btStop s core store bl.ctx c k va d)) ∧
    (∀ st, sideTrap a b = none → sideFail a b = some st → exec (.btRowWrite core store i) s = .next (btFail s core store c st)) ∧
    (sideTrap a b = none → sideFail a b = none → peerDir c.dir = false →
      exec (.btRowWrite core store i) s = .next (btRowDone (rowWrite (rowRead s core c n a).1 core c b (rowRead s core c n a).2) core store c)) ∧
    (c.dir = .locAbuf → ∀ x y, a = .here x → b = .here y → ∃ t, exec (.btRowWrite core store i) s = .next t ∧ t.mem = s.mem ∧
      ∀ off, localByte t .abuf c.blk false off = if y.off ≤ off ∧ off < y.off + n then localByte s .loc c.blk false (x.off + (off - y.off)) else localByte s .abuf c.blk false off))

/-- R242 to R246: TILE writes the entry with its description, its barrier and the phase that fills it, and leaves it FILLING, unless it is DRAINING; another block's entry is PERM, another group STREAM, a
description that is not legal ILL. TILEQ reads an entry's state, phase and barrier. -/
def TileTable : Prop :=
  ∀ (s : State) (v : View) (h : Hdr), GroupRuns s v h →
    let w := v.r.kget h.a.toNat
    let tb := v.r.kget h.b.toNat
    let t := tileOf s v.core h.d.toNat
    let q := tileOf s v.core h.a.toNat
    (tileDescOk w = false → exec (.tile h) s = .next (takeTrap s v { cause := .ill, lanes := v.mask })) ∧
    (tileDescOk w = true → v.ag.grp ≠ v.pkt.producer → exec (.tile h) s = .next (takeTrap s v { cause := .stream, lanes := v.mask })) ∧
    (tileDescOk w = true → v.ag.grp = v.pkt.producer → tb.toNat % 16 ≠ 0 → exec (.tile h) s = .next (takeTrap s v { cause := .align, lanes := v.mask, addr := tb })) ∧
    (tileDescOk w = true → v.ag.grp = v.pkt.producer → tb.toNat % 16 = 0 → tileFits v.pkt (tileDescOf w) = true → tb.toNat + 16 ≤ spaceAlloc v.pkt .loc →
      (t.blk = none ∨ t.blk = some v.ag.blk) →
      (t.st = .draining → exec (.tile h) s = .next (stallOn s v .tile [h.d.toNat])) ∧
      (t.st ≠ .draining → ∃ s1, exec (.tile h) s = .next (skip s1 v 8) ∧ s1.mem = s.mem ∧
        tileOf s1 v.core h.d.toNat = { blk := some v.ag.blk, desc := w, tb := tb.toNat, phi := ((getTb s v.ag.blk tb.toNat).phase + 1) % 16, st := .filling, users := 0 } ∧
        ∀ i, i ≠ h.d.toNat → tileOf s1 v.core i = tileOf s v.core i)) ∧
    (∀ b, q.blk = some b → b ≠ v.ag.blk → exec (.tileq h) s = .next (takeTrap s v { cause := .perm, lanes := v.mask })) ∧
    (q.blk = none ∨ q.blk = some v.ag.blk → exec (.tileq h) s = .next (finishLong s v h
      [.k h.d.toNat (BitVec.ofNat 64 ((match q.st with | .empty => 0 | .filling => 1 | .ready => 2 | .draining => 3) + 16 * (q.phi % 16) + 2 ^ 32 * (q.tb % 2 ^ 19)))] 0))

/-- R249, R250: OBJDCL with a legal shape, aligned, mapped and permitted, takes the lowest free index, evicts what is tracked of the range, writes the object's record to the table and its index into the PTEs, and writes the index to its destination, or 0 when
none is free; OBJREL does the same with index 0, frees the index of an object of its context, and raises PERM for any other. -/
def CoherenceObjects : Prop :=
  (∀ (s : State) (v : View) (h : Hdr) (slot : BitVec 3) (ps : List Page), GroupRuns s v h →
    let base := v.r.kget h.a.toNat
    let n := (v.r.kget h.b.toNat).toNat
    let w0 := v.r.kget h.c.toNat
    let w1 := v.r.kget (h.c.toNat + 1)
    (objShapeOk w0 w1 = false ∨ n = 0 → exec (.objdcl h slot) s = .next (takeTrap s v { cause := .ill, lanes := v.mask })) ∧
    (objShapeOk w0 w1 = true → n ≠ 0 → base.toNat % 65536 ≠ 0 ∨ n % 65536 ≠ 0 → exec (.objdcl h slot) s = .next (takeTrap s v { cause := .align, lanes := v.mask, addr := base })) ∧
    (objShapeOk w0 w1 = true → n ≠ 0 → base.toNat % 65536 = 0 → n % 65536 = 0 → splitsPage s v.ctx base n = false →
      (∀ va, rangeGap s v.ctx base n = some va → exec (.objdcl h slot) s = .next (takeTrap s v { cause := .xlat, lanes := v.mask, addr := va })) ∧
      (rangePages s v.ctx base n = ps → rangeGap s v.ctx base n = none → (∀ p ∈ ps, frameCause s v.ctx p (BitVec.ofNat 64 p.va) (pageBytes p.big) = none) →
      slotAllowed s v.ctx slot.toNat = true → objOverlap s v.ctx base n = false →
      (freeObject s v.ctx = none → exec (.objdcl h slot) s = .next (finish s v 8 [.k h.d.toNat 0] 0)) ∧
      (∀ i, freeObject s v.ctx = some i → ∃ s1 o, exec (.objdcl h slot) s = .next (finish s1 v 8 [.k h.d.toNat (BitVec.ofNat 64 i)] 0) ∧
        o.base = base ∧ o.extent = n ∧
        let s0 := purgeFrames s (rangeFrames ps) none
        let s2 := physPutFor s0 v.ctx (((tget s0.ctxs v.ctx).map (fun c => c.objtab)).getD 0 + 16 * i) (toBytes 8 w0.toNat ++ toBytes 8 (w1.toNat % 2 ^ 40 + 2 ^ 40 * slot.toNat))
        s1 = stampObject { s2 with objs := tset s2.objs (4096 * v.ctx + i) o } v.ctx ps i)))) ∧
  (∀ (w0 w1 : Word) (slot : BitVec 3), objShapeOk w0 w1 = true →
    tileShapeOf w0 (BitVec.ofNat 64 (w1.toNat % 2 ^ 40 + 2 ^ 40 * slot.toNat)) =
      { rows := w0.toNat % 2 ^ 16, cols := w0.toNat / 2 ^ 16 % 2 ^ 16, ebl := w0.toNat / 2 ^ 32 % 8, stride := w1.toNat % 2 ^ 40, slot := slot.toNat }) ∧
  (∀ (s : State) (ctx i : Nat), freeObject s ctx = some i → 1 ≤ i ∧ i < 4096 ∧ tget s.objs (4096 * ctx + i) = none ∧ ∀ j, 1 ≤ j → j < i → tget s.objs (4096 * ctx + j) ≠ none) ∧
  (∀ (s : State) (v : View) (h : Hdr), GroupRuns s v h → let i := (v.r.kget h.a.toNat).toNat
    (i = 0 ∨ 4096 ≤ i ∨ tget s.objs (4096 * v.ctx + i) = none → exec (.objrel h) s = .next (takeTrap s v { cause := .perm, lanes := v.mask })) ∧
    (∀ o, 1 ≤ i → i < 4096 → tget s.objs (4096 * v.ctx + i) = some o →
      let ps := rangePages s v.ctx o.base o.extent
      let s1 := stampObject (purgeFrames s (rangeFrames ps) (some { ctx := v.ctx, obj := i })) v.ctx ps 0
      ∃ s2, exec (.objrel h) s = .next (skip s2 v 8) ∧ s2 = { s1 with objs := terase s1.objs (4096 * v.ctx + i) } ∧ tget s2.objs (4096 * v.ctx + i) = none))

/-- R131, R134, R135, R140, R153: each MMA whose tiles, shape and Z region pass joins its group's stream with the descriptions that its tiles have now. Its traps are ILL, ALIGN, PERM and GUARD as stated. -/
def MatrixMultiplyIssue : Prop :=
  ∀ e ∈ mmaClasses, ∀ (s : State) (v : View) (h : Hdr) (m : MmaMod), GroupRuns s v h →
    let x := mshapeOf (v.r.kget h.c.toNat)
    let z := v.r.kget h.d.toNat
    let ta := tileOf s v.core h.a.toNat
    let tb := tileOf s v.core h.b.toNat
    let f := mmaPair e.2 m.fmt.toNat
    let legal := (m.pr = true → v.pkt.pair = true) ∧ x.ok (if m.pr then 256 else 128) = true ∧ x.k ≠ 0 ∧ tileIs ta false f.1 = true ∧ tileIs tb true f.2 = true
    let fits := zFits v.pkt z.toNat x = true ∧ x.m ≤ (tileDescOf ta.desc).rows ∧ x.k ≤ (tileDescOf ta.desc).cols ∧ x.half ≤ (tileDescOf tb.desc).rows ∧ x.k ≤ (tileDescOf tb.desc).cols ∧
      folFits v.pkt (tileDescOf tb.desc) (x.n - x.half) = true ∧ ta.foreign v.ag.blk = false ∧ tb.foreign v.ag.blk = false
    (¬ legal → exec (e.1 h m) s = .next (takeTrap s v { cause := .ill, lanes := v.mask })) ∧
    (legal → z.toNat % 4 ≠ 0 → exec (e.1 h m) s = .next (takeTrap s v { cause := .align, lanes := v.mask, addr := z })) ∧
    (legal → z.toNat % 4 = 0 → ¬ fits → exec (e.1 h m) s = .next (takeTrap s v { cause := .perm, lanes := v.mask })) ∧
    (legal → z.toNat % 4 = 0 → fits → guardsAfter v.g m.g m.slot.toNat = none → exec (e.1 h m) s = .next (takeTrap s v { cause := .guard, lanes := v.mask })) ∧
    (∀ g1, legal → z.toNat % 4 = 0 → fits → guardsAfter v.g m.g m.slot.toNat = some g1 →
      Accepts s v g1 (e.1 h m) (matrixCmd s v (.mma m.zi f.1 f.2) z.toNat x (fun c =>
        { c with pr := m.pr, ta := h.a.toNat, tb := h.b.toNat, da := ta.desc, db := tb.desc, guard := if m.g then some m.slot.toNat else none })))

/-- R131, R143, R154, R155, R158: MZERO and MQNT join the stream as MMA does, and MRDY puts its marker there, joining no batch. -/
def MatrixOtherCommands : Prop :=
  ∀ (s : State) (v : View) (h : Hdr) (df : Fmt), GroupRuns s v h →
    (let x := mshapeOf (v.r.kget h.c.toNat)
     let z := v.r.kget h.d.toNat
     x.ok (if v.pkt.pair then 256 else 128) = true → z.toNat % 4 = 0 → zFits v.pkt z.toNat x = true → Accepts s v v.g (.mzero h) (matrixCmd s v .mzero z.toNat x id)) ∧
    (let w := v.r.kget h.c.toNat
     let x : MShape := { mshapeOf w with k := 0 }
     let z := v.r.kget h.a.toNat
     let tile := tileOf s v.core h.d.toNat
     let d := tileDescOf tile.desc
     x.ok 128 = true → w.toNat / 2 ^ 35 % 2 ^ 13 = 0 → (df ≠ .n4 → w.toNat / 2 ^ 32 % 8 = 0) → tile.st ≠ .empty → d.fmt = (match df with | .e4m3 => 7 | .e5m2 => 8 | _ => 6) → z.toNat % 4 = 0 →
     (sideOf v.pkt .zbuf z.toNat (((x.m - 1) * x.pitch + (x.half - 1)) * 4 + 4)).isSome = true → x.m ≤ d.rows → 32 * ((x.n + 31) / 32) ≤ d.cols → tile.foreign v.ag.blk = false →
     Accepts s v v.g (.mqnt h df) (matrixCmd s v (.mqnt df (w.toNat / 2 ^ 32 % 4) (w.getLsbD 34)) z.toNat x (fun c => { c with tb := h.d.toNat, db := tile.desc }))) ∧
    (∃ s1, exec (.mrdy h) s = .next (skip (pumpMtx s1 v.core v.ag.blk v.ag.grp) v 8) ∧ s1.mem = s.mem ∧
      (s1.core v.core).mtx = (s.core v.core).mtx ++ [matrixCmd s v .mrdy 0 { m := 0, n := 0, k := 0, zp := 0 } id] ∧
      (∀ x y, s.group? v.ag.blk v.ag.grp = some x → s1.group? v.ag.blk v.ag.grp = some y → y = { x with mseg := x.mseg + 1 }))

/-- R141, R142, R150, R156, R157: MBATCH closes the open batch and writes its number, or waits while 16 batches are closed; MWAIT goes on, as an acquire, when its batch has retired, waits while it has not, raises BATCH for
a failure that is due, and ILL for a number that no closed batch can have. -/
def MatrixBatches : Prop :=
  (∀ (s : State) (v : View) (h : Hdr), GroupRuns s v h →
    (16 ≤ v.g.closed.length → exec (.mbatch h) s = .next (stallOn s v .mbatch [])) ∧
    (v.g.closed.length < 16 → exec (.mbatch h) s =
      .next (finish (retireBatches (s.mapGroup v.ag.blk v.ag.grp Group.closeBatch) v.ag.blk v.ag.grp 32) v 8 [.k h.d.toNat (BitVec.ofNat 64 v.g.bctr)] 0)) ∧
    (let n := (v.r.kget h.a.toNat).toNat % 65536
     let d := (v.g.bctr + 65536 - n) % 65536
     (d = 0 ∨ 32768 < d → exec (.mwait h) s = .next (takeTrap s v { cause := .ill, lanes := v.mask })) ∧
     (d ≠ 0 → d ≤ 16 → v.g.closed.any (fun b => b.num == n) = true → exec (.mwait h) s = .next (stallOn s v .mwait [n])) ∧
     (d ≠ 0 → d ≤ 32768 → (v.g.closed.any (fun b => b.num == n) = false ∨ 16 < d) →
       (∀ f, batchFailDue v.g d = some f → v.r.awaiting = true → exec (.mwait h) s = .next (stall s v .remote)) ∧
       (∀ f, batchFailDue v.g d = some f → v.r.awaiting = false → exec (.mwait h) s =
         .next (takeTrap (s.mapGroup v.ag.blk v.ag.grp (fun g => g.reported f)) v { cause := .batch, lanes := v.mask, addr := BitVec.ofNat 64 f.z, ecsn := f.ecsn })) ∧
       (batchFailDue v.g d = none → exec (.mwait h) s =
         .next (skip (edgeAfterWait (acquireAll s v.core) v v.whole (tget v.g.bnotes n) 5 n) v 8))))) ∧
  (∀ g : Group, let c := g.closeBatch
    c.closed = g.closed ++ [{ num := g.bctr, cmds := g.openB }] ∧ c.openB = [] ∧ c.bctr = (g.bctr + 1) % 65536 ∧ ∀ f ∈ c.bfails, f.num ≠ none)

/-- R131, R136, R138: the engine starts the ready head that is next in its rotation, computes it from the buffers as they are, and puts an MMA's tiles in DRAINING; a started command completes with its results, flags, tiles
and batch. Until it is started it does not complete. -/
def MatrixEngineEvents : Prop :=
  ∀ (s : State) (core i : Nat) (c : MCmd), (s.core core).mtx[i]? = some c →
    (mtxNext s core = some c → ∃ s1, exec (.matrixCommandStart core i) s = .next (pumpMtx (leaveGuard s1 c.blk c.grp c.guard) core c.blk c.grp) ∧
      (s1.core core).mtx = (s.core core).mtx.map (fun x => if x.id = c.id then { runCmd s c with started := true } else x) ∧
      (∀ zi fa fb, c.kind = .mma zi fa fb → (tileOf s1 core c.ta).st = .draining ∧ (tileOf s1 core c.tb).st = .draining)) ∧
    (mtxNext s core ≠ some c → exec (.matrixCommandStart core i) s = .next s) ∧
    (c.started = true → exec (.matrixCommandComplete core i) s = .next (finishCmd s core c)) ∧
    (c.started = false → exec (.matrixCommandComplete core i) s = .next s)

/-- The half and the byte offset of element (i, j) of a command's Z region (R135, R139). -/
def zPlace (c : MCmd) (i j : Nat) : Bool × Nat := (decide (128 ≤ j), c.z + (i * c.pitch + j % 128) * 4)

/-- R138, R148, R154, R158: what a command computes when it starts. MZERO: a zero for every element of its region. MMA: for every element the sum of products over all K that starts from zero (zi) or from the element as it
is; with a poisoned start value it fails. MQNT: for every block of 32 elements of a row the codes and the scale byte of the block; with a poisoned source it fails and writes zeros. -/
def MatrixCommandResults : Prop :=
  ∀ (s : State) (c : MCmd) (bl : Block) (g : Group), tget s.blocks c.blk = some bl → s.group? c.blk c.grp = some g →
    let p := packetOf s bl
    let r := runCmd s c
    let poisoned := zHasPoison bl (cmdZ p c)
    (c.kind = .mzero → r.failed = c.failed ∧ ∀ x, x ∈ r.res ↔ ∃ i j, i < c.m ∧ j < c.n ∧ x = ((zPlace c i j).1, (zPlace c i j).2, 0)) ∧
    (∀ zi fa fb, c.kind = .mma zi fa fb →
      (zi = false → poisoned = true → r.failed = true) ∧
      (zi = true ∨ poisoned = false → r.failed = c.failed ∧ ∀ x, x ∈ r.res ↔ ∃ i j, i < c.m ∧ j < c.n ∧ x = ((zPlace c i j).1, (zPlace c i j).2,
        BitVec.ofNat 32 (mmaElem bl p c (if zi then 0 else startValue g bl c (zPlace c i j).1 (zPlace c i j).2) i j).1))) ∧
    (∀ df t auto, c.kind = .mqnt df t auto → r.failed = poisoned ∧ (poisoned = true → ∀ x ∈ r.bytes, x.2.2 = 0) ∧
      (poisoned = false → ∀ i q, i < c.m → 32 * q < c.n →
        let d := tileDescOf c.db
        let xs := (List.range (min 32 (c.n - 32 * q))).map (fun k => let e := (sideOf p .zbuf (zPlace c i (32 * q + k)).2 4).getD (false, 0); startValue g bl c e.1 e.2)
        let b := mqntBlock df t auto xs
        (∀ k x y, (codeBytes df b.1)[k]? = some x → sideOf p d.space (d.base + i * d.pitch + 32 * q * d.width / 8 + k) 1 = some y → (y.1, y.2, BitVec.ofNat 8 x) ∈ r.bytes) ∧
        (∀ y, sideOf p d.space (d.soff + i * d.scaleCols + q) 1 = some y → (y.1, y.2, BitVec.ofNat 8 b.2.1) ∈ r.bytes)))

/-- R138, R148, R149, R158: what stands in the buffers when a started command has completed. Its elements hold its results and no other byte of the Z-buffer changes; MZERO and MMA.zi clear the poison of what they write. The
bytes of an MQNT stand in its tile. A failed MMA leaves the Z bytes and poisons its region. The flags of a command that did not fail are raised in the group's FPF. -/
def MatrixResultsStand : Prop :=
  ∀ (s : State) (core i : Nat) (c : MCmd) (bl : Block) (g : Group), (s.core core).mtx[i]? = some c → c.started = true → tget s.blocks c.blk = some bl → s.group? c.blk c.grp = some g →
    ∃ t bl1 g1, exec (.matrixCommandComplete core i) s = .next t ∧ tget t.blocks c.blk = some bl1 ∧ t.group? c.blk c.grp = some g1 ∧
      g1.r.fpf = fpfRaise g.r.fpf (if c.failed then 0 else c.flags) ∧
      (let quant := ∃ df t auto, c.kind = .mqnt df t auto
       let clears := c.kind = .mzero ∨ ∃ fa fb, c.kind = .mma true fa fb
       let sp := (tileDescOf c.db).space
       (c.failed = false ∨ quant →
         (c.res.Pairwise (fun a b => a.1 ≠ b.1 ∨ a.2.1 + 4 ≤ b.2.1 ∨ b.2.1 + 4 ≤ a.2.1) → ∀ r ∈ c.res, getNum (spaceBytes bl1 .zbuf r.1) r.2.1 4 = r.2.2.toNat) ∧
         (∀ f o, (∀ r ∈ c.res, r.1 = f → o < r.2.1 ∨ r.2.1 + 4 ≤ o) → sget (spaceBytes bl1 .zbuf f) o = sget (spaceBytes bl .zbuf f) o) ∧
         (∀ f k, k ∈ zPoison bl1 f ↔ k ∈ zPoison bl f ∧ ¬ (clears ∧ ∃ r ∈ c.res, r.1 = f ∧ r.2.1 / 4 = k)) ∧
         ((c.bytes.map (fun r => (r.1, r.2.1))).Nodup → (sp ≠ .wbuf → ∀ r ∈ c.bytes, r.1 = false) → ∀ r ∈ c.bytes, sget (spaceBytes bl1 sp r.1) r.2.1 = r.2.2)) ∧
       (c.failed = true → ¬ quant → (∀ f, spaceBytes bl1 .zbuf f = spaceBytes bl .zbuf f) ∧
         (∀ f k, k ∈ zPoison bl1 f ↔ k ∈ zPoison bl f ∨ ∃ x y, x < c.m ∧ y < c.n ∧ f = (zPlace c x y).1 ∧ k = (zPlace c x y).2 / 4)))

end Sys2Proof.Claims

section

open Sys2Proof Sys2Proof.Machine Sys2Proof.Claims

/-- BT and BTG: the command queued, the guard armed, and where they trap: each of its parts holds. -/
def Obligations.BlockTransferIssue : Prop :=
  TransfersAreQueued ∧ TransferTraps

/-- Where the rows of a transfer lie, and how a transfer starts, moves rows, stops and fails: each of its parts holds. -/
def Obligations.BlockTransferRows : Prop :=
  TransferRows ∧ TransferProgress

/-- TILE, TILEQ, OBJDCL and OBJREL: the tile table and the object table: each of its parts holds. The order of the checks of OBJDCL follows log 24. -/
def Obligations.TilesAndObjects : Prop :=
  TileTable ∧ CoherenceObjects

/-- MMA, MZERO, MQNT and MRDY: the command that joins the stream, and where MMA traps: each of its parts holds. The MRDY marker in the stream is the model's (log 19). -/
def Obligations.MatrixIssue : Prop :=
  MatrixMultiplyIssue ∧ MatrixOtherCommands

/-- MBATCH and MWAIT, how the matrix engine starts and completes its commands, what a command computes and what it leaves in the buffers: each of its parts holds. That results are computed at the start and written at completion, and when tiles leave DRAINING, are the model's (log 19). -/
def Obligations.MatrixCompletion : Prop :=
  MatrixBatches ∧ MatrixEngineEvents ∧ MatrixCommandResults ∧ MatrixResultsStand

/-- R138: an element of an MMA of the integer class is its start value plus the exact sum of products over all K, modulo 2^32, whatever the chunks, and raises no flag. -/
def Obligations.IntegerMatrixProduct : Prop :=
  ∀ (bl : Block) (p : Packet) (c : MCmd) (acc m n : Nat), ((tileDescOf c.da).fmt = 4 ∨ (tileDescOf c.da).fmt = 5) → acc < 2 ^ 32 →
    mmaElem bl p c acc m n = (((BitVec.ofInt 32 ((acc : Int) + integerDot bl p c m n)).toNat), 0)

end

/-! ### The fabric (spec/09_fabric.md R251 to R273) -/

namespace Sys2Proof.Claims

open Sys2Proof.Machine

/-- The remote instructions: each with its operation, whether neighbouring lanes join in runs, its data registers and each lane's data (R265 to R267). -/
def remoteForms (m : FabMod) : List ((Hdr → Instr) × FOp × Bool × Nat × (View → Hdr → Nat → List Byte)) :=
  let stored := fun (v : View) (h : Hdr) l => storeBytes v.r (some l) h.d m.size
  [(fun h => .rmld h m, .load, false, sizeRegs m.size, fun _ _ _ => []), (fun h => .rmst h m, .store, false, sizeRegs m.size, stored),
   (fun h => .xch h m, .put, true, sizeRegs m.size, stored),
   (fun h => .rmat h m, .atomic, false, atomRegs m.size m.op, fun v h l =>
     let a := atomData v.r (some l) h.d m.size m.op
     if m.op == .cas then toBytes (sizeBytes m.size) a.2.toNat ++ toBytes (sizeBytes m.size) a.1.toNat else toBytes (sizeBytes m.size) a.1.toNat)]

/-- The access of a lane: the peer that A names, the window offset, its data (R264). -/
def remoteAccess (v : View) (h : Hdr) (data : List Byte) (l : Nat) : RemLane :=
  { lane := l, peer := (v.r.vget l h.a.toNat).toNat % 1024, off := (v.r.kget h.c.toNat).toNat / 2 ^ 32 * 65536 + (v.r.vget l h.b.toNat).toNat, data := data, exp := none }

/-- A remote instruction that is numbered `n` and has built its passes: they are recorded, its window awaits them all (RMST has none), and as many as have room are sent. -/
def remoteIssued (s1 s2 : State) (v : View) (h : Hdr) (m : FabMod) (op : FOp) (lanes : List Nat) (rs : List RemReq) (word : Word) (bad : List RemFail) : State :=
  let s3 := s2.mapCore v.core (fun c => { c with ecsn := (s1.core v.core).ecsn + 1 })
  let win : List Pend := if op == .store then [] else
    [{ left := h.la.toNat, pc := v.r.pc, iword := word, ecsn := ecsnWord (s1.core v.core).ecsn, writes := placeHolders op h m.size lanes,
       await := rs.map (fun r => r.id), fails := bad, acq := none }]
  sendPasses (finishAt { s3 with fab := { s3.fab with recs := s3.fab.recs ++ rs } } v (v.r.pc + 8) [] 0 win) v.ag rs.length

/-- The arriving flits: the event of each, its operation and what the target does with the packet (R260, R261, R263). -/
def arrivals (f : Nat) (fl : Flit) : List (Instr × FOp × (State → Flit → State)) :=
  let serve := fun (s : State) (x : Flit) => let r := serveItems s x; answerTo r.1 x r.2
  let answer := fun (s : State) (x : Flit) => applyAnswer s x.req x.items
  [(.loadRequest f fl, .load, serve), (.flitStore f fl, .store, serve), (.flitAtomic f fl, .atomic, serve), (.flitPut f fl, .put, serve),
   (.blockTransferReadRequest f fl, .btRead, serve), (.blockTransferWrite f fl, .btWrite, serve), (.dataResponse f fl, .data, answer),
   (.endToEndAcknowledgement f fl, .ack, answer), (.errorResponse f fl, .error, answer),
   (.pull f fl, .pull, fun s x => match (s.fab.recs.find? (fun r => r.id == x.req && r.peer == x.src)).bind (fun r => (packetFlits r.flit).find? (fun y => y.seq == x.ref)) with
      | none => s
      | some y => enqueueFlit s { y with net := .rsp, opc := .resend, ref := x.ref, vt := s.now }),
   (.resend f fl, .resend, fun s x => match s.fab.pulled.find? (fun e => e.2.src == x.src && e.2.req == x.req && e.2.seq == x.ref) with
      | none => s
      | some e => gather { s with fab := freeSlot { s.fab with pulled := s.fab.pulled.erase e } e.1 e.2.net } { e.2 with tr := false, hp := false, items := x.items } serve)]

/-- R264 to R267, R270: RMLD, RMST, RMAT and XCH raise ILL for registers outside the allocation and ALIGN for a misaligned offset, with exactly those lanes and the lowest one's offset; without active lanes they only go on; else
they take the next ECSN and build one pass for each peer, and the window of LA instructions awaits every pass. -/
def RemoteAccessIssue : Prop :=
  ∀ (m : FabMod), ∀ e ∈ remoteForms m, ∀ (s : State) (v : View) (h : Hdr), view? s = some v → (e.2.2.1 = true → v.ej = false) →
    let (mk, op, runs, dregs, data) := e
    let ls := (v.active h).map (fun l => remoteAccess v h (data v h l) l)
    let bad := ls.filter (fun x => x.off % sizeBytes m.size != 0)
    let ok := v.within false [(h.d, dregs), (h.a, 1), (h.b, 1)]
    (ok = false → exec (mk h) s = .next (takeTrap s v { cause := .ill, lanes := v.mask })) ∧
    (∀ x xs, ok = true → bad = x :: xs → exec (mk h) s = .next (takeTrap s v { cause := .align, lanes := maskOf (bad.map (fun y => y.lane)), addr := BitVec.ofNat 64 x.off, acc := some (m.dom, .sys), write := op != .load })) ∧
    (ok = true → v.active h = [] → exec (mk h) s = .next (skip s v 8)) ∧
    (∀ s1, ok = true → bad = [] → v.active h ≠ [] → v.noSlot (placeHolders op h m.size (v.active h)) = false → beforeRemote s v m ((v.r.kget h.c.toNat).toNat % 2 ^ 16) (op != .load) ls = some s1 →
      let b := buildPasses s1 v h m op runs (s1.core v.core).ecsn ls
      exec (mk h) s = .next (remoteIssued s1 b.1 v h m op (v.active h) b.2 s.word []))

/-- R265: an instruction makes one pass for each distinct peer of its lanes, in ascending order of peer, under fresh names; a pass of RMLD, RMST or RMAT has one item for each lane of that peer, in order of lane, with the lane's
offset modulo 2^40 and its data. -/
def RemotePassesByPeer : Prop :=
  ∀ (s : State) (v : View) (h : Hdr) (m : FabMod) (op : FOp) (n : Nat) (ls : List RemLane), (∀ x ∈ ls, x.peer < 1024) →
    let b := buildPasses s v h m op false n ls
    (b.2.map (fun r => r.peer)).Pairwise (· < ·) ∧ (∀ p, p ∈ b.2.map (fun r => r.peer) ↔ p ∈ ls.map (fun x => x.peer)) ∧
    b.2.map (fun r => r.id) = (List.range b.2.length).map (fun i => s.ids + i) ∧ b.1 = { s with ids := s.ids + b.2.length } ∧
    ∀ r ∈ b.2, r.items = (ls.filter (fun x => x.peer = r.peer)).map (fun x => { off := x.off % 2 ^ 40, size := m.size, lane := x.lane, op := m.op, run := 0, status := 0, data := x.data }) ∧
      r.op = op ∧ r.dom = m.dom ∧ r.ag = v.ag ∧ r.ecsn = n ∧ r.pc = v.r.pc ∧ r.dreg = h.d.toNat ∧ r.posted = (op == .store) ∧ r.sent = false

/-- R268, R269: XEXP raises PERM for a context that has no expert table, chooses for each expert of its lanes the replica of smallest load, the lower of equals, fails the lanes of an invalid entry with status 0x0A, and goes on as XCH. -/
def ExpertExchange : Prop :=
  (∀ (s : State) (v : View) (h : Hdr) (m : FabMod), view? s = some v → v.ej = false → v.within false [(h.d, sizeRegs m.size), (h.a, 1), (h.b, 1)] = true →
    (∀ l ∈ v.active h, (remoteAccess v h [] l).off % sizeBytes m.size = 0) →
    (v.active h = [] → exec (.xexp h m) s = .next (skip s v 8)) ∧
    (v.active h ≠ [] → s.expCtx ≠ some v.ctx → exec (.xexp h m) s = .next (takeTrap s v { cause := .perm, lanes := v.trapLanes h })) ∧
    (∀ s1 s3, v.active h ≠ [] → s.expCtx = some v.ctx → beforeRemote s v m ((v.r.kget h.c.toNat).toNat % 2 ^ 16) true (expertLanes s v h m).2.1 = some s1 →
      let x := expertLanes s1 v h m
      let lanes := x.2.1.map (fun y => y.lane)
      v.noSlot (placeHolders .put h m.size lanes) = false → beforeRemote x.1 v m ((v.r.kget h.c.toNat).toNat % 2 ^ 16) true x.2.1 = some s3 →
      let b := buildPasses s3 v h m .put true (s3.core v.core).ecsn x.2.1
      exec (.xexp h m) s = .next (remoteIssued s3 b.1 v h m .put lanes b.2 x.1.word x.2.2))) ∧
  (∀ (s : State) (v : View) (h : Hdr) (m : FabMod), ∀ f ∈ (expertLanes s v h m).2.2, f.status = 0x0A ∧ f.lane ∈ v.active h) ∧
  (∀ x : Expert, leastReplica x ≤ x.nr ∧ (∀ i, i ≤ x.nr → x.load.getD (leastReplica x) 0 ≤ x.load.getD i 0) ∧ (∀ i, i < leastReplica x → x.load.getD (leastReplica x) 0 < x.load.getD i 0))

/-- R272, R273: RFENCE waits while an access of its domain, or a block transfer with a peer side, is open, then raises a held REMOTE or fences the domain at sys scope; SLOTQ answers from the schedule, and raises ILL for a number
above 1,023. For this device's own number and for an unreachable peer the answer is R273's. -/
def RemoteFenceAndSlotQuery : Prop :=
  (∀ (s : State) (v : View) (h : Hdr) (d : Dom), view? s = some v → (h.u = true → v.ej = false) →
    let ags := if h.u then [v.whole] else (v.active h).map v.lane
    (v.places h = [] → exec (.rfence h d) s = .next (skip s v 8)) ∧
    (v.places h ≠ [] → rfenceWaits s v ags d = true → exec (.rfence h d) s = .next (stall s v .rfence)) ∧
    (∀ x, v.places h ≠ [] → rfenceWaits s v ags d = false → remHeldReady s v.g v.ag.blk v.ag.grp = some x → exec (.rfence h d) s = .next (raiseRemHeld s v x)) ∧
    (v.places h ≠ [] → rfenceWaits s v ags d = false → remHeldReady s v.g v.ag.blk v.ag.grp = none →
      exec (.rfence h d) s = .next (skip ((fenceAgents v.ag (if h.u then lanesOf v.mask else v.active h) h.u).foldl (fun s a => bridge s v.core a.1 v.mask a.2 d d .sys) s) v 8))) ∧
  (∀ (s : State) (v : View) (h : Hdr), GroupRuns s v h → let a := (v.r.kget h.a.toNat).toNat
    (1024 ≤ a → exec (.slotq h) s = .next (takeTrap s v { cause := .ill, lanes := v.mask })) ∧
    (a < 1024 → ∃ w, exec (.slotq h) s = .next (finishLong { s with free := s.free + 1 } v h [.k h.d.toNat w] 0) ∧
      (a ≠ s.mgmt.device → reachable s a = false → w = 0xFFFFFFFF) ∧
      (a = s.mgmt.device → s.fab.nslot < 64 → w.toNat % 2 ^ 32 = 0 ∧ w.toNat / 2 ^ 32 % 64 = 0x3F ∧ w.toNat / 2 ^ 48 = min 65535 (queuedFlits s.fab a)) ∧
      (∀ k idx fib, a ≠ s.mgmt.device → reachable s a = true → s.fab.nextDirect s.now a = some (k, idx, fib) → idx < 64 → fib < 64 →
        w.toNat / 2 ^ 48 = min 65535 (queuedFlits s.fab a) ∧ w.toNat / 2 ^ 40 % 2 ^ 8 = idx ∧ w.toNat / 2 ^ 32 % 2 ^ 8 = fib)))

/-- R260, R263, R265: the oldest unsent pass of an agent on a resident block that is not being stopped leaves once send storage has room; it is served here when its peer is this device, and fails with status 6 when its peer
cannot be reached. A request unanswered for 8 rotations fails with status 6, but for one of this device whose item is held here; a held item's interim answer goes out again after 8 rotations. -/
def RemoteRequestEvents : Prop :=
  (∀ (s : State) (ag : AgentRef) (r : RemReq), s.fab.recs.find? (fun r => r.ag == ag && !r.sent) = some r →
    let fl := { r.flit with seq := nextSeq s r.flit.dst r.flit.net }
    let s1 : State := { s with fab := { s.fab with recs := s.fab.recs.map (fun x => if x.id = r.id then { x with sent := true, since := s.now, flit := fl } else x) } }
    let here := (tget s.blocks ag.blk).any (fun bl => bl.res == .resident && !bl.stopping) = true
    (passRoom s r = false ∨ ¬ here → exec (.remotePassSend ag) s = .next s) ∧
    (here → reachable s r.peer = true → r.peer = s.mgmt.device → exec (.remotePassSend ag) s =
      .next (applyAnswer (serveItems s1 { r.flit with arr := s.now }).1 r.id (serveItems s1 { r.flit with arr := s.now }).2)) ∧
    (here → reachable s r.peer = false → exec (.remotePassSend ag) s = .next (applyAnswer s1 r.id (r.items.map (fun i => { i with status := 6, data := [] })))) ∧
    (here → r.peer ≠ s.mgmt.device → reachable s r.peer = true → requestRoom s.fab r.flit = true → exec (.remotePassSend ag) s = .next (enqueuePacket s1 fl))) ∧
  (∀ (s : State) (i : Nat) (r : RemReq), s.fab.recs[i]? = some r →
    (r.sent = true → heldHere s r = false → r.since + 8 * s.fab.rotation ≤ s.now → exec (.remoteAnswerTimeout i) s = .next (applyAnswer s r.id (r.items.map (fun x => { x with status := 6, data := [] })))) ∧
    (r.sent = false ∨ heldHere s r = true ∨ s.now < r.since + 8 * s.fab.rotation → exec (.remoteAnswerTimeout i) s = .next s)) ∧
  (∀ (s : State) (i : Nat) (x : HeldItem), s.fab.items[i]? = some x →
    (x.since + 8 * s.fab.rotation ≤ s.now → exec (.interimAnswerRepeat i) s = .next (answerTo { s with fab := { s.fab with items := s.fab.items.set i { x with since := s.now } } } x.flit
      (x.flit.items.map (fun it => { it with status := 9, data := [] })))) ∧
    (s.now < x.since + 8 * s.fab.rotation → exec (.interimAnswerRepeat i) s = .next s))

/-- R262, R263: an arriving item without a window of its number, key and tenant, without the window's permission or past its length is answered with status 5 and does nothing; so is one that fails in the window's pages, with its status;
an accepted one is performed and answered 0; a page that is not resident gives the interim status 9. -/
def RemoteTargetChecks : Prop :=
  ∀ (s : State) (fl : Flit) (it : Item),
    (windowOf s fl = none → serveItem s fl it = (s, { it with status := 5, data := [] })) ∧
    (∀ w, windowOf s fl = some w → (w.v = true ∧ w.key = fl.key ∧ w.ten = fl.ten ∧ tget s.windows fl.win = some w) ∧
      let va := w.base + BitVec.ofNat 64 it.off
      let x := remoteSpans s w.ctx va (sizeBytes it.size * (it.run + 1)) (opRead fl.opc) (opWrite fl.opc) (flitDom fl)
      (w.allows fl.opc = false ∨ w.len < it.off + sizeBytes it.size * (it.run + 1) → serveItem s fl it = (s, { it with status := 5, data := [] })) ∧
      (w.allows fl.opc = true → it.off + sizeBytes it.size * (it.run + 1) ≤ w.len →
        (x.1 = 0 → serveItem s fl it = ((performItem s fl it x.2.2.1 x.2.2.2).1, { it with status := 0, data := (performItem s fl it x.2.2.1 x.2.2.2).2 })) ∧
        (x.1 = 9 → (serveItem s fl it).2 = { it with status := 9, data := [] } ∧ (serveItem s fl it).1.mem = s.mem) ∧
        (x.1 ≠ 0 → x.1 ≠ 9 → serveItem s fl it = (s, { it with status := x.1, data := [] }))))

/-- R252, R253, R258, R259, R416: the schedule is loaded only while the port is quiesced and has power, absent fibres keep V = 0 and a slot length outside 2,800 to 28,000 is not taken; a slot that is due starts with every count at zero, less the
buffer slots that are occupied; a fibre that must stop puts its unacknowledged flits back, each ahead of every later flit of its network. -/
def FabricScheduleAndSlots : Prop :=
  (∀ (s : State) (img : FabricImage), s.fab.quiesced = true → s.mgmt.powered = true → ∃ t, exec (.fabricScheduleLoad img) s = .next t ∧ t.mem = s.mem ∧ t.fab.loaded = true ∧ t.fab.slotNow = 0 ∧ t.fab.t0 = img.fepoch.toNat ∧
    t.fab.nslot = img.fsched.toNat % 64 ∧ t.fab.trimth = max 64 (img.fsched.toNat / 2 ^ 48) ∧
    (let len := img.fsched.toNat / 2 ^ 32 % 2 ^ 16
     t.fab.slotlen = if 2800 ≤ len ∧ len ≤ 28000 then len else s.fab.slotlen) ∧
    (∀ d x, d < 1024 → img.routes[d]? = some x → sget t.fab.routes d = x &&& 0x83FF#16) ∧
    (∀ n k l x, n < 64 → k < 48 → img.slots[n]? = some l → l[k]? = some x → sget t.fab.slots (48 * n + k) = x &&& (if k ∈ s.fab.absent then 0x03FF#16 else 0x83FF#16))) ∧
  (∀ (s : State) (img : FabricImage), s.fab.quiesced = false ∨ s.mgmt.powered = false → exec (.fabricScheduleLoad img) s = .next s) ∧
  (∀ (s : State) (n : Nat), s.fab.slotAt s.now = some n →
    (s.fab.loaded = true → s.fab.slotNow ≠ n + 1 → exec .slotStart s = .next { s with fab := { s.fab with slotNow := n + 1, credit := [], freed := startFreed s.fab, dead := [], heard := [], got := [], stopped := [], ackq := [] } }) ∧
    (s.fab.loaded = false ∨ s.fab.slotNow = n + 1 → exec .slotStart s = .next s)) ∧
  (∀ (s : State) (f : Nat), (stopDue s f = false → exec (.fibreStop f) s = .next s) ∧
    (stopDue s f = true →
      let back := (tget s.fab.replay f).getD []
      let own := (back.filter (fun x => x.src == s.mgmt.device)).foldl requeue s.fab.sendq
      let others := (back.filter (fun x => x.src != s.mgmt.device)).foldl requeueRelay s.fab.relayq
      exec (.fibreStop f) s = .next
        { s with fab := { s.fab with sendq := own, relayq := others, replay := terase s.fab.replay f, lost := terase s.fab.lost f, stopped := s.fab.stopped ++ [f] } })) ∧
  (∀ (q : List Flit) (x : Flit), ∃ a b, q = a ++ b ∧ requeue q x = a ++ x :: b ∧ (∀ y ∈ a, ¬ (sameFlow x y = true ∧ seqAfter y.seq x.seq = true))) ∧
  (∀ (q : List (Nat × Flit)) (x : Flit), ∃ a b, q = a ++ b ∧ requeueRelay q x = a ++ (0, x) :: b ∧ (∀ y ∈ a, ¬ (sameFlow x y.2 = true ∧ seqAfter y.2.seq x.seq = true)))

/-- R255, R256, R258, R259: a live fibre sends the next flit by rank, or an idle flit; a flit that leaves its queue goes to the replay buffer and takes one credit; it carries the fibre's counts and acknowledgements and the CRC of
its bytes. Answers that wait for send storage then enter it as it has room. -/
def FibreSends : Prop :=
  ∀ (s : State) (f p : Nat), s.fab.livePeer s.now f = some p →
    let sent := fun (t : State) (y : Flit) => tget t.fab.wire f = some y ∧ y.cr = creditCounts s.fab f ∧ y.acks = (tget s.fab.ackq f).getD [] ∧ y.crc = crc32 (flitImage y)
    let kept := fun (t : State) (x : Flit) => tget t.fab.replay f = some (((tget s.fab.replay f).getD []).erase x ++ [x])
    (fibreLive s f = false → exec (.fibreFlitSend f) s = .next s) ∧
    (fibreLive s f = true →
      (nextFlit s.fab s.now f p = none → ∃ t y, exec (.fibreFlitSend f) s = .next t ∧ sent t y ∧ y.opc = .idle ∧ y.src = s.mgmt.device ∧ y.dst = p ∧
        t.fab.sendq = s.fab.sendq ∧ t.fab.relayq = s.fab.relayq ∧ t.fab.replay = s.fab.replay) ∧
      (∀ x rr, nextFlit s.fab s.now f p = some (.own, x, rr) → ∃ t y, exec (.fibreFlitSend f) s = .next t ∧
        sent t y ∧ y.seq = x.seq ∧ y.src = x.src ∧ y.dst = x.dst ∧ y.net = x.net ∧ y.opc = x.opc ∧ y.items = x.items ∧ (s.fab.owed = [] → t.fab.sendq = s.fab.sendq.erase x) ∧ kept t x ∧ tget t.fab.rr f = some rr ∧
        (tget t.fab.credit (f * 8 + netCode x.net)).map Prod.snd = some ((((tget s.fab.credit (f * 8 + netCode x.net)).getD (0, 0)).2 + 1) % 65536)) ∧
      (∀ x rr, nextFlit s.fab s.now f p = some (.relay, x, rr) → ∃ t y, exec (.fibreFlitSend f) s = .next t ∧ sent t y ∧ (s.fab.owed = [] → t.fab.sendq = s.fab.sendq) ∧ kept t x ∧
        (s.fab.rwait = [] → t.fab.relayq = s.fab.relayq.eraseP (fun e => e.2 == x))) ∧
      (∀ x rr, nextFlit s.fab s.now f p = some (.lost, x, rr) → ∃ t y, exec (.fibreFlitSend f) s = .next t ∧ sent t y ∧ (s.fab.owed = [] → t.fab.sendq = s.fab.sendq) ∧ kept t x ∧ t.fab.credit = s.fab.credit))

/-- R253, R256, R258, R259, R260, R261: a flit with a bad CRC or a reserved operation is dropped; an idle or forward flit, a resend or a flit to be relayed, of another sender than the fibre's peer silences the fibre; a sequence number already taken is acknowledged again and
dropped, a later one of an ordered network dropped without acknowledgement; a flit for another device is relayed; a trimmed one is pulled; any other joins its packet. -/
def FlitArrival : Prop :=
  ∀ (s : State) (f p : Nat) (fl : Flit), s.fab.livePeer s.now f = some p → slotLive s = true → f < Config.fibres →
    let s0 : State := { s with fab := { s.fab with heard := if s.fab.heard.contains f then s.fab.heard else s.fab.heard ++ [f] } }
    let s1 : State := { s0 with fab := takeAcks (takeCredit s0.fab f fl) f fl.acks }
    let f1 := noteGot (oweAck (seqTake s1.fab fl) f fl) f fl
    let dead : State := { s0 with fab := { s0.fab with dead := s0.fab.dead ++ [f] } }
    let good := fl.crc = crc32 (flitImage fl)
    let hop := fl.net = .fwd ∨ fl.net = .idle ∨ fl.opc = .resend ∨ fl.dst ≠ s.mgmt.device
    (∀ e ∈ arrivals f fl, fl.opc = e.2.1 →
      (¬ good → exec e.1 s = .next s0) ∧ (good → hop → fl.src ≠ p → exec e.1 s = .next dead) ∧
      (good → (hop → fl.src = p) →
        (seqOk s1.fab fl = false → seqOld s1.fab fl = true → exec e.1 s = .next { s1 with fab := dropOld s1.fab f fl }) ∧
        (seqOk s1.fab fl = false → seqOld s1.fab fl = false → exec e.1 s = .next s1) ∧
        (seqOk s1.fab fl = true →
          (fl.dst ≠ s.mgmt.device → exec e.1 s = .next { s1 with fab := relayTake f1 f fl }) ∧
          (fl.dst = s.mgmt.device → fl.tr = true → exec e.1 s = .next (sendPull { s1 with fab := f1 } f fl)) ∧
          (fl.dst = s.mgmt.device → fl.tr = false → exec e.1 s = .next (gather { s1 with fab := freeSlot f1 f fl.net } fl e.2.2))))) ∧
    (∀ e ∈ arrivals f fl, ∀ n, fl.opc = .reserved n → exec e.1 s = .next s0) ∧
    (fl.opc = .idle → (¬ good → exec (.idleFlit f fl) s = .next s0) ∧ (good → hop → fl.src ≠ p → exec (.idleFlit f fl) s = .next dead) ∧
      (good → (hop → fl.src = p) → exec (.idleFlit f fl) s = .next s1))

/-- R257: a packet of one flit is acted on when it arrives; one of two flits when its second has arrived, with the items of both. -/
def PacketsGather : Prop :=
  (∀ (s : State) (x : Flit) (act : State → Flit → State), x.fst = true → x.lst = true → gather s x act = act s { x with arr := s.now }) ∧
  (∀ (s : State) (x : Flit) (act : State → Flit → State), x.fst = true → x.lst = false → x.opc ≠ .resend → x.nflits = 2 → x.seq < 2 ^ 32 → s.fab.asm = [] →
    gather s x act = { s with fab := { s.fab with asm := [x] } }) ∧
  (∀ (s : State) (h x : Flit) (act : State → Flit → State), s.fab.asm = [h] → h.fst = true → h.nflits = 2 → h.seq < 2 ^ 32 → sameFlow h x = true → x.fst = false → x.opc ≠ .resend →
    x.seq = (h.seq + 1) % 2 ^ 32 →
    gather s x act = act { s with fab := { s.fab with asm := [] } } { h with items := h.items ++ x.items, lst := true, arr := s.now })

end Sys2Proof.Claims

section

open Sys2Proof Sys2Proof.Machine Sys2Proof.Claims

/-- RMLD, RMST, RMAT, XCH, XEXP, RFENCE and SLOTQ: passes, windows, traps and answers: each of its parts holds. The peer named by a failure of an invalid expert entry and the answer of SLOTQ for a relayed peer follow log 10 and log 11. -/
def Obligations.RemoteInstructions : Prop :=
  RemoteAccessIssue ∧ RemotePassesByPeer ∧ ExpertExchange ∧ RemoteFenceAndSlotQuery

/-- Sending, timing out and serving the passes of remote instructions: each of its parts holds. -/
def Obligations.RemoteRequestsAndTargets : Prop :=
  RemoteRequestEvents ∧ RemoteTargetChecks

/-- The fabric schedule, slots and fibres, and what an arriving flit does: each of its parts holds. What stands beside the format of a flit, and the CRC's standard, are the model's (log 11). -/
def Obligations.FabricPort : Prop :=
  FabricScheduleAndSlots ∧ FibreSends ∧ FlitArrival ∧ PacketsGather

end

/-! ### The system class and CTXCTL (spec/13_isolation.md R342 to R361, 14_recovery.md R363 to R378) -/

namespace Sys2Proof.Claims

open Sys2Proof.Machine

/-- The system registers that every context reads, with their values (R22, R23, R378); `l` is the lane that reads, 0 for the group. -/
def openRegs (s : State) (v : View) (l : Nat) : List (Nat × Nat) :=
  let i := v.bl.index
  [(0x00, l), (0x01, v.ag.grp), (0x02, v.g.slot), (0x03, v.pkt.groups), (0x04, i % v.pkt.gx), (0x05, i / v.pkt.gx % v.pkt.gy), (0x06, i / (v.pkt.gx * v.pkt.gy)),
   (0x07, v.pkt.gx), (0x08, v.pkt.gy), (0x09, v.pkt.gz), (0x0A, v.bl.rank), (0x0B, v.pkt.cluster), (0x0C, v.core), (0x0D, v.core / 64), (0x0E, s.mgmt.device),
   (0x0F, v.ctx), (0x10, s.vtime.toNat), (0x11, (s.clk - sget s.cyc0 v.core).toNat), (0x12, v.pkt.nbv), (0x13, v.pkt.ejt), (0x14, (fpfWord v.g.r.fpf).toNat)]

/-- The registers of the privileged context (R361, R206). -/
def privRegs (s : State) : List (Nat × Nat) :=
  [(0x80, s.priv.ptstat), (0x81, s.priv.swctl.toNat), (0x82, s.priv.swrq.toNat), (0x83, s.priv.swtail), (0x84, s.priv.swhead), (0x85, s.priv.swft.toNat)]

/-- The system registers that the agent may read. -/
def readableRegs (s : State) (v : View) (l : Nat) : List (Nat × Nat) := openRegs s v l ++ if v.ctx = 0 then privRegs s else []

/-- A CTXCTL image of `n` bytes is readable, and the group's accesses are acknowledged: `s2` is the state in which it takes effect, and `bs` the bytes. -/
def ImageRead (s : State) (v : View) (h : Hdr) (n : Nat) (s2 : State) (bs : List Byte) : Prop :=
  let c := imageLook s v (v.r.kget h.a.toNat) n
  let spans := if n = 0 then [] else c.spans
  (n ≠ 0 → c.cause = none) ∧ ∃ s1 t, releaseAll s v.core v.whole v.mask .dev = some s1 ∧
    loadSpans (touchAll s1 v.core v.ctx spans false) v.core v.whole v.mask spans { dom := .seq, enc := .seq, sc := .sys } = (s2, bs, t)

/-- CTXCTL ends with a result number in its destination, as an acquire (R360). -/
def ctxResult (s : State) (v : View) (h : Hdr) (r : Nat) : Host.Outcome State Fault Refusal :=
  .next (finish (acquireAll s v.core) v 8 [.k h.d.toNat (BitVec.ofNat 64 r)] 0)

/-- The forms of CTXCTL, each with the bytes of its image (R360). -/
def ctxctlForms : List ((Hdr → Instr) × Nat) :=
  [(.ctxctlTenant, 256), (.ctxctlCreate, 128), (.ctxctlDestroy, 0), (.ctxctlQueue, 32), (.ctxctlWindow, 24), (.ctxctlExpasg, 0), (.ctxctlExpwr, 16), (.ctxctlPopdone, 0)]

/-- R206, R207, R359: PTLOAD raises PRIV outside context 0, ALIGN for a misaligned table, reads the 1,056 bytes and waits for the validator. The validator ends the oldest load: PTSTAT takes its status, the slot takes the table only under status 0,
and the group goes on. A slot that an object names is left as it is, with status 10. -/
def ProtocolTableLoad : Prop :=
  (∀ (s : State) (v : View) (h : Hdr), GroupRuns s v h → let a := v.r.kget h.a.toNat
    (v.ctx ≠ 0 → exec (.ptload h) s = .next (takeTrap s v { cause := .priv, lanes := v.mask })) ∧
    (v.ctx = 0 → s.priv.loads.any (fun x => x.1 == v.ag.blk && x.2.1 == v.ag.grp) = true → exec (.ptload h) s = .next (stall s v .validator)) ∧
    (v.ctx = 0 → s.priv.loads.any (fun x => x.1 == v.ag.blk && x.2.1 == v.ag.grp) = false →
      (a.toNat % 32 ≠ 0 → exec (.ptload h) s = .next (takeTrap s v { cause := .align, lanes := v.mask, addr := a })) ∧
      (a.toNat % 32 = 0 → let c := groupAccess s v a 1056 true false
        (∀ x va, c.cause = some (x, va) → exec (.ptload h) s = .next (takeTrap s v (groupTrap v x va c.dom .sys false))) ∧
        (c.cause = none → let r := loadSpans (touchAll s v.core v.ctx c.spans false) v.core v.whole v.mask c.spans { dom := .seq, enc := .seq, sc := .sys }
          exec (.ptload h) s = .next (stall { r.1 with priv := { r.1.priv with loads := r.1.priv.loads ++ [(v.ag.blk, v.ag.grp, h.c.toNat, r.2.1)] } } v .validator))))) ∧
  (∀ (s : State) (b g slot : Nat) (bs : List Byte) (rest : List (Nat × Nat × Nat × List Byte)) (v : View), s.priv.loads = (b, g, slot, bs) :: rest →
    viewOf s { blk := b, grp := g, lane := none } = some v →
    let used := s.objs.any (fun e => (objShape s { ctx := e.1 / 4096, obj := e.1 % 4096 }).slot == slot)
    let st := if used then 10 else validate bs
    ∃ s1, exec .validatorComplete s = .next (skip s1 v 8) ∧ s1.priv.ptstat = st ∧ s1.priv.loads = rest ∧ s1.mem = s.mem ∧
      (st = 0 → tget s1.protos slot = some (protoOf bs)) ∧ (st ≠ 0 → s1.protos = s.protos) ∧ ∀ k, k ≠ slot → tget s1.protos k = tget s.protos k) ∧
  (∀ s : State, s.priv.loads = [] → exec .validatorComplete s = .next s)

/-- R207: the validator accepts a table only if it has the magic and format numbers, 2 to 16 states, legal codes in every entry in use and zeros elsewhere, an answer or a forward for every request, and DEVICT as R207 requires. -/
def ValidatorAccepts : Prop :=
  ∀ bs : List Byte, validate bs = 0 →
    let t := protoOf bs
    leAt bs 0 4 = 0x4C425443 ∧ leAt bs 4 2 = 1 ∧ 2 ≤ t.states ∧ t.states ≤ 16 ∧
    (∀ st ev, st < 16 → ev < 16 → ¬ (st < t.states ∧ ev < 11) → t.entries.getD (st * 16 + ev) 0 = 0) ∧
    (∀ st ev, st < t.states → ev < 10 → let e := t.entry st ev
      (e.resp ≠ 0 ∨ e.fwd ≠ 0) ∧ ¬ (e.resp ≠ 0 ∧ e.fwd ≠ 0) ∧ e.next < t.states ∧ e.nxe < t.states ∧ e.resp ≤ 6 ∧ e.fwd ≤ 2 ∧ e.shr ≤ 5 ∧
      (e.wr = true ↔ ev = 5 ∨ ev = 7 ∨ ev = 9) ∧ (e.at_ = true ↔ ev = 8) ∧ (ev = 4 ∨ ev = 6 → e.fwd = 0 ∧ e.resp ≠ 1 ∧ e.resp ≠ 2 ∧ e.resp ≠ 3)) ∧
    (∀ st, st < t.states → let e := t.entry st 10
      e.resp = 0 ∧ e.fwd = 0 ∧ e.shr = 4 ∧ e.fan = 3 ∧ e.next = 0 ∧ e.nxe = 0)

/-- R357, R360: a form of CTXCTL that the context has no right to raises PRIV, also a manager's for the queue or the valid window of another tenant, before anything of its image is looked at; one whose image cannot be read raises the cause
of that read; neither has another effect. -/
def ContextControlTraps : Prop :=
  (∀ e ∈ ctxctlForms, ∀ (s : State) (v : View) (h : Hdr), GroupRuns s v h →
    (v.ctx ≠ 0 → isMgr s v.ctx = false → s.expCtx ≠ some v.ctx → exec (e.1 h) s = .next (takeTrap s v { cause := .priv, lanes := v.mask })) ∧
    (∀ x va code, v.ctx = 0 → e.2 ≠ 0 → (imageLook s v (v.r.kget h.a.toNat) e.2).cause = some (x, va, code) →
      exec (e.1 h) s = .next (takeTrap s v { cause := x, code := code, lanes := v.mask, addr := va, acc := some ((if x = .xlat then .seq else (imageLook s v (v.r.kget h.a.toNat) e.2).dom), .sys) }))) ∧
  (∀ (s : State) (v : View) (h : Hdr), GroupRuns s v h → v.ctx ≠ 0 → let n := (v.r.kget h.b.toNat).toNat
    (queueOpen s v.ctx n = false → exec (.ctxctlQueue h) s = .next (takeTrap s v { cause := .priv, lanes := v.mask })) ∧
    (windowOpen s v.ctx n = false → exec (.ctxctlWindow h) s = .next (takeTrap s v { cause := .priv, lanes := v.mask }))) ∧
  (∀ (s : State) (v : View) (h : Hdr), GroupRuns s v h → v.ctx ≠ 0 → isMgr s v.ctx = false →
    exec (.ctxctlTlbinv h) s = .next (takeTrap s v { cause := .priv, lanes := v.mask }))

/-- R342, R343, R344, R360: CTXCTL.tenant, .create and .destroy in context 0 end with their result: 2 for a number out of range, 1 for a context that exists (create) or does not (destroy), else the effect. A context that is created has the fields of its image; one
that is destroyed is gone with its objects and its counters. -/
def TenantsAndContexts : Prop :=
  (∀ (s s2 : State) (v : View) (h : Hdr) (bs : List Byte), GroupRuns s v h → v.ctx = 0 → let n := (v.r.kget h.b.toNat).toNat
    (ImageRead s v h 256 s2 bs → let w := writeTenant s2 n bs
      (w.2 = 0 → exec (.ctxctlTenant h) s = ctxResult (keepConf w.1 n) v h 0) ∧ (w.2 ≠ 0 → exec (.ctxctlTenant h) s = ctxResult w.1 v h w.2)) ∧
    (ImageRead s v h 128 s2 bs → exec (.ctxctlCreate h) s = ctxResult (createContext s2 n bs).1 v h (createContext s2 n bs).2) ∧
    (ImageRead s v h 0 s2 bs →
      (tget s2.ctxs n = none → exec (.ctxctlDestroy h) s = ctxResult s2 v h 1) ∧
      (tget s2.ctxs n ≠ none → exec (.ctxctlDestroy h) s = ctxResult (destroyContext s2 n) v h 0))) ∧
  (∀ (s : State) (n : Nat) (bs : List Byte),
    (16 ≤ n → writeTenant s n bs = (s, 2)) ∧
    ((writeTenant s n bs).2 = 0 → tget (writeTenant s n bs).1.tenants n = some (tenantParse bs) ∧ (writeTenant s n bs).1.mem = s.mem) ∧
    ((writeTenant s n bs).2 ≠ 0 → (writeTenant s n bs).1 = s) ∧
    (n = 0 ∨ 1024 ≤ n → createContext s n bs = (s, 2)) ∧
    (1 ≤ n → n < 1024 → tget s.ctxs n ≠ none → createContext s n bs = (s, 1)) ∧
    ((createContext s n bs).2 = 0 → ∃ c, tget (createContext s n bs).1.ctxs n = some c ∧ c.ptroot = leAt bs 0 8 ∧ c.tenant = some (leAt bs 8 1) ∧ c.conf = (leAt bs 9 1).testBit 0 ∧
      c.mgr = (leAt bs 9 1).testBit 1 ∧ c.traprt.toNat = leAt bs 0x28 8 % 2 ^ 64 ∧ c.svcring.toNat = leAt bs 0x30 8 % 2 ^ 64 ∧ c.hangt = leAt bs 0x44 4 ∧
      c.rjt = (if leAt bs 0x40 4 = 0 then 100000 else leAt bs 0x40 4) ∧ c.resv.length ≤ 4 * c.cres) ∧
    ((createContext s n bs).2 ≠ 0 → (createContext s n bs).1 = s)) ∧
  (∀ (s : State) (n : Nat), tget s.ctxs n ≠ none → tget (destroyContext s n).ctxs n = none ∧ (∀ e ∈ (destroyContext s n).objs, e.1 / 4096 ≠ n) ∧ ∀ e ∈ (destroyContext s n).ctrs, e.1 / 64 ≠ n)

end Sys2Proof.Claims

section

open Sys2Proof Sys2Proof.Machine Sys2Proof.Claims

/-- R57, R22, R23, R358, R361, R378: NOP only goes on. SYSRD puts a register's value in a window of LA instructions, for each active lane or for the group; a reserved number raises ILL, a privileged one in a tenant's context PRIV. SYSWR clears FPF bits
that are 1 in its source, or writes a privileged register. The clock that CYCLE reads is the model's (log 1). -/
def Obligations.SystemRegisters : Prop :=
  (∀ (s : State) (v : View) (h : Hdr), view? s = some v → (h.u = true → v.ej = false) → exec (.nop h) s = .next (skip s v 8)) ∧
  (∀ (s : State) (v : View) (h : Hdr), GroupRuns s v h →
    (∀ e ∈ readableRegs s v 0, h.a.toNat = e.1 → exec (.sysrd h) s = .next (finishLong s v h [.k h.d.toNat (BitVec.ofNat 64 e.2)] 0)) ∧
    (0x15 ≤ h.a.toNat → h.a.toNat < 0x80 → exec (.sysrd h) s = .next (takeTrap s v { cause := .ill, lanes := v.mask })) ∧
    (0x80 ≤ h.a.toNat → v.ctx ≠ 0 → exec (.sysrd h) s = .next (takeTrap s v { cause := .priv, lanes := v.mask }) ∧
      exec (.syswr h) s = .next (takeTrap s v { cause := .priv, lanes := v.mask }))) ∧
  (∀ (s : State) (v : View) (h : Hdr), view? s = some v → h.u = false → v.within false [(h.d, 2)] = true → v.active h ≠ [] → h.a.toNat ∈ (readableRegs s v 0).map Prod.fst →
    ∃ x : Nat → Nat, (∀ l, (h.a.toNat, x l) ∈ readableRegs s v l) ∧ exec (.sysrd h) s = .next (finishLong s v h ((v.active h).flatMap (fun l =>
      [RegWrite.v l h.d.toNat (BitVec.ofNat 32 (x l % 2 ^ 64)), RegWrite.v l (h.d.toNat + 1) (BitVec.ofNat 32 (x l % 2 ^ 64 / 2 ^ 32))])) 0)) ∧
  (∀ (s : State) (v : View) (h : Hdr), GroupRuns s v h → v.r.awaiting = false → v.r.pend = [] →
    (h.a.toNat = 0x14 → ∃ t r, exec (.syswr h) s = .next t ∧ regsOf t v.ag = some r ∧ r.pc = v.r.pc + 8 ∧ t.mem = s.mem ∧ t.priv = s.priv ∧
      ∀ i, i < 5 → r.fpf.getLsbD i = (v.r.fpf.getLsbD i && !(v.r.kget h.b.toNat).getLsbD i)) ∧
    (v.ctx = 0 → h.a.toNat ∈ [0x81, 0x82, 0x84, 0x85] → ∃ t, exec (.syswr h) s = .next t ∧ (regsOf t v.ag).map (fun r => r.pc) = some (v.r.pc + 8) ∧ t.mem = s.mem ∧
      let x := v.r.kget h.b.toNat
      t.priv = (match h.a.toNat with
        | 0x81 => if x.toNat % 2 ^ 20 < x.toNat / 2 ^ 20 % 2 ^ 20 ∧ x.toNat / 2 ^ 20 % 2 ^ 20 ≤ 8192 then { s.priv with swctl := x &&& 0x800000FFFFFFFFFF#64 } else s.priv
        | 0x82 => { s.priv with swrq := x }
        | 0x84 => s.priv.setHead x.toNat
        | _ => { s.priv with swft := x })) ∧
    (v.ctx = 0 → h.a.toNat ∈ [0x80, 0x83] → exec (.syswr h) s = .next (takeTrap s v { cause := .ill, lanes := v.mask })))

/-- PTLOAD, the validator, and what an accepted protocol table holds: each of its parts holds. Status 10 before any check of the table follows log 27. -/
def Obligations.ProtocolTables : Prop :=
  ProtocolTableLoad ∧ ValidatorAccepts

/-- R365, R375: a held trap of an ejected lane is delivered, oldest first, at a boundary of its group outside a handler, after the lane is recalled to its RESUME; an asynchronous trap is delivered there, but not to a group parked off issue, with the group's next instruction as RESUME and its
current path as LANES; a group parked for pages, or for a held trap at a service entry, reloads first. That a group parked for pages reloads first, and that an asynchronous trap waits for a group parked off issue, follow log 23. -/
def Obligations.HeldAndAsynchronousTraps : Prop :=
  (∀ (s : State) (b g : Nat) (x : Group) (ht : HeldTrap), s.group? b g = some x → heldFirst x.held = some ht →
    (boundary s b g = true → heldSettled x ht = true → exec (.heldTrapDelivery b g) s = .next (deliverHeld s b g ht)) ∧
    (boundary s b g = true → heldSettled x ht = false → exec (.heldTrapDelivery b g) s = .next s) ∧
    (∀ pages, x.handler = none → x.run = .parkedOff (.pages pages) → exec (.heldTrapDelivery b g) s = .next (s.mapGroup b g (fun x => { x with run := .parkedOff .resumed }))) ∧
    (∀ e i d l r, x.handler = none → x.run = .parkedOff (.service e i d l r) → exec (.heldTrapDelivery b g) s =
      .next (s.mapGroup b g (fun x => { x with run := .parkedOff .resumed, called := some (.service e i d l r, false) }))) ∧
    (boundary s b g = false → callable x = false → exec (.heldTrapDelivery b g) s = .next s)) ∧
  (∀ (l : List HeldTrap) (x : HeldTrap), heldFirst l = some x → x ∈ l ∧ ∀ y ∈ l, x.vt ≤ y.vt) ∧
  (∀ (s : State) (b g : Nat) (x : Group) (ht : HeldTrap) (rest : List HeldTrap), s.group? b g = some x → x.async = ht :: rest →
    (boundary s b g = true → (∀ n, x.run ≠ .parkedJoin n) → exec (.asyncTrapDelivery b g) s = .next (deliverTrap (s.mapGroup b g (fun y => { y with async := rest, r := y.r.flush })) b g
      { cause := ht.cause, code := ht.code, lanes := x.r.mask, addr := ht.addr, acc := ht.acc, ecsn := ht.ecsn, write := ht.write } ht.pc ht.iword x.r.pc (BitVec.ofNat 64 ht.vt) false true ht.wsp)) ∧
    (boundary s b g = false ∨ (∃ n, x.run = .parkedJoin n) → parkedForPages x = false → exec (.asyncTrapDelivery b g) s = .next s) ∧
    (parkedForPages x = true → exec (.asyncTrapDelivery b g) s = .next (s.mapGroup b g (fun x => { x with run := .parkedOff .resumed }))))

/-- CTXCTL: rights, reads of its image, and the tenant, create and destroy forms: each of its parts holds. The order of result numbers follows log 27. -/
def Obligations.ContextControl : Prop :=
  ContextControlTraps ∧ TenantsAndContexts

/-- R262, R268, R281, R347, R349, R360: the other forms of CTXCTL in context 0 end with their result and effect: a queue descriptor, a fabric window, the expert table's owner and entries, invalidated translations, a populated page. Results for numbers out of range and the order of checks follow log 27. -/
def Obligations.ContextResources : Prop :=
  ∀ (s s2 : State) (v : View) (h : Hdr) (bs : List Byte), GroupRuns s v h → v.ctx = 0 → let n := (v.r.kget h.b.toNat).toNat
    (ImageRead s v h 32 s2 bs → let ctx := leAt bs 8 8 / 2 ^ 48 % 2 ^ 10
      (4096 ≤ n → exec (.ctxctlQueue h) s = ctxResult s2 v h 2) ∧
      (n < 4096 → tget s2.ctxs ctx = none ∨ leAt bs 0 8 % 64 ≠ 0 → exec (.ctxctlQueue h) s = ctxResult s2 v h 2) ∧
      (n < 4096 → tget s2.ctxs ctx ≠ none → leAt bs 0 8 % 64 = 0 → ∃ s3 q, exec (.ctxctlQueue h) s = ctxResult s3 v h 0 ∧ tget s3.queues n = some q ∧ s3.mem = s2.mem ∧
        q.ring.toNat = leAt bs 0 8 % 2 ^ 64 ∧ q.ctx = ctx ∧ q.en = (leAt bs 8 8).testBit 63 ∧ q.head = (queueOf s2 n).head)) ∧
    (ImageRead s v h 24 s2 bs → let w := windowImage bs
      (4096 ≤ n → exec (.ctxctlWindow h) s = ctxResult s2 v h 2) ∧
      (n < 4096 → windowOk s2 w = false → exec (.ctxctlWindow h) s = ctxResult s2 v h 2) ∧
      (n < 4096 → windowOk s2 w = true → exec (.ctxctlWindow h) s = ctxResult { s2 with windows := tset s2.windows n w } v h 0)) ∧
    (ImageRead s v h 0 s2 bs →
      (1024 ≤ n ∨ tget s2.ctxs n = none → exec (.ctxctlExpasg h) s = ctxResult s2 v h 2) ∧
      (n < 1024 → tget s2.ctxs n ≠ none → exec (.ctxctlExpasg h) s = ctxResult { s2 with expCtx := some n, experts := [] } v h 0) ∧
      exec (.ctxctlPopdone h) s = ctxResult ((popNames s2 (n % 1024) (v.r.kget h.a.toNat)).foldl (fun t page => popdone t (n % 1024) page) s2) v h 0) ∧
    (ImageRead s v h 16 s2 bs →
      (4096 ≤ n → exec (.ctxctlExpwr h) s = ctxResult s2 v h 2) ∧
      (n < 4096 → exec (.ctxctlExpwr h) s = ctxResult { s2 with experts := tset s2.experts n (expertImage (leAt bs 0 8)) } v h 0)) ∧
    (∀ s1 s3, releaseAll s v.core v.whole v.mask .dev = some s1 → tlbInvalidate s1 (n % 1024) (v.r.kget h.a.toNat) ((v.r.kget h.b.toNat).getLsbD 63) = some s3 →
      exec (.ctxctlTlbinv h) s = ctxResult s3 v h 0)

end

/-! ### Scheduling (spec/10_scheduling.md R276 to R295, 12_control_instructions.md R336 to R340, 11_divergence.md R302 to R311) -/

namespace Sys2Proof.Claims

open Sys2Proof.Machine

/-- A group as R280 gives it at block start under a packet. -/
structure StartsAs (p : Packet) (g : Group) : Prop where
  pc : g.r.pc = p.entry
  mask : g.r.mask = BitVec.allOnes 64
  k : ∀ n, g.r.kget n = if n < p.kregs ∧ n < 63 then p.params.getD n 0 else 0
  v : ∀ l n, g.r.vget l n = 0
  p : ∀ l n, n < 7 → g.r.pget l n = false
  q : ∀ n, n < 7 → g.r.qget n = false
  guards : ∀ n, g.guard n = .free
  rest : g.stack = [] ∧ g.r.fpf = 0 ∧ g.bctr = 0 ∧ g.threads = [] ∧ g.handler = none

/-- An event that is due has the effect `t`; one that is not does not occur, and changes nothing. -/
def Occurs (s : State) (i : Instr) (due : Prop) (t : State) : Prop :=
  (due → exec i s = .next t) ∧ (¬ due → exec i s = .next s)

/-- A waiting cluster is placed on cores that R286 allows it, when it comes first of those with room and has its save slots. -/
abbrev MayPlace (s : State) (w : Wait) (b : Nat) (cores : List Nat) (f : Nat) : Prop :=
  (waiting s).find? (fun x => x.fresh == w.fresh && x.keys.head? == some b) = some w ∧ mayServe s w = true ∧ coresOk s cores f (waitPacket s w) w.keys w.ctx = true

/-- R284, R337 to R340: TRIG is counted at once when the group's accesses are acknowledged, and behind them otherwise; YIELD stands back for 64 cycles, which do not count towards starvation; SLEEP stands at its PC for the cycles of its operand, from its first execution on, and then ends; STEPB opens a step, or waits for the walk of the last one; STEPE ends it
and starts its walk. -/
def TriggersYieldsAndSteps : Prop :=
  (∀ (s : State) (v : View) (h : Hdr) (x : Word), GroupRuns s v h →
    let ids := openBefore s v
    let n := min ((v.r.kget h.a.toNat).toNat + h.c.toNat) (2 ^ 32 - 1)
    let c := chainOf s v.ctx
    (ids = [] → v.g.trigQ = [] → exec (.trig h) s = .next (skip (countTrig s v.ag.blk v.ag.grp) v 8)) ∧
    (ids ≠ [] ∨ v.g.trigQ ≠ [] → exec (.trig h) s = .next (skip (s.mapGroup v.ag.blk v.ag.grp (fun g => { g with trigQ := g.trigQ ++ [ids] })) v 8)) ∧
    exec (.yield h) s = .next ((skip s v 8).setRun v.ag (.yielding (s.now + 64) (readyOthers s v))) ∧
    (v.g.wakeAt v.r.pc = none → n = 0 → exec (.sleep h) s = .next (skip s v 8)) ∧
    (v.g.wakeAt v.r.pc = none → n ≠ 0 →
      exec (.sleep h) s = .next ((s.mapGroup v.ag.blk v.ag.grp (fun g => { g with wake := some (v.r.pc, s.now + n) })).setRun v.ag (.sleeping (s.now + n)))) ∧
    (∀ w, v.g.wakeAt v.r.pc = some w → exec (.sleep h) s = .next (if w ≤ s.now then skip s v 8 else s.setRun v.ag (.sleeping w))) ∧
    (c.walk = none → c.step = none → exec (.stepb h x) s = .next (skip (setChainOf s v.ctx { c with step := some (x, s.now) }) v 16)) ∧
    (c.walk = none → c.step ≠ none → exec (.stepb h x) s = .next (skip s v 16)) ∧
    (c.walk ≠ none → ∃ s1, exec (.stepb h x) s = .next (stall s1 v .walk) ∧ { s1 with chains := s.chains } = s) ∧
    (c.step = none → exec (.stepe h) s = .next (skip s v 8)) ∧
    (∀ label t0, c.step = some (label, t0) → exec (.stepe h) s =
      .next (skip (setChainOf s v.ctx { c with step := none, walk := some (label, t0, s.now, (whoOf s v.whole).1, v.g.chain) }) v 8))) ∧
  (∀ (s : State) (b g : Nat) (bl : Block) (x : Group) (gr : Grid), tget s.blocks b = some bl → s.group? b g = some x → tget (sivReleaseAll s bl.core .dev).grids bl.grid = some gr →
    let new := x.trigd = false ∧ gr.pkt.trigcnt ≠ 0
    ∃ gr', tget (countTrig s b g).grids bl.grid = some gr' ∧ (new → gr'.trigs = gr.trigs + 1) ∧ (¬ new → gr'.trigs = gr.trigs) ∧
      (gr'.trigged = true ↔ gr.trigged = true ∨ (new ∧ gr.pkt.trigcnt ≤ gr.trigs + 1)) ∧
      ∀ k, k ≠ bl.grid → tget (countTrig s b g).grids k = tget (sivReleaseAll s bl.core .dev).grids k)

/-- R284, R338, R339: a deferred TRIG is counted when its accesses are acknowledged; a sleeping group wakes at its time; a yielding one goes on after 64 cycles, or when every group that was ready has issued or left. No group of a
block that is being stopped is selected. -/
def GroupsWake : Prop :=
  ∀ (s : State) (b g : Nat) (bl : Block) (x : Group), tget s.blocks b = some bl → s.group? b g = some x →
    (∀ ids rest, x.trigQ = ids :: rest → Occurs s (.trigCountApply b g) (isOpen s ids = false)
      (countTrig (s.mapGroup b g (fun y => { y with trigQ := rest })) b g)) ∧
    (x.trigQ = [] → exec (.trigCountApply b g) s = .next s) ∧
    (∀ w, x.run = .sleeping w → Occurs s (.sleepWake b g) (w ≤ s.now) (s.mapGroup b g (fun y => { y with run := .ready }))) ∧
    (∀ til os, x.run = .yielding til os → Occurs s (.yieldEnd b g) (yieldOver s til os = true)
      (s.mapGroup b g (fun y => { y with run := .ready, lastIss := y.lastIss + (s.now - (til - 64)) }))) ∧
    (∀ c q, bl.stopping = true → selectable s c q false (b, bl) (g, x) = false) ∧
    ((∀ w, x.run ≠ .sleeping w) → exec (.sleepWake b g) s = .next s) ∧
    ((∀ t o, x.run ≠ .yielding t o) → exec (.yieldEnd b g) s = .next s) ∧
    (∀ til os, til ≤ s.now → yieldOver s til os = true) ∧
    (let due := selectable s bl.core (x.slot / 64) false (b, bl) (g, x) = true ∧ x.lastIss + 256 ≤ s.now ∧ pick s bl.core (x.slot / 64) = some { blk := b, grp := g, lane := none }
     Occurs s (.starvationTimeout b g) due { s with agenda := Turn.issue bl.core (x.slot / 64) :: s.agenda })

/-- A stack as it stands when a lane is no longer out: its bit is clear in every entry. -/
def laneIn (l : Nat) (st : List StackEntry) : List StackEntry := st.map (fun e => { e with ej := e.ej &&& ~~~ laneBit l })

/-- R352, R372: the oldest waiting entry of a context. It waits while TAIL - HEAD is the ring's length, or while the link keeps its place from it. Else the header, the record and the argument words are written at SVCRING + 0x1000 * (1 + TAIL mod
2^LOG2N), then TAIL moves by one, then vector 0 (SVC) or 2 (trap) of the tenant is sent, and the parked group waits for the answer to that entry. A ring that cannot be used aborts the grid with status 0x07. -/
def ServiceEntriesAreWritten : Prop :=
  (∀ (s : State) (c : Nat), (∀ x ∈ s.svcq, x.ctx ≠ c) → exec (.serviceRingEntryWrite c) s = .next s) ∧
  (∀ (s : State) (c : Nat) (x : SvcWait), s.svcq.find? (fun x => x.ctx == c) = some x →
    let s0 : State := { s with svcq := s.svcq.erase x }
    (∀ bl, tget s.blocks x.blk = some bl → svcHeader s c = none → exec (.serviceRingEntryWrite c) s = .next (abortGrid s0 bl.grid 7)) ∧
    (∀ base head tail lg, svcHeader s c = some (base, head, tail, lg) →
      (2 ^ lg ≤ (tail + 2 ^ 48 - head) % 2 ^ 48 ∨ svcWaits s c base tail lg = true → exec (.serviceRingEntryWrite c) s = .next s) ∧
      ((tail + 2 ^ 48 - head) % 2 ^ 48 < 2 ^ lg → svcWaits s c base tail lg = false →
        (∀ bl, tget s.blocks x.blk = some bl → svcWrite s0 c base tail lg x.kind x.who x.lanes x.record.resume x.record x.args = none → exec (.serviceRingEntryWrite c) s = .next (abortGrid s0 bl.grid 7)) ∧
        (∀ s1 s2 s3, let e := base + BitVec.ofNat 64 (4096 * (1 + tail % 2 ^ lg))
          ctxPut s0 c e (toBytes 8 x.kind.toNat ++ toBytes 8 x.who.toNat ++ toBytes 8 x.lanes.toNat ++ toBytes 8 x.record.resume.toNat ++ List.replicate 32 0 ++ recordBytes x.record) = some s1 →
          x.args.foldl (fun (o : Option State) a => o.bind (fun s => ctxPut s c (e + BitVec.ofNat 64 (0x80 + 32 * a.1)) (a.2.flatMap (fun w => toBytes 4 w.toNat)))) (some s1) = some s2 →
          ctxPutWord s2 c (base + 8) (BitVec.ofNat 64 ((tail + 1) % 2 ^ 48)) = some s3 →
          let s4 := sendMsix s3 (tenantIdx s c) (if x.isSvc then 0 else 2)
          exec (.serviceRingEntryWrite c) s = .next (if x.parks then s4.mapGroup x.blk x.grp (Group.entered tail) else s4))))) ∧
  (∀ (g : Group) (n : Nat) (isSvc : Bool) (d : Nat) (l : Mask) (r : TrapRecord), g.run = .parkedOff (.service none isSvc d l r) → (Group.entered n g).run = .parkedOff (.service (some n) isSvc d l r))

/-- An agent is the next in turn of a list after place `from_`: the lowest at or above it, or else the lowest of all. -/
def NextInTurn {α : Type} (key : α → Nat) (from_ : Nat) (l : List α) (x : α) : Prop :=
  x ∈ l ∧ ((from_ ≤ key x ∧ ∀ y ∈ l, from_ ≤ key y → key x < key y ∨ y = x) ∨ ((∀ y ∈ l, key y < from_) ∧ ∀ y ∈ l, key x < key y ∨ y = x))

/-- R392: a sampling takes the next occupied group slot of each quarter and the next occupied thread of the scruple pool; an empty rotation writes nothing. The record of an agent whose tenant's period has passed holds its PC, the ECSN of the command
it stalls on, its id, its context, the first stall reason that holds with the issued flag, and VTIME; it goes to TAIL's place and TAIL moves by one; a full ring counts it as lost. -/
def SamplesAreRecorded : Prop :=
  (∀ (s : State) (c : Nat), (sampleDue s c = false → exec (.pcSample c) s = .next s) ∧
    (sampleDue s c = true → ∃ t, exec (.pcSample c) s = .next t ∧ (t.core c).sampled = s.clk.toNat ∧
      t = (samplePool s c (sampleQuarter s c (sampleQuarter s c (sampleQuarter s c (sampleQuarter s c s 0) 1) 2) 3)).mapCore c (fun k => { k with sampled := s.clk.toNat }))) ∧
  (∀ (s0 s : State) (c q : Nat), let l := (slotAgents s0 c).filter (fun x => x.2.2.2.slot / 64 == q)
    (l = [] → sampleQuarter s0 c s q = s) ∧
    (∀ x, NextInTurn (fun (x : Nat × Block × Nat × Group) => x.2.2.2.slot) ((s0.core c).sample.getD q 0) l x →
      sampleQuarter s0 c s q = (sampleAgent s0 s x.1 x.2.1 x.2.2.1 x.2.2.2 none).mapCore c (fun k => { k with sample := k.sample.set q (x.2.2.2.slot + 1) })) ∧
    (poolAgents s0 c = [] → samplePool s0 c s = s) ∧
    (∀ x, NextInTurn (fun (x : Nat × Block × Nat × Group × Thread) => x.2.2.2.2.num) ((s0.core c).sample.getD 4 0) (poolAgents s0 c) x →
      samplePool s0 c s = (sampleAgent s0 s x.1 x.2.1 x.2.2.1 x.2.2.2.1 (some x.2.2.2.2)).mapCore c (fun k => { k with sample := k.sample.set 4 (x.2.2.2.2.num + 1) }))) ∧
  (∀ (s0 s : State) (b : Nat) (bl : Block) (gi : Nat) (g : Group) (th : Option Thread) (t : Tenant), tenantOf s0 bl.ctx = some t →
    (samplePeriod s0 bl.core t = false → sampleAgent s0 s b bl gi g th = s) ∧
    (samplePeriod s0 bl.core t = true →
      let r := (th.map (fun x => x.r)).getD g.r
      let run := (th.map (fun x => x.run)).getD g.run
      let who := (th.map (fun x => 272 + x.num)).getD g.slot
      ∃ issued : Bool, let why := stallReason s0 b bl gi g (th.map (fun x => x.lane)) r run issued
        sampleAgent s0 s b bl gi g th = putSample s t (toBytes 8 r.pc.toNat ++ toBytes 8 (stallEcsn s0 b bl gi g why).toNat ++ toBytes 4 (agentId s0 bl.core who) ++ toBytes 2 bl.ctx ++
          toBytes 1 (why + (if issued then 128 else 0)) ++ toBytes 1 0 ++ toBytes 8 s0.now) ∧
        (th = none → (issued = true ↔ s0.now = g.issAt + 1 ∧ tget (s0.core bl.core).greedy (g.slot / 64) = some (b, gi))) ∧
        (issued = true → why = 0) ∧ (issued = false → 1 ≤ why ∧ why ≤ 29 ∧ (∀ x ∈ stallCauses s0 b bl gi g (th.map (fun x => x.lane)) r run, why ≤ x) ∧
          (why ∈ stallCauses s0 b bl gi g (th.map (fun x => x.lane)) r run ∨ why = 29)))) ∧
  (∀ (s : State) (t : Tenant) (rec_ : List Byte), let tail := physWord s (t.sample + 8)
    let head := physWord s (t.sample + 16)
    (sampleHeader s t = none → putSample s t rec_ = s) ∧
    (∀ n cap, sampleHeader s t = some (n, cap) →
      (cap ≤ (tail - head).toNat → putSample s t rec_ = physPutWord s (t.sample + 24) (physWord s (t.sample + 24) + 1)) ∧
      ((tail - head).toNat < cap → sampleOk s t (t.sample + 0x40 + 32 * (tail.toNat % cap)) 32 = true →
        putSample s t rec_ = physPutWord (physPut s (t.sample + 0x40 + 32 * (tail.toNat % cap)) rec_) (t.sample + 8) (tail + 1))))

/-- R302, R305, R307: a lane that returns brings home the registers of its back map, its predicates and its FPF, a recalled one every register that has a slot, with what its windows held; no thread of the lane is left, no reservation, and
no entry holds its bit. A group parked at the entry takes its path once no lane is out under it. A recalled lane becomes an entry directly above its reconvergence entry, with its own PC and rejoin point, or joins one recalled earlier there. -/
def LanesMerge : Prop :=
  ∀ (x : Group) (th : Thread), th.lane < 64 → (∀ n ∈ th.slots, n < 256) →
    (∀ y regs src, (y = returnLane x th ∧ regs = (fun n => th.back.getLsbD n) ∧ src = th.r) ∨ (y = recallLane x th ∧ regs = (fun n => decide (n ∈ th.slots)) ∧ src = th.r.flush) →
      (∀ l n, l < 64 → n < 256 → y.r.vget l n = if l = th.lane ∧ regs n = true then src.vget l n else x.r.vget l n) ∧
      (∀ l n, l < 64 → n < 7 → y.r.pget l n = if l = th.lane then src.pget l n else x.r.pget l n) ∧
      y.r.k = x.r.k ∧ y.r.q = x.r.q ∧ y.r.fpf = x.r.fpf ||| src.fpf ∧
      (∀ t ∈ y.threads, t.lane ≠ th.lane) ∧ (∀ r ∈ y.resv, r.lane ≠ th.lane) ∧ (∀ e ∈ y.stack, e.ej.getLsbD th.lane = false)) ∧
    ((∀ n, x.run ≠ .parkedJoin n) → (returnLane x th).stack = laneIn th.lane x.stack ∧ (returnLane x th).r.pc = x.r.pc ∧ (returnLane x th).r.mask = x.r.mask ∧ (returnLane x th).run = x.run) ∧
    (∀ n e rest, x.run = .parkedJoin n → x.stack = e :: rest →
      (e.ej &&& ~~~ laneBit th.lane ≠ 0 → (returnLane x th).stack = laneIn th.lane x.stack ∧ (returnLane x th).run = x.run) ∧
      (e.ej &&& ~~~ laneBit th.lane = 0 → e.mask ≠ 0 → (returnLane x th).run = .ready ∧ (returnLane x th).r.pc = e.pc ∧ (returnLane x th).r.mask = e.mask ∧
        (returnLane x th).r.rpc = e.rpc ∧ (returnLane x th).stack = laneIn th.lane rest)) ∧
    (let new : StackEntry := { ej := 0, rpc := th.rejoin, mask := laneBit th.lane, pc := th.r.pc, kd := false, recalled := true }
     let y := recallLane x th
     (th.lane, th.rejoin) ∈ y.noEj ∧
     (∀ pre k post, x.stack = pre ++ k :: post → k.kd = true → k.recalled = false → k.ej.getLsbD th.lane = true → (∀ e ∈ pre, ¬ (e.kd = true ∧ e.ej.getLsbD th.lane = true)) →
       ((∀ n, x.run ≠ .parkedJoin n) → (∀ e ∈ pre, ¬ (e.recalled = true ∧ e.pc = new.pc ∧ e.rpc = new.rpc)) → y.stack = laneIn th.lane (pre ++ new :: k :: post) ∧ y.run = x.run ∧ y.r.pc = x.r.pc ∧ y.r.mask = x.r.mask) ∧
       ((∀ n, x.run ≠ .parkedJoin n) → ∀ old, pre = [old] → old.kd = false → old.recalled = true → old.pc = new.pc → old.rpc = new.rpc →
         y.stack = laneIn th.lane ({ old with mask := old.mask ||| laneBit th.lane } :: k :: post)) ∧
       (∀ n, x.run = .parkedJoin n → pre = [] → y.run = .ready ∧ y.r.pc = th.r.pc ∧ y.r.mask = laneBit th.lane ∧ y.r.rpc = th.rejoin ∧ y.stack = laneIn th.lane (k :: post))))

end Sys2Proof.Claims

section

open Sys2Proof Sys2Proof.Machine Sys2Proof.Claims

/-- TRIG, YIELD, SLEEP, STEPB and STEPE, and the events that end waits: each of its parts holds. -/
def Obligations.TriggersSleepsAndWakes : Prop :=
  TriggersYieldsAndSteps ∧ GroupsWake

/-- R336: LAUNCH raises ALIGN for a packet that is not 64-byte aligned, the cause of a packet that cannot be read, and PERM for a queue of another context; it answers all ones for a full queue, and otherwise enqueues the packet and answers its handle. The order of the checks and the address of the PERM trap follow log 25. -/
def Obligations.LaunchEnqueues : Prop :=
  ∀ (s : State) (v : View) (h : Hdr) (x : Word), GroupRuns s v h →
    let a := groupAccess s v x 32 true false
    (x.toNat % 64 ≠ 0 → exec (.launch h x) s = .next (takeTrap s v { cause := .align, lanes := v.mask, addr := x })) ∧
    (∀ c va, x.toNat % 64 = 0 → a.cause = some (c, va) → exec (.launch h x) s = .next (takeTrap s v (groupTrap v c x a.dom .dev false))) ∧
    (x.toNat % 64 = 0 → a.cause = none → releaseAll s v.core v.whole v.mask .dev = none → exec (.launch h x) s = .next (stall s v .launch)) ∧
    (∀ s1, x.toNat % 64 = 0 → a.cause = none → releaseAll s v.core v.whole v.mask .dev = some s1 →
      let s2 := touchAll s1 v.core v.ctx a.spans false
      let qn := leAt (a.spans.flatMap (fun sp => physBytes s2 sp.pa sp.len)) 0x1E 2 % 4096
      let q := queueOf s2 qn
      let b := groupAccess s2 v (q.entryVa q.tail) 8 false true
      (q.ctx ≠ v.ctx → exec (.launch h x) s = .next (takeTrap s2 v { cause := .perm, lanes := v.mask })) ∧
      (q.ctx = v.ctx → q.tail - q.head = 2 ^ q.log2n → exec (.launch h x) s = .next (finish s2 v 16 [.k h.d.toNat (BitVec.allOnes 64)] 0)) ∧
      (∀ c va, q.ctx = v.ctx → q.tail - q.head ≠ 2 ^ q.log2n → b.cause = some (c, va) →
        exec (.launch h x) s = .next (takeTrap s2 v (groupTrap v c (q.entryVa q.tail) b.dom .dev true))) ∧
      (q.ctx = v.ctx → q.tail - q.head ≠ 2 ^ q.log2n → b.cause = none → ∃ s3 q', exec (.launch h x) s =
        .next (finish s3 v 16 [.k h.d.toNat (BitVec.ofNat 64 (qn * 2 ^ 48 + q.tail % 2 ^ 48))] 0) ∧ tget s3.queues qn = some q' ∧ q' = { q with tail := (q.tail + 1) % 2 ^ 48 } ∧
        (∀ k, k ≠ qn → tget s3.queues k = tget s.queues k)))

/-- R302, R305, R307, R310: an ejected lane starts after its hand-over, returns at its rejoin point, and is recalled once its awaited answer has come; the lanes still out are recalled when the rejoin count runs out; a group whose fairness count is full takes the
sibling path on top of its stack, which it leaves in its place. What a return and a recall leave of the lane's registers, its thread and the stack is said of each. -/
def Obligations.LanesComeHomeAndPathsRotate : Prop :=
  LanesMerge ∧
  (∀ (s : State) (b g l : Nat) (x : Group) (th : Thread), s.group? b g = some x → x.thread? l = some th →
    let ag : AgentRef := { blk := b, grp := g, lane := some l }
    Occurs s (.scrupleThreadStart ag) (th.run = .starting) (s.mapGroup b g (fun y => y.setThread { th with run := .ready })) ∧
    Occurs s (.laneReturnComplete ag) (th.run = .returning) (s.mapGroup b g (fun y => returnLane y th)) ∧
    Occurs s (.laneRecallComplete ag) (th.run = .recalling ∧ th.settledDown = true ∧ (x.halted = false ∨ x.completing = true)) (s.mapGroup b g (fun y => recallLane y th))) ∧
  (∀ (s : State) (b g : Nat) (bl : Block) (x : Group), tget s.blocks b = some bl → s.group? b g = some x →
    let due := ∃ n, x.run = .parkedJoin n ∧ rejoinLimit s bl.ctx ≤ n ∧ x.halted = false ∧ bl.res = .resident
    (due → ∃ t y, exec (.rejoinTimeout b g) s = .next t ∧ t.group? b g = some y ∧ y.rejoins = x.rejoins + 1 ∧ t.mem = s.mem ∧
      ∀ e rest, x.stack = e :: rest → ∀ th ∈ y.threads, e.ej.getLsbD th.lane = true → th.run = .recalling) ∧
    (¬ due → exec (.rejoinTimeout b g) s = .next s)) ∧
  (∀ (s : State) (b g : Nat) (x : Group), s.group? b g = some x →
    (fairnessDue x = false → exec (.fairnessRotation b g) s = .next s) ∧
    (fairnessDue x = true → ∃ t y, exec (.fairnessRotation b g) s = .next t ∧ t.group? b g = some y ∧ y.fair = 0 ∧ t.mem = s.mem ∧
      (∀ e rest, x.stack = e :: rest → e.kd = false → e.rpc = x.r.rpc →
        y.r.pc = e.pc ∧ y.r.mask = e.mask ∧ y.r.rpc = e.rpc ∧ y.stack = { ej := 0, rpc := x.r.rpc, mask := x.r.mask, pc := x.r.pc, kd := false, recalled := false } :: rest) ∧
      ((∀ e rest, x.stack = e :: rest → e.kd = true ∨ e.rpc ≠ x.r.rpc) → y.r = x.r ∧ y.stack = x.stack)))

/-- R282, R288, R294: at the end of a mapping quantum every queue that has work and no slot has waited one quantum more before the slots are filled again; an idle slot takes the winner at once. At the end of a time-slice quantum the blocks that go on waiting, and the waiting clusters of a grid, have waited one more, and a core on which the active context and the other one have ready
groups switches; the first waiting cluster for which there is room, or can be made, is served.
A core switches context when the active one has had no ready group for 16 cycles and the other has one. Ties between queues follow log 25. -/
def Obligations.QuantaAndSlots : Prop :=
  (∀ s : State,
    (s.sched.mapped < s.clk.toNat / 140000 → ∃ t, exec .mappingQuantumEnd s = .next t ∧ t.mem = s.mem ∧ t.blocks = s.blocks ∧ t.grids = s.grids ∧ t.queues = s.queues ∧ t.sched.mapped = s.clk.toNat / 140000 ∧
      t = (slotTenants s).foldl remapTenant (ageQueues { s with sched := { s.sched with mapped := s.clk.toNat / 140000 } }) ∧
      ((s.tenants.map Prod.fst).Nodup → ∀ q, q ∈ (s.queues.filter (fun e => e.2.work && !isMapped s e.1)).map Prod.fst → isMapped t q = false →
        tget t.sched.age q = some ((tget s.sched.age q).getD 0 + 1)) ∧
      (∀ q, q ∉ (s.queues.filter (fun e => e.2.work && !isMapped s e.1)).map Prod.fst → tget t.sched.age q = none)) ∧
    (¬ s.sched.mapped < s.clk.toNat / 140000 → exec .mappingQuantumEnd s = .next s)) ∧
  (∀ (s : State) (q : Nat), q ∈ (s.queues.filter (fun e => e.2.work && !isMapped s e.1)).map Prod.fst →
    tget (ageQueues s).sched.age q = some ((tget s.sched.age q).getD 0 + 1)) ∧
  (∀ (s : State) (slot : Nat),
    (∀ t q, idleWinner s slot = some (t, q) → exec (.queueSlotMap slot) s = .next (mapSlot s t slot q) ∧ q ∈ workQueues s t ∧ isMapped s q = false ∧
      ∀ u, u ∈ workQueues s t → isMapped s u = false → effPrio s u ≤ effPrio s q) ∧
    (idleWinner s slot = none → exec (.queueSlotMap slot) s = .next s)) ∧
  (∀ (s : State), let n := s.mgmt.quantumUs * 1400
    (0 < n → s.sched.sliced < s.clk.toNat / n → ∃ t, exec .timesliceQuantumEnd s = .next t ∧ t.sched.sliced = s.clk.toNat / n ∧
      let s1 := quantumSwitch (ageWaits { s with sched := { s.sched with sliced := s.clk.toNat / n } })
      (∀ b bl x, tget s.blocks b = some bl → bl.res = .preempted → (∀ w, firstServed s1 = some w → b ∉ w.keys) → tget t.blocks b = some x → x.waited = bl.waited + 1 ∨ x.placed = s.now) ∧
      (∀ k gr x, tget s.grids k = some gr → gr.done = false → gr.next < gr.pkt.blocks → tget t.grids k = some x → x.waited = gr.waited + 1) ∧
      ((s.cores.map Prod.fst).Nodup → ∀ c x a, c ∈ s.cores.map Prod.fst → otherCtx s c = some x → (s.core c).active = some a → hasReady s c x = true → hasReady s c a = true → (s1.core c).active = some x)) ∧
    (¬ (0 < n ∧ s.sched.sliced < s.clk.toNat / n) → exec .timesliceQuantumEnd s = .next s)) ∧
  (∀ (s : State) (core x : Nat), otherCtx s core = some x →
    let due := hasReady s core x = true ∧ ((s.core core).active = none ∨ 16 ≤ (s.core core).idle)
    Occurs s (.contextSwitch core) due (switchTo s core x))

/-- R279, R283: the head packet of a mapped queue is rejected, with its status in the queue's ERR and its completion record, counted as triggered and completed, and vector 3 sent, at the first check that it fails; it is launched once its predecessor has triggered, its dependences are met and the grid table has room; else it
waits. HEAD then moves by one. What counts as an unreadable packet follows log 25. -/
def Obligations.GridsLaunch : Prop :=
  (∀ (s : State) (slot qn : Nat), slotQueue s slot = some qn → let q := queueOf s qn
    (headAct s qn = .wait → exec (.gridLaunch slot) s = .next s) ∧
    (∀ st done, headAct s qn = .reject st done → ∃ t q1 gr, exec (.gridLaunch slot) s = .next t ∧ tget t.queues qn = some q1 ∧ q1.head = (q.head + 1) % 2 ^ 48 ∧
      tget t.grids (handleOf qn q.head) = some gr ∧ gr.done = true ∧ gr.trigged = true ∧ gr.status = st ∧
      (let s1 := headOn { s with grids := tset s.grids (handleOf qn q.head) { Grid.fresh qn q.head q.ctx Packet.blank with done := true, trigged := true, status := st, since := s.now } } qn st
       (done = 0 ∨ done.toNat % 8 ≠ 0 → q1.err = st ∧ t.mem = s.mem) ∧
       (∀ s2, done ≠ 0 → done.toNat % 8 = 0 → ctxPutWord s1 q.ctx done (BitVec.ofNat 64 (s.now % 2 ^ 56 * 256 + st)) = some s2 → q1.err = st ∧ t.mem = s2.mem)) ∧
      (let m := ((tenantIdx s q.ctx).getD 16, 3)
       (s.host.masked m = false → t.host.msix = s.host.msix ++ [m]) ∧ (s.host.masked m = true → m ∈ t.host.msixPend))) ∧
    (∀ p, headAct s qn = .launch p → ∃ t gr, exec (.gridLaunch slot) s = .next t ∧ tget t.grids (handleOf qn q.head) = some gr ∧ gr.pkt = p ∧ gr.ctx = q.ctx ∧ gr.done = false ∧
      gr.trigged = false ∧ gr.next = 0 ∧ t.mem = s.mem ∧ t.blocks = s.blocks ∧ (tget t.queues qn).map (fun y => y.head) = some ((q.head + 1) % 2 ^ 48))) ∧
  (∀ (s : State) (slot : Nat), slotQueue s slot = none → exec (.gridLaunch slot) s = .next s) ∧
  (∀ (s : State) (qn : Nat) (x : Word) (bs : List Byte) (p : Packet), headWaits s (queueOf s qn) = false → headPacket s (queueOf s qn) = some (x, bs, p) → let q := queueOf s qn
    let st := packetStatus s q.ctx x bs p
    (st ≠ 0 → headAct s qn = .reject st p.done) ∧
    (st = 0 → headAct s qn = .launch p ∨ headAct s qn = .wait) ∧
    (headAct s qn = .launch p → st = 0 ∧ (q.head ≠ 0 → ∀ y, tget s.grids (handleOf qn (q.head - 1)) = some y → y.trigged = true) ∧ (∀ d ∈ p.deps, d.getLsbD 63 = true → depMet s d = true) ∧
      (s.grids.filter (fun e => !e.2.done)).length < 512)) ∧
  (∀ (s : State) (ctx : Nat) (x : Word) (bs : List Byte) (p : Packet),
    (x.toNat % 64 ≠ 0 ∨ p.entry.toNat % 8 ≠ 0 → packetStatus s ctx x bs p = 1) ∧ packetStatus s ctx x bs p ≤ 6 ∧
    (packetStatus s ctx x bs p = 0 → 1 ≤ p.gx ∧ 1 ≤ p.gy ∧ 1 ≤ p.gz ∧ 16 ≤ p.regs ∧ p.regs ≤ 256 ∧ p.regs % 8 = 0 ∧ p.kregs ≤ 32 ∧ 1 ≤ p.groups ∧ p.groups ≤ 16 ∧ p.producer < p.groups ∧
      p.prio ≤ 7 ∧ p.ejt ≤ 8 ∧ 1 ≤ p.cluster ∧ p.blocks % p.cluster = 0))

/-- R280, R286, R289, R290, R292 to R294: a cluster that waits, has its save slots and comes first of those with room is placed on cores that R286 allows; every group of a fresh block starts as R280 says. PREEMPT stops the clusters that the victim order names for the first in line, or the one whose group slot is needed: at
once where they can stop, else they issue nothing more and are stopped when they can; a group that may resume takes a free slot of its quarter; the stream engine takes one granule operation at a time. The order among clusters with room and the granules chosen follow log 26. -/
def Obligations.BlocksComeAndGo : Prop :=
  (∀ (s : State) (w : Wait) (b : Nat) (cores : List Nat) (f : Nat), MayPlace s w b cores f →
    (w.fresh = true → exec (.blockPlace b cores f) s = .next (placeCluster s w cores f)) ∧ (w.fresh = false → exec (.blockResume b cores f) s = .next (placeCluster s w cores f))) ∧
  (∀ (s : State) (b : Nat) (cores : List Nat) (f : Nat),
    ((∀ w, ¬ (MayPlace s w b cores f ∧ w.fresh = true)) → exec (.blockPlace b cores f) s = .next s) ∧
    ((∀ w, ¬ (MayPlace s w b cores f ∧ w.fresh = false)) → exec (.blockResume b cores f) s = .next s)) ∧
  (∀ (s : State) (w : Wait) (rank key core f i : Nat), w.fresh = true → i < (waitPacket s w).groups →
    ∃ g, (placeBlock s w rank key core f).group? key i = some g ∧ StartsAs (waitPacket s w) g) ∧
  (∀ (s : State) (b : Nat), let ready := (stoppingClusters s).find? (fun b => (clusterKeys s b).all (canStop s))
    (ready = some b → exec (.preempt b) s = .next (preemptCluster s b)) ∧
    (∀ w vs, ready = none → b ∉ stoppingClusters s → nextDemand s = some (.room w (b :: vs)) → exec (.preempt b) s = .next ((b :: vs).foldl stopCluster s)) ∧
    (ready = none → b ∉ stoppingClusters s → nextDemand s = some (.slot b) → exec (.preempt b) s = .next (stopCluster s b)) ∧ (nextVictim s ≠ some b → exec (.preempt b) s = .next s)) ∧
  (∀ (s : State) (b : Nat), ((clusterKeys s b).all (canStop s) = true → stopCluster s b = preemptCluster s b) ∧
    ((clusterKeys s b).all (canStop s) = false → (stopCluster s b).mem = s.mem ∧ (stopCluster s b).cores = s.cores ∧
      ∀ k bl, tget s.blocks k = some bl → tget (stopCluster s b).blocks k = some (if k ∈ clusterKeys s b then { bl with stopping := true } else bl))) ∧
  (∀ (s : State) (b : Nat) (bl x : Block), tget s.blocks b = some bl → tget (preemptBlock s b).blocks b = some x →
    x.res = .preempted ∧ x.placed = s.now ∧ x.stopping = false ∧ ∀ e ∈ ((preemptBlock s b).core bl.core).used, e.2.1 ≠ b) ∧
  (∀ (s : State) (b g : Nat) (bl : Block) (x : Group), tget s.blocks b = some bl → s.group? b g = some x →
    (∀ n rest, bl.res = .resident → x.run = .parkedOff .resumed → (∀ a, bl.save = some a → slotAltered s bl (inRecord a g) = false) → freeGroupSlots s bl.core ((bl.first + g) % 4) = n :: rest → ∃ t y, exec (.parkedGroupReload b g) s = .next t ∧
      t.group? b g = some y ∧ y.slot = n ∧ (x.r.mask ≠ 0 → y.run = .ready ∧ y.r = x.r) ∧ tget (t.core bl.core).used n = some (b, g) ∧ t.mem = s.mem) ∧
    (bl.res ≠ .resident ∨ x.run ≠ .parkedOff .resumed ∨ freeGroupSlots s bl.core ((bl.first + g) % 4) = [] → exec (.parkedGroupReload b g) s = .next s)) ∧
  (∀ (s : State) (core gr : Nat), (∀ t, gr < 104 → streamOp s core gr = some t → exec (.granuleStreamOperation core gr) s = .next t) ∧
    (104 ≤ gr ∨ streamOp s core gr = none → exec (.granuleStreamOperation core gr) s = .next s) ∧
    (let g := granOf s core gr
     gr < 104 → g.claim = none → g.st = .free → g.last ≠ none → streamOp s core gr = some (setGran s core gr { g with last := none, data := [] })))

/-- R340, R350, R349, R372, R392, R395: a waiting service entry is written at TAIL when the ring has room, TAIL moves by one and the vector is sent; one that cannot be written aborts its grid; a population request is written to its tenant's ring when its next entry is free; a walk ends with the step of the first group that waits for it; a core is sampled when a
tenant's period has passed, each quarter and the scruple pool writing one record of the next agent in turn to its tenant's ring; the sweeper reads one frame each 4 cycles, in order, and none while it is paused. -/
def Obligations.RingsSamplesAndSweeps : Prop :=
  ServiceEntriesAreWritten ∧ SamplesAreRecorded ∧
  (∀ (s : State) (c : Nat),
    (∀ p, popRoom s c = true → popReady s c = some p → exec (.populationRequestWrite c) s = .next (popWrite s c p) ∧ tget (popWrite s c p).popIdx c = some (popNext s c + 1) ∧
      (∀ d, tget s.tenants c = some d → (popWrite s c p).mem = (guardedPut { s with pops := s.pops.map (fun x => if x = p then { x with written := some (popNext s c) } else x), popIdx := tset s.popIdx c (popNext s c + 1) }
        (d.popring + 16 * (popNext s c % 4096)) (popBytes p)).mem)) ∧
    (popRoom s c = false ∨ popReady s c = none → exec (.populationRequestWrite c) s = .next s) ∧
    (∀ label t0 t1 who ptr, (chainOf s c).walk = some (label, t0, t1, who, ptr) → ∃ t, exec (.chainWalkComplete c) s = .next t ∧ (chainOf t c).walk = none ∧ (chainOf t c).stalled = [] ∧
      (chainOf t c).step = (firstStalled (writeReport s c label t0 t1 who ptr) (chainOf (writeReport s c label t0 t1 who ptr) c)).map (fun x => (x.2.2.1, s.now)) ∧
      t.mem = (writeReport s c label t0 t1 who ptr).mem) ∧
    ((chainOf s c).walk = none → exec (.chainWalkComplete c) s = .next s)) ∧
  (∀ (s : State), let due := s.priv.swctl.getLsbD 63 = true ∧ s.priv.swept < s.clk.toNat / 4
    let s1 := { s with priv := { s.priv with swept := s.clk.toNat / 4, swpause := sweepPaused s.priv } }
    (due → sweepPaused s.priv = true → exec .sweeperStep s = .next s1) ∧
    (due → sweepPaused s.priv = false → ∃ t, exec .sweeperStep s = .next t ∧ t.mem = (sweepFrame s1 s.priv.frame).mem ∧ t.priv.frame = ((sweepFrame s1 s.priv.frame).priv.frame + 1) % Config.hbmFrames) ∧
    (¬ due → exec .sweeperStep s = .next s))

end

/-! ### Coherence messages and the world outside (spec/07_coherence.md, 13_isolation.md R349 to R362, 14_recovery.md R373 to R383, 15_observation.md R386 to R391, 18_package.md R414 to R424) -/

namespace Sys2Proof.Claims

open Sys2Proof.Machine

/-- The requests of a requester with nothing to evict (R196, R201): the event, and the request with what it carries, on the network of its domain (R209). -/
def requestForms (h : HomeRef) (child : Nat) (tag : ObjTag) (sec : Nat) (w : SecWrite) (op : HomeAtomic) : List (Instr × HeldReq) :=
  [(.gets h ⟨child, tag⟩ sec, bareReq 0 child tag sec), (.getx h ⟨child, tag⟩ sec, bareReq 1 child tag sec), (.upg h ⟨child, tag⟩ sec, bareReq 2 child tag sec),
   (.wt h ⟨child, tag⟩ w, { event := 7, child := child, tag := tag, sec := w.sec, dom := w.dom, ws := [w], op := none }),
   (.atomh h ⟨child, tag⟩ op, { event := 8, child := child, tag := tag, sec := secOf op.pa, dom := op.dom, ws := [], op := some op }),
   (.ntwb h ⟨child, tag⟩ w, { event := 9, child := child, tag := tag, sec := w.sec, dom := w.dom, ws := [w], op := none })]

/-- The messages, by the event in which message `i` of the networks is received (R202). -/
def messageForms (i : Nat) : List (Instr × MsgKind) :=
  [(.invalidationAck i, .invAck), (.dataS i, .dataS), (.dataSw i, .dataSW), (.dataE i, .dataE), (.ack i, .ack), (.wtack i, .wtack), (.atomr i, .atomr), (.inv i, .inv),
   (.update i, .update), (.fwdGets i, .fwdGets), (.fwdGetx i, .fwdGetx)]

/-- The fields of an entry of a protocol table that R204 and R205 state: response, forward, sharer operation, fan-out, WR, AT, LOG and next state. -/
def entryFields (p : Proto) (st ev : Nat) : Nat × Nat × Nat × Nat × Bool × Bool × Bool × Nat :=
  let e := p.entry st ev
  (e.resp, e.fwd, e.shr, e.fan, e.wr, e.at_, e.log, e.next)

/-- In `t` the groups of the list have the change `f`, and every other group is as in `s`. -/
def OnGroups (s t : State) (l : List (Nat × Nat)) (f : Group → Group) : Prop :=
  ∀ b g, t.group? b g = if (b, g) ∈ l then (s.group? b g).map f else s.group? b g

/-- The event leads to `t` with a status byte appended to what the host has been told, and shown by the mailbox. -/
def Replies (s : State) (i : Instr) (t : State) (n : Nat) : Prop := exec i s = .next { t with host := { t.host with status := t.host.status ++ [n], mbxStatus := BitVec.ofNat 8 n } }

/-- A debug command on a group may act: its context exists, is held and is not confidential, and the group is halted with its windows settled. -/
def HeldGroup (s : State) (ctx b g : Nat) (bl : Block) (x : Group) : Prop :=
  dbgRefused s ctx true = none ∧ dbgGroup s ctx b g = some (bl, x) ∧ x.halted = true ∧ x.r.awaiting = false

/-- The block whose state an error loses (R379). -/
def lostBlock : ErrorSite → Option Nat
  | .regGranule b _ | .kregs b _ | .stack b _ | .lspace b _ | .abuf b _ | .wbuf b _ => some b
  | .bte .. | .cleanLine .. | .matrix .. | .mirror .. => none

/-- What a reset leaves of the device (R421): memory on the device lists nothing, no context, block, grid, cache, queue or fabric state is left, and boot starts over; the boot flash, and the host's memory, stay. -/
structure ClearedBy (s t : State) : Prop where
  mem : ∀ a, a < hostBase → sget t.mem a = 0
  host : ∀ a, hostBase ≤ a → sget t.mem a = sget s.mem a
  tables : t.blocks = [] ∧ t.grids = [] ∧ t.ctxs = [] ∧ t.tenants = [] ∧ t.queues = [] ∧ t.cores = [] ∧ t.ccs = [] ∧ t.dir = [] ∧ t.protos = [] ∧ t.objs = [] ∧ t.keys = [] ∧ t.ctrs = [] ∧
    t.windows = [] ∧ t.experts = [] ∧ t.pops = [] ∧ t.dbg = [] ∧ t.net = [] ∧ t.reqs = [] ∧ t.late = [] ∧ t.fab = State.reset.fab ∧ t.priv = State.reset.priv
  clock : t.vtime = 0
  link : t.host.up = false
  ready : t.mgmt.ready = false
  flash : t.mgmt.flash = s.mgmt.flash

end Sys2Proof.Claims

section

open Sys2Proof Sys2Proof.Machine Sys2Proof.Claims

/-- R193, R196, R200, R201, R203, R208, R209: a requester sends what R201 lets it send, unless a write-back of the piece or an own request for it is under way. The request leaves on the network of its domain, and the event brings it to its home; one behind an earlier request of its pair,
on a network that keeps their order, stays on its way. A cluster cache that owns the sector passes an L1's request to its own engine; one that does not takes the copy first. At the L2 home a request waits in the set while every way of it has a request in progress; behind a
piece in progress, or whose owner's data is on its way, it is held, in arrival order; where its entry has no fan-out, write, atomic or forward the home answers at once with the piece's data, and the piece takes the owner, sharers and state of the entry. An evicting cache holds
its copies in its write-back buffer and sends PUTS when all are clean, PUTX with the dirty sectors otherwise, on the network of the strongest domain that dirtied them. What becomes of pieces that overlap, and that requests wait for an owner's data, is log 41. -/
def Obligations.CoherenceRequests : Prop :=
  (∀ (s : State) (h : HomeRef) (child : Nat) (tag : ObjTag) (sec : Nat) (w : SecWrite) (op : HomeAtomic), ∀ e ∈ requestForms h child tag sec w op,
    let ok := childOk h child = true ∧ mayAsk s h e.2 = true ∧ backPending s h child e.2.sec = false
    (ok → exec e.1 s = .next (arriveLast (sendRequest s h e.2))) ∧ (¬ ok → exec e.1 s = .next s)) ∧
  (∀ (s : State) (h : HomeRef) (r : HeldReq), let cached := h ≠ .l2 ∨ r.child < 64
    let copy := (cacheGet s (childCache h r.child) r.sec).filter (fun x => x.mode == .trk)
    (r.event = 0 ∨ r.event = 1 → (mayAsk s h r = true ↔ cached ∧ copy = none)) ∧
    (r.event = 2 → (mayAsk s h r = true ↔ cached ∧ ∃ x, copy = some x ∧ x.perm ≠ .own)) ∧
    (r.event = 7 → (mayAsk s h r = true ↔ (cached → ∃ x, copy = some x ∧ x.perm = .writeThrough))) ∧
    (r.event = 8 ∨ r.event = 9 → mayAsk s h r = true)) ∧
  (∀ (s : State) (n : Nat) (r : HeldReq), sendRequest s .l2 r = { noteSent s .l2 r with reqs := s.reqs ++ [(.l2, r)] } ∧
    (∀ x, cacheGet s (.cc n) r.sec = some x → x.mode = .trk → x.perm = .own → backPending s .l2 n r.sec = false →
      sendRequest s (.cc n) r = { noteSent s (.cc n) r with reqs := s.reqs ++ [(.cc n, r)] }) ∧
    (r.event ∈ [1, 2, 3] → let s1 := ccEnsure s n r.tag r.sec r.dom (ccGrants s n r) 0
      sendRequest s (.cc n) r = { noteSent s1 (.cc n) r with reqs := s1.reqs ++ [(.cc n, r)] })) ∧
  (∀ (s : State) (i : Nat) (x : HomeRef × HeldReq), s.reqs[i]? = some x →
    let behind := x.2.dom ∈ [Dom.seq, .tso, .cau] ∧ ∃ y ∈ s.reqs.take i, samePair x y = true
    (¬ behind → arriveReq s i = homeRequest { s with reqs := s.reqs.eraseIdx i } x.1 x.2) ∧ (behind → arriveReq s i = s)) ∧
  (∀ (s : State) (h : HomeRef) (child : Nat) (tag : ObjTag) (sec : Nat), let piece := (pieceOf s tag sec).2
    let xs := heldPiece s h child piece
    let clean := ∀ x ∈ xs, x.dirty = 0
    (childOk h child = true → xs ≠ [] → (clean → exec (.puts h ⟨child, tag⟩ sec) s = .next (arriveLast (evictPiece s h child tag piece)) ∧ exec (.putx h ⟨child, tag⟩ sec) s = .next s) ∧
      (¬ clean → exec (.putx h ⟨child, tag⟩ sec) s = .next (arriveLast (evictPiece s h child tag piece)) ∧ exec (.puts h ⟨child, tag⟩ sec) s = .next s)) ∧
    (childOk h child = false ∨ xs = [] → exec (.puts h ⟨child, tag⟩ sec) s = .next s ∧ exec (.putx h ⟨child, tag⟩ sec) s = .next s)) ∧
  (∀ (s : State) (h : HomeRef) (child : Nat) (tag : ObjTag) (piece : List Nat) (x : CSector) (rest : List CSector), heldPiece s h child piece = x :: rest → let xs := x :: rest
    let dirty := xs.filter (fun y => y.dirty != 0)
    let s0 := match h with | .l2 => ccRecall s child piece | .cc _ => s
    let s1 := cacheDrop s0 (childCache h child) (xs.map (fun y => y.sec))
    evictPiece s h child tag piece = { s1 with wbacks := s1.wbacks ++ [{ home := h, child := child, piece := piece, xs := xs }], reqs := s1.reqs ++ [(h,
      { event := if dirty = [] then 4 else 5, child := child, tag := tag, sec := x.sec, dom := dirty.foldl (fun d y => strongest d y.net) .bulk, ws := dirty.map dirtyWrite, op := none })] }) ∧
  (∀ (s : State) (r : HeldReq), setFull s (servedPiece s .l2 r).2 = true → homeRequest s .l2 r = { s with setq := s.setq ++ [r] }) ∧
  (∀ (s : State) (h : HomeRef) (r : HeldReq), let sp := servedPiece s h r
    let d := dirGet s h sp.1 sp.2
    (h = .l2 → setFull s sp.2 = false ∧ dirVictim s (pieceKey sp.2) = none) → dirConflicts s h sp.2 = [] →
      (d.acks ≠ 0 ∨ d.held ≠ [] ∨ dataOwed s h sp.2 = true → homeRequest s h r = dirPut s h { d with held := d.held ++ [r] }) ∧
      (let e := homeEntry s h d.slot d.st (classify d r) r.sec
       d.acks = 0 → d.held = [] → dataOwed s h sp.2 = false → d.piece = sp.2 → e.fan = 0 → e.wr = false → e.at_ = false → e.log = false → e.fwd = 0 → e.resp ∈ [1, 2, 3] →
        let t := homeRequest s h r
        let d' := shrOp d e.shr r.child
        let k : MsgKind := if e.resp = 1 then .dataS else if e.resp = 2 then .dataSW else .dataE
        t.mem = s.mem ∧ t.net = s.net ++ [{ Msg.blank k h r.child d.slot sp.2 r.sec r.tag s.now with data := sp.2.map (fun x => (x, homeSector s h x)) }] ∧
        (dirGet t h sp.1 sp.2).owner = d'.owner ∧ (dirGet t h sp.1 sp.2).sharers = d'.sharers ∧
        (dirGet t h sp.1 sp.2).st = if d'.owner = none ∧ d'.sharers = 0 then e.nxe else e.next))

/-- R202, R203, R209: a message is received when no earlier forward of its pair goes before it and its cache does not hold it behind a request of its own. A response gives the cache its permission over the sectors that no invalidation has overtaken, and the acknowledgement of a
write-back frees its buffer; INV and FWD_GETX take the tracked copies and answer; UPDATE puts its bytes into them and answers; FWD_GETS leaves a clean copy and answers the requester and the home, where the owner's dirty bytes reach memory. An acknowledgement to a home writes the
dirty bytes that it carries, and the last one lets the held request write, answer and finish. That messages touch tracked copies only is log 17. -/
def Obligations.CoherenceMessages : Prop :=
  (∀ (s : State) (i : Nat), ∀ e ∈ messageForms i,
    (∀ m, s.net[i]? = some m → m.kind = e.2 → deliverable s i m = true → exec e.1 s = .next (deliver { s with net := (s.net.eraseIdx i).map (unkept m) } m)) ∧
    (∀ m, s.net[i]? = some m → m.kind ≠ e.2 ∨ deliverable s i m = false → exec e.1 s = .next s) ∧
    (s.net[i]? = none → exec e.1 s = .next s)) ∧
  (∀ (m x : Msg), (unkept m x = x ∨ (m.kind = .inv ∧ ∃ v, unkept m x = { x with void := v } ∧ ∀ k ∈ m.piece, k ∈ x.piece → k ∈ v)) ∧
    (m.kind = .inv → x.copyFor m.home m.child = true → ∀ k ∈ m.piece, k ∈ x.piece → k ∈ (unkept m x).void)) ∧
  (∀ (s : State) (m : Msg), let c := childCache m.home m.child
    let t := deliver s m
    (∀ p, (m.kind, p) ∈ [(MsgKind.dataS, Permission.read), (.dataSW, .writeThrough), (.dataE, .own)] → m.toHome = false → (m.data.map Prod.fst).Nodup →
      ∀ e ∈ m.data, e.1 ∉ m.void → sivHeld s c e.1 = false → ∃ x, cacheGet t c e.1 = some x ∧ x.data = e.2 ∧ x.perm = p ∧ x.mode = .trk ∧ x.tag = m.tag ∧ x.dirty = (m.dirty.lookup e.1).getD 0) ∧
    (∀ k ∈ m.void, m.kind ∈ [MsgKind.dataS, .dataSW, .dataE] → m.toHome = false → cacheGet s c k = none → cacheGet t c k = none) ∧
    (m.kind = .ack → m.up = true → ∀ k ∈ m.piece, ∀ x, cacheGet s c k = some x → x.mode = .trk → cacheGet t c k = some { x with perm := .own }) ∧
    (m.kind = .ack → m.up = false → ∀ b, s.wbacks.find? (fun b => b.home == m.home && b.child == m.child && b.piece.contains m.sec) = some b → t = { s with wbacks := s.wbacks.erase b }) ∧
    (m.kind = .wtack ∨ m.kind = .atomr → t = respond s m) ∧ (m.kind = .invAck → m.toHome = false → t = countAck s m) ∧
    (m.kind = .inv ∨ m.kind = .fwdGetx → ∀ k ∈ m.piece, ∀ x, cacheGet t c k = some x → x.mode ≠ .trk) ∧
    (m.kind = .inv → ∃ n a, t.net = n ++ [a] ∧ a.kind = .invAck ∧ a.toHome = m.fan3 ∧ a.piece = m.piece ∧ a.req = m.req) ∧
    (m.kind = .fwdGetx → ∃ n a, t.net = n ++ [a] ∧ a.kind = .dataE ∧ a.child = m.req ∧ a.toHome = m.toHome ∧ a.piece = m.piece) ∧
    (m.kind = .fwdGets → (∀ k ∈ m.piece, ∀ x, cacheGet t c k = some x → x.mode = .trk → x.dirty = 0 ∧ x.perm = if slotUpds s m.slot then .writeThrough else .read) ∧
      ∃ n a b, t.net = n ++ [a, b] ∧ a.toHome = true ∧ b.child = m.req ∧ b.dirty = [] ∧ a.data = b.data) ∧
    (m.kind = .update → t.mem = s.mem ∧ t.net = s.net ++ [{ m with kind := .invAck, data := [], dirty := [], vt := s.now }] ∧
      ∀ q, q = c ∨ (m.home = .l2 ∧ ∃ i, i < 4 ∧ q = .l1 (4 * m.child + i)) → (m.dirty.map Prod.fst).Nodup →
        ∀ k x, cacheGet s q k = some x → ∃ y, cacheGet t q k = some y ∧
          (∀ b d, x.mode = .trk → m.dirty.lookup k = some b → m.data.lookup k = some d → y = { x with data := overlay x.data d b }) ∧
          (x.mode ≠ .trk ∨ m.dirty.lookup k = none ∨ m.data.lookup k = none → y = x))) ∧
  (∀ (s : State) (m : Msg), m.home = .l2 → (∀ e ∈ m.dirty, hostWaits s [e.1] = false) → (m.dirty.map Prod.fst).Nodup →
    ∀ a, sget (sinkDirty s m).mem a = match m.data.lookup (a / 32), m.dirty.lookup (a / 32) with
      | some d, some k => if k.getLsbD (a % 32) then sectorByte d (a % 32) else sget s.mem a
      | _, _ => sget s.mem a) ∧
  (∀ (s : State) (m : Msg), m.toHome = true → let s1 := sinkDirty s m
    let d := dirGet s1 m.home m.slot m.piece
    let t := deliver s m
    (m.kind ∈ [MsgKind.dataS, .dataSW, .dataE] → (d.acks ≠ 0 ∨ d.held = [] → t = s1) ∧
      (d.acks = 0 → d.held ≠ [] → t = pumpSet (engineRuns (homeWriter m.home) m.home d.slot d.piece (dirPut s1 m.home { d with held := [] }) d.held))) ∧
    (m.kind = .invAck → (1 < d.acks → t = dirPut s1 m.home { d with acks := d.acks - 1 }) ∧
      ∀ r, d.acks ≤ 1 → d.cont = some r → d.held = [] → s.setq = [] → m.home = .l2 → let e := slotEntry s1 d.slot d.st r.event
        e.wr = true → e.at_ = false → e.fwd = 0 → e.resp = 5 → t.mem = (r.ws.foldl (fun x w => homeWrite x w x.now) s1).mem ∧
          t.net = s1.net ++ [Msg.blank .wtack .l2 r.child d.slot d.piece r.sec r.tag s1.now])) ∧
  (∀ (s : State) (m : Msg) (o : Outst) (rest : List Outst), s.outst = o :: rest → o.home = m.home → o.child = m.child → m.sec ∈ o.piece → o.resp = false → (∀ x ∈ rest, x.complete = false) →
    let o1 := { o with resp := true, need := m.acks, vt := max o.vt m.vt }
    (o1.got ≠ m.acks → respond s m = { s with outst := o1 :: rest }) ∧ (o1.got = m.acks → (respond s m).outst = rest ∧ (respond s m).mem = s.mem ∧
      ∀ sec, o.wt = some sec → (sget (respond s m).stamps sec).toNat = max o1.vt (sget s.stamps sec).toNat % 2 ^ 64))

/-- R204, R205: the fields of the shipped protocol tables INV, UPD, MIG and WON, and that a boot's stage 5 puts them into slots 0 to 3. The image of context 0 that the stage event carries is the model's (log 29). -/
def Obligations.ShippedProtocols : Prop :=
  (∀ st ev, st < 3 → ev < 11 → entryFields tableInv st ev =
    match ev with
    | 0 => match st with | 0 => (3, 0, 2, 0, false, false, false, 2) | 1 => (1, 0, 1, 0, false, false, false, 1) | _ => (0, 1, 5, 0, false, false, false, 1)
    | 1 | 3 => match st with | 0 => (3, 0, 2, 0, false, false, false, 2) | 1 => (3, 0, 2, 1, false, false, false, 2) | _ => (0, 2, 2, 0, false, false, false, 2)
    | 2 => match st with | 0 => (3, 0, 2, 0, false, false, false, 2) | 1 => (4, 0, 2, 1, false, false, false, 2) | _ => (0, 2, 2, 0, false, false, false, 2)
    | 4 | 6 => (4, 0, 3, 0, false, false, false, st)
    | 5 => match st with | 2 => (4, 0, 4, 0, true, false, false, 0) | _ => (4, 0, 3, 0, true, false, false, st)
    | 7 => match st with | 0 => (5, 0, 0, 0, true, false, false, 0) | _ => (5, 0, 4, 3, true, false, false, 0)
    | 8 => match st with | 0 => (6, 0, 0, 0, false, true, false, 0) | _ => (6, 0, 4, 3, false, true, false, 0)
    | 9 => match st with | 0 => (4, 0, 0, 0, true, false, false, 0) | _ => (4, 0, 4, 3, true, false, true, 0)
    | _ => (0, 0, 4, 3, false, false, false, 0)) ∧
  (∀ st ev, st < 3 → ev < 11 → entryFields tableMig st ev = if st = 2 ∧ ev = 0 then (0, 2, 2, 0, false, false, false, 2) else entryFields tableInv st ev) ∧
  (∀ st ev, st < 3 → ev < 11 → entryFields tableUpd st ev = if st < 2 ∧ ev = 0 then (2, 0, 1, 0, false, false, false, 1) else if st = 1 ∧ ev = 7 then (5, 0, 0, 2, true, false, false, 1)
    else entryFields tableInv st ev) ∧
  (∀ st ev, st < 3 → ev < 11 → entryFields tableWon st ev = if st = 2 ∧ ev = 0 then (0, 1, 5, 0, false, false, false, 3) else if st = 2 ∧ ev = 5 then (4, 0, 4, 0, true, false, false, 3)
    else entryFields tableInv st ev) ∧
  tableInv.upds = false ∧ tableUpd.upds = true ∧ tableMig.upds = false ∧ tableWon.upds = false ∧ tableWon.states = 4 ∧
  (∀ (s : State) (flights absent : List Nat) (dimms : List (List Nat)) (width rate : Nat) (image : List Byte), s.mgmt.powered = true → s.mgmt.bootHalt = false → s.mgmt.ready = false → s.mgmt.stage = 5 →
    ∃ t, exec (.bootStageComplete (.ok flights absent dimms width rate image)) s = .next t ∧ t.protos = [(0, tableInv), (1, tableUpd), (2, tableMig), (3, tableWon)] ∧ t.mgmt.stage = 6 ∧
      (∃ c, tget t.ctxs 0 = some c ∧ c.tenant = none ∧ c.conf = false ∧ c.ptroot = leAt image 0 8) ∧ t.mem = s.mem)

end

namespace Sys2Proof.Claims

open Sys2Proof.Machine

/-- R190, R281, R352, R353, R373, R422: while functions are enabled, doorbells move the TAIL of a queue of their own tenant within the ring, and make the device act on the service entries at their index; a posted write reaches memory, or meets completer abort, as every access of an interface in RUN outside the IDE stream does; an ATS invalidation drains the function's
accesses and leaves no translation of the frame; a PRI response ends the wait of its request. -/
def HostRequests : Prop :=
  (∀ (s : State), enabled s = true ↔ s.host.up = true ∧ s.mgmt.ready = true ∧ s.mgmt.powered = true) ∧
  (∀ (s : State) (fn q tail : Nat) (ide : Bool), (enabled s = false → exec (.qdoor ⟨fn, ide⟩ q tail) s = .next s) ∧
    (enabled s = true → refused s fn ide = true → exec (.qdoor ⟨fn, ide⟩ q tail) s = .next (abortHost s)) ∧
    (enabled s = true → refused s fn ide = false → q < 4096 → fnActs s fn (queueOf s q).ctx = true → ∃ t q', exec (.qdoor ⟨fn, ide⟩ q tail) s = .next t ∧ tget t.queues q = some q' ∧ t.mem = s.mem ∧
      (let n := tail % 2 ^ 48
       (queueOf s q).tail ≤ n ∧ n - (queueOf s q).head ≤ 2 ^ (queueOf s q).log2n → q' = { queueOf s q with tail := n }) ∧
      (let n := tail % 2 ^ 48
       n < (queueOf s q).tail ∨ 2 ^ (queueOf s q).log2n < n - (queueOf s q).head → q' = queueOf s q) ∧ ∀ k, k ≠ q → tget t.queues k = tget s.queues k) ∧
    (enabled s = true → refused s fn ide = false → 4096 ≤ q ∨ fnActs s fn (queueOf s q).ctx = false → exec (.qdoor ⟨fn, ide⟩ q tail) s = .next s)) ∧
  (∀ (s : State) (fn i : Nat) (ide : Bool), (enabled s = false → exec (.sdoor ⟨fn, ide⟩ i) s = .next s) ∧
    (enabled s = true → refused s fn ide = true → exec (.sdoor ⟨fn, ide⟩ i) s = .next (abortHost s)) ∧
    (enabled s = true → refused s fn ide = false → exec (.sdoor ⟨fn, ide⟩ i) s = .next ((svcGroups s fn i).foldl svcAct s)) ∧
    (enabled s = true → refused s fn ide = false → svcGroups s fn i = [] → exec (.sdoor ⟨fn, ide⟩ i) s = .next s)) ∧
  (∀ (s : State) (fn : Nat) (ide : Bool), refused s fn ide = true ↔ fn < 16 ∧ fn ∈ s.host.run ∧ ide = false) ∧
  (∀ (s : State) (fn pa : Nat) (bytes : List Byte) (ide : Bool),
    (hostBase ≤ pa → exec (.hostPostedWrite fn pa bytes ide) s = .next (hostOwnWrite s pa bytes)) ∧
    (pa < hostBase → enabled s = false → exec (.hostPostedWrite fn pa bytes ide) s = .next s) ∧
    (pa < hostBase → enabled s = true → hostMayWrite s fn pa bytes.length ide = true → ∃ t, exec (.hostPostedWrite fn pa bytes ide) s = .next t ∧ { t with notes := (physPut s pa bytes).notes } = physPut s pa bytes ∧
      ∀ p ∈ piecesOf pa bytes.length 0 (bytes.length / 32 + 2), ∃ n, tget t.notes p.sec = some n ∧ n.1.1 = agentId s 0 264) ∧
    (pa < hostBase → enabled s = true → hostMayWrite s fn pa bytes.length ide = false →
      exec (.hostPostedWrite fn pa bytes ide) s = .next { s with host := { s.host with aborts := s.host.aborts + 1 } })) ∧
  (∀ (s : State) (i : Nat), (∀ p, s.pops[i]? = some p → p.pri = true → s.host.up = true →
      let s1 := { s with pops := s.pops.set i { p with pri := false }, host := { s.host with absent := s.host.absent.filter (fun f => !(hostFrames s p.ctx p.page).contains f) } }
      exec (.priResponse i) s = .next ((popServe s1 (p.tenant s)).getD s1)) ∧
    (s.pops[i]? = none ∨ s.host.up = false ∨ (∃ p, s.pops[i]? = some p ∧ p.pri = false) → exec (.priResponse i) s = .next s)) ∧
  (∀ (s : State) (fn page : Nat), (s.host.up = false ∨ drainCtxs s (fnActs s fn) = none → exec (.atsInvalidation fn page) s = .next s) ∧
    (∀ s1, s.host.up = true → drainCtxs s (fnActs s fn) = some s1 → ∃ t, exec (.atsInvalidation fn page) s = .next t ∧ t.mem = s1.mem ∧ t.blocks = s1.blocks ∧ (fn, page) ∈ t.host.absent ∧
      ∀ e ∈ tlbAll t, e.hostHit s1 fn page = false))

/-- R354, R356, R362: TDISP enters and leaves RUN; leaving destroys the tenant's confidential contexts. A key goes into a slot that the tenant holds and restarts its counters. A measurement is answered once functions are enabled; an I/O die without power (R416) answers and retries nothing. -/
def HostSecurity : Prop :=
  (∀ (s : State) (t : Nat), (t < 16 → enabled s = true → ∃ u, exec (.tdispInterfaceRun t) s = .next u ∧ t ∈ u.host.run ∧ (∀ x, x ∈ u.host.run ↔ x = t ∨ x ∈ s.host.run) ∧ { u with host := s.host } = s) ∧
    (16 ≤ t ∨ enabled s = false → exec (.tdispInterfaceRun t) s = .next s) ∧
    (t ∉ s.host.run → exec (.tdispLeaveRun t) s = .next s) ∧
    (t ∈ s.host.run → let s1 := { s with host := { s.host with run := s.host.run.filter (fun x => x != t) } }
      exec (.tdispLeaveRun t) s = .next (((s.ctxs.filter (fun e => e.2.tenant == some t && e.2.conf)).map Prod.fst).foldl destroyContext s1))) ∧
  (∀ (s : State) (slot t : Nat) (key : BitVec 256), (enabled s = false → exec (.keyInstall slot key t) s = .next s) ∧
    (enabled s = true → slot < 64 → tenantHoldsKey s t slot = true → ∃ u, exec (.keyInstall slot key t) s = .next u ∧ tget u.keys slot = some key ∧ (∀ k, k ≠ slot → tget u.keys k = tget s.keys k) ∧
      (∀ e ∈ u.ctrs, e.1 % 64 ≠ slot) ∧ u.mem = s.mem) ∧
    (enabled s = true → 64 ≤ slot ∨ tenantHoldsKey s t slot = false → exec (.keyInstall slot key t) s = .next s)) ∧
  (∀ (s : State) (fn : Nat), (s.mgmt.powered = true → s.mgmt.ready = true → ∃ u, exec (.spdmMeasurement fn) s = .next u ∧ u.host.answers = s.host.answers ++ [measurement s fn ++ Config.spdmSignature fn (measurement s fn)] ∧ { u with host := s.host } = s) ∧
    (s.mgmt.powered = false → exec (.spdmMeasurement fn) s = .next s ∧ exec (.configurationRequest fn) s = .next s) ∧
    (s.mgmt.powered = true → s.mgmt.ready = false → exec (.spdmMeasurement fn) s = .next { s with host := { s.host with retried := s.host.retried + 1 } }) ∧
    (s.mgmt.ready = true → exec (.configurationRequest fn) s = .next s) ∧
    (s.mgmt.powered = true → s.mgmt.ready = false → exec (.configurationRequest fn) s = .next { s with host := { s.host with retried := s.host.retried + 1 } }) ∧
    (16 ≤ fn → measurement s fn = Config.firmwareDigest (if s.mgmt.flash.runsB then s.mgmt.flash.b else s.mgmt.flash.a) ++ Config.validatorDigest ++ [4, 5, 6, 7].flatMap (protoImage s)))

/-- R414, R416, R421: a cold reset, a warm reset, a supply loss and a thermal trip clear the device; FAIL goes to 0 only when VAUX has just been applied, a warm reset keeps FAIL and the event ring and boots from stage 2, a supply loss records FAIL 8 and a thermal trip FAIL 9 and
takes the power away. A function-level reset of a virtual function destroys its tenant's contexts and leaves others. Link down and up abort nothing; the writes that waited go out in order, and then the accesses of other devices that waited are performed. -/
def ResetsAndLink : Prop :=
  (∀ (s : State) (vaux : Bool), ∃ t, exec (.coldReset vaux) s = .next t ∧ ClearedBy s t ∧ t.mgmt.stage = 0 ∧ t.mgmt.fail = (if vaux then 0 else s.mgmt.fail) ∧ t.mgmt.ring = [] ∧ t.mgmt.powered = true) ∧
  (∀ (s : State), (s.mgmt.powered = true → ∃ t, exec .warmReset s = .next t ∧ ClearedBy s t ∧ t.mgmt.stage = 2 ∧ t.mgmt.fail = s.mgmt.fail ∧ t.mgmt.ring = s.mgmt.ring) ∧
    (s.mgmt.powered = false → exec .warmReset s = .next s) ∧
    (∃ t, exec .vbulkLoss s = .next t ∧ ClearedBy s t ∧ t.mgmt.fail = 8 ∧ t.mgmt.stage = 0) ∧
    (∀ die, ∃ t, exec (.thermalTrip die) s = .next t ∧ t.mgmt.fail = 9 ∧ t.mgmt.powered = false ∧ t.blocks = [] ∧ t.ctxs = [] ∧ t.cores = [] ∧ t.mgmt.ring = s.mgmt.ring ∧ t.mgmt.flash = s.mgmt.flash) ∧
    (∀ n, n < 16 → exec (.vfFunctionLevelReset n) s = .next (((s.ctxs.filter (fun e => e.2.tenant == some n)).map Prod.fst).foldl destroyContext s)) ∧
    (∀ n, 16 ≤ n → exec (.vfFunctionLevelReset n) s = .next s) ∧
    (s.host.up = true → exec .pcieLinkDown s = .next { s with host := { s.host with up := false } }) ∧
    (s.host.up = false → exec .pcieLinkDown s = .next s) ∧
    (s.host.up = false → s.host.width ≠ 0 →
      let s1 := { s with mem := s.host.pending.foldl (fun m w => putBytes m w.1 w.2) s.mem, host := { s.host with up := true, pending := [] } }
      exec .pcieLinkUp s = .next (performHosted s1) ∧ (s.fab.hosted = [] → performHosted s1 = s1)) ∧
    (s.host.up = true ∨ s.host.width = 0 → exec .pcieLinkUp s = .next s))

/-- R417, R419, R420, R422: a boot stage that succeeds goes on to the next, and stage 8 sets READY; stage 1 runs copy A of the firmware or, where that does not verify, copy B, and stage 3 accepts equal channels of at most two DIMMs of 32, 64, 96 or 128 GiB; stages 1 and 2 halt on a failure, stages 3 and 6 record it and go on, and stage 7 records it and tries again. VTIME starts from zero at stage 4. The link trains at x8 or x16 and one of its three
rates. -/
def BootStages : Prop :=
  (∀ (s : State) (flights absent : List Nat) (dimms : List (List Nat)) (width rate : Nat) (image : List Byte), s.mgmt.powered = true → s.mgmt.bootHalt = false → s.mgmt.ready = false →
    (∀ n, measuredFail s absent dimms width rate = some n → exec (.bootStageComplete (.ok flights absent dimms width rate image)) s = exec (.bootStageComplete (.fail n)) s) ∧
    (measuredFail s absent dimms width rate = none →
    ∃ t, exec (.bootStageComplete (.ok flights absent dimms width rate image)) s = .next t ∧ t.mem = s.mem ∧ t.mgmt.fail = s.mgmt.fail ∧
      (s.mgmt.stage = 8 → t.mgmt.ready = true ∧ t.mgmt.stage = 8) ∧ (s.mgmt.stage ≠ 8 → t.mgmt.ready = false ∧ t.mgmt.stage = s.mgmt.stage + 1) ∧ (s.mgmt.stage = 4 → t.vtime = 0) ∧ (s.mgmt.stage ≠ 4 → t.vtime = s.vtime) ∧
      (s.mgmt.stage = 6 → t.fab.flights = flights ∧ t.fab.absent = absent) ∧ (s.mgmt.stage = 7 → t.host.up = true ∧ t.host.width = width ∧ t.host.rate = rate) ∧
      (s.mgmt.stage = 1 → t.mgmt.flash = { s.mgmt.flash with runsB := (copyFail s.mgmt.flash.a).isSome }) ∧ (s.mgmt.stage = 3 → t.mgmt.dimms = dimms))) ∧
  (∀ (s : State) (absent : List Nat) (dimms : List (List Nat)) (width rate : Nat), let bad := measuredFail s absent dimms width rate
    (s.mgmt.stage = 1 → bad = if copyFail s.mgmt.flash.a = none then none else copyFail s.mgmt.flash.b) ∧
    (s.mgmt.stage = 3 → (bad = none ↔ dimms.length = 8 ∧ ∃ c, (∀ x ∈ dimms, x = c) ∧ c.length ≤ 2 ∧ ∀ n ∈ c, n ∈ [32, 64, 96, 128])) ∧
    (s.mgmt.stage = 6 → (bad = none ↔ ∃ f, f < Config.fibres ∧ f ∉ absent)) ∧
    (s.mgmt.stage = 7 → (bad = none ↔ width ∈ [8, 16] ∧ rate ∈ [64, 32, 16]))) ∧
  (∀ (s : State) (n : Nat), s.mgmt.powered = true → s.mgmt.bootHalt = false → s.mgmt.ready = false →
    ((s.mgmt.stage, n) ∈ [(1, 1), (1, 2)] → firmwareFail s.mgmt.flash ≠ some n → exec (.bootStageComplete (.fail n)) s = .next s) ∧
    ((s.mgmt.stage, n) ∈ [(1, 1), (1, 2), (2, 3), (2, 5)] → (s.mgmt.stage = 1 → firmwareFail s.mgmt.flash = some n) → ∃ t, exec (.bootStageComplete (.fail n)) s = .next t ∧ t.mgmt.fail = n ∧ t.mgmt.bootHalt = true ∧ t.mgmt.stage = s.mgmt.stage) ∧
    ((s.mgmt.stage, n) ∈ [(3, 4), (6, 6)] → ∃ t, exec (.bootStageComplete (.fail n)) s = .next t ∧ t.mgmt.fail = n ∧ t.mgmt.bootHalt = false ∧ t.mgmt.stage = s.mgmt.stage + 1) ∧
    ((s.mgmt.stage, n) = (7, 7) → ∃ t, exec (.bootStageComplete (.fail n)) s = .next t ∧ t.mgmt.fail = 7 ∧ t.mgmt.bootHalt = false ∧ t.mgmt.stage = 7) ∧
    ((s.mgmt.stage, n) ∉ [(1, 1), (1, 2), (2, 3), (2, 5), (3, 4), (6, 6), (7, 7)] → exec (.bootStageComplete (.fail n)) s = .next s)) ∧
  (∀ (s : State) (width rate : Nat), let due := s.mgmt.stage = 7 ∧ s.mgmt.powered = true ∧ s.mgmt.bootHalt = false
    let good := (width = 8 ∨ width = 16) ∧ (rate = 64 ∨ rate = 32 ∨ rate = 16)
    (due → good → ∃ t, exec (.linkTrainRetry width rate) s = .next t ∧ t.host.up = true ∧ t.mgmt.stage = 8 ∧ t.mem = s.mem) ∧
    (due → ¬ good → ∃ t, exec (.linkTrainRetry width rate) s = .next t ∧ t.mgmt.fail = 7 ∧ t.mgmt.stage = 7 ∧ t.host = s.host) ∧ (¬ due → exec (.linkTrainRetry width rate) s = .next s))

/-- R386 to R388: ATTACH takes hold of a context, DETACH releases it with its breakpoints and halted groups; HALT and RESUME act on the groups that they name, HALT under ALLSTOP on every group of the context; SETBP and SETWP write their registers. A context that does not exist or an operand out of range answers 2, a context that is
confidential or not held answers 3, a target that is not halted answers 1. -/
def DebugControl : Prop :=
  (∀ (s : State) (ctx : Nat) (all : Bool), (tget s.ctxs ctx = none → Replies s (.attach ctx all) s 2) ∧
    (tget s.ctxs ctx ≠ none → Replies s (.attach ctx all) (setDbg s ctx { dbgOf s ctx with attached := true, allstop := all }) 0)) ∧
  (∀ (s : State) (ctx : Nat), (∀ n, dbgRefused s ctx false = some n → Replies s (.detach ctx) s n) ∧
    (dbgRefused s ctx false = none → ∃ t, Replies s (.detach ctx) t 0 ∧ t.mem = s.mem ∧ (dbgOf t ctx).attached = false ∧ (dbgOf t ctx).bp = [] ∧ (dbgOf t ctx).wp = [] ∧
      ∀ b bl g x, tget s.blocks b = some bl → bl.ctx = ctx → tget bl.groups g = some x → ∃ y, t.group? b g = some y ∧ y.halted = false ∧ y.focus = none ∧ y.stepping = none)) ∧
  (∀ (s : State) (ctx : Nat) (d : DbgTarget),
    (∀ n, dbgRefused s ctx false = some n → Replies s (.halt ctx d) s n ∧ Replies s (.resume ctx d) s n) ∧
    (dbgRefused s ctx false = none → dbgTargets s ctx d = none → Replies s (.halt ctx d) s 2 ∧ Replies s (.resume ctx d) s 2) ∧
    (∀ l, dbgRefused s ctx false = none → dbgTargets s ctx d = some l → l.Nodup →
      (l = [] → Replies s (.halt ctx d) s 0) ∧
      (l ≠ [] → (dbgOf s ctx).allstop = true → ∃ t, Replies s (.halt ctx d) t 0 ∧ t.mem = s.mem ∧
        ∀ b bl g x, tget s.blocks b = some bl → bl.ctx = ctx → tget bl.groups g = some x → ∃ y, t.group? b g = some y ∧ y.halted = true ∧ y.tbMet = false) ∧
      ((dbgOf s ctx).allstop = false → ∃ t, Replies s (.halt ctx d) t 0 ∧ t.mem = s.mem ∧ OnGroups s t l (fun g => { g with r := g.r.flush, threads := g.threads.map (fun (x : Thread) => { x with r := x.r.flush }), halted := true, tbMet := false, stepping := none })) ∧
      ((∀ x ∈ l, ∀ g, s.group? x.1 x.2 = some g → g.halted = false) → Replies s (.resume ctx d) s 1) ∧
      ((∃ x ∈ l, ∃ g, s.group? x.1 x.2 = some g ∧ g.halted = true) → ∃ t, Replies s (.resume ctx d) t 0 ∧ t.mem = s.mem ∧
        OnGroups s t (l.filter (fun x => match s.group? x.1 x.2 with | some g => g.halted | none => false)) (fun g => { g with halted := false, stepping := none })))) ∧
  (∀ (s : State) (ctx n : Nat) (x w1 w0 : Word), let d := dbgOf s ctx
    (tget s.ctxs ctx = none → Replies s (.setbp ctx n x) s 2 ∧ Replies s (.setwp ctx n w1 w0) s 2) ∧
    (∀ c, tget s.ctxs ctx = some c → c.conf = true → Replies s (.setbp ctx n x) s 3 ∧ Replies s (.setwp ctx n w1 w0) s 3) ∧
    (∀ c, tget s.ctxs ctx = some c → c.conf = false →
      (n < 8 → x.toNat / 2 % 4 = 0 → Replies s (.setbp ctx n x) (setDbg s ctx { d with bp := tset d.bp n x }) 0) ∧ (8 ≤ n ∨ x.toNat / 2 % 4 ≠ 0 → Replies s (.setbp ctx n x) s 2) ∧
      (n < 4 → w1.toNat / 2 ^ 40 % 2 ^ 16 = 0 → Replies s (.setwp ctx n w1 w0) (setDbg s ctx { d with wp := tset d.wp n (w1, w0) }) 0) ∧
      (4 ≤ n ∨ w1.toNat / 2 ^ 40 % 2 ^ 16 ≠ 0 → Replies s (.setwp ctx n w1 w0) s 2)))

/-- R386, R389, R390, R391: STEP, FOCUS, UNFOCUS, CATCHUP, READ and WRITE need a halted group of a context that is held and not confidential. FOCUS leaves one lane of the path current and the others in an entry above its stack, or answers 4 without a free entry; READ gives an item, none of a glb range that does not pass its checks or is poisoned, and WRITE writes it. -/
def DebugAccess : Prop :=
  (∀ (s : State) (ctx b g l : Nat) (k : StepKind) (it : DbgItem) (x : List Byte), ∀ i ∈ [Instr.step ctx b g k, .focus ctx b g l, .unfocus ctx b g, .catchup ctx b g, .read ctx b g it, .write ctx b g it x],
    (∀ n, dbgRefused s ctx true = some n → Replies s i s n) ∧ (dbgRefused s ctx true = none → dbgGroup s ctx b g = none → Replies s i s (if dbgNames s ctx b g then 1 else 2)) ∧
    (∀ bl y, dbgRefused s ctx true = none → dbgGroup s ctx b g = some (bl, y) → y.halted = false ∨ y.r.awaiting = true → Replies s i s 1)) ∧
  (∀ (s : State) (ctx b g : Nat) (bl : Block) (x : Group), HeldGroup s ctx b g bl x →
    (∀ k, x.focus = none → ∃ t, Replies s (.step ctx b g k) t 0 ∧ OnGroups s t [(b, g)] (fun y => { y with stepping := some { kind := k, link := none, depth := y.stack.length, nest := 0, mask := y.r.mask }, halted := false, focus := none })) ∧
    (∀ l, x.focus = none → x.thread? l = none → l < 64 → x.r.mask.getLsbD l = true → let rest := x.r.mask &&& ~~~ laneBit l
      (rest ≠ 0 → x.freeEntries ≠ 0 → ∃ t y, Replies s (.focus ctx b g l) t 0 ∧ t.group? b g = some y ∧ y.r.mask = laneBit l ∧ y.r.pc = x.r.pc ∧ y.focus ≠ none ∧ t.mem = s.mem ∧
        y.stack = { ej := 0, rpc := x.r.rpc, mask := rest, pc := x.r.pc, kd := false, recalled := false } :: x.stack) ∧
      (rest ≠ 0 → x.freeEntries = 0 → Replies s (.focus ctx b g l) s 4) ∧
      (rest = 0 → ∃ t y, Replies s (.focus ctx b g l) t 0 ∧ t.group? b g = some y ∧ y.r = x.r ∧ y.stack = x.stack)) ∧
    (∀ l, 64 ≤ l → Replies s (.focus ctx b g l) s 2) ∧ (x.focus ≠ none → ∀ l, l < 64 → Replies s (.focus ctx b g l) s 1) ∧
    (x.focus = none → Replies s (.unfocus ctx b g) s 1 ∧ Replies s (.catchup ctx b g) s 1) ∧
    (∀ f, x.focus = some f → Replies s (.unfocus ctx b g) (s.mapGroup b g unfocusGroup) 0) ∧
    (∀ f e rest, x.focus = some f → x.stack = e :: rest → f.pushed = true → x.r.mask = laneBit f.lane → e.kd = false → e.rpc = x.r.rpc → e.pc ≠ x.r.pc → e.pc ≠ e.rpc →
      ∃ t y, Replies s (.catchup ctx b g) t 0 ∧ t.group? b g = some y ∧ y.r.pc = e.pc ∧ y.r.mask = e.mask ∧ y.halted = false ∧ t.mem = s.mem) ∧
    (∀ it, (∀ bs, readItem s b bl x it = some bs → Replies s (.read ctx b g it) { readMarks s ctx it with host := { s.host with answers := s.host.answers ++ [bs] } } 0) ∧ ((∀ va n, it ≠ .glb va n) → readMarks s ctx it = s) ∧ (readItem s b bl x it = none → Replies s (.read ctx b g it) s 2)) ∧
    (∀ it bs, (∀ t, writeItem s b g bl x it bs = some t → Replies s (.write ctx b g it bs) t 0) ∧ (writeItem s b g bl x it bs = none → Replies s (.write ctx b g it bs) s 2)) ∧
    (∀ n v, n < 63 → ∃ t y, Replies s (.write ctx b g (.k n) (toBytes 8 v)) t 0 ∧ t.group? b g = some y ∧ y.r.kget n = BitVec.ofNat 64 v ∧ t.mem = s.mem) ∧
    (∀ n, n < 64 → readItem s b bl x (.k n) = some (toBytes 8 (x.r.kget n).toNat)) ∧
    (∀ va n, (∀ l, ctxSpans s ctx va n false = some l → poisoned s l = true) → Replies s (.read ctx b g (.glb va n)) s 2))

end Sys2Proof.Claims

section

open Sys2Proof Sys2Proof.Machine Sys2Proof.Claims

/-- Doorbells, posted writes, PRI, ATS, TDISP, keys and measurements: each of its parts holds. What needs the link up, what an ATS invalidation leaves absent, and who may write where are the model's (log 13, log 28). -/
def Obligations.HostRequestsAndSecurity : Prop :=
  HostRequests ∧ HostSecurity

/-- Resets, supply and thermal loss, boot stages and link training: each of its parts holds. That a reset keeps the host's memory and what the management state keeps are the model's (log 29). -/
def Obligations.ResetsAndBoot : Prop :=
  ResetsAndLink ∧ BootStages

/-- R210, R252, R253, R294, R361, R383, R415, R416, R423, R424: a write of a management register takes the values its rule allows and leaves the register otherwise; throttling and a replay of a die-to-die link change no architectural state; wear never falls and never passes 1,000. Values that are not taken leave their register: log 29. -/
def Obligations.ManagementRegisters : Prop :=
  (∀ (s : State) (watts : Nat), (1000 ≤ watts ∧ watts ≤ 2200 ∧ watts % 10 = 0 → exec (.plimWrite watts) s = .next { s with mgmt := { s.mgmt with plim := watts } }) ∧
    (¬ (1000 ≤ watts ∧ watts ≤ 2200 ∧ watts % 10 = 0) → exec (.plimWrite watts) s = .next s)) ∧
  (∀ (s : State) (x : Word), let lo := x.toNat % 2 ^ 20
    let hi := x.toNat / 2 ^ 20 % 2 ^ 20
    (lo < hi ∧ hi ≤ 8192 → exec (.swctlWrite x) s = .next { s with priv := { s.priv with swctl := x &&& 0x800000FFFFFFFFFF#64 } }) ∧ (¬ (lo < hi ∧ hi ≤ 8192) → exec (.swctlWrite x) s = .next s)) ∧
  (∀ (s : State) (bytes : List Byte), ∃ t, exec (.firmwareImageDelivery bytes) s = .next t ∧ { t with mgmt := { t.mgmt with flash := s.mgmt.flash } } = s ∧ t.mgmt.flash.a = bytes ∧
    t.mgmt.flash.running = s.mgmt.flash.running) ∧
  (∀ (s : State) (r : RegWriteTarget), s.mgmt.powered = false → (∀ x, r ≠ .sensors x) → exec (.registerWrite r) s = .next s) ∧
  (∀ (s : State) (x : Sensors), exec (.registerWrite (.sensors x)) s = .next { s with mgmt := { s.mgmt with sensors := x } }) ∧
  (∀ (s : State) (fn : HostFn) (off : Nat) (x : List Byte), s.mgmt.powered = true → exec (.registerWrite (.bar0 fn off x)) s = .next (bar0Write s fn off x) ∧
    (enabled s = true → x.length = 8 → (off = 0 → exec (.registerWrite (.bar0 fn off x)) s = exec (.qdoor fn (fromBytes x / 2 ^ 48 % 4096) (fromBytes x % 2 ^ 48)) s) ∧
      (off = 8 → exec (.registerWrite (.bar0 fn off x)) s = exec (.sdoor fn (fromBytes x % 2 ^ 48)) s))) ∧
  (∀ (s : State) (n : Nat) (x : Word), s.mgmt.powered = true → exec (.registerWrite (.bootst x)) s = .next s ∧ exec (.registerWrite (.device n)) s = .next { s with mgmt := { s.mgmt with device := n % 1024 } } ∧
    (10 ≤ n → n ≤ 1000 → exec (.registerWrite (.quantum n)) s = .next { s with mgmt := { s.mgmt with quantumUs := n } }) ∧ (n < 10 ∨ 1000 < n → exec (.registerWrite (.quantum n)) s = .next s) ∧
    exec (.registerWrite (.swrq x)) s = .next { s with priv := { s.priv with swrq := x } } ∧ exec (.registerWrite (.swft x)) s = .next { s with priv := { s.priv with swft := x } } ∧
    exec (.registerWrite (.swhead x)) s = .next { s with priv := s.priv.setHead x.toNat } ∧ (s.priv.setHead x.toNat).swhead = x.toNat % 2 ^ 13 ∧
    (s.fab.quiesced = false → exec (.registerWrite (.fsched x)) s = .next s ∧ exec (.registerWrite (.fepoch x)) s = .next s ∧ ∀ f y, exec (.registerWrite (.slot n f y)) s = .next s) ∧
    (s.fab.quiesced = true → exec (.registerWrite (.fepoch x)) s = .next { s with fab := { s.fab with t0 := x.toNat, slotNow := 0 } } ∧
      exec (.registerWrite (.fsched x)) s = .next { s with fab := s.fab.setFsched x } ∧
      ∀ f y, exec (.registerWrite (.slot n f y)) s = .next { s with fab := s.fab.setSlot n f y }) ∧
    (∀ y, (s.fab.routeFree n = true → exec (.registerWrite (.route n y)) s = .next { s with fab := s.fab.setRoute n y }) ∧ (s.fab.routeFree n = false → exec (.registerWrite (.route n y)) s = .next s))) ∧
  (∀ (s : State) (die link : Nat), (∃ t, exec (.thermalThrottle die) s = .next t ∧ { t with mgmt := s.mgmt } = s ∧ die ∈ t.mgmt.throttled) ∧
    (∃ t, exec (.thermalThrottleEnd die) s = .next t ∧ { t with mgmt := s.mgmt } = s ∧ die ∉ t.mgmt.throttled) ∧ (∃ t, exec (.ucieRetry link) s = .next t ∧ { t with mgmt := s.mgmt } = s)) ∧
  (∀ (s : State) (die : Nat) (m : Ageing), (4 < die → exec (.ageingRefresh die m) s = .next s) ∧
    (die ≤ 4 → ∃ t a, exec (.ageingRefresh die m) s = .next t ∧ tget t.mgmt.ageing die = some a ∧ { t with mgmt := s.mgmt } = s ∧ a.rod = m.rod ∧ (a.wear = 1000 → a.eol = 0) ∧ (die < 4 → a.widx = 0 ∧ a.lbd = 0) ∧
      (ageingOf s.mgmt die).wear ≤ a.wear ∧ ((ageingOf s.mgmt die).wear ≤ 1000 → a.wear ≤ 1000)) ∧
    (tget s.mgmt.ageing die = none → ageingOf s.mgmt die = { rod := 0, cew := 0, widx := 0, lbd := 0, wear := 0, eol := 0xFFFF }))

/-- R148, R379 to R383: an uncorrectable error has the effect of its site: a transfer goes on at its row, a BTG from row 0; the clean SIV sectors of a line are dropped; a started matrix command fails; a mirror comparison of a lane under MIRROR fails at its next checked instruction; and state that is lost reads as zero
under a SOFT trap in every group of its block, with code 2, or code 4 once replays are used up, or the cluster is replayed. A corrected error is counted, without wrapping, and recorded; a poisoned sector is recorded. Memory holds what it held, but for what a replay first performs of its blocks' queued stores, and what the end of a
group whose stack held its last path brings. That the stored lanes of a lost stack end is the model's (log 31). -/
def Obligations.ErrorsAreContained : Prop :=
  (∀ (s : State) (site : ErrorSite), ∃ t, exec (.uncorrectableError site) s = .next t ∧
    ((∀ b bl g, lostBlock site = some b → tget s.blocks b = some bl → tget s.grids bl.grid = some g → g.pkt.repl = false ∨ 3 ≤ bl.replays) →
      (∀ b n x, site = .stack b n → s.group? b n = some x → x.r.mask ≠ 0) → t.mem = s.mem)) ∧
  (∀ (s : State) (core : Nat) (store : Bool) (i : Nat), ((btQueueOf s core store)[i]? = none → exec (.uncorrectableError (.bte core store i)) s = .next s) ∧
    ∀ c, (btQueueOf s core store)[i]? = some c → ∃ t, exec (.uncorrectableError (.bte core store i)) s = .next t ∧ { t with cores := s.cores } = s ∧
      btQueueOf t core store = (btQueueOf s core store).map (fun x => if x.id = c.id ∧ x.btg = true then { x with row := 0, plain := none } else x) ∧
      btQueueOf t core (!store) = btQueueOf s core (!store)) ∧
  (∀ (s : State) (c : CacheRef) (line : Nat), ∃ t, exec (.uncorrectableError (.cleanLine c line)) s = .next t ∧ t.mem = s.mem ∧ t.blocks = s.blocks ∧
    cacheOf t c = (cacheOf s c).filter (fun e => decide (¬ (e.2.sec / 4 = line ∧ e.2.mode = .siv ∧ e.2.dirty = 0))) ∧ ∀ q, q ≠ c → cacheOf t q = cacheOf s q) ∧
  (∀ (s : State) (core i : Nat), (∀ c, (s.core core).mtx[i]? = some c → c.started = true → ∃ t, exec (.uncorrectableError (.matrix core i)) s = .next t ∧ { t with cores := s.cores } = s ∧
      (t.core core).mtx = (s.core core).mtx.map (fun x => if x.id = c.id then failCmd s c else x) ∧ (failCmd s c).failed = true ∧ (failCmd s c).id = c.id ∧
      ((∀ df u auto, c.kind ≠ .mqnt df u auto) → failCmd s c = { c with failed := true })) ∧
    (((s.core core).mtx[i]? = none ∨ ∃ c, (s.core core).mtx[i]? = some c ∧ c.started = false) → exec (.uncorrectableError (.matrix core i)) s = .next s)) ∧
  (∀ (s : State) (b gr : Nat) (bl : Block) (g : Grid), tget s.blocks b = some bl → tget s.grids bl.grid = some g → g.pkt.repl = false ∨ 3 ≤ bl.replays →
    (∀ site ∈ [ErrorSite.lspace b gr, .abuf b gr, .wbuf b gr, .regGranule b gr, .kregs b gr], ∃ t y, exec (.uncorrectableError site) s = .next t ∧ tget t.blocks b = some y ∧ t.mem = s.mem ∧
      (∀ off, sget y.loc off = if site = .lspace b gr ∧ off / 65536 = gr then 0 else sget bl.loc off) ∧ (∀ off, sget y.abuf off = if site = .abuf b gr ∧ off / 65536 = gr then 0 else sget bl.abuf off) ∧
      ∀ n x, tget bl.groups n = some x → ∃ z, tget y.groups n = some z ∧ (site ≠ .regGranule b gr → z.r.v = x.r.v) ∧ (site = .kregs b gr → n = gr → ∀ i, z.r.kget i = 0) ∧ (site ≠ .kregs b gr ∨ n ≠ gr → z.r.k = x.r.k) ∧
        (site = .regGranule b gr → ∀ l i, l < 64 → i < 256 → z.r.vget l i = if regInGranule g.pkt.regs n (256 * l + i) gr then 0 else x.r.vget l i) ∧
        (x.run ≠ .retired → ∃ h, z.async = x.async ++ [h] ∧ h.cause = .soft ∧ h.code = (if g.pkt.repl = true then 4 else 2) ∧ h.pc = x.r.pc)) ∧
    (∀ x, s.group? b gr = some x → x.r.mask ≠ 0 → ∃ t z, exec (.uncorrectableError (.stack b gr)) s = .next t ∧ t.group? b gr = some z ∧ z.stack = [] ∧ z.threads = [] ∧ z.r = x.r)) ∧
  (∀ (s : State) (b : Nat) (site : ErrorSite) (bl : Block) (g : Grid), lostBlock site = some b → tget s.blocks b = some bl → tget s.grids bl.grid = some g → g.pkt.repl = true → bl.replays < 3 →
    exec (.uncorrectableError site) s = .next (replayCluster s bl g)) ∧
  (∀ (s : State) (b g : Nat) (lanes : Mask) (bl : Block) (x : Group), tget s.blocks b = some bl → s.group? b g = some x →
    ((packetOf s bl).flags.getLsbD 3 = true → x.run ≠ .retired → lanes ≠ 0 → exec (.uncorrectableError (.mirror b g lanes)) s = .next (s.mapGroup b g (fun y => { y with strike := y.strike ||| lanes }))) ∧
    ((packetOf s bl).flags.getLsbD 3 = false → exec (.uncorrectableError (.mirror b g lanes)) s = .next s)) ∧
  (∀ (s : State) (die ctx : Nat), ∃ t, exec (.correctableError die ctx) s = .next t ∧ { t with mgmt := s.mgmt } = s ∧ let n := (tget s.mgmt.cet die).getD 0
    tget t.mgmt.cet die = some (if n = BitVec.allOnes 32 then n else n + 1)) ∧
  (∀ (s : State) (sec : Nat), ∃ t, exec (.memoryPoison sec) s = .next t ∧ sec ∈ t.poison ∧ (∀ k, k ≠ sec → (k ∈ t.poison ↔ k ∈ s.poison)) ∧ t.mem = s.mem ∧ t.blocks = s.blocks)

/-- Debug commands: rights, answers and effects: each of its parts holds. Answers where several apply, and SETBP and SETWP without ATTACH, are the model's (log 15, log 30). -/
def Obligations.DebugCommands : Prop :=
  DebugControl ∧ DebugAccess

end

/-! ### The machine as a whole -/

namespace Sys2Proof.Claims

open Sys2Proof.Machine

/-- An unconditional lane-form header with these operands. -/
def laneHdr (d a b c : Nat) : Hdr := { u := false, la := 0, ps := 7, pn := false, d := BitVec.ofNat 8 d, a := BitVec.ofNat 8 a, b := BitVec.ofNat 8 b, c := BitVec.ofNat 8 c }

/-- The group-wide one. -/
def groupHdr (d a b c : Nat) : Hdr := { laneHdr d a b c with u := true }

/-- The words that the spec's examples give, each with the instruction that the example names. -/
def specWords : List (List Word × Instr) :=
  [([0x1B400A010508149E], .ldGlb { laneHdr 20 2 10 16 with la := 3, ps := 3 } { dom := .rel, sc := .cls, size := .b4, ord := .acq, rp := 7, na := false }),
   ([0x870F828000000000, 0x0000000100000000], .movi (groupHdr 5 0 0 0) false 0x0000000100000000),
   ([0x0711020081018005], .ffma (laneHdr 4 1 2 3) { ty := .f32, sat := false, bk := false, ck := .vreg, swa := 0, swb := 0, na := false, nb := true, rm := .rtz }),
   ([0x8759840182848C14], .mmaN4 (groupHdr 8 3 5 9) { fmt := 1, pr := true, zi := false, g := true, slot := 2 }),
   ([0x073D000000000440], .brg (laneHdr 0 0 0 0) .bulk .cls .rel),
   ([0x073C800000003600], .fence (laneHdr 0 0 0 0) .tso .dev false),
   ([0x1745040203001694], .gldGlb { laneHdr 8 4 6 0 with la := 2 } { dom := .rel, sc := .dev, size := .b4, iw := false, sx := true, scl := 2, na := false }),
   ([0x8750030204060260], .bt (groupHdr 6 4 8 12) { dom := .bulk, sc := .blk, dir := .glbAbuf, g := false, slot := 0 }),
   ([0x17600A01020318D0], .rmld { laneHdr 20 2 4 6 with la := 2 } { dom := .rel, size := .b8, ord := .acq, op := .add }),
   ([0x0131000180048000], .brx { laneHdr 0 3 0 9 with ps := 1 } 0),
   ([0x8738000002800023], .bara (groupHdr 0 0 5 0) { cnt := true, cl := false, n := 3 }),
   ([0x077100000000002A], .brk (laneHdr 0 0 0 0) 0x2A),
   ([0x8771800000000000], .tret (groupHdr 0 0 0 0)),
   ([0x8773000200028000], .ptload (groupHdr 0 4 0 5))]

end Sys2Proof.Claims

section

open Sys2Proof Sys2Proof.Machine Sys2Proof.Claims

/-- R34, R35, R39, R40, R287, R310, R363, R365, R375, R388: a step whose turn goes to an agent first takes the agent's instruction boundary (a rotation that is due, a trap that is due); with nothing due there, it fetches the words at
the agent's PC in one context, and where they decode to a well-formed instruction and nothing holds it back, it runs exactly that instruction and then counts the issue. A hardware breakpoint at the PC is raised instead, unless the
instruction raised a trap of higher priority. Words that decode to nothing, and words that cannot be fetched, raise their trap. A step whose turn goes to an event runs the event; with an empty agenda the model chooses the turn (log 1).
Every instruction of an executing agent ends in a next state: none stops the machine. -/
def Obligations.StepRunsDecoded : Prop :=
  (∀ (s : State) (t : Turn) (rest : List Turn) (ag : AgentRef) (v : View) (w : Word) (i : Instr), s.agenda = t :: rest →
    let s0 := { s with agenda := rest }
    let got := fetch { s0 with cur := some ag } v.core v.ctx v.r.pc
    ((∃ c q, t = .issue c q ∧ Machine.pick s0 c q = some ag) ∨ (∃ b g l, t = .thread b g l ∧ ag = { blk := b, grp := g, lane := some l } ∧ (readyThreads s0).contains ag = true)) →
    viewOf s0 ag = some v →
    (∀ u, boundaryFirst s0 v = some u → Machine.step s = .next u) ∧
    (v.ej = true ∨ (fairnessDue v.g = false ∧ v.g.held = [] ∧ v.g.async = [] ∧ v.g.called = none) → boundaryFirst s0 v = none) ∧
    (boundaryFirst s0 v = none →
      (got = .word w (some i) →
        (holdBack s0 v w = none → breakpoint s0 v = none → focusStop s0 v w = none → ∃ u, exec i (beforeIssue s0 v w) = .next u ∧ Machine.step s = .next (afterIssue v w u)) ∧
        (∀ n, holdBack s0 v w = none → breakpoint s0 v = some n → ∃ u, exec i (beforeIssue s0 v w) = .next u ∧
          Machine.step s = .next (if u.raised = some .ill ∨ u.raised = some .priv ∨ u.raised = some .stream then afterIssue v w u else breakTrap s0 v w n)) ∧
        (∀ u, holdBack s0 v w = some u → Machine.step s = .next u) ∧
        (∀ u, holdBack s0 v w = none → breakpoint s0 v = none → focusStop s0 v w = some u → Machine.step s = .next u)) ∧
      (got = .word w none → Machine.step s = .next (fetchTrap s0 v w .ill 0)) ∧
      (∀ c va, got = .fault c w va → breakpoint s0 v = none → Machine.step s = .next (fetchTrap s0 v w c va)))) ∧
  (∀ (s : State) (v : View) (i : Instr), view? s = some v → ∃ t, exec i s = .next t) ∧
  (∀ (s : State) (core ctx : Nat) (pc : Word) (sp : List Span), fetchCheck s core ctx pc 8 = .inr sp → let bs := fetchBytes s core sp
    (takesX ((wordOfBytes bs).toNat / 2 ^ 47 % 256) = false → (∀ i, decodeBytes bs = .ok i → fetch s core ctx pc = .word (wordOfBytes bs) (some i)) ∧
      (∀ e, decodeBytes bs = .error e → fetch s core ctx pc = .word (wordOfBytes bs) none)) ∧
    (takesX ((wordOfBytes bs).toNat / 2 ^ 47 % 256) = true → ∀ sx i, fetchCheck s core ctx (pc + 8) 8 = .inr sx → decodeBytes (bs ++ fetchBytes s core sx) = .ok i → fetch s core ctx pc = .word (wordOfBytes bs) (some i)) ∧
    (takesX ((wordOfBytes bs).toNat / 2 ^ 47 % 256) = true → ∀ c, fetchCheck s core ctx (pc + 8) 8 = .inl c →
      fetch s core ctx pc = if legalWord (wordOfBytes bs) then .fault c (wordOfBytes bs) (pc + 8) else .word (wordOfBytes bs) none)) ∧
  (∀ (s : State) (core ctx : Nat) (pc : Word) (c : Cause), fetchCheck s core ctx pc 8 = .inl c → fetch s core ctx pc = .fault c 0 pc) ∧
  (∀ (s : State) (i : Instr) (rest : List Turn), s.agenda = .event i :: rest → Machine.step s = exec i { s with agenda := rest }) ∧
  (∀ (s : State), s.agenda = [] → Machine.step s = Machine.step { (nextTurn s).1 with agenda := (nextTurn s).2 :: (nextTurn s).1.agenda })

/-- R33, R40, R41: the words that the spec's examples give decode to the instructions that the examples name, and these encode to the words. -/
def Obligations.DecodesSpecWords : Prop :=
  ∀ e ∈ specWords, decodeWords e.1 = .ok (e.2, []) ∧ encode e.2 = e.1 ∧ WellFormed e.2 = true

/-- R33, R41 to R57: for every instruction with a legal word, decoding its words gives it back, and so does decoding their bytes in memory order. -/
def Obligations.DecodeEncode : Prop :=
  ∀ i : Instr, WellFormed i = true → decodeWords (encode i) = .ok (i, []) ∧ decodeBytes ((encode i).flatMap (fun w => toBytes 8 w.toNat)) = .ok i

/-- Every step keeps memory in its canonical form: addresses strictly rising, and no byte listed that an unlisted address reads as. The form is the model's (log 4). -/
def Obligations.StepKeepsMemoryCanonical : Prop :=
  ∀ (s t : State), MemOk s → Machine.step s = .next t → MemOk t

/-- Memory right after reset is in its canonical form, and the device is as R421 says: nothing listed, no context, boot stage 0, FAIL 0. That memory lists nothing is the model's (log 4). -/
def Obligations.ResetState : Prop :=
  MemOk State.reset ∧ State.reset.mem = [] ∧ State.reset.ctxs = [] ∧ State.reset.blocks = [] ∧ State.reset.mgmt.stage = 0 ∧ State.reset.mgmt.fail = 0 ∧ State.reset.mgmt.ready = false ∧
    (∀ q, queueOf State.reset q = { ring := 0, en := false, ctx := 0, log2n := 4, err := 0, head := 0, tail := 0 }) ∧ State.reset.fab.trimth = 8192 ∧ State.reset.vtime = 0

/-- R377: BRK has both forms; its code stands in MOD[7:0], and LA and the other fields are zero. The lane form raises BRKP for the active lanes and does nothing when none is active; the group-wide form raises it once for the group when its predicate passes. The trap's code is the
break code, and RESUME is BRK + 8. BRK 0x2A is 0x0771_0000_0000_002A. -/
def Obligations.BreakInstruction : Prop :=
  (∀ (h : Hdr) (code : BitVec 8), WellFormed (.brk h code) = true ↔ h.la = 0 ∧ h.d = 0 ∧ h.a = 0 ∧ h.b = 0 ∧ h.c = 0 ∧ (h.ps = 7 → h.pn = false)) ∧
  (∀ (w x : Word) (i : Instr), (rawOf w).op = 0xE2 → decodeWord w x = .ok i → i = .brk (rawOf w).hdr ((rawOf w).md.extractLsb' 0 8) ∧ (rawOf w).md.extractLsb' 8 7 = 0) ∧
  decodeWords [0x077100000000002A] = .ok (.brk (laneHdr 0 0 0 0) 0x2A, []) ∧
  (∀ (s : State) (v : View) (h : Hdr) (code : BitVec 8), view? s = some v → WellFormed (.brk h code) = true →
    let trap := fun (lanes : Mask) => ({ cause := .brkp, code := code.toNat, lanes := lanes, next := true } : Trap)
    (h.u = true → v.ej = false → v.groupOn h = true → exec (.brk h code) s = .next (takeTrap s v (trap v.mask))) ∧
    (h.u = true → v.ej = false → v.groupOn h = false → ∃ t r, exec (.brk h code) s = .next t ∧ Ends s t v (v.r.pc + 8) 0 (fun _ => False) r) ∧
    (h.u = false → v.active h ≠ [] → exec (.brk h code) s = .next (takeTrap s v (trap (maskOf (v.active h))))) ∧
    (h.u = false → v.active h = [] → ∃ t r, exec (.brk h code) s = .next t ∧ Ends s t v (v.r.pc + 8) 0 (fun _ => False) r) ∧
    (∀ lanes, (recordOf s v (trap lanes)).resume = v.r.pc + 8 ∧ (recordOf s v (trap lanes)).lanes = lanes ∧ (recordOf s v (trap lanes)).info.toNat / 2 ^ 32 % 2 ^ 16 = code.toNat))

/-- R123: SROUND sets the stochastic-rounding state of each active lane from V(l,A), a zero to 0x6A09_E667 (R80), and nothing else; D, B, C and MOD are zero. -/
def Obligations.StochasticSeed : Prop :=
  (∀ h : Hdr, WellFormed (.sround h) = true → h.d = 0 ∧ h.b = 0 ∧ h.c = 0) ∧
  (∀ (w x : Word) (i : Instr), (rawOf w).op = 0x47 → decodeWord w x = .ok i → i = .sround (rawOf w).hdr ∧ (rawOf w).md = 0) ∧
  (∀ (s : State) (v : View) (h : Hdr), view? s = some v → WellFormed (.sround h) = true → Computes v h [(h.a, 1)] [] →
    ∃ t, exec (.sround h) s = .next t ∧ Finishes s t v (v.r.pc + 8) ((v.active h).map (fun l =>
      .gen l (if v.r.vget l h.a.toNat = 0 then 0x6A09E667 else v.r.vget l h.a.toNat))) 0)

/-- R111: FMIN and FMAX return, element by element, the smaller or the larger operand with −0 below +0, the other operand when exactly one is NaN, and the canonical NaN when both are; a signalling NaN operand sets NV, and no other flag is raised. Nothing else changes. -/
def Obligations.MinimumAndMaximum : Prop :=
  ∀ (larger : Bool) (s : State) (v : View) (h : Hdr) (m : FpMod), let i := if larger then Instr.fmax h m else .fmin h m
    view? s = some v → WellFormed i = true →
    Computes v h ([(h.d, span m.ty.wide), (h.a, span m.ty.wide)] ++ regs2 h m.bk m.ck m.ty.wide) (destRegs h.d m.ty.wide) →
    let res := fun (l : Option Nat) => List.zipWith (smallerOf larger m) (fpA v h m l) (fpSecond v.r l h m)
    ∃ t r, exec i s = .next t ∧ Ends s t v (v.r.pc + 8) (flagsAll ((v.places h).flatMap (fun l => (res l).map Prod.snd))) (Dest v h m.ty.wide) r ∧
      ∀ l ∈ v.places h, Holds r l h.d m.ty.wide false (joinElems ((res l).map Prod.fst))

end
end

