-- ==== Sys2Proof/Laws/Boot.lean ====
section
/-! SUPPORT. The validator passes the four shipped tables (spec/07_coherence.md R204), so that boot puts them into slots 0 to 3. -/

namespace Sys2Proof.Machine

open Sys2Proof

theorem tableInv_passes : tableStatus tableInv = 0 := by decide +kernel

theorem tableUpd_passes : tableStatus tableUpd = 0 := by decide +kernel

theorem tableMig_passes : tableStatus tableMig = 0 := by decide +kernel

theorem tableWon_passes : tableStatus tableWon = 0 := by decide +kernel

theorem bootTables_eq : bootTables = shippedTables := by
  simp [bootTables, shippedTables, tableInv_passes, tableUpd_passes, tableMig_passes, tableWon_passes]

end Sys2Proof.Machine
end

