-- ==== Sys2Proof/Laws/Code.lean ====
section
/-! SUPPORT. The fields of a built word, and that the code of each named field reads back as the name. -/

namespace Sys2Proof.Laws

/-- The fields of a word are those that it was built from (R33). -/
theorem fields_of_word (h : Hdr) (op : BitVec 8) (md : BitVec 15) :
    rawOf (wordOf h op md) = { u := h.u, la := h.la, ps := h.ps, pn := h.pn, op := op, d := h.d, a := h.a, b := h.b, c := h.c, md := md } := by
  obtain ⟨u, la, ps, pn, d, a, b, c⟩ := h
  simp only [rawOf, wordOf, packRaw, Raw.mk.injEq]
  refine ⟨?_, ?_, ?_, ?_, ?_, ?_, ?_, ?_, ?_, ?_⟩
  all_goals first
    | (simp only [BitVec.getLsbD_append, Nat.reduceLT, Nat.reduceSub, if_false]; simp)
    | (repeat rw [BitVec.extractLsb'_append_eq_of_le (by decide)]
       first | exact BitVec.extractLsb'_eq_self | (rw [BitVec.extractLsb'_append_eq_of_add_le (by decide)]; exact BitVec.extractLsb'_eq_self))

/-- The opcode of a built word, as fetch reads it. -/
theorem opcode_of_word (h : Hdr) (op : BitVec 8) (md : BitVec 15) : (wordOf h op md).toNat / 2 ^ 47 % 256 = op.toNat := by
  have := congrArg (fun r => r.op.toNat) (fields_of_word h op md)
  simpa [rawOf, BitVec.extractLsb'_toNat, Nat.shiftRight_eq_div_pow] using this

@[simp] theorem intTy_code (t : IntTy) : intTyOf (intTyBits t) = some t := by cases t <;> rfl
@[simp] theorem ck_code (t : CKind) : ckOf (ckBits t) = t := by cases t <;> rfl
@[simp] theorem fTy_code (t : FTy) : fTyOf (fTyBits t) = some t := by cases t <;> rfl
@[simp] theorem icond_code (t : ICond) : icondOf (icondBits t) = some t := by cases t <;> rfl
@[simp] theorem fcond_code (t : FCond) : fcondOf (fcondBits t) = some t := by cases t <;> rfl
@[simp] theorem rm3_code (t : Rm) : rm3Of (rm3Bits t) = some t := by cases t <;> rfl
@[simp] theorem fp8Pair_code (t : Fp8Pair) : fp8PairOf (fp8PairBits t) = some t := by cases t <;> rfl
@[simp] theorem fmt_code (t : Fmt) : fmtOf (fmtBits t) = some t := by cases t <;> rfl
@[simp] theorem xTy_code (t : XTy) : xTyOf (xTyBits t) = t := by cases t <;> rfl
@[simp] theorem dom_code (t : Dom) : domOf (domBits t) = some t := by cases t <;> rfl
@[simp] theorem scope_code (t : Scope) : scopeOf (scopeBits t) = some t := by cases t <;> rfl
@[simp] theorem size_code (t : Size) : sizeOf' (sizeBits t) = some t := by cases t <;> rfl
@[simp] theorem ord_code (t : Ord) : ordOf (ordBits t) = t := by cases t <;> rfl
@[simp] theorem dir_code (t : Dir) : dirOf (dirBits t) = some t := by cases t <;> rfl
@[simp] theorem atOp_code (t : AtOp) : atOpOf (atOpBits t).toNat = some t := by cases t <;> rfl
/-- The two-bit rounding field has no code for stochastic rounding (R43). -/
theorem rm2_code (t : Rm) (h : t ≠ .sr) : rm2Of (rm2Bits t) = t := by cases t <;> first | rfl | exact absurd rfl h

end Sys2Proof.Laws
end

