-- ==== Sys2Proof/Laws/PerInstr.lean ====
section
/-! SUPPORT. Statements made of each instruction as syntax. `Encoding`: a legal instruction's words are one word, and an X-word exactly where
the opcode takes one, so that fetch reads as many words as the encoder wrote (R33, R34). -/

namespace Sys2Proof.Laws

/-- The words of a legal instruction are as many as its opcode makes the fetch read. -/
def Encoding.Statement (i : Instr) : Prop :=
  WellFormed i = true → ∃ w rest, encode i = w :: rest ∧ rest.length = if takesX (w.toNat / 2 ^ 47 % 256) then 1 else 0

/-- A word of a built instruction takes an X-word as its opcode says. -/
theorem Encoding.takes (h : Hdr) (op : BitVec 8) (md : BitVec 15) (n : Nat) (hn : n = if takesX op.toNat then 1 else 0) :
    n = if takesX ((wordOf h op md).toNat / 2 ^ 47 % 256) then 1 else 0 := by
  rw [opcode_of_word]; exact hn

theorem Encoding.add (h : Hdr) (m : IntMod) : Encoding.Statement (.add h m) := fun _ => ⟨_, _, rfl, Encoding.takes _ _ _ _ rfl⟩
theorem Encoding.sub (h : Hdr) (m : IntMod) : Encoding.Statement (.sub h m) := fun _ => ⟨_, _, rfl, Encoding.takes _ _ _ _ rfl⟩
theorem Encoding.min (h : Hdr) (m : IntMod) : Encoding.Statement (.min h m) := fun _ => ⟨_, _, rfl, Encoding.takes _ _ _ _ rfl⟩
theorem Encoding.max (h : Hdr) (m : IntMod) : Encoding.Statement (.max h m) := fun _ => ⟨_, _, rfl, Encoding.takes _ _ _ _ rfl⟩
theorem Encoding.abs (h : Hdr) (m : IntMod) : Encoding.Statement (.abs h m) := fun _ => ⟨_, _, rfl, Encoding.takes _ _ _ _ rfl⟩
theorem Encoding.mul (h : Hdr) (m : IntMod) : Encoding.Statement (.mul h m) := fun _ => ⟨_, _, rfl, Encoding.takes _ _ _ _ rfl⟩
theorem Encoding.mulh (h : Hdr) (m : IntMod) : Encoding.Statement (.mulh h m) := fun _ => ⟨_, _, rfl, Encoding.takes _ _ _ _ rfl⟩
theorem Encoding.mad (h : Hdr) (m : IntMod) : Encoding.Statement (.mad h m) := fun _ => ⟨_, _, rfl, Encoding.takes _ _ _ _ rfl⟩
theorem Encoding.divu (h : Hdr) (m : IntMod) : Encoding.Statement (.divu h m) := fun _ => ⟨_, _, rfl, Encoding.takes _ _ _ _ rfl⟩
theorem Encoding.divs (h : Hdr) (m : IntMod) : Encoding.Statement (.divs h m) := fun _ => ⟨_, _, rfl, Encoding.takes _ _ _ _ rfl⟩
theorem Encoding.remu (h : Hdr) (m : IntMod) : Encoding.Statement (.remu h m) := fun _ => ⟨_, _, rfl, Encoding.takes _ _ _ _ rfl⟩
theorem Encoding.rems (h : Hdr) (m : IntMod) : Encoding.Statement (.rems h m) := fun _ => ⟨_, _, rfl, Encoding.takes _ _ _ _ rfl⟩
theorem Encoding.and (h : Hdr) (m : IntMod) : Encoding.Statement (.and h m) := fun _ => ⟨_, _, rfl, Encoding.takes _ _ _ _ rfl⟩
theorem Encoding.or (h : Hdr) (m : IntMod) : Encoding.Statement (.or h m) := fun _ => ⟨_, _, rfl, Encoding.takes _ _ _ _ rfl⟩
theorem Encoding.xor (h : Hdr) (m : IntMod) : Encoding.Statement (.xor h m) := fun _ => ⟨_, _, rfl, Encoding.takes _ _ _ _ rfl⟩
theorem Encoding.blut (h : Hdr) (tt : BitVec 8) : Encoding.Statement (.blut h tt) := fun _ => ⟨_, _, rfl, Encoding.takes _ _ _ _ rfl⟩
theorem Encoding.shl (h : Hdr) (m : IntMod) : Encoding.Statement (.shl h m) := fun _ => ⟨_, _, rfl, Encoding.takes _ _ _ _ rfl⟩
theorem Encoding.shr (h : Hdr) (m : IntMod) : Encoding.Statement (.shr h m) := fun _ => ⟨_, _, rfl, Encoding.takes _ _ _ _ rfl⟩
theorem Encoding.sar (h : Hdr) (m : IntMod) : Encoding.Statement (.sar h m) := fun _ => ⟨_, _, rfl, Encoding.takes _ _ _ _ rfl⟩
theorem Encoding.fsh (h : Hdr) (m : IntMod) : Encoding.Statement (.fsh h m) := fun _ => ⟨_, _, rfl, Encoding.takes _ _ _ _ rfl⟩
theorem Encoding.bfx (h : Hdr) (m : IntMod) : Encoding.Statement (.bfx h m) := fun _ => ⟨_, _, rfl, Encoding.takes _ _ _ _ rfl⟩
theorem Encoding.bfi (h : Hdr) (m : IntMod) : Encoding.Statement (.bfi h m) := fun _ => ⟨_, _, rfl, Encoding.takes _ _ _ _ rfl⟩
theorem Encoding.popc (h : Hdr) (m : IntMod) : Encoding.Statement (.popc h m) := fun _ => ⟨_, _, rfl, Encoding.takes _ _ _ _ rfl⟩
theorem Encoding.clz (h : Hdr) (m : IntMod) : Encoding.Statement (.clz h m) := fun _ => ⟨_, _, rfl, Encoding.takes _ _ _ _ rfl⟩
theorem Encoding.ctz (h : Hdr) (m : IntMod) : Encoding.Statement (.ctz h m) := fun _ => ⟨_, _, rfl, Encoding.takes _ _ _ _ rfl⟩
theorem Encoding.brev (h : Hdr) (m : IntMod) : Encoding.Statement (.brev h m) := fun _ => ⟨_, _, rfl, Encoding.takes _ _ _ _ rfl⟩
theorem Encoding.sel (h : Hdr) (m : IntMod) : Encoding.Statement (.sel h m) := fun _ => ⟨_, _, rfl, Encoding.takes _ _ _ _ rfl⟩
theorem Encoding.iset (h : Hdr) (m : IntMod) (cc : ICond) : Encoding.Statement (.iset h m cc) := fun _ => ⟨_, _, rfl, Encoding.takes _ _ _ _ rfl⟩
theorem Encoding.cmp (h : Hdr) (m : IntMod) (cc : ICond) : Encoding.Statement (.cmp h m cc) := fun _ => ⟨_, _, rfl, Encoding.takes _ _ _ _ rfl⟩
theorem Encoding.lea (h : Hdr) (m : IntMod) : Encoding.Statement (.lea h m) := fun _ => ⟨_, _, rfl, Encoding.takes _ _ _ _ rfl⟩
theorem Encoding.mov (h : Hdr) (m : IntMod) : Encoding.Statement (.mov h m) := fun _ => ⟨_, _, rfl, Encoding.takes _ _ _ _ rfl⟩
theorem Encoding.movi (h : Hdr) (w : Bool) (x : Word) : Encoding.Statement (.movi h w x) := fun _ => ⟨_, _, rfl, Encoding.takes _ _ _ _ rfl⟩
theorem Encoding.fadd (h : Hdr) (m : FpMod) : Encoding.Statement (.fadd h m) := fun _ => ⟨_, _, rfl, Encoding.takes _ _ _ _ rfl⟩
theorem Encoding.fmul (h : Hdr) (m : FpMod) : Encoding.Statement (.fmul h m) := fun _ => ⟨_, _, rfl, Encoding.takes _ _ _ _ rfl⟩
theorem Encoding.ffma (h : Hdr) (m : FpMod) : Encoding.Statement (.ffma h m) := fun _ => ⟨_, _, rfl, Encoding.takes _ _ _ _ rfl⟩
theorem Encoding.fmin (h : Hdr) (m : FpMod) : Encoding.Statement (.fmin h m) := fun _ => ⟨_, _, rfl, Encoding.takes _ _ _ _ rfl⟩
theorem Encoding.fmax (h : Hdr) (m : FpMod) : Encoding.Statement (.fmax h m) := fun _ => ⟨_, _, rfl, Encoding.takes _ _ _ _ rfl⟩
theorem Encoding.fcmp (h : Hdr) (m : FpMod) (cc : FCond) : Encoding.Statement (.fcmp h m cc) := fun _ => ⟨_, _, rfl, Encoding.takes _ _ _ _ rfl⟩
theorem Encoding.fset (h : Hdr) (m : FpMod) (cc : FCond) : Encoding.Statement (.fset h m cc) := fun _ => ⟨_, _, rfl, Encoding.takes _ _ _ _ rfl⟩
theorem Encoding.frcp (h : Hdr) (m : FpMod) : Encoding.Statement (.frcp h m) := fun _ => ⟨_, _, rfl, Encoding.takes _ _ _ _ rfl⟩
theorem Encoding.frsq (h : Hdr) (m : FpMod) : Encoding.Statement (.frsq h m) := fun _ => ⟨_, _, rfl, Encoding.takes _ _ _ _ rfl⟩
theorem Encoding.fsqrt (h : Hdr) (m : FpMod) : Encoding.Statement (.fsqrt h m) := fun _ => ⟨_, _, rfl, Encoding.takes _ _ _ _ rfl⟩
theorem Encoding.fdiv (h : Hdr) (m : FpMod) : Encoding.Statement (.fdiv h m) := fun _ => ⟨_, _, rfl, Encoding.takes _ _ _ _ rfl⟩
theorem Encoding.fexp2 (h : Hdr) (m : FpMod) : Encoding.Statement (.fexp2 h m) := fun _ => ⟨_, _, rfl, Encoding.takes _ _ _ _ rfl⟩
theorem Encoding.flog2 (h : Hdr) (m : FpMod) : Encoding.Statement (.flog2 h m) := fun _ => ⟨_, _, rfl, Encoding.takes _ _ _ _ rfl⟩
theorem Encoding.fsin (h : Hdr) (m : FpMod) : Encoding.Statement (.fsin h m) := fun _ => ⟨_, _, rfl, Encoding.takes _ _ _ _ rfl⟩
theorem Encoding.fcos (h : Hdr) (m : FpMod) : Encoding.Statement (.fcos h m) := fun _ => ⟨_, _, rfl, Encoding.takes _ _ _ _ rfl⟩
theorem Encoding.frnd (h : Hdr) (m : FpMod) : Encoding.Statement (.frnd h m) := fun _ => ⟨_, _, rfl, Encoding.takes _ _ _ _ rfl⟩
theorem Encoding.fclass (h : Hdr) (m : FpMod) : Encoding.Statement (.fclass h m) := fun _ => ⟨_, _, rfl, Encoding.takes _ _ _ _ rfl⟩
theorem Encoding.fscale (h : Hdr) (m : FpMod) : Encoding.Statement (.fscale h m) := fun _ => ⟨_, _, rfl, Encoding.takes _ _ _ _ rfl⟩
theorem Encoding.fdot2 (h : Hdr) (m : FpMod) : Encoding.Statement (.fdot2 h m) := fun _ => ⟨_, _, rfl, Encoding.takes _ _ _ _ rfl⟩
theorem Encoding.fdot4 (h : Hdr) (m : FpMod) (pr : Fp8Pair) : Encoding.Statement (.fdot4 h m pr) := fun _ => ⟨_, _, rfl, Encoding.takes _ _ _ _ rfl⟩
theorem Encoding.cvt (h : Hdr) (m : CvMod) : Encoding.Statement (.cvt h m) := fun _ => ⟨_, _, rfl, Encoding.takes _ _ _ _ rfl⟩
theorem Encoding.pack (h : Hdr) (m : CvMod) : Encoding.Statement (.pack h m) := fun _ => ⟨_, _, rfl, Encoding.takes _ _ _ _ rfl⟩
theorem Encoding.unpack (h : Hdr) (m : CvMod) : Encoding.Statement (.unpack h m) := fun _ => ⟨_, _, rfl, Encoding.takes _ _ _ _ rfl⟩
theorem Encoding.amax (h : Hdr) (m : CvMod) : Encoding.Statement (.amax h m) := fun _ => ⟨_, _, rfl, Encoding.takes _ _ _ _ rfl⟩
theorem Encoding.qscale (h : Hdr) (m : CvMod) : Encoding.Statement (.qscale h m) := fun _ => ⟨_, _, rfl, Encoding.takes _ _ _ _ rfl⟩
theorem Encoding.quant (h : Hdr) (m : CvMod) : Encoding.Statement (.quant h m) := fun _ => ⟨_, _, rfl, Encoding.takes _ _ _ _ rfl⟩
theorem Encoding.deq (h : Hdr) (m : CvMod) : Encoding.Statement (.deq h m) := fun _ => ⟨_, _, rfl, Encoding.takes _ _ _ _ rfl⟩
theorem Encoding.sround (h : Hdr) : Encoding.Statement (.sround h) := fun _ => ⟨_, _, rfl, Encoding.takes _ _ _ _ rfl⟩
theorem Encoding.prmt (h : Hdr) (ck : CKind) : Encoding.Statement (.prmt h ck) := fun _ => ⟨_, _, rfl, Encoding.takes _ _ _ _ rfl⟩
theorem Encoding.shfl (h : Hdr) (m : XMod) : Encoding.Statement (.shfl h m) := fun _ => ⟨_, _, rfl, Encoding.takes _ _ _ _ rfl⟩
theorem Encoding.qxch (h : Hdr) (m : XMod) : Encoding.Statement (.qxch h m) := fun _ => ⟨_, _, rfl, Encoding.takes _ _ _ _ rfl⟩
theorem Encoding.qbcast (h : Hdr) (m : XMod) : Encoding.Statement (.qbcast h m) := fun _ => ⟨_, _, rfl, Encoding.takes _ _ _ _ rfl⟩
theorem Encoding.vote (h : Hdr) (m : XMod) : Encoding.Statement (.vote h m) := fun _ => ⟨_, _, rfl, Encoding.takes _ _ _ _ rfl⟩
theorem Encoding.matchLanes (h : Hdr) (m : XMod) : Encoding.Statement (.matchLanes h m) := fun _ => ⟨_, _, rfl, Encoding.takes _ _ _ _ rfl⟩
theorem Encoding.redux (h : Hdr) (m : XMod) : Encoding.Statement (.redux h m) := fun _ => ⟨_, _, rfl, Encoding.takes _ _ _ _ rfl⟩
theorem Encoding.scan (h : Hdr) (m : XMod) : Encoding.Statement (.scan h m) := fun _ => ⟨_, _, rfl, Encoding.takes _ _ _ _ rfl⟩
theorem Encoding.bra (h : Hdr) (lo : BitVec 15) : Encoding.Statement (.bra h lo) := fun _ => ⟨_, _, rfl, Encoding.takes _ _ _ _ rfl⟩
theorem Encoding.braFar (h : Hdr) (x : Word) : Encoding.Statement (.braFar h x) := fun _ => ⟨_, _, rfl, Encoding.takes _ _ _ _ rfl⟩
theorem Encoding.brx (h : Hdr) (live : BitVec 10) : Encoding.Statement (.brx h live) := fun _ => ⟨_, _, rfl, Encoding.takes _ _ _ _ rfl⟩
theorem Encoding.join (h : Hdr) : Encoding.Statement (.join h) := fun _ => ⟨_, _, rfl, Encoding.takes _ _ _ _ rfl⟩
theorem Encoding.call (h : Hdr) (lo : BitVec 15) : Encoding.Statement (.call h lo) := fun _ => ⟨_, _, rfl, Encoding.takes _ _ _ _ rfl⟩
theorem Encoding.callFar (h : Hdr) (x : Word) : Encoding.Statement (.callFar h x) := fun _ => ⟨_, _, rfl, Encoding.takes _ _ _ _ rfl⟩
theorem Encoding.ret (h : Hdr) : Encoding.Statement (.ret h) := fun _ => ⟨_, _, rfl, Encoding.takes _ _ _ _ rfl⟩
theorem Encoding.jmpi (h : Hdr) : Encoding.Statement (.jmpi h) := fun _ => ⟨_, _, rfl, Encoding.takes _ _ _ _ rfl⟩
theorem Encoding.exit (h : Hdr) : Encoding.Statement (.exit h) := fun _ => ⟨_, _, rfl, Encoding.takes _ _ _ _ rfl⟩
theorem Encoding.recall (h : Hdr) : Encoding.Statement (.recall h) := fun _ => ⟨_, _, rfl, Encoding.takes _ _ _ _ rfl⟩
theorem Encoding.bara (h : Hdr) (m : BarMod) : Encoding.Statement (.bara h m) := fun _ => ⟨_, _, rfl, Encoding.takes _ _ _ _ rfl⟩
theorem Encoding.barw (h : Hdr) (m : BarMod) : Encoding.Statement (.barw h m) := fun _ => ⟨_, _, rfl, Encoding.takes _ _ _ _ rfl⟩
theorem Encoding.bars (h : Hdr) (m : BarMod) : Encoding.Statement (.bars h m) := fun _ => ⟨_, _, rfl, Encoding.takes _ _ _ _ rfl⟩
theorem Encoding.tbinit (h : Hdr) : Encoding.Statement (.tbinit h) := fun _ => ⟨_, _, rfl, Encoding.takes _ _ _ _ rfl⟩
theorem Encoding.tbarr (h : Hdr) : Encoding.Statement (.tbarr h) := fun _ => ⟨_, _, rfl, Encoding.takes _ _ _ _ rfl⟩
theorem Encoding.tbexp (h : Hdr) : Encoding.Statement (.tbexp h) := fun _ => ⟨_, _, rfl, Encoding.takes _ _ _ _ rfl⟩
theorem Encoding.tbwait (h : Hdr) : Encoding.Statement (.tbwait h) := fun _ => ⟨_, _, rfl, Encoding.takes _ _ _ _ rfl⟩
theorem Encoding.tbtest (h : Hdr) : Encoding.Statement (.tbtest h) := fun _ => ⟨_, _, rfl, Encoding.takes _ _ _ _ rfl⟩
theorem Encoding.waitv (h : Hdr) (m : MemMod) : Encoding.Statement (.waitv h m) := fun _ => ⟨_, _, rfl, Encoding.takes _ _ _ _ rfl⟩
theorem Encoding.fence (h : Hdr) (dom : Dom) (sc : Scope) (all : Bool) : Encoding.Statement (.fence h dom sc all) := fun _ => ⟨_, _, rfl, Encoding.takes _ _ _ _ rfl⟩
theorem Encoding.brg (h : Hdr) (d1 : Dom) (sc : Scope) (d2 : Dom) : Encoding.Statement (.brg h d1 sc d2) := fun _ => ⟨_, _, rfl, Encoding.takes _ _ _ _ rfl⟩
theorem Encoding.gset (h : Hdr) : Encoding.Statement (.gset h) := fun _ => ⟨_, _, rfl, Encoding.takes _ _ _ _ rfl⟩
theorem Encoding.ldGlb (h : Hdr) (m : MemMod) : Encoding.Statement (.ldGlb h m) := fun _ => ⟨_, _, rfl, Encoding.takes _ _ _ _ rfl⟩
theorem Encoding.ldLoc (h : Hdr) (m : MemMod) : Encoding.Statement (.ldLoc h m) := fun _ => ⟨_, _, rfl, Encoding.takes _ _ _ _ rfl⟩
theorem Encoding.ldNbr (h : Hdr) (m : MemMod) : Encoding.Statement (.ldNbr h m) := fun _ => ⟨_, _, rfl, Encoding.takes _ _ _ _ rfl⟩
theorem Encoding.ldAbuf (h : Hdr) (m : MemMod) : Encoding.Statement (.ldAbuf h m) := fun _ => ⟨_, _, rfl, Encoding.takes _ _ _ _ rfl⟩
theorem Encoding.ldZbuf (h : Hdr) (m : MemMod) : Encoding.Statement (.ldZbuf h m) := fun _ => ⟨_, _, rfl, Encoding.takes _ _ _ _ rfl⟩
theorem Encoding.stGlb (h : Hdr) (m : MemMod) : Encoding.Statement (.stGlb h m) := fun _ => ⟨_, _, rfl, Encoding.takes _ _ _ _ rfl⟩
theorem Encoding.stLoc (h : Hdr) (m : MemMod) : Encoding.Statement (.stLoc h m) := fun _ => ⟨_, _, rfl, Encoding.takes _ _ _ _ rfl⟩
theorem Encoding.stNbr (h : Hdr) (m : MemMod) : Encoding.Statement (.stNbr h m) := fun _ => ⟨_, _, rfl, Encoding.takes _ _ _ _ rfl⟩
theorem Encoding.stAbuf (h : Hdr) (m : MemMod) : Encoding.Statement (.stAbuf h m) := fun _ => ⟨_, _, rfl, Encoding.takes _ _ _ _ rfl⟩
theorem Encoding.stZbuf (h : Hdr) (m : MemMod) : Encoding.Statement (.stZbuf h m) := fun _ => ⟨_, _, rfl, Encoding.takes _ _ _ _ rfl⟩
theorem Encoding.gldGlb (h : Hdr) (m : GatMod) : Encoding.Statement (.gldGlb h m) := fun _ => ⟨_, _, rfl, Encoding.takes _ _ _ _ rfl⟩
theorem Encoding.gldLoc (h : Hdr) (m : GatMod) : Encoding.Statement (.gldLoc h m) := fun _ => ⟨_, _, rfl, Encoding.takes _ _ _ _ rfl⟩
theorem Encoding.gstGlb (h : Hdr) (m : GatMod) : Encoding.Statement (.gstGlb h m) := fun _ => ⟨_, _, rfl, Encoding.takes _ _ _ _ rfl⟩
theorem Encoding.gstLoc (h : Hdr) (m : GatMod) : Encoding.Statement (.gstLoc h m) := fun _ => ⟨_, _, rfl, Encoding.takes _ _ _ _ rfl⟩
theorem Encoding.atomGlb (h : Hdr) (m : MemMod) : Encoding.Statement (.atomGlb h m) := fun _ => ⟨_, _, rfl, Encoding.takes _ _ _ _ rfl⟩
theorem Encoding.atomLoc (h : Hdr) (m : MemMod) : Encoding.Statement (.atomLoc h m) := fun _ => ⟨_, _, rfl, Encoding.takes _ _ _ _ rfl⟩
theorem Encoding.redGlb (h : Hdr) (m : MemMod) : Encoding.Statement (.redGlb h m) := fun _ => ⟨_, _, rfl, Encoding.takes _ _ _ _ rfl⟩
theorem Encoding.redLoc (h : Hdr) (m : MemMod) : Encoding.Statement (.redLoc h m) := fun _ => ⟨_, _, rfl, Encoding.takes _ _ _ _ rfl⟩
theorem Encoding.lr (h : Hdr) (m : MemMod) : Encoding.Statement (.lr h m) := fun _ => ⟨_, _, rfl, Encoding.takes _ _ _ _ rfl⟩
theorem Encoding.sc (h : Hdr) (m : MemMod) : Encoding.Statement (.sc h m) := fun _ => ⟨_, _, rfl, Encoding.takes _ _ _ _ rfl⟩
theorem Encoding.mxldGlb (h : Hdr) (m : MemMod) : Encoding.Statement (.mxldGlb h m) := fun _ => ⟨_, _, rfl, Encoding.takes _ _ _ _ rfl⟩
theorem Encoding.mxstGlb (h : Hdr) (m : MemMod) : Encoding.Statement (.mxstGlb h m) := fun _ => ⟨_, _, rfl, Encoding.takes _ _ _ _ rfl⟩
theorem Encoding.mxldLoc (h : Hdr) (m : MemMod) : Encoding.Statement (.mxldLoc h m) := fun _ => ⟨_, _, rfl, Encoding.takes _ _ _ _ rfl⟩
theorem Encoding.mxstLoc (h : Hdr) (m : MemMod) : Encoding.Statement (.mxstLoc h m) := fun _ => ⟨_, _, rfl, Encoding.takes _ _ _ _ rfl⟩
theorem Encoding.probe (h : Hdr) (m : MemMod) : Encoding.Statement (.probe h m) := fun _ => ⟨_, _, rfl, Encoding.takes _ _ _ _ rfl⟩
theorem Encoding.pgin (h : Hdr) (m : MemMod) : Encoding.Statement (.pgin h m) := fun _ => ⟨_, _, rfl, Encoding.takes _ _ _ _ rfl⟩
theorem Encoding.pfch (h : Hdr) (m : MemMod) : Encoding.Statement (.pfch h m) := fun _ => ⟨_, _, rfl, Encoding.takes _ _ _ _ rfl⟩
theorem Encoding.wbinv (h : Hdr) (m : MemMod) : Encoding.Statement (.wbinv h m) := fun _ => ⟨_, _, rfl, Encoding.takes _ _ _ _ rfl⟩
theorem Encoding.bt (h : Hdr) (m : BtMod) : Encoding.Statement (.bt h m) := fun _ => ⟨_, _, rfl, Encoding.takes _ _ _ _ rfl⟩
theorem Encoding.btg (h : Hdr) (m : BtMod) : Encoding.Statement (.btg h m) := fun _ => ⟨_, _, rfl, Encoding.takes _ _ _ _ rfl⟩
theorem Encoding.tile (h : Hdr) : Encoding.Statement (.tile h) := fun _ => ⟨_, _, rfl, Encoding.takes _ _ _ _ rfl⟩
theorem Encoding.tileq (h : Hdr) : Encoding.Statement (.tileq h) := fun _ => ⟨_, _, rfl, Encoding.takes _ _ _ _ rfl⟩
theorem Encoding.objdcl (h : Hdr) (slot : BitVec 3) : Encoding.Statement (.objdcl h slot) := fun _ => ⟨_, _, rfl, Encoding.takes _ _ _ _ rfl⟩
theorem Encoding.objrel (h : Hdr) : Encoding.Statement (.objrel h) := fun _ => ⟨_, _, rfl, Encoding.takes _ _ _ _ rfl⟩
theorem Encoding.mmaF16 (h : Hdr) (m : MmaMod) : Encoding.Statement (.mmaF16 h m) := fun _ => ⟨_, _, rfl, Encoding.takes _ _ _ _ rfl⟩
theorem Encoding.mmaF8 (h : Hdr) (m : MmaMod) : Encoding.Statement (.mmaF8 h m) := fun _ => ⟨_, _, rfl, Encoding.takes _ _ _ _ rfl⟩
theorem Encoding.mmaI8 (h : Hdr) (m : MmaMod) : Encoding.Statement (.mmaI8 h m) := fun _ => ⟨_, _, rfl, Encoding.takes _ _ _ _ rfl⟩
theorem Encoding.mmaN4 (h : Hdr) (m : MmaMod) : Encoding.Statement (.mmaN4 h m) := fun _ => ⟨_, _, rfl, Encoding.takes _ _ _ _ rfl⟩
theorem Encoding.mmaMx8 (h : Hdr) (m : MmaMod) : Encoding.Statement (.mmaMx8 h m) := fun _ => ⟨_, _, rfl, Encoding.takes _ _ _ _ rfl⟩
theorem Encoding.mzero (h : Hdr) : Encoding.Statement (.mzero h) := fun _ => ⟨_, _, rfl, Encoding.takes _ _ _ _ rfl⟩
theorem Encoding.mrdy (h : Hdr) : Encoding.Statement (.mrdy h) := fun _ => ⟨_, _, rfl, Encoding.takes _ _ _ _ rfl⟩
theorem Encoding.mbatch (h : Hdr) : Encoding.Statement (.mbatch h) := fun _ => ⟨_, _, rfl, Encoding.takes _ _ _ _ rfl⟩
theorem Encoding.mwait (h : Hdr) : Encoding.Statement (.mwait h) := fun _ => ⟨_, _, rfl, Encoding.takes _ _ _ _ rfl⟩
theorem Encoding.mqnt (h : Hdr) (df : Fmt) : Encoding.Statement (.mqnt h df) := fun _ => ⟨_, _, rfl, Encoding.takes _ _ _ _ rfl⟩
theorem Encoding.rmld (h : Hdr) (m : FabMod) : Encoding.Statement (.rmld h m) := fun _ => ⟨_, _, rfl, Encoding.takes _ _ _ _ rfl⟩
theorem Encoding.rmst (h : Hdr) (m : FabMod) : Encoding.Statement (.rmst h m) := fun _ => ⟨_, _, rfl, Encoding.takes _ _ _ _ rfl⟩
theorem Encoding.rmat (h : Hdr) (m : FabMod) : Encoding.Statement (.rmat h m) := fun _ => ⟨_, _, rfl, Encoding.takes _ _ _ _ rfl⟩
theorem Encoding.xch (h : Hdr) (m : FabMod) : Encoding.Statement (.xch h m) := fun _ => ⟨_, _, rfl, Encoding.takes _ _ _ _ rfl⟩
theorem Encoding.xexp (h : Hdr) (m : FabMod) : Encoding.Statement (.xexp h m) := fun _ => ⟨_, _, rfl, Encoding.takes _ _ _ _ rfl⟩
theorem Encoding.rfence (h : Hdr) (dom : Dom) : Encoding.Statement (.rfence h dom) := fun _ => ⟨_, _, rfl, Encoding.takes _ _ _ _ rfl⟩
theorem Encoding.slotq (h : Hdr) : Encoding.Statement (.slotq h) := fun _ => ⟨_, _, rfl, Encoding.takes _ _ _ _ rfl⟩
theorem Encoding.launch (h : Hdr) (x : Word) : Encoding.Statement (.launch h x) := fun _ => ⟨_, _, rfl, Encoding.takes _ _ _ _ rfl⟩
theorem Encoding.trig (h : Hdr) : Encoding.Statement (.trig h) := fun _ => ⟨_, _, rfl, Encoding.takes _ _ _ _ rfl⟩
theorem Encoding.yield (h : Hdr) : Encoding.Statement (.yield h) := fun _ => ⟨_, _, rfl, Encoding.takes _ _ _ _ rfl⟩
theorem Encoding.sleep (h : Hdr) : Encoding.Statement (.sleep h) := fun _ => ⟨_, _, rfl, Encoding.takes _ _ _ _ rfl⟩
theorem Encoding.stepb (h : Hdr) (x : Word) : Encoding.Statement (.stepb h x) := fun _ => ⟨_, _, rfl, Encoding.takes _ _ _ _ rfl⟩
theorem Encoding.stepe (h : Hdr) : Encoding.Statement (.stepe h) := fun _ => ⟨_, _, rfl, Encoding.takes _ _ _ _ rfl⟩
theorem Encoding.nop (h : Hdr) : Encoding.Statement (.nop h) := fun _ => ⟨_, _, rfl, Encoding.takes _ _ _ _ rfl⟩
theorem Encoding.svc (h : Hdr) (num : BitVec 12) : Encoding.Statement (.svc h num) := fun _ => ⟨_, _, rfl, Encoding.takes _ _ _ _ rfl⟩
theorem Encoding.brk (h : Hdr) (code : BitVec 8) : Encoding.Statement (.brk h code) := fun _ => ⟨_, _, rfl, Encoding.takes _ _ _ _ rfl⟩
theorem Encoding.tret (h : Hdr) : Encoding.Statement (.tret h) := fun _ => ⟨_, _, rfl, Encoding.takes _ _ _ _ rfl⟩
theorem Encoding.sysrd (h : Hdr) : Encoding.Statement (.sysrd h) := fun _ => ⟨_, _, rfl, Encoding.takes _ _ _ _ rfl⟩
theorem Encoding.syswr (h : Hdr) : Encoding.Statement (.syswr h) := fun _ => ⟨_, _, rfl, Encoding.takes _ _ _ _ rfl⟩
theorem Encoding.ptload (h : Hdr) : Encoding.Statement (.ptload h) := fun _ => ⟨_, _, rfl, Encoding.takes _ _ _ _ rfl⟩
theorem Encoding.ctxctlCreate (h : Hdr) : Encoding.Statement (.ctxctlCreate h) := fun _ => ⟨_, _, rfl, Encoding.takes _ _ _ _ rfl⟩
theorem Encoding.ctxctlDestroy (h : Hdr) : Encoding.Statement (.ctxctlDestroy h) := fun _ => ⟨_, _, rfl, Encoding.takes _ _ _ _ rfl⟩
theorem Encoding.ctxctlTenant (h : Hdr) : Encoding.Statement (.ctxctlTenant h) := fun _ => ⟨_, _, rfl, Encoding.takes _ _ _ _ rfl⟩
theorem Encoding.ctxctlQueue (h : Hdr) : Encoding.Statement (.ctxctlQueue h) := fun _ => ⟨_, _, rfl, Encoding.takes _ _ _ _ rfl⟩
theorem Encoding.ctxctlWindow (h : Hdr) : Encoding.Statement (.ctxctlWindow h) := fun _ => ⟨_, _, rfl, Encoding.takes _ _ _ _ rfl⟩
theorem Encoding.ctxctlExpasg (h : Hdr) : Encoding.Statement (.ctxctlExpasg h) := fun _ => ⟨_, _, rfl, Encoding.takes _ _ _ _ rfl⟩
theorem Encoding.ctxctlExpwr (h : Hdr) : Encoding.Statement (.ctxctlExpwr h) := fun _ => ⟨_, _, rfl, Encoding.takes _ _ _ _ rfl⟩
theorem Encoding.ctxctlTlbinv (h : Hdr) : Encoding.Statement (.ctxctlTlbinv h) := fun _ => ⟨_, _, rfl, Encoding.takes _ _ _ _ rfl⟩
theorem Encoding.ctxctlPopdone (h : Hdr) : Encoding.Statement (.ctxctlPopdone h) := fun _ => ⟨_, _, rfl, Encoding.takes _ _ _ _ rfl⟩
theorem Encoding.unallocatedOpcode (w : Word) : Encoding.Statement (.unallocatedOpcode w) := by
  intro h
  refine ⟨w, [], rfl, ?_⟩
  have hx : ∀ op : Nat, op < 256 → (!allocatedOp op || op == 0xE7) = true → takesX op = false := by decide +kernel
  have hop : (!allocatedOp (w.toNat / 2 ^ 47 % 256) || w.toNat / 2 ^ 47 % 256 == 0xE7) = true := by
    simp only [WellFormed, unallocated, Bool.or_eq_true, Bool.and_eq_true] at h ⊢
    exact h.imp id And.left
  rw [hx _ (Nat.mod_lt _ (by decide)) hop]; rfl
theorem Encoding.longLatencyWriteback (ag : AgentRef) (i : Nat) : Encoding.Statement (.longLatencyWriteback ag i) := fun h => Bool.noConfusion h
theorem Encoding.storeAcknowledgement (core : Nat) (dom : Dom) (i : Nat) : Encoding.Statement (.storeAcknowledgement core dom i) := fun h => Bool.noConfusion h
theorem Encoding.bulkCombiningTimeout (core : Nat) (i : Nat) : Encoding.Statement (.bulkCombiningTimeout core i) := fun h => Bool.noConfusion h
theorem Encoding.sivLineAgeOut (cache : CacheRef) (sec : Nat) : Encoding.Statement (.sivLineAgeOut cache sec) := fun h => Bool.noConfusion h
theorem Encoding.barrierArrivalApply (b : Nat) (g : Nat) : Encoding.Statement (.barrierArrivalApply b g) := fun h => Bool.noConfusion h
theorem Encoding.tbarrApply (b : Nat) (g : Nat) : Encoding.Statement (.tbarrApply b g) := fun h => Bool.noConfusion h
theorem Encoding.trigCountApply (b : Nat) (g : Nat) : Encoding.Statement (.trigCountApply b g) := fun h => Bool.noConfusion h
theorem Encoding.waitvReevaluation (ag : AgentRef) : Encoding.Statement (.waitvReevaluation ag) := fun h => Bool.noConfusion h
theorem Encoding.btCommandStart (core : Nat) (store : Bool) (i : Nat) : Encoding.Statement (.btCommandStart core store i) := fun h => Bool.noConfusion h
theorem Encoding.btRowWrite (core : Nat) (store : Bool) (i : Nat) : Encoding.Statement (.btRowWrite core store i) := fun h => Bool.noConfusion h
theorem Encoding.matrixCommandStart (core : Nat) (i : Nat) : Encoding.Statement (.matrixCommandStart core i) := fun h => Bool.noConfusion h
theorem Encoding.matrixCommandComplete (core : Nat) (i : Nat) : Encoding.Statement (.matrixCommandComplete core i) := fun h => Bool.noConfusion h
theorem Encoding.scrupleThreadStart (ag : AgentRef) : Encoding.Statement (.scrupleThreadStart ag) := fun h => Bool.noConfusion h
theorem Encoding.laneReturnComplete (ag : AgentRef) : Encoding.Statement (.laneReturnComplete ag) := fun h => Bool.noConfusion h
theorem Encoding.laneRecallComplete (ag : AgentRef) : Encoding.Statement (.laneRecallComplete ag) := fun h => Bool.noConfusion h
theorem Encoding.rejoinTimeout (b : Nat) (g : Nat) : Encoding.Statement (.rejoinTimeout b g) := fun h => Bool.noConfusion h
theorem Encoding.fairnessRotation (b : Nat) (g : Nat) : Encoding.Statement (.fairnessRotation b g) := fun h => Bool.noConfusion h
theorem Encoding.hangWatchdogExpiry (ag : AgentRef) : Encoding.Statement (.hangWatchdogExpiry ag) := fun h => Bool.noConfusion h
theorem Encoding.starvationTimeout (b : Nat) (g : Nat) : Encoding.Statement (.starvationTimeout b g) := fun h => Bool.noConfusion h
theorem Encoding.contextSwitch (core : Nat) : Encoding.Statement (.contextSwitch core) := fun h => Bool.noConfusion h
theorem Encoding.sleepWake (b : Nat) (g : Nat) : Encoding.Statement (.sleepWake b g) := fun h => Bool.noConfusion h
theorem Encoding.yieldEnd (b : Nat) (g : Nat) : Encoding.Statement (.yieldEnd b g) := fun h => Bool.noConfusion h
theorem Encoding.mappingQuantumEnd : Encoding.Statement .mappingQuantumEnd := fun h => Bool.noConfusion h
theorem Encoding.queueSlotMap (slot : Nat) : Encoding.Statement (.queueSlotMap slot) := fun h => Bool.noConfusion h
theorem Encoding.gridLaunch (slot : Nat) : Encoding.Statement (.gridLaunch slot) := fun h => Bool.noConfusion h
theorem Encoding.timesliceQuantumEnd : Encoding.Statement .timesliceQuantumEnd := fun h => Bool.noConfusion h
theorem Encoding.blockPlace (b : Nat) (cores : List Nat) (f : Nat) : Encoding.Statement (.blockPlace b cores f) := fun h => Bool.noConfusion h
theorem Encoding.preempt (b : Nat) : Encoding.Statement (.preempt b) := fun h => Bool.noConfusion h
theorem Encoding.blockResume (b : Nat) (cores : List Nat) (f : Nat) : Encoding.Statement (.blockResume b cores f) := fun h => Bool.noConfusion h
theorem Encoding.granuleStreamOperation (core : Nat) (gr : Nat) : Encoding.Statement (.granuleStreamOperation core gr) := fun h => Bool.noConfusion h
theorem Encoding.parkedGroupReload (b : Nat) (g : Nat) : Encoding.Statement (.parkedGroupReload b g) := fun h => Bool.noConfusion h
theorem Encoding.heldTrapDelivery (b : Nat) (g : Nat) : Encoding.Statement (.heldTrapDelivery b g) := fun h => Bool.noConfusion h
theorem Encoding.asyncTrapDelivery (b : Nat) (g : Nat) : Encoding.Statement (.asyncTrapDelivery b g) := fun h => Bool.noConfusion h
theorem Encoding.serviceRingEntryWrite (ctx : Nat) : Encoding.Statement (.serviceRingEntryWrite ctx) := fun h => Bool.noConfusion h
theorem Encoding.populationRequestWrite (tenant : Nat) : Encoding.Statement (.populationRequestWrite tenant) := fun h => Bool.noConfusion h
theorem Encoding.validatorComplete : Encoding.Statement .validatorComplete := fun h => Bool.noConfusion h
theorem Encoding.chainWalkComplete (ctx : Nat) : Encoding.Statement (.chainWalkComplete ctx) := fun h => Bool.noConfusion h
theorem Encoding.pcSample (core : Nat) : Encoding.Statement (.pcSample core) := fun h => Bool.noConfusion h
theorem Encoding.sweeperStep : Encoding.Statement .sweeperStep := fun h => Bool.noConfusion h
theorem Encoding.gets (home : HomeRef) (child : Requester) (sec : Nat) : Encoding.Statement (.gets home child sec) := fun h => Bool.noConfusion h
theorem Encoding.getx (home : HomeRef) (child : Requester) (sec : Nat) : Encoding.Statement (.getx home child sec) := fun h => Bool.noConfusion h
theorem Encoding.upg (home : HomeRef) (child : Requester) (sec : Nat) : Encoding.Statement (.upg home child sec) := fun h => Bool.noConfusion h
theorem Encoding.puts (home : HomeRef) (child : Requester) (sec : Nat) : Encoding.Statement (.puts home child sec) := fun h => Bool.noConfusion h
theorem Encoding.putx (home : HomeRef) (child : Requester) (sec : Nat) : Encoding.Statement (.putx home child sec) := fun h => Bool.noConfusion h
theorem Encoding.wt (home : HomeRef) (child : Requester) (w : SecWrite) : Encoding.Statement (.wt home child w) := fun h => Bool.noConfusion h
theorem Encoding.atomh (home : HomeRef) (child : Requester) (op : HomeAtomic) : Encoding.Statement (.atomh home child op) := fun h => Bool.noConfusion h
theorem Encoding.ntwb (home : HomeRef) (child : Requester) (w : SecWrite) : Encoding.Statement (.ntwb home child w) := fun h => Bool.noConfusion h
theorem Encoding.invalidationAck (i : Nat) : Encoding.Statement (.invalidationAck i) := fun h => Bool.noConfusion h
theorem Encoding.dataS (i : Nat) : Encoding.Statement (.dataS i) := fun h => Bool.noConfusion h
theorem Encoding.dataSw (i : Nat) : Encoding.Statement (.dataSw i) := fun h => Bool.noConfusion h
theorem Encoding.dataE (i : Nat) : Encoding.Statement (.dataE i) := fun h => Bool.noConfusion h
theorem Encoding.ack (i : Nat) : Encoding.Statement (.ack i) := fun h => Bool.noConfusion h
theorem Encoding.wtack (i : Nat) : Encoding.Statement (.wtack i) := fun h => Bool.noConfusion h
theorem Encoding.atomr (i : Nat) : Encoding.Statement (.atomr i) := fun h => Bool.noConfusion h
theorem Encoding.inv (i : Nat) : Encoding.Statement (.inv i) := fun h => Bool.noConfusion h
theorem Encoding.update (i : Nat) : Encoding.Statement (.update i) := fun h => Bool.noConfusion h
theorem Encoding.fwdGets (i : Nat) : Encoding.Statement (.fwdGets i) := fun h => Bool.noConfusion h
theorem Encoding.fwdGetx (i : Nat) : Encoding.Statement (.fwdGetx i) := fun h => Bool.noConfusion h
theorem Encoding.slotStart : Encoding.Statement .slotStart := fun h => Bool.noConfusion h
theorem Encoding.fibreStop (f : Nat) : Encoding.Statement (.fibreStop f) := fun h => Bool.noConfusion h
theorem Encoding.fibreFlitSend (f : Nat) : Encoding.Statement (.fibreFlitSend f) := fun h => Bool.noConfusion h
theorem Encoding.remoteAnswerTimeout (i : Nat) : Encoding.Statement (.remoteAnswerTimeout i) := fun h => Bool.noConfusion h
theorem Encoding.interimAnswerRepeat (i : Nat) : Encoding.Statement (.interimAnswerRepeat i) := fun h => Bool.noConfusion h
theorem Encoding.remotePassSend (ag : AgentRef) : Encoding.Statement (.remotePassSend ag) := fun h => Bool.noConfusion h
theorem Encoding.sdoor (fn : HostFn) (i : Nat) : Encoding.Statement (.sdoor fn i) := fun h => Bool.noConfusion h
theorem Encoding.qdoor (fn : HostFn) (q : Nat) (tail : Nat) : Encoding.Statement (.qdoor fn q tail) := fun h => Bool.noConfusion h
theorem Encoding.ageingRefresh (die : Nat) (m : Ageing) : Encoding.Statement (.ageingRefresh die m) := fun h => Bool.noConfusion h
theorem Encoding.fabricScheduleLoad (img : FabricImage) : Encoding.Statement (.fabricScheduleLoad img) := fun h => Bool.noConfusion h
theorem Encoding.loadRequest (f : Nat) (fl : Flit) : Encoding.Statement (.loadRequest f fl) := fun h => Bool.noConfusion h
theorem Encoding.flitStore (f : Nat) (fl : Flit) : Encoding.Statement (.flitStore f fl) := fun h => Bool.noConfusion h
theorem Encoding.flitAtomic (f : Nat) (fl : Flit) : Encoding.Statement (.flitAtomic f fl) := fun h => Bool.noConfusion h
theorem Encoding.flitPut (f : Nat) (fl : Flit) : Encoding.Statement (.flitPut f fl) := fun h => Bool.noConfusion h
theorem Encoding.blockTransferReadRequest (f : Nat) (fl : Flit) : Encoding.Statement (.blockTransferReadRequest f fl) := fun h => Bool.noConfusion h
theorem Encoding.blockTransferWrite (f : Nat) (fl : Flit) : Encoding.Statement (.blockTransferWrite f fl) := fun h => Bool.noConfusion h
theorem Encoding.dataResponse (f : Nat) (fl : Flit) : Encoding.Statement (.dataResponse f fl) := fun h => Bool.noConfusion h
theorem Encoding.endToEndAcknowledgement (f : Nat) (fl : Flit) : Encoding.Statement (.endToEndAcknowledgement f fl) := fun h => Bool.noConfusion h
theorem Encoding.errorResponse (f : Nat) (fl : Flit) : Encoding.Statement (.errorResponse f fl) := fun h => Bool.noConfusion h
theorem Encoding.pull (f : Nat) (fl : Flit) : Encoding.Statement (.pull f fl) := fun h => Bool.noConfusion h
theorem Encoding.resend (f : Nat) (fl : Flit) : Encoding.Statement (.resend f fl) := fun h => Bool.noConfusion h
theorem Encoding.idleFlit (f : Nat) (fl : Flit) : Encoding.Statement (.idleFlit f fl) := fun h => Bool.noConfusion h
theorem Encoding.hostPostedWrite (fn : Nat) (pa : Nat) (bytes : List Byte) (ide : Bool) : Encoding.Statement (.hostPostedWrite fn pa bytes ide) := fun h => Bool.noConfusion h
theorem Encoding.priResponse (i : Nat) : Encoding.Statement (.priResponse i) := fun h => Bool.noConfusion h
theorem Encoding.atsInvalidation (fn : Nat) (hostPage : Nat) : Encoding.Statement (.atsInvalidation fn hostPage) := fun h => Bool.noConfusion h
theorem Encoding.tdispLeaveRun (t : Nat) : Encoding.Statement (.tdispLeaveRun t) := fun h => Bool.noConfusion h
theorem Encoding.keyInstall (slot : Nat) (key : BitVec 256) (t : Nat) : Encoding.Statement (.keyInstall slot key t) := fun h => Bool.noConfusion h
theorem Encoding.spdmMeasurement (fn : Nat) : Encoding.Statement (.spdmMeasurement fn) := fun h => Bool.noConfusion h
theorem Encoding.uncorrectableError (site : ErrorSite) : Encoding.Statement (.uncorrectableError site) := fun h => Bool.noConfusion h
theorem Encoding.correctableError (die : Nat) (ctx : Nat) : Encoding.Statement (.correctableError die ctx) := fun h => Bool.noConfusion h
theorem Encoding.memoryPoison (sec : Nat) : Encoding.Statement (.memoryPoison sec) := fun h => Bool.noConfusion h
theorem Encoding.coldReset (vaux : Bool) : Encoding.Statement (.coldReset vaux) := fun h => Bool.noConfusion h
theorem Encoding.warmReset : Encoding.Statement .warmReset := fun h => Bool.noConfusion h
theorem Encoding.vfFunctionLevelReset (t : Nat) : Encoding.Statement (.vfFunctionLevelReset t) := fun h => Bool.noConfusion h
theorem Encoding.bootStageComplete (r : BootResult) : Encoding.Statement (.bootStageComplete r) := fun h => Bool.noConfusion h
theorem Encoding.linkTrainRetry (width : Nat) (rate : Nat) : Encoding.Statement (.linkTrainRetry width rate) := fun h => Bool.noConfusion h
theorem Encoding.pcieLinkDown : Encoding.Statement .pcieLinkDown := fun h => Bool.noConfusion h
theorem Encoding.pcieLinkUp : Encoding.Statement .pcieLinkUp := fun h => Bool.noConfusion h
theorem Encoding.vbulkLoss : Encoding.Statement .vbulkLoss := fun h => Bool.noConfusion h
theorem Encoding.thermalThrottle (die : Nat) : Encoding.Statement (.thermalThrottle die) := fun h => Bool.noConfusion h
theorem Encoding.thermalTrip (die : Nat) : Encoding.Statement (.thermalTrip die) := fun h => Bool.noConfusion h
theorem Encoding.plimWrite (watts : Nat) : Encoding.Statement (.plimWrite watts) := fun h => Bool.noConfusion h
theorem Encoding.swctlWrite (x : Word) : Encoding.Statement (.swctlWrite x) := fun h => Bool.noConfusion h
theorem Encoding.firmwareImageDelivery (bytes : List Byte) : Encoding.Statement (.firmwareImageDelivery bytes) := fun h => Bool.noConfusion h
theorem Encoding.registerWrite (r : RegWriteTarget) : Encoding.Statement (.registerWrite r) := fun h => Bool.noConfusion h
theorem Encoding.attach (ctx : Nat) (allstop : Bool) : Encoding.Statement (.attach ctx allstop) := fun h => Bool.noConfusion h
theorem Encoding.detach (ctx : Nat) : Encoding.Statement (.detach ctx) := fun h => Bool.noConfusion h
theorem Encoding.halt (ctx : Nat) (t : DbgTarget) : Encoding.Statement (.halt ctx t) := fun h => Bool.noConfusion h
theorem Encoding.resume (ctx : Nat) (t : DbgTarget) : Encoding.Statement (.resume ctx t) := fun h => Bool.noConfusion h
theorem Encoding.step (ctx : Nat) (b : Nat) (g : Nat) (k : StepKind) : Encoding.Statement (.step ctx b g k) := fun h => Bool.noConfusion h
theorem Encoding.focus (ctx : Nat) (b : Nat) (g : Nat) (l : Nat) : Encoding.Statement (.focus ctx b g l) := fun h => Bool.noConfusion h
theorem Encoding.unfocus (ctx : Nat) (b : Nat) (g : Nat) : Encoding.Statement (.unfocus ctx b g) := fun h => Bool.noConfusion h
theorem Encoding.catchup (ctx : Nat) (b : Nat) (g : Nat) : Encoding.Statement (.catchup ctx b g) := fun h => Bool.noConfusion h
theorem Encoding.read (ctx : Nat) (b : Nat) (g : Nat) (it : DbgItem) : Encoding.Statement (.read ctx b g it) := fun h => Bool.noConfusion h
theorem Encoding.write (ctx : Nat) (b : Nat) (g : Nat) (it : DbgItem) (x : List Byte) : Encoding.Statement (.write ctx b g it x) := fun h => Bool.noConfusion h
theorem Encoding.setbp (ctx : Nat) (n : Nat) (x : Word) : Encoding.Statement (.setbp ctx n x) := fun h => Bool.noConfusion h
theorem Encoding.setwp (ctx : Nat) (n : Nat) (w1 : Word) (w0 : Word) : Encoding.Statement (.setwp ctx n w1 w0) := fun h => Bool.noConfusion h
theorem Encoding.tdispInterfaceRun (t : Nat) : Encoding.Statement (.tdispInterfaceRun t) := fun h => Bool.noConfusion h
theorem Encoding.thermalThrottleEnd (die : Nat) : Encoding.Statement (.thermalThrottleEnd die) := fun h => Bool.noConfusion h
theorem Encoding.ucieRetry (link : Nat) : Encoding.Statement (.ucieRetry link) := fun h => Bool.noConfusion h
theorem Encoding.configurationRequest (fn : Nat) : Encoding.Statement (.configurationRequest fn) := fun h => Bool.noConfusion h

end Sys2Proof.Laws
end

