-- ==== Sys2Proof/Tests/Slice0.lean ====
section
/-! SUPPORT. Tests: words of the spec's examples and fields of one step, with values from the spec; a refused term for each check of
WellFormed; and for each statement states and operands that meet its hypotheses, clause by clause. -/

namespace Sys2Proof.Tests

open Sys2Proof.Machine Sys2Proof.Claims

set_option Elab.async false

/-! ### The test states -/

/-- A packet with storage of every kind. -/
def pkt0 : Packet := { placePacket with loc := 65536, wbuf := 65536, abuf := 65536, zbuf := 65536, kregs := 8 }

/-- The group of the test states. -/
def ag0 : AgentRef := { blk := 0, grp := 0, lane := none }

/-- A group with the active lanes 0 and 1. -/
def grp0 : Group :=
  let g := Group.start pkt0 0 0 0
  { g with r := { g.r with mask := 3, pc := 0x10000, k := [(1, 8), (2, 16)], v := [(2, 5), (3, 7), (258, 6)] } }

/-- A resident block with that group. -/
def blk0 (g : Group) : Block := { Block.fresh 0 0 0 0 0 with res := .resident, started := true, groups := [(0, g)] }

/-- The group executes on core 0, in context 0, under the packet. -/
def under (p : Packet) (g : Group) : State :=
  let s := placeWords State.reset []
  { s with grids := tset s.grids 0 (Grid.fresh 0 0 0 p), cur := some ag0, blocks := tset s.blocks 0 (blk0 g) }

/-- The same under the packet of the tests. -/
def withGroup (g : Group) : State := under pkt0 g

/-- Two active lanes, ready. -/
def base : State := withGroup grp0

/-- The view of a state whose agent executes. -/
def V (s : State) (h : (view? s).isSome = true := by decide +kernel) : View := (view? s).get h

theorem V_eq (s : State) (h : (view? s).isSome = true) : view? s = some (V s h) := (Option.some_get h).symm

/-- A state and its executing agent's view meet `P`. -/
def Met (P : State → View → Prop) : Prop := ∃ s v, view? s = some v ∧ P s v

theorem met (s : State) {P : State → View → Prop} (h : (view? s).isSome = true) (hp : P s ((view? s).get h)) : Met P :=
  ⟨s, (view? s).get h, (Option.some_get h).symm, hp⟩

theorem computes_of {v : View} {h : Hdr} {regs : List (BitVec 8 × Nat)} {ns : List Nat}
    (x : (h.u = true → v.ej = false) ∧ v.within h.u regs = true ∧ v.noSlot (ns.map (fun n => RegWrite.v 0 n 0)) = false ∧ v.mismatch h = 0) : Computes v h regs ns :=
  ⟨x.1, x.2.1, x.2.2.1, x.2.2.2⟩

/-- Field of the registers of the executing agent after a next state. -/
def regAfter {α : Type} (x : Host.Outcome State Fault Refusal) (f : Regs → α) : Option α :=
  match x with
  | .next t => (view? t).map (fun v => f v.r)
  | _ => none

/-- The registers once every open window is written. -/
def settled (r : Regs) : Regs := r.pend.foldl (fun r p => r.writes p.writes) r

/-- An unconditional lane-form header with this destination and these sources. -/
abbrev hl := laneHdr
/-- The group-wide one. -/
abbrev hg := groupHdr

def im (ty : IntTy) : IntMod := { ty := ty, sat := false, bk := false, ck := .vreg, swa := 0, swb := 0 }
def fm (ty : FTy) : FpMod := { ty := ty, sat := false, bk := false, ck := .vreg, swa := 0, swb := 0, na := false, nb := false, rm := .rne }
def cm (df sf : Fmt) : CvMod := { df := df, sf := sf, rm := .rne, sat := false, bs := 0, auto := false }
def xm (k : Nat) : XMod := { opk := BitVec.ofNat 3 k, ty := .b32, bk := false, seg := 6, inc := false }

/-! ### Integer, floating-point, conversion and exchange: hypotheses met -/

theorem met_twoSource : ∀ e ∈ twoSource, Met fun _ v => ∃ h m, WellFormed (e.1 h m) = true ∧
    Computes v h ([(h.d, span m.ty.wide), (h.a, span m.ty.wide)] ++ regs2 h m.bk m.ck m.ty.wide) (destRegs h.d m.ty.wide) :=
  fun e he => met base (by decide +kernel) ⟨hl 4 2 3 0, im .i32, (by decide +kernel : ∀ e ∈ twoSource, WellFormed (e.1 (hl 4 2 3 0) (im .i32)) = true) e he, computes_of (by decide +kernel)⟩

theorem met_oneSource : ∀ e ∈ oneSource, Met fun _ v => ∃ h m, WellFormed (e.1 h m) = true ∧
    Computes v h [(h.d, span m.ty.wide), (h.a, span m.ty.wide)] (destRegs h.d m.ty.wide) :=
  fun e he => met base (by decide +kernel) ⟨hg 4 2 0 0, im .i32, (by decide +kernel : ∀ e ∈ oneSource, WellFormed (e.1 (hg 4 2 0 0) (im .i32)) = true) e he, computes_of (by decide +kernel)⟩

theorem met_threeSource : ∀ e ∈ threeSource, Met fun _ v => ∃ h m, WellFormed (e.1 h m) = true ∧
    Computes v h ([(h.d, span m.ty.wide), (h.a, span m.ty.wide)] ++ regs3 h m.bk m.ck m.ty.wide) (destRegs h.d m.ty.wide) :=
  fun e he => met base (by decide +kernel) ⟨hl 254 2 4 6, im .i64, (by decide +kernel : ∀ e ∈ threeSource, WellFormed (e.1 (hl 254 2 4 6) (im .i64)) = true) e he, computes_of (by decide +kernel)⟩

theorem met_divisions : ∀ e ∈ divisions, Met fun _ v => ∃ h m, WellFormed (e.1 h m) = true ∧
    Computes v h ([(h.d, span m.ty.wide), (h.a, span m.ty.wide)] ++ regs2 h m.bk m.ck m.ty.wide) (destRegs h.d m.ty.wide) :=
  fun e he =>
    if hm : WellFormed (e.1 (hl 4 2 3 0) (im .i32)) = true then met base (by decide +kernel) ⟨hl 4 2 3 0, im .i32, hm, computes_of (by decide +kernel)⟩
    else met base (by decide +kernel) ⟨hl 4 2 3 0, im .ui32, ((by decide +kernel : ∀ e ∈ divisions, WellFormed (e.1 (hl 4 2 3 0) (im .i32)) = true ∨ WellFormed (e.1 (hl 4 2 3 0) (im .ui32)) = true) e he).resolve_left hm,
      computes_of (by decide +kernel)⟩

theorem met_divisionWords : ∀ op ∈ [(0x08#8, IntTy.ui64), (0x09#8, .i64), (0x0A#8, .ui64), (0x0B#8, .i64)],
    (decodeWord (wordOf (hl 4 2 6 0) op.1 (intModBits (im op.2) 0)) 0).isOk = true ∧ (rawOf (wordOf (hl 4 2 6 0) op.1 (intModBits (im op.2) 0))).op = op.1 := by decide +kernel

theorem met_lookupSelectMove :
    (Met fun _ v => ∃ h tt, WellFormed (.blut h tt) = true ∧ Computes v h [(h.d, 1), (h.a, 1), (h.b, 1), (h.c, 1)] (destRegs h.d false)) ∧
    (Met fun _ v => ∃ h m, WellFormed (.sel h m) = true ∧
      Computes v h ([(h.d, span m.ty.wide), (h.a, span m.ty.wide)] ++ (if m.bk then [] else [(h.b, span m.ty.wide)])) (destRegs h.d m.ty.wide)) ∧
    (Met fun _ v => ∃ h m cc, WellFormed (.cmp h m cc) = true ∧ Computes v h ([(h.a, span m.ty.wide)] ++ regs2 h m.bk m.ck m.ty.wide) []) ∧
    (Met fun _ v => ∃ h m, WellFormed (.lea h m) = true ∧
      Computes v h ([(h.d, span m.ty.wide), (h.a, span m.ty.wide)] ++ (if m.bk then [] else [(h.b, 1)])) (destRegs h.d m.ty.wide)) ∧
    (Met fun _ v => ∃ h w x, WellFormed (.movi h w x) = true ∧ Computes v h [(h.d, span w)] (destRegs h.d w)) :=
  ⟨met base (by decide +kernel) ⟨hg 63 1 2 3, 0xFF, by decide +kernel, computes_of (by decide +kernel)⟩,
   met base (by decide +kernel) ⟨hl 255 2 3 6, im .i32, by decide +kernel, computes_of (by decide +kernel)⟩,
   met base (by decide +kernel) ⟨hl 6 2 3 0, im .i32, .ge, by decide +kernel, computes_of (by decide +kernel)⟩,
   met base (by decide +kernel) ⟨hl 4 2 3 7, { im .ui64 with ck := .immZ }, by decide +kernel, computes_of (by decide +kernel)⟩,
   met base (by decide +kernel) ⟨hl 254 0 0 0, true, BitVec.allOnes 64, by decide +kernel, computes_of (by decide +kernel)⟩⟩

theorem met_exactSum : (dyadic (.zero true) ∧ dyadic (.fin false 1 0 false)) ∧
    (dyadic (.fin false 3 (-1) false) ∧ dyadic (.fin true 3 (-1) false) ∧ rat (.fin false 3 (-1) false) + rat (.fin true 3 (-1) false) = 0) := by
  refine ⟨⟨trivial, by decide +kernel, rfl⟩, ⟨by decide +kernel, rfl⟩, ⟨by decide +kernel, rfl⟩, ?_⟩
  simp [rat]

theorem met_floatTwo : ∀ e ∈ floatTwo, Met fun _ v => ∃ h m, WellFormed (e.1 h m) = true ∧
    Computes v h ([(h.d, span m.ty.wide), (h.a, span m.ty.wide)] ++ regs2 h m.bk m.ck m.ty.wide) (destRegs h.d m.ty.wide) := by
  intro e he
  refine met base (by decide +kernel) ⟨hl 4 2 3 0, fm .f32, ?_, computes_of (by decide +kernel)⟩
  have hw : ∀ i ∈ [Instr.fadd (hl 4 2 3 0) (fm .f32), .fmul (hl 4 2 3 0) (fm .f32)] ++ [FCond.eq, .ne, .lt, .le, .gt, .ge, .ord, .uno].map (fun cc => Instr.fset (hl 4 2 3 0) (fm .f32) cc),
      WellFormed i = true := by decide +kernel
  refine hw _ ?_
  simp only [floatTwo, List.mem_append, List.mem_map, List.mem_cons, List.not_mem_nil, or_false] at he ⊢
  rcases he with (rfl | rfl) | ⟨cc, hcc, rfl⟩
  · simp
  · simp
  · exact .inr ⟨cc, hcc, rfl⟩

theorem met_fusedAndCompare :
    (Met fun _ v => ∃ h m, WellFormed (.ffma h m) = true ∧
      Computes v h ([(h.d, span m.ty.wide), (h.a, span m.ty.wide)] ++ regs3 h m.bk m.ck m.ty.wide) (destRegs h.d m.ty.wide)) ∧
    (Met fun _ v => ∃ h m cc, WellFormed (.fcmp h m cc) = true ∧ Computes v h ([(h.a, span m.ty.wide)] ++ regs2 h m.bk m.ck m.ty.wide) []) ∧
    (∀ i ∈ [Instr.fmin (hl 4 2 3 0) (fm .f16x2), .fmax (hl 4 2 3 0) (fm .f16x2)], Met fun _ v => WellFormed i = true ∧
      Computes v (hl 4 2 3 0) ([(4, 1), (2, 1)] ++ regs2 (hl 4 2 3 0) false .vreg false) (destRegs 4 false)) :=
  ⟨met base (by decide +kernel) ⟨hl 4 2 6 8, fm .f64, by decide +kernel, computes_of (by decide +kernel)⟩,
   met base (by decide +kernel) ⟨hg 6 2 3 0, fm .f32, .uno, by decide +kernel, computes_of (by decide +kernel)⟩,
   fun i hi => met base (by decide +kernel) ⟨(by decide +kernel : ∀ i ∈ [Instr.fmin (hl 4 2 3 0) (fm .f16x2), .fmax (hl 4 2 3 0) (fm .f16x2)], WellFormed i = true) i hi, computes_of (by decide +kernel)⟩⟩

theorem met_floatLong :
    (∀ e ∈ floatLong, Met fun _ v => ∃ h m, WellFormed (e.1 h m) = true ∧ Computes v h [(h.d, span m.ty.wide), (h.a, span m.ty.wide)] (destRegs h.d m.ty.wide)) ∧
    (Met fun _ v => ∃ h m, WellFormed (.fdiv h m) = true ∧
      Computes v h ([(h.d, span m.ty.wide), (h.a, span m.ty.wide)] ++ regs2 h m.bk m.ck m.ty.wide) (destRegs h.d m.ty.wide)) :=
  ⟨fun e he => met base (by decide +kernel) ⟨hl 4 2 0 0, fm .f32, (by decide +kernel : ∀ e ∈ floatLong, WellFormed (e.1 (hl 4 2 0 0) (fm .f32)) = true) e he, computes_of (by decide +kernel)⟩,
   met base (by decide +kernel) ⟨hl 4 2 6 0, fm .f64, by decide +kernel, computes_of (by decide +kernel)⟩⟩

theorem met_floatShapes :
    (Met fun _ v => ∃ h m, WellFormed (.frnd h m) = true ∧ Computes v h [(h.d, span m.ty.wide), (h.a, span m.ty.wide)] (destRegs h.d m.ty.wide)) ∧
    (Met fun _ v => ∃ h m, WellFormed (.fclass h m) = true ∧ Computes v h [(h.d, 1), (h.a, span m.ty.wide)] (destRegs h.d false)) ∧
    (Met fun _ v => ∃ h m, WellFormed (.fscale h m) = true ∧
      Computes v h ([(h.d, span m.ty.wide), (h.a, span m.ty.wide)] ++ regs2 h m.bk m.ck false) (destRegs h.d m.ty.wide)) ∧
    (Met fun _ v => ∃ h m, WellFormed (.fdot2 h m) = true ∧ Computes v h ([(h.d, 1), (h.a, 1), (h.c, 1)] ++ (if m.bk then [] else [(h.b, 1)])) (destRegs h.d false)) ∧
    (Met fun _ v => ∃ h m pr, WellFormed (.fdot4 h m pr) = true ∧ Computes v h ([(h.d, 1), (h.a, 1), (h.c, 1)] ++ (if m.bk then [] else [(h.b, 1)])) (destRegs h.d false)) :=
  ⟨met base (by decide +kernel) ⟨hl 4 2 0 0, fm .f32, by decide +kernel, computes_of (by decide +kernel)⟩,
   met base (by decide +kernel) ⟨hl 4 2 0 0, fm .f64, by decide +kernel, computes_of (by decide +kernel)⟩,
   met base (by decide +kernel) ⟨hl 4 2 3 0, fm .f32, by decide +kernel, computes_of (by decide +kernel)⟩,
   met base (by decide +kernel) ⟨hl 4 2 3 5, fm .f16x2, by decide +kernel, computes_of (by decide +kernel)⟩,
   met base (by decide +kernel) ⟨hl 4 2 3 5, fm .f32, .e4e4, by decide +kernel, computes_of (by decide +kernel)⟩⟩

theorem met_conversions :
    (Met fun _ v => ∃ h m, WellFormed (.cvt h m) = true ∧ Computes v h [(h.d, span (m.df.width == 64)), (h.a, span (m.sf.width == 64))] (destRegs h.d (m.df.width == 64))) ∧
    (Met fun _ v => ∃ h m, WellFormed (.pack h m) = true ∧ Computes v h [(h.d, 1), (h.a, 1), (h.b, 1)] (destRegs h.d false)) ∧
    (Met fun _ v => ∃ h m, WellFormed (.unpack h m) = true ∧ Computes v h [(h.d, span (m.df.width == 64)), (h.a, 1)] (destRegs h.d (m.df.width == 64))) ∧
    Fmt.isInt .i8 = true ∧ fmtMin .i8 ≤ 127 ∧ (127 : Int) ≤ fmtMax .i8 :=
  ⟨met base (by decide +kernel) ⟨hl 4 2 0 0, cm .i64 .f32, by decide +kernel, computes_of (by decide +kernel)⟩,
   met base (by decide +kernel) ⟨hl 4 2 3 0, cm .f16 .f32, by decide +kernel, computes_of (by decide +kernel)⟩,
   met base (by decide +kernel) ⟨hl 4 2 0 0, cm .f32 .f16, by decide +kernel, computes_of (by decide +kernel)⟩, by decide +kernel, by decide +kernel, by decide +kernel⟩

theorem met_quantise :
    (Met fun _ v => ∃ h m, WellFormed (.amax h m) = true ∧ v.ej = false ∧ v.within false [(h.d, 1), (h.a, 1)] = true) ∧
    (Met fun _ v => ∃ h m, WellFormed (.qscale h m) = true ∧ v.ej = false ∧ v.within false [(h.d, 1), (h.a, span (m.sf == .f64))] = true) ∧
    (Met fun _ v => ∃ h m, WellFormed (.quant h m) = true ∧ v.ej = false ∧ v.within false [(h.d, 1), (h.a, quantRegs m.df m.sf), (h.b, 1)] = true) ∧
    (Met fun _ v => ∃ h m, WellFormed (.deq h m) = true ∧ v.ej = false ∧ v.within false [(h.d, quantRegs m.sf m.df), (h.a, 1), (h.b, 1)] = true) ∧
    (Met fun _ v => ∃ h ck, WellFormed (.prmt h ck) = true ∧ Computes v h ([(h.d, 1), (h.a, 1), (h.b, 1)] ++ (if ck == .vreg then [(h.c, 1)] else [])) (destRegs h.d false)) ∧
    (Met fun _ v => ∃ h, WellFormed (.sround h) = true ∧ Computes v h [(h.a, 1)] []) :=
  ⟨met base (by decide +kernel) ⟨hl 4 2 0 0, cm .f32 .f16, by decide +kernel, by decide +kernel, by decide +kernel⟩,
   met base (by decide +kernel) ⟨hl 4 2 0 0, { cm .n4 .f32 with auto := true }, by decide +kernel, by decide +kernel, by decide +kernel⟩,
   met base (by decide +kernel) ⟨hl 4 8 2 0, cm .n4 .f32, by decide +kernel, by decide +kernel, by decide +kernel⟩,
   met base (by decide +kernel) ⟨hl 8 2 3 0, cm .f32 .n4, by decide +kernel, by decide +kernel, by decide +kernel⟩,
   met base (by decide +kernel) ⟨hl 4 2 3 1, .kreg, by decide +kernel, computes_of (by decide +kernel)⟩,
   met base (by decide +kernel) ⟨hl 0 2 0 0, by decide +kernel, computes_of (by decide +kernel)⟩⟩

theorem met_exchange :
    (Met fun _ v => ∃ h m, WellFormed (.shfl h m) = true ∧ Exchanges v h m (m.opk != 5) (span m.ty.wide)) ∧
    (Met fun _ v => ∃ h m, WellFormed (.qxch h m) = true ∧ Exchanges v h m false (span m.ty.wide)) ∧
    (Met fun _ v => ∃ h m, WellFormed (.qbcast h m) = true ∧ Exchanges v h m true (span m.ty.wide)) ∧
    (Met fun _ v => ∃ h m, WellFormed (.vote h m) = true ∧ v.ej = false) ∧
    (Met fun _ v => ∃ h m, WellFormed (.matchLanes h m) = true ∧ Exchanges v h m false (if m.opk = 0 then 2 else 1)) ∧
    (Met fun _ v => ∃ h m, WellFormed (.redux h m) = true ∧ v.ej = false ∧ v.within false [(h.a, span m.ty.wide)] = true) ∧
    (Met fun _ v => ∃ h m, WellFormed (.scan h m) = true ∧ Exchanges v h m false (span m.ty.wide)) ∧
    (xFloat .i32 = false ∧ ∀ x ∈ [0, 0xFFFFFFFF], x < 2 ^ xWidth .i32) :=
  ⟨met base (by decide +kernel) ⟨hl 4 2 3 0, xm 4, by decide +kernel, by decide +kernel, by decide +kernel⟩, met base (by decide +kernel) ⟨hl 4 2 0 0, xm 2, by decide +kernel, by decide +kernel, by decide +kernel⟩,
   met base (by decide +kernel) ⟨hl 4 2 3 0, xm 0, by decide +kernel, by decide +kernel, by decide +kernel⟩, met base (by decide +kernel) ⟨hl 63 7 0 0, xm 5, by decide +kernel, by decide +kernel⟩,
   met base (by decide +kernel) ⟨hl 4 2 0 0, xm 0, by decide +kernel, by decide +kernel, by decide +kernel⟩, met base (by decide +kernel) ⟨hl 62 2 0 0, xm 5, by decide +kernel, by decide +kernel, by decide +kernel⟩,
   met base (by decide +kernel) ⟨hl 4 2 0 0, { xm 0 with ty := .f32, inc := true }, by decide +kernel, by decide +kernel, by decide +kernel⟩, by decide +kernel, by decide +kernel⟩

/-! ### Control and traps -/

/-- The base group changed. -/
def onGroup (f : Group → Group) : State := withGroup (f grp0)
/-- Its registers changed. -/
def onRegs (f : Regs → Regs) : State := onGroup (fun g => { g with r := f g.r })
/-- A number stored in the data page of the tests, by virtual address. -/
def poke (s : State) (va n x : Nat) : State := { s with mem := putNum s.mem (va - 0x10000 + 0x40000) n x }
/-- A header under the predicate p0, or q0, which is false in every lane unless a state says otherwise. -/
def p0 (h : Hdr) : Hdr := { h with ps := 0 }

theorem met_branches :
    (∀ e ∈ groupBranches 0x7FFF 0x10008, Met fun _ v => ∃ h : Hdr, h.u = true ∧ v.ej = false ∧ v.groupOn h = true ∧ goodTarget e.2.2.2.1 (e.2.2.1 v h)) ∧
    (∀ e ∈ groupBranches 0x7FFF 0x10008, Met fun _ v => ∃ h : Hdr, h.u = true ∧ v.ej = false ∧ v.groupOn h = false) ∧
    (∀ e ∈ (groupBranches 0 0x10008).take 2, (Met fun _ v => ∃ h : Hdr, h.u = false ∧ v.mask ≠ 0 ∧ v.active h = []) ∧
      (Met fun _ v => ∃ h : Hdr, h.u = false ∧ v.mask ≠ 0 ∧ v.active h = lanesOf v.mask ∧ goodTarget e.2.2.2.1 (e.2.2.1 v h))) :=
  ⟨fun e he => met base (by decide +kernel) ⟨hg 63 1 0 0, rfl, by decide +kernel, by decide +kernel,
      (by decide +kernel : ∀ e ∈ groupBranches 0x7FFF 0x10008, canonical (e.2.2.1 (V base) (hg 63 1 0 0)) = true ∧ (e.2.2.2.1 = true → (e.2.2.1 (V base) (hg 63 1 0 0)).toNat % 8 = 0)) e he⟩,
   fun _ _ => met base (by decide +kernel) ⟨p0 (hg 63 1 0 0), rfl, by decide +kernel, by decide +kernel⟩,
   fun e he => ⟨met base (by decide +kernel) ⟨p0 (hl 0 0 0 0), rfl, by decide +kernel, by decide +kernel⟩, met base (by decide +kernel) ⟨hl 0 0 0 0, rfl, by decide +kernel, by decide +kernel,
      (by decide +kernel : ∀ e ∈ (groupBranches 0 0x10008).take 2, canonical (e.2.2.1 (V base) (hl 0 0 0 0)) = true ∧ (e.2.2.2.1 = true → (e.2.2.1 (V base) (hl 0 0 0 0)).toNat % 8 = 0)) e he⟩⟩⟩

theorem met_branchTraps :
    (∃ e ∈ groupBranches 0 0x1000C, Met fun _ v => ∃ h : Hdr, h.u = true ∧ v.ej = false ∧ v.groupOn h = true ∧ e.2.2.2.1 = true ∧ (e.2.2.1 v h).toNat % 8 ≠ 0) ∧
    (∃ e ∈ groupBranches 0 0x8000000000000000, Met fun _ v => ∃ h : Hdr, h.u = true ∧ v.ej = false ∧ v.groupOn h = true ∧
      (e.2.2.2.1 = true → (e.2.2.1 v h).toNat % 8 = 0) ∧ canonical (e.2.2.1 v h) = false) ∧
    (Met fun _ v => ∃ h : Hdr, h.u = false ∧ v.active h ≠ [] ∧ v.active h ≠ lanesOf v.mask) :=
  ⟨⟨_, .tail _ (.head _), met base (by decide +kernel) ⟨hg 0 0 0 0, rfl, by decide +kernel, by decide +kernel, rfl, by decide +kernel⟩⟩,
   ⟨_, .tail _ (.head _), met base (by decide +kernel) ⟨hg 0 0 0 0, rfl, by decide +kernel, by decide +kernel, fun _ => by decide +kernel, by decide +kernel⟩⟩,
   met (onRegs (fun r => { r with p := [(0, 2)] })) (by decide +kernel) ⟨p0 (hl 0 0 0 0), rfl, by decide +kernel, by decide +kernel⟩⟩

/-- A path entry below the current path. -/
def below : StackEntry := { ej := 0, rpc := 0x10100, mask := 12, pc := 0x10080, kd := false, recalled := false }
/-- A packet whose grid may eject one lane, with the live table at its data page. -/
def pktEj : Packet := { pkt0 with ejt := 1, live := 0x18000, liven := 1 }

theorem met_paths :
    (Met fun _ v => ∃ h : Hdr, v.ag.lane = none ∧ maskOf (v.active h) = 0) ∧
    (Met fun _ v => ∃ h : Hdr, v.ag.lane = none ∧ maskOf (v.active h) ≠ 0 ∧ v.mask &&& ~~~ maskOf (v.active h) = 0 ∧ canonical (v.r.pc + ((h.d ++ h.a : BitVec 16).signExtend 64 <<< 3)) = true) ∧
    (Met fun s v => ∃ (h : Hdr) (live : BitVec 10), v.ag.lane = none ∧ maskOf (v.active h) ≠ 0 ∧ v.mask &&& ~~~ maskOf (v.active h) ≠ 0 ∧
      canonical (v.r.pc + ((h.d ++ h.a : BitVec 16).signExtend 64 <<< 3)) = true ∧ 2 ≤ v.g.freeEntries ∧
      mayEject s v (if laneCount (maskOf (v.active h)) ≤ laneCount (v.mask &&& ~~~ maskOf (v.active h)) then maskOf (v.active h) else v.mask &&& ~~~ maskOf (v.active h)) live.toNat = false) ∧
    (Met fun s v => ∃ (h : Hdr) (live : BitVec 10) (out back : BitVec 256), v.ag.lane = none ∧ maskOf (v.active h) ≠ 0 ∧ v.mask &&& ~~~ maskOf (v.active h) ≠ 0 ∧
      canonical (v.r.pc + ((h.d ++ h.a : BitVec 16).signExtend 64 <<< 3)) = true ∧
      mayEject s v (if laneCount (maskOf (v.active h)) ≤ laneCount (v.mask &&& ~~~ maskOf (v.active h)) then maskOf (v.active h) else v.mask &&& ~~~ maskOf (v.active h)) live.toNat = true ∧
      liveEntry s v live.toNat = .inr (out, back)) ∧
    (Met fun _ v => v.ag.lane = none ∧ v.r.pc ≠ v.r.rpc) ∧
    (Met fun _ v => ∃ e b, v.ag.lane = none ∧ v.r.pc = v.r.rpc ∧ v.g.stack = e :: b ∧ e.ej = 0 ∧ e.mask ≠ 0) ∧
    (Met fun _ v => ∃ (h : Hdr) (e : StackEntry) (b : List StackEntry), v.ag.lane = none ∧ h.u = true ∧ v.groupOn h = true ∧ v.g.stack = e :: b ∧ e.ej = 0 ∧ e.mask &&& ~~~ v.mask ≠ 0) ∧
    (Met fun _ v => ∃ h : Hdr, v.ag.lane = none ∧ h.u = true ∧ v.groupOn h = true ∧ v.g.threads = []) :=
  ⟨met base (by decide +kernel) ⟨p0 (hl 0 2 0 4), by decide +kernel⟩, met base (by decide +kernel) ⟨hl 0 2 0 4, by decide +kernel⟩,
    met (onRegs (fun r => { r with p := [(0, 1)] })) (by decide +kernel) ⟨p0 (hl 0 2 0 4), 0, by decide +kernel⟩,
    met (under pktEj { grp0 with r := { grp0.r with p := [(0, 1)] } }) (by decide +kernel) ⟨p0 (hl 0 2 0 4), 0, 0, 0, by decide +kernel⟩,
    met base (by decide +kernel) (by decide +kernel),
    met (onGroup (fun g => { g with stack := [below], r := { g.r with rpc := 0x10000 } })) (by decide +kernel) ⟨below, [], by decide +kernel⟩,
    met (onGroup (fun g => { g with stack := [below] })) (by decide +kernel) ⟨hg 0 0 0 0, below, [], by decide +kernel⟩,
    met base (by decide +kernel) ⟨hg 0 0 0 0, by decide +kernel⟩⟩

/-- A context whose BRKP goes to a handler at 0x1A000, with its record area at 0x19000. -/
def routed (s : State) : State :=
  poke (poke { s with ctxs := tset s.ctxs 0 { Ctx.bare 0x10000 with traprt := 0x18000 } } 0x18000 8 0x19000) (0x18000 + 8 * causeCode .brkp) 8 0x1A001

theorem met_trapEntry : ∃ (s : State) (v : View) (t : Trap) (hpc va : Word) (s2 : State) (g : Group), viewOf s v.ag = some v ∧ v.ag.lane = none ∧ v.r.awaiting = false ∧
    v.g.handler = none ∧ t.cause ≠ .nres ∧ (debugged s v.ctx = true → t.cause ≠ .brkp ∧ t.cause ≠ .watch) ∧
    trapRoute (trapReady s v t) v.ctx v.core v.g.slot t.cause = some (hpc, va) ∧ ctxPut (trapReady s v t) v.ctx va (recordBytes (recordOf s v t)) = some s2 ∧ groupOf s2 v = some g := by
  let s := routed base
  let v := V (routed base)
  let t : Trap := { cause := .brkp, code := 0x2A, lanes := v.mask, next := true }
  exact ⟨s, v, t, 0x1A000, 0x19000, _, _, (show viewOf s v.ag = some v from V_eq (routed base) (by decide +kernel)), by decide +kernel, by decide +kernel, by decide +kernel, by decide +kernel, by decide +kernel, by decide +kernel,
    (Option.some_get (x := ctxPut (trapReady s v t) v.ctx 0x19000 (recordBytes (recordOf s v t))) (by decide +kernel)).symm,
    (Option.some_get (x := groupOf ((ctxPut (trapReady s v t) v.ctx 0x19000 (recordBytes (recordOf s v t))).get (by decide +kernel)) v) (by decide +kernel)).symm⟩

/-- A context with a service ring of two entries at 0x1B000: HEAD 0, TAIL `tail`. -/
def ringed (tail : Nat) (s : State) : State :=
  poke (poke { s with ctxs := tset s.ctxs 0 { Ctx.bare 0x10000 with svcring := 0x1B000 } } 0x1B000 8 1) 0x1B008 8 tail

theorem met_service :
    (Met fun s v => ∃ (h : Hdr) (s1 : State), v.ej = false ∧ v.within false [(h.d, 2), (h.a, h.c.toNat)] = true ∧ v.active h ≠ [] ∧ v.r.awaiting = false ∧
      releaseAll s v.core v.whole v.mask .sys = some s1) ∧
    (∃ bl x, tget base.blocks 0 = some bl ∧ tget bl.groups 0 = some x ∧ svcHeader base bl.ctx = none) ∧
    (∃ bl x, tget (ringed 2 base).blocks 0 = some bl ∧ tget bl.groups 0 = some x ∧ svcHeader (ringed 2 base) bl.ctx = some (0x1B000, 0, 2, 1) ∧ 2 ^ 1 ≤ 2 - 0) ∧
    (∃ bl x, tget (ringed 1 base).blocks 0 = some bl ∧ tget bl.groups 0 = some x ∧ svcHeader (ringed 1 base) bl.ctx = some (0x1B000, 0, 1, 1) ∧ 1 - 0 < 2 ^ 1 ∧
      (ringed 1 base).svcq.any (fun y => y.ctx == bl.ctx) = false ∧ svcWaits (ringed 1 base) bl.ctx 0x1B000 1 1 = false ∧
      (svcWrite (ringed 1 base) bl.ctx 0x1B000 1 1 0 0 3 0 (recordOf (ringed 1 base) (V base) { cause := .svc, lanes := 3 }) []).isSome = true) :=
  ⟨met base (by decide +kernel) ⟨hl 4 2 0 1, _, by decide +kernel, by decide +kernel, by decide +kernel, by decide +kernel, (Option.some_get (x := releaseAll base (V base).core (V base).whole (V base).mask .sys) (by decide +kernel)).symm⟩,
   ⟨blk0 grp0, grp0, by decide +kernel⟩, ⟨blk0 grp0, grp0, by decide +kernel⟩, ⟨blk0 grp0, grp0, by decide +kernel⟩⟩

/-- A group in a handler whose record is at 0x19000. -/
def inHandler (depth : Nat) : State := poke (onGroup (fun g => { g with handler := some { pc := 0x10008, mask := 3, rpc := 0, depth := depth, recVa := 0x19000, hang := 0, waitAt := none, wake := none, bars := [], pend := [] } })) 0x19030 8 0x10008

theorem met_trapReturn :
    (Met fun _ v => ∃ h : Hdr, h.u = true ∧ v.ej = false ∧ v.groupOn h = true ∧ v.g.handler = none) ∧
    (Met fun _ v => ∃ (h : Hdr) (x : Handler), h.u = true ∧ v.ej = false ∧ v.groupOn h = true ∧ v.g.handler = some x ∧ v.g.stack.length ≠ x.depth) ∧
    (Met fun s v => ∃ (h : Hdr) (x : Handler), h.u = true ∧ v.ej = false ∧ v.groupOn h = true ∧ v.g.handler = some x ∧ v.g.stack.length = x.depth ∧ v.ag.lane = none ∧ v.g.held = [] ∧ x.mask ≠ 0 ∧
      (groupAccess s v (x.recVa + 0x30) 8 true false).cause = none ∧ (releaseAll s v.core v.whole v.mask .grp).isSome = true) :=
  ⟨met base (by decide +kernel) ⟨hg 0 0 0 0, by decide +kernel⟩, met (inHandler 1) (by decide +kernel) ⟨hg 0 0 0 0, { pc := 0x10008, mask := 3, rpc := 0, depth := 1, recVa := 0x19000, hang := 0, waitAt := none, wake := none, bars := [], pend := [] }, by decide +kernel⟩,
   met (inHandler 0) (by decide +kernel) ⟨hg 0 0 0 0, { pc := 0x10008, mask := 3, rpc := 0, depth := 0, recVa := 0x19000, hang := 0, waitAt := none, wake := none, bars := [], pend := [] }, by decide +kernel⟩⟩

/-! ### Synchronisation -/

/-- No object of context 0. -/
abbrev tag0 : ObjTag := { ctx := 0, obj := 0 }

/-- A store of the group to the data page that waits in core 0's queue. -/
def store0 : StoreEntry :=
  { id := 7, ag := ag0, dom := .rel, enc := .rel, sc := .dev, rls := false, sec := 0x48000 / 32, data := 0, mask := 1, kind := { cm := .unc, tag := tag0 }, path := 3, ent := 7, also := [], thr := false, unit := none, seen := [], rt := 0, after := [], wb := [], vt := 0 }
/-- A state with stores waiting in core 0's queues. -/
def storing (es : List StoreEntry) (s : State) : State := { s with cores := tset s.cores 0 { s.core 0 with sq := es } }
/-- Barrier 3 of the block without a count, and with one. -/
def bm (cnt : Bool) : BarMod := { cnt := cnt, cl := false, n := 3 }
/-- An arrival record. -/
def arrived (done : Bool) (g : Group) : Group := { g with arr := [(3, { phase := 0, done := done, last := none })] }

theorem met_barriers :
    (Met fun s v => ∃ h, GroupRuns s v h ∧ countOk v h (bm true) 16 ∧ v.g.arrived (barOf (bm true)).key = false ∧
      tget v.g.barsAt (barOf (bm true)).key ≠ some (v.r.pc, v.mask) ∧ openBefore s v = []) ∧
    (Met fun s v => ∃ h, GroupRuns s v h ∧ countOk v h (bm false) 0 ∧ v.g.arrived (barOf (bm false)).key = false ∧
      tget v.g.barsAt (barOf (bm false)).key ≠ some (v.r.pc, v.mask) ∧ openBefore s v ≠ []) ∧
    (Met fun s v => ∃ h, GroupRuns s v h ∧ countOk v h (bm false) 0 ∧ v.g.arrived (barOf (bm false)).key = true ∧ tget v.g.barsAt (barOf (bm false)).key ≠ some (v.r.pc, v.mask)) ∧
    (Met fun s v => ∃ h a, GroupRuns s v h ∧ tget v.g.arr (barOf (bm false)).key = some a ∧ v.g.arrived (barOf (bm false)).key = false) ∧
    (Met fun s v => ∃ h, GroupRuns s v h ∧ tget v.g.arr (barOf (bm false)).key = none ∧ v.g.arrived (barOf (bm false)).key = false) ∧
    (Met fun s v => ∃ h, GroupRuns s v h ∧ countOk v h (bm false) 0 ∧ tget v.g.barsAt (barOf (bm false)).key = some (v.r.pc, v.mask)) :=
  ⟨met base (by decide +kernel) ⟨hg 0 0 2 0, ⟨V_eq _ _, rfl, by decide +kernel, by decide +kernel⟩, by decide +kernel, by decide +kernel⟩,
   met (storing [store0] base) (by decide +kernel) ⟨hg 0 0 0 0, ⟨V_eq _ _, rfl, by decide +kernel, by decide +kernel⟩, by decide +kernel, by decide +kernel⟩,
   met (onGroup (arrived false)) (by decide +kernel) ⟨hg 0 0 0 0, ⟨V_eq _ _, rfl, by decide +kernel, by decide +kernel⟩, by decide +kernel, by decide +kernel⟩,
   met (onGroup (arrived true)) (by decide +kernel) ⟨hg 0 0 0 0, _, ⟨V_eq _ _, rfl, by decide +kernel, by decide +kernel⟩, rfl, by decide +kernel⟩,
   met base (by decide +kernel) ⟨hg 0 0 0 0, ⟨V_eq _ _, rfl, by decide +kernel, by decide +kernel⟩, by decide +kernel⟩,
   met (onGroup (fun g => { arrived true g with barsAt := [(3, 0x10000, 3)] })) (by decide +kernel) ⟨hg 0 0 0 0, ⟨V_eq _ _, rfl, by decide +kernel, by decide +kernel⟩, by decide +kernel⟩⟩

/-- An arrival that waits for store 7, which is acknowledged or not. -/
def deferred0 : Deferred := { ids := [7], bar := 3, cl := false, count := 0, cnt := false }

theorem met_barrierPhase :
    (∃ bl, tget base.blocks 0 = some bl ∧ tget bl.groups 0 ≠ none ∧ (getBar base 0 { cl := false, n := 3 }).set = false ∧ ((tvals bl.groups).filter (fun y => !y.exited)).length = 1) ∧
    (let s := onGroup (fun g => { g with barQ := [deferred0] })
     ∃ bl x, tget s.blocks 0 = some bl ∧ tget bl.groups 0 = some x ∧ x.barQ = [deferred0] ∧ isOpen s deferred0.ids = false) :=
  ⟨⟨blk0 grp0, by decide +kernel⟩, ⟨_, _, rfl, rfl, rfl, by decide +kernel⟩⟩

/-- A transaction barrier at offset 16 of L-space, by its bits. -/
def withTb (x : Nat) (s : State) : State := { s with blocks := tset s.blocks 0 { blk0 grp0 with loc := putNum [] 16 16 x } }

theorem met_transactionBarriers :
    (Met fun s v => ∃ h, GroupRuns s v h ∧ tbOk v h ∧ 1 ≤ (v.r.kget h.b.toNat).toNat ∧ (v.r.kget h.b.toNat).toNat ≤ 65535 ∧ v.g.tbQ.all (fun d => d.off != 16) = true ∧
      (getTb s v.ag.blk 16).reached h.c.toNat = false) ∧
    (Met fun s v => ∃ h, GroupRuns s v h ∧ tbOk v h ∧ v.g.tbQ.all (fun d => d.off != 16) = true ∧ (getTb s v.ag.blk 16).reached h.c.toNat = true) ∧
    (Met fun s v => ∃ h, GroupRuns s v h ∧ tbOk v h ∧ (getTb s v.ag.blk 16).reached h.c.toNat = false ∧ v.g.tbMet = true ∧ v.g.want = [16, h.c.toNat]) ∧
    (let d : TbDeferred := { ids := [7], off := 16, op := .arrive 1 }
     let s := onGroup (fun g => { g with tbQ := [d] })
     ∃ bl x, tget s.blocks 0 = some bl ∧ tget bl.groups 0 = some x ∧ x.tbQ = [d] ∧ isOpen s d.ids = false) ∧
    (∃ bl, tget base.blocks 0 = some bl) ∧
    (let t := getTb (withTb 0x000004E2001412000000000000100011 base) 0 16
     t.phase < 16 ∧ t.pend ≠ 0) :=
  ⟨met base (by decide +kernel) ⟨hg 0 2 1 1, ⟨V_eq _ _, rfl, by decide +kernel, by decide +kernel⟩, by decide +kernel, by decide +kernel⟩,
   met base (by decide +kernel) ⟨hg 0 2 1 0, ⟨V_eq _ _, rfl, by decide +kernel, by decide +kernel⟩, by decide +kernel, by decide +kernel⟩,
   met (onGroup (fun g => { g with tbMet := true, want := [16, 1] })) (by decide +kernel) ⟨hg 0 2 1 1, ⟨V_eq _ _, rfl, by decide +kernel, by decide +kernel⟩, by decide +kernel, by decide +kernel⟩,
   ⟨_, _, rfl, rfl, rfl, by decide +kernel⟩, ⟨_, rfl⟩, by decide +kernel⟩

/-- Memory modifiers at group scope. -/
def mm (z : Size) : MemMod := { dom := .rel, sc := .dev, size := z, ord := .none, rp := 7, na := false }
/-- The registers of the base group with k register 8 naming the data page. -/
def dataRegsOf (r : Regs) : Regs := { r with k := r.k ++ [(8, 0x18000), (9, 0x18100), (10, 0x1C000)] }

/-- Guard slot 5 of the group. -/
def guarded (g : Guard) : State := onGroup (fun x => { x with guards := [(5, g)] })

theorem met_fencesAndGuards :
    (Met fun _ v => ∃ h : Hdr, (h.u = true → v.ej = false ∧ v.groupOn h = true)) ∧
    ((Met fun s v => ∃ h, GroupRuns s v h ∧ v.g.guard h.d.toNat = .free) ∧ (Met fun s v => ∃ h, GroupRuns s v h ∧ v.g.guard h.d.toNat = .armed 2) ∧
      Met fun s v => ∃ h, GroupRuns s v h ∧ v.g.guard h.d.toNat = .resolved true 1) ∧
    (Met fun s v => ∃ (h : Hdr) (s1 : State), (h.u = true → v.ej = false) ∧ v.within h.u [(h.b, 1)] = true ∧ v.places h ≠ [] ∧
      lookedTrap v h .dev false [lookGlb s v .rel 4 true true false false { lane := v.ag.lane, va := v.r.kget h.a.toNat }] = none ∧
      hostWaits s (spanSecs (lookGlb s v .rel 4 true true false false { lane := v.ag.lane, va := v.r.kget h.a.toNat }).spans) = false ∧
      beforeLoad s v.core v.ag v.mask (lookGlb s v .rel 4 true true false false { lane := v.ag.lane, va := v.r.kget h.a.toNat }).dom .rel
        (spanSecs (lookGlb s v .rel 4 true true false false { lane := v.ag.lane, va := v.r.kget h.a.toNat }).spans) = some s1 ∧
      (v.places h).all (fun l => waitvHolds h.c.toNat 32 (fromBytes (loadSpans (touchAll s1 v.core v.ctx (lookGlb s v .rel 4 true true false false { lane := v.ag.lane, va := v.r.kget h.a.toNat }).spans false)
        v.core v.ag v.mask (lookGlb s v .rel 4 true true false false { lane := v.ag.lane, va := v.r.kget h.a.toNat }).spans
        { dom := (lookGlb s v .rel 4 true true false false { lane := v.ag.lane, va := v.r.kget h.a.toNat }).dom, enc := .rel, sc := .dev }).2.1) (readReg v.r l h.b false % 2 ^ 32)) = true) :=
  ⟨met base (by decide +kernel) ⟨hg 0 0 0 0, by decide +kernel⟩,
   ⟨met (guarded .free) (by decide +kernel) ⟨hg 5 7 0 0, ⟨V_eq _ _, rfl, rfl, rfl⟩, by decide +kernel⟩,
    met (guarded (.armed 2)) (by decide +kernel) ⟨hg 5 7 0 0, ⟨V_eq _ _, rfl, rfl, rfl⟩, by decide +kernel⟩,
    met (guarded (.resolved true 1)) (by decide +kernel) ⟨hg 5 7 0 0, ⟨V_eq _ _, rfl, rfl, rfl⟩, by decide +kernel⟩⟩,
   met (onRegs dataRegsOf) (by decide +kernel) ⟨hg 0 8 0 0, _, by decide +kernel, by decide +kernel, by decide +kernel, by decide +kernel, by decide +kernel,
     (Option.some_get (x := beforeLoad _ _ _ _ _ _ _) (by decide +kernel)).symm, by decide +kernel⟩⟩

theorem met_waiting :
    (let s := placeWords State.reset (toBytes 8 (encode (.waitv (hg 0 8 0 0) (mm .b4))).head!.toNat)
     let s1 := { s with blocks := tset s.blocks 0 (blk0 { grp0 with r := dataRegsOf grp0.r, run := .waiting .waitv 5 }) }
     ∃ v w, viewOf s1 ag0 = some v ∧ v.run = .waiting .waitv 5 ∧ v.g.halted = false ∧ v.bl.stopping = false ∧ v.bl.res = .resident ∧ fetch s1 v.core v.ctx v.r.pc = .word w (some (.waitv (hg 0 8 0 0) (mm .b4)))) ∧
    (let s := onGroup (fun g => { g with run := .waiting .waitv 0, hang := 100 })
     let s1 := { s with ctxs := tset s.ctxs 0 { Ctx.bare 0x10000 with hangt := 100 } }
     ∃ v, viewOf s1 ag0 = some v ∧ hangDue s1 v = true) :=
  ⟨⟨_, (encode (.waitv (hg 0 8 0 0) (mm .b4))).head!, rfl, rfl, rfl, rfl, rfl, by decide +kernel⟩, ⟨_, rfl, by decide +kernel⟩⟩

/-! ### Memory -/

def gm : GatMod := { dom := .rel, sc := .dev, size := .b4, iw := false, sx := false, scl := 2, na := false }
/-- The place of an access of the block's own space. -/
def placeAt (a : Access) : Ref := { blk := 0, fol := false, off := a.va.toNat }

theorem met_localMemory :
    (∀ e ∈ localLoadForms (mm .b4) gm, Met fun s v => ∃ h, MemRuns s v h (e.2.2.2.1 h) ∧ loadSlot v h .b4 ∧
      ∀ a ∈ e.2.2.1 v h, LocalOk s v e.2.1 4 true a (placeAt a) ∧ Unheld s v a .rel) ∧
    (∀ e ∈ localLoadForms (mm .b4) gm, Met fun s v => ∃ h, MemRuns s v h (e.2.2.2.1 h) ∧
      (lookedTrap v h .dev false ((e.2.2.1 v h).map (fun a => (lookLocal s v e.2.1 .rel 4 true a).look))).isSome = true) ∧
    (∀ e ∈ localStoreForms (mm .b4) gm, Met fun s v => ∃ h, MemRuns s v h (e.2.2.2.1 h) ∧ e.2.2.2.2.2.2.2 = false ∧
      ∀ a ∈ e.2.2.1 v h, LocalOk s v e.2.1 4 false a (placeAt a) ∧ UnheldStore s v a .rel) ∧
    (∀ e ∈ localStoreForms { mm .b4 with ord := .rls } gm, Met fun s v => ∃ h, MemRuns s v h (e.2.2.2.1 h) ∧
      (∀ c ∈ (e.2.2.1 v h).map (lookLocal s v e.2.1 .rel 4 false), c.look.cause = none) ∧
      (localStores s v e.2.1 .rel .dev e.2.2.2.2.2.2.2 (((e.2.2.1 v h).map (lookLocal s v e.2.1 .rel 4 false)).map (fun c => (c, storeBytes v.r c.look.acc.lane h.d .b4)))).isSome = true) ∧
    (∀ e ∈ localStoreForms (mm .b4) gm, Met fun s v => ∃ h, MemRuns s v h (e.2.2.2.1 h) ∧
      (lookedTrap v h .dev true (((e.2.2.1 v h).map (lookLocal s v e.2.1 .rel 4 false)).map (fun c => c.look))).isSome = true) ∧
    (Met fun s v => ∃ h op, MemRuns s v h [(h.d, atomRegs .b4 op), (h.b, 1)] ∧ atOpOf h.c.toNat = some op ∧
      ∀ a ∈ v.accessesPlain h, LocalOk s v .loc 4 true a (placeAt a) ∧ (placeAt a).fol = false ∧ UnheldStore s v a .rel) := by
  refine ⟨fun e he => met base (by decide +kernel) ⟨hl 4 1 5 0, ⟨V_eq _ _, by decide +kernel, ?_⟩, by decide +kernel, ?_⟩,
    fun e he => met (onRegs dataRegsOf) (by decide +kernel) ⟨hl 4 8 5 0, ⟨V_eq _ _, by decide +kernel, ?_⟩, ?_⟩,
    fun e he => met base (by decide +kernel) ⟨hl 4 1 5 0, ⟨V_eq _ _, by decide +kernel, ?_⟩, ?_, ?_⟩,
    fun e he => met base (by decide +kernel) ⟨hl 4 1 5 0, ⟨V_eq _ _, by decide +kernel, ?_⟩, ?_, ?_⟩,
    fun e he => met (onRegs dataRegsOf) (by decide +kernel) ⟨hl 4 8 5 0, ⟨V_eq _ _, by decide +kernel, ?_⟩, ?_⟩,
    met base (by decide +kernel) ⟨hl 4 1 5 0, .add, ⟨V_eq _ _, by decide +kernel, by decide +kernel⟩, by decide +kernel, by decide +kernel⟩⟩
  · exact (by decide +kernel : ∀ e ∈ localLoadForms (mm .b4) gm, (V base).within false (e.2.2.2.1 (hl 4 1 5 0)) = true) e he
  · exact (by decide +kernel : ∀ e ∈ localLoadForms (mm .b4) gm, ∀ a ∈ e.2.2.1 (V base) (hl 4 1 5 0), LocalOk base (V base) e.2.1 4 true a (placeAt a) ∧ Unheld base (V base) a .rel) e he
  · exact (by decide +kernel : ∀ e ∈ localLoadForms (mm .b4) gm, (V (onRegs dataRegsOf)).within false (e.2.2.2.1 (hl 4 8 5 0)) = true) e he
  · exact (by decide +kernel : ∀ e ∈ localLoadForms (mm .b4) gm,
      (lookedTrap (V (onRegs dataRegsOf)) (hl 4 8 5 0) .dev false ((e.2.2.1 (V (onRegs dataRegsOf)) (hl 4 8 5 0)).map (fun a => (lookLocal (onRegs dataRegsOf) (V (onRegs dataRegsOf)) e.2.1 .rel 4 true a).look))).isSome = true) e he
  · exact (by decide +kernel : ∀ e ∈ localStoreForms (mm .b4) gm, (V base).within false (e.2.2.2.1 (hl 4 1 5 0)) = true) e he
  · exact (by decide +kernel : ∀ e ∈ localStoreForms (mm .b4) gm, e.2.2.2.2.2.2.2 = false) e he
  · exact (by decide +kernel : ∀ e ∈ localStoreForms (mm .b4) gm, ∀ a ∈ e.2.2.1 (V base) (hl 4 1 5 0), LocalOk base (V base) e.2.1 4 false a (placeAt a) ∧ UnheldStore base (V base) a .rel) e he
  · exact (by decide +kernel : ∀ e ∈ localStoreForms { mm .b4 with ord := .rls } gm, (V base).within false (e.2.2.2.1 (hl 4 1 5 0)) = true) e he
  · exact (by decide +kernel : ∀ e ∈ localStoreForms { mm .b4 with ord := .rls } gm, ∀ c ∈ (e.2.2.1 (V base) (hl 4 1 5 0)).map (lookLocal base (V base) e.2.1 .rel 4 false), c.look.cause = none) e he
  · exact (by decide +kernel : ∀ e ∈ localStoreForms { mm .b4 with ord := .rls } gm,
      (localStores base (V base) e.2.1 .rel .dev e.2.2.2.2.2.2.2 (((e.2.2.1 (V base) (hl 4 1 5 0)).map (lookLocal base (V base) e.2.1 .rel 4 false)).map
        (fun c => (c, storeBytes (V base).r c.look.acc.lane (hl 4 1 5 0).d .b4)))).isSome = true) e he
  · exact (by decide +kernel : ∀ e ∈ localStoreForms (mm .b4) gm, (V (onRegs dataRegsOf)).within false (e.2.2.2.1 (hl 4 8 5 0)) = true) e he
  · exact (by decide +kernel : ∀ e ∈ localStoreForms (mm .b4) gm,
      (lookedTrap (V (onRegs dataRegsOf)) (hl 4 8 5 0) .dev true (((e.2.2.1 (V (onRegs dataRegsOf)) (hl 4 8 5 0)).map (lookLocal (onRegs dataRegsOf) (V (onRegs dataRegsOf)) e.2.1 .rel 4 false)).map (fun c => c.look))).isSome = true) e he

/-- The base group with k registers that name the data page. -/
def data : State := onRegs dataRegsOf
/-- A header on the data page: lane form with index register v5, group-wide form with index k7. -/
def hd (u : Bool) : Hdr := if u then hg 4 8 7 0 else hl 4 8 5 0

theorem met_globalMemory :
    (∃ v cs, lookedTrap v (hl 4 8 5 0) .dev false cs = none ∧ cs ≠ []) ∧
    (Met fun s v => ∃ t, lookedTrap v (hl 4 0 3 0) .dev false ((v.accesses (hl 4 0 3 0) 4).map (lookGlb s v .rel 4 false true false false)) = some t) ∧
    (∀ e ∈ glbLoadForms (mm .b4) gm, Met fun s v => MemRuns s v (hd false) (e.2.2.1 (hd false)) ∧
      (∀ c ∈ (e.2.1 v (hd false)).map (lookGlb s v .rel 4 false true false false), c.cause = none) ∧
      (performLoads s v .rel .dev false (hd false).d .b4 ((e.2.1 v (hd false)).map (lookGlb s v .rel 4 false true false false))).isSome = true) ∧
    (∀ e ∈ glbStoreForms (mm .b4) gm, Met fun s v => MemRuns s v (hd false) (e.2.2.1 (hd false)) ∧
      (∀ c ∈ (e.2.1 v (hd false)).map (lookGlb s v .rel 4 false false true false), c.cause = none)) := by
  refine ⟨⟨V data, ((V data).accesses (hd false) 4).map (lookGlb data (V data) .rel 4 false true false false), by decide +kernel, by decide +kernel⟩,
    met data (by decide +kernel) ⟨_, (Option.some_get (x := lookedTrap _ _ _ _ _) (by decide +kernel)).symm⟩,
    fun e he => met data (by decide +kernel) ⟨⟨V_eq _ _, by decide +kernel, ?_⟩, ?_, ?_⟩, fun e he => met data (by decide +kernel) ⟨⟨V_eq _ _, by decide +kernel, ?_⟩, ?_⟩⟩
  · exact (by decide +kernel : ∀ e ∈ glbLoadForms (mm .b4) gm, (V data).within false (e.2.2.1 (hd false)) = true) e he
  · exact (by decide +kernel : ∀ e ∈ glbLoadForms (mm .b4) gm, ∀ c ∈ (e.2.1 (V data) (hd false)).map (lookGlb data (V data) .rel 4 false true false false), c.cause = none) e he
  · exact (by decide +kernel : ∀ e ∈ glbLoadForms (mm .b4) gm,
      (performLoads data (V data) .rel .dev false (hd false).d .b4 ((e.2.1 (V data) (hd false)).map (lookGlb data (V data) .rel 4 false true false false))).isSome = true) e he
  · exact (by decide +kernel : ∀ e ∈ glbStoreForms (mm .b4) gm, (V data).within false (e.2.2.1 (hd false)) = true) e he
  · exact (by decide +kernel : ∀ e ∈ glbStoreForms (mm .b4) gm, ∀ c ∈ (e.2.1 (V data) (hd false)).map (lookGlb data (V data) .rel 4 false false true false), c.cause = none) e he

/-- The data page under CM = 2. -/
def uncached (s : State) : State := { s with mem := putNum s.mem 0x30008 8 (4 * 2 ^ 28 + 0x2EF) }
/-- The one access of the group-wide form. -/
def acc0 : Access := { lane := none, va := 0x18000 }

theorem met_storesBecomeVisible :
    (Met fun s v => MemRuns s v (hd true) (dataRegs (hd true) .b4) ∧ v.accesses (hd true) 4 = [acc0] ∧ (lookGlb s v .rel 4 false true false false acc0).cause = none ∧
      (lookGlb s v .rel 4 false true false false acc0).nres = false ∧ (∀ sp ∈ (lookGlb s v .rel 4 false true false false acc0).spans, sp.page.kind.cm = .unc) ∧
      hostWaits s (spanSecs (lookGlb s v .rel 4 false true false false acc0).spans) = false ∧ v.lacks (hd true).d 1 = false ∧ isLater s (v.agent acc0) = false ∧ loadNeeds s v.core (v.agent acc0) v.mask .rel .rel (spanSecs (lookGlb s v .rel 4 false true false false acc0).spans) = [] ∧
      gatesOf s (v.agent acc0) v.mask .rel .rel = [] ∧
      ∀ k ∈ spanSecs (lookGlb s v .rel 4 false true false false acc0).spans,
        foundStores (touchAll s v.core v.ctx (lookGlb s v .rel 4 false true false false acc0).spans false) v.core (v.agent acc0) v.mask
          (touchAll s v.core v.ctx (lookGlb s v .rel 4 false true false false acc0).spans false).ids k = [] ∧ ∀ x ∈ v.g.ahead, x.sec ≠ k) ∧
    (Met fun s v => ∃ sp, MemRuns s v (hd true) (dataRegs (hd true) .b4) ∧ v.accesses (hd true) 4 = [acc0] ∧ (lookGlb s v .rel 4 false false true false acc0).cause = none ∧
      (lookGlb s v .rel 4 false false true false acc0).spans = [sp] ∧ sp.at_ = 0 ∧ sp.len = 4 ∧ sp.pa % 32 + sp.len ≤ 32) ∧
    (let s := storing [store0] base
     ((s.core 0).sq.filter (fun e => e.dom == .rel))[0]? = some store0 ∧ ackReady s 0 store0 = true ∧ store0.kind.cm = .unc ∧ store0.wb = [] ∧ entryOf (s.core 0).sq store0.ent = [store0] ∧
      MeetsNoCopy s { (bareReq 9 64 noTag store0.sec) with ws := [{ sec := store0.sec, data := store0.data, mask := store0.mask, dom := store0.dom }], dom := store0.dom }) ∧
    (let s := ({ storing [store0] base with protos := [(0, tableInv)] } : State)
     ((s.core 0).sq.filter (fun e => e.dom == .rel))[0]? = some store0 ∧ ackReady s 0 store0 = true ∧
      MeetsNoCopy s { (bareReq 9 64 noTag store0.sec) with ws := [{ sec := store0.sec, data := store0.data, mask := store0.mask, dom := store0.dom }], dom := store0.dom }) ∧
    (let p : Pend := { left := 0, pc := 0, iword := 0, ecsn := 0, writes := [.k 1 5], await := [], fails := [], acq := none }
     let s := onRegs (fun r => { r with pend := [p, { p with left := 1 }] })
     ∃ v, viewOf s ag0 = some v ∧ v.r.pend[0]? = some p ∧ ∃ x, v.r.pend[1]? = some x ∧ x.left ≠ 0) ∧
    (let e := { store0 with dom := .bulk, enc := .bulk }
     let s := storing [e] base
     ((s.core 0).sq.filter (fun e => e.dom == .bulk))[0]? = some e ∧ s.now < e.vt + 1024 ∧ e.vt + 1024 ≤ ({ s with vtime := 1024, clk := 1024 } : State).now ∧ ackReady { s with vtime := 1024, clk := 1024 } 0 e = true) ∧
    (let x : CSector := { sec := 5, data := 0, dirty := 0, doms := 0, net := .bulk, who := none, mates := [], fetched := 0, stamp := 0, perm := .read, mode := .siv, tag := noTag }
     let s := { base with cores := tset base.cores 0 { base.core 0 with l1 := [(5, x)] } }
     cacheGet s (.l1 0) 5 = some x ∧ s.now < x.fetched + 65536 ∧ x.fetched + 65536 ≤ ({ s with vtime := 65536, clk := 65536 } : State).now) :=
  ⟨met (uncached data) (by decide +kernel) ⟨⟨V_eq _ _, by decide +kernel, by decide +kernel⟩, by decide +kernel⟩,
   met data (by decide +kernel) ⟨((lookGlb data (V data) .rel 4 false false true false acc0).spans.head?).get (by decide +kernel), ⟨V_eq _ _, by decide +kernel, by decide +kernel⟩, by decide +kernel⟩,
   ⟨by decide +kernel, by decide +kernel, rfl, rfl, by decide +kernel, rfl, .inl (by decide +kernel)⟩,
   ⟨by decide +kernel, by decide +kernel, rfl, .inr (by decide +kernel)⟩, ⟨_, rfl, rfl, _, rfl, by decide +kernel⟩, by decide +kernel, by decide +kernel⟩

theorem met_atomics :
    (Met fun s v => ∃ op, MemRuns s v (hd false) [(4, atomRegs .b4 op), (5, 1)] ∧ atOpOf (hd false).c.toNat = some op ∧ v.lacks 4 1 = false ∧
      (∀ c ∈ (v.accessesPlain (hd false)).map (lookGlb s v .rel 4 true true true false), c.cause = none) ∧
      (((v.accessesPlain (hd false)).map (lookGlb s v .rel 4 true true true false)).foldlM (fun (st : State × List RegWrite) c =>
        (atomOne st.1 v .rel .dev .b4 op false false (atomData v.r c.acc.lane 4 .b4 op).1 (atomData v.r c.acc.lane 4 .b4 op).2 c).map
          (fun r => (r.1, st.2 ++ loadWrites c.acc.lane 4 .b4 (toBytes 4 r.2)))) (s, [])).isSome = true) :=
  met data (by decide +kernel) ⟨.add, ⟨V_eq _ _, by decide +kernel, by decide +kernel⟩, by decide +kernel, by decide +kernel, by decide +kernel, by decide +kernel⟩

/-- One active lane. -/
def oneLane (s : List Resv) : State := onGroup (fun g => { g with r := { dataRegsOf g.r with mask := 1 }, resv := s })
/-- Its access. -/
def acc1 : Access := { lane := some 0, va := 0x18000 }

/-- Its reservation. -/
def resv0 : Resv := { lane := 0, va := 0x18000, size := .b4, sec := 0x48000 / 32 }
/-- A store of another agent to the reserved sector, which the lane observes already. -/
def foreign0 : StoreEntry := { store0 with ag := { ag0 with grp := 1 }, sec := 0x48000 / 32, seen := [{ ag0 with lane := some 0 }] }

theorem met_reservations :
    (Met fun s v => MemRuns s v (hd false) (dataRegs (hd false) .b4) ∧ v.accesses (hd false) 4 = [acc1] ∧ (lookGlb s v .rel 4 true true false false acc1).acc = acc1 ∧
      (lookGlb s v .rel 4 true true false false acc1).cause = none ∧ v.lacks 4 1 = false ∧ (lookGlb s v .rel 4 true true false false acc1).spans ≠ [] ∧
      (lrOne s v (mm .b4) (lookGlb s v .rel 4 true true false false acc1)).isSome = true) ∧
    (Met fun s v => MemRuns s v (hd false) [(4, 2), (5, 1)] ∧ v.accesses (hd false) 4 = [acc1] ∧ (lookGlb s v .rel 4 true false true false acc1).acc = acc1 ∧
      (lookGlb s v .rel 4 true false true false acc1).cause = none ∧ v.lacks 5 1 = false ∧ (lookGlb s v .rel 4 true false true false acc1).spans ≠ [] ∧ holdsResv s v 0 acc1.va .b4 = false) ∧
    (Met fun s v => MemRuns s v (hd false) [(4, 2), (5, 1)] ∧ v.accesses (hd false) 4 = [acc1] ∧ holdsResv s v 0 acc1.va .b4 = true ∧
      (lookGlb s v .rel 4 true false true false acc1).cause = none ∧
      ∃ sp s1, (lookGlb s v .rel 4 true false true false acc1).spans = [sp] ∧
        beforeAtomic s v.core (v.agent acc1) v.mask (lookGlb s v .rel 4 true false true false acc1).dom .rel false (lrscScope (pteCm sp.page.pte) .dev) [secOf sp.pa] = some s1 ∧
        holdsResv s1 v 0 acc1.va .b4 = true ∧
        (atomOne s1 v .rel (lrscScope (pteCm sp.page.pte) .dev) .b4 .exch false false (atomData v.r (some 0) 4 .b4 .exch).1 0 (lookGlb s v .rel 4 true false true false acc1)).isSome = true) ∧
    (Met fun s v => MemRuns s v (hd false) [(4, 2), (5, 1)] ∧ v.accesses (hd false) 4 = [acc1] ∧ holdsResv s v 0 acc1.va .b4 = true ∧
      ∃ sp s1, (lookGlb s v .rel 4 true false true false acc1).spans = [sp] ∧
        beforeAtomic s v.core (v.agent acc1) v.mask (lookGlb s v .rel 4 true false true false acc1).dom .rel false (lrscScope (pteCm sp.page.pte) .dev) [secOf sp.pa] = some s1 ∧
        holdsResv s1 v 0 acc1.va .b4 = false) :=
  ⟨met (oneLane []) (by decide +kernel) ⟨⟨V_eq _ _, by decide +kernel, by decide +kernel⟩, by decide +kernel⟩,
   met (oneLane []) (by decide +kernel) ⟨⟨V_eq _ _, by decide +kernel, by decide +kernel⟩, by decide +kernel⟩,
   met (oneLane [resv0]) (by decide +kernel)
     ⟨⟨V_eq _ _, by decide +kernel, by decide +kernel⟩, by decide +kernel, by decide +kernel, by decide +kernel,
      ((lookGlb (oneLane []) (V (oneLane [])) .rel 4 true false true false acc1).spans.head?).get (by decide +kernel),
      (beforeAtomic (oneLane [resv0]) 0 { ag0 with lane := some 0 } 1 .rel .rel false .dev [0x48000 / 32]).get (by decide +kernel), by decide +kernel⟩,
   met (storing [foreign0] (oneLane [resv0])) (by decide +kernel)
     ⟨⟨V_eq _ _, by decide +kernel, by decide +kernel⟩, by decide +kernel, by decide +kernel,
      ((lookGlb (oneLane []) (V (oneLane [])) .rel 4 true false true false acc1).spans.head?).get (by decide +kernel),
      (beforeAtomic (storing [foreign0] (oneLane [resv0])) 0 { ag0 with lane := some 0 } 1 .rel .rel false .dev [0x48000 / 32]).get (by decide +kernel), by decide +kernel⟩⟩

/-! ### Scaled-block moves and residency -/

/-- The base with another PTE for the data page. -/
def paged (pte : Nat) (s : State) : State := { s with mem := putNum s.mem 0x30008 8 (4 * 2 ^ 28 + pte) }
/-- One active lane, with k12 and k14 as bases of codes, k13 and k15 of scale words. -/
def mxState : State := onGroup (fun g => { g with r := { g.r with mask := 1, k := [(12, 0x18000), (13, 0x18100), (14, 0), (15, 0x1000)] } })
def hm (a : Nat) : Hdr := hl 4 a 5 6
/-- The units of a form with their checks. -/
def mxUs (v : View) (a : Nat) (look : Nat → Access → LocalLook) : List (MxUnit × LocalLook × LocalLook × List Looked) := (mxUnits v (hm a)).map (lookUnit v (hm a) look)

theorem met_scaledBlocks :
    (Met fun s v => v.ej = false ∧ v.within false (mxRegs (hm 14)) = true ∧ (lookedTrap v (hm 14) .dev false ((mxUs v 14 (glbLook s v .rel true false false)).flatMap (fun x => x.2.2.2))).isSome = true ∧
      (lookedTrap v (hm 12) .dev false ((mxUs v 12 (fun n a => lookLocal s v .loc .rel n true a)).flatMap (fun x => x.2.2.2))).isSome = true ∧
      (lookedTrap v (hm 14) .dev true ((mxUs v 14 (glbLook s v .rel false true false)).flatMap (fun x => x.2.2.2))).isSome = true ∧
      (lookedTrap v (hm 12) .dev true ((mxUs v 12 (fun n a => lookLocal s v .loc .rel n false a)).flatMap (fun x => x.2.2.2))).isSome = true) ∧
    (Met fun s v => (mxUs v 12 (glbLook s v .rel true false false)).length = 1 ∧ (∀ x ∈ mxUs v 12 (glbLook s v .rel true false false), (∀ y ∈ x.2.2.2, y.cause = none) ∧
        x.2.1.look.nres = false ∧ x.2.2.1.look.nres = false ∧ (∀ l ∈ x.1.lanes, isLater s (v.lane l) = false) ∧
        (mxParts x.2.1 x.2.2.1).isSome = true ∧ ∀ p ∈ mxParts x.2.1 x.2.2.1, hostWaits s [p.1.1, p.2.1] = false ∧
          aheadUnit (touchAll s v.core v.ctx (x.2.1.look.spans ++ x.2.2.1.look.spans) false) v.core v.whole p.1.1 p.2.1 { dom := x.2.1.look.dom, enc := .rel, sc := .dev } { dom := x.2.2.1.look.dom, enc := .rel, sc := .dev } = none ∧
          (beforeUnit (touchAll s v.core v.ctx (x.2.1.look.spans ++ x.2.2.1.look.spans) false) v.core (x.1.lanes.map v.lane) v.mask [x.2.1.look.dom, x.2.2.1.look.dom].eraseDups .rel [p.1.1, p.2.1]).isSome = true ∧
          (mxReadGlb v (hm 12) (mm .b4) s x.1 x.2.1 x.2.2.1).isSome = true) ∧
      ((mxUs v 12 (glbLook (paged 0x16F s) v .rel true false true)).length = 1 ∧ ∀ x ∈ mxUs v 12 (glbLook (paged 0x16F s) v .rel true false true), x.2.1.look.nres = true) ∧
      (∀ x ∈ mxUs v 12 (glbLook s v .rel true false false), partUnit s v.ag.blk v.ctx none x.1.u.toNat 32 x.1.sc.toNat 2 = false) ∧
      (mxUs v 14 (fun n a => lookLocal s v .loc .rel n true a)).length = 1 ∧ (∀ x ∈ mxUs v 14 (fun n a => lookLocal s v .loc .rel n true a), (∀ y ∈ x.2.2.2, y.cause = none) ∧
        ∀ l ∈ x.1.lanes, loadNeeds s v.core (v.lane l) v.mask .rel .rel [] = [] ∧ gatesOf s (v.lane l) v.mask .rel .rel = []) ∧
      (∀ x ∈ mxUs v 14 (fun n a => lookLocal s v .loc .rel n true a), partUnit s v.ag.blk v.ctx (some .loc) x.1.u.toNat 32 x.1.sc.toNat 2 = false) ∧
      (mxUs v 12 (glbLook s v .rel false true false)).length = 1 ∧ (∀ x ∈ mxUs v 12 (glbLook s v .rel false true false), (∀ y ∈ x.2.2.2, y.cause = none) ∧ (mxParts x.2.1 x.2.2.1).isSome = true) ∧
      (mxUs v 14 (fun n a => lookLocal s v .loc .rel n false a)).length = 1 ∧ (∀ x ∈ mxUs v 14 (fun n a => lookLocal s v .loc .rel n false a), (∀ y ∈ x.2.2.2, y.cause = none) ∧
        partCopy s v.ag.blk v.ctx (some .loc) x.1.u.toNat 32 x.1.sc.toNat 2 = false ∧
        (x.1.lanes.foldlM (fun s l => beforeAtomic s v.core (v.lane l) v.mask .rel .rel false .dev []) s).isSome = true)) :=
  ⟨met mxState (by decide +kernel) (by decide +kernel), met mxState (by decide +kernel) (by decide +kernel)⟩

/-- The address of PGIN and WBINV. -/
def va0 (v : View) : Word := v.r.kget 8 + v.r.kget 7 + (0 : BitVec 8).signExtend 64

theorem met_residency :
    (Met fun s v => MemRuns s v (hd false) [(5, 1)] ∧ ∃ a ∈ v.accesses (hd false) 1, probeVa s v a.va = true) ∧
    (Met fun s v => ∀ a ∈ v.accesses (hl 4 0 3 0) 1, probeVa s v a.va = false) ∧
    (Met fun s v => GroupRuns s v (hg 0 8 7 0) ∧ ∃ p, lookup s v.core v.ctx (va0 v) = some p ∧ translate s v.core v.ctx (va0 v) = .inr p ∧ p.resident s (va0 v) = true ∧ pteRes p.pte = true ∧ v.accesses (hg 0 8 7 0) 1 = [acc0] ∧ probeVa s v acc0.va = true ∧
      frameCause s v.ctx p (va0 v) 1 = none ∧ pteRd p.pte = true ∧ (drain s (openIds s v.core v.whole v.mask .rel)).isSome = true) ∧
    (Met fun s v => GroupRuns s v (hg 0 7 7 0) ∧ translate s v.core v.ctx (v.r.kget 7 + v.r.kget 7 + (0 : BitVec 8).signExtend 64) = .inl .xlat) ∧
    (Met fun s v => GroupRuns s v (hg 0 8 7 0) ∧ ∃ p, translate s v.core v.ctx (va0 v) = .inr p ∧ pteRes p.pte = false) ∧
    (Met fun s v => GroupRuns s v (hg 0 8 7 0) ∧ ∃ p, translate s v.core v.ctx (va0 v) = .inr p ∧ frameCause s v.ctx p (va0 v) 1 = none ∧ pteRd p.pte = false) ∧
    (Met fun s v => GroupRuns s v (hg 0 8 7 0) ∧ ∃ p c, translate s v.core v.ctx (va0 v) = .inr p ∧ frameCause s v.ctx p (va0 v) 1 = some c) :=
  ⟨met data (by decide +kernel) ⟨⟨V_eq _ _, by decide +kernel, by decide +kernel⟩, by decide +kernel⟩, met data (by decide +kernel) (by decide +kernel),
   met data (by decide +kernel) ⟨⟨V_eq _ _, rfl, by decide +kernel, by decide +kernel⟩, (lookup data 0 0 0x18000).get (by decide +kernel), by decide +kernel⟩,
   met data (by decide +kernel) ⟨⟨V_eq _ _, rfl, by decide +kernel, by decide +kernel⟩, by decide +kernel⟩,
   met (paged 0x16F data) (by decide +kernel) ⟨⟨V_eq _ _, rfl, by decide +kernel, by decide +kernel⟩, (lookup (paged 0x16F data) 0 0 0x18000).get (by decide +kernel), by decide +kernel⟩,
   met (paged 0x1E9 data) (by decide +kernel) ⟨⟨V_eq _ _, rfl, by decide +kernel, by decide +kernel⟩, (lookup (paged 0x1E9 data) 0 0 0x18000).get (by decide +kernel), by decide +kernel⟩,
   met (paged 0x41EF data) (by decide +kernel) ⟨⟨V_eq _ _, rfl, by decide +kernel, by decide +kernel⟩, (lookup (paged 0x41EF data) 0 0 0x18000).get (by decide +kernel), .xlat, by decide +kernel⟩⟩

/-! ### Block transfers, tiles, objects and the matrix engine -/

/-- One row of 16 bytes. -/
def shape0 : List Word := [0x0001000100010010, 0, 0, 0]
/-- k20 to k23 hold the shape, k24 and k25 BTG's key and tag, k26 the barrier, k27 a destination, k28 an illegal shape's address, k30 a misaligned barrier. -/
def btRegs (r : Regs) : Regs := { r with k := [(8, 0x18000), (20, 0x0001000100010010), (25, 0x18200), (26, 0x100), (27, 0x40), (30, 0x108), (31, 0x20000)] }
/-- A header of a transfer with its barrier register and the first register of its shape. -/
def hb (b c : Nat) : Hdr := hg 27 8 b c
def bmod (d : Dir) (g : Bool) : BtMod := { dom := .bulk, sc := .dev, dir := d, g := g, slot := 2 }
/-- Context 0 confidential, in a tenant that holds key slot 0. -/
def keyed (s : State) : State :=
  { s with ctxs := tset s.ctxs 0 { Ctx.bare 0x10000 with conf := true, tenant := some 0 },
           tenants := tset s.tenants 0 { flags := 0, qslots := 0, proto := 0, msixn := 0, keys := 1, sample := 0, popring := 0, wins := [] } }
def bt0 : State := keyed (onRegs btRegs)
/-- A command that moves a row from L-space to the A-buffer. -/
def cmd0 : BtCmd :=
  { id := 1, blk := 0, grp := 0, btg := false, ecsn := 0, pc := 0, iword := 0, dom := .bulk, sc := .dev, dir := .locAbuf, dst := 0, src := 64, shape := shape0, peer := 0, tb := 0x100,
    guard := none, row := 0, owed := 1, started := false, stopped := false, popWait := none, plain := none, key := 0, tagVa := 0, ctrOk := false }
/-- Commands in core 0's load queue. -/
def loading (l : List BtCmd) (s : State) : State := { s with cores := tset s.cores 0 { s.core 0 with btl := l } }

theorem met_transfers :
    (∀ e ∈ transfers (bmod .glbLoc true), Met fun s v => TransferOk s v (hb 20 26) (bmod .glbLoc true) e.2 ∧ guardsAfter v.g true 2 = some (v.g.setGuard 2 (.armed 1)) ∧
      (btQueueOf s v.core (storeQueueDir .glbLoc)).length < 16 ∧ (beforeTransfer s v .bulk).isSome = true) ∧
    (∀ e ∈ transfers (bmod .glbLoc false), Met fun s v => TransferOk s v (hb 20 26) (bmod .glbLoc false) e.2 ∧ guardsAfter v.g false 2 = some v.g ∧
      16 ≤ (btQueueOf s v.core (storeQueueDir .glbLoc)).length) ∧
    (∀ e ∈ transfers (bmod .glbLoc true), Met fun s v => TransferOk s v (hb 20 26) (bmod .glbLoc true) e.2 ∧ guardsAfter v.g true 2 = none) ∧
    (Met fun s v => GroupRuns s v (hb 21 26) ∧ shapeOk (shapeWords v (hb 21 26)) = false) ∧
    (let s := under { pkt0 with groups := 2, producer := 1 } { grp0 with r := btRegs grp0.r }
     ∃ v, GroupRuns s v (hb 20 26) ∧ shapeOk (shapeWords v (hb 20 26)) = true ∧ v.ag.grp ≠ v.pkt.producer) ∧
    (Met fun s v => GroupRuns s v (hb 20 30) ∧ shapeOk (shapeWords v (hb 20 30)) = true ∧ v.ag.grp = v.pkt.producer ∧ (v.r.kget 30).toNat % 16 ≠ 0) ∧
    (Met fun s v => GroupRuns s v (hb 20 31) ∧ shapeOk (shapeWords v (hb 20 31)) = true ∧ v.ag.grp = v.pkt.producer ∧ (v.r.kget 31).toNat % 16 = 0 ∧
      spaceAlloc v.pkt .loc < (v.r.kget 31).toNat + 16 ∧ localSideCause v.pkt .glbLoc (shapeFields (shapeWords v (hb 20 31))) (sidesOf .glbLoc).1 true (v.r.kget 8) = none ∧
      localSideCause v.pkt .glbLoc (shapeFields (shapeWords v (hb 20 31))) (sidesOf .glbLoc).2 false (v.r.kget 27) = none) :=
  ⟨fun e _ => met bt0 (by decide +kernel) ⟨⟨⟨V_eq _ _, rfl, by decide +kernel, by decide +kernel⟩, ⟨by decide +kernel, fun _ => by decide +kernel⟩, by decide +kernel, by decide +kernel, by decide +kernel, by decide +kernel,
      fun _ => by decide +kernel⟩, by decide +kernel, by decide +kernel, by decide +kernel⟩,
   fun e _ => met (loading (List.replicate 16 cmd0) bt0) (by decide +kernel) ⟨⟨⟨V_eq _ _, rfl, by decide +kernel, by decide +kernel⟩, ⟨by decide +kernel, fun _ => by decide +kernel⟩, by decide +kernel, by decide +kernel,
      by decide +kernel, by decide +kernel, fun _ => by decide +kernel⟩, by decide +kernel, by decide +kernel⟩,
   fun e _ => met (keyed (onGroup (fun g => { g with r := btRegs g.r, guards := [(2, .resolved false 1)] }))) (by decide +kernel) ⟨⟨⟨V_eq _ _, rfl, by decide +kernel, by decide +kernel⟩, ⟨by decide +kernel, fun _ => by decide +kernel⟩, by decide +kernel, by decide +kernel, by decide +kernel, by decide +kernel, fun _ => by decide +kernel⟩, by decide +kernel⟩,
   met bt0 (by decide +kernel) ⟨⟨V_eq _ _, rfl, by decide +kernel, by decide +kernel⟩, by decide +kernel⟩,
   ⟨V (under { pkt0 with groups := 2, producer := 1 } { grp0 with r := btRegs grp0.r }) (by decide +kernel), ⟨V_eq _ _, rfl, by decide +kernel, by decide +kernel⟩, by decide +kernel⟩,
   met bt0 (by decide +kernel) ⟨⟨V_eq _ _, rfl, by decide +kernel, by decide +kernel⟩, by decide +kernel⟩,
   met bt0 (by decide +kernel) ⟨⟨V_eq _ _, rfl, by decide +kernel, by decide +kernel⟩, by decide +kernel⟩⟩

theorem met_transferProgress :
    (let x := shapeFields shape0; 1 ≤ x.n1 ∧ 1 ≤ x.n2 ∧ 1 ≤ x.n3) ∧
    (let s := loading [cmd0] base
     (btQueueOf s 0 false)[0]? = some cmd0 ∧ btHead s 0 0 false = some cmd0 ∧ ((btQueueOf s 0 false).filter (fun x => x.started && !x.stopped && x.popWait.isNone)).length < 2 ∧ drainHeld s 0 cmd0 = false ∧
      btNext s 0 false = some cmd0 ∧ ∀ x ∈ btQueueOf s 0 false, btCan s 0 false x = true → x = cmd0) ∧
    (let c := { cmd0 with btg := true, key := 5 }
     let s := loading [c] base
     (btQueueOf s 0 false)[0]? = some c ∧ btHead s 0 0 false = some c ∧ btNext s 0 false = some c ∧ drainHeld s 0 c = false ∧ (tget s.ctrs 0).getD 0 < 5 ∧ 5 ≤ (tget ({ s with ctrs := [(0, 5)] } : State).ctrs 0).getD 0) ∧
    (let c := { cmd0 with started := true }
     let s := loading [c] base
     (btQueueOf s 0 false)[0]? = some c ∧ btNext s 0 false ≠ some c ∧
     ∃ bl, tget s.blocks 0 = some bl ∧ sideWaits s (rowSide s 0 bl (packetOf s bl) c true 16) = false ∧ sideWaits s (rowSide s 0 bl (packetOf s bl) c false 16) = false ∧ (∃ x y, rowSide s 0 bl (packetOf s bl) c true 16 = .here x ∧ rowSide s 0 bl (packetOf s bl) c false 16 = .here y) ∧
       sideTrap (rowSide s 0 bl (packetOf s bl) c true 16) (rowSide s 0 bl (packetOf s bl) c false 16) = none ∧
       sideFail (rowSide s 0 bl (packetOf s bl) c true 16) (rowSide s 0 bl (packetOf s bl) c false 16) = none) ∧
    (let c := { cmd0 with started := true, dir := .glbLoc, src := 0 }
     let s := loading [c] base
     ∃ bl, tget s.blocks 0 = some bl ∧ sideTrap (rowSide s 0 bl (packetOf s bl) c true 16) (rowSide s 0 bl (packetOf s bl) c false 16) = some (.xlat, 0, .bulk)) ∧
    (let c := { cmd0 with started := true, dir := .glbLoc, src := 0x18000 }
     let s := { loading [c] base with poison := [0x48000 / 32] }
     ∃ bl, tget s.blocks 0 = some bl ∧ sideTrap (rowSide s 0 bl (packetOf s bl) c true 16) (rowSide s 0 bl (packetOf s bl) c false 16) = none ∧
       sideFail (rowSide s 0 bl (packetOf s bl) c true 16) (rowSide s 0 bl (packetOf s bl) c false 16) = some 3) :=
  ⟨by decide +kernel, by decide +kernel, by decide +kernel, ⟨by decide +kernel, by decide +kernel, _, rfl, by decide +kernel, by decide +kernel, ⟨_, _, rfl, rfl⟩, by decide +kernel, by decide +kernel⟩, ⟨_, rfl, by decide +kernel⟩,
   ⟨_, rfl, by decide +kernel⟩⟩

/-- A tile description of 16 rows and 32 columns. -/
def desc0 (wbuf : Bool) (fmt : Nat) : Word := BitVec.ofNat 64 ((if wbuf then 2 ^ 63 else 0) + fmt * 2 ^ 59 + 16 * 2 ^ 48 + 32 * 2 ^ 32 + (if fmt < 6 then 0 else 0x80))
/-- A tile entry in a state. -/
def tile0 (wbuf : Bool) (fmt : Nat) (st : TileSt) : Tile := { blk := some 0, desc := desc0 wbuf fmt, tb := 0x100, phi := 1, st := st, users := 0 }
/-- Tiles 1 (A) and 2 (B) of core 0; k40 a shape of 16 × 16 × 32, k41 a Z offset, k42 a description, k43 no description, k44 a barrier, k45 a misaligned one. -/
def tiled (fa fb : Nat) (st : TileSt) : State :=
  let s := onRegs (fun r => { r with k := [(1, 1), (40, 0x0000002000100010), (41, 0x40), (42, desc0 false 0), (44, 0x100), (45, 0x104), (46, 2), (47, 16)] })
  { s with cores := tset s.cores 0 { s.core 0 with tiles := [(1, tile0 false fa st), (2, tile0 true fb st)] } }

theorem met_tiles :
    (Met fun s v => GroupRuns s v (hg 3 43 44 0) ∧ tileDescOk (v.r.kget 43) = false) ∧
    (Met fun s v => GroupRuns s v (hg 3 42 45 0) ∧ tileDescOk (v.r.kget 42) = true ∧ v.ag.grp = v.pkt.producer ∧ (v.r.kget 45).toNat % 16 ≠ 0) ∧
    (∀ i ∈ [1, 3], ∀ st ∈ [TileSt.ready, .draining], Met fun s v => GroupRuns s v (hg i 42 44 0) ∧ tileDescOk (v.r.kget 42) = true ∧ v.ag.grp = v.pkt.producer ∧ (v.r.kget 44).toNat % 16 = 0 ∧
      tileFits v.pkt (tileDescOf (v.r.kget 42)) = true ∧ (v.r.kget 44).toNat + 16 ≤ spaceAlloc v.pkt .loc ∧ ((tileOf s v.core i).blk = none ∨ (tileOf s v.core i).blk = some v.ag.blk) ∧
      (i = 1 → (tileOf s v.core i).st = st)) ∧
    (let s := under { pkt0 with groups := 2, producer := 1 } { grp0 with r := { grp0.r with k := [(42, desc0 false 0)] } }
     ∃ v, GroupRuns s v (hg 3 42 44 0) ∧ tileDescOk (v.r.kget 42) = true ∧ v.ag.grp ≠ v.pkt.producer) ∧
    (Met fun s v => GroupRuns s v (hg 4 9 0 0) ∧ ∃ b, (tileOf s v.core 9).blk = some b ∧ b ≠ v.ag.blk) ∧
    (Met fun s v => GroupRuns s v (hg 4 9 0 0) ∧ ((tileOf s v.core 9).blk = none ∨ (tileOf s v.core 9).blk = some v.ag.blk)) := by
  refine ⟨met (tiled 0 0 .ready) (by decide +kernel) ⟨⟨V_eq _ _, rfl, by decide +kernel, by decide +kernel⟩, by decide +kernel⟩,
    met (tiled 0 0 .ready) (by decide +kernel) ⟨⟨V_eq _ _, rfl, by decide +kernel, by decide +kernel⟩, by decide +kernel⟩, ?_,
    ⟨V (under { pkt0 with groups := 2, producer := 1 } { grp0 with r := { grp0.r with k := [(42, desc0 false 0)] } }) (by decide +kernel), ⟨V_eq _ _, rfl, by decide +kernel, by decide +kernel⟩, by decide +kernel⟩,
    met { base with cores := tset base.cores 0 { base.core 0 with tiles := [(9, { tile0 false 0 .ready with blk := some 5 })] } } (by decide +kernel)
      ⟨⟨V_eq _ _, rfl, by decide +kernel, by decide +kernel⟩, 5, by decide +kernel⟩,
    met base (by decide +kernel) ⟨⟨V_eq _ _, rfl, by decide +kernel, by decide +kernel⟩, by decide +kernel⟩⟩
  intro i hi st hst
  simp only [List.mem_cons, List.not_mem_nil, or_false] at hi hst
  rcases hi with rfl | rfl <;> rcases hst with rfl | rfl
  · exact met (tiled 0 0 .ready) (by decide +kernel) ⟨⟨V_eq _ _, rfl, by decide +kernel, by decide +kernel⟩, by decide +kernel⟩
  · exact met (tiled 0 0 .draining) (by decide +kernel) ⟨⟨V_eq _ _, rfl, by decide +kernel, by decide +kernel⟩, by decide +kernel⟩
  · exact met (tiled 0 0 .ready) (by decide +kernel) ⟨⟨V_eq _ _, rfl, by decide +kernel, by decide +kernel⟩, by decide +kernel⟩
  · exact met (tiled 0 0 .draining) (by decide +kernel) ⟨⟨V_eq _ _, rfl, by decide +kernel, by decide +kernel⟩, by decide +kernel⟩

/-- An object of one page. -/
def obj0 : Obj := { base := 0x10000, extent := 65536 }
/-- k50 its base, k51 its extent, k52 and k53 its shape; slot 4 holds a protocol. -/
def objState (objs : Table Obj) : State :=
  let s := onRegs (fun r => { r with k := [(1, 1), (50, 0x10000), (51, 0x10000), (52, 0x00200010), (53, 32), (54, 0x18000), (55, 0x900000)] })
  { s with protos := [(4, { states := 2, upds := false, name := 0, entries := [] })], objs := objs }
/-- Every index of context 0 taken. -/
def fullObjs : Table Obj := (List.range' 1 4095).map (fun i => (i, { obj0 with base := 0x100000 }))

theorem tget_map (l : List Nat) (x : Obj) (k : Nat) (h : k ∈ l) : tget (l.map (fun i => (i, x))) k = some x := by
  induction l with
  | nil => cases h
  | cons a l ih =>
    simp only [List.map_cons, tget]
    split
    · rfl
    · rcases List.mem_cons.mp h with rfl | h
      · contradiction
      · exact ih h

theorem full_objects (s : State) (h : s.objs = fullObjs) : freeObject s 0 = none := by
  simp only [freeObject, List.findSome?_eq_none_iff]
  intro i hi
  rw [h, fullObjs, tget_map _ _ _ (by simp at hi ⊢; omega)]
  rfl

theorem met_objects :
    (Met fun s v => GroupRuns s v (hg 4 50 51 50) ∧ objShapeOk (v.r.kget 50) (v.r.kget 51) = false) ∧
    (Met fun s v => GroupRuns s v (hg 4 54 51 52) ∧ objShapeOk (v.r.kget 52) (v.r.kget 53) = true ∧ (v.r.kget 51).toNat ≠ 0 ∧ (v.r.kget 54).toNat % 65536 ≠ 0) ∧
    (Met fun s v => ∃ ps, GroupRuns s v (hg 4 50 51 52) ∧ objShapeOk (v.r.kget 52) (v.r.kget 53) = true ∧ (v.r.kget 51).toNat = 65536 ∧ (v.r.kget 50).toNat % 65536 = 0 ∧
      splitsPage s v.ctx (v.r.kget 50) 65536 = false ∧ rangePages s v.ctx (v.r.kget 50) 65536 = ps ∧ ps ≠ [] ∧ rangeGap s v.ctx (v.r.kget 50) 65536 = none ∧ (∀ p ∈ ps, frameCause s v.ctx p (BitVec.ofNat 64 p.va) (pageBytes p.big) = none) ∧
      slotAllowed s v.ctx 4 = true ∧ objOverlap s v.ctx (v.r.kget 50) 65536 = false ∧ freeObject s v.ctx = some 1) ∧
    (Met fun s v => GroupRuns s v (hg 4 55 51 52) ∧ objShapeOk (v.r.kget 52) (v.r.kget 53) = true ∧ (v.r.kget 51).toNat = 65536 ∧ (v.r.kget 55).toNat % 65536 = 0 ∧
      splitsPage s v.ctx (v.r.kget 55) 65536 = false ∧ rangeGap s v.ctx (v.r.kget 55) 65536 = some 0x900000) ∧
    (∃ s, s.objs = fullObjs ∧ freeObject s 0 = none) ∧
    (Met fun s v => GroupRuns s v (hg 0 1 0 0) ∧ tget s.objs (4096 * v.ctx + (v.r.kget 1).toNat) = none) ∧
    (Met fun s v => GroupRuns s v (hg 0 1 0 0) ∧ 1 ≤ (v.r.kget 1).toNat ∧ (v.r.kget 1).toNat < 4096 ∧ tget s.objs (4096 * v.ctx + (v.r.kget 1).toNat) = some obj0) :=
  ⟨met (objState []) (by decide +kernel) ⟨⟨V_eq _ _, rfl, by decide +kernel, by decide +kernel⟩, by decide +kernel⟩,
   met (objState []) (by decide +kernel) ⟨⟨V_eq _ _, rfl, by decide +kernel, by decide +kernel⟩, by decide +kernel⟩,
   met (objState []) (by decide +kernel) ⟨rangePages (objState []) 0 0x10000 65536, ⟨V_eq _ _, rfl, by decide +kernel, by decide +kernel⟩, by decide +kernel⟩,
   met (objState []) (by decide +kernel) ⟨⟨V_eq _ _, rfl, by decide +kernel, by decide +kernel⟩, by decide +kernel⟩,
   ⟨{ base with objs := fullObjs }, rfl, full_objects _ rfl⟩,
   met (objState []) (by decide +kernel) ⟨⟨V_eq _ _, rfl, by decide +kernel, by decide +kernel⟩, by decide +kernel⟩,
   met (objState [(1, obj0)]) (by decide +kernel) ⟨⟨V_eq _ _, rfl, by decide +kernel, by decide +kernel⟩, by decide +kernel⟩⟩

/-- The conditions of an MMA on tiles 1 and 2 with shape k40. -/
def mmaLegal (s : State) (v : View) (cls fmt : Nat) : Bool :=
  let x := mshapeOf (v.r.kget 40)
  x.ok 128 && x.k != 0 && tileIs (tileOf s v.core 1) false (mmaPair cls fmt).1 && tileIs (tileOf s v.core 2) true (mmaPair cls fmt).2
/-- Its bounds at a Z offset. -/
def mmaFits (s : State) (v : View) (z : Nat) : Bool :=
  let x := mshapeOf (v.r.kget 40)
  let da := tileDescOf (tileOf s v.core 1).desc
  let db := tileDescOf (tileOf s v.core 2).desc
  zFits v.pkt z x && decide (x.m ≤ da.rows) && decide (x.k ≤ da.cols) && decide (x.half ≤ db.rows) && decide (x.k ≤ db.cols) && folFits v.pkt db (x.n - x.half) &&
    !(tileOf s v.core 1).foreign v.ag.blk && !(tileOf s v.core 2).foreign v.ag.blk

theorem met_matrixIssue :
    (∀ e ∈ mmaClasses, Met fun s v => GroupRuns s v (hg 41 1 2 40) ∧ mmaLegal s v e.2 0 = true ∧ (v.r.kget 41).toNat % 4 = 0 ∧ mmaFits s v (v.r.kget 41).toNat = true ∧
      guardsAfter v.g false 0 = some v.g) ∧
    (Met fun s v => GroupRuns s v (hg 41 1 2 40) ∧ mmaLegal s v 0 0 = false) ∧
    (Met fun s v => GroupRuns s v (hg 1 1 2 40) ∧ mmaLegal s v 0 0 = true ∧ (v.r.kget 1).toNat % 4 ≠ 0) ∧
    (Met fun s v => GroupRuns s v (hg 42 1 2 40) ∧ mmaLegal s v 0 0 = true ∧ (v.r.kget 42).toNat % 4 = 0 ∧ mmaFits s v (v.r.kget 42).toNat = false) ∧
    (∃ g : Group, guardsAfter g true 2 = none) ∧
    (Met fun s v => GroupRuns s v (hg 41 0 0 40) ∧ (mshapeOf (v.r.kget 40)).ok 128 = true ∧ (v.r.kget 41).toNat % 4 = 0 ∧ zFits v.pkt (v.r.kget 41).toNat (mshapeOf (v.r.kget 40)) = true ∧
      ((s.core v.core).mtx.filter (fun c => c.kind != .mrdy)).length < Config.matrixQueue) ∧
    (Met fun s v => GroupRuns s v (hg 1 41 0 48) ∧ (mshapeOf (v.r.kget 40)).m ≤ (tileDescOf (tileOf s v.core 1).desc).rows ∧ (tileOf s v.core 1).st ≠ .empty ∧
      (tileDescOf (tileOf s v.core 1).desc).fmt = 7 ∧ 32 * (((mshapeOf (v.r.kget 40)).n + 31) / 32) ≤ (tileDescOf (tileOf s v.core 1).desc).cols ∧ (tileOf s v.core 1).foreign v.ag.blk = false) := by
  refine ⟨?_, met (tiled 0 1 .ready) (by decide +kernel) ⟨⟨V_eq _ _, rfl, by decide +kernel, by decide +kernel⟩, by decide +kernel⟩,
    met (tiled 0 0 .ready) (by decide +kernel) ⟨⟨V_eq _ _, rfl, by decide +kernel, by decide +kernel⟩, by decide +kernel⟩,
    met (tiled 0 0 .ready) (by decide +kernel) ⟨⟨V_eq _ _, rfl, by decide +kernel, by decide +kernel⟩, by decide +kernel⟩,
    ⟨{ grp0 with guards := [(2, .resolved true 1)] }, by decide +kernel⟩,
    met (tiled 0 0 .ready) (by decide +kernel) ⟨⟨V_eq _ _, rfl, by decide +kernel, by decide +kernel⟩, by decide +kernel⟩,
    met (tiled 7 7 .ready) (by decide +kernel) ⟨⟨V_eq _ _, rfl, by decide +kernel, by decide +kernel⟩, by decide +kernel⟩⟩
  intro e he
  simp only [mmaClasses, List.mem_cons, List.not_mem_nil, or_false] at he
  rcases he with rfl | rfl | rfl | rfl | rfl
  · exact met (tiled 0 0 .ready) (by decide +kernel) ⟨⟨V_eq _ _, rfl, by decide +kernel, by decide +kernel⟩, by decide +kernel⟩
  · exact met (tiled 2 2 .ready) (by decide +kernel) ⟨⟨V_eq _ _, rfl, by decide +kernel, by decide +kernel⟩, by decide +kernel⟩
  · exact met (tiled 4 4 .ready) (by decide +kernel) ⟨⟨V_eq _ _, rfl, by decide +kernel, by decide +kernel⟩, by decide +kernel⟩
  · exact met (tiled 6 6 .ready) (by decide +kernel) ⟨⟨V_eq _ _, rfl, by decide +kernel, by decide +kernel⟩, by decide +kernel⟩
  · exact met (tiled 7 7 .ready) (by decide +kernel) ⟨⟨V_eq _ _, rfl, by decide +kernel, by decide +kernel⟩, by decide +kernel⟩

/-- A group with a batch counter of 20 and closed batches. -/
def batched (l : List Nat) (f : List BatchFail) (n : Word) : State :=
  onGroup (fun g => { g with bctr := 20, closed := l.map (fun i => { num := i, cmds := [i] }), bfails := f, r := { g.r with k := [(1, n)] } })
/-- A command that zeroes one element, at the head of the stream. -/
def mcmd0 (started : Bool) : MCmd :=
  { id := 5, blk := 0, grp := 0, ecsn := 0, kind := .mzero, z := 0, m := 1, n := 1, kd := 0, pitch := 128, pr := false, ta := 0, tb := 0, da := 0, db := 0, guard := none, started := started,
    failed := false, res := [], bytes := [], flags := 0, batch := 0, seg := 0 }
/-- A matrix queue of core 0. -/
def queued (l : List MCmd) : State := { base with cores := tset base.cores 0 { base.core 0 with mtx := l } }

theorem met_matrixCompletion :
    (Met fun s v => GroupRuns s v (hg 4 1 0 0) ∧ 16 ≤ v.g.closed.length) ∧
    (Met fun s v => GroupRuns s v (hg 4 1 0 0) ∧ v.g.closed.length < 16 ∧ (v.g.bctr + 65536 - (v.r.kget 1).toNat % 65536) % 65536 = 0) ∧
    (Met fun s v => GroupRuns s v (hg 4 1 0 0) ∧ (v.g.bctr + 65536 - (v.r.kget 1).toNat % 65536) % 65536 = 2 ∧ v.g.closed.any (fun b => b.num == 18) = true) ∧
    (Met fun s v => GroupRuns s v (hg 4 1 0 0) ∧ (v.g.bctr + 65536 - (v.r.kget 1).toNat % 65536) % 65536 = 2 ∧ v.g.closed.any (fun b => b.num == 18) = false ∧ batchFailDue v.g 2 = none) ∧
    (Met fun s v => GroupRuns s v (hg 4 1 0 0) ∧ (v.g.bctr + 65536 - (v.r.kget 1).toNat % 65536) % 65536 = 2 ∧ v.g.closed.any (fun b => b.num == 18) = false ∧ v.r.awaiting = false ∧
      batchFailDue v.g 2 = some { num := some 18, z := 64, ecsn := 3, age := 2 }) ∧
    ((queued [mcmd0 false]).core 0).mtx[0]? = some (mcmd0 false) ∧ mtxNext (queued [mcmd0 false]) 0 = some (mcmd0 false) ∧
    ((queued [mcmd0 true]).core 0).mtx[0]? = some (mcmd0 true) ∧ mtxNext (queued [mcmd0 true]) 0 ≠ some (mcmd0 true) ∧ (tileDescOf (desc0 false 4)).fmt = 4 :=
  ⟨met (batched (List.range 16) [] 0) (by decide +kernel) ⟨⟨V_eq _ _, rfl, by decide +kernel, by decide +kernel⟩, by decide +kernel⟩,
   met (batched [] [] 20) (by decide +kernel) ⟨⟨V_eq _ _, rfl, by decide +kernel, by decide +kernel⟩, by decide +kernel⟩,
   met (batched [18] [] 18) (by decide +kernel) ⟨⟨V_eq _ _, rfl, by decide +kernel, by decide +kernel⟩, by decide +kernel⟩,
   met (batched [] [] 18) (by decide +kernel) ⟨⟨V_eq _ _, rfl, by decide +kernel, by decide +kernel⟩, by decide +kernel⟩,
   met (batched [] [{ num := some 18, z := 64, ecsn := 3, age := 2 }] 18) (by decide +kernel) ⟨⟨V_eq _ _, rfl, by decide +kernel, by decide +kernel⟩, by decide +kernel⟩,
   by decide +kernel, by decide +kernel, by decide +kernel, by decide +kernel, by decide +kernel⟩

/-! ### The fabric -/

def fabm (o : AtOp) : FabMod := { dom := .rel, size := .b4, ord := .none, op := o }
/-- Peers in v10, offsets in v11, expert in v12, data in v2; k9 a window handle. Every header takes v10 and v11. -/
def remRegs (r : Regs) : Regs := { r with k := [(1, 8), (9, 0x10003)], v := [(2, 5), (3, 7), (258, 6), (10, 1), (266, 2), (11, 64), (267, 3)] }
def hr (b : Nat) : Hdr := hl 2 10 b 9
def rem0 : State := onRegs remRegs
/-- A schedule of one slot whose fibre 0 reaches device 5. -/
def sched0 (f : Fabric) : Fabric := { f with loaded := true, slots := sset f.slots 0 0x8005, slotNow := 1 }
/-- The same with time inside the first slot. -/
def linked (s : State) : State := { s with fab := sched0 s.fab, vtime := BitVec.ofNat 64 s.fab.t0 }
/-- Experts 1 and 2 are held by two replicas and by none. -/
def experts0 (s : State) : State := { s with expCtx := some 0, experts := [(1, { v := true, nr := 1, dev := [5, 6], load := [4, 3] })] }
def flit0 (n : Net) (o : FOp) (src dst : Nat) : Flit :=
  { cr := [], acks := [], seq := 0, src := src, dst := dst, net := n, opc := o, tr := false, mark := false, hp := false, fst := true, lst := true, agent := 0, chain := 0, win := 3, key := 1, ten := 0,
    vt := 0, req := 9, items := [], nitems := 0, nflits := 1, ref := 0, arr := 0, crc := 0 }
/-- The same with the CRC of its bytes. -/
def sealed (f : Flit) : Flit := { f with crc := crc32 (flitImage f) }
def item0 : Item := { off := 64, size := .b4, lane := 0, op := .add, run := 0, status := 0, data := [1, 2, 3, 4] }
/-- A sent and an unsent request. -/
def req0 (p : Nat) (sent : Bool) : RemReq :=
  { id := 9, instr := 9, ag := ag0, path := 3, core := 0, op := .load, peer := p, dom := .rel, rls := false, flit := flit0 (.dom .rel) .load 0 p, items := [item0], sent := sent, since := 0, posted := false, ecsn := 0, pc := 0,
    iword := 0, bt := none, dreg := 2, size := .b4, acq := false, cover := [], experts := [] }
def requested (l : List RemReq) (s : State) : State := { s with fab := { s.fab with recs := l } }

theorem met_remoteIssue : ∀ e ∈ remoteForms (fabm .add),
    (Met fun _ v => (e.2.2.1 = true → v.ej = false) ∧ v.within false [((hr 200).d, e.2.2.2.1), ((hr 200).a, 1), ((hr 200).b, 1)] = false) ∧
    (Met fun _ v => (e.2.2.1 = true → v.ej = false) ∧ v.within false [((hr 3).d, e.2.2.2.1), ((hr 3).a, 1), ((hr 3).b, 1)] = true ∧
      ∃ x xs, ((v.active (hr 3)).map (fun l => remoteAccess v (hr 3) (e.2.2.2.2 v (hr 3) l) l)).filter (fun x => x.off % sizeBytes (fabm .add).size != 0) = x :: xs) ∧
    (Met fun _ v => (e.2.2.1 = true → v.ej = false) ∧ v.within false [((hr 11).d, e.2.2.2.1), ((hr 11).a, 1), ((hr 11).b, 1)] = true ∧ v.active { hr 11 with ps := 0 } = []) ∧
    (Met fun s v => ∃ s1, (e.2.2.1 = true → v.ej = false) ∧ v.within false [((hr 12).d, e.2.2.2.1), ((hr 12).a, 1), ((hr 12).b, 1)] = true ∧
      ((v.active (hr 12)).map (fun l => remoteAccess v (hr 12) (e.2.2.2.2 v (hr 12) l) l)).filter (fun x => x.off % sizeBytes (fabm .add).size != 0) = [] ∧ v.active (hr 12) ≠ [] ∧
      v.noSlot (placeHolders e.2.1 (hr 12) (fabm .add).size (v.active (hr 12))) = false ∧ beforeRemote s v (fabm .add) 3 (e.2.1 != .load) ((v.active (hr 12)).map (fun l => remoteAccess v (hr 12) (e.2.2.2.2 v (hr 12) l) l)) = some s1) := by
  intro e he
  simp only [remoteForms, List.mem_cons, List.not_mem_nil, or_false] at he
  rcases he with rfl | rfl | rfl | rfl <;>
  exact ⟨met (under { pkt0 with regs := 200 } grp0) (by decide +kernel) (by decide +kernel), met rem0 (by decide +kernel) ⟨by decide +kernel, by decide +kernel, List.exists_cons_of_ne_nil (by decide +kernel)⟩, met rem0 (by decide +kernel) (by decide +kernel),
    met rem0 (by decide +kernel) ⟨(beforeRemote rem0 (V rem0) (fabm .add) 3 _ (((V rem0).active (hr 12)).map (fun l => remoteAccess (V rem0) (hr 12) _ l))).get (by decide +kernel), by decide +kernel, by decide +kernel, by decide +kernel, by decide +kernel, by decide +kernel,
      (Option.some_get (by decide +kernel)).symm⟩⟩

theorem met_remoteAccess : (∀ x ∈ [({ lane := 0, peer := 1023, off := 64, data := [], exp := none } : RemLane)], x.peer < 1024) ∧
    (let x : Expert := { v := true, nr := 1, dev := [5, 6], load := [4, 3] }; leastReplica x = 1 ∧ x.load.getD 1 0 < x.load.getD 0 0) ∧
    (Met fun s v => v.ej = false ∧ v.within false [((hr 12).d, 1), ((hr 12).a, 1), ((hr 12).b, 1)] = true ∧ (∀ l ∈ v.active (hr 12), (remoteAccess v (hr 12) [] l).off % 4 = 0) ∧ v.active (hr 12) ≠ [] ∧ s.expCtx ≠ some v.ctx) ∧
    (Met fun _ v => v.ej = false ∧ v.within false [((hr 12).d, 1), ((hr 12).a, 1), ((hr 12).b, 1)] = true ∧ (∀ l ∈ v.active { hr 12 with ps := 0 }, (remoteAccess v (hr 12) [] l).off % 4 = 0) ∧ v.active { hr 12 with ps := 0 } = []) ∧
    (∀ l ∈ [0, 1], l < 64) :=
  ⟨by decide +kernel, by decide +kernel, met rem0 (by decide +kernel) (by decide +kernel), met rem0 (by decide +kernel) (by decide +kernel), by decide⟩

/-- XEXP with a valid expert in lane 0 and an invalid one in lane 1. -/
theorem met_expertExchange : Met fun s v => ∃ s1 s3, v.ej = false ∧ s.expCtx = some v.ctx ∧ v.active (hr 12) ≠ [] ∧ beforeRemote s v (fabm .add) 3 true (expertLanes s v (hr 12) (fabm .add)).2.1 = some s1 ∧
    (let x := expertLanes s1 v (hr 12) (fabm .add)
     x.2.1.map (fun y => (y.lane, y.peer)) = [(0, 6)] ∧ x.2.2 = [{ lane := 1, peer := 0, status := 0x0A }] ∧ v.noSlot (placeHolders .put (hr 12) .b4 [0]) = false ∧ beforeRemote x.1 v (fabm .add) 3 true x.2.1 = some s3) := by
  let s1 := (beforeRemote (experts0 rem0) (V (experts0 rem0)) (fabm .add) 3 true (expertLanes (experts0 rem0) (V (experts0 rem0)) (hr 12) (fabm .add)).2.1).get (by decide +kernel)
  let x := expertLanes s1 (V (experts0 rem0)) (hr 12) (fabm .add)
  refine met (experts0 rem0) (by decide +kernel) ⟨s1, (beforeRemote x.1 (V (experts0 rem0)) (fabm .add) 3 true x.2.1).get (by decide +kernel),
    by decide +kernel, by decide +kernel, by decide +kernel, ?_, by decide +kernel, by decide +kernel, by decide +kernel, ?_⟩
  · exact (Option.some_get (by decide +kernel)).symm
  · exact (Option.some_get (by decide +kernel)).symm

theorem met_rfenceAndSlotq :
    (Met fun s v => v.ej = false ∧ v.places (hg 0 0 0 0) ≠ [] ∧ rfenceWaits s v [v.whole] .rel = false ∧ remHeldReady s v.g v.ag.blk v.ag.grp = none) ∧
    (Met fun s v => v.ej = false ∧ v.places (hg 0 0 0 0) ≠ [] ∧ rfenceWaits s v [v.whole] .rel = true) ∧
    (Met fun s v => ∃ x, v.ej = false ∧ v.places (hg 0 0 0 0) ≠ [] ∧ rfenceWaits s v [v.whole] .rel = false ∧ remHeldReady s v.g v.ag.blk v.ag.grp = some x) ∧
    (Met fun _ v => v.places { hl 0 0 0 0 with ps := 0 } = []) ∧
    (Met fun s v => GroupRuns s v (hg 5 1 0 0) ∧ 1024 ≤ (v.r.kget 1).toNat) ∧
    (Met fun s v => GroupRuns s v (hg 5 1 0 0) ∧ (v.r.kget 1).toNat < 1024 ∧ (v.r.kget 1).toNat ≠ s.mgmt.device ∧ reachable s (v.r.kget 1).toNat = false) ∧
    (Met fun s v => GroupRuns s v (hg 5 1 0 0) ∧ (v.r.kget 1).toNat = s.mgmt.device ∧ s.fab.nslot < 64) ∧
    (Met fun s v => GroupRuns s v (hg 5 1 0 0) ∧ (v.r.kget 1).toNat = 5 ∧ 5 ≠ s.mgmt.device ∧ reachable s 5 = true ∧ s.fab.nextDirect s.now 5 = some (0, 0, 0)) :=
  ⟨met rem0 (by decide +kernel) (by decide +kernel), met (requested [req0 5 true] rem0) (by decide +kernel) (by decide +kernel),
   met (onGroup (fun g => { g with remHeld := [{ instr := 9, pc := 0, iword := 0, ecsn := 3, fails := [{ lane := 0, peer := 5, status := 6 }] }] })) (by decide +kernel)
     ⟨{ instr := 9, pc := 0, iword := 0, ecsn := 3, fails := [{ lane := 0, peer := 5, status := 6 }] }, by decide +kernel⟩,
   met rem0 (by decide +kernel) (by decide +kernel),
   met (onRegs (fun r => { r with k := [(1, 1024)] })) (by decide +kernel) ⟨⟨V_eq _ _, rfl, by decide +kernel, by decide +kernel⟩, by decide +kernel⟩,
   met (onRegs (fun r => { r with k := [(1, 1023)] })) (by decide +kernel) ⟨⟨V_eq _ _, rfl, by decide +kernel, by decide +kernel⟩, by decide +kernel⟩,
   met (onRegs (fun r => { r with k := [] })) (by decide +kernel) ⟨⟨V_eq _ _, rfl, by decide +kernel, by decide +kernel⟩, by decide +kernel⟩,
   met (linked (onRegs (fun r => { r with k := [(1, 5)] }))) (by decide +kernel) ⟨⟨V_eq _ _, rfl, by decide +kernel, by decide +kernel⟩, by decide +kernel⟩⟩

theorem met_remoteEvents :
    (let s := requested [req0 5 false] { linked base with fab := { (linked base).fab with sendq := List.replicate 5000 (flit0 (.dom .rel) .load 0 5) } }
     s.fab.recs.find? (fun r => r.ag == ag0 && !r.sent) = some (req0 5 false) ∧ passRoom s (req0 5 false) = decide (5001 * 256 ≤ Config.sendStorage)) ∧
    (let s := requested [req0 5 false] (linked base); s.fab.recs.find? (fun r => r.ag == ag0 && !r.sent) = some (req0 5 false) ∧ reachable s 5 = true ∧ requestRoom s.fab (req0 5 false).flit = true ∧ 5 ≠ s.mgmt.device ∧
      (tget s.blocks ag0.blk).any (fun bl => bl.res == .resident && !bl.stopping) = true) ∧
    (let s := requested [req0 5 false] base; s.fab.recs.find? (fun r => r.ag == ag0 && !r.sent) = some (req0 5 false) ∧ reachable s 5 = false ∧ 5 ≠ s.mgmt.device) ∧
    (let s := requested [req0 0 false] base; s.fab.recs.find? (fun r => r.ag == ag0 && !r.sent) = some (req0 0 false) ∧ 0 = s.mgmt.device) ∧
    (let s := requested [req0 5 true, req0 5 false] { base with vtime := BitVec.ofNat 64 (8 * base.fab.rotation) }
     s.fab.recs[0]? = some (req0 5 true) ∧ (req0 5 true).since + 8 * s.fab.rotation ≤ s.now ∧ heldHere s (req0 5 true) = false ∧ s.fab.recs[1]? = some (req0 5 false)) ∧
    (let x : HeldItem := { flit := flit0 (.dom .rel) .load 5 0, page := 0, ctx := 0, since := 1 }
     let s := { base with vtime := BitVec.ofNat 64 (8 * base.fab.rotation), fab := { base.fab with items := [x, { x with since := 0 }] } }
     s.fab.items[0]? = some x ∧ s.now < x.since + 8 * s.fab.rotation ∧ s.fab.items[1]? = some { x with since := 0 } ∧ 0 + 8 * s.fab.rotation ≤ s.now) := by
  decide +kernel

/-- A window on context 0. -/
def win0 : Window := { v := true, rdp := true, wrp := true, atp := false, ten := 0, ctx := 0, key := 1, len := 68, base := 0x18000 }

/-- An item without a window; not allowed; past the length; in pages that answer 0, 7 and (not resident) 9; at the last byte of the window. -/
theorem met_remoteTarget :
    windowOf base (flit0 (.dom .rel) .load 5 0) = none ∧
    (let s := { base with windows := [(3, win0)] }
     windowOf s (flit0 (.dom .rel) .load 5 0) = some win0 ∧ win0.allows .atomic = false ∧ win0.allows .load = true ∧ win0.len < 65 + 4 ∧ 64 + 4 ≤ win0.len ∧
      (remoteSpans s 0 (win0.base + 64) 4 true false .rel).1 = 0 ∧ (remoteSpans s 0 0 4 true false .rel).1 = 7) := by
  decide +kernel

/-- An image of one slot: fibre 0 reaches device 5. -/
def image0 (q : Nat) : FabricImage := { fsched := BitVec.ofNat 64 (q * 2 ^ 32), fepoch := 0, slots := [[0x8005]], routes := [0x8000] }
theorem met_fabricSchedule :
    base.fab.quiesced = true ∧ (requested [req0 5 true] base).fab.quiesced = false ∧
    (2800 ≤ (image0 2800).fsched.toNat / 2 ^ 32 % 2 ^ 16 ∧ (image0 28000).fsched.toNat / 2 ^ 32 % 2 ^ 16 ≤ 28000 ∧ (image0 2799).fsched.toNat / 2 ^ 32 % 2 ^ 16 < 2800) ∧
    ((image0 0).slots[0]? = some [0x8005] ∧ (image0 0).routes[0]? = some 0x8000) ∧
    (let s := { base with fab := { sched0 base.fab with slotNow := 0 } }; s.fab.slotAt s.now = some 0 ∧ s.fab.loaded = true ∧ s.fab.slotNow ≠ 1) ∧
    ((linked base).fab.slotAt (linked base).now = some 0 ∧ (linked base).fab.slotNow = 1) ∧
    stopDue (linked base) 0 = false ∧ stopDue { linked base with vtime := BitVec.ofNat 64 ((linked base).fab.slotlen - 1) } 0 = true := by
  decide +kernel

theorem met_fibreSends :
    (linked base).fab.livePeer (linked base).now 0 = some 5 ∧ (linked base).fab.owed = [] ∧ (linked base).fab.rwait = [] ∧ fibreLive (linked base) 0 = true ∧ nextFlit (linked base).fab (linked base).now 0 5 = none ∧
    fibreLive { linked base with fab := { (linked base).fab with stopped := [0] } } 0 = false ∧
    (let f := { (linked base).fab with sendq := [flit0 (.dom .bulk) .load 0 5], credit := [(netCode (.dom .bulk), (1, 0))] }; (nextFlit f (linked base).now 0 5).map (fun x => (x.1, x.2.1)) = some (FlitPlace.own, flit0 (.dom .bulk) .load 0 5)) ∧
    (let f := { (linked base).fab with relayq := [(0, flit0 (.dom .bulk) .load 7 5)], credit := [(netCode (.dom .bulk), (1, 0))] }; (nextFlit f (linked base).now 0 5).map (fun x => (x.1, x.2.1)) = some (FlitPlace.relay, flit0 (.dom .bulk) .load 7 5)) ∧
    (let f := { (linked base).fab with lost := [(0, [flit0 (.dom .bulk) .load 0 5])] }; (nextFlit f (linked base).now 0 5).map (fun x => (x.1, x.2.1)) = some (FlitPlace.lost, flit0 (.dom .bulk) .load 0 5)) := by
  decide +kernel

theorem flitImage_crc (f : Flit) (c : BitVec 32) : flitImage { f with crc := c } = flitImage f := rfl

/-- A flit with its CRC, and one with another. -/
theorem met_flitCrc (f : Flit) : (sealed f).crc = crc32 (flitImage (sealed f)) ∧ ({ f with crc := ~~~ crc32 (flitImage f) } : Flit).crc ≠ crc32 (flitImage { f with crc := ~~~ crc32 (flitImage f) }) := by
  refine ⟨(congrArg crc32 (flitImage_crc f _)).symm, fun h => ?_⟩
  have h2 : ~~~ crc32 (flitImage f) = crc32 (flitImage f) := h.trans (congrArg crc32 (flitImage_crc f _))
  simpa using congrArg (fun y => y.getLsbD 0) h2

theorem met_flitArrival :
    (linked base).fab.livePeer (linked base).now 0 = some 5 ∧ slotLive (linked base) = true ∧ 0 < Config.fibres ∧
    (flit0 .idle .idle 6 0).src ≠ 5 ∧
    (∀ o ∈ [FOp.load, .store, .atomic, .put, .btRead, .btWrite, .data, .ack, .error, .pull, .resend],
      let fl := flit0 (.dom .rel) o 5 0
      let s := linked base
      ((arrivals 0 fl).filter (fun e => fl.opc = e.2.1)).length = 1 ∧ seqOk (takeAcks (takeCredit s.fab 0 fl) 0 fl.acks) fl = true ∧ fl.dst = s.mgmt.device ∧
      seqOk (takeAcks (takeCredit { s.fab with rxseq := [(seqKey 5 0 (.dom .rel), [0])] } 0 fl) 0 fl.acks) fl = false) := by
  decide +kernel

/-- A flit of its own, and two flits of one packet. -/
theorem met_packets :
    let x := flit0 (.dom .rel) .load 5 0
    let y : Flit := { x with lst := false, nflits := 2 }
    let z : Flit := { x with fst := false, seq := x.seq + 1 }
    x.fst = true ∧ x.lst = true ∧ y.fst = true ∧ y.lst = false ∧ y.opc ≠ .resend ∧ y.seq < 2 ^ 32 ∧ base.fab.asm = [] ∧
      ({ base.fab with asm := [y] } : Fabric).asm = [y] ∧ sameFlow y z = true ∧ z.fst = false ∧ z.seq = (y.seq + 1) % 2 ^ 32 := by
  decide +kernel

/-! ### The system class and CTXCTL -/

/-- The group runs in context 1, a context of tenant 0 that is a manager or not. -/
def inCtx1 (mgr : Bool) (s : State) : State :=
  { s with blocks := tset s.blocks 0 { blk0 grp0 with ctx := 1 }, ctxs := tset s.ctxs 1 { Ctx.bare 0x10000 with tenant := some 0, mgr := mgr } }
/-- k1 and k2 of the base group, and bytes at 0x18000. -/
def imageState (k1 k2 : Word) (img : List (Nat × Nat × Nat)) : State := img.foldl (fun s e => poke s (0x18000 + e.1) e.2.1 e.2.2) (onRegs (fun r => { r with k := [(1, k1), (2, k2)] }))
/-- The number of a system register in A. -/
def ha (n : Nat) : Hdr := hg 9 n 2 0

theorem met_systemRegisters :
    (∀ n ∈ [0, 0x14], Met fun s v => GroupRuns s v (ha n) ∧ v.r.awaiting = false ∧ v.r.pend = [] ∧ ((ha n).a.toNat, (openRegs s v 0).lookup n) = (n, (readableRegs s v 0).lookup n) ∧ ((openRegs s v 0).lookup n).isSome = true) ∧
    (∀ n ∈ [0x80, 0x81, 0x82, 0x83, 0x84, 0x85], Met fun s v => GroupRuns s v (ha n) ∧ v.ctx = 0 ∧ v.r.awaiting = false ∧ v.r.pend = [] ∧ n ∈ (readableRegs s v 0).map Prod.fst) ∧
    (∀ n ∈ [0x15, 0x7F], Met fun s v => GroupRuns s v (ha n) ∧ 0x15 ≤ (ha n).a.toNat ∧ (ha n).a.toNat < 0x80) ∧
    (∀ n ∈ [0x80, 0x85, 0xFF], Met fun s v => GroupRuns s v (ha n) ∧ 0x80 ≤ (ha n).a.toNat ∧ v.ctx ≠ 0) ∧
    (∀ n ∈ [0, 0x14, 0x85], Met fun s v => v.within false [((hl 9 n 0 0).d, 2)] = true ∧ v.active (hl 9 n 0 0) ≠ [] ∧ n ∈ (readableRegs s v 0).map Prod.fst) := by
  refine ⟨?_, ?_, ?_, ?_, ?_⟩ <;> intro n hn <;> simp only [List.mem_cons, List.not_mem_nil, or_false] at hn
  · rcases hn with rfl | rfl <;> exact met base (by decide +kernel) ⟨⟨V_eq _ _, rfl, by decide +kernel, by decide +kernel⟩, by decide +kernel⟩
  · rcases hn with rfl | rfl | rfl | rfl | rfl | rfl <;> exact met base (by decide +kernel) ⟨⟨V_eq _ _, rfl, by decide +kernel, by decide +kernel⟩, by decide +kernel⟩
  · rcases hn with rfl | rfl <;> exact met base (by decide +kernel) ⟨⟨V_eq _ _, rfl, by decide +kernel, by decide +kernel⟩, by decide +kernel⟩
  · rcases hn with rfl | rfl | rfl <;> exact met (inCtx1 false base) (by decide +kernel) ⟨⟨V_eq _ _, rfl, by decide +kernel, by decide +kernel⟩, by decide +kernel⟩
  · rcases hn with rfl | rfl | rfl <;> exact met base (by decide +kernel) (by decide +kernel)

/-- The image of a protocol table (R199). -/
def tableImage (p : Proto) : List Byte :=
  toBytes 4 0x4C425443 ++ toBytes 2 1 ++ toBytes 1 p.states ++ toBytes 1 (if p.upds then 1 else 0) ++ toBytes 8 p.name.toNat ++ List.replicate 16 0 ++ p.entries.flatMap (fun e => toBytes 4 e.toNat)

/-- The validator accepts the shipped table INV. -/
theorem met_validator : validate (tableImage tableInv) = 0 ∧ (tableImage tableInv).length = 1056 := by decide +kernel

theorem met_tableLoad :
    (Met fun s v => GroupRuns s v (hg 0 1 0 5) ∧ v.ctx ≠ 0) ∧
    (Met fun s v => GroupRuns s v (hg 0 1 0 5) ∧ v.ctx = 0 ∧ s.priv.loads.any (fun x => x.1 == v.ag.blk && x.2.1 == v.ag.grp) = true) ∧
    (Met fun s v => GroupRuns s v (hg 0 1 0 5) ∧ v.ctx = 0 ∧ s.priv.loads.any (fun x => x.1 == v.ag.blk && x.2.1 == v.ag.grp) = false ∧ (v.r.kget 1).toNat % 32 ≠ 0) ∧
    (Met fun s v => GroupRuns s v (hg 0 1 0 5) ∧ v.ctx = 0 ∧ s.priv.loads.any (fun x => x.1 == v.ag.blk && x.2.1 == v.ag.grp) = false ∧ (v.r.kget 1).toNat % 32 = 0 ∧
      (groupAccess s v (v.r.kget 1) 1056 true false).cause = none) ∧
    (Met fun s v => GroupRuns s v (hg 0 1 0 5) ∧ v.ctx = 0 ∧ s.priv.loads.any (fun x => x.1 == v.ag.blk && x.2.1 == v.ag.grp) = false ∧ (v.r.kget 1).toNat % 32 = 0 ∧
      (groupAccess s v (v.r.kget 1) 1056 true false).cause ≠ none) ∧
    (∃ v, viewOf base { blk := 0, grp := 0, lane := none } = some v) ∧
    (let s := { base with objs := [(1, obj0)] }; s.objs.any (fun e => (objShape s { ctx := e.1 / 4096, obj := e.1 % 4096 }).slot == 0) = true ∧ s.objs.any (fun e => (objShape s { ctx := e.1 / 4096, obj := e.1 % 4096 }).slot == 5) = false) ∧ base.priv.loads = [] :=
  ⟨met (inCtx1 false base) (by decide +kernel) ⟨⟨V_eq _ _, rfl, by decide +kernel, by decide +kernel⟩, by decide +kernel⟩,
   met { imageState 0x18000 0 [] with priv := { base.priv with loads := [(0, 0, 5, [])] } } (by decide +kernel) ⟨⟨V_eq _ _, rfl, by decide +kernel, by decide +kernel⟩, by decide +kernel⟩,
   met (imageState 0x18010 0 []) (by decide +kernel) ⟨⟨V_eq _ _, rfl, by decide +kernel, by decide +kernel⟩, by decide +kernel⟩,
   met (imageState 0x18000 0 []) (by decide +kernel) ⟨⟨V_eq _ _, rfl, by decide +kernel, by decide +kernel⟩, by decide +kernel⟩,
   met (imageState 0 0 []) (by decide +kernel) ⟨⟨V_eq _ _, rfl, by decide +kernel, by decide +kernel⟩, by decide +kernel⟩,
   ⟨_, Option.some_get (x := viewOf base { blk := 0, grp := 0, lane := none }) (by decide +kernel) |>.symm⟩, by decide +kernel⟩

/-- The state and bytes of an image that is read. -/
def imageRead (s : State) (v : View) (h : Hdr) (n : Nat) : Option (State × List Byte) :=
  let c := imageLook s v (v.r.kget h.a.toNat) n
  let spans := if n = 0 then [] else c.spans
  if n ≠ 0 → c.cause = none then
    (releaseAll s v.core v.whole v.mask .dev).map (fun s1 =>
      let r := loadSpans (touchAll s1 v.core v.ctx spans false) v.core v.whole v.mask spans { dom := .seq, enc := .seq, sc := .sys }
      (r.1, r.2.1))
  else none

theorem imageRead_spec {s v h n x} (e : imageRead s v h n = some x) : ImageRead s v h n x.1 x.2 := by
  unfold imageRead at e
  dsimp only at e
  split at e
  · rename_i c
    obtain ⟨s1, h1, rfl⟩ := Option.map_eq_some_iff.mp e
    exact ⟨c, s1, _, h1, rfl⟩
  · cases e

/-- An image is read in context 0, and `p` holds of the state, B and the bytes. -/
def Imaged (n : Nat) (p : State → Nat → List Byte → Bool) : Prop := Met fun s v => GroupRuns s v (hg 9 1 2 0) ∧ v.ctx = 0 ∧ (imageRead s v (hg 9 1 2 0) n).any (fun x => p x.1 (v.r.kget 2).toNat x.2) = true

theorem imaged (s : State) {n : Nat} {p : State → Nat → List Byte → Bool} (h : (view? s).isSome = true)
    (x : (hg 9 1 2 0).u = true ∧ ((view? s).get h).ej = false ∧ ((view? s).get h).groupOn (hg 9 1 2 0) = true)
    (y : ((view? s).get h).ctx = 0 ∧ (imageRead s ((view? s).get h) (hg 9 1 2 0) n).any (fun x => p x.1 (((view? s).get h).r.kget 2).toNat x.2) = true) : Imaged n p :=
  met s h ⟨⟨V_eq _ _, x⟩, y⟩

/-- A valid tenant: one queue slot, four vectors, key slot 0, one HBM window of 16 units at 1 MiB that holds its rings. -/
def tenantImg : List (Nat × Nat × Nat) := [(0, 1, 3), (1, 1, 1), (3, 1, 4), (16, 8, 1), (24, 8, 0x100000), (32, 8, 0x100000), (0x80, 8, 0x100000), (0x88, 8, 16 * 65536)]
/-- A context of tenant 0. -/
def ctxImg : List (Nat × Nat × Nat) := [(0, 8, 0x100000), (0x10, 8, 0x100000), (0x20, 8, 0x100000), (10, 1, 1)]
def withTenant (s : State) : State :=
  { s with tenants := [(0, { flags := 3, qslots := 1, proto := 0, msixn := 4, keys := 1, sample := 0x100000, popring := 0x100000, wins := [{ base := 0x100000, units := 16, tier := 0 }] })] }

/-- Queue and window 16 belong to tenant 1. -/
def foreign (s : State) : State :=
  { withTenant s with ctxs := tset s.ctxs 2 { Ctx.bare 0x10000 with tenant := some 1 }, queues := [(16, { Queue.fresh with ctx := 2 })], windows := [(16, { win0 with ten := 1, ctx := 2 })] }

theorem met_contextControl :
    (∀ e ∈ ctxctlForms, Met fun s v => GroupRuns s v (hg 9 1 2 0) ∧ v.ctx ≠ 0 ∧ isMgr s v.ctx = false ∧ s.expCtx ≠ some v.ctx) ∧
    (∀ e ∈ ctxctlForms, e.2 ≠ 0 → Met fun s v => GroupRuns s v (hg 9 1 2 0) ∧ v.ctx = 0 ∧ (imageLook s v (v.r.kget 1) e.2).cause ≠ none) ∧
    (Met fun s v => GroupRuns s v (hg 9 1 2 0) ∧ v.ctx ≠ 0 ∧ queueOpen s v.ctx (v.r.kget 2).toNat = false ∧ windowOpen s v.ctx (v.r.kget 2).toNat = false) ∧
    Imaged 256 (fun s n bs => (writeTenant s n bs).2 == 0) ∧ Imaged 256 (fun s n bs => (writeTenant s n bs).2 == 2 && decide (16 ≤ n)) ∧
    Imaged 128 (fun s n bs => (createContext s n bs).2 == 0 && n == 1023) ∧ Imaged 128 (fun _ n _ => n == 0) ∧ Imaged 128 (fun _ n _ => n == 1024) ∧
    Imaged 128 (fun s n _ => n == 1 && (tget s.ctxs n).isSome) ∧
    Imaged 0 (fun _ n _ => n == 0) ∧ Imaged 0 (fun _ n _ => n == 1024) ∧ Imaged 0 (fun s n _ => n == 1 && (tget s.ctxs n).isNone) ∧ Imaged 0 (fun s n _ => n == 1 && (tget s.ctxs n).isSome) :=
  ⟨fun _ _ => met (inCtx1 false base) (by decide +kernel) ⟨⟨V_eq _ _, rfl, by decide +kernel, by decide +kernel⟩, by decide +kernel⟩,
   fun e he hn => met (imageState 0 0 []) (by decide +kernel) ⟨⟨V_eq _ _, rfl, by decide +kernel, by decide +kernel⟩, by decide +kernel,
     (by decide +kernel : ∀ e ∈ ctxctlForms, e.2 ≠ 0 → (imageLook (imageState 0 0 []) (V (imageState 0 0 [])) ((V (imageState 0 0 [])).r.kget 1) e.2).cause ≠ none) e he hn⟩,
   met (foreign (inCtx1 true base)) (by decide +kernel) ⟨⟨V_eq _ _, rfl, by decide +kernel, by decide +kernel⟩, by decide +kernel⟩,
   imaged (imageState 0x18000 0 tenantImg) (by decide +kernel) (by decide +kernel) (by decide +kernel), imaged (imageState 0x18000 16 tenantImg) (by decide +kernel) (by decide +kernel) (by decide +kernel),
   imaged (withTenant (imageState 0x18000 1023 ctxImg)) (by decide +kernel) (by decide +kernel) (by decide +kernel), imaged (imageState 0x18000 0 ctxImg) (by decide +kernel) (by decide +kernel) (by decide +kernel),
   imaged (imageState 0x18000 1024 ctxImg) (by decide +kernel) (by decide +kernel) (by decide +kernel),
   imaged { imageState 0x18000 1 ctxImg with ctxs := tset base.ctxs 1 (Ctx.bare 0x10000) } (by decide +kernel) (by decide +kernel) (by decide +kernel),
   imaged (imageState 0x18000 0 []) (by decide +kernel) (by decide +kernel) (by decide +kernel), imaged (imageState 0x18000 1024 []) (by decide +kernel) (by decide +kernel) (by decide +kernel),
   imaged (imageState 0x18000 1 []) (by decide +kernel) (by decide +kernel) (by decide +kernel),
   imaged { imageState 0x18000 1 [] with ctxs := tset base.ctxs 1 (Ctx.bare 0x10000) } (by decide +kernel) (by decide +kernel) (by decide +kernel)⟩

theorem met_contextResources :
    Imaged 32 (fun _ n _ => n == 4096) ∧ Imaged 32 (fun s n bs => n == 4095 && queueOpen s 0 n && leAt bs 0 8 % 64 != 0) ∧
    Imaged 32 (fun s n bs => n == 4095 && queueOpen s 0 n && (tget s.ctxs (leAt bs 8 8 / 2 ^ 48 % 2 ^ 10)).isSome && leAt bs 0 8 % 64 == 0) ∧
    Imaged 24 (fun _ n _ => n == 4096) ∧ Imaged 24 (fun s n bs => n == 4095 && !windowOk s (windowImage bs)) ∧ Imaged 24 (fun s n bs => n == 4095 && windowOk s (windowImage bs)) ∧
    Imaged 0 (fun _ n _ => n == 1024) ∧ Imaged 0 (fun s n _ => n == 0 && (tget s.ctxs n).isSome) ∧ Imaged 16 (fun _ n _ => n == 4096) ∧ Imaged 16 (fun _ n _ => n == 4095) ∧
    (Met fun s v => v.ctx = 0 ∧ (releaseAll s v.core v.whole v.mask .dev).any (fun s1 => (tlbInvalidate s1 0 0x18000 true).isSome) = true) :=
  ⟨imaged (imageState 0x18000 4096 []) (by decide +kernel) (by decide +kernel) (by decide +kernel), imaged (imageState 0x18000 4095 [(0, 8, 32)]) (by decide +kernel) (by decide +kernel) (by decide +kernel),
   imaged (imageState 0x18000 4095 []) (by decide +kernel) (by decide +kernel) (by decide +kernel), imaged (imageState 0x18000 4096 []) (by decide +kernel) (by decide +kernel) (by decide +kernel),
   imaged (imageState 0x18000 4095 [(8, 8, 1)]) (by decide +kernel) (by decide +kernel) (by decide +kernel), imaged (imageState 0x18000 4095 [(8, 8, 65536)]) (by decide +kernel) (by decide +kernel) (by decide +kernel),
   imaged (imageState 0x18000 1024 []) (by decide +kernel) (by decide +kernel) (by decide +kernel), imaged (imageState 0x18000 0 []) (by decide +kernel) (by decide +kernel) (by decide +kernel),
   imaged (imageState 0x18000 4096 []) (by decide +kernel) (by decide +kernel) (by decide +kernel), imaged (imageState 0x18000 4095 []) (by decide +kernel) (by decide +kernel) (by decide +kernel),
   met base (by decide +kernel) (by decide +kernel)⟩

/-- A thread of lane 1. -/
def th0 (run : RunState) : Thread := { num := 0, lane := 1, rejoin := 0x10100, out := 0, back := 0, slots := [], r := Regs.fresh, run := run, hang := 0, chain := Ptr.none, lastIss := 0 }
def threaded (run : RunState) : State := onGroup (fun g => { g with threads := [th0 run] })

/-- A window without an answer. -/
def pend0 : Pend := { left := 0, pc := 0, iword := 0, ecsn := 0, writes := [], await := [5], fails := [], acq := none }
/-- A record of zeros. -/
def rec0 : TrapRecord := { info := 0, lanes := 0, pc := 0, addr := 0, iword := 0, ecsn := 0, resume := 0, vt := 0 }
/-- A trap of lane 1 held at a time. -/
def held0 (vt : Nat) : HeldTrap := { cause := .xlat, code := 0, lane := some 1, addr := 0, acc := none, ecsn := 0, pc := 0x10000, iword := 0, vt := vt, write := false, wsp := false, resume := 0x10000 }

theorem met_heldTraps :
    (let s := onGroup (fun g => { g with held := [held0 4, held0 3] })
     ∃ x, s.group? 0 0 = some x ∧ heldFirst x.held = some (held0 3) ∧ boundary s 0 0 = true ∧ heldSettled x (held0 3) = true) ∧
    (let s := onGroup (fun g => { g with held := [held0 3], threads := [{ th0 .ready with r := { Regs.fresh with pend := [pend0] } }] })
     ∃ x, s.group? 0 0 = some x ∧ heldFirst x.held = some (held0 3) ∧ boundary s 0 0 = true ∧ heldSettled x (held0 3) = false) ∧
    (let s := onGroup (fun g => { g with held := [held0 4], async := [held0 3], run := .parkedOff (.pages []) })
     ∃ x, s.group? 0 0 = some x ∧ heldFirst x.held = some (held0 4) ∧ x.handler = none ∧ x.run = .parkedOff (.pages []) ∧ x.async = [held0 3] ∧ boundary s 0 0 = false ∧ parkedForPages x = true) ∧
    (let s := onGroup (fun g => { g with held := [held0 4], run := .parkedOff (.service none true 4 1 rec0) })
     ∃ x, s.group? 0 0 = some x ∧ heldFirst x.held = some (held0 4) ∧ x.handler = none ∧ x.run = .parkedOff (.service none true 4 1 rec0)) ∧
    (let s := onGroup (fun g => { g with held := [held0 4], async := [held0 3], halted := true })
     ∃ x, s.group? 0 0 = some x ∧ heldFirst x.held = some (held0 4) ∧ x.async = [held0 3] ∧ boundary s 0 0 = false ∧ callable x = false ∧ parkedForPages x = false) ∧
    (let s := onGroup (fun g => { g with async := [held0 3], run := .parkedJoin 7, stack := [below] })
     ∃ x, s.group? 0 0 = some x ∧ x.async = [held0 3] ∧ x.run = .parkedJoin 7 ∧ parkedForPages x = false) ∧
    (let s := onGroup (fun g => { g with async := [held0 3] }); ∃ x, s.group? 0 0 = some x ∧ x.async = [held0 3] ∧ boundary s 0 0 = true ∧ x.run = .ready) :=
  ⟨⟨_, rfl, by decide +kernel⟩, ⟨_, rfl, by decide +kernel⟩, ⟨_, rfl, by decide +kernel⟩, ⟨_, rfl, by decide +kernel⟩, ⟨_, rfl, by decide +kernel⟩, ⟨_, rfl, by decide +kernel⟩, ⟨_, rfl, by decide +kernel⟩⟩

/-! ### Launching and scheduling -/

/-- A packet at 0x18000 in the ring of queue 0 at 0x19000: it enters at `entry`. -/
def packeted (entry : Nat) (s : State) : State :=
  [(0x18000, 8, entry), (0x18008, 4, 1), (0x1800C, 4, 1), (0x18010, 4, 1), (0x18014, 2, 256), (0x18017, 1, 1), (0x18018, 1, 1), (0x1801B, 1, 1), (0x19000, 8, 0x18000)].foldl (fun s e => poke s e.1 e.2.1 e.2.2) s
/-- Queue 0 with `n` packets enqueued; its slot is 128. -/
def queued0 (ring : Word) (ctx n : Nat) (map : Table Nat) (s : State) : State :=
  { s with queues := [(0, { Queue.fresh with ring := ring, en := true, ctx := ctx, tail := n })], sched := { s.sched with map := map } }
def qbase (entry : Nat) : State := packeted entry (onRegs (fun r => { r with k := [(1, 0x18000)] }))

theorem met_triggers :
    (Met fun s v => GroupRuns s v (hg 0 1 0 2) ∧ openBefore s v = [] ∧ v.g.trigQ = [] ∧ (chainOf s v.ctx).walk = none ∧ (chainOf s v.ctx).step = none ∧
      v.g.wakeAt v.r.pc = none ∧ min ((v.r.kget 1).toNat + 2) (2 ^ 32 - 1) ≠ 0) ∧
    (Met fun s v => GroupRuns s v (hg 0 9 0 0) ∧ (openBefore s v ≠ [] ∨ v.g.trigQ ≠ []) ∧ v.g.wakeAt v.r.pc = none ∧ min (v.r.kget 9).toNat (2 ^ 32 - 1) = 0) ∧
    (∀ w ∈ [0, 1], Met fun s v => GroupRuns s v (hg 0 9 0 0) ∧ v.g.wakeAt v.r.pc = some w ∧ (w ≤ s.now ↔ w = 0)) ∧
    (Met fun s v => GroupRuns s v (hg 0 1 0 0) ∧ (chainOf s v.ctx).walk = none ∧ (chainOf s v.ctx).step = some (7, 1)) ∧
    (Met fun s v => GroupRuns s v (hg 0 1 0 0) ∧ (chainOf s v.ctx).walk ≠ none) ∧
    (∃ bl x gr, tget base.blocks 0 = some bl ∧ base.group? 0 0 = some x ∧ tget (sivReleaseAll base bl.core .dev).grids bl.grid = some gr ∧ x.trigd = false) :=
  ⟨met base (by decide +kernel) ⟨⟨V_eq _ _, rfl, by decide +kernel, by decide +kernel⟩, by decide +kernel⟩,
   met (onGroup (fun g => { g with trigQ := [[1]] })) (by decide +kernel) ⟨⟨V_eq _ _, rfl, by decide +kernel, by decide +kernel⟩, by decide +kernel⟩,
   fun w hw => by
     simp only [List.mem_cons, List.not_mem_nil, or_false] at hw
     rcases hw with rfl | rfl
     · exact met (onGroup (fun g => { g with wake := some (g.r.pc, 0) })) (by decide +kernel) ⟨⟨V_eq _ _, rfl, by decide +kernel, by decide +kernel⟩, by decide +kernel⟩
     · exact met (onGroup (fun g => { g with wake := some (g.r.pc, 1) })) (by decide +kernel) ⟨⟨V_eq _ _, rfl, by decide +kernel, by decide +kernel⟩, by decide +kernel⟩,
   met { base with chains := [(0, { step := some (7, 1), walk := none, stalled := [], laps := [] })] } (by decide +kernel) ⟨⟨V_eq _ _, rfl, by decide +kernel, by decide +kernel⟩, by decide +kernel⟩,
   met { base with chains := [(0, { step := none, walk := some (7, 1, 2, 0, Ptr.none), stalled := [], laps := [] })] } (by decide +kernel) ⟨⟨V_eq _ _, rfl, by decide +kernel, by decide +kernel⟩, by decide +kernel⟩,
   ⟨blk0 grp0, grp0, Grid.fresh 0 0 0 pkt0, by decide +kernel⟩⟩

/-- A group changed, with its block and itself. -/
theorem met_wakes :
    (∀ f ∈ [fun (g : Group) => { g with trigQ := [[1]] }, fun g => { g with run := .sleeping 0 }, fun g => { g with run := .sleeping 1 }, fun g => { g with run := .yielding 0 [] }, fun g => { g with run := .yielding 64 [(0, 0)] }],
      ∃ bl x, tget (onGroup f).blocks 0 = some bl ∧ (onGroup f).group? 0 0 = some x ∧ x = f grp0) ∧
    isOpen base [1] = false ∧ isOpen (requested [{ req0 5 true with id := 1 }] base) [1] = true ∧ yieldOver base 0 [] = true ∧ yieldOver base 64 [(0, 0)] = false ∧
    (let s := { base with vtime := 256 }; selectable s 0 0 false (0, blk0 grp0) (0, grp0) = true ∧ grp0.lastIss + 256 ≤ s.now ∧ pick s 0 0 = some { blk := 0, grp := 0, lane := none }) := by
  refine ⟨fun f _ => ⟨blk0 (f grp0), f grp0, rfl, rfl, rfl⟩, by decide +kernel⟩

theorem met_launch :
    (Met fun s v => GroupRuns s v (hg 9 0 0 0) ∧ (groupAccess s v 0x18000 32 true false).cause = none ∧ releaseAll s v.core v.whole v.mask .dev = none) ∧
    (Met fun s v => GroupRuns s v (hg 9 0 0 0) ∧ (groupAccess s v 0 32 true false).cause ≠ none) ∧
    (∀ e ∈ [((0x19000 : Word), 1, 0), (0x19000, 0, 16), (0, 0, 15), (0x19000, 0, 15)], Met fun s v => ∃ s1, GroupRuns s v (hg 9 0 0 0) ∧ (groupAccess s v 0x18000 32 true false).cause = none ∧
      releaseAll s v.core v.whole v.mask .dev = some s1 ∧
      (let s2 := touchAll s1 v.core v.ctx (groupAccess s v 0x18000 32 true false).spans false
       let q := queueOf s2 (leAt ((groupAccess s v 0x18000 32 true false).spans.flatMap (fun sp => physBytes s2 sp.pa sp.len)) 0x1E 2 % 4096)
       (q.ctx, q.tail - q.head, q.log2n) = (e.2.1, e.2.2, 4) ∧ (groupAccess s2 v (q.entryVa q.tail) 8 false true).cause.isSome = (e.1 == 0))) := by
  refine ⟨met { requested [{ req0 5 true with id := 1 }] (qbase 0x10000) with mem := (qbase 0x10000).mem } (by decide +kernel) ⟨⟨V_eq _ _, rfl, by decide +kernel, by decide +kernel⟩, by decide +kernel⟩,
    met base (by decide +kernel) ⟨⟨V_eq _ _, rfl, by decide +kernel, by decide +kernel⟩, by decide +kernel⟩, ?_⟩
  intro e he
  simp only [List.mem_cons, List.not_mem_nil, or_false] at he
  rcases he with rfl | rfl | rfl | rfl
  · exact met (queued0 0x19000 1 0 [] (qbase 0x10000)) (by decide +kernel) ⟨_, ⟨V_eq _ _, rfl, by decide +kernel, by decide +kernel⟩, by decide +kernel, (Option.some_get (by decide +kernel)).symm, by decide +kernel⟩
  · exact met (queued0 0x19000 0 16 [] (qbase 0x10000)) (by decide +kernel) ⟨_, ⟨V_eq _ _, rfl, by decide +kernel, by decide +kernel⟩, by decide +kernel, (Option.some_get (by decide +kernel)).symm, by decide +kernel⟩
  · exact met (queued0 0 0 15 [] (qbase 0x10000)) (by decide +kernel) ⟨_, ⟨V_eq _ _, rfl, by decide +kernel, by decide +kernel⟩, by decide +kernel, (Option.some_get (by decide +kernel)).symm, by decide +kernel⟩
  · exact met (queued0 0x19000 0 15 [] (qbase 0x10000)) (by decide +kernel) ⟨_, ⟨V_eq _ _, rfl, by decide +kernel, by decide +kernel⟩, by decide +kernel, (Option.some_get (by decide +kernel)).symm, by decide +kernel⟩

theorem met_threads :
    (∀ run ∈ [RunState.starting, .returning, .recalling, .ready], ∃ x, (threaded run).group? 0 0 = some x ∧ x.thread? 1 = some (th0 run)) ∧ (th0 .recalling).settledDown = true ∧
    (let s := onGroup (fun g => { g with run := .parkedJoin 100000, stack := [below] }); ∃ bl x, tget s.blocks 0 = some bl ∧ s.group? 0 0 = some x ∧ x.run = .parkedJoin 100000 ∧ rejoinLimit s bl.ctx ≤ 100000 ∧
      x.halted = false ∧ bl.res = .resident) ∧
    (rejoinLimit base 0 = 100000 ∧ fairnessDue { grp0 with fair := Config.fairness } = true ∧ fairnessDue { grp0 with fair := Config.fairness - 1 } = false) ∧
    (∃ x, (onGroup (fun g => { g with fair := Config.fairness, r := { g.r with rpc := 0x10100 }, stack := [below] })).group? 0 0 = some x ∧ fairnessDue x = true ∧ x.stack = [below] ∧ below.kd = false ∧ below.rpc = x.r.rpc) :=
  ⟨fun run _ => ⟨{ grp0 with threads := [th0 run] }, rfl, rfl⟩, by decide +kernel, ⟨_, _, rfl, rfl, rfl, by decide +kernel⟩, by decide +kernel, ⟨_, rfl, by decide +kernel⟩⟩

theorem met_quanta :
    (let s := { base with clk := 140000 }; s.sched.mapped < s.clk.toNat / 140000) ∧ ¬ (let s := { base with clk := 139999 }; s.sched.mapped < s.clk.toNat / 140000) ∧
    (let s := queued0 0x19000 0 1 [] base; 0 ∈ (s.queues.filter (fun e => e.2.work && !isMapped s e.1)).map Prod.fst ∧ idleWinner s 128 = some (none, 0)) ∧ idleWinner base 128 = none ∧
    (let s := { base with clk := 70000 }; 0 < s.mgmt.quantumUs * 1400 ∧ s.sched.sliced < s.clk.toNat / (s.mgmt.quantumUs * 1400)) ∧
    (let s := { base with blocks := tset base.blocks 1 { blk0 grp0 with ctx := 1 }, cores := tset base.cores 0 { base.core 0 with idle := 16 } }
     otherCtx s 0 = some 1 ∧ hasReady s 0 1 = true ∧ 16 ≤ (s.core 0).idle) := by
  decide +kernel

/-- At a time-slice end: a pre-empted block that is not served, a grid with blocks to place, and a core with ready groups of two contexts. -/
theorem met_timeslice :
    (let s := { base with clk := 70000, blocks := tset base.blocks 1 { blk0 grp0 with res := .preempted } }
     let s1 := quantumSwitch (ageWaits { s with sched := { s.sched with sliced := s.clk.toNat / (s.mgmt.quantumUs * 1400) } })
     (tget s.blocks 1).map (fun b => b.res) = some .preempted ∧ (firstServed s1).all (fun w => !w.keys.contains 1) = true ∧ s.sched.sliced < s.clk.toNat / (s.mgmt.quantumUs * 1400)) ∧
    (let s := { base with clk := 70000 }; (tget s.grids 0).any (fun g => !g.done && decide (g.next < g.pkt.blocks)) = true) ∧
    (let s := { base with clk := 70000, blocks := tset base.blocks 1 { blk0 grp0 with ctx := 1 }, cores := tset base.cores 0 { base.core 0 with active := some 0 } }
     (s.cores.map Prod.fst).Nodup ∧ 0 ∈ s.cores.map Prod.fst ∧ otherCtx s 0 = some 1 ∧ (s.core 0).active = some 0 ∧ hasReady s 0 1 = true ∧ hasReady s 0 0 = true) := by
  decide +kernel

theorem met_gridsLaunch :
    (let s := queued0 0x19000 0 1 [(128, 0)] (qbase 0x10000)
     slotQueue s 128 = some 0 ∧ headWaits s (queueOf s 0) = false ∧ (headPacket s (queueOf s 0)).any (fun x => packetStatus s 0 x.1 x.2.1 x.2.2 == 0 && headAct s 0 == .launch x.2.2) = true) ∧
    (let s := queued0 0x19000 0 1 [(128, 0)] (qbase 0x10004)
     slotQueue s 128 = some 0 ∧ headAct s 0 = .reject 1 0 ∧ (headPacket s (queueOf s 0)).any (fun x => packetStatus s 0 x.1 x.2.1 x.2.2 == 1 && x.2.2.entry.toNat % 8 != 0) = true) ∧
    (let s := { queued0 0x19000 0 2 [(128, 0)] (qbase 0x10000) with queues := [(0, { Queue.fresh with ring := 0x18FF8, en := true, head := 1, tail := 2 })] }
     slotQueue s 128 = some 0 ∧ headAct s 0 = .wait) ∧
    (let s := poke (queued0 0x19000 0 1 [(128, 0)] (qbase 0x10004)) 0x18038 8 0x18100
     let s1 := headOn { s with grids := tset s.grids (handleOf 0 0) { Grid.fresh 0 0 0 Packet.blank with done := true, trigged := true, status := 1, since := s.now } } 0 1
     headAct s 0 = .reject 1 0x18100 ∧ (ctxPutWord s1 0 0x18100 (BitVec.ofNat 64 (s.now % 2 ^ 56 * 256 + 1))).isSome = true ∧ s.host.masked (16, 3) = true ∧
      ({ s with host := { s.host with msixTab := tset s.host.msixTab (64 * 16 + 3) { addr := 0, data := 0, ctl := 0 } } } : State).host.masked (16, 3) = false) ∧
    slotQueue base 128 = none := by
  decide +kernel

/-- A cluster of one block waits; its context has save slots. -/
def waitState : State := { base with blocks := [], grids := [(1, Grid.fresh 0 0 0 pkt0)], ctxs := tset base.ctxs 0 { Ctx.bare 0x10000 with pool := 0x100000, poolsz := 2 ^ 30 } }
def wait0 (s : State) (fresh : Bool) : Wait := (((waiting s).find? (fun x => x.fresh == fresh))).getD { keys := [], grid := 0, ctx := 0, prio := 0, since := 0, fresh := fresh }
/-- The block of the tests, pre-empted. -/
def stopped0 : State := { base with ctxs := waitState.ctxs, blocks := tset base.blocks 0 { blk0 grp0 with res := .preempted }, grids := tset base.grids 0 { Grid.fresh 0 0 0 pkt0 with next := 1 } }
/-- A resumed group of a block finds no slot of its quarter. -/
def victimState : State :=
  let s := onGroup (fun g => { g with run := .parkedOff .resumed })
  { s with cores := tset s.cores 0 { s.core 0 with used := (List.range 64).map (fun n => (n, 0, n)) } }

/-- A stopped lane waits for its answer; the block's pre-emption has begun. -/
def stoppingState (f : Group → Group) : State := { base with blocks := tset base.blocks 0 { blk0 (f grp0) with stopping := true } }
/-- A cluster with CRES waits; a block without CRES holds every register granule of the core that its context reserves. -/
def demandState : State :=
  { base with grids := [(0, { Grid.fresh 0 0 0 pkt0 with next := 1 }), (1, Grid.fresh 0 0 0 { pkt0 with flags := 4 })],
              ctxs := tset base.ctxs 0 { Ctx.bare 0x10000 with pool := 0x100000, poolsz := 2 ^ 30, cres := 1, resv := [0] },
              cores := tset base.cores 0 { base.core 0 with gran := (List.range 32).map (fun i => (i, { kind := Store.reg, st := .live, owner := some 0, last := none, data := [], order := i, fol := false, claim := none })) } }

theorem met_preempts :
    ((stoppingClusters (stoppingState id)).find? (fun b => (clusterKeys (stoppingState id) b).all (canStop (stoppingState id))) = some 0 ∧ nextVictim (stoppingState id) = some 0) ∧
    (let s := stoppingState (fun g => { g with threads := [{ th0 .ready with r := { Regs.fresh with pend := [pend0] } }] }); stoppingClusters s = [0] ∧ (clusterKeys s 0).all (canStop s) = false ∧ nextVictim s ≠ some 0) ∧
    (stoppingClusters demandState = [] ∧ (nextDemand demandState).any (fun d => match d with | .room _ vs => vs == [0] | .slot _ => false) = true) ∧
    ((clusterKeys base 0).all (canStop base) = true ∧ (tget (preemptBlock base 0).blocks 0).isSome = true ∧ (blk0 grp0).save = none) := by
  decide +kernel

theorem met_blocks :
    (MayPlace waitState (wait0 waitState true) (2 ^ 32) [1] 0 ∧ (wait0 waitState true).fresh = true) ∧ (MayPlace stopped0 (wait0 stopped0 false) 0 [1] 3 ∧ (wait0 stopped0 false).fresh = false) ∧
    (stoppingClusters victimState = [] ∧ nextDemand victimState = some (.slot 0)) ∧ 0 < (waitPacket waitState (wait0 waitState true)).groups ∧
    (let s := onGroup (fun g => { g with run := .parkedOff .resumed }); s.group? 0 0 = some { grp0 with run := .parkedOff .resumed } ∧ (freeGroupSlots s 0 0).head? = some 1) ∧
    ((let s := setGran base 0 103 { granOf base 0 103 with last := some 0 }; (streamOp s 0 103).isSome = true ∧ (granOf s 0 103).claim = none ∧ (granOf s 0 103).st = .free ∧ (granOf s 0 103).last ≠ none) ∧ streamOp base 0 0 = none) := by
  decide +kernel

/-- An entry that waits for its ring. -/
def svcw : SvcWait := { ctx := 0, blk := 0, grp := 0, parks := true, isSvc := true, kind := 0, who := 0, lanes := 1, record := rec0, args := [(0, [1, 2])] }
def pop0 : PopReq := { ctx := 0, page := 0x20000, big := false, kind := 0, written := none, pri := false }

/-- Context 0 with a service ring of two entries at an address, with one entry waiting. -/
def svcState (ring : Word) (tail : Nat) : State :=
  let s := poke (poke base (ring.toNat) 8 1) (ring.toNat + 8) 8 tail
  { s with svcq := [svcw], ctxs := tset base.ctxs 0 { Ctx.bare 0x10000 with svcring := ring } }

/-- A ring that cannot be used; one that is full; one whose next entry is not mapped; one with room. -/
theorem met_serviceEntries :
    (∀ x ∈ base.svcq, x.ctx ≠ 0) ∧
    (let s := { base with svcq := [svcw] }; s.svcq.find? (fun x => x.ctx == 0) = some svcw ∧ tget s.blocks svcw.blk = some (blk0 grp0) ∧ svcHeader s 0 = none) ∧
    (svcHeader (svcState 0x18000 2) 0 = some (0x18000, 0, 2, 1) ∧ 2 ^ 1 ≤ (2 + 2 ^ 48 - 0) % 2 ^ 48) ∧
    (svcHeader (svcState 0x1F000 0) 0 = some (0x1F000, 0, 0, 1) ∧ svcWaits (svcState 0x1F000 0) 0 0x1F000 0 1 = false ∧
      svcWrite { svcState 0x1F000 0 with svcq := [] } 0 0x1F000 0 1 svcw.kind svcw.who svcw.lanes svcw.record.resume svcw.record svcw.args = none) ∧
    (svcHeader (svcState 0x18000 1) 0 = some (0x18000, 0, 1, 1) ∧ (1 + 2 ^ 48 - 0) % 2 ^ 48 < 2 ^ 1 ∧ svcWaits (svcState 0x18000 1) 0 0x18000 1 1 = false ∧
      (svcWrite { svcState 0x18000 1 with svcq := [] } 0 0x18000 1 1 svcw.kind svcw.who svcw.lanes svcw.record.resume svcw.record svcw.args).isSome = true) ∧
    ({ grp0 with run := .parkedOff (.service none true 4 1 rec0) } : Group).run = .parkedOff (.service none true 4 1 rec0) := by
  decide +kernel

/-- Tenant 0 samples with period 64 into a ring whose TAIL is given; context 0 is its context. -/
def sampling (tail : Nat) : State :=
  let s := withTenant (threaded .ready)
  { s with mem := putNum (putNum s.mem 0x100000 8 (2 ^ 63)) 0x100008 8 tail, ctxs := tset s.ctxs 0 { Ctx.bare 0x10000 with tenant := some 0 }, clk := 64 }
/-- Its descriptor. -/
def ten0 : Tenant := (tget (withTenant base).tenants 0).getD { flags := 0, qslots := 0, proto := 0, msixn := 0, keys := 0, sample := 0, popring := 0, wins := [] }

theorem met_samples :
    (let s := sampling 0
     tenantOf s 0 = some ten0 ∧ samplePeriod s 0 ten0 = true ∧ samplePeriod { s with clk := 63 } 0 ten0 = false ∧
     ((slotAgents s 0).filter (fun x => x.2.2.2.slot / 64 == 0)).map (fun x => (x.1, x.2.2.1)) = [(0, 0)] ∧ ((slotAgents s 0).filter (fun x => x.2.2.2.slot / 64 == 1)).isEmpty = true ∧
     (poolAgents s 0).map (fun x => x.2.2.2.2.num) = [0] ∧ (poolAgents base 0).isEmpty = true) ∧
    (sampleHeader (sampling 0) ten0 = some (6, 2046) ∧ sampleHeader base ten0 = none) ∧
    (let s := sampling 2046; 2046 ≤ (physWord s (ten0.sample + 8) - physWord s (ten0.sample + 16)).toNat) ∧
    (let s := sampling 2045; (physWord s (ten0.sample + 8) - physWord s (ten0.sample + 16)).toNat < 2046 ∧ sampleOk s ten0 (ten0.sample + 0x40 + 32 * (2045 % 2046)) 32 = true) := by
  decide +kernel

/-- The one agent of a list is its next in turn. -/
theorem met_turns : NextInTurn id 3 [1] 1 ∧ NextInTurn id 3 [1, 5, 7] 5 := by
  constructor <;> simp [NextInTurn]

/-- Lane 1 is out under an entry of its eject. -/
def kEntry : StackEntry := { ej := 2, rpc := 0x10100, mask := 12, pc := 0x10100, kd := true, recalled := false }
/-- The entry of a lane recalled before with the same PC and rejoin point. -/
def rEntry : StackEntry := { ej := 0, rpc := 0x10100, mask := 4, pc := Regs.fresh.pc, kd := false, recalled := true }

theorem met_lanes :
    (th0 .ready).lane < 64 ∧ (∀ n ∈ (th0 .ready).slots, n < 256) ∧ grp0.run = .ready ∧
    (let x := { grp0 with run := .parkedJoin 7, stack := [{ kEntry with ej := 6 }] }; x.run = .parkedJoin 7 ∧ ({ kEntry with ej := 6 } : StackEntry).ej &&& ~~~ laneBit (th0 .ready).lane ≠ 0) ∧
    (kEntry.ej &&& ~~~ laneBit (th0 .ready).lane = 0 ∧ kEntry.mask ≠ 0) ∧
    (kEntry.kd = true ∧ kEntry.recalled = false ∧ kEntry.ej.getLsbD (th0 .ready).lane = true) ∧
    (rEntry.kd = false ∧ rEntry.recalled = true ∧ rEntry.pc = (th0 .ready).r.pc ∧ rEntry.rpc = (th0 .ready).rejoin) := by
  decide +kernel

theorem met_rings :
    (let s := { base with pops := [pop0] }; popRoom s 16 = true ∧ popReady s 16 = some pop0) ∧ popReady base 16 = none ∧
    ((chainOf ({ base with chains := [(0, { step := none, walk := some (7, 1, 2, 0, Ptr.none), stalled := [], laps := [] })] } : State) 0).walk = some (7, 1, 2, 0, Ptr.none) ∧ (chainOf base 0).walk = none) ∧
    (let s := { withTenant base with mem := putNum base.mem 0x100000 8 (2 ^ 63), clk := 64 }; sampleDue s 0 = true ∧ sampleDue { s with clk := 63 } 0 = false) ∧
    (let s := { base with clk := 4, priv := { base.priv with swctl := 0x8000000000000000#64 } }; s.priv.swctl.getLsbD 63 = true ∧ s.priv.swept < s.clk.toNat / 4) ∧
    sweepPaused base.priv = true ∧ sweepPaused { base.priv with swctl := 0x8000000000200001#64 } = false := by
  decide +kernel

/-! ### Coherence -/

/-- A write and an atomic of sector 8192, the first of the data page. -/
def w0 : SecWrite := { sec := 8192, data := 5, mask := 1, dom := .bulk }
def op0 : HomeAtomic := { pa := 0x40000, wide := false, op := .add, x := 1, cmp := 0, dom := .rel }
/-- The shipped tables are loaded. -/
def proto0 : State := { base with protos := shippedTables }
/-- A cached sector of cluster 0. -/
def csec (d : BitVec 32) : CSector := { sec := 8192, data := 5, dirty := d, doms := 0, net := .bulk, who := none, mates := [], fetched := 0, stamp := 0, perm := .read, mode := .trk, tag := noTag }
def cached (d : BitVec 32) : State := { proto0 with ccs := [(0, [(8192, csec d)])] }
def line0 : List Nat := [8192, 8193, 8194, 8195]
def msg0 (k : MsgKind) : Msg := { Msg.blank k .l2 0 0 line0 8192 noTag 0 with data := [(8192, 5)] }
/-- A write-back under way, and a request that waits for its response. -/
def back0 : WriteBack := { home := .l2, child := 0, piece := line0, xs := [csec 0] }
def outst0 : Outst := { home := .l2, child := 0, piece := line0, resp := false, need := 0, got := 0, vt := 0, wt := some 8192, own := false }
/-- An entry with an acknowledgement pending. -/
def busyEntry (slot : Nat) (piece : List Nat) : DirEntry := { DirEntry.fresh slot piece with acks := 1 }
/-- A set for which a request waits. -/
def fullSet : State :=
  { proto0 with setq := [bareReq 0 0 noTag 8192] }

theorem met_requests :
    (∀ e ∈ requestForms .l2 63 noTag 8192 w0 op0, e.2.event ∈ [0, 1, 8, 9] → childOk .l2 63 = true ∧ mayAsk proto0 .l2 e.2 = true ∧ backPending proto0 .l2 63 e.2.sec = false) ∧
    (∀ e ∈ requestForms .l2 0 noTag 8192 w0 op0, e.2.event = 2 → childOk .l2 0 = true ∧ mayAsk (cached 0) .l2 e.2 = true ∧ backPending (cached 0) .l2 0 e.2.sec = false) ∧
    (∀ e ∈ requestForms .l2 64 noTag 8192 w0 op0, e.2.event = 7 → childOk .l2 64 = true ∧ mayAsk proto0 .l2 e.2 = true ∧ backPending proto0 .l2 64 e.2.sec = false) ∧
    (let s := { proto0 with ccs := [(0, [(8192, { csec 0 with perm := .writeThrough })])] }; ∀ e ∈ requestForms .l2 0 noTag 8192 w0 op0, e.2.event = 7 → mayAsk s .l2 e.2 = true ∧ backPending s .l2 0 e.2.sec = false) ∧
    (∀ e ∈ requestForms .l2 63 noTag 8192 w0 op0, e.2.event ∈ [2, 7] → mayAsk proto0 .l2 e.2 = false) ∧
    (let s := { proto0 with ccs := [(0, [(8192, { csec 0 with perm := .own })])] }
     (cacheGet s (.cc 0) 8192).any (fun x => x.mode == .trk && x.perm == .own) = true ∧ backPending s .l2 0 8192 = false) ∧
    (let r := (HomeRef.l2, { bareReq 9 64 noTag 8192 with dom := Dom.seq }); let s := { proto0 with reqs := [r, r] }; s.reqs[1]? = some r ∧ r ∈ s.reqs.take 1 ∧ samePair r r = true) ∧
    (let r := (HomeRef.l2, bareReq 0 0 noTag 8192); ({ proto0 with reqs := [r] } : State).reqs[0]? = some r ∧ r.2.dom ∉ [Dom.seq, .tso, .cau]) ∧
    (let s := { proto0 with net := [{ msg0 .fwdGets with toHome := false }] }; dataOwed s .l2 line0 = true ∧ setFull s line0 = false ∧ dirVictim s 8192 = none ∧ dirConflicts s .l2 line0 = []) := by
  decide +kernel

theorem met_requestsWait :
    (∀ e ∈ requestForms .l2 0 noTag 8192 w0 op0, backPending { proto0 with wbacks := [back0] } .l2 0 e.2.sec = (e.2.sec == 8192)) ∧
    childOk .l2 64 = true ∧ childOk .l2 65 = false ∧ childOk (.cc 0) 3 = true ∧ childOk (.cc 0) 4 = false ∧
    (let x := heldPiece (cached 0) .l2 0 (pieceOf (cached 0) noTag 8192).2; (∀ y ∈ x, y.dirty = 0) ∧ x.length = 1) ∧
    (let x := heldPiece (cached 1) .l2 0 (pieceOf (cached 1) noTag 8192).2; ∃ y ∈ x, y.dirty ≠ 0) ∧
    (let s := { proto0 with cores := tset proto0.cores 0 { proto0.core 0 with l1 := [(8192, csec 1)] } }; heldPiece s (.cc 0) 0 line0 = [csec 1]) ∧
    setFull fullSet line0 = true ∧
    (let s := dirPut proto0 .l2 (busyEntry 0 line0); (dirGet s .l2 0 line0).acks ≠ 0 ∧ setFull s line0 = false ∧ dirVictim s 8192 = none ∧ dirConflicts s .l2 line0 = []) ∧
    (let r := bareReq 0 0 noTag 8192
     let sp := servedPiece proto0 .l2 r
     let d := dirGet proto0 .l2 sp.1 sp.2
     let e := homeEntry proto0 .l2 d.slot d.st (classify d r) r.sec
     setFull proto0 sp.2 = false ∧ dirVictim proto0 (pieceKey sp.2) = none ∧ dirConflicts proto0 .l2 sp.2 = [] ∧ d.acks = 0 ∧ d.held = [] ∧ dataOwed proto0 .l2 sp.2 = false ∧ d.piece = sp.2 ∧ e.fan = 0 ∧ e.wr = false ∧ e.at_ = false ∧ e.log = false ∧ e.fwd = 0 ∧ e.resp ∈ [1, 2, 3]) := by
  decide +kernel

theorem met_messages :
    (∀ e ∈ messageForms 0, let s := { proto0 with net := [msg0 e.2] }; s.net[0]? = some (msg0 e.2) ∧ deliverable s 0 (msg0 e.2) = true) ∧
    (let s := { proto0 with net := [msg0 .inv, msg0 .fwdGetx] }; deliverable s 1 (msg0 .fwdGetx) = false) ∧ proto0.net[0]? = none ∧
    (∀ k ∈ [MsgKind.dataS, .dataSW, .dataE], let m := msg0 k; m.toHome = false ∧ (m.data.map Prod.fst).Nodup ∧ 8192 ∉ m.void ∧ sivHeld proto0 (childCache m.home m.child) 8192 = false ∧ 8192 ∈ (m.voided [8192]).void ∧ cacheGet proto0 (childCache .l2 0) 8192 = none) ∧
    ((msg0 .inv).kind = .inv ∧ (msg0 .dataS).copyFor .l2 0 = true) ∧
    (let m := { msg0 .update with dirty := [(8192, 1)] }; (m.dirty.map Prod.fst).Nodup ∧ m.dirty.lookup 8192 = some 1 ∧ m.data.lookup 8192 = some 5 ∧ cacheGet (cached 0) (childCache m.home m.child) 8192 = some (csec 0) ∧ (csec 0).mode = .trk ∧
      hostWaits proto0 [8192] = false) ∧
    (let m := { msg0 .dataS with toHome := true }; m.toHome = true ∧ (dirGet (sinkDirty proto0 m) m.home m.slot m.piece).acks = 0 ∧ (dirGet (sinkDirty proto0 m) m.home m.slot m.piece).held = [] ∧
      let s := dirPut proto0 .l2 { DirEntry.fresh 0 line0 with held := [bareReq 0 1 noTag 8192] }; (dirGet (sinkDirty s m) m.home m.slot m.piece).acks = 0 ∧ (dirGet (sinkDirty s m) m.home m.slot m.piece).held ≠ []) ∧
    (let m := { msg0 .invAck with toHome := true }
     let r : HeldReq := { (bareReq 7 1 noTag 8192) with ws := [w0] }
     let s := dirPut proto0 .l2 { busyEntry 0 line0 with cont := some r, st := 1 }
     let d := dirGet (sinkDirty s m) m.home m.slot m.piece
     let e := slotEntry (sinkDirty s m) d.slot d.st r.event
     d.acks ≤ 1 ∧ d.cont = some r ∧ d.held = [] ∧ s.setq = [] ∧ e.wr = true ∧ e.at_ = false ∧ e.fwd = 0 ∧ e.resp = 5) ∧
    (let m := { msg0 .invAck with toHome := true }; let s := dirPut proto0 .l2 { busyEntry 0 line0 with acks := 2 }; 1 < (dirGet (sinkDirty s m) m.home m.slot m.piece).acks) ∧
    cacheGet (cached 0) (childCache .l2 0) 8192 = some (csec 0) ∧
    (let m := msg0 .ack; let s := { proto0 with wbacks := [back0] }; m.up = false ∧ s.wbacks.find? (fun b => b.home == m.home && b.child == m.child && b.piece.contains m.sec) = some back0) ∧
    { msg0 .ack with up := true }.up = true ∧
    (let m := msg0 .wtack; outst0.home = m.home ∧ outst0.child = m.child ∧ m.sec ∈ outst0.piece ∧ outst0.resp = false ∧ outst0.got = m.acks ∧ outst0.got ≠ { m with acks := 1 }.acks) := by
  decide +kernel

theorem met_bootStage5 : let s := { State.reset with mgmt := { State.reset.mgmt with stage := 5 } }; s.mgmt.powered = true ∧ s.mgmt.bootHalt = false ∧ s.mgmt.ready = false ∧ s.mgmt.stage = 5 := by decide +kernel

/-! ### The host, resets, debugging and errors -/

/-- The device with its functions enabled. -/
def upState (s : State) : State := { s with host := { s.host with up := true, width := 16 }, mgmt := { s.mgmt with ready := true, powered := true } }

theorem met_host :
    base.host.up = false ∧ enabled base = false ∧ (upState base).host.up = true ∧ enabled (upState base) = true ∧
    (let s := upState (queued0 0x19000 0 3 [] base); fnActs s 16 (queueOf s 4095).ctx = true ∧ refused s 16 false = false ∧ refused { s with host := { s.host with run := [3] } } 3 false = true ∧ refused { s with host := { s.host with run := [3] } } 3 true = false ∧ ((queueOf s 0).tail ≤ 16 ∧ 16 - (queueOf s 0).head ≤ 2 ^ (queueOf s 0).log2n) ∧ 2 < (queueOf s 0).tail ∧
      2 ^ (queueOf s 0).log2n < 17 - (queueOf s 0).head ∧ fnActs s 3 (queueOf s 0).ctx = false ∧ svcGroups s 16 0 = []) ∧
    (hostMayWrite (upState base) 16 0 8 false = true ∧ hostMayWrite (upState base) 3 0 8 false = false ∧ hostMayWrite (upState base) 16 (hostBase - 8) 8 false = true) ∧
    (let s := upState { base with pops := [{ pop0 with pri := true }, pop0] }; s.pops[0]? = some { pop0 with pri := true } ∧ s.pops[1]? = some pop0 ∧ s.pops[2]? = none) ∧ (drainCtxs (upState base) (fnActs (upState base) 16)).isSome = true := by
  decide +kernel

theorem met_security :
    (let s := upState (withTenant base); tenantHoldsKey s 0 0 = true ∧ tenantHoldsKey s 0 63 = false ∧ 0 ∉ s.host.run ∧ 0 ∈ ({ s with host := { s.host with run := [0] } } : State).host.run) ∧
    (let s := upState (withTenant base); enabled s = true ∧ s.mgmt.powered = true ∧ s.mgmt.ready = true) ∧ (base.mgmt.powered = true ∧ base.mgmt.ready = false) ∧
    ({ base with mgmt := { base.mgmt with powered := false } } : State).mgmt.powered = false := by
  decide +kernel

/-- One DIMM of 64 GiB on each channel. -/
def dimms0 : List (List Nat) := List.replicate 8 [64]

theorem met_boot :
    (State.reset.mgmt.powered = true ∧ State.reset.mgmt.bootHalt = false ∧ State.reset.mgmt.ready = false ∧ measuredFail State.reset [] dimms0 16 64 = none) ∧
    (∀ st ∈ [2, 3, 4, 5, 6, 7, 8], let s := { State.reset with mgmt := { State.reset.mgmt with stage := st } }; s.mgmt.powered = true ∧ s.mgmt.bootHalt = false ∧ s.mgmt.ready = false ∧ measuredFail s [] dimms0 16 64 = none) ∧
    (∀ x ∈ [(3, [], [[32]], 16, 64, 4), (6, List.range Config.fibres, dimms0, 16, 64, 6), (7, [], dimms0, 4, 64, 7)], let s := { State.reset with mgmt := { State.reset.mgmt with stage := x.1 } }
      measuredFail s x.2.1 x.2.2.1 x.2.2.2.1 x.2.2.2.2.1 = some x.2.2.2.2.2) ∧
    (State.reset.host.up = false ∧ State.reset.fab.hosted = []) ∧
    (upState base).host.width ≠ 0 ∧ base.host.width = 0 := by
  decide +kernel

/-- Context 0 is held by a debugger, with its group as given. -/
def debugState (f : Group → Group) : State :=
  let s := onGroup f
  { s with dbg := [(0, { attached := true, allstop := true, bp := [], wp := [] })] }
def haltedState : State := debugState (fun g => { g with halted := true })

theorem met_debugControl :
    tget base.ctxs 5 = none ∧ tget base.ctxs 0 ≠ none ∧ dbgRefused base 0 false = some 3 ∧ dbgRefused base 5 false = some 2 ∧ dbgRefused haltedState 0 false = none ∧
    dbgTargets haltedState 0 (.group 1 0) = none ∧ dbgTargets haltedState 0 (.group 0 0) = some [(0, 0)] ∧ dbgTargets haltedState 0 .context = some [(0, 0)] ∧
    (dbgOf haltedState 0).allstop = true ∧ (let s := { haltedState with dbg := [(0, { attached := true, allstop := false, bp := [], wp := [] })] }; (dbgOf s 0).allstop = false ∧ dbgRefused s 0 false = none ∧ dbgTargets s 0 .context = some [(0, 0)]) ∧
    (haltedState.group? 0 0).map (fun g => g.halted) = some true ∧ ((debugState id).group? 0 0).map (fun g => g.halted) = some false ∧
    (tget bt0.ctxs 0).map (fun c => c.conf) = some true ∧ (tget base.ctxs 0).map (fun c => c.conf) = some false := by
  decide +kernel

theorem met_debugAccess :
    (∃ n, dbgRefused base 0 true = some n) ∧ (dbgRefused haltedState 0 true = none ∧ dbgGroup haltedState 0 1 0 = none) ∧
    (∃ bl y, dbgRefused (debugState id) 0 true = none ∧ dbgGroup (debugState id) 0 0 0 = some (bl, y) ∧ y.halted = false) ∧
    (∃ bl x, HeldGroup haltedState 0 0 0 bl x ∧ x.focus = none ∧ x.thread? 1 = none ∧ x.r.mask.getLsbD 1 = true ∧ x.r.mask &&& ~~~ laneBit 1 ≠ 0 ∧ x.freeEntries ≠ 0 ∧
      (readItem haltedState 0 bl x (.k 63)).isSome = true ∧ readItem haltedState 0 bl x (.k 64) = none ∧ (writeItem haltedState 0 0 bl x (.k 1) (toBytes 8 5)).isSome = true ∧ writeItem haltedState 0 0 bl x (.k 1) [] = none ∧
      readItem haltedState 0 bl x (.glb 0x18000 4) = some [0, 0, 0, 0] ∧ (∀ l, ctxSpans haltedState 0 0x900000 4 false = some l → poisoned haltedState l = true)) ∧
    (∃ bl x, HeldGroup (debugState (fun g => { g with halted := true, r := { g.r with mask := 2 } })) 0 0 0 bl x ∧ x.focus = none ∧ x.thread? 1 = none ∧ x.r.mask.getLsbD 1 = true ∧ x.r.mask &&& ~~~ laneBit 1 = 0) ∧
    (let f : Focus := { lane := 1, pushed := true, isThread := false, atWide := false, catchUp := none }
     let e : StackEntry := { below with mask := 1 }
     ∃ bl x, HeldGroup (debugState (fun g => { g with halted := true, focus := some f, stack := [e], r := { g.r with mask := 2, rpc := 0x10100 } })) 0 0 0 bl x ∧ x.focus = some f ∧ x.stack = [e] ∧ f.pushed = true ∧
      x.r.mask = laneBit f.lane ∧ e.kd = false ∧ e.rpc = x.r.rpc ∧ e.pc ≠ x.r.pc ∧ e.pc ≠ e.rpc) :=
  ⟨⟨3, by decide +kernel⟩, by decide +kernel, ⟨blk0 grp0, grp0, by decide +kernel⟩,
   ⟨blk0 { grp0 with halted := true }, { grp0 with halted := true }, ⟨by decide +kernel, by decide +kernel, by decide +kernel, by decide +kernel⟩, by decide +kernel⟩,
   ⟨blk0 { grp0 with halted := true, r := { grp0.r with mask := 2 } }, { grp0 with halted := true, r := { grp0.r with mask := 2 } }, ⟨by decide +kernel, by decide +kernel, by decide +kernel, by decide +kernel⟩, by decide +kernel⟩,
   ⟨_, _, ⟨by decide +kernel, rfl, by decide +kernel, by decide +kernel⟩, by decide +kernel⟩⟩

/-- A full stack: FOCUS finds no free entry. -/
theorem met_focusFull : ∃ bl x, HeldGroup (debugState (fun g => { g with halted := true, stack := List.replicate 63 below })) 0 0 0 bl x ∧ x.focus = none ∧ x.thread? 1 = none ∧ x.r.mask.getLsbD 1 = true ∧
    x.r.mask &&& ~~~ laneBit 1 ≠ 0 ∧ x.freeEntries = 0 :=
  ⟨_, _, ⟨by decide +kernel, rfl, by decide +kernel, by decide +kernel⟩, by decide +kernel⟩

/-- The group runs under MIRROR. -/
def mirrored : State := under { pkt0 with flags := 8 } grp0

/-- An error has struck lane 1, and the path holds lane 1 and not lane 33. -/
theorem met_mirrorCheck :
    let s := under { pkt0 with flags := 8 } { grp0 with strike := 2, r := { grp0.r with mask := 2 } }
    (view? s).isSome = true ∧ (V s).r.awaiting = false ∧ (V s).mismatch (hl 1 2 3 0) = 2 ∧ (V s).within false [((hl 1 2 3 0).d, 1), ((hl 1 2 3 0).a, 1)] = true := by
  decide +kernel

theorem met_errors :
    ((btQueueOf (loading [cmd0] base) 0 false)[0]? = some cmd0 ∧ (btQueueOf (loading [{ cmd0 with btg := true }] base) 0 false)[0]? = some { cmd0 with btg := true } ∧ (btQueueOf base 0 true)[0]? = none) ∧
    (((queued [mcmd0 true]).core 0).mtx[0]? = some (mcmd0 true) ∧ (mcmd0 true).started = true ∧ (mcmd0 false).started = false) ∧
    (∃ x, base.group? 0 0 = some x ∧ x.r.mask ≠ 0) ∧
    (∃ bl g, tget ({ under { pkt0 with flags := 2 } grp0 with blocks := [(0, { blk0 grp0 with replays := 3 })] } : State).blocks 0 = some bl ∧ tget (under { pkt0 with flags := 2 } grp0).grids bl.grid = some g ∧ g.pkt.repl = true ∧ 3 ≤ bl.replays) ∧
    (∃ bl g, tget base.blocks 0 = some bl ∧ tget base.grids bl.grid = some g ∧ g.pkt.repl = false ∧ ∃ x, tget bl.groups 0 = some x ∧ x.run ≠ .retired) ∧
    (∃ bl g, tget (under { pkt0 with flags := 2 } grp0).blocks 0 = some bl ∧ tget (under { pkt0 with flags := 2 } grp0).grids bl.grid = some g ∧ g.pkt.repl = true ∧ bl.replays < 3) ∧
    (∃ bl x, tget mirrored.blocks 0 = some bl ∧ mirrored.group? 0 0 = some x ∧ (packetOf mirrored bl).flags.getLsbD 3 = true ∧ x.run ≠ .retired) ∧
    (∃ bl x, tget base.blocks 0 = some bl ∧ base.group? 0 0 = some x ∧ (packetOf base bl).flags.getLsbD 3 = false) :=
  ⟨by decide +kernel, by decide +kernel, ⟨grp0, by decide +kernel⟩, ⟨{ blk0 grp0 with replays := 3 }, Grid.fresh 0 0 0 { pkt0 with flags := 2 }, by decide +kernel⟩,
   ⟨blk0 grp0, Grid.fresh 0 0 0 pkt0, by decide +kernel, by decide +kernel, by decide +kernel, grp0, by decide +kernel⟩,
   ⟨blk0 grp0, Grid.fresh 0 0 0 { pkt0 with flags := 2 }, by decide +kernel⟩, ⟨_, _, rfl, rfl, by decide +kernel⟩, ⟨_, _, rfl, rfl, by decide +kernel⟩⟩

/-! ### Words, written out from R33 and R41 to R57 -/

/-- An unconditional word with LA 0 from its fields (R33): U, OP, D, A, B, C, MOD. -/
def wd (u op d a b c md : Nat) : Word := BitVec.ofNat 64 (u * 2 ^ 63 + 7 * 2 ^ 56 + op * 2 ^ 47 + d * 2 ^ 39 + a * 2 ^ 31 + b * 2 ^ 23 + c * 2 ^ 15 + md)
/-- Words decode to an instruction, its encoding is the words, and the instruction is well-formed. -/
def reads (l : List (List Word × Instr)) : Bool := l.all (fun e => decodeWords e.1 == .ok (e.2, []) && encode e.2 == e.1 && WellFormed e.2)

def imm (ty : IntTy) (f : IntMod → IntMod) : IntMod := f (im ty)
def fmm (ty : FTy) (f : FpMod → FpMod) : FpMod := f (fm ty)

def intWords : List (List Word × Instr) :=
  [([wd 0 0x00 1 2 3 0 0x1800], .add (hl 1 2 3 0) (imm .i32 (fun m => { m with sat := true }))), ([wd 0 0x01 1 2 3 0 0x2400], .sub (hl 1 2 3 0) (imm .ui32 (fun m => { m with bk := true }))),
   ([wd 0 0x02 2 4 6 0 0x3000], .min (hl 2 4 6 0) (im .i64)), ([wd 1 0x03 1 3 5 0 0x4000], .max (hg 1 3 5 0) (im .ui64)), ([wd 0 0x04 1 2 0 0 0x5040], .abs (hl 1 2 0 0) (imm .i16x2 (fun m => { m with swa := 1 }))),
   ([wd 0 0x05 1 2 3 0 0x6020], .mul (hl 1 2 3 0) (imm .ui16x2 (fun m => { m with swb := 2 }))), ([wd 0 0x06 1 2 0 5 0x1100], .mulh (hl 1 2 0 5) (imm .i32 (fun m => { m with ck := .kreg }))),
   ([wd 0 0x07 1 2 3 200 0x1200], .mad (hl 1 2 3 200) (imm .i32 (fun m => { m with ck := .immZ }))), ([wd 0 0x08 1 2 3 0 0x2000], .divu (hl 1 2 3 0) (im .ui32)), ([wd 0 0x09 1 2 3 0 0x1000], .divs (hl 1 2 3 0) (im .i32)),
   ([wd 0 0x0A 1 2 3 0 0x2000], .remu (hl 1 2 3 0) (im .ui32)), ([wd 1 0x0B 1 2 3 0 0x3000], .rems (hg 1 2 3 0) (im .i64)), ([wd 0 0x0C 1 2 0 255 0x1300], .and (hl 1 2 0 255) (imm .i32 (fun m => { m with ck := .immS }))),
   ([wd 0 0x0D 1 2 3 0 0x1000], .or (hl 1 2 3 0) (im .i32)), ([wd 0 0x0E 1 2 3 0 0x1000], .xor (hl 1 2 3 0) (im .i32)), ([wd 0 0x0F 1 2 3 4 0x0960], .blut (hl 1 2 3 4) 0x96), ([wd 0 0x10 1 2 3 0 0x1000], .shl (hl 1 2 3 0) (im .i32)),
   ([wd 0 0x11 1 2 3 0 0x1000], .shr (hl 1 2 3 0) (im .i32)), ([wd 0 0x12 1 2 3 0 0x1000], .sar (hl 1 2 3 0) (im .i32)), ([wd 0 0x13 1 2 3 4 0x1000], .fsh (hl 1 2 3 4) (im .i32)), ([wd 0 0x14 1 2 3 4 0x1000], .bfx (hl 1 2 3 4) (im .i32)),
   ([wd 0 0x15 1 2 3 4 0x1000], .bfi (hl 1 2 3 4) (im .i32)), ([wd 0 0x16 1 2 0 0 0x1000], .popc (hl 1 2 0 0) (im .i32)), ([wd 0 0x17 1 2 0 0 0x1000], .clz (hl 1 2 0 0) (im .i32)), ([wd 0 0x18 1 2 0 0 0x1000], .ctz (hl 1 2 0 0) (im .i32)),
   ([wd 0 0x19 1 2 0 0 0x1000], .brev (hl 1 2 0 0) (im .i32)), ([wd 0 0x1A 1 2 3 6 0x1000], .sel (hl 1 2 3 6) (im .i32)), ([wd 0 0x1B 1 2 3 0 0x1005], .iset (hl 1 2 3 0) (im .i32) .ge), ([wd 0 0x1C 4 2 3 0 0x2002], .cmp (hl 4 2 3 0) (im .ui32) .lt),
   ([wd 0 0x1D 2 4 7 3 0x3200], .lea (hl 2 4 7 3) (imm .i64 (fun m => { m with ck := .immZ }))), ([wd 0 0x1E 1 2 0 0 0x5080], .mov (hl 1 2 0 0) (imm .i16x2 (fun m => { m with swa := 2 }))), ([wd 0 0x1F 6 0 0 0 1, 5], .movi (hl 6 0 0 0) true 5)]

def fpWords : List (List Word × Instr) :=
  [([wd 0 0x20 1 2 3 0 0x000B], .fadd (hl 1 2 3 0) (fmm .f32 (fun m => { m with na := true, rm := .rup }))), ([wd 0 0x21 2 4 6 0 0x1004], .fmul (hl 2 4 6 0) (fmm .f64 (fun m => { m with nb := true }))), ([wd 0 0x22 1 2 3 4 0x4051], .ffma (hl 1 2 3 4) (fmm .f16 (fun m => { m with swa := 1, swb := 1, rm := .rtz }))),
   ([wd 0 0x23 1 2 3 0 0x2000], .fmin (hl 1 2 3 0) (fm .f16x2)), ([wd 0 0x24 1 2 3 0 0x3000], .fmax (hl 1 2 3 0) (fm .bf16x2)), ([wd 0 0x25 4 2 3 0 0x4007], .fcmp (hl 4 2 3 0) (fm .f16) .uno), ([wd 0 0x26 4 2 3 0 0x5006], .fset (hl 4 2 3 0) (fm .bf16) .ord),
   ([wd 0 0x27 1 2 0 0 0x0800], .frcp (hl 1 2 0 0) (fmm .f32 (fun m => { m with sat := true }))), ([wd 0 0x28 1 2 0 0 0x0008], .frsq (hl 1 2 0 0) (fmm .f32 (fun m => { m with na := true }))), ([wd 0 0x29 1 2 0 0 0x0001], .fsqrt (hl 1 2 0 0) (fmm .f32 (fun m => { m with rm := .rtz }))),
   ([wd 0 0x2A 1 2 3 0 0x0002], .fdiv (hl 1 2 3 0) (fmm .f32 (fun m => { m with rm := .rdn }))), ([wd 0 0x2B 1 2 0 0 0], .fexp2 (hl 1 2 0 0) (fm .f32)), ([wd 0 0x2C 1 2 0 0 0], .flog2 (hl 1 2 0 0) (fm .f32)), ([wd 0 0x2D 1 2 0 0 0], .fsin (hl 1 2 0 0) (fm .f32)),
   ([wd 0 0x2E 1 2 0 0 0], .fcos (hl 1 2 0 0) (fm .f32)), ([wd 0 0x2F 1 2 0 0 3], .frnd (hl 1 2 0 0) (fmm .f32 (fun m => { m with rm := .rup }))), ([wd 0 0x30 1 2 0 0 0x1000], .fclass (hl 1 2 0 0) (fm .f64)), ([wd 0 0x31 1 2 3 0 0], .fscale (hl 1 2 3 0) (fm .f32)),
   ([wd 0 0x32 1 2 3 4 0x2000], .fdot2 (hl 1 2 3 4) (fm .f16x2)), ([wd 0 0x33 1 2 3 4 0x3000], .fdot4 (hl 1 2 3 4) (fm .f32) .e5e4)]

def cvWords : List (List Word × Instr) :=
  [([wd 0 0x40 1 2 0 0 0x1018], .cvt (hl 1 2 0 0) { cm .f16 .f32 with rm := .rtz, sat := true }), ([wd 0 0x41 1 2 3 0 0x2002], .pack (hl 1 2 3 0) { cm .e4m3 .f32 with bs := 1 }), ([wd 0 0x42 1 2 0 0 0x0286], .unpack (hl 1 2 0 0) { cm .f32 .e5m2 with bs := 3 }),
   ([wd 0 0x43 1 2 0 0 0x0100], .amax (hl 1 2 0 0) (cm .f32 .f16)), ([wd 0 0x44 1 2 0 0 0x3001], .qscale (hl 1 2 0 0) { cm .n4 .f32 with auto := true }), ([wd 0 0x45 1 2 3 0 0x294C], .quant (hl 1 2 3 0) { cm .e5m2 .f16 with rm := .sr, sat := true, bs := 2 }),
   ([wd 0 0x46 4 2 3 0 0x1B02], .deq (hl 4 2 3 0) { cm .bf16 .n4 with bs := 1 }), ([wd 0 0x47 0 2 0 0 0], .sround (hl 0 2 0 0)), ([wd 0 0x48 1 2 3 9 0x0100], .prmt (hl 1 2 3 9) .kreg),
   ([wd 0 0x50 2 4 3 0 0x3FA0], .shfl (hl 2 4 3 0) { xm 3 with ty := .f64, bk := true, seg := 5 }), ([wd 0 0x51 1 2 0 0 0x20C0], .qxch (hl 1 2 0 0) (xm 2)), ([wd 0 0x52 1 2 3 0 0x00C0], .qbcast (hl 1 2 3 0) (xm 0)), ([wd 0 0x53 9 2 0 0 0x50C0], .vote (hl 9 2 0 0) (xm 5)),
   ([wd 0 0x54 2 4 0 0 0x0A00], .matchLanes (hl 2 4 0 0) { xm 0 with ty := .i64, seg := 0 }), ([wd 0 0x55 9 2 0 0 0x26C0], .redux (hl 9 2 0 0) { xm 2 with ty := .f32 }), ([wd 0 0x56 1 2 0 0 0x0490], .scan (hl 1 2 0 0) { xm 0 with ty := .ui32, seg := 4, inc := true })]

def controlWords : List (List Word × Instr) :=
  [([wd 0 0x60 0 0 0 255 0x7FFE], .bra (hl 0 0 0 255) 0x7FFE), ([wd 1 0x61 0 0 0 0 0, 0x10000], .braFar (hg 0 0 0 0) 0x10000), ([wd 0 0x62 1 2 3 4 0x7FE0], .brx (hl 1 2 3 4) 1023), ([wd 0 0x63 0 0 0 0 0], .join (hl 0 0 0 0)), ([wd 1 0x64 5 0 0 1 3], .call (hg 5 0 0 1) 3),
   ([wd 1 0x65 5 0 0 0 0, 0x10000], .callFar (hg 5 0 0 0) 0x10000), ([wd 1 0x66 0 7 0 0 0], .ret (hg 0 7 0 0)), ([wd 1 0x67 0 7 0 0 0], .jmpi (hg 0 7 0 0)), ([wd 1 0x68 0 0 0 0 0], .exit (hg 0 0 0 0)), ([wd 1 0x69 0 0 0 0 0], .recall (hg 0 0 0 0)),
   ([wd 1 0x71 0 0 0 0 0x12], .barw (hg 0 0 0 0) { cnt := false, cl := true, n := 2 }), ([0x8739000000000010], .bars (hg 0 0 0 0) { cnt := false, cl := true, n := 0 }), ([0x8739800607800000], .tbinit (hg 0 12 15 0)), ([wd 1 0x74 0 12 0 255 0], .tbarr (hg 0 12 0 255)),
   ([wd 1 0x75 0 12 15 0 0], .tbexp (hg 0 12 15 0)), ([0x873B000600008000], .tbwait (hg 0 12 0 1)), ([wd 1 0x77 3 12 0 15 0], .tbtest (hg 3 12 0 15)), ([wd 0 0x78 0 2 3 5 0x168E], .waitv (hl 0 2 3 5) { dom := .rel, sc := .dev, size := .b4, ord := .none, rp := 7, na := false }),
   ([wd 1 0x79 0 0 0 0 0x0900], .fence (hg 0 0 0 0) .bulk .sys true), ([0x873D808100000000], .gset (hg 1 2 0 0))]

def mmd (d : Dom) (sc : Scope) (z : Size) : MemMod := { dom := d, sc := sc, size := z, ord := .none, rp := 7, na := false }
def gmd (d : Dom) (sc : Scope) (z : Size) : GatMod := { dom := d, sc := sc, size := z, iw := false, sx := false, scl := 0, na := false }
def memoryWords : List (List Word × Instr) :=
  [([0x074004010000068E], .ldGlb (hl 8 2 0 0) (mmd .bulk .dev .b4)), ([wd 0 0x81 4 2 3 1 0x428E], .ldLoc (hl 4 2 3 1) (mmd .seq .blk .b4)),
   ([wd 0 0x82 2 2 3 0 0x04CF], .ldNbr (hl 2 2 3 0) { mmd .bulk .cls .b8 with na := true }), ([wd 0 0x83 4 2 3 0 0x030E], .ldAbuf (hl 4 2 3 0) (mmd .bulk .blk .b16)), ([wd 0 0x84 4 2 3 0 0x000E], .ldZbuf (hl 4 2 3 0) (mmd .bulk .grp .b1)),
   ([wd 0 0x85 4 2 3 0x80 0x18AE], .stGlb (hl 4 2 3 0x80) { mmd .rel .sys .b4 with ord := .rls }), ([wd 1 0x86 5 2 3 0 0x20CE], .stLoc (hg 5 2 3 0) (mmd .cau .grp .b8)), ([wd 0 0x87 4 2 3 0 0x344E], .stNbr (hl 4 2 3 0) (mmd .tso .cls .b2)), ([wd 0 0x88 4 2 3 0 0x028E], .stAbuf (hl 4 2 3 0) (mmd .bulk .blk .b4)),
   ([wd 0 0x89 4 2 3 0 0x028E], .stZbuf (hl 4 2 3 0) (mmd .bulk .blk .b4)), ([wd 0 0x8A 8 4 6 0 0x16A5], .gldGlb (hl 8 4 6 0) { gmd .rel .dev .b4 with iw := true, scl := 2, na := true }), ([wd 0 0x8B 8 4 6 0 0x0298], .gldLoc (hl 8 4 6 0) { gmd .bulk .blk .b4 with sx := true, scl := 4 }),
   ([wd 0 0x8C 8 4 6 0 0x0680], .gstGlb (hl 8 4 6 0) (gmd .bulk .dev .b4)), ([wd 0 0x8D 8 4 6 0 0x0282], .gstLoc (hl 8 4 6 0) { gmd .bulk .blk .b4 with scl := 1 }), ([wd 0 0x8E 8 4 6 9 0x16BE], .atomGlb (hl 8 4 6 9) { mmd .rel .dev .b4 with ord := .ar }), ([wd 0 0x8F 8 4 6 10 0x02CE], .atomLoc (hl 8 4 6 10) (mmd .bulk .blk .b8)),
   ([wd 0 0x90 8 4 6 7 0x16AE], .redGlb (hl 8 4 6 7) { mmd .rel .dev .b4 with ord := .rls }), ([wd 0 0x91 8 4 6 0 0x028E], .redLoc (hl 8 4 6 0) (mmd .bulk .blk .b4)), ([wd 0 0x92 8 4 6 0 0x169E], .lr (hl 8 4 6 0) { mmd .rel .dev .b4 with ord := .acq }), ([wd 0 0x93 8 4 6 0 0x16AE], .sc (hl 8 4 6 0) { mmd .rel .dev .b4 with ord := .rls }),
   ([wd 0 0x94 8 4 6 9 0x068E], .mxldGlb (hl 8 4 6 9) (mmd .bulk .dev .b4)), ([wd 0 0x95 8 4 6 9 0x068E], .mxstGlb (hl 8 4 6 9) (mmd .bulk .dev .b4)), ([wd 0 0x96 8 4 6 9 0x028E], .mxldLoc (hl 8 4 6 9) (mmd .bulk .blk .b4)), ([wd 0 0x97 8 4 6 9 0x028E], .mxstLoc (hl 8 4 6 9) (mmd .bulk .blk .b4)),
   ([wd 0 0x98 6 4 6 1 0x000E], .probe (hl 6 4 6 1) (mmd .bulk .grp .b1)), ([wd 1 0x99 0 4 6 0 0x000E], .pgin (hg 0 4 6 0) (mmd .bulk .grp .b1)), ([wd 0 0x9A 0 4 6 0 0x000F], .pfch (hl 0 4 6 0) { mmd .bulk .grp .b1 with na := true }), ([wd 1 0x9B 0 4 6 0 0x060E], .wbinv (hg 0 4 6 0) (mmd .bulk .dev .b1))]

def mma (f : Nat) : MmaMod := { fmt := BitVec.ofNat 4 f, pr := false, zi := false, g := false, slot := 0 }
def engineWords : List (List Word × Instr) :=
  [([0x8750830204070260], .btg (hg 6 4 8 14) { dom := .bulk, sc := .blk, dir := .glbAbuf, g := false, slot := 0 }), ([0x8751010686000000], .tile (hg 2 13 12 0)), ([wd 1 0xA3 5 63 0 0 0], .tileq (hg 5 63 0 0)), ([wd 1 0xA4 5 6 7 8 7], .objdcl (hg 5 6 7 8) 7),
   ([wd 1 0xA5 0 6 0 0 0], .objrel (hg 0 6 0 0)), ([wd 1 0xB0 8 3 5 9 0x0A00], .mmaF16 (hg 8 3 5 9) { mma 1 with zi := true }), ([wd 1 0xB1 8 3 5 9 0x1800], .mmaF8 (hg 8 3 5 9) (mma 3)), ([wd 1 0xB2 8 3 5 9 0x1400], .mmaI8 (hg 8 3 5 9) { mma 2 with pr := true }),
   ([wd 1 0xB4 8 3 5 9 0x001E], .mmaMx8 (hg 8 3 5 9) { mma 0 with g := true, slot := 7 }), ([wd 1 0xB5 8 0 0 9 0], .mzero (hg 8 0 0 9)), ([wd 1 0xB6 0 0 0 0 0], .mrdy (hg 0 0 0 0)), ([wd 1 0xB7 8 0 0 0 0], .mbatch (hg 8 0 0 0)), ([wd 1 0xB8 0 8 0 0 0], .mwait (hg 0 8 0 0)),
   ([wd 1 0xB9 3 8 0 9 0x3000], .mqnt (hg 3 8 0 9) .n4)]

def fb (d : Dom) (z : Size) (o : Ord) (op : AtOp) : FabMod := { dom := d, size := z, ord := o, op := op }
def systemWords : List (List Word × Instr) :=
  [([wd 0 0xC1 8 2 4 6 0x3800], .rmst (hl 8 2 4 6) (fb .tso .b1 .none .add)), ([wd 0 0xC2 8 2 4 6 0x18B9], .rmat (hl 8 2 4 6) (fb .rel .b4 .ar .cas)), ([wd 0 0xC3 8 2 4 6 0x0900], .xch (hl 8 2 4 6) (fb .bulk .b16 .none .add)), ([wd 0 0xC4 8 2 4 6 0x18A0], .xexp (hl 8 2 4 6) (fb .rel .b4 .rls .add)),
   ([0x0762800000000800], .rfence (hl 0 0 0 0) .bulk), ([wd 1 0xC6 5 6 0 0 0], .slotq (hg 5 6 0 0)), ([0x87680A0000000000, 0x40], .launch (hg 20 0 0 0) 0x40), ([wd 1 0xD1 0 0 0 0 0], .trig (hg 0 0 0 0)), ([wd 1 0xD2 0 0 0 0 0], .yield (hg 0 0 0 0)), ([0x8769801F80640000], .sleep (hg 0 63 0 200)),
   ([0x876A000000000000, 9], .stepb (hg 0 0 0 0) 9), ([0x876A800000000000], .stepe (hg 0 0 0 0)), ([0x0770000000000000], .nop (hl 0 0 0 0)), ([0x0170850100008005], .svc { hl 10 2 0 1 with ps := 1 } 5), ([0x0F72030800000000], .sysrd { hl 6 0x10 0 0 with la := 1 }),
   ([0x8772800A02800000], .syswr (hg 0 0x14 5 0)), ([wd 1 0xE7 2 4 5 0 0], .ctxctlCreate (hg 2 4 5 0)), ([wd 1 0xE7 2 4 5 0 1], .ctxctlDestroy (hg 2 4 5 0)), ([wd 1 0xE7 2 4 5 0 2], .ctxctlTenant (hg 2 4 5 0)), ([wd 1 0xE7 2 4 5 0 3], .ctxctlQueue (hg 2 4 5 0)),
   ([0x8773810202800004], .ctxctlWindow (hg 2 4 5 0)), ([wd 1 0xE7 2 4 5 0 5], .ctxctlExpasg (hg 2 4 5 0)), ([wd 1 0xE7 2 4 5 0 6], .ctxctlExpwr (hg 2 4 5 0)), ([wd 1 0xE7 2 4 5 0 7], .ctxctlTlbinv (hg 2 4 5 0)), ([wd 1 0xE7 2 4 5 0 8], .ctxctlPopdone (hg 2 4 5 0)),
   ([wd 1 0xE7 2 4 5 0 9], .unallocatedOpcode (wd 1 0xE7 2 4 5 0 9)), ([0xFFFFFFFFFFFFFFFF], .unallocatedOpcode 0xFFFFFFFFFFFFFFFF)]

theorem test_integerWords : reads intWords = true := by decide +kernel
theorem test_floatWords : reads fpWords = true := by decide +kernel
theorem test_conversionWords : reads cvWords = true := by decide +kernel
theorem test_controlWords : reads controlWords = true := by decide +kernel
theorem test_memoryWords : reads memoryWords = true := by decide +kernel
theorem test_engineWords : reads engineWords = true := by decide +kernel
theorem test_systemWords : reads systemWords = true := by decide +kernel
theorem test_specWords : reads specWords = true := by decide +kernel
/-- The word of all zero bits names a reserved type (R41). -/
theorem test_zeroWord : (match decodeWords [0] with | .ok _ => false | .error _ => true) = true := by decide +kernel

/-! ### Terms that the checks of WellFormed refuse -/

/-- One change that no check accepts: LA on an instruction that is not long-latency (R38), the form that it has not (R37), or PN without a predicate (R36). -/
def spoilt (h : Hdr) : List Hdr := [{ h with pn := true, ps := 7 }]

def headersOf : List ((Hdr → Instr) × Hdr) :=
  [((fun h => .add h (im .i32)), hl 1 2 3 0), ((fun h => .abs h (im .i32)), hl 1 2 0 0), ((fun h => .mad h (im .i32)), hl 1 2 3 4), ((fun h => .cmp h (im .i32) .eq), hl 1 2 3 0), ((fun h => .sel h (im .i32)), hl 1 2 3 4), ((fun h => .lea h (imm .i32 (fun m => { m with ck := .immZ }))), hl 1 2 3 4),
   ((fun h => .blut h 0), hl 1 2 3 4), ((fun h => .movi h false 0), hl 1 0 0 0), ((fun h => .fadd h (fm .f32)), hl 1 2 3 0), ((fun h => .frcp h (fm .f32)), hl 1 2 0 0), ((fun h => .ffma h (fm .f32)), hl 1 2 3 4), ((fun h => .fcmp h (fm .f32) .eq), hl 1 2 3 0), ((fun h => .fscale h (fm .f32)), hl 1 2 3 0),
   ((fun h => .fdot2 h (fm .f16x2)), hl 1 2 3 4), ((fun h => .cvt h (cm .f16 .f32)), hl 1 2 0 0), ((fun h => .sround h), hl 0 2 0 0), ((fun h => .shfl h (xm 0)), hl 1 2 3 0), ((fun h => .bra h 0), hl 0 0 0 0), ((fun h => .brx h 0), hl 1 2 3 4), ((fun h => .exit h), hg 0 0 0 0),
   ((fun h => .fence h .rel .dev false), hl 0 0 0 0), ((fun h => .gset h), hg 1 2 0 0), ((fun h => .ldGlb h (mmd .bulk .dev .b4)), hl 8 2 0 0), ((fun h => .probe h (mmd .bulk .grp .b1)), hl 6 4 6 1), ((fun h => .tile h), hg 2 13 12 0), ((fun h => .mmaF16 h (mma 0)), hg 8 3 5 9), ((fun h => .rfence h .rel), hl 0 0 0 0),
   ((fun h => .nop h), hl 0 0 0 0), ((fun h => .sysrd h), hl 6 0x10 0 0), ((fun h => .ctxctlQueue h), hg 2 4 5 0)]

theorem test_predicateNegation : headersOf.all (fun e => WellFormed (e.1 e.2) && (spoilt e.2).all (fun h => !WellFormed (e.1 h))) = true := by decide +kernel

/-- A term for each check: one field that it refuses. -/
def refused1 : List Instr :=
  [.add (hl 1 2 3 5) (im .i32), .min (hl 1 2 3 0) (imm .i32 (fun m => { m with sat := true })), .add (hl 1 2 4 0) (im .i64), .abs (hl 1 2 3 0) (im .i32), .abs (hl 1 2 0 0) (im .ui32), .mad (hg 1 2 3 64) (im .i32), .cmp (hl 7 2 3 0) (im .i32) .eq, .sel (hl 1 2 3 7) (im .i32),
   .lea (hl 1 2 3 8) (imm .i32 (fun m => { m with ck := .immZ })), .blut (hg 64 2 3 4) 0, .movi (hl 1 2 0 0) false 0, .movi (hg 2 0 0 0) true 0, .fadd (hl 1 2 3 0) (fmm .f32 (fun m => { m with rm := .sr })), .fmin (hl 1 2 3 0) (fmm .f32 (fun m => { m with rm := .rtz })), .frcp (hl 1 2 3 0) (fm .f32),
   .frsq (hl 1 2 0 0) (fmm .f32 (fun m => { m with rm := .rtz })), .frnd { hl 1 2 0 0 with la := 1 } (fm .f32), .fclass (hl 1 3 0 0) (fm .f64), .ffma (hl 1 2 3 4) (fmm .f32 (fun m => { m with swa := 1 })), .fcmp (hl 1 2 3 0) (fm .f16x2) .eq, .fset (hl 1 2 3 0) (fmm .f32 (fun m => { m with na := true })) .eq,
   .fscale (hl 1 2 3 0) (fmm .f32 (fun m => { m with nb := true })), .fdot2 (hl 1 2 3 4) (fm .f32), .fdot4 (hl 1 2 3 4) (fmm .f32 (fun m => { m with rm := .rup })) .e4e4, .cvt (hl 1 2 0 0) (cm .n4 .f32), .cvt (hl 1 2 0 0) { cm .f32 .f16 with rm := .sr }, .pack (hl 1 2 3 0) (cm .f16 .f16),
   .unpack (hl 1 2 0 0) (cm .f16 .f32), .amax (hg 1 2 0 0) (cm .f32 .f32), .qscale (hl 1 2 0 4) (cm .n4 .f32), .quant (hl 1 2 3 0) (cm .n4 .f32), .deq (hl 2 2 3 0) (cm .f16 .n4), .sround (hl 1 2 0 0), .prmt (hl 1 2 3 4) .immZ, .shfl (hl 1 2 3 0) (xm 6), .shfl (hl 1 2 3 0) (xm 5), .qxch (hl 1 2 0 0) (xm 3),
   .qbcast (hl 1 2 3 0) (xm 1), .vote (hl 7 2 0 0) (xm 0), .matchLanes (hl 1 2 0 0) (xm 0), .redux (hl 9 2 0 0) (xm 0), .scan (hl 1 2 0 0) { xm 3 with ty := .i32 }]

def refused2 : List Instr :=
  [.bra (hl 1 0 0 0) 0, .braFar (hl 0 0 0 1) 0, .brx (hg 1 2 3 4) 0, .join { hl 0 0 0 0 with ps := 1 }, .call (hl 5 0 0 0) 0, .callFar (hg 64 0 0 0) 0, .ret (hg 0 64 0 0), .exit (hg 1 0 0 0), .bara (hg 0 0 0 0) { cnt := false, cl := true, n := 4 }, .barw (hg 0 0 5 0) { cnt := true, cl := false, n := 0 },
   .tbinit (hg 0 1 2 3), .tbarr (hg 0 12 0 0), .tbwait (hg 0 12 0 16), .tbtest (hg 7 12 0 0), .waitv (hl 0 2 3 6) (mmd .rel .dev .b4), .fence (hl 0 0 0 0) .rel .dev true, .brg (hl 0 0 0 0) .rel .dev .rel, .gset (hg 8 2 0 0), .ldGlb (hl 8 2 0 0) { mmd .bulk .dev .b4 with ord := .acq }, .ldLoc (hl 8 2 0 0) (mmd .bulk .dev .b4),
   .stGlb (hl 8 2 0 0) { mmd .bulk .dev .b4 with rp := 0 }, .ldGlb (hl 7 2 0 0) (mmd .bulk .dev .b8), .gldGlb (hl 8 2 0 0) { gmd .bulk .dev .b4 with scl := 5 }, .gstGlb (hl 8 2 1 0) { gmd .bulk .dev .b4 with iw := true }, .atomGlb (hl 8 2 3 11) (mmd .bulk .dev .b4), .redGlb (hl 8 2 3 8) (mmd .bulk .dev .b4),
   .lr (hl 8 2 3 0) { mmd .rel .dev .b4 with ord := .rls }, .mxldGlb (hl 8 63 3 9) (mmd .bulk .dev .b4), .probe (hl 7 4 6 1) (mmd .bulk .grp .b1), .pgin (hg 1 4 6 0) (mmd .bulk .grp .b1), .pfch (hl 0 4 6 0) (mmd .bulk .dev .b1), .wbinv (hg 0 4 6 0) (mmd .bulk .grp .b1),
   .bt (hg 6 4 61 12) { dom := .bulk, sc := .blk, dir := .glbAbuf, g := false, slot := 0 }, .btg (hg 6 4 8 12) { dom := .bulk, sc := .blk, dir := .locGlb, g := false, slot := 0 }, .tile (hg 2 13 12 1), .tileq (hg 5 64 0 0), .objdcl (hg 5 6 7 63) 0, .objrel (hg 1 6 0 0), .mmaF16 (hg 8 3 5 9) (mma 2),
   .mzero (hg 8 1 0 9), .mbatch (hg 8 1 0 0), .mqnt (hg 3 8 0 9) .f16, .rmld (hl 8 2 4 6) (fb .rel .b4 .rls .add), .rmst { hl 8 2 4 6 with la := 1 } (fb .rel .b4 .none .add), .rmat (hl 8 2 4 6) (fb .rel .b1 .none .add), .xch (hl 8 2 4 6) (fb .rel .b2 .none .add), .rfence (hl 1 0 0 0) .rel,
   .slotq (hg 5 64 0 0), .launch (hg 5 1 0 0) 0, .sleep (hg 1 0 0 0), .nop (hl 0 0 0 1), .svc (hl 1 2 0 0) 0, .svc (hl 2 2 0 9) 0, .brk (hl 1 0 0 0) 0, .sysrd (hg 5 0 0 0), .syswr (hg 1 0 0 0), .ptload (hg 0 4 0 3), .ptload (hg 0 4 0 8), .ctxctlQueue (hg 2 4 5 1), .unallocatedOpcode 0, .slotStart]

theorem test_refused : (refused1 ++ refused2).all (fun i => !WellFormed i && (match decodeWords (encode i) with | .ok x => x.1 != i | .error _ => true)) = true := by decide +kernel

/-! ### The machine as a whole -/

/-- The device after reset with this word, and the next when it has two, as the instruction to run. -/
def placed (w : Word) (x : Word := 0) : State := State.reset.withFetchWord 128 (w.toNat + x.toNat * 2 ^ 64)
/-- One step of a placed word, and a field of its group's registers. -/
def runs {α : Type} (w : Word) (x : Word) (f : Regs → α) : Option α := match step (placed w x) with | .next t => (viewOf t ag0).map (fun v => f v.r) | _ => none
/-- NOP with the unconditional predicate. -/
def nopWord : Word := 0x0770000000000000
/-- A placed NOP changed. -/
def placedNop (f : State → State) : State := { f (placed nopWord) with agenda := [] }
/-- What the fetch of the group gives, and what holds its word back. -/
def fetched (s : State) : Option Fetched := (viewOf s ag0).map (fun v => fetch s v.core v.ctx v.r.pc)
def heldBy (s : State) (w : Word) : Option Bool := (viewOf s ag0).map (fun v => (holdBack s v w).isSome)

/-- A breakpoint at the placed word; a focused group that steps. -/
def broken (s : State) : State := { s with dbg := [(0, { attached := false, allstop := false, bp := [(0, 0x10001)], wp := [] })] }
def stepped (s : State) : State :=
  s.mapGroup 0 0 (fun g => { g with r := { g.r with mask := 1 }, focus := some { lane := 0, pushed := true, isThread := false, atWide := false, catchUp := none }, stepping := some { kind := .insn, link := none, depth := 0, nest := 0, mask := 1 } })

theorem met_stepTurns :
    (placed nopWord).agenda = [.issue 0 0] ∧ Machine.pick (placedNop id) 0 0 = some ag0 ∧
    fetched (placedNop id) = some (.word nopWord (some (.nop (hl 0 0 0 0)))) ∧ heldBy (placedNop id) nopWord = some false ∧
    (viewOf (broken (placedNop id)) ag0).map (fun v => breakpoint (broken (placedNop id)) v) = some (some 0) ∧
    ((viewOf (placedNop id) ag0).map (fun v => ((boundaryFirst (placedNop id) v).isNone, breakpoint (placedNop id) v, (focusStop (placedNop id) v nopWord).isNone))) = some (true, none, true) ∧
    (let s := placedNop (fun s => s.mapGroup 0 0 (fun g => { g with fair := Config.fairness })); (viewOf s ag0).any (fun v => (boundaryFirst s v).isSome) = true) ∧
    (let s := stepped (placedNop id); (viewOf s ag0).any (fun v => (boundaryFirst s v).isNone && (holdBack s v (nopWord ||| 0x8000000000000000)).isNone && (breakpoint s v).isNone && (focusStop s v (nopWord ||| 0x8000000000000000)).isSome) = true) ∧
    fetched { placed 0x0700000000000000 with agenda := [] } = some (.word 0x0700000000000000 none) ∧
    fetched (placedNop (fun s => s.mapRegs ag0 (fun r => { r with pc := 0x900000 }))) = some (.fault .xlat 0 0x900000) := by
  decide +kernel

/-- An ejected lane that can have the turn: its thread is ready at the placed word. -/
theorem met_threadTurn :
    let s := placedNop (fun s => s.mapGroup 0 0 (fun g => { g with threads := [{ th0 .ready with r := { Regs.fresh with pc := 0x10000, mask := 2 } }] }))
    (readyThreads s).contains { blk := 0, grp := 0, lane := some 1 } = true ∧ (viewOf s { blk := 0, grp := 0, lane := some 1 }).isSome = true := by decide +kernel

theorem errorOf {α : Type} {x : Except DecodeErr α} (h : (match x with | .ok _ => none | .error e => some e).isSome = true) :
    x = .error ((match x with | .ok _ => none | .error e => some e).get h) := by
  cases x with
  | ok a => exact absurd h (by simp)
  | error e => rfl

/-- MOVI at the end of the mapped page: its X-word is in a page that is not mapped. -/
def lastWord : State := poke (placedNop id) 0x1FFF8 8 0x870F828000000000

theorem met_fetches :
    (∃ sp, fetchCheck (placedNop id) 0 0 0x10000 8 = .inr sp ∧ takesX ((wordOfBytes (fetchBytes (placedNop id) 0 sp)).toNat / 2 ^ 47 % 256) = false ∧
      decodeBytes (fetchBytes (placedNop id) 0 sp) = .ok (.nop (hl 0 0 0 0))) ∧
    (∃ sp e, fetchCheck (placed 0x0700000000000000) 0 0 0x10000 8 = .inr sp ∧ takesX ((wordOfBytes (fetchBytes (placed 0x0700000000000000) 0 sp)).toNat / 2 ^ 47 % 256) = false ∧
      decodeBytes (fetchBytes (placed 0x0700000000000000) 0 sp) = .error e) ∧
    (let s := placed 0x870F828000000000 0x0000000100000000
     ∃ sp sx, fetchCheck s 0 0 0x10000 8 = .inr sp ∧ takesX ((wordOfBytes (fetchBytes s 0 sp)).toNat / 2 ^ 47 % 256) = true ∧ fetchCheck s 0 0 (0x10000 + 8) 8 = .inr sx ∧
      decodeBytes (fetchBytes s 0 sp ++ fetchBytes s 0 sx) = .ok (.movi (hg 5 0 0 0) false 0x0000000100000000)) ∧
    (∃ sp c, fetchCheck lastWord 0 0 0x1FFF8 8 = .inr sp ∧ takesX ((wordOfBytes (fetchBytes lastWord 0 sp)).toNat / 2 ^ 47 % 256) = true ∧ legalWord (wordOfBytes (fetchBytes lastWord 0 sp)) = true ∧
      fetchCheck lastWord 0 0 (0x1FFF8 + 8) 8 = .inl c) ∧
    (∃ c, fetchCheck (placedNop id) 0 0 0x900000 8 = .inl c) :=
  ⟨⟨_, rfl, by decide +kernel⟩, ⟨_, _, rfl, by decide +kernel, errorOf (by decide +kernel)⟩, ⟨_, _, rfl, by decide +kernel, rfl, by decide +kernel⟩,
   ⟨_, .xlat, rfl, by decide +kernel, by decide +kernel, by decide +kernel⟩, ⟨.xlat, by decide +kernel⟩⟩

theorem met_eventTurn : ∃ s : State, s.agenda = [.event .sweeperStep] := ⟨{ State.reset with agenda := [.event .sweeperStep] }, rfl⟩
theorem met_emptyAgenda : State.reset.agenda = [] := rfl
/-- An outcome that is a next state. -/
def goesOn (x : Host.Outcome State Fault Refusal) : Bool := match x with | .next _ => true | _ => false
theorem next_of {x : Host.Outcome State Fault Refusal} (h : goesOn x = true) : ∃ t, x = .next t := by
  cases x with
  | next t => exact ⟨t, rfl⟩
  | fault r => exact absurd h (by simp [goesOn])
  | refused r => exact absurd h (by simp [goesOn])
theorem met_memoryCanonical : MemOk (placed nopWord) ∧ ∃ t, step (placed nopWord) = .next t := ⟨(by decide +kernel : Memory.wf (placed nopWord).mem = true), next_of (by decide +kernel)⟩

theorem met_break :
    (∃ h : Hdr, WellFormed (.brk h 0x2A) = true ∧ h.u = true ∧ (V base).ej = false ∧ (V base).groupOn h = true) ∧
    (∃ h : Hdr, WellFormed (.brk h 0x2A) = true ∧ h.u = true ∧ (V base).ej = false ∧ (V base).groupOn h = false) ∧
    (∃ h : Hdr, WellFormed (.brk h 0x2A) = true ∧ h.u = false ∧ (V base).active h ≠ []) ∧ (∃ h : Hdr, WellFormed (.brk h 0x2A) = true ∧ h.u = false ∧ (V base).active h = []) ∧
    ∃ i, (rawOf 0x077100000000002A).op = 0xE2 ∧ decodeWord 0x077100000000002A 0 = .ok i :=
  ⟨⟨hg 0 0 0 0, by decide +kernel⟩, ⟨p0 (hg 0 0 0 0), by decide +kernel⟩, ⟨hl 0 0 0 0, by decide +kernel⟩, ⟨p0 (hl 0 0 0 0), by decide +kernel⟩, ⟨_, by decide +kernel, rfl⟩⟩

theorem met_stochasticSeed : WellFormed (.sround (hl 0 2 0 0)) = true ∧ Computes (V base) (hl 0 2 0 0) [(2, 1)] [] ∧
    ∃ i, (rawOf 0x0723800100000000).op = 0x47 ∧ decodeWord 0x0723800100000000 0 = .ok i :=
  ⟨by decide +kernel, computes_of (ns := []) (by decide +kernel), ⟨_, by decide +kernel, rfl⟩⟩

theorem met_minimumAndMaximum :
    (∀ larger : Bool, WellFormed (if larger then .fmax (hl 1 2 3 0) (fm .f32) else .fmin (hl 1 2 3 0) (fm .f32)) = true) ∧
    Computes (V base) (hl 1 2 3 0) ([(1, 1), (2, 1)] ++ regs2 (hl 1 2 3 0) false .vreg false) (destRegs 1 false) :=
  ⟨by decide +kernel, computes_of (by decide +kernel)⟩

/-! ### One step, with values from the spec -/

/-- MOVI's X-word is the immediate (R40, R107), and the PC goes past both words (R34). -/
theorem test_movi : runs 0x870F828000000000 0x0000000100000000 (fun r => (r.kget 5, r.pc)) = some (0x100000000, 0x10010) := by decide +kernel
/-- NOP changes nothing but the PC (R57). -/
theorem test_nop : runs nopWord 0 (fun r => (r.pc, r.fpf)) = some (0x10008, 0) := by decide +kernel
/-- A branch goes to PC + 8 × offset (R47): offset 2 from 0x10000. -/
theorem test_bra : runs (wd 1 0x60 0 0 0 0 2) 0 (fun r => r.pc) = some 0x10010 := by decide +kernel
/-- Signed overflow wraps, or saturates with SAT (R101): 0x7FFF_FFFF + 1. -/
theorem test_addOverflow :
    let s := onRegs (fun r => { r with v := [(2, 0x7FFFFFFF), (3, 1)] })
    regAfter (exec (.add (hl 1 2 3 0) (im .i32)) s) (fun r => r.vget 0 1) = some 0x80000000 ∧
    regAfter (exec (.add (hl 1 2 3 0) { im .i32 with sat := true }) s) (fun r => r.vget 0 1) = some 0x7FFFFFFF := by decide +kernel

/-- The validator accepts the four shipped tables, so that a boot's stage 5 loads them (R205, R422). -/
theorem test_bootTables : bootTables = shippedTables := by decide +kernel
/-- A replay keeps the service entries of the first run (R380). -/
theorem test_replayKeepsService :
    let s := { under { pkt0 with flags := 2 } grp0 with svcq := [svcw] }
    (replayCluster s (blk0 grp0) (Grid.fresh 0 0 0 { pkt0 with flags := 2 })).svcq.length = 1 := by decide +kernel

end Sys2Proof.Tests
end

section
/-! PROOF. SVC and an unallocated word (spec/14_recovery.md R374, 00_scope.md R12), and what parking through the service ring does
(spec/14_recovery.md R371, R372; 10_scheduling.md R293). -/

namespace Sys2Proof.Machine

open Sys2Proof Sys2Proof.Claims

/-! ### The executing agent's meaning -/

/-- A meaning runs for the agent whose view it is. -/
theorem withView_of {s : State} {v : View} (hv : view? s = some v) (f : View → State) : withView s f = .next (f v) := by
  simp [withView, hv]

/-- A collective instruction runs for an agent that is no ejected lane (R306). -/
theorem collective_of {s : State} {v : View} (hv : view? s = some v) (hej : v.ej = false) (f : View → State) : collective s f = .next (f v) := by
  simp [collective, withView_of hv, hej]

/-! ### Tables and groups -/

theorem mem_of_tget {α : Type} {m : Table α} {k : Nat} {x : α} (h : tget m k = some x) : (k, x) ∈ m := by
  induction m with
  | nil => cases h
  | cons e t ih =>
    obtain ⟨j, y⟩ := e
    simp only [tget] at h
    split at h
    · next hj => cases h; simp [hj]
    · exact List.mem_cons_of_mem _ (ih h)

/-- Only the blocks decide what a group is. -/
theorem State.group_congr {s t : State} (h : t.blocks = s.blocks) (b g : Nat) : t.group? b g = s.group? b g := by
  unfold State.group?; rw [h]

/-! ### Parking a group (R293) -/

section

variable {s : State} {b g : Nat} {bl : Block} {x : Group}

theorem freeGroupSlot_of (hb : tget s.blocks b = some bl) (hg : tget bl.groups g = some x) :
    freeGroupSlot s b g = s.mapCore bl.core (fun c => { c with used := c.used.filter (fun e => e.2 != (b, g)) }) := by
  simp [freeGroupSlot, hb, hg]

/-- No group slot of its core is the group's any more. -/
theorem freeGroupSlot_used (hb : tget s.blocks b = some bl) (hg : tget bl.groups g = some x) (n : Nat) :
    tget ((freeGroupSlot s b g).core bl.core).used n ≠ some (b, g) := by
  rw [freeGroupSlot_of hb hg, State.core_mapCore]
  intro h
  simpa using (List.mem_filter.1 (mem_of_tget h)).2

/-- Freeing a group slot changes one core and nothing else. -/
theorem freeGroupSlot_blocks (s : State) (b g : Nat) : (freeGroupSlot s b g).blocks = s.blocks := by
  unfold freeGroupSlot
  split
  · rfl
  · split <;> rfl

theorem freeGroupSlot_mem (s : State) (b g : Nat) : (freeGroupSlot s b g).mem = s.mem := by
  unfold freeGroupSlot
  split
  · rfl
  · split <;> rfl

/-- A block without a save slot has no record to fill. -/
theorem fillRecord_of_unsaved (hb : tget s.blocks b = some bl) (hs : bl.save = none) (g : Nat) : fillRecord s b g = s := by
  simp [fillRecord, hb, hs]

/-- A record is filled behind the two trap records that stand in it (R289, R366). -/
theorem fillRecord_of_saved {base : Nat} (hb : tget s.blocks b = some bl) (hs : bl.save = some base) (g : Nat) :
    fillRecord s b g = fillSlot s b (base + 2048 * g + 128) 1920 := by
  simp [fillRecord, recordPlace, hb, hs]

/-- The parked group is the group of the filled record, parked off-core. -/
theorem group_parkGroup (s : State) (b g : Nat) (p : Park) :
    (parkGroup s b g p).group? b g = ((fillRecord (freeGroupSlot s b g) b g).group? b g).map (fun y => { y with run := .parkedOff p }) :=
  State.group_mapGroup ..

/-- Without a save slot, parking frees the group slot and sets the group's issue state, no more. -/
theorem parkGroup_of_unsaved (hb : tget s.blocks b = some bl) (hg : tget bl.groups g = some x) (hs : bl.save = none) (p : Park) :
    (parkGroup s b g p).mem = s.mem ∧ (parkGroup s b g p).group? b g = some { x with run := .parkedOff p } := by
  have hfill : fillRecord (freeGroupSlot s b g) b g = freeGroupSlot s b g :=
    fillRecord_of_unsaved (by rw [freeGroupSlot_blocks]; exact hb) hs g
  have hx : s.group? b g = some x := by simp [State.group?, hb, hg]
  constructor
  · rw [parkGroup, State.mapGroup_mem, hfill, freeGroupSlot_mem]
  · rw [group_parkGroup, hfill, State.group_congr (freeGroupSlot_blocks s b g), hx]; rfl

/-! ### Parking through the service ring (R371, R372) -/

variable {base : Word} {head tail n : Nat} {isSvc : Bool} {d : Nat} {lanes : Mask} {kind : Word} {r : TrapRecord} {args : List (Nat × List Half)}

/-- The WHO word of a group's service entry: its Chain agent id and its context (R372). -/
def svcWho (s : State) (bl : Block) (b g : Nat) : Word := BitVec.ofNat 64 ((whoOf s { blk := b, grp := g, lane := none }).1 + bl.ctx * 2 ^ 32)

theorem svcFull_iff : svcFull head tail n = true ↔ 2 ^ n ≤ (tail + 2 ^ 48 - head) % 2 ^ 48 := decide_eq_true_iff

/-- Without a usable ring the grid ends with status 0x07. -/
theorem parkService_of_noRing (hb : tget s.blocks b = some bl) (hr : svcHeader s bl.ctx = none) :
    parkService s b g isSvc d lanes kind r args = abortGrid s bl.grid 7 := by
  simp [parkService, hb, hr]

/-- Behind an entry that waits, at a full ring or while the link is awaited, the entry waits in the device and the group is parked at no entry yet. -/
theorem parkService_of_waits (hb : tget s.blocks b = some bl) (hr : svcHeader s bl.ctx = some (base, head, tail, n))
    (hwait : (s.svcq.any (fun y => y.ctx == bl.ctx) || svcFull head tail n || svcWaits s bl.ctx base tail n) = true) :
    parkService s b g isSvc d lanes kind r args =
      parkGroup { s with svcq := s.svcq ++ [{ ctx := bl.ctx, blk := b, grp := g, parks := true, isSvc := isSvc, kind := kind,
                                              who := svcWho s bl b g, lanes := lanes, record := r, args := args }] }
        b g (.service none isSvc d lanes r) := by
  simp only [parkService, svcWho, hb, hr, hwait, if_true]

/-- With room in the ring and nothing to wait for, the entry is written at TAIL and its vector sent. -/
theorem parkService_of_room {s1 : State} (hb : tget s.blocks b = some bl) (hr : svcHeader s bl.ctx = some (base, head, tail, n))
    (hroom : svcFull head tail n = false) (hq : s.svcq.any (fun y => y.ctx == bl.ctx) = false) (hlink : svcWaits s bl.ctx base tail n = false)
    (hw : svcWrite s bl.ctx base tail n kind (svcWho s bl b g) lanes r.resume r args = some s1) :
    parkService s b g isSvc d lanes kind r args =
      parkGroup (sendMsix s1 (tenantIdx s bl.ctx) (svcVector isSvc)) b g (.service (some tail) isSvc d lanes r) := by
  unfold svcWho at hw
  simp only [parkService, hb, hr, hroom, hq, hlink, hw, Bool.or_false, Bool.false_eq_true, if_false]

end

/-- Parking through the service ring does what R293, R371 and R372 say: one case for each state of the ring, and one for the parked group. -/
theorem serviceParking : ServiceParking := by
  intro s b g bl x isSvc d lanes kind r args hb hg
  refine ⟨parkService_of_noRing hb, ?full, ?parked, ?room⟩
  case full =>
    intro base head tail n hr hfull
    exact parkService_of_waits hb hr (by rw [svcFull_iff.2 hfull, Bool.or_true, Bool.true_or])
  case parked =>
    intro p
    refine ⟨freeGroupSlot_used hb hg, ?_, fun hs => parkGroup_of_unsaved hb hg hs p, fun base hs => fillRecord_of_saved hb hs g⟩
    intro y hy
    rw [group_parkGroup, hy]; rfl
  case room =>
    intro base head tail n s1 hr hroom hq hlink hw
    exact parkService_of_room hb hr (Bool.eq_false_iff.2 fun hf => Nat.not_le.2 hroom (svcFull_iff.1 hf)) hq hlink hw

/-! ### The instructions -/

/-- An unallocated word raises ILL (R12, R41). -/
theorem exec_unallocatedOpcode {s : State} {v : View} (hv : view? s = some v) (w : Word) :
    exec (.unallocatedOpcode w) s = .next (takeTrap s v { cause := .ill, lanes := v.mask }) :=
  withView_of hv _

/-- WHERE SVC COMPLETES: released, at the next instruction with its windows closed and its reservations gone, the group parks with the
record saved and the lanes' argument registers in its entry (R374). -/
theorem exec_svc {s s1 : State} {v : View} {h : Hdr} (num : BitVec 12) (hv : view? s = some v) (hej : v.ej = false)
    (hreg : v.within false [(h.d, 2), (h.a, h.c.toNat)] = true) (hact : v.active h ≠ []) (hwin : v.r.awaiting = false)
    (hrel : releaseAll s v.core v.whole v.mask .sys = some s1) :
    let s2 := (skip s1 v 8).mapRegs v.ag Regs.flush
    let rec_ := svcRecord s v num.toNat (maskOf (v.active h))
    let regs := ((groupOf s2 v).map (fun (g : Group) => g.r)).getD v.r
    exec (.svc h num) s = .next (parkService (saveRecord (s2.mapGroup v.ag.blk v.ag.grp (fun g => { g with resv := [] })) v.ag.blk v.ag.grp v.g.handler.isSome rec_)
      v.ag.blk v.ag.grp true h.d.toNat (maskOf (v.active h)) (svcKind num.toNat h.c.toNat) rec_
      ((v.active h).map (fun l => (l, (List.range h.c.toNat).map (fun j => regs.vget l (h.a.toNat + j)))))) := by
  have hne : (v.active h).isEmpty = false := by simpa using hact
  change execSvc h num s = _
  rw [execSvc, collective_of hv hej]
  simp only [hreg, hne, hwin, hrel, Bool.not_true, Bool.false_eq_true, if_false]
  rfl

theorem trappingInstructions : TrappingInstructions := by
  intro s v h hv
  exact ⟨exec_unallocatedOpcode hv, fun num s1 hej hreg hact hwin hrel => exec_svc num hv hej hreg hact hwin hrel⟩

/-- Settles O14: SVC and an unallocated word by the meaning of each, parking by one law for each state of the service ring. -/
theorem serviceCalls : Obligations.ServiceCalls := ⟨trappingInstructions, serviceParking⟩

end Sys2Proof.Machine
end

section
/-! PROOF. NOP, SYSRD and SYSWR (spec/02_encoding.md R57, 01_machine.md R22, R23, 13_isolation.md R358, R361, 14_recovery.md R378), and
what a group's registers are after its instruction has ended. -/

namespace Sys2Proof.Machine

open Sys2Proof Sys2Proof.Claims

/-! ### Group-wide instructions with a checked field -/

section

variable {s : State} {v : View} {h : Hdr}

/-- A view that is no ejected lane is the group's. -/
theorem lane_of_group (hv : viewOf s v.ag = some v) (hej : v.ej = false) : v.ag.lane = none := by
  obtain ⟨-, -, -, -, hl⟩ := viewOf_some hv
  cases hlane : v.ag.lane with
  | none => rfl
  | some l =>
    simp only [hlane] at hl
    obtain ⟨t, -, ht, -⟩ := hl
    rw [(ej_iff v).1 hej] at ht; cases ht

/-- A field that names what is reserved is illegal in the group's instruction (R42). -/
theorem groupChecked_of_bad (hrun : GroupRuns s v h) (size : Nat) {bad : View → Bool} (f : View → State) (hbad : bad v = true) :
    groupChecked s h size bad f = .next (illegal s v) := by
  obtain ⟨hv, -, hej, -⟩ := hrun
  simp [groupChecked, withView_of hv, hej, hbad]

/-- With a legal field the group's instruction runs. -/
theorem groupChecked_of_legal (hrun : GroupRuns s v h) (size : Nat) {bad : View → Bool} (f : View → State) (hbad : bad v = false) :
    groupChecked s h size bad f = .next (f v) := by
  obtain ⟨hv, -, hej, hon⟩ := hrun
  simp [groupChecked, withView_of hv, hej, hbad, hon]

/-- In its group-wide form an instruction with both forms is a group-wide one. -/
theorem bothChecked_of_group (hrun : GroupRuns s v h) (size : Nat) (bad : View → Bool) (grp lane : View → State) :
    bothChecked s h size bad grp lane = groupChecked s h size bad grp := if_pos hrun.2.1

end

/-! ### What ending an instruction leaves -/

/-- Ending an instruction, or starting a recall instead, changes one group and nothing else. -/
theorem finishAt_eq_mapGroup (s : State) (v : View) (pc : Word) (ws : List RegWrite) (fl : Flags) (win : List Pend) :
    ∃ f, finishAt s v pc ws fl win = s.mapGroup v.ag.blk v.ag.grp f := by
  by_cases hslot : v.noSlot (ws ++ win.flatMap (fun p => p.writes)) = true
  · exact ⟨_, if_pos hslot⟩
  · cases hl : v.ag.lane <;> simp only [finishAt, hslot, hl, Bool.false_eq_true, if_false] <;> exact ⟨_, rfl⟩

@[simp] theorem finishAt_mem (s : State) (v : View) (pc : Word) (ws : List RegWrite) (fl : Flags) (win : List Pend) :
    (finishAt s v pc ws fl win).mem = s.mem := by
  obtain ⟨f, hf⟩ := finishAt_eq_mapGroup s v pc ws fl win
  rw [hf, State.mapGroup_mem]

@[simp] theorem finishAt_priv (s : State) (v : View) (pc : Word) (ws : List RegWrite) (fl : Flags) (win : List Pend) :
    (finishAt s v pc ws fl win).priv = s.priv := by
  obtain ⟨f, hf⟩ := finishAt_eq_mapGroup s v pc ws fl win
  rw [hf, State.mapGroup_priv]

@[simp] theorem skip_mem (s : State) (v : View) (size : Nat) : (skip s v size).mem = s.mem := finishAt_mem ..
@[simp] theorem skip_priv (s : State) (v : View) (size : Nat) : (skip s v size).priv = s.priv := finishAt_priv ..

@[simp] theorem Regs.flush_pc (r : Regs) : r.flush.pc = r.pc := by simp [Regs.flush]
@[simp] theorem Regs.flush_fpf (r : Regs) : r.flush.fpf = r.fpf := by simp [Regs.flush]

/-- Without an open window there is nothing to write. -/
theorem Regs.flush_of_closed {r : Regs} (hr : r.pend = []) : r.flush = r := by
  obtain ⟨v, k, p, q, gen, pc, mask, rpc, fpf, pend⟩ := r
  cases hr
  rfl

/-- A group's registers are those in its record. -/
theorem regsOf_group (s : State) {ag : AgentRef} (hl : ag.lane = none) : regsOf s ag = (s.group? ag.blk ag.grp).map (fun g => g.r) := by
  cases hb : tget s.blocks ag.blk with
  | none => simp [regsOf, viewOf, State.group?, hb]
  | some bl => cases hg : tget bl.groups ag.grp <;> simp [regsOf, viewOf, State.group?, hb, hg, hl]

theorem regsOf_mapRegs_group (s : State) {ag : AgentRef} (hl : ag.lane = none) (f : Regs → Regs) :
    regsOf (s.mapRegs ag f) ag = (regsOf s ag).map f := by
  simp [regsOf_group _ hl, State.mapRegs, State.group_mapGroup, hl, Function.comp_def]

theorem regsOf_skip_group (s : State) {v : View} (hl : v.ag.lane = none) (size : Nat) :
    regsOf (skip s v size) v.ag = (regsOf s v.ag).map (fun r => r.after (v.r.pc + BitVec.ofNat 64 size) [] 0 []) := by
  simp [regsOf_group _ hl, skip, finish, finishAt, noSlot_nil, hl, State.group_mapGroup, Function.comp_def]

/-! ### Naming a system register (R22, R361) -/

/-- Every register that is open to all contexts reads as listed, and its number is one of the first 0x15. -/
theorem sysReg_of_open (s : State) (v : View) (l : Nat) : ∀ e ∈ openRegs s v l, sysReg s v l e.1 = some (BitVec.ofNat 64 e.2) ∧ e.1 < 0x15 := by
  -- Opened, the subtraction of CYCLE would no longer be read back as a word.
  simp [openRegs, sysReg, -BitVec.toNat_sub]

/-- So does every privileged register, and its number is one of 0x80 to 0x85. -/
theorem sysReg_of_priv (s : State) (v : View) (l : Nat) : ∀ e ∈ privRegs s, sysReg s v l e.1 = some (BitVec.ofNat 64 e.2) ∧ 0x80 ≤ e.1 ∧ e.1 ≤ 0x85 := by
  simp [privRegs, sysReg]

theorem sysCause_of_open (v : View) {n : Nat} (hn : n < 0x15) : sysCause v n = none := by
  rw [sysCause, if_neg (by omega), if_neg (by omega)]

theorem sysCause_of_reserved (v : View) {n : Nat} (hlo : 0x15 ≤ n) (hhi : n < 0x80) : sysCause v n = some .ill := by
  rw [sysCause, if_neg (by omega), if_pos hlo]

theorem sysCause_of_tenant {v : View} (hctx : v.ctx ≠ 0) {n : Nat} (hn : 0x80 ≤ n) : sysCause v n = some .priv := by
  rw [sysCause, if_pos hn, if_pos hctx]

theorem sysCause_of_privileged {v : View} (hctx : v.ctx = 0) {n : Nat} (hlo : 0x80 ≤ n) (hhi : n ≤ 0x85) : sysCause v n = none := by
  rw [sysCause, if_pos hlo, if_neg (by simp [hctx]), if_neg (by omega)]

/-- A register that the agent may read raises nothing and reads as listed. -/
theorem sysReg_of_readable {s : State} {v : View} {l : Nat} {e : Nat × Nat} (he : e ∈ readableRegs s v l) :
    sysReg s v l e.1 = some (BitVec.ofNat 64 e.2) ∧ sysCause v e.1 = none := by
  rcases List.mem_append.1 he with ho | hp
  · obtain ⟨hread, hn⟩ := sysReg_of_open s v l e ho
    exact ⟨hread, sysCause_of_open v hn⟩
  · by_cases hctx : v.ctx = 0
    · rw [if_pos hctx] at hp
      obtain ⟨hread, hlo, hhi⟩ := sysReg_of_priv s v l e hp
      exact ⟨hread, sysCause_of_privileged hctx hlo hhi⟩
    · rw [if_neg hctx] at hp; cases hp

/-- Which registers an agent may read does not depend on the lane that reads LANE. -/
theorem readableRegs_numbers (s : State) (v : View) (l m : Nat) : (readableRegs s v l).map Prod.fst = (readableRegs s v m).map Prod.fst := by
  simp [readableRegs, openRegs]

/-- A readable number has a value for each lane. -/
theorem exists_readable {s : State} {v : View} {n : Nat} (hn : n ∈ (readableRegs s v 0).map Prod.fst) :
    ∃ x : Nat → Nat, ∀ l, (n, x l) ∈ readableRegs s v l := by
  suffices h : ∀ l, ∃ x, (n, x) ∈ readableRegs s v l from ⟨fun l => (h l).choose, fun l => (h l).choose_spec⟩
  intro l
  rw [readableRegs_numbers s v 0 l] at hn
  obtain ⟨⟨_, x⟩, he, rfl⟩ := List.mem_map.1 hn
  exact ⟨x, he⟩

/-! ### NOP and SYSRD (R57, R378) -/

theorem exec_nop {s : State} {v : View} {h : Hdr} (hv : view? s = some v) (hej : h.u = true → v.ej = false) :
    exec (.nop h) s = .next (skip s v 8) := by
  change bothForms s h 8 _ _ = _
  unfold bothForms
  split
  · next hu => simp [groupWide, withView_of hv, hej hu]
  · exact withView_of hv _

section

variable {s : State} {v : View} {h : Hdr}

theorem exec_sysrd_group (hrun : GroupRuns s v h) {e : Nat × Nat} (he : e ∈ readableRegs s v 0) (ha : h.a.toNat = e.1) :
    exec (.sysrd h) s = .next (finishLong s v h [.k h.d.toNat (BitVec.ofNat 64 e.2)] 0) := by
  obtain ⟨hread, hcause⟩ := sysReg_of_readable he
  change bothChecked s h 8 _ _ _ = _
  rw [bothChecked_of_group hrun, groupChecked_of_legal hrun 8 _ (by simp [ha, hcause])]
  simp [ha, hread, hcause]

theorem exec_sysrd_reserved (hrun : GroupRuns s v h) (hlo : 0x15 ≤ h.a.toNat) (hhi : h.a.toNat < 0x80) :
    exec (.sysrd h) s = .next (takeTrap s v { cause := .ill, lanes := v.mask }) := by
  change bothChecked s h 8 _ _ _ = _
  rw [bothChecked_of_group hrun, groupChecked_of_bad hrun 8 _ (by simp [sysCause_of_reserved v hlo hhi])]
  rfl

theorem exec_sysrd_tenant (hrun : GroupRuns s v h) (hctx : v.ctx ≠ 0) (hn : 0x80 ≤ h.a.toNat) :
    exec (.sysrd h) s = .next (takeTrap s v { cause := .priv, lanes := v.mask }) := by
  have hcause := sysCause_of_tenant hctx hn
  change bothChecked s h 8 _ _ _ = _
  rw [bothChecked_of_group hrun, groupChecked_of_legal hrun 8 _ (by simp [hcause])]
  simp [hcause, plainTrap]

/-- The two halves of a 64-bit value go to a lane's register pair. -/
theorem exec_sysrd_lanes (hv : view? s = some v) (hu : h.u = false) (hreg : v.within false [(h.d, 2)] = true) (hact : v.active h ≠ [])
    {x : Nat → Nat} (hx : ∀ l, (h.a.toNat, x l) ∈ readableRegs s v l) :
    exec (.sysrd h) s = .next (finishLong s v h ((v.active h).flatMap (fun l =>
      [RegWrite.v l h.d.toNat (BitVec.ofNat 32 (x l % 2 ^ 64)), RegWrite.v l (h.d.toNat + 1) (BitVec.ofNat 32 (x l % 2 ^ 64 / 2 ^ 32))])) 0) := by
  have hcause : sysCause v h.a.toNat = none := (sysReg_of_readable (hx 0)).2
  have hread : ∀ l, sysReg s v l h.a.toNat = some (BitVec.ofNat 64 (x l)) := fun l => (sysReg_of_readable (hx l)).1
  have hne : (v.active h).isEmpty = false := by simpa using hact
  change bothChecked s h 8 _ _ _ = _
  simp only [bothChecked, hu, Bool.false_eq_true, if_false, withView_of hv, hcause, hreg, hne, hread, Option.getD_some, BitVec.toNat_ofNat, Bool.not_true]
  rfl

end

/-! ### SYSWR (R23, R358, R361) -/

/-- A writable register takes any value. -/
theorem privWrite_of_writable (p : Priv) {n : Nat} (hn : n ∈ [0x81, 0x82, 0x84, 0x85]) (x : Word) : ∃ q, privWrite p n x = some q := by
  simp only [List.mem_cons, List.not_mem_nil, or_false] at hn
  rcases hn with rfl | rfl | rfl | rfl <;> exact ⟨_, rfl⟩

/-- R361: a SWCTL value is taken where LO < HI ≤ 8,192. -/
theorem swctlOk_iff (x : Word) : swctlOk x = true ↔ x.toNat % 2 ^ 20 < x.toNat / 2 ^ 20 % 2 ^ 20 ∧ x.toNat / 2 ^ 20 % 2 ^ 20 ≤ 8192 := by
  rw [swctlOk, Bool.and_eq_true, decide_eq_true_iff, decide_eq_true_iff]
  simp [bitsOf]

/-- PTSTAT and SWTAIL take none. -/
theorem privWrite_of_readOnly (p : Priv) {n : Nat} (hn : n ∈ [0x80, 0x83]) (x : Word) : privWrite p n x = none := by
  simp only [List.mem_cons, List.not_mem_nil, or_false] at hn
  rcases hn with rfl | rfl <;> rfl

section

variable {s : State} {v : View} {h : Hdr}

/-- The group's windows are written before and after the PC moves on (R39). -/
theorem regsOf_flushed_skip (hv : viewOf s v.ag = some v) (hej : v.ej = false) (f : Regs → Regs) :
    regsOf ((skip (s.mapRegs v.ag Regs.flush) v 8).mapRegs v.ag f) v.ag = some (f (v.r.flush.after (v.r.pc + 8) [] 0 [])) := by
  have hl := lane_of_group hv hej
  rw [regsOf_mapRegs_group _ hl, regsOf_skip_group _ hl, regsOf_mapRegs_group _ hl, regsOf, hv]
  rfl

theorem exec_syswr_tenant (hrun : GroupRuns s v h) (hctx : v.ctx ≠ 0) (hn : 0x80 ≤ h.a.toNat) :
    exec (.syswr h) s = .next (takeTrap s v { cause := .priv, lanes := v.mask }) := by
  have hfpf : h.a.toNat ≠ 0x14 := by omega
  change groupChecked s h 8 _ _ = _
  rw [groupChecked_of_legal hrun 8 _ (by simp [hctx, hn]), if_pos ⟨hfpf, hctx⟩]
  rfl

theorem exec_syswr_readOnly (hrun : GroupRuns s v h) (hctx : v.ctx = 0) (hn : h.a.toNat ∈ [0x80, 0x83]) :
    exec (.syswr h) s = .next (takeTrap s v { cause := .ill, lanes := v.mask }) := by
  have hfpf : h.a.toNat ≠ 0x14 := by intro hc; simp [hc] at hn
  change groupChecked s h 8 _ _ = _
  rw [groupChecked_of_bad hrun 8 _ (by simp [hfpf, hctx, privWrite_of_readOnly s.priv hn])]
  rfl

theorem exec_syswr_fpf (hrun : GroupRuns s v h) (hwin : v.r.awaiting = false) (hn : h.a.toNat = 0x14) :
    exec (.syswr h) s = .next ((skip (s.mapRegs v.ag Regs.flush) v 8).mapRegs v.ag
      (fun r => { r.flush with fpf := fpfClear r.fpf (v.r.flush.kget h.b.toNat) })) := by
  change groupChecked s h 8 _ _ = _
  rw [groupChecked_of_legal hrun 8 _ (by simp [hn])]
  simp [hn, hwin]

theorem exec_syswr_priv (hrun : GroupRuns s v h) (hwin : v.r.awaiting = false) (hctx : v.ctx = 0) (hn : h.a.toNat ∈ [0x81, 0x82, 0x84, 0x85])
    {p : Priv} (hp : privWrite s.priv h.a.toNat (v.r.flush.kget h.b.toNat) = some p) :
    exec (.syswr h) s = .next { (skip (s.mapRegs v.ag Regs.flush) v 8).mapRegs v.ag Regs.flush with priv := p } := by
  have hfpf : h.a.toNat ≠ 0x14 := by intro hc; simp [hc] at hn
  have hlow : 0x80 ≤ h.a.toNat := by
    simp only [List.mem_cons, List.not_mem_nil, or_false] at hn
    omega
  obtain ⟨q, hq⟩ := privWrite_of_writable s.priv hn 0#64
  change groupChecked s h 8 _ _ = _
  rw [groupChecked_of_legal hrun 8 _ (by simp [hq, hlow])]
  simp [hfpf, hctx, hwin, hp]

/-- A flag survives the write of FPF exactly where the source has a zero (R23). -/
theorem fpfClear_getLsbD (old : Flags) (x : Word) {i : Nat} (hi : i < 5) : (fpfClear old x).getLsbD i = (old.getLsbD i && !x.getLsbD i) := by
  simp [fpfClear, hi]

end

/-- Settles O33: NOP goes on, SYSRD reads what the table of registers lists or raises the cause of the number, SYSWR writes after the windows are written. -/
theorem systemRegisters : Obligations.SystemRegisters := by
  refine ⟨fun s v h hv hej => exec_nop hv hej, fun s v h hrun => ⟨fun e he ha => exec_sysrd_group hrun he ha, exec_sysrd_reserved hrun,
    fun hn hctx => ⟨exec_sysrd_tenant hrun hctx hn, exec_syswr_tenant hrun hctx hn⟩⟩, ?lanes, fun s v h hrun hwin hclosed => ⟨?fpf, ?priv, exec_syswr_readOnly hrun⟩⟩
  case lanes =>
    intro s v h hv hu hreg hact hn
    obtain ⟨x, hx⟩ := exists_readable hn
    exact ⟨x, hx, exec_sysrd_lanes hv hu hreg hact hx⟩
  case fpf =>
    intro hn
    obtain ⟨hv, -, hej, -⟩ := id hrun
    refine ⟨_, _, exec_syswr_fpf hrun hwin hn, regsOf_flushed_skip (view_some hv) hej _, by simp, by simp, by simp, ?_⟩
    intro i hi
    simp [fpfClear_getLsbD _ _ hi, Regs.flush_of_closed hclosed]
  case priv =>
    intro hctx hn
    obtain ⟨hv, -, hej, -⟩ := id hrun
    obtain ⟨p, hp⟩ := privWrite_of_writable s.priv hn (v.r.flush.kget h.b.toNat)
    refine ⟨_, exec_syswr_priv hrun hwin hctx hn hp, ?_, by simp, ?_⟩
    · exact Option.map_eq_some_iff.2 ⟨_, regsOf_flushed_skip (view_some hv) hej Regs.flush, by simp⟩
    · rw [Regs.flush_of_closed hclosed] at hp
      simp only [List.mem_cons, List.not_mem_nil, or_false] at hn
      rcases hn with hn | hn | hn | hn <;> rw [hn] at hp ⊢ <;> cases hp
      · simp only [swctlWrite, swctlOk_iff]
      · rfl
      · rfl
      · rfl

end Sys2Proof.Machine
end

section
/-! PROOF. Conversion and quantisation (spec/03_formats.md R80 to R90, 04_arithmetic_instructions.md R117 to R124): the laws of ending an instruction
whose writes may also step generators, and CVT, PACK and UNPACK with what a value becomes in an integer format. -/

namespace Sys2Proof.Machine

open Sys2Proof Sys2Proof.Claims

/-! ### Flags of several elements -/

@[simp] theorem flagsAll_nil : flagsAll [] = 0 := rfl

@[simp] theorem flagsAll_cons (x : Flags) (xs : List Flags) : flagsAll (x :: xs) = x ||| flagsAll xs := by
  have hassoc : xs.foldl (· ||| ·) (x ||| 0) = x ||| xs.foldl (· ||| ·) 0 := List.foldl_assoc
  simpa [flagsAll] using hassoc

@[simp] theorem flagsAll_append (xs ys : List Flags) : flagsAll (xs ++ ys) = flagsAll xs ||| flagsAll ys := by
  induction xs with
  | nil => simp
  | cons x xs ih => simp [ih, BitVec.or_assoc]

/-- The flags of every place's elements are those of the places together. -/
theorem flagsAll_flatMap {α : Type} (ls : List α) (f : α → List Flags) : flagsAll (ls.flatMap f) = flagsAll (ls.map (fun l => flagsAll (f l))) := by
  induction ls with
  | nil => rfl
  | cons l ls ih => simp [ih]

/-- Places that raise no flag raise none together. -/
theorem flagsAll_map_zero {α : Type} (ls : List α) : flagsAll (ls.map (fun _ => (0 : Flags))) = 0 := by
  induction ls with
  | nil => rfl
  | cons l ls ih => rw [List.map_cons, flagsAll_cons, ih]; rfl

/-! ### Ending with results and stepped generators -/

/-- A list of writes that only steps generators (R80). -/
def StepsGenerators (ws : List RegWrite) : Prop := ∀ w ∈ ws, ∃ l x, w = .gen l x

theorem stepsGenerators_nil : StepsGenerators [] := by simp [StepsGenerators]

/-- Draws leave every register alone but the lane's generator. -/
theorem stepsGenerators_draws (r : Regs) (l : Option Nat) (mode : Rm) (n : Nat) : StepsGenerators (draws r l mode n).2 := by
  cases mode with
  | sr =>
    cases l with
    | none => exact stepsGenerators_nil
    | some l => simp [draws, StepsGenerators]
  | rne | rtz | rdn | rup => exact stepsGenerators_nil

/-- Stepping generators takes no lane register. -/
theorem laneRegs_of_stepsGenerators {ws : List RegWrite} (hgen : StepsGenerators ws) : laneRegs ws = [] := by
  refine List.filterMap_eq_nil_iff.2 fun w hw => ?_
  obtain ⟨l, x, rfl⟩ := hgen w hw
  rfl

/-- A result in a lane goes to registers below 256 when a 64-bit destination is even (R35); the group's goes to no lane register. -/
theorem writeReg_number_lt {l : Option Nat} {d : BitVec 8} {wide signed : Bool} {x : Nat} (hd : l ≠ none → wide = true → d.toNat % 2 = 0)
    {k n : Nat} {y : Half} (hw : .v k n y ∈ writeReg l d wide signed x) : n < 256 := by
  have hlt := d.isLt
  cases l with
  | none => simp [writeReg] at hw
  | some l =>
    cases wide with
    | false =>
      obtain ⟨-, rfl, -⟩ : k = l ∧ n = d.toNat ∧ y = BitVec.ofNat 32 x := by simpa [writeReg] using hw
      exact hlt
    | true =>
      have heven := hd (by simp) rfl
      have hn : n = d.toNat ∨ n = d.toNat + 1 := by
        simp only [writeReg, if_true, List.mem_cons, RegWrite.v.injEq, List.not_mem_nil, or_false] at hw
        exact hw.imp (fun ⟨_, hn, _⟩ => hn) (fun ⟨_, hn, _⟩ => hn)
      omega

section

variable {s : State} {v : View} {h : Hdr} {wide signed : Bool} {x : Option Nat → Nat} {gens : Option Nat → List RegWrite}

theorem laneRegs_results_gens (hgen : ∀ l, StepsGenerators (gens l)) (ls : List (Option Nat)) :
    laneRegs (ls.flatMap (fun l => writeReg l h.d wide signed (x l) ++ gens l)) = laneRegs (ls.flatMap (fun l => writeReg l h.d wide signed (x l))) := by
  induction ls with
  | nil => rfl
  | cons l ls ih => simp [laneRegs_append, laneRegs_of_stepsGenerators (hgen l), ih]

theorem results_gens_number_lt (hgen : ∀ l, StepsGenerators (gens l)) (hd : h.u = false → wide = true → h.d.toNat % 2 = 0) :
    ∀ w ∈ (v.places h).flatMap (fun l => writeReg l h.d wide signed (x l) ++ gens l), ∀ k n y, w = .v k n y → n < 256 := by
  rintro w hw k n y rfl
  obtain ⟨l, hl, hwl⟩ := List.mem_flatMap.1 hw
  rcases List.mem_append.1 hwl with hres | hg
  · refine writeReg_number_lt (fun hlane => hd ?_) hres
    by_contra hu
    simp only [Bool.not_eq_false] at hu
    simp only [View.places, hu, if_true] at hl
    split at hl
    · exact hlane (List.mem_singleton.1 hl)
    · cases hl
  · obtain ⟨_, _, hc⟩ := hgen l _ hg
    cases hc

/-- THE LAW OF RESULTS WITH DRAWS: an instruction that writes a result to its destination at every place and steps generators ends
with exactly these writes. -/
theorem compute_finishes {size : Nat} {regs : List (BitVec 8 × Nat)} {x : View → Option Nat → Nat} {gens : View → Option Nat → List RegWrite}
    {fl : View → Option Nat → Flags} (hv : view? s = some v) (hc : Computes v h regs (destRegs h.d wide))
    (hd : h.u = false → wide = true → h.d.toNat % 2 = 0) (hgen : ∀ l, StepsGenerators (gens v l)) :
    ∃ t, compute s h size false regs (fun v l => (writeReg l h.d wide signed (x v l) ++ gens v l, fl v l)) = .next t ∧
      Finishes s t v (v.r.pc + BitVec.ofNat 64 size) ((v.places h).flatMap (fun l => writeReg l h.d wide signed (x v l) ++ gens v l))
        (flagsAll ((v.places h).map (fl v))) := by
  have hslot : v.noSlot ((v.places h).flatMap (fun l => writeReg l h.d wide signed (x v l) ++ gens v l)) = false := by
    rw [noSlot_congr v (laneRegs_results_gens hgen _)]
    exact noSlot_results (view_some hv) hc.group hc.slot
  refine ⟨_, compute_next hv hc.group hc.within hc.agree, ?_⟩
  rw [List.flatMap_map, List.map_map]
  exact finishAt_ends (view_some hv) (by simpa using hslot) (results_gens_number_lt hgen hd)

/-- Without draws the writes are the results alone. -/
theorem compute_finishes_plain {size : Nat} {regs : List (BitVec 8 × Nat)} {x : View → Option Nat → Nat} {fl : View → Option Nat → Flags}
    (hv : view? s = some v) (hc : Computes v h regs (destRegs h.d wide)) (hd : h.u = false → wide = true → h.d.toNat % 2 = 0) :
    ∃ t, compute s h size false regs (fun v l => (writeReg l h.d wide signed (x v l), fl v l)) = .next t ∧
      Finishes s t v (v.r.pc + BitVec.ofNat 64 size) ((v.places h).flatMap (fun l => writeReg l h.d wide signed (x v l)))
        (flagsAll ((v.places h).map (fl v))) := by
  simpa using compute_finishes (gens := fun _ _ => []) hv hc hd (fun _ => stepsGenerators_nil)

end

/-! ### CVT, PACK and UNPACK (R117 to R119) -/

/-- A 64-bit register field of the lane form is even (R21). -/
theorem even_of_fieldOk {u wide : Bool} {n : BitVec 8} (hok : fieldOk u wide n = true) (hu : u = false) (hw : wide = true) : n.toNat % 2 = 0 := by
  subst hu hw
  simpa [fieldOk, Sys2Proof.pairOk] using hok

theorem cvtOk_destination {h : Hdr} {m : CvMod} (hok : cvtOk h m = true) : fieldOk h.u (m.df.width == 64) h.d = true := by
  simp only [cvtOk, Bool.and_eq_true] at hok
  obtain ⟨⟨-, hd⟩, -⟩ := hok
  exact hd

theorem unpackOk_destination {h : Hdr} {m : CvMod} (hok : unpackOk h m = true) : fieldOk h.u (m.df.width == 64) h.d = true := by
  simp only [unpackOk, Bool.and_eq_true] at hok
  obtain ⟨⟨-, hd⟩, -⟩ := hok
  exact hd

/-- CVT, PACK and UNPACK end with the results of the converted elements and the stepped generators. -/
theorem conversions : Conversions := by
  intro s v h m hv
  refine ⟨fun hok hc => ?cvt, fun hok hc => ?pack, fun hok hc => ?unpack⟩
  case cvt =>
    exact compute_finishes hv hc (even_of_fieldOk (cvtOk_destination hok)) (fun l => stepsGenerators_draws v.r l m.rm 1)
  case pack =>
    dsimp only
    rw [flagsAll_flatMap]
    exact compute_finishes hv hc (by simp) (fun l => stepsGenerators_draws v.r l m.rm _)
  case unpack =>
    dsimp only
    rw [flagsAll_flatMap]
    exact compute_finishes_plain hv hc (even_of_fieldOk (unpackOk_destination hok))

/-! ### A value as an integer (R82, R83) -/

theorem ofNat_wrapTo (w : Nat) (x : Int) : BitVec.ofNat w (wrapTo w x) = BitVec.ofInt w x := by
  apply BitVec.eq_of_toNat_eq
  have hlt : wrapTo w x < 2 ^ w := by
    have := Int.emod_lt_of_pos x (b := ((2 ^ w : Nat) : Int)) (by positivity)
    have := Int.emod_nonneg x (b := ((2 ^ w : Nat) : Int)) (by positivity)
    unfold wrapTo; omega
  rw [BitVec.toNat_ofNat, BitVec.toNat_ofInt, Nat.mod_eq_of_lt hlt, wrapTo]

/-- A value within a range stays as it is. -/
theorem clampInt_of_mem {lo hi x : Int} (hlo : lo ≤ x) (hhi : x ≤ hi) : clampInt lo hi x = x := by
  rw [clampInt, if_neg (by omega), if_neg (by omega)]

/-- Without SAT an integer is wrapped whatever its own format. -/
theorem intToInt_of_wraps (df sf : Fmt) (x : Int) : intToInt df sf false x = wrapTo df.width x := by simp [intToInt]

/-- An integer that the destination holds is kept, under SAT too. -/
theorem intToInt_of_mem (df sf : Fmt) (sat : Bool) {x : Int} (hlo : fmtMin df ≤ x) (hhi : x ≤ fmtMax df) : intToInt df sf sat x = wrapTo df.width x := by
  simp [intToInt, clampInt_of_mem hlo hhi]

theorem fmtMin_nonpos (f : Fmt) : fmtMin f ≤ 0 := by unfold fmtMin; split <;> simp

theorem fmtMax_nonneg (f : Fmt) : 0 ≤ fmtMax f := by
  have h1 : (0 : Int) < ((2 ^ (f.width - 1) : Nat) : Int) := by positivity
  have h2 : (0 : Int) < ((2 ^ f.width : Nat) : Int) := by positivity
  unfold fmtMax; split <;> omega

/-- The signed integer that a magnitude rounds to. -/
def roundedInt (mode : Rm) (neg : Bool) (m : Nat) (e : Int) : Int :=
  if neg then -((roundAt mode 0 neg m e false 0).n : Int) else (roundAt mode 0 neg m e false 0).n

/-- R82 for a finite value, by what it rounds to. -/
theorem floatToInt_fin (df : Fmt) (mode : Rm) (neg : Bool) (m : Nat) (e : Int) (sticky : Bool) :
    floatToInt df mode (.fin neg m e sticky) =
      if roundedInt mode neg m e < fmtMin df ∨ fmtMax df < roundedInt mode neg m e then (wrapTo df.width (if neg then fmtMin df else fmtMax df), fNV)
      else (wrapTo df.width (roundedInt mode neg m e), if (roundAt mode 0 neg m e false 0).exact then 0 else fNX) := rfl

/-- Rounding toward zero to an integer takes the floor of a magnitude, and is exact where that is the magnitude. -/
theorem roundAt_rtz (neg : Bool) (m : Nat) (e : Int) :
    let r := roundAt .rtz 0 neg m e false 0
    let a := (m : ℚ) * 2 ^ e
    (r.n : ℚ) ≤ a ∧ a < r.n + 1 ∧ (r.exact = true ↔ (r.n : ℚ) = a) := by
  intro r a
  by_cases he : 0 ≤ e
  · obtain ⟨k, rfl⟩ := Int.eq_ofNat_of_zero_le he
    have hr : r = { n := m * 2 ^ k, exact := true } := by simp [r, roundAt]
    have ha : ((m * 2 ^ k : Nat) : ℚ) = a := by simp [a]
    rw [hr]
    exact ⟨ha.le, by rw [← ha]; exact lt_add_one _, by simp [ha]⟩
  · obtain ⟨k, rfl⟩ : ∃ k : Nat, e = -(k : Int) := ⟨(-e).toNat, by omega⟩
    have hk : k ≠ 0 := by rintro rfl; exact he (by simp)
    have hpos : (0 : ℚ) < 2 ^ k := by positivity
    have hr : r = { n := m / 2 ^ k, exact := m % 2 ^ k == 0 } := by
      by_cases hrem : m % 2 ^ k = 0 <;> simp [r, roundAt, hk, hrem]
    have hm : (m : ℚ) = 2 ^ k * (m / 2 ^ k : Nat) + (m % 2 ^ k : Nat) := by exact_mod_cast (Nat.div_add_mod m (2 ^ k)).symm
    have hrem : ((m % 2 ^ k : Nat) : ℚ) < 2 ^ k := by exact_mod_cast Nat.mod_lt m (by positivity)
    have ha : a = (m / 2 ^ k : Nat) + (m % 2 ^ k : Nat) / 2 ^ k := by
      simp only [a, zpow_neg, zpow_natCast]
      rw [hm]; field_simp
    rw [hr, ha]
    refine ⟨le_add_of_nonneg_right (by positivity), by simpa [div_lt_one hpos] using hrem, ?_⟩
    simp [div_eq_zero_iff, hpos.ne']

/-- Rounded toward zero, a value is an integer of no greater magnitude and less than one from it; it is the value itself where the rounding is exact. -/
theorem roundedInt_rtz (neg : Bool) (m : Nat) (e : Int) :
    let n := roundedInt .rtz neg m e
    let a := rat (.fin neg m e false)
    |(n : ℚ) - a| < 1 ∧ |(n : ℚ)| ≤ |a| ∧ ((roundAt .rtz 0 neg m e false 0).exact = true ↔ (n : ℚ) = a) := by
  obtain ⟨hle, hlt, hexact⟩ := roundAt_rtz neg m e
  have hn : (0 : ℚ) ≤ (roundAt .rtz 0 neg m e false 0).n := by positivity
  cases neg
  · simp only [roundedInt, rat, Bool.false_eq_true, if_false, one_mul, Int.cast_natCast]
    refine ⟨abs_sub_lt_iff.2 ⟨by linarith, by linarith⟩, abs_le_abs_of_nonneg hn hle, hexact⟩
  · simp only [roundedInt, rat, if_true, neg_mul, one_mul, Int.cast_neg, Int.cast_natCast, abs_neg, neg_inj]
    refine ⟨abs_sub_lt_iff.2 ⟨by linarith, by linarith⟩, abs_le_abs_of_nonneg hn hle, hexact⟩

/-- The sign decides on which side of a format a value lies. -/
theorem clampedSide (df : Fmt) (mode : Rm) (neg : Bool) (m : Nat) (e : Int) :
    (roundedInt mode neg m e < fmtMin df → neg = true) ∧ (fmtMax df < roundedInt mode neg m e → neg = false) := by
  have hmin := fmtMin_nonpos df
  have hmax := fmtMax_nonneg df
  cases neg with
  | false =>
    have hn : 0 ≤ roundedInt mode false m e := Int.natCast_nonneg _
    exact ⟨fun hlow => absurd hlow (by omega), fun _ => rfl⟩
  | true =>
    have hn : roundedInt mode true m e ≤ 0 := Int.neg_nonpos_of_nonneg (Int.natCast_nonneg _)
    exact ⟨fun _ => rfl, fun hhigh => absurd hhigh (by omega)⟩

/-- R82 with RTZ: clamped to the end that the value lies beyond, else the integer, inexact where it is not the value. -/
theorem floatToInt_rtz (df : Fmt) (neg : Bool) (m : Nat) (e : Int) :
    let n := roundedInt .rtz neg m e
    floatToInt df .rtz (.fin neg m e false) =
      if n < fmtMin df then (wrapTo df.width (fmtMin df), fNV) else if fmtMax df < n then (wrapTo df.width (fmtMax df), fNV)
      else (wrapTo df.width n, if (n : ℚ) = rat (.fin neg m e false) then 0 else fNX) := by
  obtain ⟨-, -, hexact⟩ := roundedInt_rtz neg m e
  obtain ⟨hlow, hhigh⟩ := clampedSide df .rtz neg m e
  rw [floatToInt_fin]
  dsimp only
  by_cases hmin : roundedInt .rtz neg m e < fmtMin df
  · rw [if_pos (.inl hmin), if_pos hmin, hlow hmin, if_pos rfl]
  · by_cases hmax : fmtMax df < roundedInt .rtz neg m e
    · rw [if_pos (.inr hmax), if_neg hmin, if_pos hmax, hhigh hmax]; rfl
    · rw [if_neg (by tauto), if_neg hmin, if_neg hmax]
      simp only [hexact]

/-- NaN gives 0 and an infinity its end of the format, a finite value its rounding, an integer its low bits or itself. -/
theorem conversionToInteger : ConversionToInteger := by
  intro df _
  refine ⟨fun mode => ⟨rfl, rfl⟩, fun mode neg => rfl, fun neg m e _ => ?finite, fun sf x _ => ⟨?wraps, fun hlo hhi sat => ?kept⟩⟩
  case finite =>
    obtain ⟨hnear, hless, -⟩ := roundedInt_rtz neg m e
    exact ⟨roundedInt .rtz neg m e, hnear, hless, floatToInt_rtz df neg m e⟩
  case wraps => rw [intToInt_of_wraps, ofNat_wrapTo]
  case kept => rw [intToInt_of_mem df sf sat hlo hhi, ofNat_wrapTo]

/-- Settles O8: CVT, PACK and UNPACK by the law of results with draws, the integers by rounding toward zero and by wrapping. -/
theorem conversionResults : Obligations.ConversionResults := ⟨conversions, conversionToInteger⟩

end Sys2Proof.Machine
end

section
/-! PROOF. AMAX, QSCALE, QUANT and DEQ, which the lanes of a group execute together (spec/03_formats.md R85 to R90, 04_arithmetic_instructions.md R120
to R122), and PRMT (R124). -/

namespace Sys2Proof.Machine

open Sys2Proof Sys2Proof.Claims

/-! ### The end of a collective instruction -/

section

variable {s : State} {v : View} {ws : List RegWrite} {fl : Flags}

/-- The group finds room for every write, so its instruction ends with them. -/
theorem finish_finishes_group (hv : view? s = some v) (hej : v.ej = false) (size : Nat) (hws : ∀ w ∈ ws, ∀ l n x, w = .v l n x → n < 256) :
    Finishes s (finish s v size ws fl) v (v.r.pc + BitVec.ofNat 64 size) ws fl :=
  finishAt_ends (view_some hv) (noSlot_group v _ ((ej_iff v).1 hej)) hws

/-- A collective instruction runs where its registers lie within the allocation (R35). -/
theorem collective_next {regs : List (BitVec 8 × Nat)} {f : View → State} (hv : view? s = some v) (hej : v.ej = false)
    (hreg : v.within false regs = true) : collective s (fun v => if !v.within false regs then illegal s v else f v) = .next (f v) := by
  rw [collective_of hv hej, hreg]
  rfl

/-- A write of every lane to the destination field is a write to a register below 256. -/
theorem laneResults_number_lt (ls : List Nat) (d : BitVec 8) (x : Nat → Half) :
    ∀ w ∈ ls.map (fun l => RegWrite.v l d.toNat (x l)), ∀ l n y, w = .v l n y → n < 256 := by
  rintro w hw l n y rfl
  obtain ⟨k, -, hk⟩ := List.mem_map.1 hw
  cases hk
  exact d.isLt

end

/-! ### Blocks and codes -/

/-- The lead lane of a block of 4 or 8 lanes (R85). -/
theorem leadLane_eq (f : Fmt) (l : Nat) : leadLane f l = (if f = .n4 then 4 else 8) * (l / (if f = .n4 then 4 else 8)) := by
  by_cases hf : f = .n4 <;> simp [leadLane, blockLanes, hf, Nat.mul_comm]

theorem codesOf_eq (f : Fmt) : codesOf f = if f = .n4 then 8 else 4 := by
  by_cases hf : f = .n4 <;> simp [codesOf, hf]

/-- The wide registers of DEQ lie below 256: their first is a multiple of their number (R122). -/
theorem deqOk_register_lt {h : Hdr} {m : CvMod} (hok : deqOk h m = true) {i : Nat} (hi : i < quantRegs m.sf m.df) : h.d.toNat + i < 256 := by
  have hdvd : h.d.toNat % quantRegs m.sf m.df = 0 := by
    simp only [deqOk, Bool.and_eq_true, beq_iff_eq] at hok
    obtain ⟨-, hd⟩ := hok
    exact hd
  have hlt := h.d.isLt
  by_cases hn : m.sf = .n4 <;> by_cases hw : m.df = .f32 <;> simp [quantRegs, hn, hw] at hdvd hi <;> omega

/-! ### PRMT (R124) -/

/-- The reversal of R103 is that of the bit vector. -/
theorem reverseBits_toNat {w : Nat} (b : BitVec w) : reverseBits w b.toNat = b.reverse.toNat := by
  suffices h : ∀ n ≤ w, (List.range n).foldl (fun y i => y + (if b.toNat.testBit (w - 1 - i) then 2 ^ i else 0)) 0 = b.reverse.toNat % 2 ^ n by
    rw [reverseBits, h w le_rfl, Nat.mod_eq_of_lt b.reverse.isLt]
  intro n hn
  induction n with
  | zero => simp [Nat.mod_one]
  | succ n ih =>
    have hbit : b.reverse.toNat.testBit n = b.toNat.testBit (w - 1 - n) := by
      rw [BitVec.testBit_toNat, BitVec.testBit_toNat, BitVec.getLsbD_reverse, BitVec.getMsbD_eq_getLsbD]
      simp [show n < w by omega]
    rw [List.range_succ, List.foldl_append, ih (by omega), Nat.mod_pow_succ, ← Nat.toNat_testBit, hbit]
    cases hb : b.toNat.testBit (w - 1 - n) <;> simp [hb]

theorem unpackBits_toNat {n : Nat} (w : Nat) (b : BitVec n) (j : Nat) : unpackBits w b.toNat j = (b.extractLsb' (w * j) w).toNat := by
  rw [unpackBits, BitVec.extractLsb'_toNat, Nat.shiftRight_eq_div_pow]

theorem unpackBits_byte (x j : Nat) : unpackBits 8 x j = x / 256 ^ j % 256 := by rw [unpackBits, pow_mul]; rfl

/-- The byte that a selector byte takes from the two sources of PRMT: the byte itself, zero, its sign, or its reversal (R124). -/
def selectedByte (pair : BitVec 64) (sel : Nat) : BitVec 8 :=
  let b := pair.extractLsb' (8 * (sel % 8)) 8
  if sel / 8 % 4 = 0 then b else if sel / 8 % 4 = 1 then 0 else if sel / 8 % 4 = 2 then (if b.msb then 0xFF else 0) else b.reverse

theorem permuteByte_toNat (pair : BitVec 64) (sel : Nat) : permuteByte pair.toNat sel = (selectedByte pair sel).toNat := by
  have hmode : sel / 8 % 4 < 4 := Nat.mod_lt _ (by decide)
  simp only [permuteByte, selectedByte, unpackBits_toNat]
  generalize pair.extractLsb' (8 * (sel % 8)) 8 = b
  match sel / 8 % 4, hmode with
  | 0, _ => rfl
  | 1, _ => rfl
  | 2, _ =>
    have hsign : b.toNat / 128 = 1 ↔ b.msb = true := by
      have := b.isLt
      rw [BitVec.msb_eq_decide, decide_eq_true_iff]; omega
    by_cases hm : b.msb = true <;> simp [hsign, hm]
  | 3, _ => exact reverseBits_toNat b

theorem toNat_append_eq_add {m n : Nat} (x : BitVec m) (y : BitVec n) : (x ++ y).toNat = y.toNat + x.toNat * 2 ^ n := by
  rw [BitVec.toNat_append, ← Nat.shiftLeft_add_eq_or_of_lt y.isLt, Nat.shiftLeft_eq, Nat.add_comm]

/-- Four bytes packed are the bytes in a row, byte 0 lowest. -/
theorem packBits_bytes (b : Nat → BitVec 8) : packBits 8 ((List.range 4).map (fun i => (b i).toNat)) = ((b 3 ++ b 2) ++ (b 1 ++ b 0)).toNat := by
  have h0 := (b 0).isLt
  have h1 := (b 1).isLt
  have h2 := (b 2).isLt
  have h3 := (b 3).isLt
  simp only [toNat_append_eq_add, List.range_succ, List.range_zero, List.nil_append, List.cons_append, List.map_cons, List.map_nil, packBits]
  omega

/-- A register of the form that is not wide holds 32 bits. -/
theorem readReg_narrow_lt (r : Regs) (l : Option Nat) (n : BitVec 8) : readReg r l n false < 2 ^ 32 := by
  cases l with
  | some l => exact (r.vget l n.toNat).isLt
  | none => exact Nat.mod_lt _ (by decide)

/-- The sources of PRMT side by side (R124). -/
theorem pair_toNat (r : Regs) (l : Option Nat) (a b : BitVec 8) :
    (BitVec.ofNat 32 (readReg r l b false) ++ BitVec.ofNat 32 (readReg r l a false)).toNat = readReg r l a false + readReg r l b false * 2 ^ 32 := by
  rw [toNat_append_eq_add, BitVec.toNat_ofNat, BitVec.toNat_ofNat, Nat.mod_eq_of_lt (readReg_narrow_lt ..), Nat.mod_eq_of_lt (readReg_narrow_lt ..)]

/-- PRMT ends with the selected bytes of both sources in its destinations. -/
theorem exec_prmt_ends {s : State} {v : View} {h : Hdr} {ck : CKind} (hv : view? s = some v)
    (hc : Computes v h ([(h.d, 1), (h.a, 1), (h.b, 1)] ++ (if ck == .vreg then [(h.c, 1)] else [])) (destRegs h.d false)) :
    let pair := fun (l : Option Nat) => BitVec.ofNat 32 (readReg v.r l h.b false) ++ BitVec.ofNat 32 (readReg v.r l h.a false)
    let sel := fun (l : Option Nat) (i : Nat) => (if ck = .kreg then readK v.r h.c false else readReg v.r l h.c false) / 256 ^ i % 256
    let out := fun l i => selectedByte (pair l) (sel l i)
    ∃ t r, exec (.prmt h ck) s = .next t ∧ Ends s t v (v.r.pc + 8) 0 (Dest v h false) r ∧
      ∀ l ∈ v.places h, Holds r l h.d false false ((out l 3 ++ out l 2) ++ (out l 1 ++ out l 0)).toNat := by
  intro pair sel out
  obtain ⟨t, r, hexec, hends, hholds⟩ := compute_results (s := s) (h := h) (size := 8) (wide := false) (signed := false)
    (f := fun v l => (packBits 8 ((List.range 4).map (fun i => permuteByte (readReg v.r l h.a false + readReg v.r l h.b false * 2 ^ 32)
      (unpackBits 8 (if ck == .kreg then readK v.r h.c false else readReg v.r l h.c false) i))), 0)) hv (by simp) hc
  refine ⟨t, r, hexec, ?_, fun l hl => ?_⟩
  · rwa [flagsAll_map_zero] at hends
  · have hout := hholds l hl
    simp only [← pair_toNat, permuteByte_toNat, unpackBits_byte, beq_iff_eq] at hout
    rw [← packBits_bytes (out l)]
    exact hout

/-- Settles O9: the four collective instructions end with the writes of their lanes, PRMT with its destinations holding the selected bytes. -/
theorem quantiseAndPermute : Obligations.QuantiseAndPermute := by
  intro s v h hv
  refine ⟨fun m _ hej hreg => ⟨_, collective_next hv hej hreg, ?amax⟩, fun m _ hej hreg => ⟨_, collective_next hv hej hreg, ?qscale⟩,
    fun m _ hej hreg => ⟨_, collective_next hv hej hreg, ?quant⟩, fun m hok hej hreg => ⟨_, collective_next hv hej hreg, ?deq⟩, fun ck _ hc => ?prmt⟩
  case amax => exact finish_finishes_group hv hej 8 (laneResults_number_lt (v.active h) h.d _)
  case qscale =>
    simp only [leadLane_eq, beq_iff_eq]
    exact finish_finishes_group hv hej 8 (laneResults_number_lt (v.active h) h.d _)
  case quant =>
    simp only [List.flatMap_map, List.map_map, beq_iff_eq, codesOf_eq, flagsAll_flatMap, List.zipWith_map_right]
    refine finish_finishes_group hv hej 8 ?_
    rintro w hw k n y rfl
    obtain ⟨l, -, hwl⟩ := List.mem_flatMap.1 hw
    rcases List.mem_cons.1 hwl with hres | hgen
    · cases hres; exact h.d.isLt
    · obtain ⟨_, _, hc⟩ := stepsGenerators_draws _ _ _ _ _ hgen
      cases hc
  case deq =>
    simp only [List.flatMap_map, List.map_map, beq_iff_eq, codesOf_eq, flagsAll_flatMap]
    refine finish_finishes_group hv hej 8 ?_
    rintro w hw k n y rfl
    obtain ⟨l, -, hwl⟩ := List.mem_flatMap.1 hw
    obtain ⟨i, hi, hres⟩ := List.mem_map.1 hwl
    cases hres
    exact deqOk_register_lt hok (List.mem_range.1 hi)
  case prmt => exact exec_prmt_ends hv hc

end Sys2Proof.Machine
end

section
/-! PROOF. The laws of instructions that write registers or predicates, in both forms and in a window (spec/02_encoding.md R35, R38,
04_arithmetic_instructions.md R94, R95, R98), and of the mirror check (R319). -/

namespace Sys2Proof.Machine

open Sys2Proof Sys2Proof.Claims

/-! ### What an instruction's results leave, in both forms -/

/-- What a destination holds is what its registers read, whatever PC, flags and windows are. -/
theorem holds_after (r : Regs) (pc : Word) (ws : List RegWrite) (fl : Flags) (win : List Pend) (l : Option Nat) (d : BitVec 8) (wide signed : Bool) (x : Nat) :
    Holds (r.after pc ws fl win) l d wide signed x ↔ Holds (r.writes ws) l d wide signed x := by
  cases l <;> simp [Holds, Regs.v64]

section

variable {s : State} {v : View} {h : Hdr} {wide signed : Bool} {size : Nat} {regs : List (BitVec 8 × Nat)}
  {x : View → Option Nat → Nat} {fl : View → Option Nat → Flags}

/-- A 64-bit destination is an even register in the lane form only (R21), so the group-wide form asks for nothing. -/
theorem holds_results_of_form (r : Regs) (x : Option Nat → Nat) (hd : h.u = false → wide = true → h.d.toNat % 2 = 0) {l : Option Nat} (hl : l ∈ v.places h) :
    Holds (r.writes ((v.places h).flatMap (fun l => writeReg l h.d wide signed (x l)))) l h.d wide signed (x l) := by
  cases hu : h.u with
  | false => exact holds_results r v h wide signed x (hd hu) l hl
  | true =>
    cases wide with
    | false => exact holds_results r v h false signed x (by simp) l hl
    | true =>
      have hgo : v.groupOn h = true := by
        by_contra hgo
        simp [View.places, hu, hgo] at hl
      have hplaces : v.places h = [none] := by simp [View.places, hu, hgo]
      rw [hplaces] at hl ⊢
      rw [List.mem_singleton.1 hl]
      simp [Holds, writeReg]

theorem results_number_lt (x : Option Nat → Nat) (hd : h.u = false → wide = true → h.d.toNat % 2 = 0) :
    ∀ w ∈ (v.places h).flatMap (fun l => writeReg l h.d wide signed (x l)), ∀ k n y, w = .v k n y → n < 256 := by
  simpa using results_gens_number_lt (v := v) (x := x) (signed := signed) (gens := fun _ => []) (fun _ => stepsGenerators_nil) hd

/-- THE LAW OF RESULTS, IN BOTH FORMS: `compute` ends with the results in their destinations and every other register as it was. -/
theorem compute_ends (hv : view? s = some v) (hd : h.u = false → wide = true → h.d.toNat % 2 = 0) (hc : Computes v h regs (destRegs h.d wide)) :
    ∃ t r, compute s h size false regs (fun v l => (writeReg l h.d wide signed (x v l), fl v l)) = .next t ∧
      Ends s t v (v.r.pc + BitVec.ofNat 64 size) (flagsAll ((v.places h).map (fl v))) (Dest v h wide) r ∧
      ∀ l ∈ v.places h, Holds r l h.d wide signed (x v l) := by
  obtain ⟨t, hnext, hends⟩ := compute_finishes_plain (signed := signed) (x := x) (fl := fl) hv hc hd
  exact ⟨t, _, hnext, ends_congr (names_results v h wide signed (x v)) hends,
    fun l hl => (holds_after ..).2 (holds_results_of_form v.r (x v) hd hl)⟩

/-- Results that raise no flag. -/
theorem compute_ends_quiet (hv : view? s = some v) (hd : h.u = false → wide = true → h.d.toNat % 2 = 0) (hc : Computes v h regs (destRegs h.d wide)) :
    ∃ t r, compute s h size false regs (fun v l => (writeReg l h.d wide signed (x v l), 0)) = .next t ∧
      Ends s t v (v.r.pc + BitVec.ofNat 64 size) 0 (Dest v h wide) r ∧ ∀ l ∈ v.places h, Holds r l h.d wide signed (x v l) := by
  obtain ⟨t, r, hnext, hends, hholds⟩ := compute_ends (size := size) (signed := signed) (x := x) (fl := fun _ _ => 0) hv hd hc
  rw [flagsAll_map_zero] at hends
  exact ⟨t, r, hnext, hends, hholds⟩

/-- THE LAW OF A WINDOW: a long-latency instruction changes no register; its writes wait in a new window (R38). -/
theorem finishLong_finishes {ws : List RegWrite} {fl : Flags} (hv : view? s = some v) (hslot : v.noSlot ws = false) :
    FinishesLong s (finishLong s v h ws fl) v h ws fl := by
  refine ⟨_, ends_congr (by simp) (finishAt_ends (view_some hv) (ws := []) (by simpa using hslot) (by simp)), ?_⟩
  exact ⟨_, by simp [cancelWrites, tickPend], Regs.after_pend ..⟩

/-- THE LAW OF LATE RESULTS: a long-latency instruction whose results wait in its window. -/
theorem compute_ends_long (hv : view? s = some v) (hd : h.u = false → wide = true → h.d.toNat % 2 = 0) (hc : Computes v h regs (destRegs h.d wide)) :
    ∃ t r ws, compute s h size true regs (fun v l => (writeReg l h.d wide signed (x v l), fl v l)) = .next t ∧
      Ends s t v (v.r.pc + 8) (flagsAll ((v.places h).map (fl v))) (fun _ => False) r ∧ Opens s v h r ws ∧
      ∀ l ∈ v.places h, Holds (v.r.writes ws) l h.d wide signed (x v l) := by
  have hslot := noSlot_results (view_some hv) (h := h) (signed := signed) (x := x v) hc.group hc.slot
  obtain ⟨r, hends, hopens⟩ := finishLong_finishes (h := h) (fl := flagsAll ((v.places h).map (fl v))) hv hslot
  refine ⟨_, r, _, ?_, hends, hopens, fun l hl => holds_results_of_form v.r (x v) hd hl⟩
  rw [compute_next_long hv hc.group hc.within hc.agree, List.flatMap_map, List.map_map]
  rfl

/-- A computation is what it does at the places where it runs. -/
theorem compute_congr {long : Bool} {f g : View → Option Nat → List RegWrite × Flags} (hv : view? s = some v) (hfg : ∀ l ∈ v.places h, f v l = g v l) :
    compute s h size long regs f = compute s h size long regs g := by
  have hmap : (v.places h).map (f v) = (v.places h).map (g v) := List.map_congr_left hfg
  simp only [compute, computeBy, withView_of hv, hmap]

/-- THE MIRROR CHECK: a comparison that fails raises SOFT before any lane writes (R319). -/
theorem compute_mismatch {long : Bool} {f : View → Option Nat → List RegWrite × Flags} (hv : view? s = some v) (hej : v.ej = false)
    (hregs : v.within h.u regs = true) (hwin : v.r.awaiting = false) (hbad : v.mismatch h ≠ 0) :
    compute s h size long regs f = .next (takeTrap (s.mapGroup v.ag.blk v.ag.grp (fun g => { g with strike := 0 })) v
      { cause := .soft, code := 1, lanes := v.mismatch h }) := by
  simp only [compute, computeBy, withView_of hv, hej, hregs, mirrorTrap, hwin, if_pos hbad, Bool.false_and, Bool.not_true, Bool.false_eq_true, if_false]

end

/-! ### Predicate results (R35) -/

section

variable {s : State} {v : View} {h : Hdr} {size : Nat} {regs : List (BitVec 8 × Nat)}

/-- A predicate result goes to the form's predicate. -/
theorem names_predicates (v : View) (h : Hdr) (p : Option Nat → Bool) (n : RegName) :
    (∃ w ∈ (v.places h).map (fun l => writePred l h.d (p l)), nameOf w = n) ↔ PredDest v h n := by
  unfold View.places PredDest
  cases hu : h.u
  · simp [writePred, nameOf, eq_comm]
  · cases hgo : v.groupOn h <;> simp [writePred, nameOf, eq_comm]

/-- Writing predicates takes no lane register. -/
theorem laneRegs_predicates (ls : List (Option Nat)) (d : BitVec 8) (p : Option Nat → Bool) : laneRegs (ls.map (fun l => writePred l d (p l))) = [] := by
  refine List.filterMap_eq_nil_iff.2 fun w hw => ?_
  obtain ⟨l, -, rfl⟩ := List.mem_map.1 hw
  cases l <;> rfl

theorem predicates_number_lt (ls : List (Option Nat)) (d : BitVec 8) (p : Option Nat → Bool) :
    ∀ w ∈ ls.map (fun l => writePred l d (p l)), ∀ k n y, w = .v k n y → n < 256 := by
  intro w hw k n y hwy
  obtain ⟨l, -, hl⟩ := List.mem_map.1 hw
  cases l <;> (rw [hwy] at hl; cases hl)

/-- A lane's predicate is the last that is written for it. -/
theorem pget_predicates (r : Regs) {ls : List Nat} (hlt : ∀ l ∈ ls, l < 64) (hnd : ls.Nodup) (n : Nat) (p : Nat → Bool) {l : Nat} (hl : l ∈ ls) :
    (r.writes (ls.map (fun l => RegWrite.p l n (p l)))).pget l n = p l := by
  induction ls generalizing r with
  | nil => cases hl
  | cons k ls ih =>
    obtain ⟨hk, hnd⟩ := List.nodup_cons.1 hnd
    have hlt' : ∀ l ∈ ls, l < 64 := fun l hl => hlt l (List.mem_cons_of_mem _ hl)
    rw [List.map_cons, Regs.writes_cons]
    rcases List.mem_cons.1 hl with rfl | hmem
    · rw [Regs.writes_keep (fun r => r.pget l n) _ fun w hw r => ?_]
      · exact Regs.pget_write_same r l n (p l) (hlt l hl)
      · obtain ⟨j, hj, rfl⟩ := List.mem_map.1 hw
        refine Regs.pget_write_ne r _ l n (hlt l hl) fun l' n' b hw => .inl ?_
        cases hw
        rintro rfl
        exact hk hj
    · exact ih _ hlt' hnd hmem

theorem readPred_predicates (r : Regs) (hd : h.d.toNat < 8) (p : Option Nat → Bool) {l : Option Nat} (hl : l ∈ v.places h) :
    readPred (r.writes ((v.places h).map (fun l => writePred l h.d (p l)))) l h.d = p l := by
  unfold View.places at hl ⊢
  cases hu : h.u
  · simp only [hu, Bool.false_eq_true, if_false] at hl ⊢
    obtain ⟨k, hk, rfl⟩ := List.mem_map.1 hl
    rw [List.map_map]
    exact pget_predicates r (fun _ => active_lt) (active_nodup v h) h.d.toNat (fun l => p (some l)) hk
  · cases hgo : v.groupOn h
    · simp [hu, hgo] at hl
    · simp only [hu, hgo, if_true, List.mem_singleton] at hl ⊢
      subst hl
      exact Regs.qget_write_same r _ _ hd

/-- THE LAW OF PREDICATE RESULTS: a comparison ends with its predicate written at every place and every register as it was. -/
theorem compute_ends_pred {p : View → Option Nat → Bool} {fl : View → Option Nat → Flags} (hv : view? s = some v) (hd : h.d.toNat < 8) (hc : Computes v h regs []) :
    ∃ t r, compute s h size false regs (fun v l => ([writePred l h.d (p v l)], fl v l)) = .next t ∧
      Ends s t v (v.r.pc + BitVec.ofNat 64 size) (flagsAll ((v.places h).map (fl v))) (PredDest v h) r ∧
      ∀ l ∈ v.places h, readPred r l h.d = p v l := by
  have hslot : v.noSlot ((v.places h).map (fun l => writePred l h.d (p v l))) = false := by
    rw [noSlot_congr v (xs := []) (laneRegs_predicates ..)]
    exact noSlot_nil v
  have hnext := compute_next (s := s) (size := size) (f := fun v l => ([writePred l h.d (p v l)], fl v l)) hv hc.group hc.within hc.agree
  rw [List.flatMap_map, List.map_map, ← List.map_eq_flatMap] at hnext
  refine ⟨_, _, hnext, ends_congr (names_predicates v h (p v)) (finishAt_ends (view_some hv) (by simpa using hslot) (predicates_number_lt _ _ _)), fun l hl => ?_⟩
  rw [← readPred_predicates v.r hd (p v) hl]
  cases l <;> simp [readPred]

/-- Where the width of the destination matters in one form only, the same registers take the result. -/
theorem computes_of_form {wide wide' : Bool} (hform : h.u = false → wide' = wide) (hc : Computes v h regs (destRegs h.d wide)) :
    Computes v h regs (destRegs h.d wide') := by
  cases hu : h.u with
  | false => rwa [hform hu]
  | true => exact ⟨hc.group, hc.within, noSlot_group v _ ((ej_iff v).1 (hc.group hu)), hc.agree⟩

theorem dest_of_form {wide wide' : Bool} (hform : h.u = false → wide' = wide) (n : RegName) : Dest v h wide' n ↔ Dest v h wide n := by
  unfold Dest
  cases hu : h.u with
  | false => rw [hform hu]
  | true => rfl

/-- The places of a form are its lanes or the group. -/
theorem place_of_form {l : Option Nat} (hl : l ∈ v.places h) : (∃ k, l = some k ∧ h.u = false) ∨ (l = none ∧ h.u = true) := by
  unfold View.places at hl
  cases hu : h.u
  · simp only [hu, Bool.false_eq_true, if_false, List.mem_map] at hl
    obtain ⟨k, -, rfl⟩ := hl
    exact .inl ⟨k, rfl, rfl⟩
  · simp only [hu, if_true] at hl
    split at hl
    · exact .inr ⟨List.mem_singleton.1 hl, rfl⟩
    · cases hl

end

end Sys2Proof.Machine
end

section
/-! PROOF. Elements of integer operands and the operations on them (spec/02_encoding.md R43, 04_arithmetic_instructions.md R96, R101 to R103). -/

namespace Sys2Proof.Machine

open Sys2Proof Sys2Proof.Claims

/-! ### Elements -/

theorem readReg_lt (r : Regs) (l : Option Nat) (n : BitVec 8) (wide : Bool) : readReg r l n wide < 2 ^ (if wide then 64 else 32) := by
  cases l <;> cases wide <;> simp only [readReg, if_true, Bool.false_eq_true, if_false]
  case none.false => exact Nat.mod_lt _ (by decide)
  all_goals exact BitVec.isLt _

theorem readK_lt (r : Regs) (n : BitVec 8) (wide : Bool) : readK r n wide < 2 ^ (if wide then 64 else 32) := readReg_lt r none n wide

theorem wrapTo_eq_ofInt (w : Nat) (z : Int) : wrapTo w z = (BitVec.ofInt w z).toNat := by rw [BitVec.toNat_ofInt, wrapTo]

theorem wrapTo_lt (w : Nat) (z : Int) : wrapTo w z < 2 ^ w := by rw [wrapTo_eq_ofInt]; exact BitVec.isLt _

theorem twice16_lt (x : Nat) : twice16 x < 2 ^ 32 := by unfold twice16; omega

theorem intImm_lt (ty : IntTy) (ck : CKind) (c : BitVec 8) : intImm ty ck c < 2 ^ (if ty.wide then 64 else 32) := by
  cases ty with
  | i16x2 | ui16x2 => exact twice16_lt _
  | i32 | ui32 => exact wrapTo_lt 32 _
  | i64 | ui64 => exact wrapTo_lt 64 _

theorem second_lt (r : Regs) (l : Option Nat) (h : Hdr) (bk : Bool) (ck : CKind) {wide : Bool} {imm : Nat} (himm : imm < 2 ^ (if wide then 64 else 32)) :
    second r l h bk ck wide imm < 2 ^ (if wide then 64 else 32) := by
  cases ck with
  | vreg => cases bk; exacts [readReg_lt .., readK_lt ..]
  | kreg => exact readK_lt ..
  | immZ | immS => exact himm

theorem secondOf3_lt (r : Regs) (l : Option Nat) (h : Hdr) (bk wide : Bool) : secondOf3 r l h bk wide < 2 ^ (if wide then 64 else 32) := by
  cases bk; exacts [readReg_lt .., readK_lt ..]

theorem third_lt (r : Regs) (l : Option Nat) (h : Hdr) (ck : CKind) {wide : Bool} {imm : Nat} (himm : imm < 2 ^ (if wide then 64 else 32)) :
    third r l h ck wide imm < 2 ^ (if wide then 64 else 32) := by
  cases ck with
  | vreg => exact readReg_lt ..
  | kreg => exact readK_lt ..
  | immZ | immS => exact himm

theorem packedElems_lt (sw : BitVec 2) (x : Nat) : ∀ a ∈ packedElems sw x, a < 2 ^ 16 := by
  intro a ha
  unfold packedElems at ha
  split at ha <;> simp only [List.mem_cons, List.not_mem_nil, or_false] at ha <;> omega

/-- The elements of a value that fits the type's registers fit the type. -/
theorem intElems_lt {ty : IntTy} (sw : BitVec 2) {x : Nat} (hx : x < 2 ^ (if ty.wide then 64 else 32)) : ∀ a ∈ intElems ty sw x, a < 2 ^ ty.width := by
  cases ty with
  | i16x2 | ui16x2 => exact packedElems_lt sw x
  | i32 | ui32 | i64 | ui64 =>
    intro a ha
    rw [List.mem_singleton.1 ha]
    exact hx

section

variable (v : View) (h : Hdr) (m : IntMod) (l : Option Nat)

theorem srcA_lt : ∀ a ∈ srcA v h m l, a < 2 ^ m.ty.width := intElems_lt _ (readReg_lt ..)
theorem intSecond_lt : ∀ b ∈ intSecond v.r l h m, b < 2 ^ m.ty.width := intElems_lt _ (second_lt _ _ _ _ _ (intImm_lt ..))
theorem srcB3_lt : ∀ b ∈ srcB3 v h m l, b < 2 ^ m.ty.width := intElems_lt _ (secondOf3_lt ..)
theorem srcC_lt : ∀ c ∈ srcC v h m l, c < 2 ^ m.ty.width := intElems_lt _ (third_lt _ _ _ _ (intImm_lt ..))
theorem oldD_lt : ∀ d ∈ oldD v h m l, d < 2 ^ m.ty.width := intElems_lt _ (readReg_lt ..)

end

/-- Operations that agree on the elements of two sources give the same results. -/
theorem zipWith_congr_mem {α β γ : Type} {f g : α → β → γ} {as : List α} {bs : List β} (hfg : ∀ a ∈ as, ∀ b ∈ bs, f a b = g a b) :
    List.zipWith f as bs = List.zipWith g as bs := by
  rw [← List.map_uncurry_zip_eq_zipWith, ← List.map_uncurry_zip_eq_zipWith]
  refine List.map_congr_left fun p hp => ?_
  obtain ⟨ha, hb⟩ := List.of_mem_zip hp
  exact hfg _ ha _ hb

/-! ### Values of elements (R101) -/

theorem signedOf_eq_toInt (w x : Nat) : signedOf w x = (BitVec.ofNat w x).toInt := by
  rw [signedOf, BitVec.toInt, BitVec.toNat_ofNat]
  cases w with
  | zero => simp [Nat.mod_one]
  | succ w =>
    have hpow : 2 ^ (w + 1) = 2 * 2 ^ w := by rw [pow_succ, Nat.mul_comm]
    simp only [Nat.add_sub_cancel, hpow, Nat.mul_lt_mul_left (by decide : 0 < 2)]

theorem intVal_eq_value (ty : IntTy) (x : Nat) : intVal ty x = value ty x := by
  rw [intVal, value, signedOf_eq_toInt, BitVec.toNat_ofNat]

theorem intMin_eq_lowest (ty : IntTy) : intMin ty = lowest ty := by cases ty <;> rfl
theorem intMax_eq_highest (ty : IntTy) : intMax ty = highest ty := by cases ty <;> rfl

theorem lowest_le_highest (ty : IntTy) : lowest ty ≤ highest ty := by cases ty <;> decide

theorem narrow_eq_fit (ty : IntTy) (sat : Bool) (z : Int) : narrow ty sat z = fit ty sat z := by
  have hrange := lowest_le_highest ty
  rw [narrow, fit, wrapTo_eq_ofInt, intMin_eq_lowest, intMax_eq_highest]
  congr 2
  cases sat with
  | false => rfl
  | true =>
    simp only [if_true]
    split_ifs <;> omega

/-- A word of the type is what its value fits to. -/
theorem fit_value (ty : IntTy) {x : Nat} (hx : x < 2 ^ ty.width) : fit ty false (value ty x) = x := by
  cases hs : ty.signed <;> simp [fit, value, hs, Nat.mod_eq_of_lt hx]

theorem word_toNat (m : IntMod) {x : Nat} (hx : x < 2 ^ m.ty.width) : (word m x).toNat = x := by
  rw [word, BitVec.toNat_ofNat, Nat.mod_eq_of_lt hx]

theorem word_getLsbD (m : IntMod) {x : Nat} (hx : x < 2 ^ m.ty.width) (i : Nat) : (word m x).getLsbD i = x.testBit i := by
  rw [BitVec.getLsbD, word_toNat m hx]

/-! ### Operations on elements -/

theorem fit_min (ty : IntTy) {a b : Nat} (ha : a < 2 ^ ty.width) (hb : b < 2 ^ ty.width) :
    fit ty false (min (value ty a) (value ty b)) = if value ty b < value ty a then b else a := by
  split
  · next hlt => rw [min_eq_right hlt.le, fit_value ty hb]
  · next hle => rw [min_eq_left (not_lt.1 hle), fit_value ty ha]

theorem fit_max (ty : IntTy) {a b : Nat} (ha : a < 2 ^ ty.width) (hb : b < 2 ^ ty.width) :
    fit ty false (max (value ty a) (value ty b)) = if value ty a < value ty b then b else a := by
  split
  · next hlt => rw [max_eq_right hlt.le, fit_value ty hb]
  · next hle => rw [max_eq_left (not_lt.1 hle), fit_value ty ha]

/-- The high half of a product is its floor division by 2^w. -/
theorem fit_high (ty : IntTy) (z : Int) : wrapTo (2 * ty.width) z / 2 ^ ty.width = fit ty false (z / 2 ^ ty.width) := by
  have hpos : (0 : Int) < 2 ^ ty.width := by positivity
  rw [fit, ← wrapTo_eq_ofInt, wrapTo, wrapTo]
  zify
  rw [Int.toNat_of_nonneg (Int.emod_nonneg _ (by positivity)), if_neg (by simp), Int.toNat_of_nonneg (Int.emod_nonneg _ (by positivity))]
  rw [two_mul, pow_add]
  generalize (2 : Int) ^ ty.width = q at hpos
  rw [Int.emod_def, Int.emod_def, ← Int.ediv_ediv_of_nonneg hpos.le, Int.mul_assoc, Int.sub_eq_add_neg, ← Int.mul_neg, Int.add_mul_ediv_left _ _ hpos.ne']
  ring

theorem shiftLeft_word (m : IntMod) {a : Nat} (ha : a < 2 ^ m.ty.width) (n : Nat) : (word m a <<< n).toNat = a * 2 ^ n % 2 ^ m.ty.width := by
  rw [BitVec.toNat_shiftLeft, word_toNat m ha, Nat.shiftLeft_eq]

theorem shiftRight_word (m : IntMod) {a : Nat} (ha : a < 2 ^ m.ty.width) (n : Nat) : (word m a >>> n).toNat = a / 2 ^ n := by
  rw [BitVec.toNat_ushiftRight, word_toNat m ha, Nat.shiftRight_eq_div_pow]

theorem sshiftRight_word (m : IntMod) (a n : Nat) :
    ((word m a).sshiftRight n).toNat = wrapTo m.ty.width (Int.fdiv (signedOf m.ty.width a) ((2 ^ n : Nat) : Int)) := by
  rw [wrapTo_eq_ofInt, signedOf_eq_toInt, Int.fdiv_eq_ediv_of_nonneg _ (by positivity), ← Int.shiftRight_eq_div_pow, ← BitVec.toInt_sshiftRight, BitVec.ofInt_toInt]
  rfl

/-- Bits counted one by one. -/
theorem length_filter_eq_sum {α : Type} (p : α → Bool) (ls : List α) : (ls.filter p).length = (ls.map (fun i => (p i).toNat)).sum := by
  induction ls with
  | nil => rfl
  | cons i ls ih => cases hp : p i <;> simp [hp, ih, Nat.add_comm]

/-- The leading zeros of a number below 2^w. -/
theorem leadingZeros_eq {w a : Nat} (ha : a < 2 ^ w) : ((List.range w).reverse.takeWhile (fun i => !a.testBit i)).length = w - bitLen a := by
  induction w with
  | zero => simp
  | succ w ih =>
    rw [List.range_succ, List.reverse_append, List.reverse_singleton, List.singleton_append]
    by_cases hlt : a < 2 ^ w
    · have hlen : bitLen a ≤ w := by
        unfold bitLen
        split
        · exact Nat.zero_le _
        · next hne => exact (Nat.log2_lt hne).2 hlt
      rw [List.takeWhile_cons_of_pos (by simp [Nat.testBit_lt_two_pow hlt]), List.length_cons, ih hlt]
      omega
    · have hpos := Nat.two_pow_pos w
      have hlog : a.log2 = w := (Nat.log2_eq_iff (by omega)).2 ⟨not_lt.1 hlt, ha⟩
      have hbit : a.testBit w = true := Nat.testBit_of_two_pow_le_and_two_pow_add_one_gt (not_lt.1 hlt) ha
      rw [List.takeWhile_cons_of_neg (by simp [hbit]), bitLen, if_neg (by omega), hlog]
      simp

/-- The first number below w with a property, or w, is how many come before it. -/
theorem find_range_eq_takeWhile (p : Nat → Bool) (w : Nat) : ((List.range w).find? p).getD w = ((List.range w).takeWhile (fun i => !p i)).length := by
  induction w with
  | zero => rfl
  | succ w ih =>
    rw [List.range_succ, List.find?_append, List.takeWhile_append, List.length_range]
    cases hfind : (List.range w).find? p with
    | some i =>
      have hi : i < w := List.mem_range.1 (List.mem_of_find?_eq_some hfind)
      rw [hfind] at ih
      rw [← ih, if_neg (by simpa using hi.ne), ← ih]
      rfl
    | none =>
      rw [hfind] at ih
      rw [← ih, Option.getD_none, if_pos rfl]
      cases hp : p w <;> simp [hp]

/-! ### Fields of bits (R103) -/

/-- A field of n bits at p replaced, bit by bit. -/
theorem testBit_insert (a d p n i : Nat) :
    (d - d / 2 ^ p % 2 ^ n * 2 ^ p + a % 2 ^ n * 2 ^ p).testBit i = if p ≤ i ∧ i < p + n then a.testBit (i - p) else d.testBit i := by
  have hlow : d % 2 ^ p < 2 ^ p := Nat.mod_lt _ (Nat.two_pow_pos p)
  have hfield : a % 2 ^ n < 2 ^ n := Nat.mod_lt _ (Nat.two_pow_pos n)
  have hd : d = 2 ^ p * (2 ^ n * (d / 2 ^ p / 2 ^ n) + d / 2 ^ p % 2 ^ n) + d % 2 ^ p := by rw [Nat.div_add_mod, Nat.div_add_mod]
  have hnew : d - d / 2 ^ p % 2 ^ n * 2 ^ p + a % 2 ^ n * 2 ^ p = 2 ^ p * (2 ^ n * (d / 2 ^ p / 2 ^ n) + a % 2 ^ n) + d % 2 ^ p := by
    rw [Nat.mul_add, Nat.mul_comm _ (2 ^ p), Nat.mul_comm _ (2 ^ p)]
    rw [Nat.mul_add] at hd
    omega
  rw [hnew, Nat.testBit_two_pow_mul_add _ hlow, Nat.testBit_two_pow_mul_add _ hfield]
  simp only [Nat.testBit_mod_two_pow, Nat.testBit_div_two_pow]
  by_cases hp : i < p
  · simp [hp]
  · by_cases hn : i - p < n
    · simp [hp, hn, show p ≤ i ∧ i < p + n by omega]
    · simp [hp, hn, show ¬ i < p + n by omega, show i - p - n + n + p = i by omega]

/-- The bit vector of a list of booleans made by position. -/
theorem testBit_ofBoolListLE (w : Nat) (p : Nat → Bool) (i : Nat) :
    (BitVec.ofBoolListLE ((List.range w).map p)).toNat.testBit i = (decide (i < w) && p i) := by
  rw [BitVec.testBit_toNat, BitVec.getLsbD_ofBoolListLE]
  by_cases hi : i < w <;> simp [hi, List.getD_eq_getElem?_getD]

/-- A field is empty where it starts past the word or has length 0; it ends with the word at the latest. -/
theorem fieldOf_eq (w pos len : Nat) : fieldOf w pos len =
    if min (len % 256) (w - pos % 256) = 0 then none else some (pos % 256, min (len % 256) (w - pos % 256)) := by
  unfold fieldOf
  dsimp only
  split_ifs with h1 h2 h2
  · rfl
  · omega
  · omega
  · rfl

/-- BFX: the field, extended by the type's sign. -/
theorem extractField (m : IntMod) {a : Nat} (ha : a < 2 ^ m.ty.width) (b c : Nat) :
    (match fieldOf m.ty.width b c with
      | none => 0
      | some (p, n) => let x := a / 2 ^ p % 2 ^ n; if m.ty.signed then wrapTo m.ty.width (signedOf n x) else x) =
    let p := b % 256
    let n := min (c % 256) (m.ty.width - p)
    if n = 0 then 0 else
      let x := (word m a).extractLsb' p n
      (if m.ty.signed then x.signExtend m.ty.width else x.zeroExtend m.ty.width).toNat := by
  rw [fieldOf_eq]
  dsimp only
  have hlen : min (c % 256) (m.ty.width - b % 256) ≤ m.ty.width := by omega
  generalize min (c % 256) (m.ty.width - b % 256) = n at hlen
  by_cases hn : n = 0
  · rw [if_pos hn, if_pos hn]
  have hfield : a / 2 ^ (b % 256) % 2 ^ n = ((word m a).extractLsb' (b % 256) n).toNat := by
    rw [BitVec.extractLsb'_toNat, word_toNat m ha, Nat.shiftRight_eq_div_pow]
  rw [if_neg hn, if_neg hn]
  dsimp only
  rw [hfield]
  generalize (word m a).extractLsb' (b % 256) n = x
  split
  · rw [signedOf_eq_toInt, BitVec.ofNat_toNat, BitVec.setWidth_eq, wrapTo_eq_ofInt]
    rfl
  · rw [BitVec.zeroExtend, BitVec.toNat_setWidth, Nat.mod_eq_of_lt (x.isLt.trans_le (Nat.pow_le_pow_right (by decide) hlen))]

/-- BFI: the low bits of a over the field of the old destination. -/
theorem insertField (m : IntMod) {a d : Nat} (ha : a < 2 ^ m.ty.width) (hd : d < 2 ^ m.ty.width) (b c : Nat) :
    (match fieldOf m.ty.width b c with
      | none => d
      | some (p, n) => d - d / 2 ^ p % 2 ^ n * 2 ^ p + a % 2 ^ n * 2 ^ p) =
    let p := b % 256
    let n := min (c % 256) (m.ty.width - p)
    (BitVec.ofBoolListLE ((List.range m.ty.width).map (fun i =>
      if p ≤ i ∧ i < p + n then (word m a).getLsbD (i - p) else (word m d).getLsbD i))).toNat := by
  rw [fieldOf_eq]
  dsimp only
  have hend : ∀ i, i < b % 256 + min (c % 256) (m.ty.width - b % 256) → b % 256 ≤ i → i < m.ty.width := by omega
  generalize b % 256 = p, min (c % 256) (m.ty.width - b % 256) = n at hend
  -- an empty field leaves the old destination, by the same formula
  have hformula : (match if n = 0 then none else some (p, n) with
      | none => d
      | some (p, n) => d - d / 2 ^ p % 2 ^ n * 2 ^ p + a % 2 ^ n * 2 ^ p) = d - d / 2 ^ p % 2 ^ n * 2 ^ p + a % 2 ^ n * 2 ^ p := by
    by_cases hn : n = 0
    · rw [if_pos hn, hn, pow_zero, Nat.mod_one, Nat.mod_one]; simp
    · rw [if_neg hn]
  refine Eq.trans hformula (Nat.eq_of_testBit_eq fun i => ?_)
  rw [testBit_insert, testBit_ofBoolListLE, word_getLsbD m ha, word_getLsbD m hd]
  by_cases hi : i < m.ty.width
  · rw [decide_eq_true hi, Bool.true_and]
  · rw [decide_eq_false hi, Bool.false_and, if_neg fun hin => hi (hend i hin.2 hin.1)]
    exact Nat.testBit_lt_two_pow (hd.trans_le (Nat.pow_le_pow_right (by decide) (not_lt.1 hi)))

theorem fsh_word (m : IntMod) {a b : Nat} (ha : a < 2 ^ m.ty.width) (hb : b < 2 ^ m.ty.width) (n : Nat) :
    (b * 2 ^ m.ty.width + a) / 2 ^ n = ((word m b ++ word m a) >>> n).toNat := by
  rw [BitVec.toNat_ushiftRight, toNat_append_eq_add, word_toNat m ha, word_toNat m hb, Nat.shiftRight_eq_div_pow, Nat.add_comm]

end Sys2Proof.Machine
end

section
/-! PROOF. Integer, logic and address instructions (spec/04_arithmetic_instructions.md R100 to R107, R319). -/

namespace Sys2Proof.Machine

open Sys2Proof Sys2Proof.Claims

/-! ### The instructions of one and two sources -/

/-- The instruction is `f` on the elements of its two sources; `f` is the operation `e.2` on elements of the type, and a legal word has a
destination that a result of the type fits. -/
def MeansTwo (long : Bool) (e : (Hdr → IntMod → Instr) × (IntMod → Nat → Nat → Nat)) (m : IntMod) : Prop :=
  ∃ f, (∀ h s, exec (e.1 h m) s = intOp2 s h m long f) ∧ (∀ h, WellFormed (e.1 h m) = true → fieldOk h.u m.ty.wide h.d = true) ∧
    ∀ a b, a < 2 ^ m.ty.width → b < 2 ^ m.ty.width → f a b = e.2 m a b

/-- The same for one source. -/
def MeansOne (e : (Hdr → IntMod → Instr) × (IntMod → Nat → Nat)) (m : IntMod) : Prop :=
  ∃ f, (∀ h s, exec (e.1 h m) s = intOp1 s h m f) ∧ (∀ h, WellFormed (e.1 h m) = true → fieldOk h.u m.ty.wide h.d = true) ∧
    ∀ a, a < 2 ^ m.ty.width → f a = e.2 m a

theorem intTwo_destination {h : Hdr} {m : IntMod} {long sat : Bool} {tys : List IntTy} (hok : intTwo h m long sat tys = true) :
    fieldOk h.u m.ty.wide h.d = true := by
  simp only [intTwo, Bool.and_eq_true] at hok
  tauto

theorem intOne_destination {h : Hdr} {m : IntMod} {sat : Bool} {tys : List IntTy} (hok : intOne h m sat tys = true) :
    fieldOk h.u m.ty.wide h.d = true := by
  simp only [intOne, Bool.and_eq_true] at hok
  tauto

/-- Does an integer comparison hold (R105)? -/
def holdsInt (cc : ICond) (x y : Int) : Prop :=
  match cc with
  | .eq => x = y
  | .ne => x ≠ y
  | .lt => x < y
  | .le => x ≤ y
  | .gt => x > y
  | .ge => x ≥ y

theorem intCmp_iff (ty : IntTy) (cc : ICond) (a b : Nat) : intCmp ty cc a b = true ↔ holdsInt cc (value ty a) (value ty b) := by
  cases cc <;> simp [intCmp, holdsInt, intVal_eq_value]

theorem twoSource_means (m : IntMod) : ∀ e ∈ twoSource, MeansTwo false e m := by
  have hfit : ∀ z, narrow m.ty m.sat z = fit m.ty m.sat z := narrow_eq_fit m.ty m.sat
  simp only [twoSource, List.forall_mem_cons]
  refine ⟨?add, ?sub, ?mul, ?mulh, ?min, ?max, ?and, ?or, ?xor, ?shl, ?shr, ?sar, ?eq, ?ne, ?lt, ?le, ?gt, ?ge, by simp⟩
  all_goals
    refine ⟨_, fun _ _ => rfl, fun _ => intTwo_destination, fun a b ha hb => ?_⟩
    dsimp only
  case add | sub | mul => simp only [hfit, intVal_eq_value]
  case mulh => simp only [fit_high, intVal_eq_value]
  case min => simp only [intVal_eq_value]; exact (fit_min m.ty ha hb).symm
  case max => simp only [intVal_eq_value]; exact (fit_max m.ty ha hb).symm
  case and => rw [BitVec.toNat_and, word_toNat m ha, word_toNat m hb]
  case or => rw [BitVec.toNat_or, word_toNat m ha, word_toNat m hb]
  case xor => rw [BitVec.toNat_xor, word_toNat m ha, word_toNat m hb]
  case shl => exact (shiftLeft_word m ha _).symm
  case shr => exact (shiftRight_word m ha _).symm
  case sar => exact (sshiftRight_word m a _).symm
  case eq | ne | lt | le | gt | ge => simp only [intCmp_iff, holdsInt]

theorem oneSource_means (m : IntMod) : ∀ e ∈ oneSource, MeansOne e m := by
  simp only [oneSource, List.forall_mem_cons]
  refine ⟨?abs, ?popc, ?clz, ?ctz, ?brev, ⟨_, fun _ _ => rfl, fun _ => intOne_destination, fun _ _ => rfl⟩, by simp⟩
  all_goals
    refine ⟨_, fun _ _ => rfl, fun _ => intOne_destination, fun a ha => ?_⟩
    dsimp only
  case abs => simp only [narrow_eq_fit, intVal_eq_value, Int.abs_eq_natAbs]
  case popc => simp only [word_getLsbD m ha]; exact length_filter_eq_sum ..
  case clz => simp only [word_getLsbD m ha]; exact (leadingZeros_eq ha).symm
  case ctz => simp only [word_getLsbD m ha]; exact find_range_eq_takeWhile ..
  case brev => rw [← reverseBits_toNat, word_toNat m ha]

/-- ADD to SAR and ISET end with each element's result in their destinations. -/
theorem integerTwoSource : IntegerTwoSource := by
  intro e he s v h m hv hok hc
  obtain ⟨f, hexec, hdest, hf⟩ := twoSource_means m e he
  obtain ⟨t, r, hnext, hends, hholds⟩ := compute_ends_quiet (s := s) (size := 8) (signed := m.ty.copiesSign)
    (x := fun v l => joinElems (List.zipWith f (srcA v h m l) (intSecond v.r l h m))) hv (even_of_fieldOk (hdest h hok)) hc
  refine ⟨t, r, (hexec h s).trans hnext, hends, fun l hl => ?_⟩
  rw [← zipWith_congr_mem fun a ha b hb => hf a b (srcA_lt v h m l a ha) (intSecond_lt v h m l b hb)]
  exact hholds l hl

/-- ABS to MOV end with each element's result in their destinations. -/
theorem integerOneSource : IntegerOneSource := by
  intro e he s v h m hv hok hc
  obtain ⟨f, hexec, hdest, hf⟩ := oneSource_means m e he
  obtain ⟨t, r, hnext, hends, hholds⟩ := compute_ends_quiet (s := s) (size := 8) (signed := m.ty.copiesSign)
    (x := fun v l => joinElems ((srcA v h m l).map f)) hv (even_of_fieldOk (hdest h hok)) hc
  refine ⟨t, r, (hexec h s).trans hnext, hends, fun l hl => ?_⟩
  rw [← List.map_congr_left fun a ha => hf a (srcA_lt v h m l a ha)]
  exact hholds l hl

/-! ### Divisions (R102) -/

theorem divRem_eq (ty : IntTy) (a b : Nat) : divRem ty a b =
    (if value ty b = 0 then 2 ^ ty.width - 1 else fit ty false ((value ty a).tdiv (value ty b)),
     if value ty b = 0 then a else fit ty false ((value ty a).tmod (value ty b))) := by
  simp only [divRem, intVal_eq_value, intMin_eq_lowest, ← narrow_eq_fit]
  by_cases hb : value ty b = 0
  · simp only [if_pos hb]
  simp only [if_neg hb]
  split
  · -- the most negative value over −1 wraps to itself, with no remainder
    next hmin =>
    simp only [Bool.and_eq_true, beq_iff_eq] at hmin
    obtain ⟨⟨hs, ha⟩, hb⟩ := hmin
    rw [ha, hb]
    cases ty with
    | i32 | i64 | i16x2 => rfl
    | ui32 | ui64 | ui16x2 => cases hs
  · rw [Int.tmod_def, Int.mul_comm]
    rfl

theorem divisions_means (m : IntMod) : ∀ e ∈ divisions, MeansTwo true e m := by
  simp only [divisions, List.forall_mem_cons]
  refine ⟨?divu, ?divs, ?remu, ?rems, by simp⟩
  all_goals exact ⟨_, fun _ _ => rfl, fun _ => intTwo_destination, fun a b _ _ => by rw [divRem_eq]⟩

/-- The divisions end with each element's result in a window. -/
theorem divisions_end : ∀ e ∈ divisions, ∀ (s : State) (v : View) (h : Hdr) (m : IntMod), view? s = some v → WellFormed (e.1 h m) = true →
    Computes v h ([(h.d, span m.ty.wide), (h.a, span m.ty.wide)] ++ regs2 h m.bk m.ck m.ty.wide) (destRegs h.d m.ty.wide) →
    ∃ t r ws, exec (e.1 h m) s = .next t ∧ Ends s t v (v.r.pc + 8) 0 (fun _ => False) r ∧ Opens s v h r ws ∧
      ∀ l ∈ v.places h, Holds (v.r.writes ws) l h.d m.ty.wide m.ty.copiesSign
        (joinElems (List.zipWith (e.2 m) (srcA v h m l) (intSecond v.r l h m))) := by
  intro e he s v h m hv hok hc
  obtain ⟨f, hexec, hdest, hf⟩ := divisions_means m e he
  obtain ⟨t, r, ws, hnext, hends, hopens, hholds⟩ := compute_ends_long (s := s) (signed := m.ty.copiesSign) (fl := fun _ _ => 0)
    (x := fun v l => joinElems (List.zipWith f (srcA v h m l) (intSecond v.r l h m))) hv (even_of_fieldOk (hdest h hok)) hc
  rw [flagsAll_map_zero] at hends
  refine ⟨t, r, ws, (hexec h s).trans hnext, hends, hopens, fun l hl => ?_⟩
  rw [← zipWith_congr_mem fun a ha b hb => hf a b (srcA_lt v h m l a ha) (intSecond_lt v h m l b hb)]
  exact hholds l hl

/-- A word that decodes has fields that name the instruction, and the instruction is legal. -/
theorem decodeWord_eq_ok {w x : Word} {i : Instr} (hi : decodeWord w x = .ok i) : fieldsOf w x = some i ∧ WellFormed i = true := by
  unfold decodeWord at hi
  split at hi
  · cases hi
  · next j hj =>
    split at hi
    · next hok => cases hi; exact ⟨hj, hok⟩
    · cases hi

/-- An allocated opcode below 0x60 decodes by its class (R41). -/
theorem unallocated_of_allocated {w : Word} {n : Nat} (hop : (rawOf w).op.toNat = n) (hn : allocatedOp n = true) (hctl : n ≠ 0xE7) : unallocated w = false := by
  have hword : w.toNat / 2 ^ 47 % 256 = n := by
    rw [← hop]
    simp [rawOf, BitVec.extractLsb'_toNat, Nat.shiftRight_eq_div_pow]
  simp only [unallocated, hword, hn]
  simp [hctl]

theorem fieldsOf_integer {w : Word} {n : Nat} (x : Word) (hop : (rawOf w).op.toNat = n) (hn : allocatedOp n = true) (hclass : n < 0x20) :
    fieldsOf w x = decInt n (rawOf w).hdr (rawOf w).md x := by
  simp only [fieldsOf, unallocated_of_allocated hop hn (by omega), hop, hclass, if_true, Bool.false_eq_true, if_false]

theorem fieldsOf_conversion {w : Word} {n : Nat} (x : Word) (hop : (rawOf w).op.toNat = n) (hn : allocatedOp n = true) (hlo : 0x40 ≤ n) (hhi : n < 0x60) :
    fieldsOf w x = decCv n (rawOf w).hdr (rawOf w).md := by
  have h1 : ¬ n < 0x20 := by omega
  have h2 : ¬ n < 0x40 := by omega
  simp only [fieldsOf, unallocated_of_allocated hop hn (by omega), hop, h1, h2, hhi, if_true, Bool.false_eq_true, if_false]

theorem intTwo_type {h : Hdr} {m : IntMod} {long sat : Bool} {tys : List IntTy} (hok : intTwo h m long sat tys = true) : m.ty ∈ tys := by
  simp only [intTwo, Bool.and_eq_true] at hok
  rw [← List.contains_iff_mem]
  tauto

/-- A word of a division's opcode is that division, of one of its types. -/
theorem decodeWord_division {w x : Word} {i : Instr} {n : Nat} {mk : Hdr → IntMod → Instr} {tys : List IntTy} (hop : (rawOf w).op.toNat = n)
    (hn : allocatedOp n = true) (hclass : n < 0x20) (hdec : ∀ h md, decInt n h md x = (intMod0 md).map (mk h))
    (hok : ∀ h m, WellFormed (mk h m) = true → m.ty ∈ tys) (hi : decodeWord w x = .ok i) : ∃ m, i = mk (rawOf w).hdr m ∧ m.ty ∈ tys := by
  obtain ⟨hfields, hwf⟩ := decodeWord_eq_ok hi
  rw [fieldsOf_integer x hop hn hclass, hdec, Option.map_eq_some_iff] at hfields
  obtain ⟨m, -, rfl⟩ := hfields
  exact ⟨m, rfl, hok _ _ hwf⟩

theorem decodeWord_divisions (w x : Word) (i : Instr) : ∀ e ∈ [(0x08#8, Instr.divu, [IntTy.ui32, .ui64]), (0x09#8, .divs, [.i32, .i64]), (0x0A#8, .remu, [.ui32, .ui64]), (0x0B#8, .rems, [.i32, .i64])],
    (rawOf w).op = e.1 → decodeWord w x = .ok i → ∃ m, i = e.2.1 (rawOf w).hdr m ∧ m.ty ∈ e.2.2 := by
  simp only [List.forall_mem_cons]
  refine ⟨?divu, ?divs, ?remu, ?rems, by simp⟩
  all_goals
    intro hop hi
    exact decodeWord_division (congrArg BitVec.toNat hop) rfl (by decide) (fun _ _ => rfl) (fun _ _ => intTwo_type) hi

/-- Settles O3: by the law of late results and the quotient and remainder on elements; the words by the types that a legal word may have. -/
theorem integerDivision : Obligations.IntegerDivision := ⟨divisions_end, fun w x i => decodeWord_divisions w x i⟩

/-! ### The instructions of three sources -/

/-- The instruction is `f` on the elements of its three sources and of its old destination. -/
def MeansThree (e : (Hdr → IntMod → Instr) × (IntMod → Nat → Nat → Nat → Nat → Nat)) (m : IntMod) : Prop :=
  ∃ f, (∀ h s, exec (e.1 h m) s = intOp3 s h m f) ∧ (∀ h, WellFormed (e.1 h m) = true → fieldOk h.u m.ty.wide h.d = true) ∧
    ∀ a b c d, a < 2 ^ m.ty.width → b < 2 ^ m.ty.width → c < 2 ^ m.ty.width → d < 2 ^ m.ty.width → f a b c d = e.2 m a b c d

theorem intThree_destination {h : Hdr} {m : IntMod} {sat : Bool} {tys : List IntTy} (hok : intThree h m sat tys = true) :
    fieldOk h.u m.ty.wide h.d = true := by
  simp only [intThree, Bool.and_eq_true] at hok
  tauto

theorem threeSource_means (m : IntMod) : ∀ e ∈ threeSource, MeansThree e m := by
  simp only [threeSource, List.forall_mem_cons]
  refine ⟨⟨_, fun h s => (rfl : execMad h m s = _), fun _ => intThree_destination, fun a b c d _ _ _ _ => ?mad⟩,
    ⟨_, fun h s => (rfl : execFsh h m s = _), fun _ => intThree_destination, fun a b c d ha hb _ _ => ?fsh⟩,
    ⟨_, fun h s => (rfl : execBfx h m s = _), fun _ => intThree_destination, fun a b c d ha _ _ _ => ?bfx⟩,
    ⟨_, fun h s => (rfl : execBfi h m s = _), fun _ => intThree_destination, fun a b c d ha _ _ hd => ?bfi⟩, by simp⟩
  case mad => simp only [narrow_eq_fit, intVal_eq_value]
  case fsh => exact congrArg (· % 2 ^ m.ty.width) (fsh_word m ha hb _)
  case bfx => exact extractField m ha b c
  case bfi => exact insertField m ha hd b c

/-- The elements of the three sources and the old destination at a place, together. -/
theorem mem_sources {v : View} {h : Hdr} {m : IntMod} {l : Option Nat} {x : (Nat × Nat) × (Nat × Nat)}
    (hx : x ∈ (List.zip (srcA v h m l) (srcB3 v h m l)).zip (List.zip (srcC v h m l) (oldD v h m l))) :
    x.1.1 < 2 ^ m.ty.width ∧ x.1.2 < 2 ^ m.ty.width ∧ x.2.1 < 2 ^ m.ty.width ∧ x.2.2 < 2 ^ m.ty.width := by
  obtain ⟨hab, hcd⟩ := List.of_mem_zip (a := x.1) (b := x.2) hx
  obtain ⟨ha, hb⟩ := List.of_mem_zip (a := x.1.1) (b := x.1.2) hab
  obtain ⟨hc, hd⟩ := List.of_mem_zip (a := x.2.1) (b := x.2.2) hcd
  exact ⟨srcA_lt _ _ _ _ _ ha, srcB3_lt _ _ _ _ _ hb, srcC_lt _ _ _ _ _ hc, oldD_lt _ _ _ _ _ hd⟩

/-- Settles O2: by the law of results and what each instruction makes of its elements. -/
theorem integerThreeSource : Obligations.IntegerThreeSource := by
  intro e he s v h m hv hok hc
  obtain ⟨f, hexec, hdest, hf⟩ := threeSource_means m e he
  obtain ⟨t, r, hnext, hends, hholds⟩ := compute_ends_quiet (s := s) (size := 8) (signed := m.ty.copiesSign)
    (x := fun v l => joinElems (((List.zip (srcA v h m l) (srcB3 v h m l)).zip (List.zip (srcC v h m l) (oldD v h m l))).map
      (fun x => f x.1.1 x.1.2 x.2.1 x.2.2))) hv (even_of_fieldOk (hdest h hok)) hc
  refine ⟨t, r, (hexec h s).trans hnext, hends, fun l hl => ?_⟩
  rw [← List.map_congr_left fun x hx => ?agree]
  case agree =>
    obtain ⟨ha, hb, hc, hd⟩ := mem_sources hx
    exact hf _ _ _ _ ha hb hc hd
  exact hholds l hl

/-! ### The mirror check (R319) -/

theorem zero_getLsbD (l : Nat) : (0 : Mask).getLsbD l = false := BitVec.getLsbD_zero

theorem foldl_laneBit_getLsbD (ls : List Nat) (m : Mask) {l : Nat} (hl : l < 64) :
    (ls.foldl (fun m k => m ||| laneBit k) m).getLsbD l = true ↔ m.getLsbD l = true ∨ l ∈ ls := by
  induction ls generalizing m with
  | nil => simp
  | cons k ls ih =>
    rw [List.foldl_cons, ih, BitVec.getLsbD_or, laneBit_getLsbD, decide_eq_true hl, Bool.true_and, Bool.or_eq_true, decide_eq_true_iff, List.mem_cons, or_assoc,
      eq_comm (a := k)]

theorem maskOf_getLsbD (ls : List Nat) {l : Nat} (hl : l < 64) : (maskOf ls).getLsbD l = true ↔ l ∈ ls := by
  rw [maskOf, foldl_laneBit_getLsbD ls 0 hl, zero_getLsbD]
  simp

theorem mirrored_getLsbD (v : View) (h : Hdr) {l : Nat} (hl : l < 64) : (v.mirrored h).getLsbD l = true ↔
    v.pkt.flags.getLsbD 3 = true ∧ h.u = false ∧ v.ej = false ∧ l ∈ v.active h ∧ (l + 32) % 64 ∉ v.active h := by
  by_cases hskip : (!v.pkt.mirror || h.u || v.ej) = true
  · rw [View.mirrored, if_pos hskip, zero_getLsbD]
    simp only [Bool.or_eq_true, Bool.not_eq_true', Packet.mirror] at hskip
    rcases hskip with (hm | hu) | hej
    · simp only [hm, Bool.false_eq_true, false_and]
    · simp [hu]
    · simp [hej]
  · rw [View.mirrored, if_neg hskip, maskOf_getLsbD _ hl]
    simp only [Bool.or_eq_true, Bool.not_eq_true', Packet.mirror, not_or, Bool.not_eq_false, Bool.not_eq_true] at hskip
    obtain ⟨⟨hm, hu⟩, hej⟩ := hskip
    simp only [hm, hu, hej, List.mem_filter, true_and, Bool.not_eq_true', List.contains_eq_mem, decide_eq_false_iff_not]

/-- Only a lane form that the group executes is checked. -/
theorem ej_of_mismatch {v : View} {h : Hdr} (hbad : v.mismatch h ≠ 0) : v.ej = false := by
  by_contra hej
  exact hbad (by simp [View.mismatch, View.mirrored, hej])

theorem mirrorCheck : MirrorCheck := by
  refine ⟨fun v h l hl => ?checked, fun s v h m hv hwin hbad => ⟨fun e he hregs => ?one, fun e he hregs => ?two, fun e he hregs => ?three⟩⟩
  case checked =>
    rw [View.mismatch, BitVec.getLsbD_and, Bool.and_eq_true, mirrored_getLsbD v h hl]
    tauto
  case one =>
    obtain ⟨f, hexec, -, -⟩ := oneSource_means m e he
    exact (hexec h s).trans (compute_mismatch hv (ej_of_mismatch hbad) hregs hwin hbad)
  case two =>
    obtain ⟨long, f, hexec⟩ : ∃ long f, ∀ h s, exec (e.1 h m) s = intOp2 s h m long f := by
      rcases List.mem_append.1 he with ht | hd
      · obtain ⟨f, hexec, -⟩ := twoSource_means m e ht; exact ⟨_, f, hexec⟩
      · obtain ⟨f, hexec, -⟩ := divisions_means m e hd; exact ⟨_, f, hexec⟩
    exact (hexec h s).trans (compute_mismatch hv (ej_of_mismatch hbad) hregs hwin hbad)
  case three =>
    obtain ⟨f, hexec, -, -⟩ := threeSource_means m e he
    exact (hexec h s).trans (compute_mismatch hv (ej_of_mismatch hbad) hregs hwin hbad)

/-- Settles O1: each part by the law of `compute`, the results by what each instruction makes of its elements. -/
theorem integerOneAndTwoSource : Obligations.IntegerOneAndTwoSource := ⟨integerTwoSource, integerOneSource, mirrorCheck⟩

/-! ### BLUT (R104) -/

/-- Each bit is looked up on its own. -/
theorem blutWord_getLsbD (tt : BitVec 8) (a b c : Word) {i : Nat} (hi : i < 64) :
    (blutWord tt a b c).getLsbD i = tt.getLsbD ((a.getLsbD i).toNat + 2 * (b.getLsbD i).toNat + 4 * (c.getLsbD i).toNat) := by
  have hmask : ∀ (j : Nat) (m : Word), (if tt.getLsbD j then m else 0).getLsbD i = (tt.getLsbD j && m.getLsbD i) := by
    intro j m
    cases tt.getLsbD j <;> simp
  simp only [blutWord, BitVec.getLsbD_or, hmask, BitVec.getLsbD_and, BitVec.getLsbD_not, decide_eq_true hi, Bool.true_and]
  cases a.getLsbD i <;> cases b.getLsbD i <;> cases c.getLsbD i <;> simp

theorem readReg_testBit (r : Regs) (l : Option Nat) (n : BitVec 8) (wide : Bool) {i : Nat} (hi : i < 64) :
    (BitVec.ofNat 64 (readReg r l n wide)).getLsbD i = (readReg r l n wide).testBit i := by
  rw [BitVec.getLsbD_ofNat, decide_eq_true hi, Bool.true_and]

/-- What BLUT computes at a place. -/
def blutValue (tt : BitVec 8) (r : Regs) (h : Hdr) (l : Option Nat) : Word :=
  blutWord tt (BitVec.ofNat 64 (readReg r l h.a h.u)) (BitVec.ofNat 64 (readReg r l h.b h.u)) (BitVec.ofNat 64 (readReg r l h.c h.u))

/-- BLUT writes its value as a result of the form's width. -/
theorem exec_blut_eq {s : State} {v : View} {h : Hdr} {tt : BitVec 8} (hv : view? s = some v) :
    exec (.blut h tt) s = compute s h 8 false [(h.d, 1), (h.a, 1), (h.b, 1), (h.c, 1)]
      (fun v l => (writeReg l h.d h.u false (blutValue tt v.r h l).toNat, 0)) := by
  change execBlut h tt s = _
  unfold execBlut
  refine compute_congr hv fun l hl => ?_
  rcases place_of_form hl with ⟨k, rfl, hu⟩ | ⟨rfl, hu⟩
  · simp [writeReg, blutValue, hu, BitVec.ofNat_toNat]
  · simp [writeReg, blutValue, hu]

/-- A register that holds a value reads as its low bits. -/
theorem holds_testBit {r : Regs} {v : View} {h : Hdr} {l : Option Nat} {x : Nat} (hl : l ∈ v.places h) (hz : l = none → h.d.toNat ≠ 63)
    (hx : Holds r l h.d h.u false x) {i : Nat} (hi : i < if h.u then 64 else 32) : (readReg r l h.d h.u).testBit i = x.testBit i := by
  rcases place_of_form hl with ⟨k, rfl, hu⟩ | ⟨rfl, hu⟩
  · simp only [hu, Bool.false_eq_true, if_false] at hi
    simp only [Holds, hu, Bool.false_eq_true, if_false] at hx
    simp only [readReg, hu, Bool.false_eq_true, if_false, hx, BitVec.toNat_ofNat, Nat.testBit_mod_two_pow, decide_eq_true hi, Bool.true_and]
  · simp only [hu, if_true] at hi
    simp only [Holds, hu, if_true, if_neg (hz rfl)] at hx
    simp only [readReg, hu, if_true, hx, BitVec.toNat_ofNat, Nat.testBit_mod_two_pow, decide_eq_true hi, Bool.true_and]

theorem exec_blut_ends {s : State} {v : View} {h : Hdr} {tt : BitVec 8} (hv : view? s = some v)
    (hc : Computes v h [(h.d, 1), (h.a, 1), (h.b, 1), (h.c, 1)] (destRegs h.d false)) :
    let bit := fun (n : BitVec 8) (l : Option Nat) (i : Nat) => ((readReg v.r l n h.u).testBit i).toNat
    ∃ t r, exec (.blut h tt) s = .next t ∧ Ends s t v (v.r.pc + 8) 0 (Dest v h false) r ∧
      ∀ l ∈ v.places h, (l = none → h.d.toNat ≠ 63) → ∀ i, i < (if h.u then 64 else 32) →
        (readReg r l h.d h.u).testBit i = tt.getLsbD (bit h.a l i + 2 * bit h.b l i + 4 * bit h.c l i) := by
  have hform : h.u = false → h.u = false := id
  obtain ⟨t, r, hnext, hends, hholds⟩ := compute_ends_quiet (s := s) (size := 8) (signed := false) (x := fun v l => (blutValue tt v.r h l).toNat)
    hv (fun hu hw => absurd hw (by simp [hu])) (computes_of_form hform hc)
  refine ⟨t, r, (exec_blut_eq hv).trans hnext, ends_congr (dest_of_form hform) hends, fun l hl hz i hi => ?_⟩
  have hi64 : i < 64 := hi.trans_le (by split <;> decide)
  rw [holds_testBit hl hz (hholds l hl) hi, ← BitVec.getLsbD, blutValue, blutWord_getLsbD tt _ _ _ hi64]
  simp only [readReg_testBit _ _ _ _ hi64]

/-! ### SEL, CMP, LEA and MOVI (R105 to R107) -/

section

variable {s : State} {v : View} {h : Hdr} {m : IntMod}

theorem selOk_destination (hok : selOk h m = true) : fieldOk h.u m.ty.wide h.d = true := by
  simp only [selOk, Bool.and_eq_true] at hok
  tauto

theorem leaOk_destination (hok : leaOk h m = true) : fieldOk h.u m.ty.wide h.d = true := by
  simp only [leaOk, Bool.and_eq_true] at hok
  tauto

/-- LEA has the scalar types: their width is that of their registers. -/
theorem leaOk_width (hok : leaOk h m = true) : m.ty.width = if m.ty.wide then 64 else 32 := by
  simp only [leaOk, Bool.and_eq_true] at hok
  have hty : m.ty ∈ tyScalar := by
    rw [← List.contains_iff_mem]
    tauto
  cases hm : m.ty with
  | i32 | ui32 | i64 | ui64 => rfl
  | i16x2 | ui16x2 => rw [hm] at hty; exact absurd hty (by decide)

theorem predOk_lt {n : BitVec 8} (hn : predOk n = true) : n.toNat < 8 := by
  have := of_decide_eq_true hn
  omega

theorem cmpOk_destination (hok : cmpOk h m = true) : h.d.toNat < 8 := by
  simp only [cmpOk, Bool.and_eq_true] at hok
  exact predOk_lt (by tauto)

theorem moviOk_destination {w : Bool} (hok : moviOk h w = true) : fieldOk h.u w h.d = true := by
  simp only [moviOk, Bool.and_eq_true] at hok
  tauto

theorem exec_sel_ends (hv : view? s = some v) (hok : selOk h m = true)
    (hc : Computes v h ([(h.d, span m.ty.wide), (h.a, span m.ty.wide)] ++ (if m.bk then [] else [(h.b, span m.ty.wide)])) (destRegs h.d m.ty.wide)) :
    ∃ t r, exec (.sel h m) s = .next t ∧ Ends s t v (v.r.pc + 8) 0 (Dest v h m.ty.wide) r ∧
      ∀ l ∈ v.places h, Holds r l h.d m.ty.wide m.ty.copiesSign (joinElems (if readPred v.r l h.c then srcA v h m l else srcB3 v h m l)) :=
  compute_ends_quiet hv (even_of_fieldOk (selOk_destination hok)) hc

theorem exec_cmp_ends {cc : ICond} (hv : view? s = some v) (hok : cmpOk h m = true) (hc : Computes v h ([(h.a, span m.ty.wide)] ++ regs2 h m.bk m.ck m.ty.wide) []) :
    let x := fun (l : Option Nat) => value m.ty (readReg v.r l h.a m.ty.wide)
    let y := fun (l : Option Nat) => value m.ty (second v.r l h m.bk m.ck m.ty.wide (intImm m.ty m.ck h.c))
    ∃ t r, exec (.cmp h m cc) s = .next t ∧ Ends s t v (v.r.pc + 8) 0 (PredDest v h) r ∧
      ∀ l ∈ v.places h, (readPred r l h.d = true ↔ (match cc with
        | .eq => x l = y l | .ne => x l ≠ y l | .lt => x l < y l | .le => x l ≤ y l | .gt => x l > y l | .ge => x l ≥ y l)) := by
  obtain ⟨t, r, hnext, hends, hholds⟩ := compute_ends_pred (s := s) (size := 8) (fl := fun _ _ => 0)
    (p := fun v l => intCmp m.ty cc (readReg v.r l h.a m.ty.wide) (second v.r l h m.bk m.ck m.ty.wide (intImm m.ty m.ck h.c))) hv (cmpOk_destination hok) hc
  rw [flagsAll_map_zero] at hends
  refine ⟨t, r, hnext, hends, fun l hl => ?_⟩
  rw [hholds l hl]
  exact intCmp_iff ..

/-- The low bits of a wider wrapped integer are the integer wrapped. -/
theorem ofNat_wrapTo_of_le {w w' : Nat} (hw : w ≤ w') (z : Int) : BitVec.ofNat w (wrapTo w' z) = BitVec.ofInt w z := by
  rw [← ofNat_wrapTo w z]
  apply BitVec.eq_of_toNat_eq
  have hdvd : ((2 ^ w : Nat) : Int) ∣ ((2 ^ w' : Nat) : Int) := by exact_mod_cast pow_dvd_pow 2 hw
  rw [BitVec.toNat_ofNat, BitVec.toNat_ofNat, Nat.mod_eq_of_lt (wrapTo_lt w z), wrapTo, wrapTo]
  zify
  rw [Int.toNat_of_nonneg (Int.emod_nonneg _ (by positivity)), Int.toNat_of_nonneg (Int.emod_nonneg _ (by positivity))]
  exact_mod_cast Int.emod_emod_of_dvd z hdvd

/-- The index of LEA as a 64-bit word. -/
theorem ofInt_index (ty : IntTy) (b : Nat) :
    BitVec.ofInt 64 (if ty.signed then signedOf 32 b else ((b % 2 ^ 32 : Nat) : Int)) =
      if ty.signed then (BitVec.ofNat 32 b).signExtend 64 else (BitVec.ofNat 32 b).zeroExtend 64 := by
  split
  · rw [signedOf_eq_toInt]; rfl
  · rw [BitVec.ofInt_natCast, BitVec.zeroExtend, ← BitVec.ofNat_toNat, BitVec.toNat_ofNat]

/-- An address sum modulo the width is the low bits of the 64-bit sum. -/
theorem wrapTo_lea {w : Nat} (hw : w ≤ 64) (ty : IntTy) (a b n : Nat) :
    BitVec.ofNat w (wrapTo w ((a : Int) + (if ty.signed then signedOf 32 b else ((b % 2 ^ 32 : Nat) : Int)) * ((2 ^ n : Nat) : Int))) =
      BitVec.ofNat w (BitVec.ofNat 64 a +
        ((if ty.signed then (BitVec.ofNat 32 b).signExtend 64 else (BitVec.ofNat 32 b).zeroExtend 64) <<< n)).toNat := by
  rw [← ofInt_index]
  generalize (if ty.signed then signedOf 32 b else ((b % 2 ^ 32 : Nat) : Int)) = x
  have hsum : BitVec.ofNat 64 a + (BitVec.ofInt 64 x <<< n) = BitVec.ofInt 64 ((a : Int) + x * ((2 ^ n : Nat) : Int)) := by
    rw [BitVec.shiftLeft_eq_mul_twoPow, BitVec.ofInt_add, BitVec.ofInt_mul, BitVec.ofInt_natCast, BitVec.ofInt_natCast]
    congr 2
    exact BitVec.eq_of_toNat_eq (by rw [BitVec.toNat_twoPow, BitVec.toNat_ofNat])
  rw [hsum, ofNat_wrapTo, ← wrapTo_eq_ofInt, ofNat_wrapTo_of_le hw]

/-- Results that agree in the width of the type leave the same in the destination. -/
theorem holds_congr {r : Regs} {l : Option Nat} {d : BitVec 8} {wide signed : Bool} {x y : Nat}
    (hxy : BitVec.ofNat (if wide then 64 else 32) x = BitVec.ofNat (if wide then 64 else 32) y) (hx : Holds r l d wide signed x) : Holds r l d wide signed y := by
  cases wide with
  | false =>
    replace hxy : BitVec.ofNat 32 x = BitVec.ofNat 32 y := hxy
    cases l <;> simpa only [Holds, Bool.false_eq_true, if_true, if_false, hxy] using hx
  | true =>
    replace hxy : BitVec.ofNat 64 x = BitVec.ofNat 64 y := hxy
    cases l <;> simpa only [Holds, Bool.false_eq_true, if_true, if_false, hxy] using hx

theorem exec_lea_ends (hv : view? s = some v) (hok : leaOk h m = true)
    (hc : Computes v h ([(h.d, span m.ty.wide), (h.a, span m.ty.wide)] ++ (if m.bk then [] else [(h.b, 1)])) (destRegs h.d m.ty.wide)) :
    let idx := fun (l : Option Nat) => BitVec.ofNat 32 (secondOf3 v.r l h m.bk false)
    ∃ t r, exec (.lea h m) s = .next t ∧ Ends s t v (v.r.pc + 8) 0 (Dest v h m.ty.wide) r ∧
      ∀ l ∈ v.places h, Holds r l h.d m.ty.wide m.ty.copiesSign
        (BitVec.ofNat 64 (readReg v.r l h.a m.ty.wide) + ((if m.ty.signed then (idx l).signExtend 64 else (idx l).zeroExtend 64) <<< h.c.toNat)).toNat := by
  obtain ⟨t, r, hnext, hends, hholds⟩ := compute_ends_quiet (s := s) (size := 8) (signed := m.ty.copiesSign)
    (x := fun v l => wrapTo m.ty.width (readReg v.r l h.a m.ty.wide +
      (if m.ty.signed then signedOf 32 (secondOf3 v.r l h m.bk false) else ((secondOf3 v.r l h m.bk false % 2 ^ 32 : Nat) : Int)) * ((2 ^ h.c.toNat : Nat) : Int)))
    hv (even_of_fieldOk (leaOk_destination hok)) hc
  refine ⟨t, r, hnext, hends, fun l hl => holds_congr ?_ (hholds l hl)⟩
  rw [leaOk_width hok]
  exact wrapTo_lea (by split <;> decide) ..

/-- In the lane form a result of MOVI has the width of its field W, in the group-wide form 64 bits. -/
theorem exec_movi_ends {w : Bool} {x : Word} (hv : view? s = some v) (hok : moviOk h w = true) (hc : Computes v h [(h.d, span w)] (destRegs h.d w)) :
    ∃ t r, exec (.movi h w x) s = .next t ∧ Ends s t v (v.r.pc + 16) 0 (Dest v h w) r ∧ ∀ l ∈ v.places h, Holds r l h.d (w || h.u) false x.toNat := by
  have hform : h.u = false → (w || h.u) = w := by simp +contextual
  obtain ⟨t, r, hnext, hends, hholds⟩ := compute_ends_quiet (s := s) (size := 16) (signed := false) (x := fun _ _ => x.toNat)
    hv (fun hu hw => even_of_fieldOk (moviOk_destination hok) hu (hform hu ▸ hw)) (computes_of_form hform hc)
  exact ⟨t, r, hnext, ends_congr (dest_of_form hform) hends, hholds⟩

end

/-- Settles O4: BLUT by its bits, SEL and LEA and MOVI by the law of results, CMP by the law of predicate results. -/
theorem integerLookupSelectMove : Obligations.IntegerLookupSelectMove :=
  ⟨fun _ _ _ _ hv _ hc => exec_blut_ends hv hc, fun _ _ _ _ hv hok hc => exec_sel_ends hv hok hc, fun _ _ _ _ _ hv hok hc => exec_cmp_ends hv hok hc,
    fun _ _ _ _ hv hok hc => exec_lea_ends hv hok hc, fun _ _ _ _ _ hv hok hc => exec_movi_ends hv hok hc⟩

end Sys2Proof.Machine
end

section
/-! PROOF. Exact values as rationals: their order, sums, products, quotients and roots (spec/03_formats.md R69, R77, 04_arithmetic_instructions.md R110 to R113). -/

namespace Sys2Proof.Machine

open Sys2Proof Sys2Proof.Claims

/-! ### Exact values as rationals (R110) -/

/-- A zero or a magnitude: neither a NaN nor an infinity. -/
def FiniteValue : Exact → Prop
  | .zero _ | .fin .. => True
  | _ => False

theorem ext_of_finite {x : Exact} (hx : FiniteValue x) : ext x = ((rat x : WithTop ℚ) : WithBot (WithTop ℚ)) := by
  cases x with
  | zero | fin => rfl
  | nan | inf => cases hx

/-- The signed significand of a magnitude at an exponent not above its own is the value. -/
theorem scaled_fin {neg : Bool} {m : Nat} {e k : Int} {st : Bool} (he : e ≤ k) :
    ((Exact.fin neg m k st).scaled e : ℚ) * 2 ^ e = rat (.fin neg m k st) := by
  obtain ⟨n, rfl⟩ : ∃ n : Nat, k = e + n := ⟨(k - e).toNat, by omega⟩
  have hn : (e + n - e).toNat = n := by omega
  simp only [Exact.scaled, rat, hn]
  push_cast
  rw [zpow_add₀ two_ne_zero, zpow_natCast]
  split <;> ring

theorem scaled_zero (b : Bool) (e : Int) : ((Exact.zero b).scaled e : ℚ) * 2 ^ e = rat (.zero b) := by simp [Exact.scaled, rat]

/-- A comparison of two finite values is the sign of the difference of their significands at one exponent. -/
theorem exCmp_of_finite {x y : Exact} (hx : FiniteValue x) (hy : FiniteValue y) : ∃ lo : Int,
    (x.scaled lo : ℚ) * 2 ^ lo = rat x ∧ (y.scaled lo : ℚ) * 2 ^ lo = rat y ∧
    exCmp x y = if x.scaled lo - y.scaled lo < 0 then -1 else if x.scaled lo - y.scaled lo = 0 then 0 else 1 := by
  match x, y, hx, hy with
  | .zero a, .zero b, _, _ => exact ⟨0, scaled_zero a _, scaled_zero b _, rfl⟩
  | .zero a, .fin b n k t, _, _ => exact ⟨_, scaled_zero a _, scaled_fin (by simp [Exact.expOr]), rfl⟩
  | .fin a m e s, .zero b, _, _ => exact ⟨_, scaled_fin (by simp [Exact.expOr]), scaled_zero b _, rfl⟩
  | .fin a m e s, .fin b n k t, _, _ =>
    exact ⟨_, scaled_fin (by simp only [Exact.expOr]; split_ifs <;> omega), scaled_fin (by simp only [Exact.expOr]; split_ifs <;> omega), rfl⟩

/-- The comparison is that of the extended rationals. -/
theorem exCmp_iff {x y : Exact} (hx : x.isNan = false) (hy : y.isNan = false) :
    (exCmp x y < 0 ↔ ext x < ext y) ∧ (exCmp x y = 0 ↔ ext x = ext y) := by
  have hfinite : ∀ {x : Exact}, x.isNan = false → (∃ b, x = .inf b) ∨ FiniteValue x := by
    intro x hx
    cases x with
    | nan => cases hx
    | inf b => exact .inl ⟨b, rfl⟩
    | zero | fin => exact .inr trivial
  rcases hfinite hx with ⟨a, rfl⟩ | hfx <;> rcases hfinite hy with ⟨b, rfl⟩ | hfy
  · cases a <;> cases b <;> simp [exCmp, ext, -WithBot.coe_top]
  · rw [ext_of_finite hfy]
    cases y with
    | nan | inf => cases hfy
    | zero | fin => cases a <;> simp [exCmp, ext]
  · rw [ext_of_finite hfx]
    cases x with
    | nan | inf => cases hfx
    | zero | fin => cases b <;> simp [exCmp, ext, -WithBot.coe_top]
  · obtain ⟨lo, hsx, hsy, hcmp⟩ := exCmp_of_finite hfx hfy
    have hpos : (0 : ℚ) < 2 ^ lo := by positivity
    rw [ext_of_finite hfx, ext_of_finite hfy, WithBot.coe_lt_coe, WithTop.coe_lt_coe, WithBot.coe_inj, WithTop.coe_inj, hcmp, ← hsx, ← hsy,
      mul_lt_mul_iff_left₀ hpos, mul_left_inj' hpos.ne', Int.cast_lt, Int.cast_inj]
    rcases lt_trichotomy (x.scaled lo) (y.scaled lo) with hlt | heq | hgt
    · rw [if_pos (by omega)]; simp [hlt, hlt.ne]
    · rw [if_neg (by omega), if_pos (by omega)]; simp [heq]
    · rw [if_neg (by omega), if_neg (by omega)]; simp [hgt.le, hgt.ne']

theorem exCmp_pos_iff {x y : Exact} (hx : x.isNan = false) (hy : y.isNan = false) : 0 < exCmp x y ↔ ext y < ext x := by
  obtain ⟨hlt, heq⟩ := exCmp_iff hx hy
  rw [← not_le, ← not_le, le_iff_lt_or_eq, le_iff_lt_or_eq, hlt, heq]


/-! ### Sums and products (R110) -/

/-- A value that a format holds is a zero or a magnitude without a part below its last bit. -/
theorem dyadic_cases {x : Exact} (hx : dyadic x) : (∃ b, x = .zero b) ∨ ∃ b m e, m ≠ 0 ∧ x = .fin b m e false := by
  cases x with
  | zero b => exact .inl ⟨b, rfl⟩
  | fin b m e st =>
    obtain ⟨hm, rfl⟩ := hx
    exact .inr ⟨b, m, e, hm, rfl⟩
  | nan | inf => cases hx

theorem rat_zero (b : Bool) : rat (.zero b) = 0 := rfl

theorem rat_fin_ne_zero {b : Bool} {m : Nat} (hm : m ≠ 0) (e : Int) (st : Bool) : rat (.fin b m e st) ≠ 0 := by
  have hpos : (2 : ℚ) ^ e ≠ 0 := by positivity
  cases b <;> simp [rat, hm, hpos]

/-- A signed significand as an exact value. -/
theorem ofInt_zero (zneg : Bool) (e : Int) : ofInt zneg 0 e = .zero zneg := rfl

theorem ofInt_of_ne {k : Int} (hk : k ≠ 0) (zneg : Bool) (e : Int) : ofInt zneg k e = .fin (decide (k < 0)) k.natAbs e false := if_neg hk

theorem ofInt_dyadic (zneg : Bool) (k e : Int) : dyadic (ofInt zneg k e) := by
  by_cases hk : k = 0
  · rw [hk, ofInt_zero]; trivial
  · rw [ofInt_of_ne hk]; exact ⟨Int.natAbs_ne_zero.2 hk, rfl⟩

theorem ofInt_rat (zneg : Bool) (k e : Int) : rat (ofInt zneg k e) = k * 2 ^ e := by
  by_cases hk : k = 0
  · rw [hk, ofInt_zero, rat_zero]; simp
  · rw [ofInt_of_ne hk]
    have habs : ((k.natAbs : Nat) : ℚ) = ((|k| : Int) : ℚ) := by rw [Int.abs_eq_natAbs]; rfl
    by_cases hneg : k < 0
    · simp [rat, hneg, habs, abs_of_neg hneg]
    · simp [rat, hneg, habs, abs_of_nonneg (not_lt.1 hneg)]

/-- The sum of two magnitudes is that of their signed significands at the smaller exponent. -/
theorem exAdd_fin (mode : Rm) (a b : Bool) (m n : Nat) (e k : Int) : ∃ z lo : Int,
    exAdd mode (.fin a m e false) (.fin b n k false) = (ofInt (mode == .rdn) z lo, 0) ∧ (z : ℚ) * 2 ^ lo = rat (.fin a m e false) + rat (.fin b n k false) := by
  refine ⟨_, _, rfl, ?_⟩
  push_cast
  rw [add_mul, scaled_fin (by split_ifs <;> omega), scaled_fin (by split_ifs <;> omega)]

theorem exactSum : ExactSum := by
  intro mode x y hx hy
  rcases dyadic_cases hx with ⟨a, rfl⟩ | ⟨a, m, e, hm, rfl⟩ <;> rcases dyadic_cases hy with ⟨b, rfl⟩ | ⟨b, n, k, hn, rfl⟩
  · refine ⟨trivial, by simp [exAdd, rat], rfl, fun _ => ?_⟩
    cases mode <;> cases a <;> cases b <;> rfl
  · exact ⟨hy, by rw [rat_zero, zero_add]; rfl, rfl, fun hzero => absurd hzero (by rw [rat_zero, zero_add]; exact rat_fin_ne_zero hn k false)⟩
  · exact ⟨hx, by rw [rat_zero, add_zero]; rfl, rfl, fun hzero => absurd hzero (by rw [rat_zero, add_zero]; exact rat_fin_ne_zero hm e false)⟩
  · obtain ⟨z, lo, hsum, hval⟩ := exAdd_fin mode a b m n e k
    rw [hsum]
    refine ⟨ofInt_dyadic _ z lo, by rw [ofInt_rat, hval], rfl, fun hzero => ?_⟩
    have hz : z = 0 := by
      rw [← hval] at hzero
      have hpos : (2 : ℚ) ^ lo ≠ 0 := by positivity
      simpa [hpos] using hzero
    have hne : Exact.fin a m e false ≠ .fin b n k false := by
      intro heq
      rw [← heq] at hzero
      exact rat_fin_ne_zero hm e false (by linarith)
    rw [if_neg hne, hz, ofInt_zero]
    cases mode <;> rfl

theorem exactProduct : ExactProduct := by
  intro x y hx hy
  rcases dyadic_cases hx with ⟨a, rfl⟩ | ⟨a, m, e, hm, rfl⟩ <;> rcases dyadic_cases hy with ⟨b, rfl⟩ | ⟨b, n, k, hn, rfl⟩
  · exact ⟨trivial, by simp [exMul, rat], rfl, rfl⟩
  · exact ⟨trivial, by simp [exMul, rat], rfl, rfl⟩
  · exact ⟨trivial, by simp [exMul, rat], rfl, rfl⟩
  · refine ⟨⟨Nat.mul_ne_zero hm hn, rfl⟩, ?_, rfl, rfl⟩
    simp only [exMul, rat, zpow_add₀ (two_ne_zero' ℚ), Nat.cast_mul]
    cases a <;> cases b <;> simp <;> ring

/-! ### Quotients and roots (R113) -/

/-- A quotient is what its integer division gives: exactly without a remainder, strictly below the next integer with one. -/
theorem nat_div_bracket (M : Nat) {n : Nat} (hn : n ≠ 0) :
    if (M % n != 0) then ((M / n : Nat) : ℚ) < M / n ∧ (M : ℚ) / n < (M / n : Nat) + 1 else ((M / n : Nat) : ℚ) = M / n := by
  have hpos : (0 : ℚ) < n := by exact_mod_cast Nat.pos_of_ne_zero hn
  have hM : (M : ℚ) = n * (M / n : Nat) + (M % n : Nat) := by exact_mod_cast (Nat.div_add_mod M n).symm
  have hquot : (M : ℚ) / n = (M / n : Nat) + (M % n : Nat) / n := by
    rw [div_eq_iff hpos.ne', add_mul, div_mul_cancel₀ _ hpos.ne', mul_comm]; exact hM
  have hrem : ((M % n : Nat) : ℚ) / n < 1 := by
    rw [div_lt_one hpos]; exact_mod_cast Nat.mod_lt M (Nat.pos_of_ne_zero hn)
  rw [hquot]
  by_cases hr : M % n = 0
  · simp [hr]
  · have hrpos : 0 < ((M % n : Nat) : ℚ) / n := by
      have : 0 < ((M % n : Nat) : ℚ) := by exact_mod_cast Nat.pos_of_ne_zero hr
      positivity
    rw [if_pos (by simpa using hr)]
    exact ⟨by linarith, by linarith⟩

theorem quotientBracketed (a b : Bool) (m n : Nat) (e k : Int) (hn : n ≠ 0) : ∃ (q : Nat) (c : Int) (st : Bool),
    exDiv (.fin a m e false) (.fin b n k false) = (.fin (a != b) q c st, 0) ∧
    (if st then (q : ℚ) * 2 ^ c < (m * 2 ^ e) / (n * 2 ^ k) ∧ (m * 2 ^ e) / (n * 2 ^ k) < (q + 1 : ℚ) * 2 ^ c
     else (q : ℚ) * 2 ^ c = (m * 2 ^ e) / (n * 2 ^ k)) := by
  refine ⟨_, _, _, rfl, ?_⟩
  generalize 130 + bitLen n = sh
  have hpos : (0 : ℚ) < 2 ^ (e - k - sh : Int) := by positivity
  have hval : (m * 2 ^ e : ℚ) / (n * 2 ^ k) = ((m * 2 ^ sh : Nat) : ℚ) / n * 2 ^ (e - k - sh : Int) := by
    have hpow : (2 : ℚ) ^ e = 2 ^ sh * 2 ^ (e - k - sh : Int) * 2 ^ k := by
      rw [← zpow_natCast, ← zpow_add₀ two_ne_zero, ← zpow_add₀ two_ne_zero]; congr 1; omega
    have hk : (2 : ℚ) ^ k ≠ 0 := by positivity
    have hnq : (n : ℚ) ≠ 0 := by exact_mod_cast hn
    rw [hpow]
    push_cast
    field_simp
  have hbracket := nat_div_bracket (m * 2 ^ sh) hn
  rw [hval]
  split at hbracket
  · next hst =>
    rw [if_pos hst]
    exact ⟨(mul_lt_mul_iff_left₀ hpos).2 hbracket.1, (mul_lt_mul_iff_left₀ hpos).2 hbracket.2⟩
  · next hst =>
    rw [if_neg hst, hbracket]

/-- One bit of the root after another keeps the number between the squares. -/
theorem isqrtBits_bracket (n : Nat) : ∀ k acc, acc ^ 2 ≤ n → n < (acc + 2 ^ k) ^ 2 → isqrtBits n k acc ^ 2 ≤ n ∧ n < (isqrtBits n k acc + 1) ^ 2
  | 0, _, hle, hlt => ⟨hle, hlt⟩
  | k + 1, acc, hle, hlt => by
    rw [isqrtBits]
    split
    · next ht => exact isqrtBits_bracket n k _ (by rwa [pow_two]) (by rwa [Nat.add_assoc, ← Nat.two_mul, ← Nat.pow_succ'])
    · next ht => exact isqrtBits_bracket n k _ hle (by rw [pow_two]; omega)

theorem lt_two_pow_bitLen (n : Nat) : n < 2 ^ bitLen n := by
  unfold bitLen
  split
  · next hn => simp [hn]
  · exact Nat.lt_log2_self

theorem isqrt_bracket (n : Nat) : isqrt n ^ 2 ≤ n ∧ n < (isqrt n + 1) ^ 2 := by
  refine isqrtBits_bracket n _ 0 (Nat.zero_le _) ((lt_two_pow_bitLen n).trans_le ?_)
  rw [Nat.zero_add, ← pow_mul]
  exact Nat.pow_le_pow_right (by decide) (by omega)

theorem rootBracketed (m : Nat) (e : Int) : ∃ (q : Nat) (c : Int) (st : Bool), exSqrt (.fin false m e false) = (.fin false q c st, 0) ∧
    (if st then ((q : ℚ) * 2 ^ c) ^ 2 < m * 2 ^ e ∧ (m : ℚ) * 2 ^ e < ((q + 1 : ℚ) * 2 ^ c) ^ 2 else ((q : ℚ) * 2 ^ c) ^ 2 = m * 2 ^ e) := by
  refine ⟨_, _, _, rfl, ?_⟩
  -- the magnitude is M × 2^(2c) for the even exponent that the root halves
  obtain ⟨M, c, hM, hc, hval⟩ : ∃ (M : Nat) (c : Int), (if e % 2 != 0 then m * 2 else m) * 2 ^ 260 = M ∧ ((if e % 2 != 0 then e - 1 else e) - 260) / 2 = c ∧
      (m : ℚ) * 2 ^ e = M * (2 ^ c) ^ 2 := by
    refine ⟨_, _, rfl, rfl, ?_⟩
    rw [← zpow_natCast, ← zpow_mul]
    by_cases hodd : (e % 2 != 0) = true
    · have hne : e % 2 ≠ 0 := by simpa using hodd
      rw [if_pos hodd, if_pos hodd, Nat.cast_mul, Nat.cast_mul, Nat.cast_pow, Nat.cast_ofNat, mul_assoc, mul_assoc, ← zpow_natCast, ← zpow_add₀ two_ne_zero, ← zpow_one_add₀ two_ne_zero]
      congr 2; omega
    · have heven : e % 2 = 0 := by simpa using hodd
      rw [if_neg hodd, if_neg hodd, Nat.cast_mul, Nat.cast_pow, Nat.cast_ofNat, mul_assoc, ← zpow_natCast, ← zpow_add₀ two_ne_zero]
      congr 2; omega
  rw [hM, hc, hval]
  obtain ⟨hle, hlt⟩ := isqrt_bracket M
  have hpos : (0 : ℚ) < (2 ^ c) ^ 2 := by positivity
  rw [mul_pow, mul_pow]
  by_cases hst : (isqrt M * isqrt M != M) = true
  · have hne : isqrt M ^ 2 ≠ M := by rw [pow_two]; simpa using hst
    rw [if_pos hst, mul_lt_mul_iff_left₀ hpos, mul_lt_mul_iff_left₀ hpos]
    exact ⟨by exact_mod_cast lt_of_le_of_ne hle hne, by exact_mod_cast hlt⟩
  · have heq : isqrt M ^ 2 = M := by rw [pow_two]; simpa using hst
    rw [if_neg hst, mul_left_inj' hpos.ne']
    exact_mod_cast heq

/-- Settles O5: the sum at one exponent, the product of significands, the quotient by division with a remainder and the root by its squares. -/
theorem exactArithmetic : Obligations.ExactArithmetic :=
  ⟨exactSum, exactProduct, fun a b m n e k _ hn => quotientBracketed a b m n e k hn, fun m e _ => rootBracketed m e⟩

end Sys2Proof.Machine
end

section
/-! PROOF. Floating-point instructions (spec/04_arithmetic_instructions.md R108 to R116). -/

namespace Sys2Proof.Machine

open Sys2Proof Sys2Proof.Claims

/-! ### Comparisons (R112) -/

theorem fpCompare_holds (f : FFmt) (cc : FCond) (a b : Nat) : (fpCompare f cc a b).1 = true ↔ holdsFp cc (f.decode a) (f.decode b) := by
  generalize hx : f.decode a = x
  generalize hy : f.decode b = y
  by_cases hnan : x.isNan = true ∨ y.isNan = true
  · have hor : (x.isNan || y.isNan) = true := by simpa using hnan
    cases cc <;> simp [fpCompare, holdsFp, hx, hy, hnan, hor]
  · have hxn : x.isNan = false := by simpa using fun h => hnan (.inl h)
    have hyn : y.isNan = false := by simpa using fun h => hnan (.inr h)
    obtain ⟨hlt, heq⟩ := exCmp_iff hxn hyn
    have hpos := exCmp_pos_iff hxn hyn
    have hle : exCmp x y ≤ 0 ↔ ext x ≤ ext y := by rw [← not_lt, hpos, not_lt]
    have hge : 0 ≤ exCmp x y ↔ ext y ≤ ext x := by rw [← not_lt, hlt, not_lt]
    cases cc <;> simp [fpCompare, holdsFp, hx, hy, hxn, hyn, hlt, heq, hpos, hle, hge]

theorem fpCompare_flags (f : FFmt) (cc : FCond) (a b : Nat) : (fpCompare f cc a b).2 = flagsFp cc (f.decode a) (f.decode b) := by
  cases cc <;> rfl

/-- The smaller or larger operand, with −0 below +0 (R111). -/
theorem minMax_eq (larger : Bool) (m : FpMod) (a b : Nat) : minMax (ftyFormat m.ty) larger a b = smallerOf larger m a b := by
  unfold minMax smallerOf
  dsimp only [fpVal]
  generalize (ftyFormat m.ty).decode a = x
  generalize (ftyFormat m.ty).decode b = y
  by_cases hx : x.isNan = true
  · by_cases hy : y.isNan = true <;> simp [hx, hy]
  by_cases hy : y.isNan = true
  · simp [hx, hy]
  simp only [Bool.not_eq_true] at hx hy
  obtain ⟨hlt, heq⟩ := exCmp_iff hx hy
  have hless : (decide (exCmp x y < 0) || (exCmp x y == 0 && x.isNeg && !y.isNeg)) = true ↔
      ext x < ext y ∨ (ext x = ext y ∧ x.isNeg = true ∧ y.isNeg = false) := by
    simp [hlt, heq, and_assoc]
  simp only [hx, hy, Bool.and_false, Bool.false_eq_true, if_false]
  refine Prod.ext (if_congr ?_ rfl rfl) rfl
  cases larger with
  | false => simp only [Bool.bne_false, Bool.false_eq_true, if_false, hless]
  | true => simp only [Bool.bne_true, Bool.not_eq_true', if_true, ← hless, Bool.not_eq_true]

/-! ### The law of element results -/

section

variable {s : State} {v : View} {h : Hdr} {m : FpMod} {wide : Bool} {regs : List (BitVec 8 × Nat)} {res : View → Option Nat → List (Nat × Flags)}

/-- Elements with their flags, joined in the destination of every place. -/
theorem compute_ends_elements (hv : view? s = some v) (hd : fieldOk h.u wide h.d = true) (hc : Computes v h regs (destRegs h.d wide)) :
    ∃ t r, compute s h 8 false regs (fun v l => (writeReg l h.d wide false (joinElems ((res v l).map Prod.fst)), flagsAll ((res v l).map Prod.snd))) = .next t ∧
      Ends s t v (v.r.pc + 8) (flagsAll ((v.places h).flatMap (fun l => (res v l).map Prod.snd))) (Dest v h wide) r ∧
      ∀ l ∈ v.places h, Holds r l h.d wide false (joinElems ((res v l).map Prod.fst)) := by
  rw [flagsAll_flatMap]
  exact compute_ends hv (even_of_fieldOk hd) hc

/-- The same in a window. -/
theorem compute_ends_long_elements (hv : view? s = some v) (hd : fieldOk h.u wide h.d = true) (hc : Computes v h regs (destRegs h.d wide)) :
    ∃ t r ws, compute s h 8 true regs (fun v l => (writeReg l h.d wide false (joinElems ((res v l).map Prod.fst)), flagsAll ((res v l).map Prod.snd))) = .next t ∧
      Ends s t v (v.r.pc + 8) (flagsAll ((v.places h).flatMap (fun l => (res v l).map Prod.snd))) (fun _ => False) r ∧ Opens s v h r ws ∧
      ∀ l ∈ v.places h, Holds (v.r.writes ws) l h.d wide false (joinElems ((res v l).map Prod.fst)) := by
  rw [flagsAll_flatMap]
  exact compute_ends_long hv (even_of_fieldOk hd) hc

/-- A floating-point instruction of one source computes its elements' results. -/
theorem fpOp1_eq (long : Bool) (f : Nat → Nat × Flags) : fpOp1 s h m long true f =
    compute s h 8 long [(h.d, span m.ty.wide), (h.a, span m.ty.wide)] (fun v l =>
      (writeReg l h.d m.ty.wide false (joinElems (((fpA v h m l).map f).map Prod.fst)), flagsAll (((fpA v h m l).map f).map Prod.snd))) := by
  simp only [fpOp1, Bool.and_true]
  rfl

/-- FCLASS writes one register whatever its type. -/
theorem fpOp1_narrow_eq (long : Bool) (f : Nat → Nat × Flags) : fpOp1 s h m long false f =
    compute s h 8 long [(h.d, 1), (h.a, span m.ty.wide)] (fun v l =>
      (writeReg l h.d false false (joinElems (((fpA v h m l).map f).map Prod.fst)), flagsAll (((fpA v h m l).map f).map Prod.snd))) := by
  simp only [fpOp1, Bool.and_false]
  rfl

/-! ### Destinations of legal words (R108) -/

theorem fpTwo_destination {long mode sat : Bool} (hok : fpTwo h m long mode sat = true) : fieldOk h.u m.ty.wide h.d = true := by
  simp only [fpTwo, Bool.and_eq_true] at hok
  tauto

theorem fpOne_destination {long mode sat : Bool} (hok : fpOne h m long mode sat false = true) : fieldOk h.u m.ty.wide h.d = true := by
  simp only [fpOne, Bool.and_eq_true, Bool.not_false, Bool.and_true] at hok
  tauto

theorem ffmaOk_destination (hok : ffmaOk h m = true) : fieldOk h.u m.ty.wide h.d = true := by
  simp only [ffmaOk, Bool.and_eq_true] at hok
  tauto

theorem fscaleOk_destination (hok : fscaleOk h m = true) : fieldOk h.u m.ty.wide h.d = true := by
  simp only [fscaleOk, Bool.and_eq_true] at hok
  tauto

theorem fclass_destination {long mode sat : Bool} (hok : fpOne h m long mode sat true = true) : fieldOk h.u false h.d = true := by
  simp only [fpOne, Bool.and_eq_true, Bool.not_true, Bool.and_false] at hok
  tauto

theorem fset_destination (hok : fccOk h m false = true) : fieldOk h.u m.ty.wide h.d = true := by
  simp only [fccOk, Bool.and_eq_true, Bool.false_eq_true, if_false] at hok
  tauto

theorem fcmp_destination (hok : fccOk h m true = true) : h.d.toNat < 8 := by
  simp only [fccOk, Bool.and_eq_true, if_true] at hok
  exact predOk_lt (by tauto)

end

/-! ### FADD, FMUL, FSET, FMIN and FMAX (R110 to R112) -/

/-- The two-source instructions are their operations on elements. -/
theorem floatTwo_exec : ∀ e ∈ floatTwo, ∀ (h : Hdr) (m : FpMod) (s : State), exec (e.1 h m) s = fpOp2 s h m false (e.2 m) := by
  intro e he h m s
  rcases List.mem_append.1 he with harith | hset
  · simp only [List.mem_cons, List.not_mem_nil, or_false] at harith
    rcases harith with rfl | rfl <;> rfl
  · obtain ⟨cc, -, rfl⟩ := List.mem_map.1 hset
    change execFset h m cc s = _
    unfold execFset
    congr 1
    funext a b
    refine Prod.ext ?_ (fpCompare_flags ..)
    classical
    exact if_congr (fpCompare_holds ..) rfl rfl

theorem floatTwo_destination : ∀ e ∈ floatTwo, ∀ (h : Hdr) (m : FpMod), WellFormed (e.1 h m) = true → fieldOk h.u m.ty.wide h.d = true := by
  intro e he h m hok
  rcases List.mem_append.1 he with harith | hset
  · simp only [List.mem_cons, List.not_mem_nil, or_false] at harith
    rcases harith with rfl | rfl <;> exact fpTwo_destination hok
  · obtain ⟨cc, -, rfl⟩ := List.mem_map.1 hset
    exact fset_destination hok

theorem floatTwoSource : FloatTwoSource := by
  intro e he s v h m hv hok hc
  rw [floatTwo_exec e he]
  exact compute_ends_elements (res := fun v l => List.zipWith (e.2 m) (fpA v h m l) (fpSecond v.r l h m)) hv (floatTwo_destination e he h m hok) hc

theorem exec_minMax (larger : Bool) (h : Hdr) (m : FpMod) (s : State) :
    exec (if larger then Instr.fmax h m else .fmin h m) s = fpOp2 s h m false (smallerOf larger m) := by
  have hop : minMax (ftyFormat m.ty) larger = smallerOf larger m := by
    funext a b
    exact minMax_eq larger m a b
  rw [← hop]
  cases larger <;> rfl

/-- Settles O60: by the law of element results and the order of the extended rationals. -/
theorem minimumAndMaximum : Obligations.MinimumAndMaximum := by
  intro larger s v h m i hv hok hc
  have hd : fieldOk h.u m.ty.wide h.d = true := by
    cases larger <;> exact fpTwo_destination hok
  rw [exec_minMax]
  exact compute_ends_elements (res := fun v l => List.zipWith (smallerOf larger m) (fpA v h m l) (fpSecond v.r l h m)) hv hd hc

/-! ### FFMA and FCMP (R110, R112) -/

theorem floatFusedAndCompare : FloatFusedAndCompare := by
  refine ⟨fun s v h m hv hok hc => ?ffma, fun s v h m cc hv hok hc => ?fcmp⟩
  case ffma =>
    intro res
    obtain ⟨t, r, hnext, hends, hholds⟩ := compute_ends_elements (s := s) (res := fun v l => (List.zip (fpA v h m l) (List.zip (fpB3 v h m l) (fpC v h m l))).map (fun x =>
      fpNarrow m (exFma m.rm (fpVal m x.1) (fpVal m x.2.1) (fpVal m x.2.2)))) hv (ffmaOk_destination hok) hc
    exact ⟨t, r, hnext, hends, hholds⟩
  case fcmp =>
    obtain ⟨t, r, hnext, hends, hholds⟩ := compute_ends_pred (s := s) (size := 8)
      (p := fun v l => (fpCompare (ftyFormat m.ty) cc ((fpA v h m l).headD 0) ((fpSecond v.r l h m).headD 0)).1)
      (fl := fun v l => (fpCompare (ftyFormat m.ty) cc ((fpA v h m l).headD 0) ((fpSecond v.r l h m).headD 0)).2) hv (fcmp_destination hok) hc
    simp only [fpCompare_flags] at hends
    refine ⟨t, r, hnext, hends, fun l hl => ?_⟩
    rw [hholds l hl]
    exact fpCompare_holds ..

/-! ### FRCP to FCOS and FDIV (R113, R114) -/

theorem floatLong_exec : ∀ e ∈ floatLong, ∀ (h : Hdr) (m : FpMod) (s : State), exec (e.1 h m) s = fpOp1 s h m true true (fun a => fpNarrow m (e.2 (fpVal m a))) := by
  simp only [floatLong, List.forall_mem_cons]
  exact ⟨fun _ _ _ => rfl, fun _ _ _ => rfl, fun _ _ _ => rfl, fun _ _ _ => rfl, fun _ _ _ => rfl, fun _ _ _ => rfl, fun _ _ _ => rfl, by simp⟩

theorem floatLong_destination : ∀ e ∈ floatLong, ∀ (h : Hdr) (m : FpMod), WellFormed (e.1 h m) = true → fieldOk h.u m.ty.wide h.d = true := by
  simp only [floatLong, List.forall_mem_cons]
  exact ⟨fun _ _ => fpOne_destination, fun _ _ => fpOne_destination, fun _ _ => fpOne_destination, fun _ _ => fpOne_destination,
    fun _ _ => fpOne_destination, fun _ _ => fpOne_destination, fun _ _ => fpOne_destination, by simp⟩

/-- Settles O7: by the law of late element results, the values being the model's own functions. -/
theorem floatLongLatency : Obligations.FloatLongLatency := by
  refine ⟨fun e he s v h m hv hok hc => ?one, fun s v h m hv hok hc => ?fdiv⟩
  case one =>
    rw [floatLong_exec e he, fpOp1_eq]
    exact compute_ends_long_elements (res := fun v l => (fpA v h m l).map (fun a => fpNarrow m (e.2 (fpVal m a)))) hv (floatLong_destination e he h m hok) hc
  case fdiv =>
    exact compute_ends_long_elements (res := fun v l => List.zipWith (fun a b => fpNarrow m (exDiv (fpVal m a) (fpVal m b))) (fpA v h m l) (fpSecond v.r l h m))
      hv (fpTwo_destination hok) hc

/-! ### FCLASS (R115) -/

/-- The sign of an encoding. -/
def signOf (f : FFmt) (a : Nat) : Bool := decide (a / 2 ^ (f.width - 1) % 2 = 1)

/-- Its exponent field. -/
def exponentOf (f : FFmt) (a : Nat) : Nat := a / 2 ^ f.mbits % 2 ^ f.ebits

/-- Its significand field. -/
def significandOf (f : FFmt) (a : Nat) : Nat := a % 2 ^ f.mbits

section

variable (f : FFmt) (a : Nat)

theorem width_sub_one : f.width - 1 = f.mbits + f.ebits := by unfold FFmt.width; omega

theorem encoding_mod_signBit : a % 2 ^ f.width % f.signBit = a % 2 ^ (f.mbits + f.ebits) := by
  rw [FFmt.signBit, width_sub_one, Nat.mod_mod_of_dvd]
  exact pow_dvd_pow 2 (by unfold FFmt.width; omega)

theorem decide_signBit_le : decide (f.signBit ≤ a % 2 ^ f.width) = signOf f a := by
  have hwidth : 2 ^ f.width = 2 ^ (f.width - 1) * 2 := by rw [← pow_succ]; unfold FFmt.width; congr 1; omega
  have hpos : 0 < 2 ^ (f.width - 1) := Nat.two_pow_pos _
  rw [signOf, FFmt.signBit, hwidth, ← Nat.mod_mul_right_div_self, decide_eq_decide, ← Nat.one_le_div_iff hpos]
  have hlt : a % (2 ^ (f.width - 1) * 2) / 2 ^ (f.width - 1) < 2 := Nat.div_lt_of_lt_mul (Nat.mod_lt _ (by omega))
  omega

theorem encoding_exponent : a % 2 ^ f.width % f.signBit / 2 ^ f.mbits = exponentOf f a := by
  rw [encoding_mod_signBit, pow_add, Nat.mod_mul_right_div_self, exponentOf]

theorem encoding_significand : a % 2 ^ f.width % f.signBit % 2 ^ f.mbits = significandOf f a := by
  rw [encoding_mod_signBit, Nat.mod_mod_of_dvd _ (pow_dvd_pow 2 (by omega)), significandOf]

/-- Is an encoding below the normal values? -/
theorem subnormal_iff : a % f.signBit < 2 ^ f.mbits ↔ exponentOf f a = 0 := by
  rw [exponentOf, ← Nat.mod_mul_right_div_self, ← pow_add, FFmt.signBit, width_sub_one, Nat.div_eq_zero_iff_lt (Nat.two_pow_pos _)]

/-- The value of an encoding of a format with infinities, by its fields (R69, R70). -/
theorem decode_of_ieee (hf : f.ieee = true) : f.decode a =
    if exponentOf f a = 2 ^ f.ebits - 1 then
      if significandOf f a = 0 then .inf (signOf f a) else .nan (decide (significandOf f a < 2 ^ (f.mbits - 1)))
    else if exponentOf f a = 0 then
      if significandOf f a = 0 then .zero (signOf f a) else .fin (signOf f a) (significandOf f a) (f.emin - f.mbits) false
    else .fin (signOf f a) (significandOf f a + 2 ^ f.mbits) ((exponentOf f a : Int) - f.bias - f.mbits) false := by
  simp only [FFmt.decode, decide_signBit_le, encoding_exponent, encoding_significand, hf, Bool.true_and, Bool.not_true, Bool.false_and, Bool.false_eq_true, if_false, beq_iff_eq]

theorem classBit_eq : classBit f a =
    if exponentOf f a = 2 ^ f.ebits - 1 then
      if significandOf f a = 0 then (if signOf f a then 0 else 7) else if significandOf f a < 2 ^ (f.mbits - 1) then 8 else 9
    else if exponentOf f a = 0 then
      if significandOf f a = 0 then (if signOf f a then 3 else 4) else (if signOf f a then 2 else 5)
    else (if signOf f a then 1 else 6) := by
  simp only [classBit, signOf, exponentOf, significandOf, decide_eq_true_iff, Nat.div_eq_zero_iff_lt (Nat.two_pow_pos _)]
  rfl

/-- FCLASS sets the bit of the operand's class. -/
theorem classMask_eq (hf : f.ieee = true) : classMask f a = 2 ^ classBit f a := by
  simp only [classMask, decode_of_ieee f a hf, subnormal_iff, classBit_eq]
  by_cases hmax : exponentOf f a = 2 ^ f.ebits - 1
  · by_cases hz : significandOf f a = 0
    · cases signOf f a <;> simp only [if_pos hmax, if_pos hz] <;> rfl
    · by_cases hq : significandOf f a < 2 ^ (f.mbits - 1) <;> simp only [if_pos hmax, if_neg hz, hq, if_true, if_false] <;> rfl
  · by_cases hex : exponentOf f a = 0
    · by_cases hz : significandOf f a = 0
      · cases signOf f a <;> simp only [if_neg hmax, if_pos hex, if_pos hz] <;> rfl
      · cases signOf f a <;> simp only [if_neg hmax, decide_eq_true_eq, if_pos hex, if_neg hz] <;> rfl
    · cases signOf f a <;> simp only [if_neg hmax, decide_eq_true_eq, if_neg hex] <;> rfl

end

theorem ftyFormat_ieee (ty : FTy) : (ftyFormat ty).ieee = true := by cases ty <;> rfl

/-! ### FRND, FCLASS, FSCALE, FDOT2 and FDOT4 (R115, R116) -/

theorem floatShapes : FloatShapes := by
  intro s v h m hv
  refine ⟨fun hok hc => ?frnd, fun hok hc => ?fclass, fun hok hc => ?fscale, fun hok hc => ?fdot2, fun pair hok hc => ?fdot4⟩
  case frnd =>
    change ∃ t r, fpOp1 s h m false true (roundIntegral (ftyFormat m.ty) m.rm) = _ ∧ _
    rw [fpOp1_eq]
    exact compute_ends_elements (res := fun v l => (fpA v h m l).map (roundIntegral (ftyFormat m.ty) m.rm)) hv (fpOne_destination hok) hc
  case fclass =>
    change ∃ t r, fpOp1 s h m false false (fun a => (classMask (ftyFormat m.ty) a, 0)) = _ ∧ _
    rw [fpOp1_narrow_eq]
    obtain ⟨t, r, hnext, hends, hholds⟩ := compute_ends_elements (s := s) (wide := false)
      (res := fun v l => (fpA v h m l).map (fun a => (classMask (ftyFormat m.ty) a, 0))) hv (fclass_destination hok) hc
    simp only [List.map_map, Function.comp_def, classMask_eq _ _ (ftyFormat_ieee m.ty), flagsAll_flatMap, flagsAll_map_zero] at hnext hends hholds ⊢
    exact ⟨t, r, hnext, hends, hholds⟩
  case fscale =>
    exact compute_ends_elements (res := fun v l => List.zipWith (fun a n => fpNarrow m (exScale (fpVal m a) n)) (fpA v h m l) (scaleElems v.r l h m))
      hv (fscaleOk_destination hok) hc
  case fdot2 =>
    intro f res
    exact compute_ends (x := fun v l => (chunkUpdate (v.pkt.nbv == 1) m.sat (readReg v.r l h.c false)
      (List.zipWith (fun x y => exMul (f.decode x) (f.decode y)) (fpElems m.ty m.swa m.na (readReg v.r l h.a false))
        (fpElems m.ty m.swb m.nb (secondOf3 v.r l h m.bk false)))).1) hv (by simp) hc
  case fdot4 =>
    intro f res
    exact compute_ends (x := fun v l => (chunkUpdate (v.pkt.nbv == 1) m.sat (readReg v.r l h.c false)
      (List.zipWith (fun x y => exMul (f.1.decode x) (f.2.decode y)) ((byteElems (readReg v.r l h.a false)).map (negEnc f.1 m.na))
        ((byteElems (secondOf3 v.r l h m.bk false)).map (negEnc f.2 m.nb)))).1) hv (by simp) hc

/-- Settles O6: by the law of element results, the comparisons by the order of the extended rationals, the classes by the fields of an encoding. -/
theorem floatResults : Obligations.FloatResults := ⟨floatTwoSource, floatFusedAndCompare, floatShapes⟩

end Sys2Proof.Machine
end

section
/-! PROOF. Exchange instructions (spec/04_arithmetic_instructions.md R125 to R130). -/

namespace Sys2Proof.Machine

open Sys2Proof Sys2Proof.Claims

/-! ### Folds of an operation on words -/

section

variable {n e : Nat} {f g : Nat → Nat → Nat}

theorem foldr_lt (hclosed : ∀ a b, a < n → b < n → f a b < n) (he : e < n) {xs : List Nat} (hxs : ∀ x ∈ xs, x < n) : xs.foldr f e < n := by
  induction xs with
  | nil => exact he
  | cons x xs ih => exact hclosed _ _ (hxs x (List.mem_cons_self ..)) (ih fun y hy => hxs y (List.mem_cons_of_mem _ hy))

/-- An associative operation with an identity, folded from either end. -/
theorem foldl_eq_foldr_of (hclosed : ∀ a b, a < n → b < n → f a b < n) (hassoc : ∀ a b c, a < n → b < n → c < n → f (f a b) c = f a (f b c))
    (hid : ∀ a, a < n → f a e = a) (he : e < n) {x : Nat} {xs : List Nat} (hx : x < n) (hxs : ∀ y ∈ xs, y < n) : xs.foldl f x = (x :: xs).foldr f e := by
  induction xs generalizing x with
  | nil => exact (hid x hx).symm
  | cons y ys ih =>
    have hy : y < n := hxs y (List.mem_cons_self ..)
    have hys : ∀ z ∈ ys, z < n := fun z hz => hxs z (List.mem_cons_of_mem _ hz)
    rw [List.foldl_cons, ih (hclosed x y hx hy) hys, List.foldr_cons, List.foldr_cons, List.foldr_cons, hassoc x y _ hx hy (foldr_lt hclosed he hys)]

/-- Operations that agree on words fold alike. -/
theorem foldr_congr_of (hclosed : ∀ a b, a < n → b < n → f a b < n) (he : e < n) (hfg : ∀ a b, a < n → b < n → f a b = g a b) {xs : List Nat}
    (hxs : ∀ x ∈ xs, x < n) : xs.foldr f e = xs.foldr g e := by
  induction xs with
  | nil => rfl
  | cons x xs ih =>
    have hrest : ∀ y ∈ xs, y < n := fun y hy => hxs y (List.mem_cons_of_mem _ hy)
    rw [List.foldr_cons, List.foldr_cons, ← ih hrest, hfg _ _ (hxs x (List.mem_cons_self ..)) (foldr_lt hclosed he hrest)]

end

/-! ### Combinations of integers (R130) -/

/-- The integer that a value of an exchange type stands for in a comparison. -/
def exchangeVal (ty : XTy) (x : Nat) : Int := if xSigned ty then signedOf (xWidth ty) x else (x : Int)

section

variable {ty : XTy} {a b c : Nat}

theorem redInt_min (ty : XTy) (a b : Nat) : redInt ty 1 a b = if exchangeVal ty b < exchangeVal ty a then b else a := rfl
theorem redInt_max (ty : XTy) (a b : Nat) : redInt ty 2 a b = if exchangeVal ty a < exchangeVal ty b then b else a := rfl

theorem exchangeVal_inj (ha : a < 2 ^ xWidth ty) (hb : b < 2 ^ xWidth ty) (hab : exchangeVal ty a = exchangeVal ty b) : a = b := by
  unfold exchangeVal at hab
  split at hab
  · rw [signedOf_eq_toInt, signedOf_eq_toInt] at hab
    have hnat := congrArg BitVec.toNat (BitVec.eq_of_toInt_eq hab)
    rwa [BitVec.toNat_ofNat, BitVec.toNat_ofNat, Nat.mod_eq_of_lt ha, Nat.mod_eq_of_lt hb] at hnat
  · exact_mod_cast hab

/-- The identities of the least and the greatest lie at the ends of the type. -/
theorem exchangeVal_le_identity (hf : xFloat ty = false) (ha : a < 2 ^ xWidth ty) : exchangeVal ty a ≤ exchangeVal ty (redIdentity ty 1) := by
  cases ty with
  | f32 | f64 => cases hf
  | b32 | b64 | i32 | i64 | ui32 | ui64 =>
    simp [exchangeVal, redIdentity, xFloat, xSigned, xWidth, XTy.wide, signedOf] at ha ⊢; omega

theorem identity_le_exchangeVal (hf : xFloat ty = false) (ha : a < 2 ^ xWidth ty) : exchangeVal ty (redIdentity ty 2) ≤ exchangeVal ty a := by
  cases ty with
  | f32 | f64 => cases hf
  | b32 | b64 | i32 | i64 | ui32 | ui64 =>
    simp [exchangeVal, redIdentity, xFloat, xSigned, xWidth, XTy.wide, signedOf] at ha ⊢ <;> omega

theorem redIdentity_lt (hf : xFloat ty = false) (opk : Nat) : redIdentity ty opk < 2 ^ xWidth ty := by
  have hpos := Nat.two_pow_pos (xWidth ty)
  have hhalf : 2 ^ (xWidth ty - 1) < 2 ^ xWidth ty := Nat.pow_lt_pow_right (by decide) (by unfold xWidth; split <;> decide)
  match opk with
  | 0 => simp [redIdentity, hf]
  | 1 => simp only [redIdentity, hf, Bool.false_eq_true, if_false]; split <;> omega
  | 2 => simp only [redIdentity, hf, Bool.false_eq_true, if_false]; split <;> omega
  | 3 => exact Nat.sub_lt hpos Nat.one_pos
  | _ + 4 => exact hpos

theorem redInt_lt (opk : Nat) (ha : a < 2 ^ xWidth ty) (hb : b < 2 ^ xWidth ty) : redInt ty opk a b < 2 ^ xWidth ty := by
  match opk with
  | 0 => exact Nat.mod_lt _ (Nat.two_pow_pos _)
  | 1 => rw [redInt_min]; split <;> assumption
  | 2 => rw [redInt_max]; split <;> assumption
  | 3 => exact Nat.and_lt_two_pow _ hb
  | 4 => exact Nat.or_lt_two_pow ha hb
  | _ + 5 => exact Nat.xor_lt_two_pow ha hb

theorem redInt_assoc (opk : Nat) : redInt ty opk (redInt ty opk a b) c = redInt ty opk a (redInt ty opk b c) := by
  match opk with
  | 0 => simp only [redInt, Nat.mod_add_mod, Nat.add_mod_mod, Nat.add_assoc]
  | 1 => simp only [redInt_min]; grind
  | 2 => simp only [redInt_max]; grind
  | 3 => exact Nat.and_assoc ..
  | 4 => exact Nat.or_assoc ..
  | _ + 5 => exact Nat.xor_assoc ..

theorem redInt_identity (hf : xFloat ty = false) (opk : Nat) (ha : a < 2 ^ xWidth ty) : redInt ty opk a (redIdentity ty opk) = a := by
  match opk with
  | 0 => simp [redInt, redIdentity, hf, Nat.mod_eq_of_lt ha]
  | 1 => rw [redInt_min, if_neg (not_lt.2 (exchangeVal_le_identity hf ha))]
  | 2 => rw [redInt_max, if_neg (not_lt.2 (identity_le_exchangeVal hf ha))]
  | 3 => exact (Nat.and_two_pow_sub_one_eq_mod ..).trans (Nat.mod_eq_of_lt ha)
  | 4 => exact Nat.or_zero a
  | _ + 5 => exact Nat.xor_zero a

/-- An integer combination is a fold from the identity. -/
theorem combineAll_eq_foldr (hf : xFloat ty = false) (opk : Nat) {xs : List Nat} (hxs : ∀ x ∈ xs, x < 2 ^ xWidth ty) :
    combineAll ty opk xs = (xs.foldr (redInt ty opk) (redIdentity ty opk), 0) := by
  cases xs with
  | nil => rfl
  | cons x xs =>
    simp only [combineAll, hf, Bool.false_eq_true, if_false]
    rw [foldl_eq_foldr_of (fun _ _ => redInt_lt opk) (fun _ _ _ _ _ _ => redInt_assoc opk) (fun _ => redInt_identity hf opk) (redIdentity_lt hf opk)
      (hxs x (List.mem_cons_self ..)) (fun y hy => hxs y (List.mem_cons_of_mem _ hy))]

theorem foldr_add_mod (n : Nat) (xs : List Nat) : xs.foldr (fun a b => (a + b) % n) 0 = xs.sum % n := by
  induction xs with
  | nil => exact (Nat.zero_mod n).symm
  | cons x xs ih => rw [List.foldr_cons, List.sum_cons, ih, Nat.add_mod_mod]

/-- A bitwise fold of words is that of their bit vectors. -/
theorem foldr_toNat {w : Nat} (f : Nat → Nat → Nat) (g : BitVec w → BitVec w → BitVec w) (e : BitVec w) (hfg : ∀ x y, (g x y).toNat = f x.toNat y.toNat)
    {xs : List Nat} (hxs : ∀ x ∈ xs, x < 2 ^ w) : xs.foldr f e.toNat = (xs.foldr (fun a b => g (BitVec.ofNat w a) b) e).toNat := by
  induction xs with
  | nil => rfl
  | cons x xs ih =>
    rw [List.foldr_cons, List.foldr_cons, ih fun y hy => hxs y (List.mem_cons_of_mem _ hy), hfg, BitVec.toNat_ofNat,
      Nat.mod_eq_of_lt (hxs x (List.mem_cons_self ..))]

/-- Of two equal values either is the least, so an order of choice does not matter. -/
theorem redInt_min_eq (ha : a < 2 ^ xWidth ty) (hb : b < 2 ^ xWidth ty) : redInt ty 1 a b = if exchangeVal ty a < exchangeVal ty b then a else b := by
  rw [redInt_min]
  rcases lt_trichotomy (exchangeVal ty a) (exchangeVal ty b) with hlt | heq | hgt
  · rw [if_neg hlt.not_gt, if_pos hlt]
  · rw [exchangeVal_inj ha hb heq, ite_self]
  · rw [if_pos hgt, if_neg hgt.not_gt]

theorem redInt_max_eq (ha : a < 2 ^ xWidth ty) (hb : b < 2 ^ xWidth ty) : redInt ty 2 a b = if exchangeVal ty b < exchangeVal ty a then a else b := by
  rw [redInt_max]
  rcases lt_trichotomy (exchangeVal ty a) (exchangeVal ty b) with hlt | heq | hgt
  · rw [if_pos hlt, if_neg hlt.not_gt]
  · rw [exchangeVal_inj ha hb heq, ite_self]
  · rw [if_neg hgt.not_gt, if_pos hgt]

/-- The integer combinations are those of the bit vectors and their integers. -/
theorem combineAll_eq_combineSpec (hf : xFloat ty = false) {opk : Nat} (hopk : opk < 6) {xs : List Nat} (hxs : ∀ x ∈ xs, x < 2 ^ xWidth ty) :
    combineAll ty opk xs = (combineSpec ty opk xs, 0) := by
  have hval : ∀ x, exchangeVal ty x = if xSigned ty then (BitVec.ofNat (xWidth ty) x).toInt else (x : Int) := by
    intro x
    rw [exchangeVal, signedOf_eq_toInt]
  rw [combineAll_eq_foldr hf opk hxs]
  refine Prod.ext ?_ rfl
  match opk, hopk with
  | 0, _ =>
    have hzero : redIdentity ty 0 = 0 := by simp [redIdentity, hf]
    rw [hzero]
    exact foldr_add_mod (2 ^ xWidth ty) xs
  | 1, _ =>
    dsimp only [combineSpec]
    rw [foldr_congr_of (fun _ _ => redInt_lt 1) (redIdentity_lt hf 1) (fun _ _ => redInt_min_eq) hxs]
    simp only [hval, redIdentity, hf, Bool.false_eq_true, if_false]
  | 2, _ =>
    dsimp only [combineSpec]
    rw [foldr_congr_of (fun _ _ => redInt_lt 2) (redIdentity_lt hf 2) (fun _ _ => redInt_max_eq) hxs]
    simp only [hval, redIdentity, hf, Bool.false_eq_true, if_false]
  | 3, _ =>
    dsimp only [combineSpec]
    rw [← foldr_toNat (· &&& ·) (· &&& ·) (BitVec.allOnes (xWidth ty)) (fun _ _ => BitVec.toNat_and ..) hxs, BitVec.toNat_allOnes]
    rfl
  | 4, _ => exact foldr_toNat (· ||| ·) (· ||| ·) 0 (fun _ _ => BitVec.toNat_or ..) hxs
  | 5, _ => exact foldr_toNat (· ^^^ ·) (· ^^^ ·) 0 (fun _ _ => BitVec.toNat_xor ..) hxs

end

/-! ### Lane-to-lane moves (R126, R127) -/

section

variable {s : State} {v : View} {h : Hdr} {m : XMod} {ty : XTy}

/-- Moves by source lanes that agree on the active lanes. -/
theorem moveLanes_eq {src src' : Nat → Option Nat} (hsrc : ∀ l, src l = src' l) : moveLanes v h ty src = laneMoves v h ty src' := by
  unfold moveLanes laneMoves
  congr 1
  funext l
  rw [hsrc l]
  cases src' l <;> rfl

theorem laneMoves_number_lt {src : Nat → Option Nat} (hd : fieldOk false ty.wide h.d = true) :
    ∀ w ∈ laneMoves v h ty src, ∀ k n y, w = .v k n y → n < 256 := by
  rintro w hw k n y rfl
  obtain ⟨l, -, hwl⟩ := List.mem_flatMap.1 hw
  cases hl : src l with
  | none => simp [hl] at hwl
  | some j =>
    rw [hl, Option.map_some, Option.getD_some] at hwl
    exact writeReg_number_lt (fun _ => even_of_fieldOk hd rfl) hwl

/-- The source lane of SHFL, by the place of the lane in its segment. -/
theorem shflSource_eq {opk : Nat} (seg l b : Nat) : shflSource opk seg l b = shuffleLane opk seg l b := by
  have hl := Nat.div_add_mod l (2 ^ seg)
  have hlt := Nat.mod_lt l (Nat.two_pow_pos seg)
  have hbase : l - l % 2 ^ seg = 2 ^ seg * (l / 2 ^ seg) := by omega
  have hplace : l - 2 ^ seg * (l / 2 ^ seg) = l % 2 ^ seg := by omega
  simp only [shflSource, shuffleLane, hbase, hplace]
  generalize 2 ^ seg * (l / 2 ^ seg) = base, l % 2 ^ seg = i at hl hlt
  match opk with
  | 0 | 3 | 4 => rfl
  | 1 =>
    change (if b ≤ i then some (l - b) else none) = if b ≤ i then some (base + (i - b)) else none
    split
    · exact congrArg some (by omega)
    · rfl
  | 2 =>
    rw [← hl, Nat.add_assoc]
    simp only [Nat.add_lt_add_iff_left]
  | _ + 5 =>
    change some (base + 2 ^ seg - 1 - i) = some (base + (2 ^ seg - 1 - i))
    exact congrArg some (by omega)

/-- QXCH: the horizontal, vertical or diagonal lane. -/
theorem qxch_lane (hok : qxchOk h m = true) (l : Nat) :
    l ^^^ (m.opk.toNat + 1) = if m.opk = 0 then l ^^^ 1 else if m.opk = 1 then l ^^^ 2 else l ^^^ 3 := by
  have hopk : m.opk.toNat ≤ 2 := by
    simp only [qxchOk, Bool.and_eq_true, decide_eq_true_eq] at hok
    tauto
  have hcases : m.opk = 0 ∨ m.opk = 1 ∨ m.opk = 2 := by bv_omega
  rcases hcases with ho | ho | ho <;> rw [ho] <;> rfl

theorem qxchOk_destination (hok : qxchOk h m = true) : fieldOk false m.ty.wide h.d = true := by
  simp only [qxchOk, Bool.and_eq_true] at hok
  tauto

theorem qbcastOk_destination (hok : qbcastOk h m = true) : fieldOk false m.ty.wide h.d = true := by
  simp only [qbcastOk, Bool.and_eq_true] at hok
  tauto

/-- A collective instruction whose results wait in a window ends with them there. -/
theorem finishLong_finishes_group {ws : List RegWrite} {fl : Flags} (hv : view? s = some v) (hej : v.ej = false) :
    FinishesLong s (finishLong s v h ws fl) v h ws fl :=
  finishLong_finishes hv (noSlot_group v ws ((ej_iff v).1 hej))

theorem exec_shfl_finishes (hv : view? s = some v) (hx : Exchanges v h m (m.opk != 5) (span m.ty.wide)) :
    let b := fun (l : Nat) => if m.bk then (v.r.kget h.b.toNat).toNat % 2 ^ 32 else (v.r.vget l h.b.toNat).toNat
    ∃ t, exec (.shfl h m) s = .next t ∧ FinishesLong s t v h (laneMoves v h m.ty (fun l => shuffleLane m.opk.toNat m.seg.toNat l (b l))) 0 := by
  obtain ⟨hej, hreg⟩ := hx
  refine ⟨_, collective_next hv hej hreg, ?_⟩
  rw [moveLanes_eq fun l => shflSource_eq m.seg.toNat l _]
  exact finishLong_finishes_group hv hej

theorem exec_qxch_finishes (hv : view? s = some v) (hok : qxchOk h m = true) (hx : Exchanges v h m false (span m.ty.wide)) :
    ∃ t, exec (.qxch h m) s = .next t ∧ Finishes s t v (v.r.pc + 8)
      (laneMoves v h m.ty (fun l => some (if m.opk = 0 then l ^^^ 1 else if m.opk = 1 then l ^^^ 2 else l ^^^ 3))) 0 := by
  obtain ⟨hej, hreg⟩ := hx
  refine ⟨_, collective_next hv hej hreg, ?_⟩
  rw [moveLanes_eq fun l => congrArg some (qxch_lane hok l)]
  exact finish_finishes_group hv hej 8 (laneMoves_number_lt (qxchOk_destination hok))

theorem exec_qbcast_finishes (hv : view? s = some v) (hok : qbcastOk h m = true) (hx : Exchanges v h m true (span m.ty.wide)) :
    let b := fun (l : Nat) => if m.bk then (v.r.kget h.b.toNat).toNat % 2 ^ 32 else (v.r.vget l h.b.toNat).toNat
    ∃ t, exec (.qbcast h m) s = .next t ∧ Finishes s t v (v.r.pc + 8) (laneMoves v h m.ty (fun l => some (l - l % 4 + b l % 4))) 0 := by
  obtain ⟨hej, hreg⟩ := hx
  refine ⟨_, collective_next hv hej hreg, ?_⟩
  have hquad : ∀ l, 4 * (l / 4) = l - l % 4 := by intro l; omega
  rw [moveLanes_eq fun l => congrArg (fun q => some (q + _)) (hquad l)]
  exact finish_finishes_group hv hej 8 (laneMoves_number_lt (qbcastOk_destination hok))

/-! ### VOTE and MATCH (R128, R129) -/

/-- The result of a vote by what holds of the lanes that say yes (R128). -/
def voteOf (opk : Nat) (d : BitVec 8) (act yes : List Nat) : RegWrite :=
  match opk with
  | 0 => .q d.toNat (decide (∀ l ∈ act, l ∈ yes))
  | 1 => .q d.toNat (decide (∃ l ∈ act, l ∈ yes))
  | 2 => .q d.toNat (decide ((∀ l ∈ act, l ∈ yes) ∨ ∀ l ∈ act, l ∉ yes))
  | 3 => .k d.toNat (maskOf yes)
  | 4 => .k d.toNat (BitVec.ofNat 64 yes.length)
  | _ => .k d.toNat (BitVec.ofNat 64 (yes.head?.getD 64))

theorem filter_length_iff (p : Nat → Bool) (ls : List Nat) : (ls.filter p).length = ls.length ↔ ∀ l ∈ ls, l ∈ ls.filter p := by
  rw [List.length_filter_eq_length_iff]
  simp +contextual [List.mem_filter]

theorem filter_isEmpty (p : Nat → Bool) (ls : List Nat) : (ls.filter p).isEmpty = decide (∀ l ∈ ls, l ∉ ls.filter p) := by
  rw [Bool.eq_iff_iff, List.isEmpty_iff, List.filter_eq_nil_iff, decide_eq_true_iff]
  simp +contextual [List.mem_filter]

theorem voteWrite_eq_voteOf (opk : Nat) (d : BitVec 8) (act : List Nat) (p : Nat → Bool) :
    voteWrite opk d act (act.filter p) = voteOf opk d act (act.filter p) := by
  match opk with
  | 0 => simp only [voteWrite, voteOf, Bool.beq_eq_decide_eq, filter_length_iff]
  | 1 =>
    simp only [voteWrite, voteOf, filter_isEmpty, ← decide_not]
    push Not
    rfl
  | 2 => simp only [voteWrite, voteOf, Bool.beq_eq_decide_eq, filter_length_iff, filter_isEmpty, Bool.or_comm, Bool.decide_or]
  | 3 | 4 => rfl
  | _ + 5 => simp only [voteWrite, voteOf, List.headD_eq_head?_getD]

theorem voteWrite_number_lt (opk : Nat) (d : BitVec 8) (act yes : List Nat) : ∀ w ∈ [voteWrite opk d act yes], ∀ k n y, w = .v k n y → n < 256 := by
  intro w hw k n y hwy
  rw [List.mem_singleton.1 hw] at hwy
  match opk with
  | 0 | 1 | 2 | 3 | 4 | _ + 5 => cases hwy

theorem exec_vote_finishes (hv : view? s = some v) (hej : v.ej = false) :
    let yes := (v.active h).filter (fun l => h.a = 7 || v.r.pget l h.a.toNat)
    ∃ t, exec (.vote h m) s = .next t ∧ Finishes s t v (v.r.pc + 8) [voteOf m.opk.toNat h.d (v.active h) yes] 0 := by
  refine ⟨_, collective_of hv hej _, ?_⟩
  rw [← voteWrite_eq_voteOf]
  exact finish_finishes_group hv hej 8 (voteWrite_number_lt _ _ _ _)

/-- The writes of MATCH in a lane by the lanes of its segment and those that match it (R129). -/
def matchOf (opk : Nat) (d : BitVec 8) (l : Nat) (seg same : List Nat) : List RegWrite :=
  match opk with
  | 0 => writeReg (some l) d true false (maskOf same).toNat
  | 1 => writeReg (some l) d false false (same.head?.getD l)
  | 2 => writeReg (some l) d false false same.length
  | _ => writeReg (some l) d false false (if ∀ k ∈ seg, k ∈ same then 1 else 0)

theorem exec_matchLanes_finishes (hv : view? s = some v) (hx : Exchanges v h m false (if m.opk = 0 then 2 else 1)) :
    let seg := fun (l : Nat) => (v.active h).filter (fun k => k / 2 ^ m.seg.toNat == l / 2 ^ m.seg.toNat)
    let same := fun (l : Nat) => (seg l).filter (fun k => readReg v.r (some k) h.a m.ty.wide == readReg v.r (some l) h.a m.ty.wide)
    ∃ t, exec (.matchLanes h m) s = .next t ∧ FinishesLong s t v h ((v.active h).flatMap (fun l => matchOf m.opk.toNat h.d l (seg l) (same l))) 0 := by
  intro seg same
  obtain ⟨hej, hreg⟩ := hx
  have hwrites : ∀ ws, ws = (v.active h).flatMap (fun l => matchOf m.opk.toNat h.d l (seg l) (same l)) →
      FinishesLong s (finishLong s v h ws 0) v h ((v.active h).flatMap (fun l => matchOf m.opk.toNat h.d l (seg l) (same l))) 0 := by
    rintro _ rfl
    exact finishLong_finishes_group hv hej
  refine ⟨_, collective_next hv hej hreg, hwrites _ ?_⟩
  congr 1
  funext l
  generalize m.opk.toNat = opk
  match opk with
  | 0 | 2 => rfl
  | 1 => simp only [matchOf, List.headD_eq_head?_getD]; rfl
  | _ + 3 => exact congrArg (writeReg (some l) h.d false false) (if_congr (filter_length_iff ..) rfl rfl)

/-! ### REDUX and SCAN (R130) -/

/-- A group result is extended as R95 says. -/
theorem writeReg_group (d : BitVec 8) (wide signed : Bool) (x : Nat) : writeReg none d wide signed x =
    [.k d.toNat (if wide then BitVec.ofNat 64 x else if signed then (BitVec.ofNat 32 x).signExtend 64 else (BitVec.ofNat 32 x).zeroExtend 64)] := by
  simp only [writeReg, sext64_eq]
  rw [BitVec.zeroExtend, ← BitVec.ofNat_toNat, BitVec.toNat_ofNat]

theorem exec_redux_finishes (hv : view? s = some v) (hej : v.ej = false) (hreg : v.within false [(h.a, span m.ty.wide)] = true) :
    let x := combineAll m.ty m.opk.toNat ((v.active h).map (fun l => readReg v.r (some l) h.a m.ty.wide))
    ∃ t, exec (.redux h m) s = .next t ∧ FinishesLong s t v h [.k h.d.toNat (if m.ty.wide then BitVec.ofNat 64 x.1
      else if xSigned m.ty then (BitVec.ofNat 32 x.1).signExtend 64 else (BitVec.ofNat 32 x.1).zeroExtend 64)] x.2 := by
  intro x
  rw [← writeReg_group]
  exact ⟨_, collective_next hv hej hreg, finishLong_finishes_group hv hej⟩

theorem exec_scan_finishes (hv : view? s = some v) (hx : Exchanges v h m false (span m.ty.wide)) :
    let before := fun (l : Nat) => (v.active h).filter (fun k => k / 2 ^ m.seg.toNat == l / 2 ^ m.seg.toNat && (decide (k < l) || (m.inc && k == l)))
    let x := fun (l : Nat) => combineAll m.ty m.opk.toNat ((before l).map (fun k => readReg v.r (some k) h.a m.ty.wide))
    ∃ t, exec (.scan h m) s = .next t ∧ FinishesLong s t v h ((v.active h).flatMap (fun l => writeReg (some l) h.d m.ty.wide false (x l).1))
      (flagsAll ((v.active h).map (fun l => (x l).2))) := by
  intro before x
  obtain ⟨hej, hreg⟩ := hx
  refine ⟨_, collective_next hv hej hreg, ?_⟩
  simp only [List.flatMap_map, List.map_map]
  exact finishLong_finishes_group hv hej

end

theorem laneExchange : LaneExchange := by
  intro s v h m hv
  exact ⟨fun _ hx => exec_shfl_finishes hv hx, fun hok hx => exec_qxch_finishes hv hok hx, fun hok hx => exec_qbcast_finishes hv hok hx,
    fun _ hej => exec_vote_finishes hv hej, fun _ hx => exec_matchLanes_finishes hv hx⟩

theorem reductions : Reductions :=
  ⟨fun _ _ _ hf hopk hxs => combineAll_eq_combineSpec hf hopk hxs, fun _ _ _ _ hv => ⟨fun _ hej hreg => exec_redux_finishes hv hej hreg, fun _ hx => exec_scan_finishes hv hx⟩⟩

/-- Settles O10: the moves by their source lanes, the votes and matches by their lanes, the combinations as folds from the identity. -/
theorem exchangeAndReduce : Obligations.ExchangeAndReduce := ⟨laneExchange, reductions⟩

end Sys2Proof.Machine
end

section
/-! PROOF. SROUND (spec/03_formats.md R80, 04_arithmetic_instructions.md R123). -/

namespace Sys2Proof.Machine

open Sys2Proof Sys2Proof.Claims

/-! ### SROUND (R80, R123) -/

theorem sroundOk_fields {h : Hdr} (hok : sroundOk h = true) : h.u = false ∧ h.d = 0 ∧ h.b = 0 ∧ h.c = 0 := by
  simp only [sroundOk, Bool.and_eq_true, beq_iff_eq] at hok
  obtain ⟨⟨⟨hform, hd⟩, hb⟩, hc⟩ := hok
  refine ⟨?_, hd, hb, hc⟩
  by_contra hu
  simp [Hdr.ok, hu] at hform

theorem decodeWord_sround {w x : Word} {i : Instr} (hop : (rawOf w).op = 0x47) (hi : decodeWord w x = .ok i) : i = .sround (rawOf w).hdr ∧ (rawOf w).md = 0 := by
  obtain ⟨hfields, -⟩ := decodeWord_eq_ok hi
  rw [fieldsOf_conversion x (congrArg BitVec.toNat hop) rfl (by decide) (by decide)] at hfields
  change bare (rawOf w).md (.sround (rawOf w).hdr) = some i at hfields
  unfold bare at hfields
  split at hfields
  · next hmd => exact ⟨(Option.some.inj hfields).symm, by simpa using hmd⟩
  · cases hfields

/-- SROUND ends with the generator of each active lane seeded. -/
theorem exec_sround_finishes {s : State} {v : View} {h : Hdr} (hv : view? s = some v) (hu : h.u = false) (hc : Computes v h [(h.a, 1)] []) :
    ∃ t, exec (.sround h) s = .next t ∧ Finishes s t v (v.r.pc + 8) ((v.active h).map (fun l =>
      .gen l (if v.r.vget l h.a.toNat = 0 then 0x6A09E667 else v.r.vget l h.a.toNat))) 0 := by
  have hexec : exec (.sround h) s = .next (finish s v 8 ((v.active h).map (fun l => .gen l (genSeed (v.r.vget l h.a.toNat)))) 0) := by
    change execSround h s = _
    have hwithin : v.within false [(h.a, 1)] = true := hu ▸ hc.within
    simp only [execSround, computeBy, withView_of hv, View.places, hu, hwithin, Bool.and_false, Bool.not_true, Bool.false_eq_true, if_false, ne_eq,
      not_true_eq_false, List.flatMap_map, List.map_map, Function.comp_def, flagsAll_map_zero]
    rw [← List.map_eq_flatMap]
  have hgen : StepsGenerators ((v.active h).map (fun l => RegWrite.gen l (genSeed (v.r.vget l h.a.toNat)))) := by
    intro w hw
    obtain ⟨l, -, rfl⟩ := List.mem_map.1 hw
    exact ⟨_, _, rfl⟩
  refine ⟨_, hexec, finishAt_ends (view_some hv) ?slot ?numbers⟩
  case slot =>
    rw [List.flatMap_nil, List.append_nil, noSlot_congr v (xs := []) (laneRegs_of_stepsGenerators hgen)]
    exact noSlot_nil v
  case numbers =>
    rintro w hw k n y rfl
    obtain ⟨_, _, hw⟩ := hgen _ hw
    cases hw

/-- Settles O59: a legal word's fields, the word's decoding, and the seeded generators. -/
theorem stochasticSeed : Obligations.StochasticSeed := by
  refine ⟨fun h hok => (sroundOk_fields hok).2, fun w x i hop hi => decodeWord_sround hop hi, fun s v h hv hok hc => ?_⟩
  exact exec_sround_finishes hv (sroundOk_fields hok).1 hc

end Sys2Proof.Machine
end

section
/-! PROOF. The product of the integer class of MMA (spec/05_matrix.md R138). -/

namespace Sys2Proof.Machine

open Sys2Proof Sys2Proof.Claims

/-! ### A range cut into chunks -/

/-- The places of chunk `i` of `c` places that lie below `n` (R138). -/
def chunkPlaces (c n i : Nat) : List Nat := ((List.range c).map (fun j => c * i + j)).filter (fun k => decide (k < n))

theorem range_mul_eq_chunks (c m : Nat) : (List.range m).flatMap (fun i => (List.range c).map (fun j => c * i + j)) = List.range (c * m) := by
  induction m with
  | zero => simp
  | succ m ih => rw [List.range_succ, List.flatMap_append, ih, Nat.mul_succ, List.range_add]; simp

theorem filter_lt_range {n m : Nat} (h : n ≤ m) : (List.range m).filter (fun k => decide (k < n)) = List.range n := by
  obtain ⟨d, rfl⟩ := Nat.exists_eq_add_of_le h
  rw [List.range_add, List.filter_append, List.filter_eq_self.2 (by simp), List.filter_eq_nil_iff.2 (by simp), List.append_nil]

theorem le_mul_ceilDiv (n : Nat) {c : Nat} (hc : 0 < c) : n ≤ c * ceilDiv n c := by
  have hdiv := Nat.div_add_mod (n + c - 1) c
  have hmod := Nat.mod_lt (n + c - 1) hc
  unfold ceilDiv
  omega

/-- The chunks hold every place once, in order. -/
theorem flatMap_chunkPlaces (n : Nat) {c : Nat} (hc : 0 < c) : (List.range (ceilDiv n c)).flatMap (chunkPlaces c n) = List.range n := by
  rw [← filter_lt_range (le_mul_ceilDiv n hc), ← range_mul_eq_chunks, List.filter_flatMap]
  rfl

/-- A sum by chunks is the sum. -/
theorem sum_chunkPlaces (n : Nat) {c : Nat} (hc : 0 < c) (f : Nat → Int) :
    ((List.range (ceilDiv n c)).map (fun i => ((chunkPlaces c n i).map f).sum)).sum = ((List.range n).map f).sum := by
  rw [← flatMap_chunkPlaces n hc, List.map_flatMap, List.flatMap, List.sum_flatten, List.map_map]
  rfl

/-! ### Sums that wrap -/

theorem wrapTo_wrapTo_add (w : Nat) (x y : Int) : wrapTo w ((wrapTo w x : Int) + y) = wrapTo w (x + y) := by
  have hpos : (0 : Int) < ((2 ^ w : Nat) : Int) := by positivity
  unfold wrapTo
  rw [Int.toNat_of_nonneg (Int.emod_nonneg _ hpos.ne'), Int.emod_add_emod]

theorem wrapTo_of_lt {w n : Nat} (h : n < 2 ^ w) : wrapTo w (n : Int) = n := by
  rw [wrapTo, ← Int.natCast_emod, Int.toNat_natCast, Nat.mod_eq_of_lt h]

/-- An accumulator that wraps at each step wraps the exact sum. -/
theorem foldl_wrapTo (w : Nat) (f : Nat → Int) (l : List Nat) {acc : Nat} (h : acc < 2 ^ w) :
    l.foldl (fun (a : Nat × Flags) i => (wrapTo w ((a.1 : Int) + f i), 0)) (acc, 0) = (wrapTo w ((acc : Int) + (l.map f).sum), 0) := by
  suffices hwrapped : ∀ x : Int, l.foldl (fun (a : Nat × Flags) i => (wrapTo w ((a.1 : Int) + f i), 0)) (wrapTo w x, 0) = (wrapTo w (x + (l.map f).sum), 0) by
    simpa only [wrapTo_of_lt h] using hwrapped acc
  induction l with
  | nil => simp
  | cons i l ih =>
    intro x
    rw [List.foldl_cons, wrapTo_wrapTo_add, ih, List.map_cons, List.sum_cons, Int.add_assoc]

/-! ### The product -/

section

variable (bl : Block) (p : Packet) (c : MCmd) (m n : Nat)

/-- The product at place `k` of an element of an MMA of the integer class (R138). -/
def integerTerm (k : Nat) : Int :=
  tileInt (tileDescOf c.da).fmt (tileElem bl p (tileDescOf c.da) 0 m k) *
    tileInt (tileDescOf c.db).fmt (tileElem bl p (tileDescOf c.db) (if 128 ≤ n then 0x100000 else 0) (n % 128) k)

/-- Places of a chunk (R91, R93). -/
def chunkLen : Nat := if p.nbv == 1 then 16 else 32

theorem chunkLen_pos : 0 < chunkLen p := by unfold chunkLen; split <;> decide

theorem integerDot_eq : integerDot bl p c m n = ((List.range c.kd).map (integerTerm bl p c m n)).sum := rfl

/-- The integer class adds the products of a chunk to an accumulator that wraps, and raises no flag. -/
theorem mmaElem_integer (acc : Nat) (hfmt : (tileDescOf c.da).fmt = 4 ∨ (tileDescOf c.da).fmt = 5) :
    mmaElem bl p c acc m n = (List.range (ceilDiv c.kd (chunkLen p))).foldl (fun (a : Nat × Flags) i =>
      (wrapTo 32 ((a.1 : Int) + ((chunkPlaces (chunkLen p) c.kd i).map (integerTerm bl p c m n)).sum), 0)) (acc, 0) := by
  simp only [mmaElem, if_pos hfmt]
  rfl

end

/-- Settles O29: the accumulator wraps the sum of the chunks, which is the sum over all places. -/
theorem integerMatrixProduct : Obligations.IntegerMatrixProduct := by
  intro bl p c acc m n hfmt hacc
  rw [mmaElem_integer bl p c m n acc hfmt, foldl_wrapTo 32 _ _ hacc, sum_chunkPlaces _ (chunkLen_pos p), ← integerDot_eq, BitVec.toNat_ofInt]
  rfl

end Sys2Proof.Machine
end

section
/-! PROOF. The issue of matrix commands (spec/05_matrix.md R131, R134, R135, R140, R143, R153 to R155, R158). -/

namespace Sys2Proof.Machine

open Sys2Proof Sys2Proof.Claims

section

variable {s : State} {v : View} {h : Hdr}

/-- A group-wide instruction that the group executes runs. -/
theorem groupWide_of_runs (hrun : GroupRuns s v h) (size : Nat) (f : View → State) : groupWide s h size f = .next (f v) := by
  obtain ⟨hv, -, hej, hon⟩ := hrun
  simp [groupWide, withView_of hv, hej, hon]

/-! ### A command joins its stream (R131, R141) -/

/-- The state that has used a fresh name and changed the core and the group of an agent: what the issue of a matrix command leaves before the stream's head
is looked at. -/
def joined (s : State) (v : View) (f : Core → Core) (f' : Group → Group) : State := (s.newId.2.mapCore v.core f).mapGroup v.ag.blk v.ag.grp f'

theorem core_joined (f : Core → Core) (f' : Group → Group) : (joined s v f f').core v.core = f (s.core v.core) := by
  rw [joined, State.core, State.mapGroup_cores]
  exact State.core_mapCore s.newId.2 v.core f

theorem group_joined (f : Core → Core) (f' : Group → Group) : (joined s v f f').group? v.ag.blk v.ag.grp = (s.group? v.ag.blk v.ag.grp).map f' :=
  State.group_mapGroup ..

theorem mem_joined (f : Core → Core) (f' : Group → Group) : (joined s v f f').mem = s.mem := State.mapGroup_mem ..

/-- Of a group that is there, the group after a command has joined. -/
theorem group_joined_of {f : Core → Core} {f' : Group → Group} {x y : Group} (hx : s.group? v.ag.blk v.ag.grp = some x)
    (hy : (joined s v f f').group? v.ag.blk v.ag.grp = some y) : y = f' x := by
  rw [group_joined, hx] at hy
  exact (Option.some.inj hy).symm

variable {g : Group} {f : MCmd → MCmd} {k : MKind} {z : Nat} {x : MShape}

/-- With room in the queue the command stands at its end, in the group's open batch. -/
theorem acceptCmd_of_room (hroom : mtxCount s v.core < Config.matrixQueue) :
    acceptCmd s v g f k z x = skip (pumpMtx (joined s v (fun y => { y with mtx := y.mtx ++ [matrixCmd s v k z x f], ecsn := y.ecsn + 1 })
      (fun y => { y with guards := g.guards, openB := y.openB ++ [s.ids] })) v.core v.ag.blk v.ag.grp) v 8 := if_neg (Nat.not_le.2 hroom)

/-- What `acceptCmd` does is what the claims say of an accepted command. -/
theorem accepts_of_acceptCmd {i : Instr} (hexec : exec i s = .next (acceptCmd s v g f k z x)) (hid : ∀ c, (f c).id = c.id) :
    Accepts s v g i (matrixCmd s v k z x f) := by
  refine ⟨fun hfull => ?full, fun hroom => ?room⟩
  case full => exact hexec.trans (congrArg _ (if_pos hfull))
  case room =>
    refine ⟨_, hexec.trans (congrArg _ (acceptCmd_of_room hroom)), ?_, ?_, mem_joined .., fun y y' hy hy' => ?_⟩
    · rw [core_joined]
    · rw [core_joined]
    · have hname : (matrixCmd s v k z x f).id = s.ids := hid _
      rw [group_joined_of hy hy', hname]

/-! ### MMA (R134, R135, R140, R153) -/

/-- The shape and the tiles of an MMA are legal: the tiles hold what the class and FMT name (R134, R135). -/
def MmaLegal (s : State) (v : View) (h : Hdr) (m : MmaMod) (f : Nat × Nat) : Prop :=
  let x := mshapeOf (v.r.kget h.c.toNat)
  (m.pr = true → v.pkt.pair = true) ∧ x.ok (if m.pr then 256 else 128) = true ∧ x.k ≠ 0 ∧ tileIs (tileOf s v.core h.a.toNat) false f.1 = true ∧
    tileIs (tileOf s v.core h.b.toNat) true f.2 = true

/-- The Z region and the tiles of an MMA hold its shape, and no tile is another block's (R135, R140). -/
def MmaFits (s : State) (v : View) (h : Hdr) : Prop :=
  let x := mshapeOf (v.r.kget h.c.toNat)
  let ta := tileOf s v.core h.a.toNat
  let tb := tileOf s v.core h.b.toNat
  zFits v.pkt (v.r.kget h.d.toNat).toNat x = true ∧ x.m ≤ (tileDescOf ta.desc).rows ∧ x.k ≤ (tileDescOf ta.desc).cols ∧ x.half ≤ (tileDescOf tb.desc).rows ∧
    x.k ≤ (tileDescOf tb.desc).cols ∧ folFits v.pkt (tileDescOf tb.desc) (x.n - x.half) = true ∧ ta.foreign v.ag.blk = false ∧ tb.foreign v.ag.blk = false

/-- The operands of an MMA as its command names them: the tiles with the descriptions that they have now, and the guard slot (R131, R134). -/
def mmaOperands (s : State) (v : View) (h : Hdr) (m : MmaMod) (c : MCmd) : MCmd :=
  { c with pr := m.pr, ta := h.a.toNat, tb := h.b.toNat, da := (tileOf s v.core h.a.toNat).desc, db := (tileOf s v.core h.b.toNat).desc,
           guard := if m.g then some m.slot.toNat else none }

variable {op : Nat} {m : MmaMod}

/-- Where an MMA goes: the checks in their order, then the guard slot, then the stream. -/
theorem mma_eq (hrun : GroupRuns s v h) [Decidable (MmaLegal s v h m (mmaPair op m.fmt.toNat))] [Decidable (MmaFits s v h)] : mma op h m s = .next (
    if ¬ MmaLegal s v h m (mmaPair op m.fmt.toNat) then illegal s v
    else if (v.r.kget h.d.toNat).toNat % 4 ≠ 0 then takeTrap s v { cause := .align, lanes := v.mask, addr := v.r.kget h.d.toNat }
    else if ¬ MmaFits s v h then plainTrap s v .perm v.mask
    else match guardsAfter v.g m.g m.slot.toNat with
      | none => plainTrap s v .guard v.mask
      | some g1 => acceptCmd s v g1 (mmaOperands s v h m) (.mma m.zi (mmaPair op m.fmt.toNat).1 (mmaPair op m.fmt.toNat).2) (v.r.kget h.d.toNat).toNat
          (mshapeOf (v.r.kget h.c.toNat))) := by
  rw [mma, groupWide_of_runs hrun]
  congr 1
  refine if_congr ?_ rfl (if_congr ?_ rfl (if_congr ?_ rfl ?_))
  · exact iff_not_comm.1 (by simp [MmaLegal, and_assoc])
  · simp [alignedTo]
  · exact iff_not_comm.1 (by simp [MmaFits, and_assoc])
  · rfl

/-- The five classes are one instruction with a class number (R153). -/
theorem exec_mmaClass : ∀ e ∈ mmaClasses, ∀ (h : Hdr) (m : MmaMod) (s : State), exec (e.1 h m) s = mma e.2 h m s := by
  simp only [mmaClasses, List.forall_mem_cons]
  exact ⟨fun _ _ _ => rfl, fun _ _ _ => rfl, fun _ _ _ => rfl, fun _ _ _ => rfl, fun _ _ _ => rfl, by simp⟩

/-- An MMA that is not legal, is misaligned, does not fit or names a resolved guard slot traps, with the first cause that applies; any other joins the
stream. -/
theorem mma_issue {i : Instr} (hrun : GroupRuns s v h) (hexec : exec i s = mma op h m s) :
    let f := mmaPair op m.fmt.toNat
    let z := v.r.kget h.d.toNat
    let legal := MmaLegal s v h m f
    let fits := MmaFits s v h
    (¬ legal → exec i s = .next (takeTrap s v { cause := .ill, lanes := v.mask })) ∧
    (legal → z.toNat % 4 ≠ 0 → exec i s = .next (takeTrap s v { cause := .align, lanes := v.mask, addr := z })) ∧
    (legal → z.toNat % 4 = 0 → ¬ fits → exec i s = .next (takeTrap s v { cause := .perm, lanes := v.mask })) ∧
    (legal → z.toNat % 4 = 0 → fits → guardsAfter v.g m.g m.slot.toNat = none → exec i s = .next (takeTrap s v { cause := .guard, lanes := v.mask })) ∧
    (∀ g1, legal → z.toNat % 4 = 0 → fits → guardsAfter v.g m.g m.slot.toNat = some g1 →
      Accepts s v g1 i (matrixCmd s v (.mma m.zi f.1 f.2) z.toNat (mshapeOf (v.r.kget h.c.toNat)) (mmaOperands s v h m))) := by
  classical
  have hmma := hexec.trans (mma_eq hrun)
  refine ⟨fun hill => ?illegal, fun hok hal => ?misaligned, fun hok hal hperm => ?outside, fun hok hal hfit hguard => ?resolved, fun g1 hok hal hfit hguard => ?accepted⟩
  case illegal => rwa [if_pos hill] at hmma
  case misaligned => rwa [if_neg (not_not_intro hok), if_pos hal] at hmma
  case outside => rwa [if_neg (not_not_intro hok), if_neg (not_not_intro hal), if_pos hperm] at hmma
  case resolved => rwa [if_neg (not_not_intro hok), if_neg (not_not_intro hal), if_neg (not_not_intro hfit), hguard] at hmma
  case accepted =>
    rw [if_neg (not_not_intro hok), if_neg (not_not_intro hal), if_neg (not_not_intro hfit), hguard] at hmma
    exact accepts_of_acceptCmd hmma fun _ => rfl

theorem matrixMultiplyIssue : MatrixMultiplyIssue :=
  fun e he _ _ h m hrun => mma_issue hrun (exec_mmaClass e he h m _)

/-! ### MZERO, MQNT and MRDY (R143, R154, R155, R158) -/

theorem exec_mzero (hrun : GroupRuns s v h) (hshape : (mshapeOf (v.r.kget h.c.toNat)).ok (if v.pkt.pair then 256 else 128) = true)
    (hal : (v.r.kget h.d.toNat).toNat % 4 = 0) (hfit : zFits v.pkt (v.r.kget h.d.toNat).toNat (mshapeOf (v.r.kget h.c.toNat)) = true) :
    exec (.mzero h) s = .next (acceptCmd s v v.g id .mzero (v.r.kget h.d.toNat).toNat (mshapeOf (v.r.kget h.c.toNat))) := by
  change execMzero h s = _
  rw [execMzero, groupWide_of_runs hrun]
  simp [hshape, alignedTo, hal, hfit]

/-- The rounding fields of an MQNT's shape word are its bits 34 to 32 (R158). -/
theorem rounding_of_zero {w : Word} (hw : w.toNat / 2 ^ 32 % 8 = 0) : bitsOf w.toNat 33 32 = 0 ∧ w.getLsbD 34 = false := by
  constructor
  · show w.toNat / 2 ^ 32 % 4 = 0
    omega
  · rw [BitVec.getLsbD, Nat.testBit_eq_decide_div_mod_eq, decide_eq_false_iff_not]
    omega

/-- MQNT joins the stream with its destination tile as it is described now, where its shape, its rounding fields and its tile are legal and its source
and tile hold the shape. -/
theorem exec_mqnt {df : Fmt} (hrun : GroupRuns s v h) :
    let w := v.r.kget h.c.toNat
    let x : MShape := { mshapeOf w with k := 0 }
    let z := v.r.kget h.a.toNat
    let tile := tileOf s v.core h.d.toNat
    let d := tileDescOf tile.desc
    x.ok 128 = true → w.toNat / 2 ^ 35 % 2 ^ 13 = 0 → (df ≠ .n4 → w.toNat / 2 ^ 32 % 8 = 0) → tile.st ≠ .empty → d.fmt = mqntFmt df → z.toNat % 4 = 0 →
    (sideOf v.pkt .zbuf z.toNat (zExtent x.m x.half x.pitch)).isSome = true → x.m ≤ d.rows → 32 * ceilDiv x.n 32 ≤ d.cols → tile.foreign v.ag.blk = false →
    exec (.mqnt h df) s = .next (acceptCmd s v v.g (fun c => { c with tb := h.d.toNat, db := tile.desc }) (.mqnt df (w.toNat / 2 ^ 32 % 4) (w.getLsbD 34)) z.toNat x) := by
  intro w x z tile d hshape hrsv hround htile hfmt hal hside hrows hcols hown
  change execMqnt h df s = _
  rw [execMqnt, groupWide_of_runs hrun]
  have hrounding : (df != .n4 && (bitsOf w.toNat 33 32 != 0 || w.getLsbD 34)) = false := by
    by_cases hdf : df = .n4
    · simp [hdf]
    · rw [(rounding_of_zero (hround hdf)).1, (rounding_of_zero (hround hdf)).2]; simp
  have hlegal : ¬ (!x.ok 128 || bitsOf w.toNat 47 35 != 0 || (df != .n4 && (bitsOf w.toNat 33 32 != 0 || w.getLsbD 34)) || tile.st = .empty || d.fmt ≠ mqntFmt df) = true := by
    rw [hrounding, hshape, show bitsOf w.toNat 47 35 = 0 from hrsv]; simp [htile, hfmt]
  have haligned : ¬ (!alignedTo z 4) = true := by simp [alignedTo, hal]
  have hfits : ¬ ((sideOf v.pkt .zbuf z.toNat (zExtent x.m x.half x.pitch)).isNone || decide (d.rows < x.m) || decide (d.cols < 32 * ceilDiv x.n 32) ||
      tile.foreign v.ag.blk) = true := by
    simp [hown, Option.isSome_iff_ne_none.1 hside, Nat.not_lt.2 hrows, Nat.not_lt.2 hcols]
  exact congrArg Host.Outcome.next ((if_neg hlegal).trans ((if_neg haligned).trans (if_neg hfits)))

/-- MRDY's marker joins the stream and no batch (R143, R155). -/
theorem exec_mrdy (hrun : GroupRuns s v h) :
    exec (.mrdy h) s = .next (skip (pumpMtx (joined s v (fun y => { y with mtx := y.mtx ++ [matrixCmd s v .mrdy 0 { m := 0, n := 0, k := 0, zp := 0 } id] })
      (fun y => { y with mseg := y.mseg + 1 })) v.core v.ag.blk v.ag.grp) v 8) :=
  groupWide_of_runs hrun 8 _

theorem matrixOtherCommands : MatrixOtherCommands := by
  intro s v h df hrun
  refine ⟨fun hshape hal hfit => accepts_of_acceptCmd (exec_mzero hrun hshape hal hfit) fun _ => rfl, ?mqnt, _, exec_mrdy hrun, mem_joined .., ?marker,
    fun x y hx hy => group_joined_of hx hy⟩
  case mqnt =>
    intro w x z tile d hshape hrsv hround htile hfmt hal hside hrows hcols hown
    exact accepts_of_acceptCmd (f := fun c => { c with tb := h.d.toNat, db := tile.desc })
      (exec_mqnt hrun hshape hrsv hround htile (hfmt.trans (by cases df <;> rfl)) hal hside hrows hcols hown) fun _ => rfl
  case marker => rw [core_joined]

end

/-- Settles O27: the checks of an MMA in their order, and one law for every command that joins the stream. -/
theorem matrixIssue : Obligations.MatrixIssue := ⟨matrixMultiplyIssue, matrixOtherCommands⟩

end Sys2Proof.Machine
end

section
/-! PROOF. Where MWAIT waits for the windows of its group before it reports a failed batch (spec/05_matrix.md R150, 02_encoding.md R38, R39). -/

namespace Sys2Proof.Machine

open Sys2Proof Sys2Proof.Claims

/-- MWAIT that has a failure to report waits for the answers that the group's windows await (R38, R150). -/
theorem exec_mwait_of_awaiting {s : State} {v : View} {h : Hdr} {f : BatchFail} (hrun : GroupRuns s v h) :
    let n := (v.r.kget h.a.toNat).toNat % 65536
    let d := (v.g.bctr + 65536 - n) % 65536
    d ≠ 0 → d ≤ 32768 → v.g.closed.any (fun b => b.num == n) = false → batchFailDue v.g d = some f → v.r.awaiting = true →
    exec (.mwait h) s = .next (stallWindows s v) := by
  intro n d hzero hfar hclosed hdue hwin
  change execMwait h s = _
  rw [execMwait, groupWide_of_runs hrun]
  have hnumber : ¬ (d = 0 ∨ 32768 < d) := by omega
  have hretired : ¬ (v.g.closed.any (fun b => b.num == n) && decide (d ≤ 16)) = true := by simp [hclosed]
  refine congrArg Host.Outcome.next ((if_neg hnumber).trans ((if_neg hretired).trans ?_))
  rw [hdue]
  exact if_pos hwin

/-! ### A group whose window awaits a load -/

/-- The group of the counterexample. -/
def lateAgent : AgentRef := { blk := 0, grp := 0, lane := none }

/-- A load of the group that is performed later than it issued, number 7 (R165). -/
def lateLoad : Late :=
  { id := 7, ag := lateAgent, lanes := [64], path := 1, dom := .rel, enc := .rel, sc := .dev, acq := false, unit := none, parts := [], dest := [], after := [], wb := [] }

/-- The load's window is open, and the group's batch 0, the latest that it closed, has failed. -/
def lateGroup : Group :=
  { Group.start Packet.blank 0 0 0 with
    bctr := 1, bfails := [{ num := some 0, z := 0, ecsn := 0, age := 1 }]
    r := { Regs.fresh with pend := [{ left := 0, pc := 0, iword := 0, ecsn := 0, writes := [], await := [7], fails := [], acq := none }] } }

/-- Its block. -/
def lateBlock : Block := { Block.fresh 0 0 0 0 0 with res := .resident, started := true, groups := [(0, lateGroup)] }

/-- The group executes; no remote request is open. -/
def lateState : State := { State.reset with cur := some lateAgent, blocks := [(0, lateBlock)], late := [lateLoad] }

/-- The group's view. -/
def lateView : View := { ag := lateAgent, bl := lateBlock, g := lateGroup, th := none, r := lateGroup.r, mask := 0, pkt := Packet.blank }

theorem lateView_runs : GroupRuns lateState lateView (groupHdr 0 0 0 0) := ⟨rfl, rfl, rfl, rfl⟩

/-- What the executing group waits for. -/
def waitsFor (s : State) : Option (List Nat) := (s.group? 0 0).map (fun g => g.want)

/-- MWAIT in that state waits for the load. -/
theorem exec_mwait_lateState : exec (.mwait (groupHdr 0 0 0 0)) lateState = .next (stallWindows lateState lateView) :=
  exec_mwait_of_awaiting lateView_runs (by decide) (by decide) rfl rfl rfl

theorem waitsFor_windows : waitsFor (stallWindows lateState lateView) = some [7] := rfl

theorem waitsFor_remote : waitsFor (stall lateState lateView .remote) = some [] := rfl

/-- Refutes O28, in the part of `MatrixBatches` on an MWAIT with a failure due while a window awaits an answer: the statement has the group wait for its open remote requests, `stall s v .remote`;
the model's MWAIT waits for what its windows await, `stallWindows s v`. With a load that is performed later (R165) in the window and no remote request open the
group waits for that load, and by the statement it would wait for nothing. -/
theorem not_matrixCompletion : ¬ Obligations.MatrixCompletion := by
  rintro ⟨⟨hinstr, -⟩, -⟩
  obtain ⟨-, -, -, -, hdue⟩ := hinstr lateState lateView (groupHdr 0 0 0 0) lateView_runs
  obtain ⟨hawait, -⟩ := hdue (by decide) (by decide) (Or.inl rfl)
  have hstall := hawait { num := some 0, z := 0, ecsn := 0, age := 1 } rfl rfl
  have hsame : stallWindows lateState lateView = stall lateState lateView .remote := Host.Outcome.next.inj (exec_mwait_lateState.symm.trans hstall)
  have hwant := congrArg waitsFor hsame
  rw [waitsFor_windows, waitsFor_remote] at hwant
  exact absurd hwant (by decide)

end Sys2Proof.Machine
end

section
/-! PROOF. Errors: what is lost, what goes on, what is counted and recorded (spec/14_recovery.md R379 to R383, 05_matrix.md R148, 11_divergence.md R319,
08_memory_instructions.md R237). -/

namespace Sys2Proof.Machine

open Sys2Proof Sys2Proof.Claims

/-! ### Tables and byte maps by key -/

/-- A selection by key keeps what it selects, and the rest reads 0. -/
theorem sget_filter_key {w : Nat} (p : Nat → Bool) (m : Sparse w) (k : Nat) : sget (m.filter (fun e => p e.1)) k = if p k then sget m k else 0 := by
  induction m with
  | nil => simp [sget]
  | cons e m ih =>
    obtain ⟨j, y⟩ := e
    rw [List.filter_cons]
    by_cases hjk : j = k
    · subst hjk
      by_cases hp : p j = true
      · simp [hp, sget]
      · simpa [hp, sget] using ih
    · by_cases hp : p j = true
      · simpa [hp, sget, hjk] using ih
      · simpa [hp, sget, hjk] using ih

/-- A function of key and record applied to every record. -/
theorem tget_map_key {α : Type} (f : Nat → α → α) (m : Table α) (k : Nat) : tget (m.map (fun e => (e.1, f e.1 e.2))) k = (tget m k).map (f k) := by
  induction m with
  | nil => rfl
  | cons e m ih =>
    obtain ⟨j, y⟩ := e
    by_cases hjk : j = k
    · subst hjk; simp [tget]
    · simpa [tget, hjk] using ih

theorem tget_tmap {α : Type} (f : α → α) (m : Table α) (k : Nat) : tget (tmap f m) k = (tget m k).map f := tget_map_key (fun _ => f) m k

/-- A granule that is lost reads 0. -/
theorem sget_loseBytes (m : Sparse 8) (gr off : Nat) : sget (loseBytes m gr) off = if off / 65536 = gr then 0 else sget m off := by
  have hfilter := sget_filter_key (fun k => decide (k < gr * 65536) || decide (gr * 65536 + 65536 ≤ k)) m off
  by_cases hgr : off / 65536 = gr
  · rw [if_pos hgr]
    exact hfilter.trans (if_neg (by simp; omega))
  · rw [if_neg hgr]
    exact hfilter.trans (if_pos (by simp; omega))

/-! ### The event -/

theorem exec_uncorrectableError (s : State) (site : ErrorSite) : exec (.uncorrectableError site) s = .next ((errorAt s site).getD s) := by
  change happen s (uncorrectableErrorEvent site s) = _
  rw [happen, uncorrectableErrorEvent]
  cases errorAt s site <;> rfl

/-! ### Block transfers (R237, R379) -/

theorem btQueueOf_setBtQueue (s : State) (core : Nat) (store : Bool) (q : List BtCmd) : btQueueOf (setBtQueue s core store q) core store = q := by
  cases store <;> simp [btQueueOf, setBtQueue]

theorem btQueueOf_setBtQueue_other (s : State) (core : Nat) (store : Bool) (q : List BtCmd) :
    btQueueOf (setBtQueue s core store q) core (!store) = btQueueOf s core (!store) := by
  cases store <;> simp [btQueueOf, setBtQueue]

theorem restartBtg_where (c x : BtCmd) :
    (if x.id = c.id then restartBtg x else x) = if x.id = c.id ∧ x.btg = true then { x with row := 0, plain := none } else x := by
  by_cases hid : x.id = c.id <;> simp [hid, restartBtg]

/-- A transfer goes on at its row, a BTG from row 0. -/
theorem uncorrectableError_bte (s : State) (core : Nat) (store : Bool) (i : Nat) :
    ((btQueueOf s core store)[i]? = none → exec (.uncorrectableError (.bte core store i)) s = .next s) ∧
    ∀ c, (btQueueOf s core store)[i]? = some c → ∃ t, exec (.uncorrectableError (.bte core store i)) s = .next t ∧ { t with cores := s.cores } = s ∧
      btQueueOf t core store = (btQueueOf s core store).map (fun x => if x.id = c.id ∧ x.btg = true then { x with row := 0, plain := none } else x) ∧
      btQueueOf t core (!store) = btQueueOf s core (!store) := by
  rw [exec_uncorrectableError, errorAt]
  refine ⟨fun hnone => by rw [hnone]; rfl, fun c hc => ⟨mapBt s core store c.id restartBtg, by rw [hc]; rfl, rfl, ?restarted, btQueueOf_setBtQueue_other ..⟩⟩
  case restarted =>
    rw [mapBt, btQueueOf_setBtQueue]
    simp only [restartBtg_where]

/-! ### Caches (R379) -/

@[simp] theorem cacheOf_setCache (s : State) (c : CacheRef) (m : Table CSector) : cacheOf (setCache s c m) c = m := by
  cases c <;> simp [cacheOf, setCache]

theorem cacheOf_setCache_ne (s : State) {c q : CacheRef} (m : Table CSector) (h : q ≠ c) : cacheOf (setCache s c m) q = cacheOf s q := by
  cases c <;> cases q
  case l1.l1 i j => exact congrArg Core.l1 (State.core_mapCore_ne s _ fun hij => h (congrArg CacheRef.l1 hij))
  case l1.cc i j => rfl
  case cc.l1 i j => rfl
  case cc.cc i j => simp [cacheOf, setCache, State.cc, tget_tset_ne _ _ fun hij => h (congrArg CacheRef.cc hij)]

theorem setCache_mem (s : State) (c : CacheRef) (m : Table CSector) : (setCache s c m).mem = s.mem := by cases c <;> rfl

theorem setCache_blocks (s : State) (c : CacheRef) (m : Table CSector) : (setCache s c m).blocks = s.blocks := by cases c <;> rfl

theorem not_droppable (line : Nat) (x : CSector) : (!droppable line x) = decide (¬ (x.sec / 4 = line ∧ x.mode = .siv ∧ x.dirty = 0)) := by
  rw [Bool.eq_iff_iff]
  simp [droppable]
  tauto

/-- A cache drops the clean SIV sectors of the line. -/
theorem uncorrectableError_cleanLine (s : State) (c : CacheRef) (line : Nat) :
    ∃ t, exec (.uncorrectableError (.cleanLine c line)) s = .next t ∧ t.mem = s.mem ∧ t.blocks = s.blocks ∧
      cacheOf t c = (cacheOf s c).filter (fun e => decide (¬ (e.2.sec / 4 = line ∧ e.2.mode = .siv ∧ e.2.dirty = 0))) ∧ ∀ q, q ≠ c → cacheOf t q = cacheOf s q := by
  refine ⟨_, exec_uncorrectableError s _, setCache_mem .., setCache_blocks .., ?dropped, fun q hq => cacheOf_setCache_ne s _ hq⟩
  case dropped =>
    refine (cacheOf_setCache ..).trans ?_
    simp only [not_droppable]

/-! ### Matrix commands (R148) -/

theorem failCmd_failed (s : State) (c : MCmd) : (failCmd s c).failed = true := by unfold failCmd; split <;> rfl

theorem failCmd_id (s : State) (c : MCmd) : (failCmd s c).id = c.id := by unfold failCmd; split <;> rfl

/-- Any command but an MQNT fails with nothing else changed. -/
theorem failCmd_eq (s : State) {c : MCmd} (h : ∀ df u auto, c.kind ≠ .mqnt df u auto) : failCmd s c = { c with failed := true } := by
  unfold failCmd
  split
  · next hk _ _ => exact absurd hk (h _ _ _)
  · rfl

/-- A started command fails; there is nothing to strike in any other. -/
theorem uncorrectableError_matrix (s : State) (core i : Nat) :
    (∀ c, (s.core core).mtx[i]? = some c → c.started = true → ∃ t, exec (.uncorrectableError (.matrix core i)) s = .next t ∧ { t with cores := s.cores } = s ∧
      (t.core core).mtx = (s.core core).mtx.map (fun x => if x.id = c.id then failCmd s c else x) ∧ (failCmd s c).failed = true ∧ (failCmd s c).id = c.id ∧
      ((∀ df u auto, c.kind ≠ .mqnt df u auto) → failCmd s c = { c with failed := true })) ∧
    (((s.core core).mtx[i]? = none ∨ ∃ c, (s.core core).mtx[i]? = some c ∧ c.started = false) → exec (.uncorrectableError (.matrix core i)) s = .next s) := by
  rw [exec_uncorrectableError, errorAt]
  refine ⟨fun c hc hst => ?started, ?other⟩
  case started =>
    refine ⟨s.mapCore core (fun k => { k with mtx := k.mtx.map (fun x => if x.id = c.id then failCmd s c else x) }), ?_, rfl, ?_, failCmd_failed s c, failCmd_id s c, failCmd_eq s⟩
    · rw [hc]; simp [hst]
    · rw [State.core_mapCore]
  case other =>
    rintro (hnone | ⟨c, hc, hst⟩)
    · rw [hnone]; rfl
    · rw [hc]; simp [hst]

/-! ### Mirror comparisons (R319) -/

/-- The next checked instruction of lanes under MIRROR fails; without MIRROR there is nothing to strike. -/
theorem uncorrectableError_mirror {s : State} {b g : Nat} (lanes : Mask) {bl : Block} {x : Group} (hb : tget s.blocks b = some bl) (hx : s.group? b g = some x) :
    ((packetOf s bl).flags.getLsbD 3 = true → x.run ≠ .retired → lanes ≠ 0 →
      exec (.uncorrectableError (.mirror b g lanes)) s = .next (s.mapGroup b g (fun y => { y with strike := y.strike ||| lanes }))) ∧
    ((packetOf s bl).flags.getLsbD 3 = false → exec (.uncorrectableError (.mirror b g lanes)) s = .next s) := by
  rw [exec_uncorrectableError, errorAt, hb, hx]
  constructor
  · intro hm hrun hlanes
    have hstruck : ((packetOf s bl).mirror && x.run != .retired && lanes != 0) = true := by
      rw [Packet.mirror, hm, bne_iff_ne.2 hrun, bne_iff_ne.2 hlanes]; rfl
    exact congrArg (fun o => Host.Outcome.next (Option.getD o s)) (if_pos hstruck)
  · intro hm
    have hspared : ¬ ((packetOf s bl).mirror && x.run != .retired && lanes != 0) = true := by
      rw [Packet.mirror, hm]; simp
    exact congrArg (fun o => Host.Outcome.next (Option.getD o s)) (if_neg hspared)

/-! ### State that is lost (R379, R380) -/

section

variable {s : State} {b : Nat} {bl : Block} {g : Grid}

/-- The effect of the loss of a site on the state, before SOFT is raised. -/
def lossOf (site : ErrorSite) (p : Packet) (s : State) : State :=
  match site with
  | .regGranule b gr => s.mapBlock b (fun bl => loseRegs p bl gr)
  | .kregs b n => s.mapGroup b n (fun x => { x with r := { x.r with k := [] } })
  | .stack b n => loseStack s b n
  | .lspace b gr => s.mapBlock b (fun bl => { bl with loc := loseBytes bl.loc gr })
  | .abuf b gr => s.mapBlock b (fun bl => { bl with abuf := loseBytes bl.abuf gr })
  | .wbuf b gr => s.mapBlock b (fun bl => loseWbuf p bl gr)
  | .bte .. | .cleanLine .. | .matrix .. | .mirror .. => s

/-- Where a block's state is lost, the block is replayed or the loss stands. -/
theorem errorAt_of_lost {site : ErrorSite} (hsite : lostBlock site = some b) (s : State) : errorAt s site = loseState s b (lossOf site) := by
  cases site <;> cases hsite <;> rfl

/-- The block's cluster is replayed under REPL, up to three times. -/
theorem loseState_of_replay (hb : tget s.blocks b = some bl) (hg : tget s.grids bl.grid = some g) (hrepl : g.pkt.repl = true) (hfew : bl.replays < 3)
    (f : Packet → State → State) : loseState s b f = some (replayCluster s bl g) := by
  simp [loseState, hb, hg, hrepl, Config.replayLimit, hfew]

/-- Otherwise the loss stands, and SOFT is raised with its code. -/
theorem loseState_of_soft (hb : tget s.blocks b = some bl) (hg : tget s.grids bl.grid = some g) (hno : g.pkt.repl = false ∨ 3 ≤ bl.replays)
    (f : Packet → State → State) : loseState s b f = some (softBlock (f g.pkt s) b (if g.pkt.repl = true then 4 else 2)) := by
  have hspent : ¬ (g.pkt.repl && decide (bl.replays < Config.replayLimit)) = true := by
    rcases hno with hrepl | hmany
    · simp [hrepl]
    · simp [Config.replayLimit, Nat.not_lt.2 hmany]
  simp only [loseState, hb, hg]
  exact if_neg hspent

/-- A block or grid that is not there loses nothing. -/
theorem loseState_cases (s : State) (b : Nat) (f : Packet → State → State) :
    loseState s b f = none ∨ ∃ bl g, tget s.blocks b = some bl ∧ tget s.grids bl.grid = some g := by
  cases hb : tget s.blocks b with
  | none => exact .inl (by simp [loseState, hb])
  | some bl =>
    cases hg : tget s.grids bl.grid with
    | none => exact .inl (by simp [loseState, hb, hg])
    | some g => exact .inr ⟨bl, g, rfl, hg⟩

/-! ### SOFT in the groups of a block (R365, R379) -/

/-- A group of a block under SOFT. -/
def softGroup (s : State) (bl : Block) (code : Nat) (x : Group) : Group := if x.run = .retired then x else { x with async := x.async ++ [softTrap s bl code x] }

theorem softBlock_mem (s : State) (b code : Nat) : (softBlock s b code).mem = s.mem := State.mapBlock_mem ..

theorem block_softBlock (hb : tget s.blocks b = some bl) (code : Nat) :
    tget (softBlock s b code).blocks b = some { bl with groups := tmap (softGroup s bl code) bl.groups } := by
  rw [softBlock, State.mapBlock, hb]
  exact tget_tset_same ..

theorem group_softBlock (hb : tget s.blocks b = some bl) (code n : Nat) : (softBlock s b code).group? b n = (s.group? b n).map (softGroup s bl code) := by
  rw [State.group?, State.group?, block_softBlock hb, hb]
  exact tget_tmap ..

theorem softGroup_keeps (s : State) (bl : Block) (code : Nat) (x : Group) :
    (softGroup s bl code x).r = x.r ∧ (softGroup s bl code x).stack = x.stack ∧ (softGroup s bl code x).threads = x.threads := by
  unfold softGroup; split <;> exact ⟨rfl, rfl, rfl⟩

/-- A group that has not ended holds a SOFT trap of the code at its PC. -/
theorem softGroup_async (s : State) (bl : Block) (code : Nat) {x : Group} (hrun : x.run ≠ .retired) :
    ∃ t, (softGroup s bl code x).async = x.async ++ [t] ∧ t.cause = .soft ∧ t.code = code ∧ t.pc = x.r.pc := by
  rw [softGroup, if_neg hrun]
  exact ⟨softTrap s bl code x, rfl, rfl, rfl, rfl⟩

/-! ### What the sites of a block lose (R379) -/

/-- The sites whose loss leaves every group's path as it is. -/
def storageSites (b gr : Nat) : List ErrorSite := [.lspace b gr, .abuf b gr, .wbuf b gr, .regGranule b gr, .kregs b gr]

/-- Group `n` of a block that has lost a register granule. -/
def loseRegsOf (p : Packet) (gr n : Nat) (x : Group) : Group := { x with r := { x.r with v := x.r.v.filter (fun e => !regInGranule p.regs n e.1 gr) } }

/-- A group that has lost its group registers. -/
def loseKregs (x : Group) : Group := { x with r := { x.r with k := [] } }

/-- Group `n` of a block that has lost a storage site. -/
def lostGroup (site : ErrorSite) (p : Packet) (n : Nat) (x : Group) : Group :=
  match site with
  | .regGranule _ gr => loseRegsOf p gr n x
  | .kregs _ gr => if n = gr then loseKregs x else x
  | _ => x

theorem loseRegs_groups (p : Packet) (bl : Block) (gr n : Nat) : tget (loseRegs p bl gr).groups n = (tget bl.groups n).map (loseRegsOf p gr n) :=
  tget_map_key (loseRegsOf p gr) bl.groups n

theorem loseWbuf_keeps (p : Packet) (bl : Block) (gr : Nat) :
    (loseWbuf p bl gr).loc = bl.loc ∧ (loseWbuf p bl gr).abuf = bl.abuf ∧ (loseWbuf p bl gr).groups = bl.groups := by
  simp only [loseWbuf]
  split <;> exact ⟨rfl, rfl, rfl⟩

theorem block_mapBlock (hb : tget s.blocks b = some bl) (f : Block → Block) : tget (s.mapBlock b f).blocks b = some (f bl) := by
  simp [State.mapBlock, hb]

/-- A function applied to a group changes the groups of its block alone. -/
theorem block_mapGroup (hb : tget s.blocks b = some bl) (n : Nat) (f : Group → Group) :
    ∃ y, tget (s.mapGroup b n f).blocks b = some y ∧ y.loc = bl.loc ∧ y.abuf = bl.abuf ∧
      ∀ m x, tget bl.groups m = some x → tget y.groups m = some (if m = n then f x else x) := by
  cases hn : tget bl.groups n with
  | none =>
    have hsame : s.mapGroup b n f = s := by simp [State.mapGroup, State.group?, hb, hn]
    refine ⟨bl, by rw [hsame, hb], rfl, rfl, fun m x hx => ?_⟩
    rw [if_neg (fun hmn => by rw [hmn, hn] at hx; cases hx), hx]
  | some z =>
    refine ⟨{ bl with groups := tset bl.groups n (f z) }, by rw [State.mapGroup_of hb hn]; exact tget_tset_same .., rfl, rfl, fun m x hx => ?_⟩
    rw [tget_tset]
    split
    · next hmn => rw [hmn, hn] at hx; rw [Option.some.inj hx]
    · exact hx

/-- The loss of a storage site changes the block that it names: one granule of bytes, or registers of its groups. -/
theorem lossOf_storage {gr : Nat} {site : ErrorSite} (hsite : site ∈ storageSites b gr) (p : Packet) (hb : tget s.blocks b = some bl) :
    ∃ y, tget (lossOf site p s).blocks b = some y ∧ (lossOf site p s).mem = s.mem ∧
      (∀ off, sget y.loc off = if site = .lspace b gr ∧ off / 65536 = gr then 0 else sget bl.loc off) ∧
      (∀ off, sget y.abuf off = if site = .abuf b gr ∧ off / 65536 = gr then 0 else sget bl.abuf off) ∧
      ∀ n x, tget bl.groups n = some x → tget y.groups n = some (lostGroup site p n x) := by
  simp only [storageSites, List.mem_cons, List.not_mem_nil, or_false] at hsite
  obtain rfl | rfl | rfl | rfl | rfl := hsite
  · exact ⟨_, block_mapBlock hb _, State.mapBlock_mem .., by simp [sget_loseBytes], by simp, fun _ _ hx => hx⟩
  · exact ⟨_, block_mapBlock hb _, State.mapBlock_mem .., by simp, by simp [sget_loseBytes], fun _ _ hx => hx⟩
  · obtain ⟨hloc, habuf, hgroups⟩ := loseWbuf_keeps p bl gr
    exact ⟨_, block_mapBlock hb _, State.mapBlock_mem .., by simp [hloc], by simp [habuf], fun _ _ hx => by rw [hgroups, hx]; rfl⟩
  · exact ⟨_, block_mapBlock hb _, State.mapBlock_mem .., by simp [loseRegs], by simp [loseRegs], fun n _ hx => by rw [loseRegs_groups, hx]; rfl⟩
  · obtain ⟨y, hy, hloc, habuf, hgroups⟩ := block_mapGroup hb gr loseKregs
    exact ⟨y, hy, State.mapGroup_mem .., by simp [hloc], by simp [habuf], hgroups⟩

/-- What a group's registers read after the loss: 0 where they are lost, and as before elsewhere. -/
theorem lostGroup_reads {gr : Nat} {site : ErrorSite} (hsite : site ∈ storageSites b gr) (p : Packet) (n : Nat) (x : Group) :
    let z := lostGroup site p n x
    (site ≠ .regGranule b gr → z.r.v = x.r.v) ∧ (site = .kregs b gr → n = gr → ∀ i, z.r.kget i = 0) ∧ (site ≠ .kregs b gr ∨ n ≠ gr → z.r.k = x.r.k) ∧
      (site = .regGranule b gr → ∀ l i, z.r.vget l i = if regInGranule p.regs n (256 * l + i) gr then 0 else x.r.vget l i) ∧
      z.r.pc = x.r.pc ∧ z.run = x.run ∧ z.async = x.async := by
  simp only [storageSites, List.mem_cons, List.not_mem_nil, or_false] at hsite
  obtain rfl | rfl | rfl | rfl | rfl := hsite
  · simp [lostGroup]
  · simp [lostGroup]
  · simp [lostGroup]
  · have hv : ∀ l i, (loseRegsOf p gr n x).r.vget l i = if regInGranule p.regs n (256 * l + i) gr then 0 else x.r.vget l i := by
      intro l i
      refine (sget_filter_key (fun k => !regInGranule p.regs n k gr) x.r.v (256 * l + i)).trans ?_
      cases regInGranule p.regs n (256 * l + i) gr <;> rfl
    exact ⟨fun h => absurd rfl h, fun h => (nomatch h), fun _ => rfl, fun _ => hv, rfl, rfl, rfl⟩
  · by_cases hn : n = gr
    · simp [lostGroup, hn, loseKregs, Regs.kget, sget]
    · simp [lostGroup, hn]

/-- A storage site's loss that stands: its bytes or registers read 0, all else is as before, and every group that has not ended holds a SOFT trap. -/
theorem uncorrectableError_storage {gr : Nat} (hb : tget s.blocks b = some bl) (hg : tget s.grids bl.grid = some g) (hno : g.pkt.repl = false ∨ 3 ≤ bl.replays) :
    ∀ site ∈ storageSites b gr, ∃ t y, exec (.uncorrectableError site) s = .next t ∧ tget t.blocks b = some y ∧ t.mem = s.mem ∧
      (∀ off, sget y.loc off = if site = .lspace b gr ∧ off / 65536 = gr then 0 else sget bl.loc off) ∧
      (∀ off, sget y.abuf off = if site = .abuf b gr ∧ off / 65536 = gr then 0 else sget bl.abuf off) ∧
      ∀ n x, tget bl.groups n = some x → ∃ z, tget y.groups n = some z ∧ (site ≠ .regGranule b gr → z.r.v = x.r.v) ∧
        (site = .kregs b gr → n = gr → ∀ i, z.r.kget i = 0) ∧ (site ≠ .kregs b gr ∨ n ≠ gr → z.r.k = x.r.k) ∧
        (site = .regGranule b gr → ∀ l i, l < 64 → i < 256 → z.r.vget l i = if regInGranule g.pkt.regs n (256 * l + i) gr then 0 else x.r.vget l i) ∧
        (x.run ≠ .retired → ∃ h, z.async = x.async ++ [h] ∧ h.cause = .soft ∧ h.code = (if g.pkt.repl = true then 4 else 2) ∧ h.pc = x.r.pc) := by
  intro site hsite
  obtain ⟨y, hy, hmem, hloc, habuf, hgroups⟩ := lossOf_storage hsite g.pkt hb
  have hlost : lostBlock site = some b := by
    simp only [storageSites, List.mem_cons, List.not_mem_nil, or_false] at hsite
    obtain rfl | rfl | rfl | rfl | rfl := hsite <;> rfl
  refine ⟨_, _, (exec_uncorrectableError s site).trans (by rw [errorAt_of_lost hlost, loseState_of_soft hb hg hno]; rfl), block_softBlock hy _,
    (softBlock_mem ..).trans hmem, hloc, habuf, fun n x hx => ?_⟩
  obtain ⟨hv, hk, hk', hvget, hpc, hrun, hasync⟩ := lostGroup_reads hsite g.pkt n x
  refine ⟨_, (tget_tmap ..).trans (congrArg _ (hgroups n x hx)), ?_⟩
  rw [(softGroup_keeps ..).1]
  refine ⟨hv, hk, hk', fun h l i _ _ => hvget h l i, fun hx' => ?_⟩
  obtain ⟨t, ht, hcause, hcode, htpc⟩ := softGroup_async (lossOf site g.pkt s) y (if g.pkt.repl = true then 4 else 2) (hrun ▸ hx' : (lostGroup site g.pkt n x).run ≠ .retired)
  exact ⟨t, by rw [ht, hasync], hcause, hcode, htpc.trans hpc⟩

/-! ### A stack that is lost (R379) -/

/-- A group whose stack is lost goes on with its current path; the lanes ejected under its entries are gone. -/
def loseEntries (x : Group) : Group :=
  { x with stack := [], threads := [], held := [], noEj := [], resv := x.resv.filter (fun r => r.lane == 64 || x.r.mask.getLsbD r.lane),
           run := match x.run with | .parkedJoin _ => .ready | r => r }

/-- With a current path the loss of a group's stack changes the group alone. -/
theorem loseStack_of_path {n : Nat} (hpath : ∀ x, s.group? b n = some x → x.r.mask ≠ 0) : loseStack s b n = s.mapGroup b n loseEntries := by
  simp only [loseStack]
  split
  · next y hy =>
    rw [State.group_mapGroup] at hy
    obtain ⟨x, hx, rfl⟩ := Option.map_eq_some_iff.1 hy
    exact if_neg fun hended => hpath x hx hended.1
  · rfl

/-- A lost stack that stands is empty; the group's path and registers are as before. -/
theorem uncorrectableError_stack {n : Nat} {x : Group} (hb : tget s.blocks b = some bl) (hg : tget s.grids bl.grid = some g)
    (hno : g.pkt.repl = false ∨ 3 ≤ bl.replays) (hx : s.group? b n = some x) (hmask : x.r.mask ≠ 0) :
    ∃ t z, exec (.uncorrectableError (.stack b n)) s = .next t ∧ t.group? b n = some z ∧ z.stack = [] ∧ z.threads = [] ∧ z.r = x.r := by
  have hloss : loseStack s b n = s.mapGroup b n loseEntries := loseStack_of_path fun y hy => by rw [hx] at hy; rwa [← Option.some.inj hy]
  obtain ⟨y, hy, -, -, -⟩ := block_mapGroup hb n loseEntries
  rw [exec_uncorrectableError, errorAt_of_lost rfl, loseState_of_soft hb hg hno, lossOf, hloss]
  refine ⟨_, _, rfl, (group_softBlock hy _ n).trans (by rw [State.group_mapGroup, hx]; rfl), ?_⟩
  obtain ⟨hr, hstack, hthreads⟩ := softGroup_keeps (s.mapGroup b n loseEntries) y (if g.pkt.repl = true then 4 else 2) (loseEntries x)
  exact ⟨hstack, hthreads, hr⟩

/-! ### Memory (R379, R380) -/

/-- A loss that stands leaves memory, but for a stack that held a group's last path. -/
theorem lossOf_mem (site : ErrorSite) (p : Packet) (s : State) (hpath : ∀ b n x, site = .stack b n → s.group? b n = some x → x.r.mask ≠ 0) :
    (lossOf site p s).mem = s.mem := by
  cases site
  case stack b n => rw [lossOf, loseStack_of_path (hpath b n · rfl), State.mapGroup_mem]
  case kregs => exact State.mapGroup_mem ..
  case regGranule | lspace | abuf | wbuf => exact State.mapBlock_mem ..
  case bte | cleanLine | matrix | mirror => rfl

/-- An error at a site that loses no block's state leaves memory. -/
theorem errorAt_mem_of_kept {site : ErrorSite} (hsite : lostBlock site = none) {t : State} (ht : errorAt s site = some t) : t.mem = s.mem := by
  cases site
  case bte core store i =>
    obtain ⟨c, -, rfl⟩ := Option.map_eq_some_iff.1 ht
    rfl
  case cleanLine c line =>
    obtain rfl := Option.some.inj ht
    exact setCache_mem ..
  case matrix core i =>
    simp only [errorAt] at ht
    split at ht
    · cases ht
    · split at ht
      · obtain rfl := Option.some.inj ht; rfl
      · cases ht
  case mirror b n lanes =>
    simp only [errorAt] at ht
    split at ht
    · split at ht
      · obtain rfl := Option.some.inj ht; exact State.mapGroup_mem ..
      · cases ht
    · cases ht
  all_goals cases hsite

/-- Memory holds what it held, unless a cluster is replayed or a group whose stack held its last path ends. -/
theorem uncorrectableError_mem (s : State) (site : ErrorSite) : ∃ t, exec (.uncorrectableError site) s = .next t ∧
    ((∀ b bl g, lostBlock site = some b → tget s.blocks b = some bl → tget s.grids bl.grid = some g → g.pkt.repl = false ∨ 3 ≤ bl.replays) →
      (∀ b n x, site = .stack b n → s.group? b n = some x → x.r.mask ≠ 0) → t.mem = s.mem) := by
  refine ⟨_, exec_uncorrectableError s site, fun hno hpath => ?_⟩
  cases hsite : lostBlock site with
  | none =>
    cases ht : errorAt s site with
    | none => rfl
    | some t => exact errorAt_mem_of_kept hsite ht
  | some b =>
    rw [errorAt_of_lost hsite]
    obtain hnone | ⟨bl, g, hb, hg⟩ := loseState_cases s b (lossOf site)
    · rw [hnone]; rfl
    · rw [loseState_of_soft hb hg (hno b bl g hsite hb hg)]
      exact (softBlock_mem ..).trans (lossOf_mem site g.pkt s hpath)

end

/-! ### What is counted and recorded (R381 to R383) -/

/-- Recording an event changes the management core alone. -/
theorem logEvent_eq (s : State) (kind slot st ev ctx pa : Nat) :
    s.logEvent kind slot st ev ctx pa = { s with mgmt := (s.logEvent kind slot st ev ctx pa).mgmt } := by
  simp only [State.logEvent]
  split <;> rfl

theorem logEvent_cet (s : State) (kind slot st ev ctx pa : Nat) : (s.logEvent kind slot st ev ctx pa).mgmt.cet = s.mgmt.cet := by
  simp only [State.logEvent]
  split <;> rfl

/-- A corrected error is counted on its die, up to the largest count. -/
theorem correctableError_counts (s : State) (die ctx : Nat) : ∃ t, exec (.correctableError die ctx) s = .next t ∧ { t with mgmt := s.mgmt } = s ∧
    let n := (tget s.mgmt.cet die).getD 0
    tget t.mgmt.cet die = some (if n = BitVec.allOnes 32 then n else n + 1) := by
  refine ⟨_, congrArg Host.Outcome.next (logEvent_eq ..), rfl, ?counted⟩
  case counted => exact (congrArg (tget · die) (logEvent_cet ..)).trans (tget_tset_same ..)

/-- A poisoned sector joins those that are poisoned. -/
theorem memoryPoison_records (s : State) (sec : Nat) : ∃ t, exec (.memoryPoison sec) s = .next t ∧ sec ∈ t.poison ∧
    (∀ k, k ≠ sec → (k ∈ t.poison ↔ k ∈ s.poison)) ∧ t.mem = s.mem ∧ t.blocks = s.blocks := by
  refine ⟨_, congrArg Host.Outcome.next (logEvent_eq ..), ?joins, fun k hk => ?others, rfl, rfl⟩
  case joins =>
    show sec ∈ if s.poison.contains sec then s.poison else sec :: s.poison
    split
    · next hin => simpa using hin
    · exact List.mem_cons_self
  case others =>
    show (k ∈ if s.poison.contains sec then s.poison else sec :: s.poison) ↔ _
    split <;> simp [hk]

/-- Settles O51: each site by its own law, the losses of a block by one law for its replay and one for SOFT. -/
theorem errorsAreContained : Obligations.ErrorsAreContained :=
  ⟨uncorrectableError_mem, uncorrectableError_bte, uncorrectableError_cleanLine, uncorrectableError_matrix,
    fun _ _ _ _ _ hb hg hno => ⟨uncorrectableError_storage hb hg hno, fun _ hx hmask => uncorrectableError_stack hb hg hno hx hmask⟩,
    fun s _ site _ _ hsite hb hg hrepl hfew => by rw [exec_uncorrectableError, errorAt_of_lost hsite, loseState_of_replay hb hg hrepl hfew]; rfl,
    fun _ _ _ lanes _ _ hb hx => uncorrectableError_mirror lanes hb hx, correctableError_counts, memoryPoison_records⟩

end Sys2Proof.Machine
end

section
/-! PROOF. FENCE, BRG, GSET, WAITV and the hang watchdog (spec/06_domains.md R172, R173, 08_memory_instructions.md R226, R228,
12_control_instructions.md R335, 11_divergence.md R318). -/

namespace Sys2Proof.Machine

open Sys2Proof Sys2Proof.Claims

section

variable {s : State} {v : View} {h : Hdr}

/-! ### Fences and bridges -/

/-- What a fence or bridge leaves: each of its agents is bound from the first to the second domain of every pair (R226). -/
def fenced (s : State) (v : View) (h : Hdr) (pairs : List (Dom × Dom)) (sc : Scope) : State :=
  (fenceAgents v.ag (if h.u then lanesOf v.mask else v.active h) h.u).foldl (fun s a =>
    pairs.foldl (fun s p => bridge s v.core a.1 v.mask a.2 p.1 p.2 sc) s) s

/-- A fence or bridge runs for the lanes of the path in the lane form, and for the group where its predicate passes in the group-wide form. -/
theorem fenceInstr_of_runs (hv : view? s = some v) (hgrp : h.u = true → v.ej = false ∧ v.groupOn h = true) (pairs : List (Dom × Dom)) (sc : Scope) :
    fenceInstr s h pairs sc = .next (skip (fenced s v h pairs sc) v 8) := by
  have hform : (v.ej && h.u) = false ∧ (h.u && !v.groupOn h) = false := by
    cases hu : h.u with
    | false => simp
    | true => simp [hgrp hu]
  simp only [fenceInstr, withView_of hv, hform, Bool.false_eq_true, if_false]
  rfl

/-! ### Guards -/

/-- A guard slot that no instruction has armed is left as it is. -/
theorem exec_gset_free (hrun : GroupRuns s v h) (hg : v.g.guard h.d.toNat = .free) : exec (.gset h) s = .next (skip s v 8) := by
  change execGset h s = _
  rw [execGset, groupWide_of_runs hrun]
  simp only [hg]

/-- A guard is resolved once. -/
theorem exec_gset_resolved {b : Bool} {n : Nat} (hrun : GroupRuns s v h) (hg : v.g.guard h.d.toNat = .resolved b n) :
    exec (.gset h) s = .next (takeTrap s v { cause := .guard, lanes := v.mask }) := by
  change execGset h s = _
  rw [execGset, groupWide_of_runs hrun]
  simp only [hg, plainTrap]

/-- An armed guard takes the predicate's value, and the commands that it held go on. -/
theorem exec_gset_armed {n : Nat} (hrun : GroupRuns s v h) (hg : v.g.guard h.d.toNat = .armed n) :
    exec (.gset h) s = .next (skip (pumpAll (s.mapGroup v.ag.blk v.ag.grp (fun g =>
      g.resolve h.d.toNat (h.a = 7 || v.r.qget h.a.toNat))) v.core v.ag.blk v.ag.grp) v 8) := by
  change execGset h s = _
  rw [execGset, groupWide_of_runs hrun]
  simp only [hg]

/-! ### WAITV -/

variable {m : MemMod} {s1 : State}

/-- The location that WAITV loads, as the checks find it. -/
def waitvLook (s : State) (v : View) (h : Hdr) (m : MemMod) : Looked :=
  lookGlb s v m.dom (sizeBytes m.size) true true false false { lane := v.ag.lane, va := v.r.kget h.a.toNat }

/-- How WAITV loads. -/
def waitvAs (s : State) (v : View) (h : Hdr) (m : MemMod) : LoadAs := { dom := (waitvLook s v h m).dom, enc := m.dom, sc := m.sc }

/-- The load of WAITV, from the state in which it may be performed: the state after it, the bytes and their stamp. -/
def waitvLoad (s s1 : State) (v : View) (h : Hdr) (m : MemMod) : State × List Byte × Nat :=
  loadSpans (touchAll s1 v.core v.ctx (waitvLook s v h m).spans false) v.core v.ag v.mask (waitvLook s v h m).spans (waitvAs s v h m)

/-- Does every comparand meet the condition on the loaded value? -/
def waitvMet (v : View) (h : Hdr) (m : MemMod) (bs : List Byte) : Bool :=
  (v.places h).all (fun l => waitvHolds h.c.toNat (8 * sizeBytes m.size) (fromBytes bs) (readReg v.r l h.b (m.size == .b8) % 2 ^ (8 * sizeBytes m.size)))

/-- The state after the load, as an acquire or not (R228). -/
def waitvAfter (s s1 : State) (v : View) (h : Hdr) (m : MemMod) (acq : Bool) : State :=
  afterLoad (waitvLoad s s1 v h m).1 v.core v.ag v.mask (waitvAs s v h m) acq (waitvLoad s s1 v h m).2.2

/-- WAITV may load: its registers are within the launch, it has a comparand, its access passes the checks, and the load has nothing to wait for. -/
structure WaitvLoads (s s1 : State) (v : View) (h : Hdr) (m : MemMod) : Prop where
  within : v.within h.u [(h.b, span (m.size == .b8))] = true
  places : v.places h ≠ []
  passes : lookedTrap v h m.sc false [waitvLook s v h m] = none
  linked : hostWaits s (spanSecs (waitvLook s v h m).spans) = false
  free : beforeLoad s v.core v.ag v.mask (waitvLook s v h m).dom m.dom (spanSecs (waitvLook s v h m).spans) = some s1

/-- A WAITV that may load goes on, with the edge of its wait, where the condition is met, and else waits. -/
theorem waitvBody_of_loads (hl : WaitvLoads s s1 v h m) :
    waitvBody s v h m = if waitvMet v h m (waitvLoad s s1 v h m).2.1 then
      skip (chainEdge (waitvAfter s s1 v h m (m.dom != .bulk)) v.ctx v.ag ((waitvLook s v h m).spans.head?.bind (fun sp =>
        noteOfWrite (waitvAfter s s1 v h m (m.dom != .bulk)) (secOf sp.pa) (waitvLoad s s1 v h m).2.2)) (waitStart s v).1 4 0 (waitStart s v).2) v 8
    else stall (waitvAfter s s1 v h m false) v .waitv := by
  obtain ⟨hwithin, hplaces, hpasses, hlinked, hfree⟩ := hl
  have hsome : (v.places h).isEmpty = false := by simpa using hplaces
  unfold waitvLook at hpasses hlinked hfree
  simp only [waitvBody, hwithin, hsome, hpasses, hlinked, hfree, Bool.not_true, Bool.false_eq_true, if_false]
  rfl

/-- WAITV runs for an agent that its form admits. -/
theorem exec_waitv (hv : view? s = some v) (hgrp : h.u = true → v.ej = false) : exec (.waitv h m) s = .next (waitvBody s v h m) := by
  have hform : (v.ej && h.u) = false := by
    cases hu : h.u with
    | false => simp
    | true => simp [hgrp hu]
  change execWaitv h m s = _
  simp only [execWaitv, withView_of hv, hform, Bool.false_eq_true, if_false]

/-! ### Waits that go on or end -/

variable {ag : AgentRef}

/-- A waiting WAITV loads again, unless a stop holds its group or its block is not on a core (R228, R308). -/
theorem exec_waitvReevaluation {t : Nat} {w : Word} (hv : viewOf s ag = some v) (hrun : v.run = .waiting .waitv t) (hhalt : v.g.halted = false)
    (hstop : v.bl.stopping = false) (hres : v.bl.res = .resident) (hf : fetch s v.core v.ctx v.r.pc = .word w (some (.waitv h m))) :
    exec (.waitvReevaluation ag) s = .next (stepSettle { (waitvBody { s with word := w } v h m) with word := s.word } v w) := by
  change happen s (waitvReevaluationEvent ag s) = _
  have hheld : (v.g.halted || v.bl.stopping || v.bl.res != .resident) = false := by simp [hhalt, hstop, hres]
  simp only [happen, waitvReevaluationEvent, hv, hheld, hrun, hf, Bool.false_eq_true, if_false, Option.getD_some]

/-- A wait that has reached its context's limit raises HANG at its PC, and an ejected lane's count starts again (R318). -/
theorem exec_hangWatchdogExpiry (hv : viewOf s ag = some v) (hdue : hangDue s v = true) :
    let w := match fetch s v.core v.ctx v.r.pc with | .word w _ => w | .fault _ w _ => w
    let s1 := s.mapGroup ag.blk ag.grp (fun g => { g with threads := g.threads.map (fun t => if some t.lane = ag.lane then { t with hang := 0 } else t) })
    exec (.hangWatchdogExpiry ag) s = .next { (takeTrap { s1 with word := w } v { cause := .hang, lanes := v.mask }) with word := s.word } := by
  change happen s (hangWatchdogExpiryEvent ag s) = _
  simp only [happen, hangWatchdogExpiryEvent, hv, hdue, if_true, Option.getD_some]
  rfl

end

/-- Settles O17: fences and bridges by the one law of both, GSET by the state of the guard, WAITV by its load, and the two events by the view of the waiting agent. -/
theorem fencesGuardsAndWaits : Obligations.FencesGuardsAndWaits := by
  refine ⟨?fences, ?guards, ?waits, ?again, fun s ag v hv hdue => exec_hangWatchdogExpiry hv hdue⟩
  case fences =>
    intro s v h d1 d2 sc hv hgrp
    exact ⟨fenceInstr_of_runs hv hgrp _ sc, fenceInstr_of_runs hv hgrp _ sc, fenceInstr_of_runs hv hgrp _ sc⟩
  case guards =>
    exact fun s v h hrun => ⟨exec_gset_free hrun, fun b n => exec_gset_resolved hrun, fun n => exec_gset_armed hrun⟩
  case waits =>
    intro s v h m s1 hv hgrp hwithin hplaces n c hpasses hlinked hfree l ld met s3
    have hbody := waitvBody_of_loads (WaitvLoads.mk hwithin hplaces hpasses hlinked hfree)
    rw [exec_waitv hv hgrp, hbody]
    refine ⟨fun hmet => congrArg Host.Outcome.next (if_neg (ne_true_of_eq_false hmet)), fun hmet => congrArg Host.Outcome.next ((if_pos hmet).trans ?_)⟩
    unfold waitStart
    cases v.run <;> rfl
  case again =>
    intro s ag v t w h m hv hrun hhalt hstop hres hf
    exact exec_waitvReevaluation hv hrun hhalt hstop hres hf

end Sys2Proof.Machine
end

section
/-! PROOF. What the caches and homes leave of the management state: no coherence action changes the module's DEVICE number (spec/01_machine.md R22,
07_coherence.md R200 to R211), so that the agent id that notes a write of the host is the module's before the write and after it (R385). -/

namespace Sys2Proof.Machine

open Sys2Proof

/-- Steps that each keep the DEVICE number keep it together. -/
theorem foldl_device {α : Type} {f : State → α → State} (hf : ∀ s x, (f s x).mgmt.device = s.mgmt.device) (l : List α) (s : State) :
    (l.foldl f s).mgmt.device = s.mgmt.device := by
  induction l generalizing s with
  | nil => rfl
  | cons x l ih => rw [List.foldl_cons, ih, hf]

/-! ### Caches, memory and records -/

@[simp] theorem setCache_mgmt (s : State) (c : CacheRef) (t : Table CSector) : (setCache s c t).mgmt = s.mgmt := by cases c <;> rfl
@[simp] theorem cachePut_mgmt (s : State) (c : CacheRef) (x : CSector) : (cachePut s c x).mgmt = s.mgmt := setCache_mgmt ..
@[simp] theorem cacheDrop_mgmt (s : State) (c : CacheRef) (secs : List Nat) : (cacheDrop s c secs).mgmt = s.mgmt := setCache_mgmt ..
@[simp] theorem trkDrop_mgmt (s : State) (c : CacheRef) (secs : List Nat) : (trkDrop s c secs).mgmt = s.mgmt := setCache_mgmt ..
@[simp] theorem dirPut_mgmt (s : State) (h : HomeRef) (d : DirEntry) : (dirPut s h d).mgmt = s.mgmt := rfl
@[simp] theorem sendMsg_mgmt (s : State) (m : Msg) : (sendMsg s m).mgmt = s.mgmt := rfl
@[simp] theorem clearResv_mgmt (s : State) (sec : Nat) (keep : Option AgentRef) : (clearResv s sec keep).mgmt = s.mgmt := rfl

@[simp] theorem trkMap_mgmt (s : State) (c : CacheRef) (sec : Nat) (f : CSector → CSector) : (trkMap s c sec f).mgmt = s.mgmt := by
  unfold trkMap
  split
  · split
    · exact setCache_mgmt ..
    · rfl
  · rfl

@[simp] theorem homeWrite_mgmt (s : State) (w : SecWrite) (t : Nat) : (homeWrite s w t).mgmt = s.mgmt := by
  unfold homeWrite
  split <;> rfl

@[simp] theorem clearPoison_mgmt (s : State) (w : SecWrite) : (clearPoison s w).mgmt = s.mgmt := by
  unfold clearPoison
  split <;> rfl

@[simp] theorem noteSent_mgmt (s : State) (h : HomeRef) (r : HeldReq) : (noteSent s h r).mgmt = s.mgmt := by
  simp only [noteSent, apply_ite State.mgmt, ite_self]

@[simp] theorem sendReq_mgmt (s : State) (h : HomeRef) (r : HeldReq) : (sendReq s h r).mgmt = s.mgmt := noteSent_mgmt ..

@[simp] theorem ccWrite_mgmt (n : Nat) (s : State) (w : SecWrite) : (ccWrite n s w).mgmt = s.mgmt := by
  unfold ccWrite
  simp only
  split
  · split <;> simp
  · simp

@[simp] theorem homeWriter_mgmt (h : HomeRef) (s : State) (w : SecWrite) : (homeWriter h s w).mgmt = s.mgmt := by
  cases h <;> simp [homeWriter]

/-- An event record and a counted conflict leave the DEVICE number. -/
@[simp] theorem logEntry_device (s : State) (slot st ev ctx pa : Nat) : (logEntry s slot st ev ctx pa).mgmt.device = s.mgmt.device := by
  have hlog : ∀ kind, (s.logEvent kind slot st ev ctx pa).mgmt.device = s.mgmt.device := by
    intro kind
    simp only [State.logEvent]
    split <;> rfl
  unfold logEntry
  split
  · exact hlog 2
  · exact hlog 1

/-! ### Copies taken back (R193, R197) -/

@[simp] theorem mergeUp_mgmt (s : State) (n : Nat) (x : CSector) : (mergeUp s n x).mgmt = s.mgmt := by
  unfold mergeUp
  split <;> simp

@[simp] theorem ccRecall_device (s : State) (n : Nat) (piece : List Nat) : (ccRecall s n piece).mgmt.device = s.mgmt.device := by
  unfold ccRecall
  simp only
  split
  any_goals rw [dirPut_mgmt]
  all_goals
    refine (foldl_device (fun s core => foldl_device (fun s sec => ?_) piece s) _ _).trans rfl
    split
    · split
      · split <;> simp
      · rfl
    · rfl

@[simp] theorem flushNet_device (s : State) (piece : List Nat) : (flushNet s piece).mgmt.device = s.mgmt.device :=
  foldl_device (fun _ _ => by simp) _ _

@[simp] theorem purgePiece_device (s : State) (piece : List Nat) : (purgePiece s piece).mgmt.device = s.mgmt.device := by
  unfold purgePiece
  simp only
  split
  all_goals
    simp only [dirPut_mgmt, flushNet_device]
    refine (foldl_device (fun s n => foldl_device (fun s sec => ?_) piece s) _ _).trans (foldl_device (fun s n => by simp) _ _)
    split
    · split
      · split <;> simp
      · rfl
    · rfl

@[simp] theorem devict_device (s : State) (d : DirEntry) : (devict s d).mgmt.device = s.mgmt.device := by
  unfold devict
  split <;> simp

/-! ### The engine (R200, R203) -/

/-- Messages to several caches. -/
@[simp] theorem foldl_sendMsg_device {α : Type} (l : List α) (m : α → Msg) (s : State) :
    (l.foldl (fun s x => sendMsg s (m x)) s).mgmt.device = s.mgmt.device := foldl_device (fun _ _ => by rw [sendMsg_mgmt]) l s

section

variable {wr : State → SecWrite → State} (hwr : ∀ s w, (wr s w).mgmt.device = s.mgmt.device)
include hwr

theorem engineFinish_device (s : State) (h : HomeRef) (old d : DirEntry) (r : HeldReq) (e : PEntry) (n : Nat) :
    (engineFinish wr s h old d r e n).mgmt.device = s.mgmt.device := by
  have hwrite : (if e.wr then r.ws.foldl wr s else s).mgmt.device = s.mgmt.device := by
    split
    · exact foldl_device hwr _ _
    · rfl
  unfold engineFinish
  simp only [dirPut_mgmt]
  split
  any_goals rw [sendMsg_mgmt]
  all_goals split
  any_goals rw [sendMsg_mgmt]
  all_goals split
  all_goals simp only [hwr, hwrite]

theorem engineRun_device (s : State) (h : HomeRef) (d : DirEntry) (r : HeldReq) : (engineRun wr s h d r).mgmt.device = s.mgmt.device := by
  unfold engineRun
  simp only
  split
  all_goals simp only [apply_ite (fun s : State => s.mgmt.device), engineFinish_device hwr, dirPut_mgmt, foldl_sendMsg_device, logEntry_device, ite_self]

theorem engineRuns_device (h : HomeRef) (slot : Nat) (piece : List Nat) (rs : List HeldReq) (s : State) :
    (engineRuns wr h slot piece s rs).mgmt.device = s.mgmt.device := by
  induction rs generalizing s with
  | nil => rfl
  | cons r rest ih =>
    unfold engineRuns
    simp only
    split
    · rfl
    · rw [ih, engineRun_device hwr]

theorem engineApply_device (s : State) (h : HomeRef) (slot : Nat) (piece : List Nat) (r : HeldReq) :
    (engineApply wr s h slot piece r).mgmt.device = s.mgmt.device := by
  unfold engineApply
  simp only
  split
  · exact engineRuns_device hwr ..
  · rfl

theorem engineResume_device (s : State) (h : HomeRef) (d : DirEntry) : (engineResume wr s h d).mgmt.device = s.mgmt.device :=
  engineRuns_device hwr ..

end

/-! ### Requests and messages (R202, R203, R208) -/

theorem homeWriter_device (h : HomeRef) (s : State) (w : SecWrite) : (homeWriter h s w).mgmt.device = s.mgmt.device := by rw [homeWriter_mgmt]

@[simp] theorem l2Request_device (s : State) (r : HeldReq) : (l2Request s r).mgmt.device = s.mgmt.device := by
  unfold l2Request
  simp only
  split
  · rfl
  · rw [engineApply_device (fun _ _ => by simp)]
    split
    · rw [devict_device, foldl_device devict_device]
    · exact foldl_device devict_device _ _

@[simp] theorem homeRequest_device (s : State) (h : HomeRef) (r : HeldReq) : (homeRequest s h r).mgmt.device = s.mgmt.device := by
  cases h with
  | l2 => exact l2Request_device ..
  | cc n => exact (engineApply_device (fun _ _ => by simp) ..).trans (foldl_device (fun _ _ => ccRecall_device ..) _ _)

@[simp] theorem arriveReq_device (s : State) (i : Nat) : (arriveReq s i).mgmt.device = s.mgmt.device := by
  unfold arriveReq
  split
  · rfl
  · split
    · exact homeRequest_device ..
    · rfl

@[simp] theorem fillCache_device (s : State) (c : CacheRef) (m : Msg) (p : Permission) : (fillCache s c m p).mgmt.device = s.mgmt.device := by
  refine foldl_device (fun s e => ?_) _ _
  simp only
  split
  · split <;> simp
  · simp

@[simp] theorem yieldPiece_device (s : State) (m : Msg) : (yieldPiece s m).1.mgmt.device = s.mgmt.device := by
  unfold yieldPiece
  simp only
  split <;> simp

@[simp] theorem sinkDirty_device (s : State) (m : Msg) : (sinkDirty s m).mgmt.device = s.mgmt.device := by
  refine foldl_device (fun s e => ?_) _ _
  split <;> simp

@[simp] theorem pumpSet_device (s : State) : (pumpSet s).mgmt.device = s.mgmt.device := foldl_device l2Request_device _ _

@[simp] theorem homeData_device (s : State) (m : Msg) : (homeData s m).mgmt.device = s.mgmt.device := by
  unfold homeData
  simp only
  split
  · rw [pumpSet_device, engineResume_device (homeWriter_device _), sinkDirty_device]
  · exact sinkDirty_device ..

@[simp] theorem fanAck_device (s : State) (m : Msg) : (fanAck s m).mgmt.device = s.mgmt.device := by
  unfold fanAck
  simp only
  split
  · rw [dirPut_mgmt, sinkDirty_device]
  · split
    · rw [pumpSet_device, dirPut_mgmt, sinkDirty_device]
    · rw [pumpSet_device, engineResume_device (homeWriter_device _), engineFinish_device (homeWriter_device _), sinkDirty_device]

@[simp] theorem closeOutst_device (s : State) : (closeOutst s).mgmt.device = s.mgmt.device := by
  refine foldl_device (fun s o => ?_) _ _
  split <;> rfl

@[simp] theorem respond_device (s : State) (m : Msg) : (respond s m).mgmt.device = s.mgmt.device := closeOutst_device _
@[simp] theorem countAck_device (s : State) (m : Msg) : (countAck s m).mgmt.device = s.mgmt.device := closeOutst_device _

@[simp] theorem freeBack_device (s : State) (m : Msg) : (freeBack s m).mgmt.device = s.mgmt.device := by
  unfold freeBack
  split <;> simp

/-- An update of the tracked copies of a cache's sectors. -/
theorem foldl_trkMap_device {α : Type} (l : List α) (c : CacheRef) (sec : α → Nat) (f : α → CSector → CSector) (s : State) :
    (l.foldl (fun s x => trkMap s c (sec x) (f x)) s).mgmt.device = s.mgmt.device := foldl_device (fun _ _ => by simp) _ _

@[simp] theorem deliver_device (s : State) (m : Msg) : (deliver s m).mgmt.device = s.mgmt.device := by
  have hput : ∀ (s : State) (c : CacheRef), (m.dirty.foldl (fun s e =>
      match m.data.lookup e.1 with | some d => trkMap s c e.1 (fun x => { x with data := overlay x.data d e.2 }) | none => s) s).mgmt.device = s.mgmt.device :=
    fun s c => foldl_device (fun s e => by split <;> simp) _ _
  cases hk : m.kind with
  | dataS | dataSW | dataE =>
    simp only [deliver, hk]
    split <;> simp
  | ack =>
    simp only [deliver, hk]
    split
    · rw [respond_device, foldl_trkMap_device]
    · simp
  | wtack | atomr => simp only [deliver, hk, respond_device]
  | inv | fwdGetx => simp only [deliver, hk, sendMsg_mgmt, trkDrop_mgmt, yieldPiece_device]
  | fwdGets =>
    simp only [deliver, hk, sendMsg_mgmt]
    rw [foldl_trkMap_device, yieldPiece_device]
  | invAck =>
    simp only [deliver, hk]
    split <;> simp
  | update =>
    simp only [deliver, hk, sendMsg_mgmt]
    split
    · exact (foldl_device (fun s core => hput s (.l1 core)) _ _).trans (hput s _)
    · exact hput s _

@[simp] theorem settle_device (s : State) (n : Nat) : (settle s n).mgmt.device = s.mgmt.device := by
  induction n generalizing s with
  | zero => rfl
  | succ n ih =>
    unfold settle
    split
    · rw [ih, arriveReq_device]
    · split
      · rfl
      · rw [ih, deliver_device]; rfl

@[simp] theorem settled_device (s : State) : (settled s).mgmt.device = s.mgmt.device := by
  unfold settled
  split <;> simp

/-! ### Writes of the device and the host (R201) -/

@[simp] theorem devWriteSec_device (s : State) (w : SecWrite) : (devWriteSec s w).mgmt.device = s.mgmt.device := by
  simp only [devWriteSec, clearResv_mgmt]
  split <;> simp

@[simp] theorem physPut_device (s : State) (pa : Nat) (bs : List Byte) : (physPut s pa bs).mgmt.device = s.mgmt.device :=
  foldl_device (fun _ _ => devWriteSec_device ..) _ _

end Sys2Proof.Machine
end

section
/-! PROOF. Doorbells, posted writes, PRI, ATS, TDISP, keys and measurements (spec/06_domains.md R190, 10_scheduling.md R281, 13_isolation.md R352 to
R356, R362, 14_recovery.md R373, 18_package.md R416, R422). -/

namespace Sys2Proof.Machine

open Sys2Proof Sys2Proof.Claims

/-- An event that occurs has its effect. -/
theorem happen_some (s t : State) : happen s (some t) = .next t := rfl

/-- An event that does not occur changes nothing (log 37). -/
theorem happen_none (s : State) : happen s none = .next s := rfl

/-- A condition on a number in range and a test fails where the number is out of range or the test does. -/
theorem not_lt_and_true {k n : Nat} {b : Bool} (h : k ≤ n ∨ b = false) : ¬ (n < k ∧ b = true) := by
  rintro ⟨hn, rfl⟩
  simp at h
  omega

section

variable {s : State}

/-! ### Doorbells (R281, R352, R373) -/

theorem enabled_iff (s : State) : enabled s = true ↔ s.host.up = true ∧ s.mgmt.ready = true ∧ s.mgmt.powered = true := by
  simp [enabled, and_assoc]

theorem refused_iff (s : State) (fn : Nat) (ide : Bool) : refused s fn ide = true ↔ fn < 16 ∧ fn ∈ s.host.run ∧ ide = false := by
  simp [refused, and_assoc]

/-- A TAIL that moves forward within the ring is taken. -/
theorem moveTail_of_within {q : Queue} {t : Nat} (h : q.tail ≤ t ∧ t - q.head ≤ 2 ^ q.log2n) : q.moveTail t = { q with tail := t } := if_pos h

/-- A TAIL that would move back, or past the ring, is discarded. -/
theorem moveTail_of_beyond {q : Queue} {t : Nat} (h : t < q.tail ∨ 2 ^ q.log2n < t - q.head) : q.moveTail t = q := if_neg (by omega)

section

variable {fn : Nat} {ide : Bool}

theorem exec_qdoor_disabled (q tail : Nat) (he : enabled s = false) : exec (.qdoor ⟨fn, ide⟩ q tail) s = .next s := by
  change happen s (qdoorEvent ⟨fn, ide⟩ q tail s) = _
  rw [qdoorEvent, if_pos he, happen_none]

theorem exec_qdoor_refused (q tail : Nat) (he : enabled s = true) (hr : refused s fn ide = true) :
    exec (.qdoor ⟨fn, ide⟩ q tail) s = .next (abortHost s) := by
  change happen s (qdoorEvent ⟨fn, ide⟩ q tail s) = _
  rw [qdoorEvent, if_neg (by simp [he]), if_pos hr, happen_some]

theorem exec_qdoor_own {q : Nat} (tail : Nat) (he : enabled s = true) (hr : refused s fn ide = false) (hq : q < 4096)
    (hact : fnActs s fn (queueOf s q).ctx = true) :
    exec (.qdoor ⟨fn, ide⟩ q tail) s = .next (setQueue s q ((queueOf s q).moveTail (tail % 2 ^ 48))) := by
  change happen s (qdoorEvent ⟨fn, ide⟩ q tail s) = _
  rw [qdoorEvent, if_neg (by simp [he]), if_neg (by simp [hr]), if_pos ⟨hq, hact⟩, happen_some]

theorem exec_qdoor_foreign {q : Nat} (tail : Nat) (he : enabled s = true) (hr : refused s fn ide = false)
    (hno : 4096 ≤ q ∨ fnActs s fn (queueOf s q).ctx = false) : exec (.qdoor ⟨fn, ide⟩ q tail) s = .next s := by
  change happen s (qdoorEvent ⟨fn, ide⟩ q tail s) = _
  rw [qdoorEvent, if_neg (by simp [he]), if_neg (by simp [hr]), if_neg (not_lt_and_true hno), happen_some]

theorem exec_sdoor_disabled (i : Nat) (he : enabled s = false) : exec (.sdoor ⟨fn, ide⟩ i) s = .next s := by
  change happen s (sdoorEvent ⟨fn, ide⟩ i s) = _
  rw [sdoorEvent, if_pos he, happen_none]

theorem exec_sdoor_refused (i : Nat) (he : enabled s = true) (hr : refused s fn ide = true) : exec (.sdoor ⟨fn, ide⟩ i) s = .next (abortHost s) := by
  change happen s (sdoorEvent ⟨fn, ide⟩ i s) = _
  rw [sdoorEvent, if_neg (by simp [he]), if_pos hr, happen_some]

theorem exec_sdoor_own (i : Nat) (he : enabled s = true) (hr : refused s fn ide = false) :
    exec (.sdoor ⟨fn, ide⟩ i) s = .next ((svcGroups s fn i).foldl svcAct s) := by
  change happen s (sdoorEvent ⟨fn, ide⟩ i s) = _
  rw [sdoorEvent, if_neg (by simp [he]), if_neg (by simp [hr]), happen_some]

end

/-! ### Posted writes (R190, R354, R355, R385) -/

/-- After entries have been put at the keys of a list, each key has an entry of one of its elements. -/
theorem tget_foldl_tset {α β : Type} (key : α → Nat) (val : α → β) (l : List α) (m : Table β) {x : α} (hx : x ∈ l) :
    ∃ y ∈ l, tget (l.foldl (fun m y => tset m (key y) (val y)) m) (key x) = some (val y) := by
  induction l using List.reverseRecOn with
  | nil => cases hx
  | append_singleton l a ih =>
    rw [List.foldl_append, List.foldl_cons, List.foldl_nil]
    by_cases hkey : key x = key a
    · exact ⟨a, by simp, by rw [hkey, tget_tset_same]⟩
    · have hl : x ∈ l := by
        rcases List.mem_append.1 hx with hl | ha
        · exact hl
        · exact absurd (congrArg key (List.mem_singleton.1 ha)) hkey
      obtain ⟨y, hy, hval⟩ := ih hl
      exact ⟨y, List.mem_append_left _ hy, by rw [tget_tset_ne _ _ hkey, hval]⟩

/-- A noted write stands at each of its sectors with the id of its agent. -/
theorem noteWrite_notes (s : State) (agent pa n : Nat) {p : Piece} (hp : p ∈ piecesOf pa n 0 (n / 32 + 2)) :
    ∃ x, tget (noteWrite s agent pa n).notes p.sec = some x ∧ x.1.1 = agentId s 0 agent := by
  obtain ⟨q, -, hq⟩ := tget_foldl_tset (fun p : Piece => p.sec)
    (fun p => ((agentId s 0 agent, Ptr.none, s.now), (sget s.stamps p.sec).toNat)) (piecesOf pa n 0 (n / 32 + 2)) s.notes hp
  exact ⟨_, hq, rfl⟩

/-- The write itself does not change which agent the host is. -/
theorem agentId_physPut (s : State) (pa : Nat) (bs : List Byte) (core agent : Nat) : agentId (physPut s pa bs) core agent = agentId s core agent := by
  rw [agentId, physPut_device, agentId]

section

variable {fn pa : Nat} {bytes : List Byte} {ide : Bool}

theorem exec_hostPostedWrite_own (fn : Nat) (bytes : List Byte) (ide : Bool) (hpa : hostBase ≤ pa) :
    exec (.hostPostedWrite fn pa bytes ide) s = .next (hostOwnWrite s pa bytes) := by
  change happen s (hostPostedWriteEvent fn pa bytes ide s) = _
  rw [hostPostedWriteEvent, if_pos hpa, happen_some]

theorem exec_hostPostedWrite_disabled (fn : Nat) (bytes : List Byte) (ide : Bool) (hpa : pa < hostBase) (he : enabled s = false) :
    exec (.hostPostedWrite fn pa bytes ide) s = .next s := by
  change happen s (hostPostedWriteEvent fn pa bytes ide s) = _
  rw [hostPostedWriteEvent, if_neg (Nat.not_le.2 hpa), if_pos he, happen_none]

theorem exec_hostPostedWrite_allowed (hpa : pa < hostBase) (he : enabled s = true) (hmay : hostMayWrite s fn pa bytes.length ide = true) :
    exec (.hostPostedWrite fn pa bytes ide) s = .next (hostPut s pa bytes) := by
  change happen s (hostPostedWriteEvent fn pa bytes ide s) = _
  rw [hostPostedWriteEvent, if_neg (Nat.not_le.2 hpa), if_neg (by simp [he]), if_pos hmay, happen_some]

theorem exec_hostPostedWrite_aborted (hpa : pa < hostBase) (he : enabled s = true) (hmay : hostMayWrite s fn pa bytes.length ide = false) :
    exec (.hostPostedWrite fn pa bytes ide) s = .next (abortHost s) := by
  change happen s (hostPostedWriteEvent fn pa bytes ide s) = _
  rw [hostPostedWriteEvent, if_neg (Nat.not_le.2 hpa), if_neg (by simp [he]), if_neg (by simp [hmay]), happen_some]

end

/-! ### PRI and ATS (R349, R353) -/

theorem exec_priResponse_due {i : Nat} {p : PopReq} (hp : s.pops[i]? = some p) (hpri : p.pri = true) (hup : s.host.up = true) :
    let s1 := { s with pops := s.pops.set i { p with pri := false }, host := { s.host with absent := s.host.absent.filter (fun f => !(hostFrames s p.ctx p.page).contains f) } }
    exec (.priResponse i) s = .next ((popServe s1 (p.tenant s)).getD s1) := by
  change happen s (priResponseEvent i s) = _
  simp only [priResponseEvent, hp, hpri, hup, Bool.and_self, if_true]
  rfl

theorem exec_priResponse_idle {i : Nat} (hno : s.pops[i]? = none ∨ s.host.up = false ∨ ∃ p, s.pops[i]? = some p ∧ p.pri = false) :
    exec (.priResponse i) s = .next s := by
  change happen s (priResponseEvent i s) = _
  rw [priResponseEvent]
  rcases hno with hnone | hdown | ⟨p, hp, hpri⟩
  · rw [hnone]; rfl
  · cases hp : s.pops[i]? with
    | none => rfl
    | some p => simp only [hdown, Bool.and_false, Bool.false_eq_true, if_false]; rfl
  · rw [hp]; simp only [hpri, Bool.false_and, Bool.false_eq_true, if_false]; rfl

/-- The TLB entries of a core that a test keeps pass it. -/
theorem Core.tlbKeep_passes {c : Core} {f : TlbEntry → Bool} {e : TlbEntry} (he : e ∈ (c.tlbKeep f).tlb ++ (tvals (c.tlbKeep f).qtlb).flatten) : f e = true := by
  simp only [Core.tlbKeep, tvals, tmap, List.map_map, List.mem_append, List.mem_flatten, List.mem_map] at he
  obtain hshared | ⟨_, ⟨q, -, rfl⟩, hquarter⟩ := he
  · exact (List.mem_filter.1 hshared).2
  · exact (List.mem_filter.1 hquarter).2

/-- Every TLB entry that a test keeps passes it. -/
theorem tlbAll_tlbKeep {s : State} {f : TlbEntry → Bool} {e : TlbEntry} (he : e ∈ tlbAll (tlbKeep s f)) : f e = true := by
  obtain ⟨_, hcore, hentry⟩ := List.mem_flatMap.1 he
  obtain ⟨c, -, rfl⟩ := List.mem_map.1 hcore
  exact Core.tlbKeep_passes hentry

/-- What an invalidation leaves once the accesses that used the translation have drained: no TLB holds it, and the frame is absent (R353). -/
def invalidated (s1 : State) (fn page : Nat) : State :=
  let s2 := tlbKeep s1 (fun e => !e.hostHit s1 fn page)
  { s2 with host := { s2.host with absent := if s2.host.absent.contains (fn, page) then s2.host.absent else (fn, page) :: s2.host.absent } }

theorem exec_atsInvalidation_idle {fn page : Nat} (hno : s.host.up = false ∨ drainCtxs s (fnActs s fn) = none) :
    exec (.atsInvalidation fn page) s = .next s := by
  have hdrain : (if s.host.up then drainCtxs s (fnActs s fn) else none) = none := by
    rcases hno with hdown | hnone
    · simp [hdown]
    · simp [hnone]
  change happen s (atsInvalidationEvent fn page s) = _
  rw [atsInvalidationEvent, hdrain]; rfl

theorem exec_atsInvalidation_due {fn page : Nat} {s1 : State} (hup : s.host.up = true) (hdrain : drainCtxs s (fnActs s fn) = some s1) :
    exec (.atsInvalidation fn page) s = .next (invalidated s1 fn page) := by
  change happen s (atsInvalidationEvent fn page s) = _
  rw [atsInvalidationEvent, if_pos hup, hdrain]; rfl

theorem invalidated_absent (s1 : State) (fn page : Nat) : (fn, page) ∈ (invalidated s1 fn page).host.absent := by
  simp only [invalidated]
  split
  · next hin => simpa using hin
  · exact List.mem_cons_self

theorem invalidated_tlb (s1 : State) (fn page : Nat) : ∀ e ∈ tlbAll (invalidated s1 fn page), e.hostHit s1 fn page = false := by
  intro e he
  have hkept := tlbAll_tlbKeep (s := s1) (f := fun e => !e.hostHit s1 fn page) he
  simpa using hkept

end

/-- What the host asks of the device: each request by its own law. -/
theorem hostRequests : HostRequests := by
  refine ⟨enabled_iff, ?doorbells, ?service, refused_iff, ?writes, ?pri, ?ats⟩
  case doorbells =>
    intro s fn q tail ide
    refine ⟨exec_qdoor_disabled q tail, exec_qdoor_refused q tail, fun he hr hq hact => ?own, exec_qdoor_foreign tail⟩
    exact ⟨_, _, exec_qdoor_own tail he hr hq hact, tget_tset_same .., rfl, moveTail_of_within, moveTail_of_beyond, fun k hk => tget_tset_ne _ _ hk⟩
  case service =>
    intro s fn i ide
    refine ⟨exec_sdoor_disabled i, exec_sdoor_refused i, exec_sdoor_own i, fun he hr hnone => ?_⟩
    rw [exec_sdoor_own i he hr, hnone, List.foldl_nil]
  case writes =>
    intro s fn pa bytes ide
    refine ⟨exec_hostPostedWrite_own fn bytes ide, exec_hostPostedWrite_disabled fn bytes ide, fun hpa he hmay => ?put, exec_hostPostedWrite_aborted⟩
    refine ⟨_, exec_hostPostedWrite_allowed hpa he hmay, rfl, fun p hp => ?_⟩
    obtain ⟨x, hx, hwho⟩ := noteWrite_notes (physPut s pa bytes) 264 pa bytes.length hp
    exact ⟨x, hx, hwho.trans (agentId_physPut ..)⟩
  case pri => exact fun s i => ⟨fun p => exec_priResponse_due, exec_priResponse_idle⟩
  case ats =>
    intro s fn page
    exact ⟨exec_atsInvalidation_idle, fun s1 hup hdrain =>
      ⟨_, exec_atsInvalidation_due hup hdrain, rfl, rfl, invalidated_absent s1 fn page, invalidated_tlb s1 fn page⟩⟩

/-! ### TDISP, keys and measurements (R354, R356, R362, R416, R422) -/

section

variable {s : State}

/-- A tenant enters RUN while functions are enabled. -/
theorem exec_tdispInterfaceRun_due {t : Nat} (ht : t < 16) (he : enabled s = true) :
    exec (.tdispInterfaceRun t) s = .next { s with host := { s.host with run := if s.host.run.contains t then s.host.run else t :: s.host.run } } := by
  change happen s (tdispInterfaceRunEvent t s) = _
  rw [tdispInterfaceRunEvent, if_pos ⟨ht, he⟩, happen_some]

theorem exec_tdispInterfaceRun_idle {t : Nat} (hno : 16 ≤ t ∨ enabled s = false) : exec (.tdispInterfaceRun t) s = .next s := by
  change happen s (tdispInterfaceRunEvent t s) = _
  rw [tdispInterfaceRunEvent, if_neg (not_lt_and_true hno), happen_none]

/-- A list with an element joined to it, unless it is there. -/
theorem mem_joined_iff (l : List Nat) (t x : Nat) : x ∈ (if l.contains t then l else t :: l) ↔ x = t ∨ x ∈ l := by
  split
  · next hin =>
    have hmem : t ∈ l := by simpa using hin
    exact ⟨.inr, fun h => h.elim (fun hx => hx ▸ hmem) id⟩
  · exact List.mem_cons

theorem exec_tdispLeaveRun_idle {t : Nat} (hout : t ∉ s.host.run) : exec (.tdispLeaveRun t) s = .next s := by
  change happen s (tdispLeaveRunEvent t s) = _
  rw [tdispLeaveRunEvent, if_neg (by simpa using hout), happen_none]

/-- Leaving RUN destroys the tenant's confidential contexts. -/
theorem exec_tdispLeaveRun_due {t : Nat} (hin : t ∈ s.host.run) :
    let s1 := { s with host := { s.host with run := s.host.run.filter (fun x => x != t) } }
    exec (.tdispLeaveRun t) s = .next ((confidentialOf s1 t).foldl destroyContext s1) := by
  change happen s (tdispLeaveRunEvent t s) = _
  rw [tdispLeaveRunEvent, if_pos (by simpa using hin), happen_some]

section

variable {slot t : Nat} (key : BitVec 256)

theorem exec_keyInstall_disabled (slot t : Nat) (he : enabled s = false) : exec (.keyInstall slot key t) s = .next s := by
  change happen s (keyInstallEvent slot key t s) = _
  rw [keyInstallEvent, if_pos he, happen_none]

/-- A slot that the tenant holds takes the key, and its counters start again. -/
theorem exec_keyInstall_held (he : enabled s = true) (hslot : slot < 64) (hholds : tenantHoldsKey s t slot = true) :
    exec (.keyInstall slot key t) s = .next { s with keys := tset s.keys slot key, ctrs := s.ctrs.filter (fun e => e.1 % 64 != slot) } := by
  change happen s (keyInstallEvent slot key t s) = _
  rw [keyInstallEvent, if_neg (by simp [he]), if_pos ⟨hslot, hholds⟩, happen_some]

theorem exec_keyInstall_foreign (he : enabled s = true) (hno : 64 ≤ slot ∨ tenantHoldsKey s t slot = false) :
    exec (.keyInstall slot key t) s = .next s := by
  change happen s (keyInstallEvent slot key t s) = _
  rw [keyInstallEvent, if_neg (by simp [he]), if_neg (not_lt_and_true hno), happen_some]

end

section

variable (fn : Nat)

theorem exec_spdmMeasurement_unpowered (hp : s.mgmt.powered = false) : exec (.spdmMeasurement fn) s = .next s := if_pos hp

theorem exec_spdmMeasurement_ready (hp : s.mgmt.powered = true) (hr : s.mgmt.ready = true) :
    exec (.spdmMeasurement fn) s =
      .next { s with host := { s.host with answers := s.host.answers ++ [measurement s fn ++ Config.spdmSignature fn (measurement s fn)] } } :=
  (if_neg (by simp [hp])).trans (if_pos hr)

theorem exec_spdmMeasurement_retried (hp : s.mgmt.powered = true) (hr : s.mgmt.ready = false) :
    exec (.spdmMeasurement fn) s = .next { s with host := { s.host with retried := s.host.retried + 1 } } :=
  (if_neg (by simp [hp])).trans (if_neg (by simp [hr]))

theorem exec_configurationRequest_idle (hno : s.mgmt.ready = true ∨ s.mgmt.powered = false) : exec (.configurationRequest fn) s = .next s :=
  if_pos (by simpa using hno)

theorem exec_configurationRequest_retried (hp : s.mgmt.powered = true) (hr : s.mgmt.ready = false) :
    exec (.configurationRequest fn) s = .next { s with host := { s.host with retried := s.host.retried + 1 } } :=
  if_neg (by simp [hp, hr])

/-- The physical function's measurement covers no context. -/
theorem measurement_physical (s : State) {fn : Nat} (hfn : 16 ≤ fn) :
    measurement s fn = Config.firmwareDigest s.mgmt.flash.running ++ Config.validatorDigest ++ [4, 5, 6, 7].flatMap (protoImage s) := by
  rw [measurement, if_neg (by omega), List.append_nil]

end

end

/-- What the security protocols ask of the device: each request by its own law. -/
theorem hostSecurity : HostSecurity := by
  refine ⟨?tdisp, ?keys, ?measurements⟩
  case tdisp =>
    intro s t
    refine ⟨fun ht he => ?run, exec_tdispInterfaceRun_idle, exec_tdispLeaveRun_idle, exec_tdispLeaveRun_due⟩
    exact ⟨_, exec_tdispInterfaceRun_due ht he, (mem_joined_iff s.host.run t t).2 (.inl rfl), mem_joined_iff s.host.run t, rfl⟩
  case keys =>
    intro s slot t key
    refine ⟨exec_keyInstall_disabled key slot t, fun he hslot hholds => ?held, exec_keyInstall_foreign key⟩
    refine ⟨_, exec_keyInstall_held key he hslot hholds, tget_tset_same .., fun k hk => tget_tset_ne _ _ hk, fun e he => ?_, rfl⟩
    simpa using (List.mem_filter.1 he).2
  case measurements =>
    intro s fn
    exact ⟨fun hp hr => ⟨_, exec_spdmMeasurement_ready fn hp hr, rfl, rfl⟩,
      fun hp => ⟨exec_spdmMeasurement_unpowered fn hp, exec_configurationRequest_idle fn (.inr hp)⟩, exec_spdmMeasurement_retried fn,
      fun hr => exec_configurationRequest_idle fn (.inl hr), exec_configurationRequest_retried fn, measurement_physical s⟩

/-- Settles O48: the requests of the host and those of the security protocols, each by the law of its event. -/
theorem hostRequestsAndSecurity : Obligations.HostRequestsAndSecurity := ⟨hostRequests, hostSecurity⟩

end Sys2Proof.Machine
end

section
/-! PROOF. The shipped protocol tables, PTLOAD and the validator (spec/07_coherence.md R199 to R207, 13_isolation.md R359, 18_package.md R422). -/

namespace Sys2Proof.Machine

open Sys2Proof Sys2Proof.Claims

/-! ### The shipped tables (R204, R205) -/

/-- Stage 5 measures nothing that could fail it. -/
theorem measuredFail_of_stage5 {s : State} (hstage : s.mgmt.stage = 5) (absent : List Nat) (dimms : List (List Nat)) (width rate : Nat) :
    measuredFail s absent dimms width rate = none := by
  simp [measuredFail, hstage]

/-- Stage 5 puts the tables that pass the validator into their slots, and context 0 into its own (R205, R343). -/
theorem exec_bootStage5 {s : State} (flights absent : List Nat) (dimms : List (List Nat)) (width rate : Nat) (image : List Byte)
    (hpow : s.mgmt.powered = true) (hhalt : s.mgmt.bootHalt = false) (hready : s.mgmt.ready = false) (hstage : s.mgmt.stage = 5) :
    exec (.bootStageComplete (.ok flights absent dimms width rate image)) s =
      .next { s with protos := shippedTables, ctxs := tset s.ctxs 0 { ctxParse image with tenant := none, conf := false, mgr := false },
                     mgmt := { s.mgmt with stage := 6 } } := by
  change happen s (bootStageCompleteEvent _ s) = _
  simp [bootStageCompleteEvent, hpow, hhalt, hready, measuredFail_of_stage5 hstage, stageDone, stageNext, hstage, bootTables_eq, happen]

/-- Settles O47: the tables entry by entry, and the boot stage that loads them. -/
theorem shippedProtocols : Obligations.ShippedProtocols := by
  refine ⟨?inv, ?mig, ?upd, ?won, rfl, rfl, rfl, rfl, rfl, ?boot⟩
  case inv | mig | upd | won =>
    intro st ev hst hev
    interval_cases st <;> interval_cases ev <;> rfl
  case boot =>
    intro s flights absent dimms width rate image hpow hhalt hready hstage
    exact ⟨_, exec_bootStage5 flights absent dimms width rate image hpow hhalt hready hstage, rfl, rfl, ⟨_, tget_tset_same .., rfl, rfl, rfl⟩, rfl⟩

/-! ### PTLOAD (R206, R359) -/

section

variable {s : State} {v : View} {h : Hdr}

/-- Outside context 0 PTLOAD raises PRIV. -/
theorem exec_ptload_tenant (hrun : GroupRuns s v h) (hctx : v.ctx ≠ 0) : exec (.ptload h) s = .next (takeTrap s v { cause := .priv, lanes := v.mask }) := by
  change execPtload h s = _
  rw [execPtload, groupWide_of_runs hrun, if_pos hctx]
  rfl

/-- A group whose load the validator has not ended waits on. -/
theorem exec_ptload_waiting (hrun : GroupRuns s v h) (hctx : v.ctx = 0) (hwait : s.priv.loads.any (fun x => x.1 == v.ag.blk && x.2.1 == v.ag.grp) = true) :
    exec (.ptload h) s = .next (stall s v .validator) := by
  change execPtload h s = _
  rw [execPtload, groupWide_of_runs hrun, if_neg (not_not.2 hctx), if_pos hwait]

section

variable (hrun : GroupRuns s v h) (hctx : v.ctx = 0) (hfirst : s.priv.loads.any (fun x => x.1 == v.ag.blk && x.2.1 == v.ag.grp) = false)
include hrun hctx hfirst

theorem exec_ptload_misaligned (hal : (v.r.kget h.a.toNat).toNat % 32 ≠ 0) :
    exec (.ptload h) s = .next (takeTrap s v { cause := .align, lanes := v.mask, addr := v.r.kget h.a.toNat }) := by
  change execPtload h s = _
  rw [execPtload, groupWide_of_runs hrun, if_neg (not_not.2 hctx), if_neg (by simp [hfirst]), if_pos (by simpa [alignedTo] using hal)]

theorem exec_ptload_fault (hal : (v.r.kget h.a.toNat).toNat % 32 = 0) {x : Cause} {va : Word}
    (hcause : (groupAccess s v (v.r.kget h.a.toNat) 1056 true false).cause = some (x, va)) :
    exec (.ptload h) s = .next (takeTrap s v (groupTrap v x va (groupAccess s v (v.r.kget h.a.toNat) 1056 true false).dom .sys false)) := by
  change execPtload h s = _
  rw [execPtload, groupWide_of_runs hrun, if_neg (not_not.2 hctx), if_neg (by simp [hfirst]), if_neg (by simpa [alignedTo] using hal)]
  simp only [hcause]

/-- The table is read, and waits for the validator. -/
theorem exec_ptload_reads (hal : (v.r.kget h.a.toNat).toNat % 32 = 0) (hcause : (groupAccess s v (v.r.kget h.a.toNat) 1056 true false).cause = none) :
    let c := groupAccess s v (v.r.kget h.a.toNat) 1056 true false
    let r := loadSpans (touchAll s v.core v.ctx c.spans false) v.core v.whole v.mask c.spans { dom := .seq, enc := .seq, sc := .sys }
    exec (.ptload h) s = .next (stall { r.1 with priv := { r.1.priv with loads := r.1.priv.loads ++ [(v.ag.blk, v.ag.grp, h.c.toNat, r.2.1)] } } v .validator) := by
  change execPtload h s = _
  rw [execPtload, groupWide_of_runs hrun, if_neg (not_not.2 hctx), if_neg (by simp [hfirst]), if_neg (by simpa [alignedTo] using hal)]
  simp only [hcause]

end

end

/-! ### The end of a PTLOAD (R206) -/

section

variable (s : State) (slot : Nat) (bs : List Byte)

/-- The status of a PTLOAD: 10 for a slot that an object names, before any check of the table (log 27). -/
def ptStatus : Nat := if slotInUse s slot then 10 else validate bs

/-- A PTLOAD leaves its status in PTSTAT, and its table in its slot under status 0. -/
theorem ptResult_eq : ptResult s slot bs = (let s1 := { s with priv := { s.priv with ptstat := ptStatus s slot bs } }
    if ptStatus s slot bs = 0 then { s1 with protos := tset s1.protos slot (protoOf bs) } else s1) := rfl

theorem ptResult_priv : (ptResult s slot bs).priv = { s.priv with ptstat := ptStatus s slot bs } := by
  rw [ptResult_eq]
  split <;> rfl

theorem ptResult_mem : (ptResult s slot bs).mem = s.mem := by
  rw [ptResult_eq]
  split <;> rfl

theorem viewOf_ptResult (ag : AgentRef) : viewOf (ptResult s slot bs) ag = viewOf s ag := by
  rw [ptResult_eq]
  split <;> rfl

theorem ptResult_accepted (hst : ptStatus s slot bs = 0) : tget (ptResult s slot bs).protos slot = some (protoOf bs) := by
  rw [ptResult_eq, if_pos hst]
  exact tget_tset_same ..

theorem ptResult_rejected (hst : ptStatus s slot bs ≠ 0) : (ptResult s slot bs).protos = s.protos := by rw [ptResult_eq, if_neg hst]

/-- The slots that a PTLOAD does not name keep their tables. -/
theorem ptResult_protos_ne {k : Nat} (hk : k ≠ slot) : tget (ptResult s slot bs).protos k = tget s.protos k := by
  rw [ptResult_eq]
  split
  · exact tget_tset_ne _ _ hk
  · rfl

end

/-- The validator ends the oldest load, and its group goes on. -/
theorem exec_validatorComplete_due {s : State} {b g slot : Nat} {bs : List Byte} {rest : List (Nat × Nat × Nat × List Byte)} {v : View}
    (hload : s.priv.loads = (b, g, slot, bs) :: rest) (hv : viewOf s { blk := b, grp := g, lane := none } = some v) :
    exec .validatorComplete s = .next (skip (ptResult { s with priv := { s.priv with loads := rest } } slot bs) v 8) := by
  have hview : viewOf (ptResult { s with priv := { s.priv with loads := rest } } slot bs) { blk := b, grp := g, lane := none } = some v :=
    (viewOf_ptResult ..).trans hv
  change happen s (validatorCompleteEvent s) = _
  rw [validatorCompleteEvent, hload]
  simp only [hview, happen_some]

theorem exec_validatorComplete_idle {s : State} (hload : s.priv.loads = []) : exec .validatorComplete s = .next s := by
  change happen s (validatorCompleteEvent s) = _
  rw [validatorCompleteEvent, hload, happen_none]

theorem protocolTableLoad : ProtocolTableLoad := by
  refine ⟨?load, ?ends, fun s => exec_validatorComplete_idle⟩
  case load =>
    intro s v h hrun
    exact ⟨exec_ptload_tenant hrun, exec_ptload_waiting hrun, fun hctx hfirst =>
      ⟨exec_ptload_misaligned hrun hctx hfirst, fun hal => ⟨fun _ _ => exec_ptload_fault hrun hctx hfirst hal, exec_ptload_reads hrun hctx hfirst hal⟩⟩⟩
  case ends =>
    intro s b g slot bs rest v hload hv
    exact ⟨_, exec_validatorComplete_due hload hv, congrArg Priv.ptstat (ptResult_priv ..), congrArg Priv.loads (ptResult_priv ..), ptResult_mem ..,
      fun hst => ptResult_accepted _ slot bs hst, fun hst => ptResult_rejected _ slot bs hst, fun k => ptResult_protos_ne _ slot bs⟩

/-! ### The validator (R207) -/

/-- A check that has not failed was passed. -/
theorem passed_of_status {b : Bool} {n x : Nat} (hn : n ≠ 0) (h : (if (!b) = true then n else x) = 0) : b = true ∧ x = 0 := by
  cases b with
  | true => exact ⟨rfl, h⟩
  | false => exact absurd h hn

/-- A check of every state and event of a table. -/
theorem all_pairs_iff (n : Nat) (f : Nat × Nat → Bool) :
    ((List.range n).flatMap (fun st => tableEvents.map (fun ev => (st, ev)))).all f = true ↔ ∀ st < n, ∀ ev < 11, f (st, ev) = true := by
  simp [tableEvents]

/-- What an accepted table has passed of checks 2, 3, 4, 7 and 8, in the order of the checks. -/
structure PassesChecks (t : Proto) : Prop where
  words  : ∀ i < 256, if i / 16 < t.states ∧ i % 16 < 11 then entryCodesOk (t.entries.getD i 0) t.states = true else t.entries.getD i 0 = 0
  answer : ∀ st < t.states, ∀ ev < 10, (t.entry st ev).resp ≠ 0 ∨ (t.entry st ev).fwd ≠ 0
  devict : ∀ st < t.states, (t.entry st 10).resp = 0 ∧ (t.entry st 10).fwd = 0 ∧ (t.entry st 10).shr = 4 ∧ (t.entry st 10).fan = 3 ∧ (t.entry st 10).next = 0 ∧
    (t.entry st 10).nxe = 0
  single : ∀ st < t.states, ∀ ev < 10, ¬ ((t.entry st ev).resp ≠ 0 ∧ (t.entry st ev).fwd ≠ 0)
  writes : ∀ st < t.states, ∀ ev < 11, check7 (t.entry st ev) ev = true
  grants : ∀ st < t.states, ∀ ev < 11, check8 (t.entry st ev) ev = true

theorem passesChecks_of_status {t : Proto} (h : tableStatus t = 0) : PassesChecks t := by
  unfold tableStatus at h
  obtain ⟨h2, h⟩ := passed_of_status (by decide) h
  obtain ⟨h3, h⟩ := passed_of_status (by decide) h
  obtain ⟨h4, h⟩ := passed_of_status (by decide) h
  obtain ⟨-, h⟩ := passed_of_status (by decide) h
  obtain ⟨-, h⟩ := passed_of_status (by decide) h
  obtain ⟨h7, h⟩ := passed_of_status (by decide) h
  have h8 : ((List.range t.states).flatMap (fun st => tableEvents.map (fun ev => (st, ev)))).all (fun x => check8 (t.entry x.1 x.2) x.2) = true := by
    by_contra hfail
    rw [if_pos (by simp [hfail])] at h
    cases h
  rw [all_pairs_iff] at h3 h4 h7 h8
  refine ⟨fun i hi => ?words, fun st hst ev hev => ?answer, fun st hst => ?devict, fun st hst ev hev => ?single, h7, h8⟩
  case words =>
    have hword := List.all_eq_true.1 h2 i (List.mem_range.2 hi)
    simp only at hword
    split
    · next hin => rwa [if_pos hin] at hword
    · next hout =>
      rw [if_neg hout] at hword
      exact beq_iff_eq.1 hword
  case answer => simpa [Nat.ne_of_lt hev] using h3 st hst ev (by omega)
  case devict => simpa [and_assoc] using h3 st hst 10 (by omega)
  case single => simpa [Nat.ne_of_lt hev, or_iff_not_imp_left] using h4 st hst ev (by omega)

/-- The codes of an entry in use (R200). -/
theorem codes_of_entryCodesOk {w : BitVec 32} {n : Nat} (h : entryCodesOk w n = true) :
    (pEntryOf w).next < n ∧ (pEntryOf w).nxe < n ∧ (pEntryOf w).resp ≤ 6 ∧ (pEntryOf w).fwd ≤ 2 ∧ (pEntryOf w).shr ≤ 5 := by
  simp only [entryCodesOk, Bool.and_eq_true, decide_eq_true_eq] at h
  obtain ⟨⟨⟨⟨⟨-, hshr⟩, hfwd⟩, hresp⟩, hnxe⟩, hnext⟩ := h
  exact ⟨hnext, hnxe, hresp, hfwd, hshr⟩

theorem check7_writes {e : PEntry} {ev : Nat} (h : check7 e ev = true) : (e.wr = true ↔ ev = 5 ∨ ev = 7 ∨ ev = 9) ∧ (e.at_ = true ↔ ev = 8) := by
  simp only [check7, Bool.and_eq_true, beq_iff_eq] at h
  obtain ⟨⟨hwr, hat⟩, -⟩ := h
  simp [hwr, hat, or_assoc]

/-- PUTX_N and PUTS grant nothing (check 8). -/
theorem check8_grants {e : PEntry} {ev : Nat} (h : check8 e ev = true) (hev : ev = 4 ∨ ev = 6) : e.fwd = 0 ∧ e.resp ≠ 1 ∧ e.resp ≠ 2 ∧ e.resp ≠ 3 := by
  rcases hev with rfl | rfl <;> simp [check8] at h <;> tauto

section

variable {t : Proto} (hc : PassesChecks t)
include hc

/-- Entries that are not in use are zero. -/
theorem PassesChecks.entry_unused {st ev : Nat} (hst : st < 16) (hev : ev < 16) (hout : ¬ (st < t.states ∧ ev < 11)) : t.entries.getD (st * 16 + ev) 0 = 0 := by
  have hword := hc.words (st * 16 + ev) (by omega)
  rwa [show (st * 16 + ev) / 16 = st by omega, show (st * 16 + ev) % 16 = ev by omega, if_neg hout] at hword

/-- Entries in use have legal codes. -/
theorem PassesChecks.entry_codes (hstates : t.states ≤ 16) {st ev : Nat} (hst : st < t.states) (hev : ev < 11) : entryCodesOk (t.entries.getD (st * 16 + ev) 0) t.states = true := by
  have hword := hc.words (st * 16 + ev) (by omega)
  rwa [show (st * 16 + ev) / 16 = st by omega, show (st * 16 + ev) % 16 = ev by omega, if_pos ⟨hst, hev⟩] at hword

end

theorem validatorAccepts : ValidatorAccepts := by
  intro bs hval
  unfold validate at hval
  simp only at hval
  split at hval
  · cases hval
  next hhead =>
    simp only [not_or, not_not, not_lt] at hhead
    obtain ⟨hmagic, hformat, hlo, hhi, -, -⟩ := hhead
    have hc := passesChecks_of_status hval
    refine ⟨hmagic, hformat, hlo, hhi, fun st ev => hc.entry_unused, fun st ev hst hev => ?entries, hc.devict⟩
    case entries =>
      have hin : ev < 11 := by omega
      obtain ⟨hnext, hnxe, hresp, hfwd, hshr⟩ := codes_of_entryCodesOk (hc.entry_codes hhi hst hin)
      obtain ⟨hwr, hat⟩ := check7_writes (hc.writes st hst ev hin)
      exact ⟨hc.answer st hst ev hev, hc.single st hst ev hev, hnext, hnxe, hresp, hfwd, hshr, hwr, hat, check8_grants (hc.grants st hst ev hin)⟩

/-- Settles O34: PTLOAD by the law of each of its ends, and the validator by what the checks have passed. -/
theorem protocolTables : Obligations.ProtocolTables := ⟨protocolTableLoad, validatorAccepts⟩

end Sys2Proof.Machine
end

section
/-! PROOF. Management registers, throttling, replays of die-to-die links and wear (spec/07_coherence.md R210, 13_isolation.md R361, 14_recovery.md R383,
18_package.md R415, R416, R423, R424). -/

namespace Sys2Proof.Machine

open Sys2Proof Sys2Proof.Claims

section

variable {s : State}

/-! ### PLIM, SWCTL and the firmware image (R361, R415, R424) -/

theorem exec_plimWrite_legal {watts : Nat} (h : 1000 ≤ watts ∧ watts ≤ 2200 ∧ watts % 10 = 0) :
    exec (.plimWrite watts) s = .next { s with mgmt := { s.mgmt with plim := watts } } := congrArg Host.Outcome.next (if_pos h)

theorem exec_plimWrite_illegal {watts : Nat} (h : ¬ (1000 ≤ watts ∧ watts ≤ 2200 ∧ watts % 10 = 0)) : exec (.plimWrite watts) s = .next s :=
  congrArg Host.Outcome.next (if_neg h)

theorem exec_swctlWrite_legal {x : Word} (h : x.toNat % 2 ^ 20 < x.toNat / 2 ^ 20 % 2 ^ 20 ∧ x.toNat / 2 ^ 20 % 2 ^ 20 ≤ 8192) :
    exec (.swctlWrite x) s = .next { s with priv := { s.priv with swctl := x &&& 0x800000FFFFFFFFFF#64 } } := by
  change Host.Outcome.next { s with priv := swctlWrite s.priv x } = _
  rw [swctlWrite, if_pos ((swctlOk_iff x).2 h)]

theorem exec_swctlWrite_illegal {x : Word} (h : ¬ (x.toNat % 2 ^ 20 < x.toNat / 2 ^ 20 % 2 ^ 20 ∧ x.toNat / 2 ^ 20 % 2 ^ 20 ≤ 8192)) :
    exec (.swctlWrite x) s = .next s := by
  change Host.Outcome.next { s with priv := swctlWrite s.priv x } = _
  rw [swctlWrite, if_neg fun hok => h ((swctlOk_iff x).1 hok)]

/-! ### REGISTER_WRITE (R22, R252, R253, R294, R418, R423, R424) -/

/-- Dies without power take no write but what their sensors read (R416). -/
theorem exec_registerWrite_unpowered {r : RegWriteTarget} (hp : s.mgmt.powered = false) (hr : ∀ x, r ≠ .sensors x) : exec (.registerWrite r) s = .next s := by
  refine congrArg Host.Outcome.next ((if_pos hp).trans ?_)
  cases r with
  | sensors x => exact absurd rfl (hr x)
  | _ => rfl

theorem exec_registerWrite_sensors (x : Sensors) : exec (.registerWrite (.sensors x)) s = .next { s with mgmt := { s.mgmt with sensors := x } } :=
  congrArg Host.Outcome.next (ite_self _)

section

variable (hp : s.mgmt.powered = true)
include hp

/-- A powered device takes each write by the rule of its register. -/
theorem exec_registerWrite_powered (r : RegWriteTarget) : exec (.registerWrite r) s = .next (match r with
    | .fsched x => fabricWrite s (fun f => f.setFsched x)
    | .fepoch x => fabricWrite s (fun f => { f with t0 := x.toNat, slotNow := 0 })
    | .slot n fib x => fabricWrite s (fun f => f.setSlot n fib x)
    | .route d x => routeWrite s d x
    | .device n => { s with mgmt := { s.mgmt with device := n % 1024 } }
    | .quantum us => if 10 ≤ us ∧ us ≤ 1000 then { s with mgmt := { s.mgmt with quantumUs := us } } else s
    | .bootst _ => s
    | .swrq x => { s with priv := { s.priv with swrq := x } }
    | .swhead x => { s with priv := s.priv.setHead x.toNat }
    | .swft x => { s with priv := { s.priv with swft := x } }
    | .bar0 fn off x => bar0Write s fn off x
    | .sensors x => { s with mgmt := { s.mgmt with sensors := x } }) :=
  congrArg Host.Outcome.next (if_neg (by simp [hp]))

theorem exec_registerWrite_quantum_legal {n : Nat} (hlo : 10 ≤ n) (hhi : n ≤ 1000) :
    exec (.registerWrite (.quantum n)) s = .next { s with mgmt := { s.mgmt with quantumUs := n } } :=
  (exec_registerWrite_powered hp _).trans (congrArg _ (if_pos ⟨hlo, hhi⟩))

theorem exec_registerWrite_quantum_illegal {n : Nat} (h : n < 10 ∨ 1000 < n) : exec (.registerWrite (.quantum n)) s = .next s :=
  (exec_registerWrite_powered hp _).trans (congrArg _ (if_neg (by omega)))

end

/-- A port that is not quiesced takes no write of its schedule (R252). -/
theorem fabricWrite_busy (hq : s.fab.quiesced = false) (f : Fabric → Fabric) : fabricWrite s f = s := if_neg (by simp [hq])

theorem fabricWrite_quiesced (hq : s.fab.quiesced = true) (f : Fabric → Fabric) : fabricWrite s f = { s with fab := f s.fab } := if_pos hq

theorem routeWrite_free {n : Nat} (y : BitVec 16) (hf : s.fab.routeFree n = true) : routeWrite s n y = { s with fab := s.fab.setRoute n y } := if_pos hf

theorem routeWrite_busy {n : Nat} (y : BitVec 16) (hf : s.fab.routeFree n = false) : routeWrite s n y = s := if_neg (by simp [hf])

/-! ### Doorbells in BAR0 (R418) -/

theorem bar0Write_qdoor (fn : HostFn) {x : List Byte} (he : enabled s = true) (hx : x.length = 8) :
    .next (bar0Write s fn 0 x) = exec (.qdoor fn (fromBytes x / 2 ^ 48 % 4096) (fromBytes x % 2 ^ 48)) s := by
  simp only [bar0Write, he, hx, Bool.true_eq_false, if_false, and_self, if_true]
  rfl

theorem bar0Write_sdoor (fn : HostFn) {x : List Byte} (he : enabled s = true) (hx : x.length = 8) :
    .next (bar0Write s fn 8 x) = exec (.sdoor fn (fromBytes x % 2 ^ 48)) s := by
  simp only [bar0Write, he, hx, Bool.true_eq_false, if_false, and_self, if_true, OfNat.ofNat_ne_zero, false_and]
  rfl

/-! ### Throttling (R416) and wear (R383) -/

theorem exec_thermalThrottle (die : Nat) : ∃ t, exec (.thermalThrottle die) s = .next t ∧ { t with mgmt := s.mgmt } = s ∧ die ∈ t.mgmt.throttled :=
  ⟨_, rfl, rfl, (mem_joined_iff s.mgmt.throttled die die).2 (.inl rfl)⟩

theorem exec_thermalThrottleEnd (die : Nat) : ∃ t, exec (.thermalThrottleEnd die) s = .next t ∧ { t with mgmt := s.mgmt } = s ∧ die ∉ t.mgmt.throttled :=
  ⟨_, rfl, rfl, fun hin => by simpa using (List.mem_filter.1 hin).2⟩

/-- WEAR after a refresh: it never falls, and a measurement raises it to 1,000 at most. -/
def wearAfter (old new : BitVec 10) : Nat := max old.toNat (min 1000 new.toNat)

theorem wearAfter_toNat (old new : BitVec 10) : (BitVec.ofNat 10 (wearAfter old new)).toNat = wearAfter old new := by
  have hold := old.isLt
  rw [BitVec.toNat_ofNat, Nat.mod_eq_of_lt (by unfold wearAfter; omega)]

theorem exec_ageingRefresh_idle {die : Nat} (m : Ageing) (hdie : 4 < die) : exec (.ageingRefresh die m) s = .next s := by
  change happen s (ageingRefreshEvent die m s) = _
  rw [ageingRefreshEvent, if_pos hdie, happen_none]

/-- What a refresh leaves of a die's indicators (R383). -/
theorem exec_ageingRefresh_due {die : Nat} (m : Ageing) (hdie : die ≤ 4) :
    ∃ t a, exec (.ageingRefresh die m) s = .next t ∧ tget t.mgmt.ageing die = some a ∧ { t with mgmt := s.mgmt } = s ∧ a.rod = m.rod ∧
      a.wear = BitVec.ofNat 10 (wearAfter (ageingOf s.mgmt die).wear m.wear) ∧
      a.eol = (if wearAfter (ageingOf s.mgmt die).wear m.wear = 1000 then 0 else m.eol) ∧ (die < 4 → a.widx = 0 ∧ a.lbd = 0) := by
  change ∃ t a, happen s (ageingRefreshEvent die m s) = _ ∧ _
  rw [ageingRefreshEvent, if_neg (by omega)]
  exact ⟨_, _, rfl, tget_tset_same .., rfl, rfl, rfl, rfl, fun hlt => ⟨if_neg (by omega), if_neg (by omega)⟩⟩

end

/-- Settles O50: each register by the law of its write. -/
theorem managementRegisters : Obligations.ManagementRegisters := by
  refine ⟨fun s watts => ⟨exec_plimWrite_legal, exec_plimWrite_illegal⟩, fun s x => ⟨exec_swctlWrite_legal, exec_swctlWrite_illegal⟩,
    fun s bytes => ⟨_, rfl, rfl, rfl, rfl⟩, fun s r => exec_registerWrite_unpowered, fun s x => exec_registerWrite_sensors x, ?bar0, ?registers, ?dies, ?wear⟩
  case bar0 =>
    intro s fn off x hp
    refine ⟨exec_registerWrite_powered hp _, fun he hx => ⟨?_, ?_⟩⟩
    · rintro rfl
      exact (exec_registerWrite_powered hp _).trans (bar0Write_qdoor fn he hx)
    · rintro rfl
      exact (exec_registerWrite_powered hp _).trans (bar0Write_sdoor fn he hx)
  case registers =>
    intro s n x hp
    have hw := exec_registerWrite_powered hp
    refine ⟨hw _, hw _, exec_registerWrite_quantum_legal hp, exec_registerWrite_quantum_illegal hp, hw _, hw _, hw _, rfl, fun hq => ?busy, fun hq => ?quiesced,
      fun y => ⟨fun hf => (hw _).trans (congrArg _ (routeWrite_free y hf)), fun hf => (hw _).trans (congrArg _ (routeWrite_busy y hf))⟩⟩
    case busy =>
      have hkeep := fun f => congrArg (Host.Outcome.next (φ := Fault) (ρ := Refusal)) (fabricWrite_busy hq f)
      exact ⟨(hw _).trans (hkeep _), (hw _).trans (hkeep _), fun f y => (hw _).trans (hkeep _)⟩
    case quiesced =>
      have htake := fun f => congrArg (Host.Outcome.next (φ := Fault) (ρ := Refusal)) (fabricWrite_quiesced hq f)
      exact ⟨(hw _).trans (htake _), (hw _).trans (htake _), fun f y => (hw _).trans (htake _)⟩
  case dies => exact fun s die link => ⟨exec_thermalThrottle die, exec_thermalThrottleEnd die, _, rfl, rfl⟩
  case wear =>
    intro s die m
    refine ⟨exec_ageingRefresh_idle m, fun hdie => ?_, fun hnone => by rw [ageingOf, hnone]; rfl⟩
    obtain ⟨t, a, hexec, hget, hframe, hrod, hwear, heol, hlaser⟩ := exec_ageingRefresh_due (s := s) m hdie
    have hnat : a.wear.toNat = wearAfter (ageingOf s.mgmt die).wear m.wear := by rw [hwear, wearAfter_toNat]
    refine ⟨t, a, hexec, hget, hframe, hrod, fun hworn => ?ends, hlaser, ?rises, fun hold => ?bounded⟩
    case ends => rw [heol, if_pos (by rw [← hnat, hworn]; rfl)]
    case rises =>
      rw [BitVec.le_def, hnat]
      exact le_max_left _ _
    case bounded =>
      rw [BitVec.le_def, hnat]
      exact max_le hold (min_le_left _ _)

end Sys2Proof.Machine
end

section
/-! PROOF. Requests at a home: who may ask, what waits, what is held, what is answered at once, and evictions (spec/07_coherence.md R193, R196, R200, R201,
R203, R208, R209). -/

namespace Sys2Proof.Machine

open Sys2Proof Sys2Proof.Claims

/-! ### What a requester may ask (R201) -/

section

variable {s : State} {h : HomeRef} {r : HeldReq}

/-- The tracked copy that the requester's cache has of the sector. -/
def trackedCopy (s : State) (h : HomeRef) (r : HeldReq) : Option CSector := (cacheGet s (childCache h r.child) r.sec).filter (fun x => x.mode == .trk)

/-- The permission of the tracked copy, as `mayAsk` reads it. -/
theorem permission_of_copy : (cacheGet s (childCache h r.child) r.sec).bind (fun x => if x.mode = .trk then some x.perm else none) =
    (trackedCopy s h r).map (fun x => x.perm) := by
  cases hx : cacheGet s (childCache h r.child) r.sec with
  | none => simp [trackedCopy, hx]
  | some x => by_cases hmode : x.mode = .trk <;> simp [trackedCopy, hx, hmode]

/-- A requester with a cache asks by what the cache has. -/
theorem mayAsk_of_cached (hc : h ≠ .l2 ∨ r.child < 64) : mayAsk s h r =
    (if r.event ≤ 1 then (trackedCopy s h r).isNone
     else if r.event ≤ 3 then (trackedCopy s h r).any (fun x => x.perm != .own)
     else if r.event = 7 then (trackedCopy s h r).any (fun x => x.perm == .writeThrough) else true) := by
  have hcached : (h != .l2 || decide (r.child < 64)) = true := by simpa using hc
  simp only [mayAsk, hcached, if_true, permission_of_copy]
  cases trackedCopy s h r <;> simp [bne]

/-- A requester without a cache asks for no copy. -/
theorem mayAsk_of_uncached (hc : ¬ (h ≠ .l2 ∨ r.child < 64)) : mayAsk s h r = decide (3 < r.event) := by
  have hcached : (h != .l2 || decide (r.child < 64)) = false := by simpa using hc
  by_cases hone : r.event ≤ 1
  · simp [mayAsk, hcached, hone]; omega
  · by_cases hthree : r.event ≤ 3 <;> simp [mayAsk, hcached, hone, hthree]; omega

theorem mayAsk_copy_iff (hev : r.event = 0 ∨ r.event = 1) : mayAsk s h r = true ↔ (h ≠ .l2 ∨ r.child < 64) ∧ trackedCopy s h r = none := by
  by_cases hc : h ≠ .l2 ∨ r.child < 64
  · rw [mayAsk_of_cached hc, if_pos (by omega)]
    simp [hc]
  · rw [mayAsk_of_uncached hc]
    simp [hc]; omega

theorem mayAsk_upgrade_iff (hev : r.event = 2) : mayAsk s h r = true ↔ (h ≠ .l2 ∨ r.child < 64) ∧ ∃ x, trackedCopy s h r = some x ∧ x.perm ≠ .own := by
  by_cases hc : h ≠ .l2 ∨ r.child < 64
  · rw [mayAsk_of_cached hc, if_neg (by omega), if_pos (by omega)]
    simp [hc, Option.any_eq_true]
  · rw [mayAsk_of_uncached hc]
    simp [hc]; omega

theorem mayAsk_through_iff (hev : r.event = 7) :
    mayAsk s h r = true ↔ (h ≠ .l2 ∨ r.child < 64 → ∃ x, trackedCopy s h r = some x ∧ x.perm = .writeThrough) := by
  by_cases hc : h ≠ .l2 ∨ r.child < 64
  · rw [mayAsk_of_cached hc, if_neg (by omega), if_neg (by omega), if_pos hev]
    simp [hc, Option.any_eq_true]
  · rw [mayAsk_of_uncached hc]
    simp [hc]; omega

theorem mayAsk_home (hev : r.event = 8 ∨ r.event = 9) : mayAsk s h r = true := by
  by_cases hc : h ≠ .l2 ∨ r.child < 64
  · rw [mayAsk_of_cached hc, if_neg (by omega), if_neg (by omega), if_neg (by omega)]
  · rw [mayAsk_of_uncached hc]
    simp; omega

/-! ### How a request leaves (R193, R203, R209) -/

/-- The request of each event, and whose it is. -/
theorem exec_requestForms (s : State) (h : HomeRef) (child : Nat) (tag : ObjTag) (sec : Nat) (w : SecWrite) (op : HomeAtomic) :
    ∀ e ∈ requestForms h child tag sec w op, exec e.1 s = happen s (requestAt s h e.2) ∧ e.2.child = child := by
  intro e he
  simp only [requestForms, List.mem_cons, List.not_mem_nil, or_false] at he
  rcases he with rfl | rfl | rfl | rfl | rfl | rfl <;> exact ⟨rfl, rfl⟩

theorem requestAt_sent (hchild : childOk h r.child = true) (hask : mayAsk s h r = true) (hback : backPending s h r.child r.sec = false) :
    requestAt s h r = some (arriveLast (sendRequest s h r)) := if_pos (by simp [hchild, hask, hback])

theorem requestAt_unsent (hno : ¬ (childOk h r.child = true ∧ mayAsk s h r = true ∧ backPending s h r.child r.sec = false)) : requestAt s h r = none :=
  if_neg (by simpa [and_assoc] using hno)

theorem noteSent_reqs (s : State) (h : HomeRef) (r : HeldReq) : (noteSent s h r).reqs = s.reqs := by
  simp only [noteSent, apply_ite State.reqs, ite_self]

theorem sendReq_eq (s : State) (h : HomeRef) (r : HeldReq) : sendReq s h r = { noteSent s h r with reqs := s.reqs ++ [(h, r)] } := by
  rw [sendReq, noteSent_reqs]

/-- A tracked copy is none that an SIV mapping has. -/
theorem sivLeave_tracked {c : CacheRef} {sec : Nat} {x : CSector} (hx : cacheGet s c sec = some x) (hmode : x.mode = .trk) : sivLeave s c sec = s := by
  simp [sivLeave, hx, hmode]

/-- A cluster cache that owns a sector takes nothing more (R193). -/
theorem ccEnsure_owned {n sec : Nat} {x : CSector} (hx : cacheGet s (.cc n) sec = some x) (hmode : x.mode = .trk) (hperm : x.perm = .own)
    (hback : backPending s .l2 n sec = false) (tag : ObjTag) (d : Dom) (own : Bool) (hor : Nat) : ccEnsure s n tag sec d own hor = s := by
  simp [ccEnsure, hback, sivLeave_tracked hx hmode, hx, hperm]

/-- A cluster cache that owns the sector passes the request to its own engine. -/
theorem sendRequest_owned {n : Nat} {x : CSector} (hx : cacheGet s (.cc n) r.sec = some x) (hmode : x.mode = .trk) (hperm : x.perm = .own)
    (hback : backPending s .l2 n r.sec = false) : sendRequest s (.cc n) r = { noteSent s (.cc n) r with reqs := s.reqs ++ [(.cc n, r)] } := by
  rw [← sendReq_eq]
  change ccAsk s n r 0 = _
  simp only [ccAsk, ccEnsure_owned hx hmode hperm hback, ite_self]

/-- A cluster cache takes the copy and the permission that its answer grants before it sends the request to its own engine. -/
theorem sendRequest_ensured {n : Nat} (hev : r.event ∈ [1, 2, 3]) :
    let s1 := ccEnsure s n r.tag r.sec r.dom (ccGrants s n r) 0
    sendRequest s (.cc n) r = { noteSent s1 (.cc n) r with reqs := s1.reqs ++ [(.cc n, r)] } := by
  intro s1
  rw [← sendReq_eq]
  exact if_pos (by simpa using hev)

/-! ### How a request arrives (R209) -/

theorem reqReady_iff (s : State) (i : Nat) (x : HomeRef × HeldReq) :
    reqReady s i x = true ↔ ¬ (x.2.dom ∈ [Dom.seq, .tso, .cau] ∧ ∃ y ∈ s.reqs.take i, samePair x y = true) := by
  rw [reqReady, Bool.not_eq_true', ← Bool.not_eq_true]
  simp [domFifo, or_assoc]

theorem arriveReq_of_ready {i : Nat} {x : HomeRef × HeldReq} (hx : s.reqs[i]? = some x) (hr : reqReady s i x = true) :
    arriveReq s i = homeRequest { s with reqs := s.reqs.eraseIdx i } x.1 x.2 := by
  rw [arriveReq, hx]
  exact if_pos hr

theorem arriveReq_of_behind {i : Nat} {x : HomeRef × HeldReq} (hx : s.reqs[i]? = some x) (hr : ¬ reqReady s i x = true) : arriveReq s i = s := by
  rw [arriveReq, hx]
  exact if_neg hr

end

/-! ### Evictions (R201, R203) -/

section

variable {s : State} {h : HomeRef} {child : Nat} {tag : ObjTag}

/-- A cache with dirty copies, or with none, makes the one eviction. -/
theorem evictAt_due {sec : Nat} {dirty : Bool} (hchild : childOk h child = true) (hheld : heldPiece s h child (pieceOf s tag sec).2 ≠ [])
    (hany : (heldPiece s h child (pieceOf s tag sec).2).any (fun x => x.dirty != 0) = dirty) :
    evictAt s dirty h child tag sec = some (arriveLast (evictPiece s h child tag (pieceOf s tag sec).2)) :=
  if_pos (by rw [hchild, hany]; simpa using hheld)

/-- It does not make the other one. -/
theorem evictAt_other {sec : Nat} {dirty : Bool} (hany : (heldPiece s h child (pieceOf s tag sec).2).any (fun x => x.dirty != 0) = !dirty) :
    evictAt s dirty h child tag sec = none :=
  if_neg (by rw [hany]; simp)

theorem evictAt_of_none {sec : Nat} (hno : childOk h child = false ∨ heldPiece s h child (pieceOf s tag sec).2 = []) (dirty : Bool) :
    evictAt s dirty h child tag sec = none := by
  refine if_neg ?_
  rcases hno with hchild | hheld
  · simp [hchild]
  · simp [hheld]

/-- No copy of a list is dirty. -/
theorem any_dirty_false_iff (xs : List CSector) : xs.any (fun x => x.dirty != 0) = false ↔ ∀ x ∈ xs, x.dirty = 0 := by simp

/-- A write-back is no request that the cache waits for (R203). -/
theorem noteSent_writeBack {r : HeldReq} (hev : r.event = 4 ∨ r.event = 5) : noteSent s h r = s := by
  rcases hev with hev | hev <;> simp [noteSent, hev]

theorem sendReq_writeBack {r : HeldReq} (hev : r.event = 4 ∨ r.event = 5) : sendReq s h r = { s with reqs := s.reqs ++ [(h, r)] } := by
  rw [sendReq_eq, noteSent_writeBack hev]

/-- The event of an eviction is PUTS or PUTX. -/
theorem putEvent (dirty : List CSector) : (if dirty = [] then 4 else 5) = 4 ∨ (if dirty = [] then 4 else 5) = 5 := by
  by_cases hnil : dirty = [] <;> simp [hnil]

/-- The state in which a cache gives up a piece: a cluster cache has recalled its L1s (R203). -/
def recalledFor (s : State) (h : HomeRef) (child : Nat) (piece : List Nat) : State := match h with | .l2 => ccRecall s child piece | .cc _ => s

/-- What a cache does with the copies that it holds of a piece. -/
def giveUp (s0 : State) (h : HomeRef) (child : Nat) (tag : ObjTag) (piece : List Nat) (xs : List CSector) : State :=
  match xs with
  | [] => s0
  | x :: _ =>
    let dirty := xs.filter (fun y => y.dirty != 0)
    let s1 := cacheDrop s0 (childCache h child) (xs.map (fun y => y.sec))
    sendReq { s1 with wbacks := s1.wbacks ++ [{ home := h, child := child, piece := piece, xs := xs }] } h
      { event := if dirty = [] then 4 else 5, child := child, tag := tag, sec := x.sec, dom := dirty.foldl (fun d y => strongest d y.net) .bulk, ws := dirty.map dirtyWrite,
        op := none }

theorem evictPiece_eq (s : State) (h : HomeRef) (child : Nat) (tag : ObjTag) (piece : List Nat) :
    evictPiece s h child tag piece = giveUp (recalledFor s h child piece) h child tag piece (heldPiece s h child piece) := by
  cases h <;> simp only [evictPiece, List.isEmpty_iff] <;> rfl

/-- The copies that a cache holds stand in its write-back buffer, and the write-back is on its way. -/
theorem evictPiece_of_held {piece : List Nat} {x : CSector} {rest : List CSector} (hheld : heldPiece s h child piece = x :: rest) :
    let dirty := (x :: rest).filter (fun y => y.dirty != 0)
    let s1 := cacheDrop (recalledFor s h child piece) (childCache h child) ((x :: rest).map (fun y => y.sec))
    evictPiece s h child tag piece = { s1 with wbacks := s1.wbacks ++ [{ home := h, child := child, piece := piece, xs := x :: rest }], reqs := s1.reqs ++ [(h,
      { event := if dirty = [] then 4 else 5, child := child, tag := tag, sec := x.sec, dom := dirty.foldl (fun d y => strongest d y.net) .bulk, ws := dirty.map dirtyWrite, op := none })] } := by
  intro dirty s1
  rw [evictPiece_eq, hheld]
  exact sendReq_writeBack (putEvent dirty)

end

/-! ### Directory entries (R208) -/

section

variable {s : State} {h : HomeRef}

theorem tget_terase_same {α : Type} (m : Table α) (k : Nat) : tget (terase m k) k = none := by
  induction m with
  | nil => rfl
  | cons e m ih =>
    obtain ⟨j, y⟩ := e
    by_cases hjk : j = k
    · simpa [terase, hjk] using ih
    · simpa [terase, hjk, tget] using ih

/-- An entry that is written reads back, but for the time of its use; one that is freed reads as state 0 with nobody (R208). -/
theorem dirGet_dirPut (s : State) (h : HomeRef) (d : DirEntry) (slot : Nat) :
    dirGet (dirPut s h d) h slot d.piece =
      if (d.st = 0 && d.owner.isNone && d.sharers = 0 && !d.busy) = true then DirEntry.fresh slot d.piece else { d with used := s.now } := by
  simp only [dirGet, dirPut, dirOf, tget_tset_same, Option.getD_some]
  split
  · rw [tget_terase_same]; rfl
  · rw [tget_tset_same]; rfl

/-- State, owner and sharers of an entry read back as written. -/
theorem dirGet_dirPut_fields (s : State) (h : HomeRef) {d : DirEntry} (slot : Nat) {piece : List Nat} (hpiece : d.piece = piece) :
    (dirGet (dirPut s h d) h slot piece).owner = d.owner ∧ (dirGet (dirPut s h d) h slot piece).sharers = d.sharers ∧
      (dirGet (dirPut s h d) h slot piece).st = d.st := by
  subst hpiece
  rw [dirGet_dirPut]
  split
  · next hfree =>
    simp only [Bool.and_eq_true, decide_eq_true_eq, Option.isNone_iff_eq_none] at hfree
    obtain ⟨⟨⟨hst, hown⟩, hshr⟩, -⟩ := hfree
    exact ⟨hown.symm, hshr.symm, hst.symm⟩
  · exact ⟨rfl, rfl, rfl⟩

/-! ### Requests that a home holds, and those that it applies (R203, R208) -/

/-- With room in its set and no piece that it overlaps, a request reaches the engine of its piece as the directory stands. -/
theorem homeRequest_served {r : HeldReq} (hset : h = .l2 → setFull s (servedPiece s h r).2 = false ∧ dirVictim s (pieceKey (servedPiece s h r).2) = none)
    (hconf : dirConflicts s h (servedPiece s h r).2 = []) :
    homeRequest s h r = engineApply (homeWriter h) s h (servedPiece s h r).1 (servedPiece s h r).2 r := by
  cases h with
  | l2 =>
    obtain ⟨hroom, hvictim⟩ := hset rfl
    change l2Request s r = _
    simp only [l2Request, hroom, hconf, List.foldl_nil, hvictim]
    rfl
  | cc n =>
    change ccRequest s n r = _
    simp only [ccRequest, hconf, List.foldl_nil]
    rfl

section

variable {wr : State → SecWrite → State} {slot : Nat} {piece : List Nat} {r : HeldReq}

/-- A request behind a piece in progress, or whose owner's data is on its way, is held in arrival order. -/
theorem engineApply_held (hbusy : (dirGet s h slot piece).acks ≠ 0 ∨ (dirGet s h slot piece).held ≠ [] ∨ dataOwed s h piece = true) :
    engineApply wr s h slot piece r = dirPut s h { dirGet s h slot piece with held := (dirGet s h slot piece).held ++ [r] } := by
  by_cases hheld : (dirGet s h slot piece).held = []
  · have hstop : ((dirGet s h slot piece).acks != 0 || dataOwed s h piece) = true := by simpa [hheld] using hbusy
    simp [engineApply, engineRuns, hheld, hstop]
  · simp [engineApply, hheld]

/-- A request that nothing holds back is applied. -/
theorem engineApply_idle (hacks : (dirGet s h slot piece).acks = 0) (hheld : (dirGet s h slot piece).held = []) (howed : dataOwed s h piece = false) :
    engineApply wr s h slot piece r = engineRun wr s h (dirGet s h slot piece) r := by
  simp [engineApply, engineRuns, hacks, hheld, howed]

end

/-! ### A request that the home answers at once (R200) -/

theorem shrOp_slot (d : DirEntry) (shr c : Nat) : (shrOp d shr c).slot = d.slot := by unfold shrOp; simp only; split <;> rfl
theorem shrOp_piece (d : DirEntry) (shr c : Nat) : (shrOp d shr c).piece = d.piece := by unfold shrOp; simp only; split <;> rfl

/-- The message by which a home answers with the data of a piece: DATA_S, DATA_SW or DATA_E (R202). -/
def dataKind (resp : Nat) : MsgKind := if resp = 1 then .dataS else if resp = 2 then .dataSW else .dataE

/-- An entry that writes nothing and forwards nothing answers with the data that the home has. -/
theorem engineFinish_answers {e : PEntry} (hwr : e.wr = false) (hat : e.at_ = false) (hfwd : e.fwd = 0) (hresp : e.resp ∈ [1, 2, 3])
    (wr : State → SecWrite → State) (s : State) (h : HomeRef) (old d : DirEntry) (r : HeldReq) (n : Nat) :
    engineFinish wr s h old d r e n =
      dirPut (sendMsg s { Msg.blank (dataKind e.resp) h r.child d.slot d.piece r.sec r.tag s.now with data := d.piece.map (fun x => (x, homeSector s h x)), acks := n }) h
        { d with st := if d.owner.isNone && d.sharers == 0 then e.nxe else e.next, acks := 0, cont := none } := by
  simp only [List.mem_cons, List.not_mem_nil, or_false] at hresp
  rcases hresp with hresp | hresp | hresp <;> simp [engineFinish, hwr, hat, hfwd, hresp, dataKind] <;> rfl

/-- A request that an entry without fan-out and record answers: the data of the piece is on its way, and the piece takes owner, sharers and state of the entry. -/
theorem engineRun_answers {d : DirEntry} {r : HeldReq} {e : PEntry} (he : homeEntry s h d.slot d.st (classify d r) r.sec = e) (hfan : e.fan = 0) (hwr : e.wr = false)
    (hat : e.at_ = false) (hlog : e.log = false) (hfwd : e.fwd = 0) (hresp : e.resp ∈ [1, 2, 3]) (wr : State → SecWrite → State) :
    ∃ d1, engineRun wr s h d r =
        dirPut (sendMsg s { Msg.blank (dataKind e.resp) h r.child d.slot d.piece r.sec r.tag s.now with data := d.piece.map (fun x => (x, homeSector s h x)) }) h d1 ∧
      d1.piece = d.piece ∧ d1.owner = (shrOp d e.shr r.child).owner ∧ d1.sharers = (shrOp d e.shr r.child).sharers ∧
      d1.st = if (shrOp d e.shr r.child).owner = none ∧ (shrOp d e.shr r.child).sharers = 0 then e.nxe else e.next := by
  have hrun : engineRun wr s h d r = engineFinish wr s h d (shrOp d e.shr r.child) r e 0 := by simp [engineRun, he, hfan, hlog]
  rw [hrun, engineFinish_answers hwr hat hfwd hresp, shrOp_slot, shrOp_piece]
  exact ⟨_, rfl, rfl, rfl, rfl, by simp⟩

end

/-- Settles O45: who may ask, how a request leaves and arrives, what holds it, what answers it, and evictions, each by its own law. -/
theorem coherenceRequests : Obligations.CoherenceRequests := by
  refine ⟨?asks, ?may, ?leaves, ?arrives, ?evicts, ?buffers, ?waits, ?served⟩
  case asks =>
    intro s h child tag sec w op e he
    obtain ⟨hexec, hchild⟩ := exec_requestForms s h child tag sec w op e he
    subst hchild
    refine ⟨fun ⟨hchild, hask, hback⟩ => ?_, fun hno => ?_⟩
    · rw [hexec, requestAt_sent hchild hask hback, happen_some]
    · rw [hexec, requestAt_unsent hno, happen_none]
  case may => exact fun s h r => ⟨mayAsk_copy_iff, mayAsk_upgrade_iff, mayAsk_through_iff, mayAsk_home⟩
  case leaves => exact fun s n r => ⟨sendReq_eq s .l2 r, fun x => sendRequest_owned, sendRequest_ensured⟩
  case arrives =>
    intro s i x hx
    have hready := reqReady_iff s i x
    exact ⟨fun hno => arriveReq_of_ready hx (hready.2 hno), fun hbehind => arriveReq_of_behind hx fun hr => hready.1 hr hbehind⟩
  case evicts =>
    intro s h child tag sec
    refine ⟨fun hchild hheld => ?due, fun hno => ?idle⟩
    case due =>
      have hdirty := any_dirty_false_iff (heldPiece s h child (pieceOf s tag sec).2)
      refine ⟨fun hclean => ?clean, fun hnot => ?dirty⟩
      case clean =>
        have hany := hdirty.2 hclean
        exact ⟨congrArg (happen s) (evictAt_due hchild hheld hany), congrArg (happen s) (evictAt_other hany)⟩
      case dirty =>
        have hany := Bool.eq_true_of_not_eq_false (mt hdirty.1 hnot)
        exact ⟨congrArg (happen s) (evictAt_due hchild hheld hany), congrArg (happen s) (evictAt_other hany)⟩
    case idle => exact ⟨congrArg (happen s) (evictAt_of_none hno false), congrArg (happen s) (evictAt_of_none hno true)⟩
  case buffers => exact fun s h child tag piece x rest hheld => evictPiece_of_held hheld
  case waits => exact fun s r hfull => if_pos hfull
  case served =>
    intro s h r sp d hset hconf
    have hserved := homeRequest_served hset hconf
    refine ⟨fun hbusy => hserved.trans (engineApply_held hbusy), fun hacks hheld howed hpiece hfan hwr hat hlog hfwd hresp => ?answered⟩
    case answered =>
      obtain ⟨d1, hrun, hpiece1, howner, hsharers, hst⟩ := engineRun_answers (s := s) (h := h) (r := r) rfl hfan hwr hat hlog hfwd hresp (homeWriter h)
      rw [hpiece] at hrun hpiece1
      have ht := (hserved.trans (engineApply_idle hacks hheld howed)).trans hrun
      obtain ⟨howner1, hsharers1, hst1⟩ := dirGet_dirPut_fields (sendMsg s _) h sp.1 hpiece1
      rw [ht]
      exact ⟨rfl, rfl, howner1.trans howner, hsharers1.trans hsharers, hst1.trans hst⟩

end Sys2Proof.Machine
end

section
/-! PROOF. What a coherence message does to its receiver (spec/07_coherence.md R202, R203, R209): copies of caches, bytes of memory, answers, and the home that
counts its acknowledgements. -/

namespace Sys2Proof.Machine

open Sys2Proof Sys2Proof.Claims

/-! ### Folds that read one thing -/

section

variable {σ α β : Type} {f : σ → α → σ} {g : σ → β}

/-- What every step of a fold leaves, the fold leaves. -/
theorem foldl_keeps (l : List α) (s : σ) (hf : ∀ s, ∀ e ∈ l, g (f s e) = g s) : g (l.foldl f s) = g s :=
  List.foldlRecOn l f (motive := fun t => g t = g s) rfl fun t ht e he => (hf t e he).trans ht

/-- What only the element with one key can change is as that element leaves it, from a state where it was as at first. -/
theorem foldl_once {key : α → Nat} {l : List α} {e : α} (s : σ) (hnd : (l.map key).Nodup) (he : e ∈ l) (hf : ∀ s x, key x ≠ key e → g (f s x) = g s) :
    ∃ s1, g s1 = g s ∧ g (l.foldl f s) = g (f s1 e) := by
  obtain ⟨before, after, rfl⟩ := List.append_of_mem he
  rw [List.map_append, List.map_cons, List.nodup_append, List.nodup_cons] at hnd
  obtain ⟨-, ⟨hafter, -⟩, hbefore⟩ := hnd
  refine ⟨before.foldl f s, foldl_keeps before s fun t x hx => hf t x ?first, ?last⟩
  case first => exact hbefore _ (List.mem_map_of_mem hx) _ List.mem_cons_self
  case last =>
    rw [List.foldl_append, List.foldl_cons]
    exact foldl_keeps after _ fun t x hx => hf t x fun heq => hafter (heq ▸ List.mem_map_of_mem hx)

end

/-- What a lookup finds is in the list. -/
theorem mem_of_lookup {β : Type} {l : List (Nat × β)} {k : Nat} {b : β} (h : l.lookup k = some b) : (k, b) ∈ l := by
  obtain ⟨l1, l2, rfl, -⟩ := List.lookup_eq_some_iff.1 h
  simp

theorem ne_of_lookup_none {β : Type} {l : List (Nat × β)} {k : Nat} (h : l.lookup k = none) : ∀ e ∈ l, e.1 ≠ k :=
  fun e he heq => bne_iff_ne.1 (List.lookup_eq_none_iff.1 h e he) heq.symm

/-! ### Copies of caches -/

section

variable (s : State) (c q : CacheRef) (k : Nat)

theorem cacheGet_setCache (m : Table CSector) : cacheGet (setCache s c m) q k = if q = c then tget m k else cacheGet s q k := by
  by_cases hq : q = c
  · rw [if_pos hq, hq, cacheGet, cacheOf_setCache]
  · rw [if_neg hq, cacheGet, cacheOf_setCache_ne s m hq]; rfl

theorem cacheGet_cachePut (x : CSector) : cacheGet (cachePut s c x) q k = if q = c ∧ k = x.sec then some x else cacheGet s q k := by
  rw [cachePut, cacheGet_setCache]
  by_cases hq : q = c
  · simp [hq, tget_tset, cacheGet]
  · simp [hq]

/-- A change of a tracked copy. -/
def onTracked (f : CSector → CSector) (x : CSector) : CSector := if x.mode = .trk then f x else x

theorem cacheGet_trkMap (sec : Nat) (f : CSector → CSector) :
    cacheGet (trkMap s c sec f) q k = if q = c ∧ k = sec then (cacheGet s c sec).map (onTracked f) else cacheGet s q k := by
  by_cases hqk : q = c ∧ k = sec
  · obtain ⟨rfl, rfl⟩ := hqk
    rw [if_pos ⟨rfl, rfl⟩, trkMap]
    cases hx : cacheGet s q k with
    | none => exact hx
    | some x => by_cases hmode : x.mode = .trk <;> simp [hmode, onTracked, cacheGet_setCache, hx]
  · rw [if_neg hqk, trkMap]
    split
    · split
      · rw [cacheGet_setCache, tget_tset]
        by_cases hq : q = c
        · rw [if_pos hq, if_neg (fun hk => hqk ⟨hq, hk⟩), hq]; rfl
        · rw [if_neg hq]
      · rfl
    · rfl

/-- A tracked copy that is dropped is gone. -/
theorem mode_of_trkDrop {secs : List Nat} {x : CSector} (hk : k ∈ secs) (hx : cacheGet (trkDrop s c secs) c k = some x) : x.mode ≠ .trk := by
  rw [trkDrop, cacheGet_setCache, if_pos rfl] at hx
  have hkept := (List.mem_filter.1 (mem_of_tget hx)).2
  simpa [hk] using hkept

theorem trkMap_net (sec : Nat) (f : CSector → CSector) : (trkMap s c sec f).net = s.net := by
  unfold trkMap
  split
  · split
    · cases c <;> rfl
    · rfl
  · rfl

theorem trkMap_mem (sec : Nat) (f : CSector → CSector) : (trkMap s c sec f).mem = s.mem := by
  unfold trkMap
  split
  · split
    · exact setCache_mem ..
    · rfl
  · rfl

/-- A change of the tracked copies of a piece that is the same when made twice. -/
theorem cacheGet_foldl_trkMap {f : CSector → CSector} (hmode : ∀ x, (f x).mode = x.mode) (htwice : ∀ x, f (f x) = f x) (piece : List Nat) :
    cacheGet (piece.foldl (fun s sec => trkMap s c sec f) s) c k = if k ∈ piece then (cacheGet s c k).map (onTracked f) else cacheGet s c k := by
  have hagain : onTracked f ∘ onTracked f = onTracked f := by
    funext x
    by_cases hx : x.mode = .trk <;> simp [onTracked, hx, hmode, htwice]
  induction piece generalizing s with
  | nil => rfl
  | cons sec piece ih =>
    rw [List.foldl_cons, ih, cacheGet_trkMap]
    by_cases hk : k = sec
    · subst hk
      by_cases hin : k ∈ piece <;> simp [hin, hagain]
    · simp [hk]

end

/-! ### Writes at a home -/

section

variable (s : State) (w : SecWrite)

/-- A byte of memory after the masked bytes of a sector are written. -/
theorem sget_memPutSector (m : List Host.Cell) (sec : Nat) (d : BitVec 256) (mask : BitVec 32) (a : Nat) :
    sget (memPutSector m sec d mask) a = if a / 32 = sec ∧ mask.getLsbD (a % 32) = true then sectorByte d (a % 32) else sget m a := by
  have hone : ∀ (m : List Host.Cell) (i : Nat), 32 * sec + i ≠ a → sget (if mask.getLsbD i then sset m (32 * sec + i) (sectorByte d i) else m) a = sget m a := by
    intro m i hne
    split
    · exact sget_sset_ne _ _ (Ne.symm hne)
    · rfl
  by_cases hsec : a / 32 = sec
  · have ha : 32 * sec + a % 32 = a := by omega
    obtain ⟨m1, hm1, hfold⟩ := foldl_once (f := fun m i => if mask.getLsbD i then sset m (32 * sec + i) (sectorByte d i) else m) (g := fun m : List Host.Cell => sget m a)
      (key := id) (l := List.range 32) (e := a % 32) m (by simpa using List.nodup_range) (List.mem_range.2 (by omega))
      (fun m i hi => hone m i (by simp only [id] at hi; omega))
    refine hfold.trans ?_
    by_cases hbit : mask.getLsbD (a % 32) = true
    · simp only [hbit, if_true, ha, sget_sset_same, hsec, and_self]
    · simp only [hbit, if_false, Bool.false_eq_true, and_false, hm1]
  · rw [if_neg fun h => hsec h.1]
    exact foldl_keeps (g := fun m : List Host.Cell => sget m a) _ m fun m i hi => hone m i (by have := List.mem_range.1 hi; omega)

theorem homeWrite_keeps (t : Nat) : (homeWrite s w t).net = s.net ∧ (homeWrite s w t).setq = s.setq ∧ (homeWrite s w t).cores = s.cores ∧
    (homeWrite s w t).ccs = s.ccs ∧ (homeWrite s w t).host.up = s.host.up := by
  unfold homeWrite
  split <;> exact ⟨rfl, rfl, rfl, rfl, rfl⟩

theorem cacheGet_congr {s t : State} (hcores : t.cores = s.cores) (hccs : t.ccs = s.ccs) (c : CacheRef) (k : Nat) : cacheGet t c k = cacheGet s c k := by
  cases c <;> simp [cacheGet, cacheOf, State.core, State.cc, hcores, hccs]

theorem sendReq_caches (h : HomeRef) (r : HeldReq) : (sendReq s h r).cores = s.cores ∧ (sendReq s h r).ccs = s.ccs := by
  rw [sendReq_eq]
  simp only [noteSent, apply_ite State.cores, apply_ite State.ccs, ite_self, and_self]

/-- A write at a home changes no copy of the home's caches: a cluster cache as home changes its own. -/
theorem cacheGet_homeWriter (h : HomeRef) (child k : Nat) : cacheGet (homeWriter h s w) (childCache h child) k = cacheGet s (childCache h child) k := by
  cases h with
  | l2 =>
    obtain ⟨-, -, hcores, hccs, -⟩ := homeWrite_keeps s w s.now
    exact cacheGet_congr hcores hccs _ _
  | cc n =>
    have hput : ∀ x, cacheGet (cachePut s (.cc n) x) (childCache (.cc n) child) k = cacheGet s (childCache (.cc n) child) k := fun x => by simp [cacheGet_cachePut, childCache]
    have hsend : ∀ t r, cacheGet (sendReq t .l2 r) (childCache (.cc n) child) k = cacheGet t (childCache (.cc n) child) k :=
      fun t r => cacheGet_congr (sendReq_caches t .l2 r).1 (sendReq_caches t .l2 r).2 _ _
    change cacheGet (ccWrite n s w) _ _ = _
    unfold ccWrite
    simp only
    split
    · split
      · exact hput _
      · exact (hsend ..).trans (hput _)
    · exact hsend ..

end

/-! ### Requests that are complete (R203) -/

section

variable (s : State) (m : Msg)

/-- The time stamp that a completed write-through leaves. -/
def stampDone (s : State) (o : Outst) : State :=
  match o.wt with | some sec => { s with stamps := sset s.stamps sec (BitVec.ofNat 64 (max o.vt (sget s.stamps sec).toNat)) } | none => s

theorem stampDone_keeps (o : Outst) : (stampDone s o).cores = s.cores ∧ (stampDone s o).ccs = s.ccs ∧ (stampDone s o).mem = s.mem ∧ (stampDone s o).outst = s.outst := by
  unfold stampDone
  split <;> exact ⟨rfl, rfl, rfl, rfl⟩

variable {s} in
/-- The sector of a completed write-through takes the later of its visibility time and its stamp. -/
theorem stamp_of_stampDone (o : Outst) {sec : Nat} (hwt : o.wt = some sec) :
    (sget (stampDone s o).stamps sec).toNat = max o.vt (sget s.stamps sec).toNat % 2 ^ 64 := by
  simp [stampDone, hwt]

theorem closeOutst_eq : closeOutst s = (let s1 := (s.outst.filter Outst.complete).foldl stampDone s
    { s1 with outst := s1.outst.filter (fun o => !o.complete) }) := rfl

/-- Nothing is forgotten while no request is complete. -/
theorem closeOutst_of_open (hopen : ∀ o ∈ s.outst, o.complete = false) : closeOutst s = s := by
  have hnone : s.outst.filter Outst.complete = [] := List.filter_eq_nil_iff.2 fun o ho => by simp [hopen o ho]
  have hall : s.outst.filter (fun o => !o.complete) = s.outst := List.filter_eq_self.2 fun o ho => by simp [hopen o ho]
  simp only [closeOutst_eq, hnone, List.foldl_nil, hall]

/-- The one complete request is forgotten. -/
theorem closeOutst_of_first {o : Outst} {rest : List Outst} (hs : s.outst = o :: rest) (ho : o.complete = true) (hrest : ∀ x ∈ rest, x.complete = false) :
    closeOutst s = { stampDone s o with outst := rest } := by
  obtain ⟨-, -, -, houtst⟩ := stampDone_keeps s o
  have hone : s.outst.filter Outst.complete = [o] := by
    rw [hs, List.filter_cons_of_pos ho, List.filter_eq_nil_iff.2 fun x hx => by simp [hrest x hx]]
  have hkept : (stampDone s o).outst.filter (fun o => !o.complete) = rest := by
    rw [houtst, hs, List.filter_cons_of_neg (by simp [ho]), List.filter_eq_self.2 fun x hx => by simp [hrest x hx]]
  simp only [closeOutst_eq, hone, List.foldl_cons, List.foldl_nil, hkept]

theorem cacheGet_closeOutst (c : CacheRef) (k : Nat) : cacheGet (closeOutst s) c k = cacheGet s c k := by
  refine cacheGet_congr ?_ ?_ c k
  · exact foldl_keeps (g := State.cores) _ s fun t o _ => (stampDone_keeps t o).1
  · exact foldl_keeps (g := State.ccs) _ s fun t o _ => (stampDone_keeps t o).2.1

/-- A response or an acknowledgement that is counted changes no copy. -/
theorem cacheGet_respond (c : CacheRef) (k : Nat) : cacheGet (respond s m) c k = cacheGet s c k := (cacheGet_closeOutst ..).trans rfl

/-- The first open request of the piece takes a response. -/
theorem respond_first {o : Outst} {rest : List Outst} (hs : s.outst = o :: rest) (hhome : o.home = m.home) (hchild : o.child = m.child) (hsec : m.sec ∈ o.piece)
    (hresp : o.resp = false) : respond s m = closeOutst { s with outst := { o with resp := true, need := m.acks, vt := max o.vt m.vt } :: rest } := by
  have hthis : (o.home == m.home && o.child == m.child && o.piece.contains m.sec && !o.resp) = true := by simp [hhome, hchild, hsec, hresp]
  rw [respond, hs, mapFirst, if_pos hthis]

end

/-! ### Messages in the networks (R203, R209) -/

section

variable (s : State) (m : Msg)

theorem exec_messageForms (i : Nat) : ∀ e ∈ messageForms i, exec e.1 s = happen s (receive s e.2 i) := by
  intro e he
  simp only [messageForms, List.mem_cons, List.not_mem_nil, or_false] at he
  rcases he with rfl | rfl | rfl | rfl | rfl | rfl | rfl | rfl | rfl | rfl | rfl <;> rfl

variable {s m} in
theorem receive_of {i : Nat} {k : MsgKind} (hm : s.net[i]? = some m) (hk : m.kind = k) (hd : deliverable s i m = true) :
    receive s k i = some (deliver (takeMsg s i m) m) := by
  rw [receive, hm]
  exact if_pos ⟨hk, hd⟩

variable {s m} in
theorem receive_not {i : Nat} {k : MsgKind} (hm : s.net[i]? = some m) (hno : m.kind ≠ k ∨ deliverable s i m = false) : receive s k i = none := by
  rw [receive, hm]
  refine if_neg fun ⟨hk, hd⟩ => ?_
  rcases hno with hk' | hd'
  · exact hk' hk
  · rw [hd] at hd'; cases hd'

variable {s} in
theorem receive_none {i : Nat} {k : MsgKind} (hm : s.net[i]? = none) : receive s k i = none := by rw [receive, hm]

/-- Every sector that a message carries and an invalidation names is void. -/
theorem mem_voided {x : Msg} {piece : List Nat} {k : Nat} (hk : k ∈ piece) (hx : k ∈ x.piece) : k ∈ (x.voided piece).void := by
  by_cases hv : k ∈ x.void <;> simp [Msg.voided, hk, hx, hv]

/-! ### Fills (R202, R203) -/

/-- What a fill does with one sector. -/
def fillOne (m : Msg) (c : CacheRef) (p : Permission) (s : State) (e : Nat × BitVec 256) : State :=
  let d := (m.dirty.lookup e.1).getD 0
  if sivHeld s c e.1 || m.void.contains e.1 then
    (if d = 0 then s else homeWriter m.home s { sec := e.1, data := e.2, mask := d, dom := (m.nets.lookup e.1).getD .bulk })
  else cachePut s c { sec := e.1, data := e.2, dirty := d, doms := if d = 0 then 0 else BitVec.allOnes 5, net := (m.nets.lookup e.1).getD .bulk, who := none, mates := [],
                      fetched := s.now, stamp := (sget s.stamps e.1).toNat, perm := p, mode := .trk, tag := m.tag }

theorem fillCache_eq (c : CacheRef) (p : Permission) : fillCache s c m p = m.data.foldl (fillOne m c p) s := rfl

variable (p : Permission) (e : Nat × BitVec 256)

/-- A fill of a sector that is not kept leaves the cache's copies. -/
theorem cacheGet_fillOne_lost (hlost : sivHeld s (childCache m.home m.child) e.1 = true ∨ e.1 ∈ m.void) (k : Nat) :
    cacheGet (fillOne m (childCache m.home m.child) p s e) (childCache m.home m.child) k = cacheGet s (childCache m.home m.child) k := by
  unfold fillOne
  simp only
  rw [if_pos (by simpa using hlost)]
  split
  · rfl
  · exact cacheGet_homeWriter ..

/-- A fill of one sector leaves the copies of the others. -/
theorem cacheGet_fillOne_ne {k : Nat} (hk : e.1 ≠ k) :
    cacheGet (fillOne m (childCache m.home m.child) p s e) (childCache m.home m.child) k = cacheGet s (childCache m.home m.child) k := by
  by_cases hlost : sivHeld s (childCache m.home m.child) e.1 = true ∨ e.1 ∈ m.void
  · exact cacheGet_fillOne_lost s m p e hlost k
  · unfold fillOne
    simp only
    rw [if_neg (by simpa using hlost), cacheGet_cachePut, if_neg fun h => hk h.2.symm]

/-- A fill of a sector that is kept gives the cache its copy. -/
theorem cacheGet_fillOne_kept (hsiv : sivHeld s (childCache m.home m.child) e.1 = false) (hvoid : e.1 ∉ m.void) :
    ∃ x, cacheGet (fillOne m (childCache m.home m.child) p s e) (childCache m.home m.child) e.1 = some x ∧ x.data = e.2 ∧ x.perm = p ∧ x.mode = .trk ∧ x.tag = m.tag ∧
      x.dirty = (m.dirty.lookup e.1).getD 0 := by
  unfold fillOne
  simp only
  rw [if_neg (by simp [hsiv, hvoid]), cacheGet_cachePut, if_pos ⟨rfl, rfl⟩]
  exact ⟨_, rfl, rfl, rfl, rfl, rfl, rfl⟩

variable {e}

theorem cacheGet_fillCache (hnd : (m.data.map Prod.fst).Nodup) (he : e ∈ m.data) (hvoid : e.1 ∉ m.void) (hsiv : sivHeld s (childCache m.home m.child) e.1 = false) :
    ∃ x, cacheGet (fillCache s (childCache m.home m.child) m p) (childCache m.home m.child) e.1 = some x ∧ x.data = e.2 ∧ x.perm = p ∧ x.mode = .trk ∧ x.tag = m.tag ∧
      x.dirty = (m.dirty.lookup e.1).getD 0 := by
  obtain ⟨s1, hs1, hfold⟩ := foldl_once (g := fun s => cacheGet s (childCache m.home m.child) e.1) s hnd he (fun t x hx => cacheGet_fillOne_ne t m p x hx)
  have hsiv1 : sivHeld s1 (childCache m.home m.child) e.1 = false := by
    unfold sivHeld at hsiv ⊢
    rwa [hs1]
  rw [fillCache_eq, hfold]
  exact cacheGet_fillOne_kept s1 m p e hsiv1 hvoid

theorem cacheGet_fillCache_void {k : Nat} (hk : k ∈ m.void) :
    cacheGet (fillCache s (childCache m.home m.child) m p) (childCache m.home m.child) k = cacheGet s (childCache m.home m.child) k := by
  rw [fillCache_eq]
  refine foldl_keeps (g := fun s => cacheGet s (childCache m.home m.child) k) _ s fun t x _ => ?_
  by_cases hx : x.1 = k
  · exact cacheGet_fillOne_lost t m p x (.inr (hx ▸ hk)) k
  · exact cacheGet_fillOne_ne t m p x hx

/-- The responses that carry data, with the permission of each (R202). -/
def fills : List (MsgKind × Permission) := [(.dataS, .read), (.dataSW, .writeThrough), (.dataE, .own)]

/-- A response that carries data has its permission. -/
theorem permission_of_fill {k : MsgKind} (hk : k ∈ [MsgKind.dataS, .dataSW, .dataE]) : ∃ p, (k, p) ∈ fills := by
  simp only [List.mem_cons, List.not_mem_nil, or_false] at hk
  rcases hk with rfl | rfl | rfl
  · exact ⟨.read, by simp [fills]⟩
  · exact ⟨.writeThrough, by simp [fills]⟩
  · exact ⟨.own, by simp [fills]⟩

variable {p m} in
theorem deliver_fill (hp : (m.kind, p) ∈ fills) (hhome : m.toHome = false) : deliver s m = respond (fillCache s (childCache m.home m.child) m p) m := by
  simp only [fills, List.mem_cons, List.not_mem_nil, or_false, Prod.mk.injEq] at hp
  rcases hp with ⟨hk, rfl⟩ | ⟨hk, rfl⟩ | ⟨hk, rfl⟩ <;> simp [deliver, hk, hhome]

end

/-! ### Acknowledgements, invalidations and forwards (R202, R203) -/

section

variable {s : State} {m : Msg}

theorem deliver_upgrade (hk : m.kind = .ack) (hup : m.up = true) :
    deliver s m = respond (m.piece.foldl (fun s sec => trkMap s (childCache m.home m.child) sec (fun x => { x with perm := .own })) s) m := by
  simp [deliver, hk, hup]

theorem deliver_freed (hk : m.kind = .ack) (hup : m.up = false) {b : WriteBack}
    (hb : s.wbacks.find? (fun b => b.home == m.home && b.child == m.child && b.piece.contains m.sec) = some b) : deliver s m = { s with wbacks := s.wbacks.erase b } := by
  simp only [deliver, hk, hup, Bool.false_eq_true, if_false, freeBack, hb]

theorem deliver_answer (hk : m.kind = .wtack ∨ m.kind = .atomr) : deliver s m = respond s m := by
  rcases hk with hk | hk <;> simp only [deliver, hk]

theorem deliver_inv (hk : m.kind = .inv) : deliver s m = sendMsg (trkDrop (yieldPiece s m).1 (childCache m.home m.child) m.piece)
    { m.carry (yieldPiece s m).2 m.fan3 with kind := .invAck, toHome := m.fan3, vt := s.now } := by
  simp [deliver, hk]

theorem deliver_fwdGetx (hk : m.kind = .fwdGetx) : deliver s m = sendMsg (trkDrop (yieldPiece s m).1 (childCache m.home m.child) m.piece)
    { m.carry (yieldPiece s m).2 true with kind := .dataE, child := m.req, vt := s.now } := by
  simp [deliver, hk]

/-- The permission that a forward for a reader leaves the owner: that of a writer-through under a table with update semantics. -/
def sharedPermission (s : State) (m : Msg) : Permission := if slotUpds s m.slot then .writeThrough else .read

/-- The copy that a forward for a reader leaves the owner. -/
def shareCopy (p : Permission) (x : CSector) : CSector := { x.clean with perm := p }

theorem deliver_fwdGets (hk : m.kind = .fwdGets) :
    let s2 := m.piece.foldl (fun t sec => trkMap t (childCache m.home m.child) sec (shareCopy (sharedPermission s m))) (yieldPiece s m).1
    let k : MsgKind := if slotUpds s m.slot then .dataSW else .dataS
    deliver s m = sendMsg (sendMsg s2 { m.carry (yieldPiece s m).2 true with kind := k, toHome := true, vt := s.now })
      { m.carry (yieldPiece s m).2 false with kind := k, child := m.req, vt := s.now } := by
  simp only [deliver, hk]
  rfl

/-- A forward for a reader leaves the owner's tracked copies clean, with the permission of a sharer. -/
theorem shared_of_fwdGets (hk : m.kind = .fwdGets) {k : Nat} (hin : k ∈ m.piece) {x : CSector}
    (hx : cacheGet (deliver s m) (childCache m.home m.child) k = some x) (hmode : x.mode = .trk) : x.dirty = 0 ∧ x.perm = sharedPermission s m := by
  rw [deliver_fwdGets hk] at hx
  have hget := cacheGet_foldl_trkMap (yieldPiece s m).1 (childCache m.home m.child) k (f := shareCopy (sharedPermission s m)) (fun _ => rfl) (fun _ => rfl) m.piece
  rw [if_pos hin] at hget
  obtain ⟨y, -, rfl⟩ := Option.map_eq_some_iff.1 (hget.symm.trans hx)
  by_cases hy : y.mode = .trk
  · rw [onTracked, if_pos hy]
    exact ⟨rfl, rfl⟩
  · rw [onTracked, if_neg hy] at hmode
    exact absurd hmode hy

end

/-! ### Updates (R202) -/

section

variable (s : State) (m : Msg)

/-- What an update puts into a cache. -/
def putUpdate (m : Msg) (s : State) (c : CacheRef) : State :=
  m.dirty.foldl (fun s e => match m.data.lookup e.1 with | some d => trkMap s c e.1 (fun x => { x with data := overlay x.data d e.2 }) | none => s) s

/-- What an update makes of a copy of a sector. -/
def updateCopy (m : Msg) (k : Nat) (x : CSector) : CSector :=
  match m.dirty.lookup k, m.data.lookup k with
  | some b, some d => onTracked (fun x => { x with data := overlay x.data d b }) x
  | _, _ => x

theorem updateCopy_same {m : Msg} {k : Nat} {x : CSector} (hno : x.mode ≠ .trk ∨ m.dirty.lookup k = none ∨ m.data.lookup k = none) : updateCopy m k x = x := by
  unfold updateCopy
  split
  · next hb hd =>
    rcases hno with hmode | hnone | hnone
    · exact if_neg hmode
    · rw [hb] at hnone; cases hnone
    · rw [hd] at hnone; cases hnone
  · rfl

/-- An update of a cache reaches, beside the cache, the L1s of a cluster. -/
def putAll (m : Msg) (s : State) : State :=
  match m.home with
  | .l2 => [4 * m.child, 4 * m.child + 1, 4 * m.child + 2, 4 * m.child + 3].foldl (fun s core => putUpdate m s (.l1 core)) (putUpdate m s (childCache m.home m.child))
  | .cc _ => putUpdate m s (childCache m.home m.child)

variable {m} in
theorem deliver_update (hk : m.kind = .update) : deliver s m = sendMsg (putAll m s) { m with kind := .invAck, data := [], dirty := [], vt := s.now } := by
  simp only [deliver, hk]
  rfl

theorem putUpdate_keeps (c : CacheRef) : (putUpdate m s c).mem = s.mem ∧ (putUpdate m s c).net = s.net := by
  constructor
  · refine foldl_keeps (g := State.mem) _ s fun t e _ => ?_
    split
    · exact trkMap_mem ..
    · rfl
  · refine foldl_keeps (g := State.net) _ s fun t e _ => ?_
    split
    · exact trkMap_net ..
    · rfl

theorem putAll_keeps : (putAll m s).mem = s.mem ∧ (putAll m s).net = s.net := by
  unfold putAll
  split
  · constructor
    · exact (foldl_keeps (g := State.mem) _ _ fun t core _ => (putUpdate_keeps t m _).1).trans (putUpdate_keeps s m _).1
    · exact (foldl_keeps (g := State.net) _ _ fun t core _ => (putUpdate_keeps t m _).2).trans (putUpdate_keeps s m _).2
  · exact putUpdate_keeps s m _

theorem cacheGet_putUpdate_ne {c q : CacheRef} (hq : q ≠ c) (k : Nat) : cacheGet (putUpdate m s c) q k = cacheGet s q k := by
  refine foldl_keeps (g := fun s => cacheGet s q k) _ s fun t e _ => ?_
  split
  · rw [cacheGet_trkMap, if_neg fun h => hq h.1]
  · rfl

theorem cacheGet_putUpdate (hnd : (m.dirty.map Prod.fst).Nodup) (c : CacheRef) (k : Nat) : cacheGet (putUpdate m s c) c k = (cacheGet s c k).map (updateCopy m k) := by
  have hother : ∀ (t : State) (e : Nat × BitVec 32), e.1 ≠ k →
      cacheGet (match m.data.lookup e.1 with | some d => trkMap t c e.1 (fun x => { x with data := overlay x.data d e.2 }) | none => t) c k = cacheGet t c k := by
    intro t e he
    split
    · rw [cacheGet_trkMap, if_neg fun h => he h.2.symm]
    · rfl
  cases hb : m.dirty.lookup k with
  | none =>
    have hsame : updateCopy m k = id := by funext x; simp [updateCopy, hb]
    rw [hsame, Option.map_id, id]
    exact foldl_keeps (g := fun s => cacheGet s c k) _ s fun t e he => hother t e (ne_of_lookup_none hb e he)
  | some b =>
    obtain ⟨s1, hs1, hfold⟩ := foldl_once (g := fun s => cacheGet s c k) s hnd (mem_of_lookup hb) hother
    refine hfold.trans ?_
    cases hd : m.data.lookup k with
    | none =>
      have hsame : updateCopy m k = id := by funext x; simp [updateCopy, hb, hd]
      rw [hsame, Option.map_id, id, ← hs1]
    | some d =>
      have hput : updateCopy m k = onTracked (fun x => { x with data := overlay x.data d b }) := by funext x; simp only [updateCopy, hb, hd]
      rw [hput, ← hs1]
      simp only [cacheGet_trkMap, and_self, if_true]

/-- The cache that an UPDATE goes to and, for a cluster cache, its L1s. -/
def Updated (m : Msg) (q : CacheRef) : Prop := q = childCache m.home m.child ∨ (m.home = .l2 ∧ ∃ i, i < 4 ∧ q = .l1 (4 * m.child + i))

theorem cacheGet_putAll (hnd : (m.dirty.map Prod.fst).Nodup) {q : CacheRef} (hq : Updated m q) (k : Nat) :
    cacheGet (putAll m s) q k = (cacheGet s q k).map (updateCopy m k) := by
  unfold putAll
  split
  · next hhome =>
    rw [Updated, hhome] at hq
    rw [hhome]
    rcases hq with rfl | ⟨-, i, hi, rfl⟩
    · refine (foldl_keeps (g := fun s => cacheGet s (.cc m.child) k) _ _ fun t core _ => cacheGet_putUpdate_ne t m (by simp) k).trans ?_
      exact cacheGet_putUpdate s m hnd (.cc m.child) k
    · have hcores : [4 * m.child, 4 * m.child + 1, 4 * m.child + 2, 4 * m.child + 3].Nodup := by simp
      have hin : 4 * m.child + i ∈ [4 * m.child, 4 * m.child + 1, 4 * m.child + 2, 4 * m.child + 3] := by simp; omega
      obtain ⟨s1, hs1, hfold⟩ := foldl_once (f := fun s core => putUpdate m s (.l1 core)) (g := fun s => cacheGet s (.l1 (4 * m.child + i)) k) (key := id)
        (putUpdate m s (.cc m.child)) (by rwa [List.map_id]) hin (fun t core hne => cacheGet_putUpdate_ne t m (fun heq => hne (CacheRef.l1.inj heq).symm) k)
      refine hfold.trans ((cacheGet_putUpdate s1 m hnd _ k).trans ?_)
      rw [hs1, cacheGet_putUpdate_ne s m (by simp) k]
  · next n hhome =>
    rcases hq with rfl | ⟨hl2, -⟩
    · exact cacheGet_putUpdate s m hnd _ k
    · rw [hl2] at hhome; cases hhome

end

/-! ### Dirty bytes that reach the home (R202) -/

section

variable (s : State) (m : Msg)

/-- What one dirty sector of a message leaves at the home. -/
def sinkOne (m : Msg) (s : State) (e : Nat × BitVec 32) : State :=
  match m.data.lookup e.1 with
  | none => s
  | some d => homeWriter m.home s { sec := e.1, data := d, mask := e.2, dom := (m.nets.lookup e.1).getD .bulk }

theorem sinkDirty_eq : sinkDirty s m = m.dirty.foldl (sinkOne m) s := rfl

variable {m}

theorem sinkDirty_setq (hhome : m.home = .l2) : (sinkDirty s m).setq = s.setq := by
  rw [sinkDirty_eq]
  refine foldl_keeps (g := State.setq) _ s fun t e _ => ?_
  unfold sinkOne
  split
  · rfl
  · rw [hhome]; exact (homeWrite_keeps ..).2.1

/-- A write of other sectors leaves a byte of memory, and the host link. -/
theorem sinkOne_other (hhome : m.home = .l2) {e : Nat × BitVec 32} {a : Nat} (he : e.1 ≠ a / 32) :
    ((sinkOne m s e).host.up, sget (sinkOne m s e).mem a) = (s.host.up, sget s.mem a) := by
  unfold sinkOne
  split
  · rfl
  · rw [hhome]
    refine Prod.ext (homeWrite_keeps ..).2.2.2.2 ?_
    change sget (homeWrite s _ _).mem a = _
    unfold homeWrite
    split
    · rfl
    · rw [sget_memPutSector, if_neg fun h => he h.1.symm]

/-- A byte of memory after the dirty bytes of a message have reached it. -/
theorem sget_sinkDirty (hhome : m.home = .l2) (hlink : ∀ e ∈ m.dirty, hostWaits s [e.1] = false) (hnd : (m.dirty.map Prod.fst).Nodup) (a : Nat) :
    sget (sinkDirty s m).mem a = match m.data.lookup (a / 32), m.dirty.lookup (a / 32) with
      | some d, some k => if k.getLsbD (a % 32) then sectorByte d (a % 32) else sget s.mem a
      | _, _ => sget s.mem a := by
  rw [sinkDirty_eq]
  cases hk : m.dirty.lookup (a / 32) with
  | none =>
    have hkeep := foldl_keeps (f := sinkOne m) (g := fun s => (s.host.up, sget s.mem a)) m.dirty s fun t e he => sinkOne_other t hhome (ne_of_lookup_none hk e he)
    refine (congrArg Prod.snd hkeep).trans ?_
    cases m.data.lookup (a / 32) <;> rfl
  | some k =>
    obtain ⟨s1, hs1, hfold⟩ := foldl_once (f := sinkOne m) (g := fun s => (s.host.up, sget s.mem a)) s hnd (mem_of_lookup hk) (fun t x hx => sinkOne_other t hhome hx)
    obtain ⟨hup, hmem⟩ := Prod.mk.inj hs1
    refine (congrArg Prod.snd hfold).trans ?_
    cases hd : m.data.lookup (a / 32) with
    | none => simp only [sinkOne, hd, hmem]
    | some d =>
      have hlink1 : hostWaits s1 [a / 32] = false := by
        have := hlink _ (mem_of_lookup hk)
        unfold hostWaits at this ⊢
        rwa [hup]
      simp only [sinkOne, hd, hhome]
      change sget (homeWrite s1 _ _).mem a = _
      unfold homeWrite
      simp only [hlink1, Bool.false_eq_true, if_false, sget_memPutSector, hmem, true_and]

end

/-! ### The home that counts acknowledgements (R203) -/

section

variable {s : State} {m : Msg}

theorem deliver_homeData (hk : m.kind ∈ [MsgKind.dataS, .dataSW, .dataE]) (hhome : m.toHome = true) : deliver s m = homeData s m := by
  simp only [List.mem_cons, List.not_mem_nil, or_false] at hk
  rcases hk with hk | hk | hk <;> simp [deliver, hk, hhome]

theorem deliver_fanAck (hk : m.kind = .invAck) (hhome : m.toHome = true) : deliver s m = fanAck s m := by simp [deliver, hk, hhome]

theorem deliver_countAck (hk : m.kind = .invAck) (hhome : m.toHome = false) : deliver s m = countAck s m := by simp [deliver, hk, hhome]

/-- No request waits for room in a set. -/
theorem pumpSet_of_none (hq : s.setq = []) : pumpSet s = s := by
  rw [pumpSet, hq, List.foldl_nil]
  exact congrArg (fun q => { s with setq := q }) hq.symm

/-- With no request held for the piece the home only writes its entry. -/
theorem engineResume_of_none (wr : State → SecWrite → State) (h : HomeRef) {d : DirEntry} (hheld : d.held = []) : engineResume wr s h d = dirPut s h { d with held := [] } := by
  rw [engineResume, hheld]
  rfl

/-- An entry of a write-through writes and acknowledges. -/
theorem engineFinish_through {e : PEntry} (hwr : e.wr = true) (hat : e.at_ = false) (hfwd : e.fwd = 0) (hresp : e.resp = 5) (wr : State → SecWrite → State) (s : State)
    (h : HomeRef) (old d : DirEntry) (r : HeldReq) : (engineFinish wr s h old d r e 0).mem = (r.ws.foldl wr s).mem ∧
      (engineFinish wr s h old d r e 0).net = (r.ws.foldl wr s).net ++ [Msg.blank .wtack h r.child d.slot d.piece r.sec r.tag s.now] ∧
      (engineFinish wr s h old d r e 0).setq = (r.ws.foldl wr s).setq := by
  simp only [engineFinish, hwr, hat, hfwd, hresp, if_true]
  exact ⟨rfl, rfl, rfl⟩

/-- The last acknowledgement lets the request that waits for it finish; no other is held. -/
theorem fanAck_last {r : HeldReq} (hacks : (dirGet (sinkDirty s m) m.home m.slot m.piece).acks ≤ 1) (hcont : (dirGet (sinkDirty s m) m.home m.slot m.piece).cont = some r)
    (hheld : (dirGet (sinkDirty s m) m.home m.slot m.piece).held = []) :
    let d := dirGet (sinkDirty s m) m.home m.slot m.piece
    let d0 := { d with acks := 0, cont := none, held := [] }
    let s2 := engineFinish (homeWriter m.home) (sinkDirty s m) m.home d0 d0 r (slotEntry (sinkDirty s m) d.slot d.st r.event) 0
    fanAck s m = pumpSet (dirPut s2 m.home { dirGet s2 m.home d.slot d.piece with held := [] }) := by
  unfold fanAck
  simp only
  rw [if_neg (by omega), hcont]
  exact congrArg pumpSet (engineResume_of_none _ _ hheld)

/-- With nothing else waiting, a write-through that waited for the last acknowledgement writes and is acknowledged. -/
theorem fanAck_through (hhome : m.home = .l2) {r : HeldReq} (hacks : (dirGet (sinkDirty s m) m.home m.slot m.piece).acks ≤ 1)
    (hcont : (dirGet (sinkDirty s m) m.home m.slot m.piece).cont = some r) (hheld : (dirGet (sinkDirty s m) m.home m.slot m.piece).held = []) (hset : s.setq = [])
    {e : PEntry} (he : slotEntry (sinkDirty s m) (dirGet (sinkDirty s m) m.home m.slot m.piece).slot (dirGet (sinkDirty s m) m.home m.slot m.piece).st r.event = e)
    (hwr : e.wr = true) (hat : e.at_ = false) (hfwd : e.fwd = 0) (hresp : e.resp = 5) :
    let s1 := sinkDirty s m
    let d := dirGet s1 m.home m.slot m.piece
    (fanAck s m).mem = (r.ws.foldl (fun x w => homeWrite x w x.now) s1).mem ∧ (fanAck s m).net = s1.net ++ [Msg.blank .wtack m.home r.child d.slot d.piece r.sec r.tag s1.now] := by
  intro s1 d
  have hwriter : homeWriter m.home = fun x w => homeWrite x w x.now := by rw [hhome]; rfl
  have hnet : (r.ws.foldl (fun x w => homeWrite x w x.now) s1).net = s1.net := foldl_keeps (g := State.net) _ s1 fun t w _ => (homeWrite_keeps t w t.now).1
  have hsetq : (r.ws.foldl (fun x w => homeWrite x w x.now) s1).setq = [] :=
    (foldl_keeps (g := State.setq) _ s1 fun t w _ => (homeWrite_keeps t w t.now).2.1).trans ((sinkDirty_setq s hhome).trans hset)
  have hlast := fanAck_last hacks hcont hheld
  simp only [he, hwriter] at hlast
  obtain ⟨hmem2, hnet2, hsetq2⟩ := engineFinish_through hwr hat hfwd hresp (fun x w => homeWrite x w x.now) s1 m.home { d with acks := 0, cont := none, held := [] }
    { d with acks := 0, cont := none, held := [] } r
  rw [hlast.trans (pumpSet_of_none (hsetq2.trans hsetq))]
  exact ⟨hmem2, hnet2.trans (congrArg (· ++ _) hnet)⟩

end

/-! ### The messages together -/

/-- Settles O46: messages that are received and those that are not, and each message's effect by the law of its kind. -/
theorem coherenceMessages : Obligations.CoherenceMessages := by
  refine ⟨?received, ?void, ?effects, ?sinks, ?home, ?responds⟩
  case received =>
    intro s i e he
    have hexec := exec_messageForms s i e he
    refine ⟨fun m hm hk hd => ?_, fun m hm hno => ?_, fun hm => ?_⟩
    · rw [hexec, receive_of hm hk hd]; rfl
    · rw [hexec, receive_not hm hno]; rfl
    · rw [hexec, receive_none hm]; rfl
  case void =>
    intro m x
    refine ⟨?either, fun hk hcopy l hl hx => ?lost⟩
    case either =>
      by_cases hlost : m.kind = .inv ∧ x.copyFor m.home m.child = true
      · exact .inr ⟨hlost.1, _, if_pos hlost, fun l => mem_voided⟩
      · exact .inl (if_neg hlost)
    case lost =>
      rw [unkept, if_pos ⟨hk, hcopy⟩]
      exact mem_voided hl hx
  case effects =>
    intro s m c t
    refine ⟨fun p hp hhome hnd e he hvoid hsiv => ?fill, fun l hl hk hhome hnone => ?lost, fun hk hup l hl x hx hmode => ?upgrade, fun hk hup b => deliver_freed hk hup,
      deliver_answer, deliver_countAck, fun hk l hl x hx => ?taken, fun hk => ?invalidated, fun hk => ?forwarded, fun hk => ⟨fun l hl x => shared_of_fwdGets hk hl, ?shared⟩,
      fun hk => ?updated⟩
    case fill =>
      obtain ⟨x, hx, hfields⟩ := cacheGet_fillCache s m p hnd he hvoid hsiv
      exact ⟨x, by rw [show t = _ from deliver_fill s hp hhome, cacheGet_respond]; exact hx, hfields⟩
    case lost =>
      obtain ⟨p, hp⟩ := permission_of_fill hk
      rw [show t = _ from deliver_fill s hp hhome, cacheGet_respond, cacheGet_fillCache_void s m p hl, hnone]
    case upgrade =>
      have hget := cacheGet_foldl_trkMap s c l (f := fun x => { x with perm := .own }) (fun _ => rfl) (fun _ => rfl) m.piece
      rw [show t = _ from deliver_upgrade hk hup, cacheGet_respond, hget, if_pos hl, hx]
      exact congrArg some (if_pos hmode)
    case taken =>
      rcases hk with hk | hk
      · rw [show t = _ from deliver_inv hk] at hx
        exact mode_of_trkDrop _ c l hl hx
      · rw [show t = _ from deliver_fwdGetx hk] at hx
        exact mode_of_trkDrop _ c l hl hx
    case invalidated => exact ⟨_, _, congrArg State.net (deliver_inv hk), rfl, rfl, rfl, rfl⟩
    case forwarded => exact ⟨_, _, congrArg State.net (deliver_fwdGetx hk), rfl, rfl, rfl, rfl⟩
    case shared => exact ⟨_, _, _, (congrArg State.net (deliver_fwdGets hk)).trans (List.append_assoc _ [_] [_]), rfl, rfl, rfl, rfl⟩
    case updated =>
      obtain ⟨hmem, hnet⟩ := putAll_keeps s m
      rw [show t = _ from deliver_update s hk]
      refine ⟨hmem, congrArg (· ++ _) hnet, fun q hq hnd l x hx => ⟨updateCopy m l x, ?copy, fun b d hmode hb hd => ?bytes, fun hno => ?same⟩⟩
      case copy => exact (cacheGet_putAll s m hnd hq l).trans (by rw [hx]; rfl)
      case bytes => simp only [updateCopy, hb, hd, onTracked, if_pos hmode]
      case same => exact updateCopy_same hno
  case sinks => exact fun s m hhome hlink hnd a => sget_sinkDirty s hhome hlink hnd a
  case home =>
    intro s m hhome s1 d t
    refine ⟨fun hk => ⟨fun hno => ?sunk, fun hacks hheld => ?resumed⟩, fun hk => ⟨fun hmore => ?counted, fun r hacks hcont hheld hset hl2 hwr hat hfwd hresp => ?through⟩⟩
    case sunk => exact (deliver_homeData hk hhome).trans (if_neg fun ⟨hacks, hheld⟩ => hno.elim (· hacks) hheld)
    case resumed => exact (deliver_homeData hk hhome).trans (if_pos ⟨hacks, hheld⟩)
    case counted => exact (deliver_fanAck hk hhome).trans (if_pos hmore)
    case through =>
      obtain ⟨hmem, hnet⟩ := fanAck_through hl2 hacks hcont hheld hset rfl hwr hat hfwd hresp
      rw [show t = _ from deliver_fanAck hk hhome]
      exact ⟨hmem, hnet.trans (congrArg (fun h => s1.net ++ [Msg.blank .wtack h r.child d.slot d.piece r.sec r.tag s1.now]) hl2)⟩
  case responds =>
    intro s m o rest hs hhome hchild hsec hresp hrest o1
    have hfirst := respond_first s m hs hhome hchild hsec hresp
    refine ⟨fun hmore => ?opened, fun hall => ?closed⟩
    case opened =>
      have hopen : o1.complete = false := by simpa [Outst.complete, o1] using hmore
      exact hfirst.trans (closeOutst_of_open _ (List.forall_mem_cons.2 ⟨hopen, hrest⟩))
    case closed =>
      have hdone : o1.complete = true := by simpa [Outst.complete, o1] using hall
      rw [hfirst, closeOutst_of_first _ rfl hdone hrest]
      exact ⟨rfl, (stampDone_keeps ..).2.2.1, fun sec hwt => stamp_of_stampDone _ hwt⟩

end Sys2Proof.Machine
end

section
/-! PROOF. The storage of blocks: bytes that are put and read again, numbers of several bytes, and what an update of one block leaves of the fields of
every block (spec/01_machine.md R6, R25, R26). -/

namespace Sys2Proof.Machine

open Sys2Proof Sys2Proof.Claims

/-! ### Bytes and numbers (R6) -/

@[simp] theorem length_toBytes (n x : Nat) : (toBytes n x).length = n := by
  induction n generalizing x with
  | zero => rfl
  | succ n ih => simp [toBytes, ih]

theorem fromBytes_toBytes (n x : Nat) : fromBytes (toBytes n x) = x % 256 ^ n := by
  induction n generalizing x with
  | zero => simp [toBytes, fromBytes, Nat.mod_one]
  | succ n ih =>
    rw [toBytes, fromBytes, ih, BitVec.toNat_ofNat, pow_succ' 256 n, Nat.mod_mul (x := x) (a := 256) (b := 256 ^ n)]

theorem getBytes_eq_map (m : Sparse 8) (a n : Nat) : getBytes m a n = (List.range n).map (fun i => sget m (a + i)) := by
  induction n generalizing a with
  | zero => rfl
  | succ n ih =>
    rw [getBytes, ih, List.range_succ_eq_map, List.map_cons, List.map_map]
    exact congrArg _ (List.map_congr_left fun i _ => congrArg (sget m) (by simp; omega))

theorem toBytes_zero (n : Nat) : toBytes n 0 = List.replicate n 0 := by
  induction n with
  | zero => rfl
  | succ n ih => rw [toBytes, Nat.zero_div, ih]; rfl

/-- Reading a place gives the bytes that stand there, and zeros where there is no block. -/
theorem localRead_eq (s : State) (sp : Space) (r : Ref) (n : Nat) : localRead s sp r n = localBytes s sp r n := by
  unfold localRead localBytes localByte
  cases tget s.blocks r.blk with
  | none => simp [toBytes_zero]
  | some bl => exact getBytes_eq_map ..

@[simp] theorem length_getBytes (m : Sparse 8) (a n : Nat) : (getBytes m a n).length = n := by simp [getBytes_eq_map]

/-- What a byte reads after bytes have been put. -/
theorem sget_putBytes (m : Sparse 8) (a : Nat) (bs : List Byte) (k : Nat) :
    sget (putBytes m a bs) k = if a ≤ k ∧ k < a + bs.length then bs.getD (k - a) 0 else sget m k := by
  split
  · next hin =>
    have hlt : k - a < bs.length := by omega
    have hread := sget_putBytes_in m a bs (k - a) hlt
    rw [Nat.add_sub_cancel' hin.1] at hread
    rw [hread, List.getD_eq_getElem _ _ hlt]
  · exact sget_putBytes_out m a bs k (by omega)

theorem getBytes_putBytes_same (m : Sparse 8) (a : Nat) (bs : List Byte) : getBytes (putBytes m a bs) a bs.length = bs := by
  refine List.ext_getElem (by simp) fun i _ hi => ?_
  simp only [getBytes_eq_map, List.getElem_map, List.getElem_range]
  exact sget_putBytes_in m a bs i hi

/-- A number that is written reads back modulo its width. -/
theorem getNum_putNum_same (m : Sparse 8) (a n x : Nat) : getNum (putNum m a n x) a n = x % 256 ^ n := by
  have hread := getBytes_putBytes_same m a (toBytes n x)
  rw [length_toBytes] at hread
  rw [getNum, putNum, hread, fromBytes_toBytes]

/-! ### The blocks after an update of one -/

theorem blocks_setBlock (s : State) (b k : Nat) (x : Block) : tget (s.setBlock b x).blocks k = if k = b then some x else tget s.blocks k := tget_tset ..

/-- Every block after a function has been applied to one. -/
theorem blocks_mapBlock (s : State) (b k : Nat) (f : Block → Block) :
    tget (s.mapBlock b f).blocks k = if k = b then (tget s.blocks b).map f else tget s.blocks k := by
  unfold State.mapBlock
  cases hb : tget s.blocks b with
  | none => by_cases hk : k = b <;> simp [hk, hb]
  | some x => simpa using blocks_setBlock s b k (f x)

section

variable {α : Type} {p : Block → α} (s : State) (b k : Nat)

/-- A field that a function of blocks keeps is as before in every block. -/
theorem map_blocks_mapBlock {f : Block → Block} (hp : ∀ x, p (f x) = p x) :
    (tget (s.mapBlock b f).blocks k).map p = (tget s.blocks k).map p := by
  rw [blocks_mapBlock]
  split
  · next hk => subst hk; cases tget s.blocks k <;> simp [hp]
  · rfl

/-- A change of a group leaves every field of every block but its groups. -/
theorem map_blocks_mapGroup (hp : ∀ x gs, p { x with groups := gs } = p x) (g : Nat) (f : Group → Group) :
    (tget (s.mapGroup b g f).blocks k).map p = (tget s.blocks k).map p := by
  cases hx : s.group? b g with
  | none => simp [State.mapGroup, hx]
  | some x =>
    obtain ⟨bl, hb, hg⟩ := State.block_of_group hx
    rw [State.mapGroup_of hb hg, blocks_setBlock]
    split
    · next hk => subst hk; simp [hb, hp]
    · rfl

/-- Waiters that test a barrier again change their group's record only. -/
theorem map_blocks_tbRetest (s : State) (k : Nat) (hp : ∀ x gs, p { x with groups := gs } = p x) (c off : Nat) :
    (tget (tbRetest s c off).blocks k).map p = (tget s.blocks k).map p := by
  refine map_blocks_mapBlock s c k fun x => ?_
  split
  · exact hp x _
  · rfl

/-- Tiles that become READY change a block's tiles only. -/
theorem map_blocks_tilesReady (s : State) (k : Nat) (hp : ∀ x ts, p { x with tiles := ts } = p x) (c off : Nat) :
    (tget (tilesReady s c off).blocks k).map p = (tget s.blocks k).map p := by
  unfold tilesReady
  split
  · rfl
  · exact (map_blocks_mapBlock _ c k fun x => hp x _).trans rfl

end

end Sys2Proof.Machine
end

section
/-! PROOF. TBINIT, TBARR, TBEXP, TBWAIT and TBTEST, deferred updates, and the phases of a transaction barrier (spec/08_memory_instructions.md R239, R240,
12_control_instructions.md R332 to R334). -/

namespace Sys2Proof.Machine

open Sys2Proof Sys2Proof.Claims

/-! ### Where an update of a barrier goes (R332, R333) -/

section

variable {s : State} {v : View} {h : Hdr} {off : Nat} {op : TbOp}

/-- Is no earlier update of the group on a barrier deferred? -/
def tbFree (v : View) (off : Nat) : Bool := v.g.tbQ.all (fun d => d.off != off)

/-- What an update does that is applied at once. -/
def tbNow (s : State) (v : View) (off : Nat) (op : TbOp) : State := skip (tbApply s v.ag.blk off (noteOf s v.whole) op) v 8

/-- What an update does that is put behind accesses `ids` and the updates before it. -/
def tbDefer (s : State) (v : View) (off : Nat) (ids : List Nat) (op : TbOp) : State :=
  skip (s.mapGroup v.ag.blk v.ag.grp (fun x => { x with tbQ := x.tbQ ++ [{ ids := ids, off := off, op := op }] })) v 8

theorem tbQ_any (v : View) (off : Nat) : v.g.tbQ.any (fun d => d.off == off) = !tbFree v off := by
  simp [tbFree, List.not_all_eq_any_not, bne]

/-- An update goes at once where nothing stands before it, and is deferred otherwise. -/
theorem tbByGroup_eq (s : State) (v : View) (off : Nat) (ids : List Nat) (op : TbOp) :
    tbByGroup s v off ids op = if tbFree v off = true ∧ ids = [] then tbNow s v off op else tbDefer s v off ids op := by
  unfold tbByGroup
  rw [tbQ_any, Bool.not_not]
  exact if_congr (by simp [and_comm]) rfl rfl

theorem tbByGroup_nil (s : State) (v : View) (off : Nat) (op : TbOp) :
    tbByGroup s v off [] op = if tbFree v off then tbNow s v off op else tbDefer s v off [] op := by
  rw [tbByGroup_eq]
  exact if_congr (by simp) rfl rfl

/-- A barrier in L-space passes the checks of K(A). -/
theorem tbOk_passes (hok : tbOk v h) :
    alignedTo (v.r.kget h.a.toNat) 16 = true ∧ ¬ spaceAlloc v.pkt .loc < (v.r.kget h.a.toNat).toNat + 16 :=
  ⟨beq_iff_eq.2 hok.1, Nat.not_lt.2 hok.2⟩

/-- An instruction that names a barrier in L-space runs at its offset. -/
theorem tbInstr_of_ok (hrun : GroupRuns s v h) (hok : tbOk v h) (f : View → Nat → State) :
    tbInstr s h f = .next (f v (v.r.kget h.a.toNat).toNat) := by
  obtain ⟨hal, hin⟩ := tbOk_passes hok
  rw [tbInstr, groupWide_of_runs hrun]
  simp only [hal, hin, Bool.not_true, Bool.false_eq_true, if_false]

theorem exec_tbinit (hrun : GroupRuns s v h) (hok : tbOk v h) (hlo : 1 ≤ (v.r.kget h.b.toNat).toNat) (hhi : (v.r.kget h.b.toNat).toNat ≤ 65535) :
    exec (.tbinit h) s = .next (tbByGroup s v (v.r.kget h.a.toNat).toNat [] (.init (v.r.kget h.b.toNat).toNat)) := by
  obtain ⟨hal, hin⟩ := tbOk_passes hok
  change execTbinit h s = _
  rw [execTbinit, groupWide_of_runs hrun]
  have hcount : ¬ ((v.r.kget h.b.toNat).toNat < 1 ∨ 65535 < (v.r.kget h.b.toNat).toNat) := by omega
  simp only [hcount, hal, hin, Bool.not_true, Bool.false_eq_true, if_false]

theorem exec_tbexp (hrun : GroupRuns s v h) (hok : tbOk v h) (hhi : (v.r.kget h.b.toNat).toNat ≤ 0x7FFFFFFF) :
    exec (.tbexp h) s = .next (tbByGroup s v (v.r.kget h.a.toNat).toNat [] (.expect (v.r.kget h.b.toNat).toNat)) := by
  obtain ⟨hal, hin⟩ := tbOk_passes hok
  change execTbexp h s = _
  rw [execTbexp, groupWide_of_runs hrun]
  simp only [Nat.not_lt.2 hhi, hal, hin, Bool.not_true, Bool.false_eq_true, if_false]

theorem exec_tbarr (hrun : GroupRuns s v h) (hok : tbOk v h) :
    exec (.tbarr h) s = .next (tbByGroup s v (v.r.kget h.a.toNat).toNat (openBefore s v) (.arrive h.c.toNat)) := by
  change execTbarr h s = _
  rw [execTbarr, tbInstr_of_ok hrun hok]

/-! ### TBWAIT and TBTEST (R334) -/

/-- A TBWAIT has nothing to wait for where the phase is reached behind no deferred update, or an update reached it while it waited. -/
theorem tbOver_iff {p : Nat} : tbOver s v off p = true ↔
    (tbFree v off = true ∧ (getTb s v.ag.blk off).reached p = true) ∨ (v.g.tbMet = true ∧ v.g.want = [off, p]) := by
  rw [tbOver, tbQ_any]
  simp [or_comm]

/-- The edge at the end of a wait begins where the wait did (R393). -/
theorem edgeAfterWait_eq (s t : State) (v : View) (hnow : t.now = s.now) (who : AgentRef) (note : Option Note) (kind num : Nat) :
    edgeAfterWait t v who note kind num = chainEdge t v.ctx who note (waitStart s v).1 kind num (waitStart s v).2 := by
  unfold edgeAfterWait waitStart
  cases v.run <;> simp only [hnow]

/-- Raising horizons takes no time. -/
theorem tbAcquire_now (s : State) (core b off : Nat) : (tbAcquire s core b off).now = s.now := by
  simp [tbAcquire, allDoms, State.raise, State.now]

theorem exec_tbwait_over (hrun : GroupRuns s v h) (hok : tbOk v h) (hover : tbOver s v (v.r.kget h.a.toNat).toNat h.c.toNat = true) :
    exec (.tbwait h) s = .next (skip (edgeAfterWait (tbAcquire s v.core v.ag.blk (v.r.kget h.a.toNat).toNat) v v.whole
      (tbNoteOf s v.ag.blk (v.r.kget h.a.toNat).toNat) 3 h.c.toNat) v 8) := by
  change execTbwait h s = _
  rw [execTbwait, tbInstr_of_ok hrun hok, edgeAfterWait_eq s _ v (tbAcquire_now ..)]
  simp only [hover, if_true]

theorem exec_tbwait_waits (hrun : GroupRuns s v h) (hok : tbOk v h) (hover : tbOver s v (v.r.kget h.a.toNat).toNat h.c.toNat = false) :
    exec (.tbwait h) s = .next (stallOn s v .tb [(v.r.kget h.a.toNat).toNat, h.c.toNat]) := by
  change execTbwait h s = _
  rw [execTbwait, tbInstr_of_ok hrun hok]
  simp only [hover, Bool.false_eq_true, if_false]

theorem exec_tbtest (hrun : GroupRuns s v h) (hok : tbOk v h) :
    let off := (v.r.kget h.a.toNat).toNat
    let ok := (getTb s v.ag.blk off).reached h.c.toNat
    exec (.tbtest h) s = .next (finish (if ok then tbAcquire s v.core v.ag.blk off else s) v 8 [.q h.d.toNat ok] 0) := by
  change execTbtest h s = _
  rw [execTbtest, tbInstr_of_ok hrun hok]

/-! ### Deferred updates (R333) -/

/-- The oldest update of a group is applied once the accesses before it are acknowledged. -/
theorem exec_tbarrApply {b g : Nat} {bl : Block} {x : Group} {d : TbDeferred} {rest : List TbDeferred} (hb : tget s.blocks b = some bl)
    (hg : tget bl.groups g = some x) (hq : x.tbQ = d :: rest) (hopen : isOpen s d.ids = false) :
    exec (.tbarrApply b g) s = .next (tbApply (s.mapGroup b g (fun y => { y with tbQ := y.tbQ.erase d })) b d.off
      (noteOf (s.mapGroup b g (fun y => { y with tbQ := y.tbQ.erase d })) { blk := b, grp := g, lane := none }) d.op) := by
  have hgroup : s.group? b g = some x := by simp [State.group?, hb, hg]
  have hfirst : x.tbQ.find? (fun d => !isOpen s d.ids && (x.tbQ.find? (fun e => e.off == d.off)) == some d) = some d := by
    rw [hq, List.find?_cons_of_pos]
    simp [hopen]
  change happen s (tbarrApplyEvent b g s) = _
  simp only [tbarrApplyEvent, hb, hgroup, hfirst, happen_some]

end

theorem transactionBarrierInstructions : TransactionBarrierInstructions := by
  refine ⟨fun s v h hrun hok => ?instructions, fun s b g bl x d rest hb hg hq hopen => exec_tbarrApply hb hg hq hopen⟩
  case instructions =>
    intro off n free ids apply defer
    refine ⟨fun hlo hhi => ?_, fun hhi => ?_, ?_, fun hmet => exec_tbwait_over hrun hok (tbOver_iff.2 hmet), fun hmet => ?_, exec_tbtest hrun hok⟩
    · rw [exec_tbinit hrun hok hlo hhi, tbByGroup_nil]
      exact apply_ite ..
    · rw [exec_tbexp hrun hok hhi, tbByGroup_nil]
      exact apply_ite ..
    · rw [exec_tbarr hrun hok, tbByGroup_eq]
      exact apply_ite ..
    · exact exec_tbwait_waits hrun hok (Bool.eq_false_iff.2 fun hover => hmet (tbOver_iff.1 hover))

/-! ### The fields of a barrier (R239) -/

/-- The fields lie side by side in the 128 bits of the object. -/
theorem tbOf_bits (t : Tb) : tbOf t.bits =
    { phase := t.phase % 16, pend := t.pend % 2 ^ 16, exp := t.exp % 2 ^ 16, sect := t.sect % 2 ^ 32, last := t.last % 2 ^ 28, vt := t.vt % 2 ^ 32 } := by
  simp only [tbOf, Tb.bits, bitsOf, Tb.mk.injEq]
  norm_num
  omega

theorem bits_lt (t : Tb) : t.bits < 256 ^ 16 := by
  unfold Tb.bits
  omega

/-- A barrier as storage holds it: every field within its bits. -/
structure Tb.InRange (t : Tb) : Prop where
  phase : t.phase < 16
  pend : t.pend < 2 ^ 16
  exp : t.exp < 2 ^ 16
  sect : t.sect < 2 ^ 32

theorem tbOf_inRange (x : Nat) : (tbOf x).InRange := by
  constructor <;> exact Nat.mod_lt _ (by decide)

/-! ### What an update leaves in the barrier (R240) -/

section

variable {s : State} {b off : Nat} {bl : Block}

theorem getTb_of (hb : tget s.blocks b = some bl) : getTb s b off = tbOf (getNum bl.loc off 16) := by
  simp [getTb, hb]

theorem getTb_inRange (s : State) (b off : Nat) : (getTb s b off).InRange := by
  unfold getTb
  split <;> exact tbOf_inRange _

/-- A barrier is what L-space holds. -/
theorem getTb_congr {t : State} (h : (tget t.blocks b).map Block.loc = (tget s.blocks b).map Block.loc) : getTb t b off = getTb s b off := by
  unfold getTb
  cases hs : tget s.blocks b <;> cases ht : tget t.blocks b <;> simp_all

theorem getTb_mapBlock (s : State) (b off : Nat) {f : Block → Block} (hf : ∀ x, (f x).loc = x.loc) : getTb (s.mapBlock b f) b off = getTb s b off :=
  getTb_congr (map_blocks_mapBlock s b b hf)

theorem getTb_tbRetest (s : State) (b off : Nat) : getTb (tbRetest s b off) b off = getTb s b off :=
  getTb_congr (map_blocks_tbRetest s b (fun _ _ => rfl) b off)

theorem getTb_tilesReady (s : State) (b off : Nat) : getTb (tilesReady s b off) b off = getTb s b off :=
  getTb_congr (map_blocks_tilesReady s b (fun _ _ => rfl) b off)

theorem getTb_putTb (hb : tget s.blocks b = some bl) (t : Tb) : getTb (putTb s b off t) b off = tbOf t.bits := by
  have hput : tget (putTb s b off t).blocks b = some { bl with loc := putNum bl.loc off 16 t.bits } := block_mapBlock hb _
  rw [getTb_of hput, getNum_putNum_same, Nat.mod_eq_of_lt (bits_lt t)]

theorem getTb_tbStamp (s : State) (b off : Nat) (d : Option Dom) : getTb (tbStamp s b off d) b off = getTb s b off :=
  getTb_mapBlock s b off fun _ => rfl

/-- A change of the fields notes its updater, unless the failure marker stands. -/
def tbNoted (now : Nat) (who : Note) (t : Tb) : Tb := if t.last = tbMarker then t else { t with last := who.1 % 2 ^ 28, vt := now % 2 ^ 32 }

/-- Is nothing left to count? -/
def tbFlips (t : Tb) : Bool := t.pend == 0 && t.sect == 0

/-- The fields that an update writes: the change, its updater, and the flip when nothing is left to count. -/
def tbNext (now : Nat) (who : Note) (f : Tb → Tb) (t : Tb) : Tb :=
  let u := tbNoted now who (f t)
  if tbFlips u then { u with phase := (u.phase + 1) % 16, pend := u.exp } else u

/-- A barrier written with the note of its updater. -/
def tbPut (s : State) (b off : Nat) (who : Note) (t : Tb) : State := (putTb s b off t).mapBlock b (fun bl => { bl with tbNote := tset bl.tbNote off who })

theorem getTb_tbPut (hb : tget s.blocks b = some bl) (who : Note) (t : Tb) : getTb (tbPut s b off who t) b off = tbOf t.bits := by
  rw [tbPut, getTb_mapBlock, getTb_putTb hb]
  exact fun _ => rfl

/-- An update writes the barrier, and then wakes what waits for it. -/
theorem tbUpdate_eq (s : State) (b off : Nat) (who : Note) (f : Tb → Tb) : tbUpdate s b off who f =
    let t := getTb s b off
    let s1 := tbPut s b off who (tbNext s.now who f t)
    tbRetest (if tbFlips (tbNoted s.now who (f t)) then tilesReady s1 b off else s1) b off := rfl

theorem getTb_tbUpdate (hb : tget s.blocks b = some bl) (who : Note) (f : Tb → Tb) :
    getTb (tbUpdate s b off who f) b off = tbOf (tbNext s.now who f (getTb s b off)).bits := by
  rw [tbUpdate_eq, getTb_tbRetest, ← getTb_tbPut hb who]
  split
  · exact getTb_tilesReady ..
  · rfl

section

variable (now : Nat) (who : Note) {f : Tb → Tb} {t : Tb}

/-- The last count of a phase flips it. -/
theorem tbNext_flips (hzero : (f t).pend = 0 ∧ (f t).sect = 0) : ∃ last vt,
    tbNext now who f t = { phase := ((f t).phase + 1) % 16, pend := (f t).exp, exp := (f t).exp, sect := 0, last := last, vt := vt } := by
  by_cases hlast : (f t).last = tbMarker
  · exact ⟨(f t).last, (f t).vt, by simp [tbNext, tbNoted, tbFlips, hlast, hzero]⟩
  · exact ⟨who.1 % 2 ^ 28, now % 2 ^ 32, by simp [tbNext, tbNoted, tbFlips, hlast, hzero]⟩

/-- Before the last count, an update changes what it says, and its updater. -/
theorem tbNext_counts (hmore : ¬ ((f t).pend = 0 ∧ (f t).sect = 0)) : ∃ last vt, tbNext now who f t = { f t with last := last, vt := vt } := by
  by_cases hlast : (f t).last = tbMarker
  · exact ⟨(f t).last, (f t).vt, by simp [tbNext, tbNoted, tbFlips, if_pos hlast, hmore]⟩
  · exact ⟨who.1 % 2 ^ 28, now % 2 ^ 32, by simp [tbNext, tbNoted, tbFlips, hlast, hmore]⟩

end

variable {who : Note} {n : Nat}

theorem getTb_init (hb : tget s.blocks b = some bl) (hn : n < 2 ^ 16) :
    getTb (tbApply s b off who (.init n)) b off = { phase := 0, pend := n, exp := n, sect := 0, last := 0, vt := 0 } := by
  rw [tbApply, getTb_tbRetest, getTb_mapBlock _ _ _ (by intro; rfl), getTb_putTb hb, tbOf_bits]
  simp only [Nat.zero_mod, Nat.mod_eq_of_lt hn]

/-- An arrival reads the barrier as it was before its time was noted. -/
theorem getTb_arrive (hb : tget s.blocks b = some bl) : ∃ now, getTb (tbApply s b off who (.arrive n)) b off =
    tbOf (tbNext now who (tbArrive n) (getTb s b off)).bits := by
  have hstamp : tget (tbStamp s b off none).blocks b = some _ := block_mapBlock hb _
  exact ⟨_, (getTb_tbUpdate hstamp who (tbArrive n)).trans (by rw [getTb_tbStamp])⟩

/-- The last arrival of a phase flips it, and PEND becomes EXP again. -/
theorem arrive_flips (hb : tget s.blocks b = some bl) (hzero : (getTb s b off).pend - n = 0 ∧ (getTb s b off).sect = 0) :
    let t := getTb s b off
    let u := getTb (tbApply s b off who (.arrive n)) b off
    u.phase = (t.phase + 1) % 16 ∧ u.pend = t.exp ∧ u.exp = t.exp ∧ u.sect = 0 := by
  obtain ⟨now, hread⟩ := getTb_arrive (off := off) (who := who) (n := n) hb
  obtain ⟨last, vt, hnext⟩ := tbNext_flips now who (f := tbArrive n) hzero
  have hexp := Nat.mod_eq_of_lt (getTb_inRange s b off).exp
  rw [hread, hnext, tbOf_bits]
  exact ⟨Nat.mod_mod _ _, hexp, hexp, rfl⟩

/-- Any other arrival lowers PEND. -/
theorem arrive_counts (hb : tget s.blocks b = some bl) (hmore : ¬ ((getTb s b off).pend - n = 0 ∧ (getTb s b off).sect = 0)) :
    let t := getTb s b off
    let u := getTb (tbApply s b off who (.arrive n)) b off
    u.phase = t.phase ∧ u.pend = t.pend - n ∧ u.exp = t.exp ∧ u.sect = t.sect := by
  obtain ⟨now, hread⟩ := getTb_arrive (off := off) (who := who) (n := n) hb
  obtain ⟨last, vt, hnext⟩ := tbNext_counts now who (f := tbArrive n) hmore
  obtain ⟨hphase, hpend, hexp, hsect⟩ := getTb_inRange s b off
  rw [hread, hnext, tbOf_bits]
  exact ⟨Nat.mod_eq_of_lt hphase, Nat.mod_eq_of_lt (Nat.lt_of_le_of_lt (Nat.sub_le ..) hpend), Nat.mod_eq_of_lt hexp, Nat.mod_eq_of_lt hsect⟩

/-- An expectation before the last arrival adds to SECT and leaves the phase. -/
theorem expect_adds (hb : tget s.blocks b = some bl) (hpend : (getTb s b off).pend ≠ 0) :
    let t := getTb s b off
    let u := getTb (tbApply s b off who (.expect n)) b off
    u.sect = (t.sect + n) % 2 ^ 32 ∧ u.phase = t.phase := by
  obtain ⟨last, vt, hnext⟩ := tbNext_counts s.now who (f := tbExpect n) (fun hzero => hpend hzero.1)
  rw [tbApply, getTb_tbUpdate hb, hnext, tbOf_bits]
  exact ⟨Nat.mod_mod _ _, Nat.mod_eq_of_lt (getTb_inRange s b off).phase⟩

end

/-- A phase counts as reached while the phase field is at most 7 ahead of it (R334). -/
theorem reached_iff (t : Tb) {p : Nat} (ht : t.phase < 16) (hp : p < 16) : t.reached p = true ↔ ∃ k, k ≤ 7 ∧ t.phase = (p + k) % 16 := by
  rw [Tb.reached, decide_eq_true_iff]
  constructor
  · exact fun hlt => ⟨(t.phase + 16 - p % 16) % 16, by omega, by omega⟩
  · rintro ⟨k, hk, hphase⟩
    omega

theorem transactionBarrierPhase : TransactionBarrierPhase :=
  ⟨fun _ _ _ _ _ _ hb hn => getTb_init hb hn, fun _ _ _ _ _ _ hb => ⟨arrive_flips hb, arrive_counts hb⟩, fun _ _ _ _ _ _ hb hpend => expect_adds hb hpend,
   fun t _ ht hp => reached_iff t ht hp⟩

/-- Settles O16: each instruction by the state of the barrier's earlier updates, each phase by the fields that an update writes. -/
theorem transactionBarriers : Obligations.TransactionBarriers := ⟨transactionBarrierInstructions, transactionBarrierPhase⟩

end Sys2Proof.Machine
end

section
/-! PROOF. Loads and stores of global memory: the choice of trap, and how they complete (spec/08_memory_instructions.md R213, R214, R216, R217, 14_recovery.md
R364, 11_divergence.md R306). -/

namespace Sys2Proof.Machine

open Sys2Proof Sys2Proof.Claims

/-! ### The first of lowest rank -/

section

variable {α : Type} {rank : α → Nat}

/-- The earlier of two, unless the later has the lower rank. -/
def lowerOf (rank : α → Nat) (b : Option α) (x : α) : Option α :=
  match b with
  | none => some x
  | some y => if rank x < rank y then some x else some y

/-- `x` stands in a list, below everything before it and not above what follows. -/
def FirstLowest (rank : α → Nat) (x : α) (l : List α) : Prop :=
  ∃ pre post, l = pre ++ x :: post ∧ (∀ y ∈ pre, rank x < rank y) ∧ ∀ y ∈ post, rank x ≤ rank y

theorem FirstLowest.le {x : α} {l : List α} (h : FirstLowest rank x l) : ∀ y ∈ l, rank x ≤ rank y := by
  obtain ⟨pre, post, rfl, hpre, hpost⟩ := h
  intro y hy
  rcases List.mem_append.1 hy with hy | hy
  · exact (hpre y hy).le
  · rcases List.mem_cons.1 hy with rfl | hy
    · exact Nat.le_refl _
    · exact hpost y hy

theorem foldl_lowerOf_some (l : List α) (y : α) : ∃ x, l.foldl (lowerOf rank) (some y) = some x ∧ FirstLowest rank x (y :: l) := by
  induction l generalizing y with
  | nil => exact ⟨y, rfl, [], [], rfl, by simp, by simp⟩
  | cons a l ih =>
    by_cases ha : rank a < rank y
    · obtain ⟨x, hfold, hx⟩ := ih a
      have hay := hx.le a (List.mem_cons_self ..)
      obtain ⟨pre, post, hl, hpre, hpost⟩ := hx
      refine ⟨x, ?_, y :: pre, post, congrArg (y :: ·) hl, ?_, hpost⟩
      · rw [List.foldl_cons, lowerOf, if_pos ha]; exact hfold
      · exact List.forall_mem_cons.2 ⟨Nat.lt_of_le_of_lt hay ha, hpre⟩
    · obtain ⟨x, hfold, pre, post, hl, hpre, hpost⟩ := ih y
      refine ⟨x, by rw [List.foldl_cons, lowerOf, if_neg ha]; exact hfold, ?_⟩
      rcases List.cons_eq_append_iff.1 hl with ⟨rfl, hx⟩ | ⟨pre, rfl, rfl⟩
      · obtain ⟨rfl, rfl⟩ := List.cons_eq_cons.1 hx
        exact ⟨[], a :: post, rfl, by simp, List.forall_mem_cons.2 ⟨Nat.not_lt.1 ha, hpost⟩⟩
      · obtain ⟨hy, hpre⟩ := List.forall_mem_cons.1 hpre
        exact ⟨y :: a :: pre, post, rfl, List.forall_mem_cons.2 ⟨hy, List.forall_mem_cons.2 ⟨Nat.lt_of_lt_of_le hy (Nat.not_lt.1 ha), hpre⟩⟩, hpost⟩

/-- THE CHOICE BY RANK: of a list that is not empty it takes the first of the lowest. -/
theorem foldl_lowerOf {l : List α} {x : α} (h : l.foldl (lowerOf rank) none = some x) : FirstLowest rank x l := by
  cases l with
  | nil => cases h
  | cons y l =>
    obtain ⟨x', hfold, hx⟩ := foldl_lowerOf_some (rank := rank) l y
    rw [List.foldl_cons, show lowerOf rank none y = some y from rfl, hfold] at h
    rwa [← Option.some.inj h]

theorem foldl_lowerOf_none {l : List α} : l.foldl (lowerOf rank) none = none ↔ l = [] := by
  cases l with
  | nil => simp
  | cons y l =>
    obtain ⟨x, hfold, -⟩ := foldl_lowerOf_some (rank := rank) l y
    simp [show lowerOf rank none y = some y from rfl, hfold]

end

/-! ### The trap of an instruction (R213, R364) -/

section

variable {v : View} {h : Hdr} {sc : Scope} {wr : Bool} {cs : List Looked} {t : Trap}

/-- The causes that checks have found, with what they checked. -/
def causesOf (cs : List Looked) : List (Looked × Cause × Word × Nat) := cs.filterMap (fun c => c.cause.map (fun x => (c, x)))

/-- The trap that names one cause of an instruction, and the lanes that have it. -/
def trapOf (v : View) (h : Hdr) (sc : Scope) (wr : Bool) (causes : List (Looked × Cause × Word × Nat)) (x : Looked × Cause × Word × Nat) : Trap :=
  { cause := x.2.1, code := x.2.2.2, addr := x.2.2.1, acc := some (x.1.dom, sc), write := wr,
    lanes := if h.u then v.mask else maskOf ((causes.filter (fun y => y.2.1 = x.2.1)).filterMap (fun y => y.1.acc.lane)) }

theorem lookedTrap_eq (v : View) (h : Hdr) (sc : Scope) (wr : Bool) (cs : List Looked) :
    lookedTrap v h sc wr cs = ((causesOf cs).foldl (lowerOf (fun x => causeCode x.2.1)) none).map (trapOf v h sc wr (causesOf cs)) := by
  have hlower : (lowerOf fun x : Looked × Cause × Word × Nat => causeCode x.2.1) = fun b x =>
      match b with
      | none => some x
      | some y => if causeCode x.2.1 < causeCode y.2.1 then some x else some y := by
    funext b x
    cases b <;> rfl
  rw [hlower]
  unfold lookedTrap
  rfl

theorem mem_causesOf {c : Looked} {x : Cause × Word × Nat} : (c, x) ∈ causesOf cs ↔ c ∈ cs ∧ c.cause = some x := by
  simp only [causesOf, List.mem_filterMap, Option.map_eq_some_iff, Prod.mk.injEq]
  constructor
  · rintro ⟨c, hc, x, hx, rfl, rfl⟩
    exact ⟨hc, hx⟩
  · exact fun ⟨hc, hx⟩ => ⟨c, hc, x, hx, rfl, rfl⟩

theorem lookedTrap_none_iff : lookedTrap v h sc wr cs = none ↔ ∀ c ∈ cs, c.cause = none := by
  rw [lookedTrap_eq, Option.map_eq_none_iff, foldl_lowerOf_none, causesOf, List.filterMap_eq_nil_iff]
  simp

/-- A trap names the first cause of lowest code. -/
theorem lookedTrap_some (ht : lookedTrap v h sc wr cs = some t) :
    ∃ x, FirstLowest (fun x => causeCode x.2.1) x (causesOf cs) ∧ t = trapOf v h sc wr (causesOf cs) x := by
  rw [lookedTrap_eq, Option.map_eq_some_iff] at ht
  obtain ⟨x, hx, rfl⟩ := ht
  exact ⟨x, foldl_lowerOf hx, rfl⟩

/-- A list of causes cut at one of them cuts the checks. -/
theorem checks_of_causes {pre post : List (Looked × Cause × Word × Nat)} {c : Looked} {x : Cause × Word × Nat} (hcut : causesOf cs = pre ++ (c, x) :: post) :
    ∃ cpre cpost, cs = cpre ++ c :: cpost ∧ c.cause = some x ∧ ∀ y ∈ cpre, ∀ z, y.cause = some z → (y, z) ∈ pre := by
  obtain ⟨l1, l2, rfl, rfl, htail⟩ := List.filterMap_eq_append_iff.1 hcut
  obtain ⟨l3, a, l4, rfl, hnone, ha, -⟩ := List.filterMap_eq_cons_iff.1 htail
  obtain ⟨x, hx, hpair⟩ := Option.map_eq_some_iff.1 ha
  obtain ⟨rfl, rfl⟩ := Prod.mk.inj hpair
  refine ⟨l1 ++ l3, l4, (List.append_assoc ..).symm, hx, fun y hy z hz => ?_⟩
  rcases List.mem_append.1 hy with hy | hy
  · exact mem_causesOf.2 ⟨hy, hz⟩
  · have := hnone y hy
    simp [hz] at this

/-- The lanes of a trap of the lane form are those whose checks found its cause. -/
theorem lanes_trapOf {x : Looked × Cause × Word × Nat} (hu : h.u = false) {l : Nat} (hl : l < 64) :
    (trapOf v h sc wr (causesOf cs) x).lanes.getLsbD l = true ↔ ∃ c ∈ cs, c.acc.lane = some l ∧ ∃ a n, c.cause = some (x.2.1, a, n) := by
  have hlanes : (trapOf v h sc wr (causesOf cs) x).lanes = maskOf _ := if_neg (by simp [hu])
  rw [hlanes, maskOf_getLsbD _ hl]
  simp only [List.mem_filterMap, List.mem_filter, decide_eq_true_eq]
  constructor
  · rintro ⟨⟨c, k, a, n⟩, ⟨hmem, rfl⟩, hlane⟩
    obtain ⟨hc, hcause⟩ := mem_causesOf.1 hmem
    exact ⟨c, hc, hlane, a, n, hcause⟩
  · rintro ⟨c, hc, hlane, a, n, hcause⟩
    exact ⟨(c, x.2.1, a, n), ⟨mem_causesOf.2 ⟨hc, hcause⟩, rfl⟩, hlane⟩

end

theorem memoryTrapChoice : MemoryTrapChoice := by
  intro v h sc wr cs
  refine ⟨lookedTrap_none_iff, fun t ht => ?_⟩
  obtain ⟨⟨c, k, a, n⟩, hfirst, rfl⟩ := lookedTrap_some ht
  refine ⟨fun c' hc' k' a' n' hcause => ?lowest, rfl, rfl, ?first, fun hu => if_pos hu, fun hu l hl => lanes_trapOf hu hl⟩
  case lowest => exact hfirst.le (c', k', a', n') (mem_causesOf.2 ⟨hc', hcause⟩)
  case first =>
    obtain ⟨pre, post, hcut, hpre, -⟩ := hfirst
    obtain ⟨cpre, cpost, hcs, hcause, hbefore⟩ := checks_of_causes hcut
    refine ⟨cpre, c, cpost, n, hcs, hcause, rfl, rfl, fun y hy k' a' n' hy' hk => ?_⟩
    have hlt := hpre _ (hbefore y hy _ hy')
    exact absurd (congrArg causeCode hk) (Nat.ne_of_gt hlt)

/-! ### Performing loads (R165, R213, R214) -/

section

variable {s s1 : State} {v : View} {h : Hdr}

/-- An agent whose registers lie within its allocation runs a memory instruction. -/
theorem memInstr_of_runs {regs : List (BitVec 8 × Nat)} (hrun : MemRuns s v h regs) (f : View → State) : memInstr s h regs f = .next (f v) := by
  obtain ⟨hv, hej, hreg⟩ := hrun
  have hform : (v.ej && h.u) = false := by
    cases hu : h.u <;> simp [hej, hu]
  simp only [memInstr, withView_of hv, hform, hreg, Bool.not_true, Bool.false_eq_true, if_false]

/-- A check names the access that it checks. -/
@[simp] theorem lookGlb_acc (s : State) (v : View) (d : Dom) (n : Nat) (natural rd wr rp : Bool) (a : Access) :
    (lookGlb s v d n natural rd wr rp a).acc = a := by
  unfold lookGlb
  split
  · rfl
  · split
    · rfl
    · dsimp only
      split
      · rfl
      · split <;> rfl

variable {enc : Dom} {sc : Scope} {acq : Bool} {d : BitVec 8} {z : Size}

/-- The load of one checked access, behind those of the accesses before it. -/
def loadNext (v : View) (enc : Dom) (sc : Scope) (acq : Bool) (d : BitVec 8) (z : Size) (st : State × Loaded) (c : Looked) : Option (State × Loaded) :=
  if c.nres then some (st.1, { st.2 with out := st.2.out ++ [(c.acc, none)] })
  else (performLoad st.1 v enc sc acq d z c).map (fun x => (x.1, { out := st.2.out ++ [(c.acc, some x.2.1)], late := st.2.late ++ x.2.2 }))

theorem performLoads_eq (s : State) (cs : List Looked) :
    performLoads s v enc sc acq d z cs = cs.foldlM (loadNext v enc sc acq d z) (s, { out := [], late := [] }) :=
  (List.foldlM_eq_foldl ..).symm

/-- Each access is answered, with no bytes where its page is not resident. -/
theorem loadNext_out {st st' : State × Loaded} {c : Looked} (hstep : loadNext v enc sc acq d z st c = some st') :
    ∃ bs, st'.2.out = st.2.out ++ [(c.acc, bs)] ∧ bs.isNone = c.nres := by
  unfold loadNext at hstep
  split at hstep
  · next hnres =>
    cases hstep
    exact ⟨none, rfl, hnres.symm⟩
  · next hnres =>
    obtain ⟨x, -, rfl⟩ := Option.map_eq_some_iff.1 hstep
    exact ⟨some x.2.1, rfl, (Bool.eq_false_iff.2 hnres).symm⟩

theorem foldlM_loadNext_out (cs : List Looked) {st st' : State × Loaded} (hfold : cs.foldlM (loadNext v enc sc acq d z) st = some st') :
    st'.2.out.map Prod.fst = st.2.out.map Prod.fst ++ cs.map (fun c => c.acc) ∧
    st'.2.out.map (fun x => x.2.isNone) = st.2.out.map (fun x => x.2.isNone) ++ cs.map (fun c => c.nres) := by
  induction cs generalizing st with
  | nil => cases hfold; simp
  | cons c cs ih =>
    rw [List.foldlM_cons] at hfold
    obtain ⟨st1, hstep, hrest⟩ := Option.bind_eq_some_iff.1 hfold
    obtain ⟨bs, hout, hnone⟩ := loadNext_out hstep
    obtain ⟨hacc, hnres⟩ := ih hrest
    constructor
    · rw [hacc, hout]; simp
    · rw [hnres, hout]; simp [hnone]

/-- The answers of an instruction's loads are those of its accesses, in their order. -/
theorem performLoads_out {cs : List Looked} {l : Loaded} (hl : performLoads s v enc sc acq d z cs = some (s1, l)) :
    l.out.map Prod.fst = cs.map (fun c => c.acc) ∧ l.out.map (fun x => x.2.isNone) = cs.map (fun c => c.nres) := by
  rw [performLoads_eq] at hl
  simpa using foldlM_loadNext_out cs hl

/-- With the link up nothing waits for the host. -/
theorem hostWaits_of_up (hup : s.host.up = true) (secs : List Nat) : hostWaits s secs = false := by simp [hostWaits, hup]

theorem allStores_of_empty (hq : s.cores.all (fun c => c.2.sq.isEmpty) = true) : allStores s = [] := by
  have hnone : s.cores.flatMap (fun c => c.2.sq.map (fun e => (c.1, e))) = [] := by
    rw [List.flatMap_eq_nil_iff]
    intro c hc
    rw [List.isEmpty_iff.1 (List.all_eq_true.1 hq c hc), List.map_nil]
  rw [allStores, hnone]; rfl

/-- What is open on a device without stores, loads and remote requests that wait can be drained. -/
theorem drain_ne_none (hup : s.host.up = true) (hlate : s.late = []) (hrecs : s.fab.recs = []) (hq : s.cores.all (fun c => c.2.sq.isEmpty) = true)
    (ids : List Nat) : drain s ids ≠ none := by
  simp [drain, hrecs, hostWaits_of_up hup, allStores_of_empty hq, hlate]

theorem performLoad_ne_none (hup : s.host.up = true) (hlate : s.late = []) (hrecs : s.fab.recs = []) (hq : s.cores.all (fun c => c.2.sq.isEmpty) = true)
    (c : Looked) : performLoad s v enc sc acq d z c ≠ none := by
  have hdrain := drain_ne_none hup hlate hrecs hq
  simp only [performLoad, hostWaits_of_up hup, Bool.false_eq_true, if_false]
  split
  · simp
  · unfold beforeLoad
    dsimp only
    split <;> simp [hdrain]

theorem performLoads_ne_none (hup : s.host.up = true) (hlate : s.late = []) (hrecs : s.fab.recs = []) (hq : s.cores.all (fun c => c.2.sq.isEmpty) = true)
    (c : Looked) : performLoads s v enc sc acq d z [c] ≠ none := by
  have hload := performLoad_ne_none (v := v) (enc := enc) (sc := sc) (acq := acq) (d := d) (z := z) hup hlate hrecs hq c
  simp only [performLoads_eq, List.foldlM_cons, List.foldlM_nil, loadNext]
  split
  · simp
  · cases hp : performLoad s v enc sc acq d z c with
    | none => exact absurd hp hload
    | some x => simp

/-! ### Loads and stores of glb (R213, R216, R217, R306) -/

variable {dom : Dom} {rp : BitVec 3} {as_ : List Access}

/-- The checks of the accesses of a load. -/
abbrev loadChecks (s : State) (v : View) (dom : Dom) (z : Size) (rp : BitVec 3) (as_ : List Access) : List Looked :=
  as_.map (lookGlb s v dom (sizeBytes z) false true false (rp != 7))

/-- An ejected lane without a slot for the result is recalled before its checks. -/
theorem loadGlb_of_lacks (hsome : as_ ≠ []) (hlacks : v.lacks h.d (sizeRegs z) = true) : loadGlb s v h dom sc z acq rp as_ = startRecall s v.ag := by
  simp [loadGlb, hsome, hlacks]

/-- Elsewhere the checks decide: a trap, or the loads in a window. -/
theorem loadGlb_of_slot (hslot : as_ ≠ [] → v.lacks h.d (sizeRegs z) = false) : loadGlb s v h dom sc z acq rp as_ =
    match lookedTrap v h sc false (loadChecks s v dom z rp as_) with
    | some t => takeTrap s v t
    | none =>
      match performLoads s v dom sc acq h.d z (loadChecks s v dom z rp as_) with
      | none => stall s v .remote
      | some (s1, l) => finishWindow s1 v h (answerWrites h rp z l.out) 0 l.late := by
  have hkeeps : (!as_.isEmpty && v.lacks h.d (sizeRegs z)) = false := by
    cases has : as_ with
    | nil => rfl
    | cons a l => simp [hslot (by simp [has])]
  unfold loadGlb
  dsimp only
  rw [hkeeps]
  rfl

/-- THE LAW OF A LOAD OF GLB: recalled, trapped, or its bytes in a window; a single access of a quiet device is answered. -/
theorem glbLoad_law {i : Instr} (hexec : exec i s = .next (loadGlb s v h dom sc z acq rp as_)) :
    (as_ ≠ [] → v.lacks h.d (sizeRegs z) = true → exec i s = .next (startRecall s v.ag)) ∧
    ((as_ ≠ [] → v.lacks h.d (sizeRegs z) = false) →
    let cs := loadChecks s v dom z rp as_
    (∀ t, lookedTrap v h sc false cs = some t → exec i s = .next (takeTrap s v t)) ∧
    (∀ s1 l, (∀ c ∈ cs, c.cause = none) → performLoads s v dom sc acq h.d z cs = some (s1, l) →
      exec i s = .next (finishWindow s1 v h (answerWrites h rp z l.out) 0 l.late) ∧
      l.out.map Prod.fst = as_ ∧ l.out.map (fun x => x.2.isNone) = cs.map (fun c => c.nres)) ∧
    (v.g.later = [] → s.host.up = true → s.late = [] → s.fab.recs = [] → s.cores.all (fun c => c.2.sq.isEmpty) = true → (∀ c ∈ cs, c.cause = none) →
      (∀ a ∈ as_, gatesOf s (v.agent a) v.mask dom dom = []) → as_.length = 1 → performLoads s v dom sc acq h.d z cs ≠ none)) := by
  refine ⟨fun hsome hlacks => by rw [hexec, loadGlb_of_lacks hsome hlacks], fun hslot => ?_⟩
  rw [hexec, loadGlb_of_slot hslot]
  refine ⟨fun t ht => by rw [ht], fun s1 l hpass hl => ⟨?window, ?answers⟩, fun _ hup hlate hrecs hq _ _ hone => ?answered⟩
  case window => rw [lookedTrap_none_iff.2 hpass, hl]
  case answers =>
    obtain ⟨hacc, hnres⟩ := performLoads_out hl
    exact ⟨hacc.trans (by simp [Function.comp_def]), hnres⟩
  case answered =>
    obtain ⟨a, rfl⟩ := List.length_eq_one_iff.1 hone
    exact performLoads_ne_none hup hlate hrecs hq _

variable {rls : Bool}

/-- THE LAW OF A STORE TO GLB: trapped, or its bytes in the core's queues. -/
theorem glbStore_law {i : Instr} (hexec : exec i s = .next (storeGlb s v h dom sc z rls as_)) :
    let cs := as_.map (lookGlb s v dom (sizeBytes z) false false true false)
    (∀ t, lookedTrap v h sc true cs = some t → exec i s = .next (takeTrap s v t)) ∧
    ((∀ c ∈ cs, c.cause = none) →
      exec i s = .next (skip (performStores s v dom sc rls (cs.map (fun c => (c, storeBytes v.r c.acc.lane h.d z)))) v 8)) := by
  rw [hexec, storeGlb]
  exact ⟨fun t ht => by rw [ht], fun hpass => by rw [lookedTrap_none_iff.2 hpass]⟩

end

theorem globalLoadsAndStores : GlobalLoadsAndStores := by
  constructor
  · intro m g e he s v h
    simp only [glbLoadForms, List.mem_cons, List.not_mem_nil, or_false] at he
    rcases he with rfl | rfl
    · exact fun hrun => glbLoad_law (memInstr_of_runs hrun _)
    · exact fun hrun => glbLoad_law (memInstr_of_runs hrun _)
  · intro m g e he s v h
    simp only [glbStoreForms, List.mem_cons, List.not_mem_nil, or_false] at he
    rcases he with rfl | rfl
    · exact fun hrun => glbStore_law (memInstr_of_runs hrun _)
    · exact fun hrun => glbStore_law (memInstr_of_runs hrun _)

/-- Settles O19: the trap by the first cause of lowest code, loads and stores by one law each for the plain and the gathered form. -/
theorem globalMemory : Obligations.GlobalMemory := ⟨memoryTrapChoice, globalLoadsAndStores⟩

end Sys2Proof.Machine
end

section
/-! PROOF. PROBE, PGIN, PFCH and WBINV: residency, population and cache control (spec/08_memory_instructions.md R222 to R225). -/

namespace Sys2Proof.Machine

open Sys2Proof Sys2Proof.Claims

section

variable {s : State} {v : View} {h : Hdr} {m : MemMod}

/-! ### PROBE and PFCH (R222, R224) -/

theorem exec_probe (hrun : MemRuns s v h [(h.b, 1)]) :
    exec (.probe h m) s = .next (finishLong s v h ((v.accesses h 1).map (fun a => writePred a.lane h.d (probeVa s v a.va))) 0) :=
  memInstr_of_runs hrun _

/-- What PFCH does for one access: nothing for a page that does not probe. -/
def prefetchVa (v : View) (na : Bool) (s : State) (va : Word) : State :=
  if probeVa s v va then
    match lookup s v.core v.ctx va with
    | some p => if !p.resident s va then s else prefetch (touch s v.core v.ctx p false) v.core p.kind (p.pa va) na
    | none => s
  else s

theorem exec_pfch (hrun : MemRuns s v h [(h.b, 1)]) :
    exec (.pfch h m) s = .next (skip ((v.accesses h 1).foldl (fun s a => prefetchVa v m.na s a.va) s) v 8) :=
  memInstr_of_runs hrun _

theorem prefetchVa_of_not_probed {va : Word} {na : Bool} (hp : probeVa s v va = false) : prefetchVa v na s va = s := by
  simp [prefetchVa, hp]

theorem prefetchVa_of_probed {va : Word} {na : Bool} {p : Page} (hp : probeVa s v va = true) (hl : lookup s v.core v.ctx va = some p) :
    prefetchVa v na s va = if p.resident s va then prefetch (touch s v.core v.ctx p false) v.core p.kind (p.pa va) na else s := by
  simp only [prefetchVa, hp, hl, if_true]
  cases p.resident s va <;> rfl

/-- Accesses that do not probe bring nothing in. -/
theorem foldl_prefetchVa_of_not_probed {na : Bool} {as_ : List Access} (hnone : ∀ a ∈ as_, probeVa s v a.va = false) :
    as_.foldl (fun s a => prefetchVa v na s a.va) s = s := by
  induction as_ with
  | nil => rfl
  | cons a as_ ih =>
    obtain ⟨ha, has⟩ := List.forall_mem_cons.1 hnone
    rw [List.foldl_cons, prefetchVa_of_not_probed ha, ih has]

theorem probeVa_iff {va : Word} : probeVa s v va = true ↔
    ∃ p, lookup s v.core v.ctx va = some p ∧ frameCause s v.ctx p va 1 = none ∧ pteRd p.pte = true ∧ pteRes p.pte = true := by
  cases hl : lookup s v.core v.ctx va with
  | none => simp [probeVa, hl]
  | some p => simp [probeVa, hl, and_assoc]

/-! ### PGIN and WBINV (R223, R225) -/

/-- The group-wide address K(A) + K(B) + C. -/
theorem effective_one_none (v : View) (h : Hdr) : effective v h 1 none = v.r.kget h.a.toNat + v.r.kget h.b.toNat + h.c.signExtend 64 := by
  simp [effective]

theorem exec_pgin (hrun : GroupRuns s v h) : exec (.pgin h m) s = .next (match translate s v.core v.ctx (effective v h 1 none) with
    | .inl k => takeTrap s v { cause := k, lanes := v.mask, addr := effective v h 1 none }
    | .inr p => skip (if pteRes p.pte then s else postPop s v.ctx (effective v h 1 none) 2) v 8) :=
  groupWide_of_runs hrun 8 _

/-- What WBINV does for an address whose page is mapped. -/
def wbinvPage (s : State) (v : View) (m : MemMod) (p : Page) (va : Word) : State :=
  match frameCause s v.ctx p va 1 with
  | some c => takeTrap s v { cause := c, lanes := v.mask, addr := va, acc := some (m.dom, m.sc) }
  | none =>
    if !pteRd p.pte then takeTrap s v { cause := .perm, lanes := v.mask, addr := va, acc := some (m.dom, m.sc) }
    else
      match drain s (openIds s v.core v.whole v.mask m.dom) with
      | none => stall s v .remote
      | some s1 => skip (if pteCm p.pte = .unc then s1 else wbinvLine s1 v.core (m.sc != .cls) (p.pa va)) v 8

theorem exec_wbinv (hrun : GroupRuns s v h) : exec (.wbinv h m) s = .next (match translate s v.core v.ctx (effective v h 1 none) with
    | .inl k => takeTrap s v { cause := k, lanes := v.mask, addr := effective v h 1 none, acc := some (m.dom, m.sc) }
    | .inr p => wbinvPage s v m p (effective v h 1 none)) :=
  groupWide_of_runs hrun 8 _

end

/-- Settles O23: PROBE and PFCH access by access, PGIN and WBINV by the translation of their one address. -/
theorem residencyAndCacheControl : Obligations.ResidencyAndCacheControl := by
  refine ⟨fun s v h m hrun => ⟨exec_probe hrun, fun hnone => ?dropped, fun a p has hp hl => ?fetched⟩, fun s v va => probeVa_iff, fun s v h m hrun => ?paged⟩
  case dropped => rw [exec_pfch hrun, foldl_prefetchVa_of_not_probed hnone]
  case fetched => rw [exec_pfch hrun, has, List.foldl_cons, List.foldl_nil, prefetchVa_of_probed hp hl]
  case paged =>
    intro va
    have hpgin := exec_pgin (m := m) hrun
    have hwbinv := exec_wbinv (m := m) hrun
    rw [effective_one_none] at hpgin hwbinv
    refine ⟨fun k hk => ⟨by rw [hpgin, hk], by rw [hwbinv, hk]⟩, fun p hp => ⟨fun hres => ?_, fun hres => ?_, fun c hc => ?_, fun hf hrd => ?_, fun s1 hf hrd hd => ?_⟩⟩
    · rw [hpgin, hp]; simp [hres]
    · rw [hpgin, hp]; simp [va, hres]
    · rw [hwbinv, hp]; simp [wbinvPage, va, hc]
    · rw [hwbinv, hp]; simp [wbinvPage, va, hf, hrd]
    · rw [hwbinv, hp]; simp [wbinvPage, va, hf, hrd, hd]

end Sys2Proof.Machine
end

section
/-! PROOF. BT and BTG: the command queued, the guard armed, and where they trap (spec/08_memory_instructions.md R229, R231 to R233, R240, R247). -/

namespace Sys2Proof.Machine

open Sys2Proof Sys2Proof.Claims

/-! ### The first of several causes (R364) -/

/-- What ranks no higher than the rest stays chosen. -/
theorem foldl_lowerOf_keeps {α : Type} {rank : α → Nat} {x : α} {l : List α} (hle : ∀ y ∈ l, rank x ≤ rank y) :
    l.foldl (lowerOf rank) (some x) = some x := by
  induction l with
  | nil => rfl
  | cons y l ih =>
    obtain ⟨hy, hl⟩ := List.forall_mem_cons.1 hle
    rw [List.foldl_cons, lowerOf, if_neg (Nat.not_lt.2 hy), ih hl]

theorem worst_eq_foldl (l : List (Cause × Word)) (rank : Cause → Nat) : worst l rank = l.foldl (lowerOf fun x => rank x.1) none := by
  have hlower : (lowerOf fun x : Cause × Word => rank x.1) = fun b x =>
      match b with
      | none => some x
      | some y => if rank x.1 < rank y.1 then some x else some y := by
    funext b x
    cases b <;> rfl
  rw [hlower]
  rfl

/-- A first cause that no other precedes by its code is the trap's. -/
theorem firstCause_cons {x : Cause × Word} {l : List (Option (Cause × Word))} (hle : ∀ y, some y ∈ l → causeCode x.1 ≤ causeCode y.1) :
    firstCause (some x :: l) = some x := by
  rw [firstCause, worst_eq_foldl]
  refine foldl_lowerOf_keeps fun y hy => ?_
  obtain ⟨o, ho, hy⟩ := List.mem_filterMap.1 hy
  exact hle y (Eq.subst (motive := (· ∈ l)) hy ho)

section

variable {s : State} {v : View} {h : Hdr} {m : BtMod} {btg : Bool}

/-! ### The checks at issue (R229, R231, R233, R237) -/

/-- Is a transfer refused by its shape: not legal, or for BTG more than 64 KiB? -/
def transferIll (v : View) (h : Hdr) (btg : Bool) : Bool :=
  !shapeOk (shapeWords v h) || (btg && decide (65536 < (shapeFields (shapeWords v h)).rows * (shapeFields (shapeWords v h)).rb))

/-- The cause that the barrier of a transfer gives. -/
def barrierCause (v : View) (tb : Word) : Option (Cause × Word) :=
  if !alignedTo tb 16 then some (.align, tb) else if spaceAlloc v.pkt .loc < tb.toNat + 16 then some (.perm, tb) else none

/-- The cause that the source or the destination of a transfer gives. -/
def sideCause (v : View) (h : Hdr) (m : BtMod) (src : Bool) : Option (Cause × Word) :=
  localSideCause v.pkt m.dir (shapeFields (shapeWords v h)) (if src then (sidesOf m.dir).1 else (sidesOf m.dir).2) src
    (if src then v.r.kget h.a.toNat else v.r.kget h.d.toNat)

/-- The cause that the key slot of BTG gives. -/
def keyCause (s : State) (v : View) (h : Hdr) (btg : Bool) : Option (Cause × Word) :=
  if btg && !holdsKey s v.ctx (bitsOf (v.r.kget (h.b.toNat + 4)).toNat 63 56) then some (.perm, 0) else none

/-- The cause that a transfer traps with, and its address. -/
def transferCause (s : State) (v : View) (h : Hdr) (m : BtMod) (btg : Bool) : Option (Cause × Word) :=
  firstCause [barrierCause v (v.r.kget h.c.toNat), sideCause v h m true, sideCause v h m false, keyCause s v h btg]

/-- The sides and the key give ALIGN or PERM. -/
theorem code_of_localSideCause {p : Packet} {d : Dir} {x : Shape} {side : Side} {src : Bool} {base : Word} {y : Cause × Word}
    (hy : localSideCause p d x side src base = some y) : 6 ≤ causeCode y.1 := by
  cases side with
  | glb => cases hy
  | peer => cases hy
  | loc sp =>
    rw [localSideCause] at hy
    split at hy
    · rw [← Option.some.inj hy]; exact Nat.le_refl 6
    · obtain ⟨-, hperm⟩ := Option.ite_none_right_eq_some.1 hy
      rw [← Option.some.inj hperm]; exact Nat.le_add_right 6 2

theorem code_of_keyCause {x : Cause × Word} (hx : keyCause s v h btg = some x) : 6 ≤ causeCode x.1 := by
  unfold keyCause at hx
  split at hx
  · cases hx; decide
  · cases hx

/-- A misaligned barrier is the trap, whatever else is wrong. -/
theorem transferCause_of_misaligned (hal : (v.r.kget h.c.toNat).toNat % 16 ≠ 0) : transferCause s v h m btg = some (.align, v.r.kget h.c.toNat) := by
  have hbar : barrierCause v (v.r.kget h.c.toNat) = some (.align, v.r.kget h.c.toNat) := by simp [barrierCause, alignedTo, hal]
  rw [transferCause, hbar]
  refine firstCause_cons fun y hy => ?_
  simp only [List.mem_cons, List.not_mem_nil, or_false] at hy
  rcases hy with hy | hy | hy
  · exact code_of_localSideCause hy.symm
  · exact code_of_localSideCause hy.symm
  · exact code_of_keyCause hy.symm

/-- A barrier outside L-space is the trap where sides and key pass. -/
theorem transferCause_of_outside (hal : (v.r.kget h.c.toNat).toNat % 16 = 0) (hout : spaceAlloc v.pkt .loc < (v.r.kget h.c.toNat).toNat + 16)
    (hsrc : sideCause v h m true = none) (hdst : sideCause v h m false = none) : transferCause s v h m false = some (.perm, v.r.kget h.c.toNat) := by
  have hbar : barrierCause v (v.r.kget h.c.toNat) = some (.perm, v.r.kget h.c.toNat) := by simp [barrierCause, alignedTo, hal, hout]
  rw [transferCause, hbar, hsrc, hdst]
  rfl

theorem keySlot_eq (w : Word) : bitsOf w.toNat 63 56 = w.toNat / 2 ^ 56 := by
  have := w.isLt
  simp only [bitsOf]
  omega

/-- A transfer that may be accepted passes its checks. -/
theorem transferCause_of_ok (hok : TransferOk s v h m btg) : transferCause s v h m btg = none := by
  obtain ⟨-, -, -, ⟨hal, hin⟩, hsrc, hdst, hkey⟩ := hok
  have hbar : barrierCause v (v.r.kget h.c.toNat) = none := by simp [barrierCause, alignedTo, hal, hin]
  have hkeys : keyCause s v h btg = none := by
    cases btg with
    | false => rfl
    | true => rw [keyCause, keySlot_eq, hkey rfl]; rfl
  rw [transferCause, hbar, hkeys, show sideCause v h m true = none from hsrc, show sideCause v h m false = none from hdst]
  rfl

theorem transferIll_of_ok (hok : TransferOk s v h m btg) : transferIll v h btg = false := by
  obtain ⟨hshape, hsize⟩ := hok.shape
  cases btg with
  | false => simp [transferIll, hshape]
  | true => simp [transferIll, hshape, hsize rfl]

/-! ### The command (R231, R232, R240) -/

/-- The command that BT or BTG becomes in a state. -/
def transferCmd (s : State) (s1 : State) (v : View) (h : Hdr) (m : BtMod) (btg : Bool) : BtCmd :=
  { id := s1.ids, blk := v.ag.blk, grp := v.ag.grp, btg := btg, ecsn := (s1.core v.core).ecsn, pc := v.r.pc, iword := s.word, dom := m.dom, sc := m.sc, dir := m.dir,
    dst := v.r.kget h.d.toNat, src := v.r.kget h.a.toNat, shape := shapeWords v h,
    peer := if m.dir = .peerLoc then v.r.kget (h.a.toNat + 1) else if m.dir = .locPeer then v.r.kget (h.d.toNat + 1) else 0,
    tb := (v.r.kget h.c.toNat).toNat, guard := if m.g then some m.slot.toNat else none, row := 0, owed := (shapeFields (shapeWords v h)).sectors,
    started := false, stopped := false, popWait := none, plain := none, key := if btg then v.r.kget (h.b.toNat + 4) else 0,
    tagVa := if btg then v.r.kget (h.b.toNat + 5) else 0, ctrOk := false }

/-- The state in which a command has joined its queue. -/
def transferQueued (s : State) (v : View) (store : Bool) (c : BtCmd) (g1 : Group) : State :=
  ((setBtQueue s.newId.2 v.core store (btQueueOf s v.core store ++ [c])).mapCore v.core (fun x => { x with ecsn := (s.core v.core).ecsn + 1 })).mapGroup
    v.ag.blk v.ag.grp (fun g => { g with guards := g1.guards })

section

variable {store : Bool} {c : BtCmd} {g1 : Group}

theorem core_transferQueued : (transferQueued s v store c g1).core v.core =
    { (setBtQueue s.newId.2 v.core store (btQueueOf s v.core store ++ [c])).core v.core with ecsn := (s.core v.core).ecsn + 1 } := by
  rw [transferQueued, State.core, State.mapGroup_cores]
  exact State.core_mapCore ..

theorem btQueueOf_transferQueued : btQueueOf (transferQueued s v store c g1) v.core store = btQueueOf s v.core store ++ [c] := by
  rw [btQueueOf, core_transferQueued]
  exact btQueueOf_setBtQueue s.newId.2 v.core store _

theorem mem_transferQueued : (transferQueued s v store c g1).mem = s.mem := State.mapGroup_mem ..

theorem group_transferQueued : (transferQueued s v store c g1).group? v.ag.blk v.ag.grp =
    (s.group? v.ag.blk v.ag.grp).map (fun g => { g with guards := g1.guards }) := State.group_mapGroup ..

end

/-- What BT and BTG do whose checks pass. -/
def transferAccept (s : State) (v : View) (h : Hdr) (m : BtMod) (btg : Bool) (g1 : Group) : State :=
  if Config.btQueue ≤ (btQueueOf s v.core (storeQueueDir m.dir)).length then stallOn s v .queue [if storeQueueDir m.dir then 1 else 0]
  else match beforeTransfer s v m.dom with
    | none => stall s v .remote
    | some s1 => skip (transferQueued s1 v (storeQueueDir m.dir) (transferCmd s s1 v h m btg) g1) v 8

/-- Where BT and BTG go: the checks in their order, then the guard slot, then the queue. -/
theorem transfer_eq (hrun : GroupRuns s v h) : transfer s h m btg = .next (
    if transferIll v h btg then illegal s v
    else if v.ag.grp ≠ v.pkt.producer then plainTrap s v .stream v.mask
    else match transferCause s v h m btg with
      | some (c, a) => takeTrap s v { cause := c, lanes := v.mask, addr := a }
      | none =>
        match guardsAfter v.g m.g m.slot.toNat with
        | none => plainTrap s v .guard v.mask
        | some g1 => transferAccept s v h m btg g1) := by
  rw [transfer, groupWide_of_runs hrun]
  rfl

end

/-- BT and BTG are one instruction with a flag (R236). -/
theorem exec_transfers {m : BtMod} : ∀ e ∈ transfers m, ∀ (h : Hdr) (s : State), exec (e.1 h) s = transfer s h m e.2 := by
  simp only [transfers, List.forall_mem_cons]
  exact ⟨fun _ _ => rfl, fun _ _ => rfl, by simp⟩

theorem transferTraps : TransferTraps := by
  intro m e he s v h hrun
  have hexec := (exec_transfers e he h s).trans (transfer_eq hrun)
  refine ⟨fun hill => ?illegal, fun hbt hok hgrp => ?stream, fun hbt hok hgrp hal => ?align, fun hbt hok hgrp hal hout hsrc hdst => ?perm, fun hok hguard => ?guard⟩
  case illegal => rwa [if_pos (by simp [transferIll, hill])] at hexec
  case stream => rwa [if_neg (by simp [transferIll, hok, hbt]), if_pos hgrp] at hexec
  case align => rwa [if_neg (by simp [transferIll, hok, hbt]), if_neg (not_not_intro hgrp), transferCause_of_misaligned hal] at hexec
  case perm => rwa [if_neg (by simp [transferIll, hok, hbt]), if_neg (not_not_intro hgrp), hbt, transferCause_of_outside hal hout hsrc hdst] at hexec
  case guard =>
    rwa [if_neg (by simp [transferIll_of_ok hok]), if_neg (not_not_intro hok.producer), transferCause_of_ok hok, hguard] at hexec

theorem transfersAreQueued : TransfersAreQueued := by
  intro m e he s v h g1 s1 hok hguard store x
  have hexec := (exec_transfers e he h s).trans (transfer_eq hok.runs)
  rw [if_neg (by simp [transferIll_of_ok hok]), if_neg (not_not_intro hok.producer), transferCause_of_ok hok, hguard] at hexec
  refine ⟨fun hfull => hexec.trans (congrArg _ (if_pos hfull)), fun hroom hbefore => ⟨_, transferCmd s s1 v h m e.2, ?joins, btQueueOf_transferQueued (g1 := g1), mem_transferQueued,
    ?counter, rfl, rfl, rfl, rfl, rfl, rfl, rfl, rfl, rfl, rfl, rfl, rfl, rfl, rfl, rfl, rfl, fun hdir => if_pos hdir, fun hdir => ?peer, fun hbtg => ?key, fun y z hy hz => ?group⟩⟩
  case joins =>
    refine hexec.trans (congrArg _ ?_)
    show transferAccept s v h m e.2 g1 = _
    have hroom : ¬ Config.btQueue ≤ (btQueueOf s v.core (storeQueueDir m.dir)).length := Nat.not_le.2 hroom
    rw [transferAccept, if_neg hroom, hbefore]
  case counter => rw [core_transferQueued]
  case peer => exact (if_neg (by rw [hdir]; decide)).trans (if_pos hdir)
  case key => exact ⟨if_pos hbtg, if_pos hbtg⟩
  case group =>
    rw [group_transferQueued, hy] at hz
    exact (Option.some.inj hz).symm

/-- Settles O24: the checks of a transfer in their order, and the command at the end of its queue. -/
theorem blockTransferIssue : Obligations.BlockTransferIssue := ⟨transfersAreQueued, transferTraps⟩

end Sys2Proof.Machine
end

section
/-! PROOF. TILE, TILEQ, OBJDCL and OBJREL: the tile table and the object table (spec/08_memory_instructions.md R242 to R246, R249, R250). -/

namespace Sys2Proof.Machine

open Sys2Proof Sys2Proof.Claims

/-! ### The tile table (R242 to R246) -/

theorem tileOf_setTile (s : State) (core i j : Nat) (t : Tile) : tileOf (setTile s core i t) core j = if j = i then t else tileOf s core j := by
  rw [tileOf, setTile, State.core_mapCore, tget_tset]
  split
  · rfl
  · rfl

theorem foreign_eq_false {t : Tile} {b : Nat} : t.foreign b = false ↔ t.blk = none ∨ t.blk = some b := by
  cases ht : t.blk <;> simp [Tile.foreign, ht]

section

variable {s : State} {v : View} {h : Hdr}

/-- The entry that TILE writes: FILLING in the phase that follows its barrier's (R243). -/
def tileEntry (s : State) (v : View) (w tb : Word) : Tile :=
  { blk := some v.ag.blk, desc := w, tb := tb.toNat, phi := ((getTb s v.ag.blk tb.toNat).phase + 1) % 16, st := .filling, users := 0 }

/-- Where TILE goes: its checks in their order, the wait for a DRAINING entry, the entry. -/
theorem exec_tile (hrun : GroupRuns s v h) : exec (.tile h) s = .next (
    if !tileDescOk (v.r.kget h.a.toNat) then illegal s v
    else if v.ag.grp ≠ v.pkt.producer then plainTrap s v .stream v.mask
    else if !alignedTo (v.r.kget h.b.toNat) 16 then takeTrap s v { cause := .align, lanes := v.mask, addr := v.r.kget h.b.toNat }
    else if !tileFits v.pkt (tileDescOf (v.r.kget h.a.toNat)) || decide (spaceAlloc v.pkt .loc < (v.r.kget h.b.toNat).toNat + 16) ||
      (tileOf s v.core h.d.toNat).foreign v.ag.blk then plainTrap s v .perm v.mask
    else if (tileOf s v.core h.d.toNat).st = .draining then stallOn s v .tile [h.d.toNat]
    else skip (setTile s v.core h.d.toNat (tileEntry s v (v.r.kget h.a.toNat) (v.r.kget h.b.toNat))) v 8) :=
  groupWide_of_runs hrun 8 _

theorem exec_tileq (hrun : GroupRuns s v h) : exec (.tileq h) s = .next (
    if (tileOf s v.core h.a.toNat).foreign v.ag.blk then plainTrap s v .perm v.mask
    else finishLong s v h [.k h.d.toNat (BitVec.ofNat 64 (tileCode (tileOf s v.core h.a.toNat).st + 16 * ((tileOf s v.core h.a.toNat).phi % 16) +
      2 ^ 32 * ((tileOf s v.core h.a.toNat).tb % 2 ^ 19)))] 0) :=
  groupWide_of_runs hrun 8 _

end

theorem tileTable : TileTable := by
  intro s v h hrun w tb t q
  have htile := exec_tile hrun
  have htileq := exec_tileq hrun
  refine ⟨fun hill => ?illegal, fun hok hgrp => ?stream, fun hok hgrp hal => ?align, fun hok hgrp hal hfit hin hown => ?passes, fun b hb hne => ?foreign, fun hown => ?read⟩
  case illegal => rwa [if_pos (by simp [show tileDescOk (v.r.kget h.a.toNat) = false from hill])] at htile
  case stream => rwa [if_neg (by simp [show tileDescOk (v.r.kget h.a.toNat) = true from hok]), if_pos hgrp] at htile
  case align =>
    have haligned : (!alignedTo (v.r.kget h.b.toNat) 16) = true := by simp [alignedTo, show (v.r.kget h.b.toNat).toNat % 16 ≠ 0 from hal]
    rwa [if_neg (by simp [show tileDescOk (v.r.kget h.a.toNat) = true from hok]), if_neg (not_not_intro hgrp), if_pos haligned] at htile
  case passes =>
    have hal' : ¬ (!alignedTo tb 16) = true := by simp [alignedTo, hal]
    have hfits : ¬ (!tileFits v.pkt (tileDescOf w) || decide (spaceAlloc v.pkt .loc < tb.toNat + 16) || t.foreign v.ag.blk) = true := by
      simp [hfit, Nat.not_lt.2 hin, foreign_eq_false.2 hown]
    rw [if_neg (by simp [show tileDescOk (v.r.kget h.a.toNat) = true from hok]), if_neg (not_not_intro hgrp), if_neg hal', if_neg hfits] at htile
    refine ⟨fun hdrain => by rwa [if_pos hdrain] at htile, fun hfree => ?_⟩
    rw [if_neg hfree] at htile
    refine ⟨_, htile, rfl, ?_, fun i hi => ?_⟩
    · rw [tileOf_setTile, if_pos rfl]; rfl
    · rw [tileOf_setTile, if_neg hi]
  case foreign =>
    have hforeign : (tileOf s v.core h.a.toNat).foreign v.ag.blk = true := by simp [Tile.foreign, show (tileOf s v.core h.a.toNat).blk = some b from hb, hne]
    rwa [if_pos hforeign] at htileq
  case read =>
    rw [if_neg (Bool.eq_false_iff.1 (foreign_eq_false.2 hown))] at htileq
    exact htileq

/-! ### Declaring an object (R194, R249) -/

section

variable {s : State} {v : View} {h : Hdr} {slot : BitVec 3}

/-- The second word of an object's record: the shape's stride and the protocol slot. -/
def objWord (w1 : Word) (slot : BitVec 3) : Word := BitVec.ofNat 64 (bitsOf w1.toNat 39 0 + 2 ^ 40 * slot.toNat)

theorem objWord_toNat (w1 : Word) (slot : BitVec 3) : (objWord w1 slot).toNat = w1.toNat % 2 ^ 40 + 2 ^ 40 * slot.toNat := by
  have := slot.isLt
  simp only [objWord, bitsOf, BitVec.toNat_ofNat]
  omega

/-- The state in which an object has been declared. -/
def objDeclared (s : State) (v : View) (h : Hdr) (slot : BitVec 3) (ps : List Page) (i : Nat) : State :=
  let s1 := purgeFrames s (rangeFrames ps) none
  let s2 := physPutFor s1 v.ctx (((tget s1.ctxs v.ctx).map (fun c => c.objtab)).getD 0 + 16 * i)
    (toBytes 8 (v.r.kget h.c.toNat).toNat ++ toBytes 8 (objWord (v.r.kget (h.c.toNat + 1)) slot).toNat)
  stampObject { s2 with objs := tset s2.objs (4096 * v.ctx + i) { base := v.r.kget h.a.toNat, extent := (v.r.kget h.b.toNat).toNat } } v.ctx ps i

/-- What OBJDCL does with a range that is mapped: the rights, the overlap, the index. -/
def objdclMapped (s : State) (v : View) (h : Hdr) (slot : BitVec 3) (ps : List Page) : State :=
  let base := v.r.kget h.a.toNat
  let n := (v.r.kget h.b.toNat).toNat
  if ps.any (fun p => frameCause s v.ctx p (BitVec.ofNat 64 p.va) (pageBytes p.big) == some .xlat) then
    takeTrap s v { cause := .xlat, lanes := v.mask, addr := base }
  else if !slotAllowed s v.ctx slot.toNat || ps.any (fun p => (frameCause s v.ctx p (BitVec.ofNat 64 p.va) (pageBytes p.big)).isSome) ||
      objOverlap s v.ctx base n then takeTrap s v { cause := .perm, lanes := v.mask, addr := base }
  else
    match freeObject s v.ctx with
    | none => finish s v 8 [.k h.d.toNat 0] 0
    | some i => finish (objDeclared s v h slot ps i) v 8 [.k h.d.toNat (BitVec.ofNat 64 i)] 0

/-- Where OBJDCL goes: its shape, its alignment, its translation, the rest. -/
theorem exec_objdcl (hrun : GroupRuns s v h) : exec (.objdcl h slot) s = .next (
    if !objShapeOk (v.r.kget h.c.toNat) (v.r.kget (h.c.toNat + 1)) || (v.r.kget h.b.toNat).toNat = 0 then illegal s v
    else if !alignedTo (v.r.kget h.a.toNat) 65536 || (v.r.kget h.b.toNat).toNat % 65536 != 0 ||
      splitsPage s v.ctx (v.r.kget h.a.toNat) (v.r.kget h.b.toNat).toNat then takeTrap s v { cause := .align, lanes := v.mask, addr := v.r.kget h.a.toNat }
    else match rangeGap s v.ctx (v.r.kget h.a.toNat) (v.r.kget h.b.toNat).toNat with
      | some va => takeTrap s v { cause := .xlat, lanes := v.mask, addr := va }
      | none => objdclMapped s v h slot (rangePages s v.ctx (v.r.kget h.a.toNat) (v.r.kget h.b.toNat).toNat)) := by
  change execObjdcl h slot s = _
  rw [execObjdcl, groupWide_of_runs hrun]
  refine congrArg Host.Outcome.next (if_congr Iff.rfl rfl (if_congr Iff.rfl rfl ?_))
  dsimp only
  cases rangeGap s v.ctx (v.r.kget h.a.toNat) (v.r.kget h.b.toNat).toNat with
  | some va => rfl
  | none =>
    refine if_congr Iff.rfl rfl (if_congr Iff.rfl rfl ?_)
    cases freeObject s v.ctx with
    | none => rfl
    | some i => rfl

/-- With every frame within its right, the slot allowed and no overlap, the free index decides. -/
theorem objdclMapped_of_permitted {ps : List Page} (hframes : ∀ p ∈ ps, frameCause s v.ctx p (BitVec.ofNat 64 p.va) (pageBytes p.big) = none)
    (hslot : slotAllowed s v.ctx slot.toNat = true) (hover : objOverlap s v.ctx (v.r.kget h.a.toNat) (v.r.kget h.b.toNat).toNat = false) :
    objdclMapped s v h slot ps = match freeObject s v.ctx with
      | none => finish s v 8 [.k h.d.toNat 0] 0
      | some i => finish (objDeclared s v h slot ps i) v 8 [.k h.d.toNat (BitVec.ofNat 64 i)] 0 := by
  have hxlat : ps.any (fun p => frameCause s v.ctx p (BitVec.ofNat 64 p.va) (pageBytes p.big) == some .xlat) = false := by
    rw [List.any_eq_false]
    exact fun p hp => by simp [hframes p hp]
  have hperm : ps.any (fun p => (frameCause s v.ctx p (BitVec.ofNat 64 p.va) (pageBytes p.big)).isSome) = false := by
    rw [List.any_eq_false]
    exact fun p hp => by simp [hframes p hp]
  simp only [objdclMapped, hxlat, hperm, hslot, hover, Bool.not_true, Bool.or_self, Bool.false_eq_true, if_false]

theorem objdcl_law (hrun : GroupRuns s v h) :
    let base := v.r.kget h.a.toNat
    let n := (v.r.kget h.b.toNat).toNat
    let w0 := v.r.kget h.c.toNat
    let w1 := v.r.kget (h.c.toNat + 1)
    (objShapeOk w0 w1 = false ∨ n = 0 → exec (.objdcl h slot) s = .next (takeTrap s v { cause := .ill, lanes := v.mask })) ∧
    (objShapeOk w0 w1 = true → n ≠ 0 → base.toNat % 65536 ≠ 0 ∨ n % 65536 ≠ 0 → exec (.objdcl h slot) s = .next (takeTrap s v { cause := .align, lanes := v.mask, addr := base })) ∧
    (objShapeOk w0 w1 = true → n ≠ 0 → base.toNat % 65536 = 0 → n % 65536 = 0 → splitsPage s v.ctx base n = false →
      (∀ va, rangeGap s v.ctx base n = some va → exec (.objdcl h slot) s = .next (takeTrap s v { cause := .xlat, lanes := v.mask, addr := va })) ∧
      (rangeGap s v.ctx base n = none → exec (.objdcl h slot) s = .next (objdclMapped s v h slot (rangePages s v.ctx base n)))) := by
  intro base n w0 w1
  have hexec := exec_objdcl (slot := slot) hrun
  have hlegal : objShapeOk w0 w1 = true → n ≠ 0 → ¬ (!objShapeOk w0 w1 || decide (n = 0)) = true := fun hok hn => by simp [hok, hn]
  refine ⟨fun hill => ?illegal, fun hok hn hal => ?align, fun hok hn hbase hlen hsplit => ?mapped⟩
  case illegal =>
    have hbad : (!objShapeOk w0 w1 || decide (n = 0)) = true := by simpa using hill
    rwa [if_pos hbad] at hexec
  case align =>
    have hbad : (!alignedTo base 65536 || n % 65536 != 0 || splitsPage s v.ctx base n) = true := by
      rw [Bool.or_eq_true]
      exact Or.inl (by simpa [alignedTo] using hal)
    rwa [if_neg (hlegal hok hn), if_pos hbad] at hexec
  case mapped =>
    have hgood : ¬ (!alignedTo base 65536 || n % 65536 != 0 || splitsPage s v.ctx base n) = true := by simp [alignedTo, hbase, hlen, hsplit]
    rw [if_neg (hlegal hok hn), if_neg hgood] at hexec
    exact ⟨fun va hgap => by rwa [hgap] at hexec, fun hgap => by rwa [hgap] at hexec⟩

/-! ### The record and the index of an object (R194, R196, R249) -/

theorem tileShapeOf_objWord (w0 w1 : Word) (slot : BitVec 3) : tileShapeOf w0 (BitVec.ofNat 64 (w1.toNat % 2 ^ 40 + 2 ^ 40 * slot.toNat)) =
    { rows := w0.toNat % 2 ^ 16, cols := w0.toNat / 2 ^ 16 % 2 ^ 16, ebl := w0.toNat / 2 ^ 32 % 8, stride := w1.toNat % 2 ^ 40, slot := slot.toNat } := by
  have := slot.isLt
  simp only [tileShapeOf, bitsOf, BitVec.toNat_ofNat, TileShape.mk.injEq]
  norm_num
  omega

/-- The free index of a context is found by its place. -/
theorem freeObject_eq (s : State) (ctx : Nat) :
    freeObject s ctx = ((List.range 4095).find? (fun i => (tget s.objs (4096 * ctx + i + 1)).isNone)).map (fun i => i + 1) := by
  rw [freeObject]
  induction List.range 4095 with
  | nil => rfl
  | cons i l ih =>
    rw [List.findSome?_cons, List.find?_cons, ih]
    cases (tget s.objs (4096 * ctx + i + 1)).isNone <;> rfl

theorem freeObject_some {ctx i : Nat} (hfree : freeObject s ctx = some i) :
    1 ≤ i ∧ i < 4096 ∧ tget s.objs (4096 * ctx + i) = none ∧ ∀ j, 1 ≤ j → j < i → tget s.objs (4096 * ctx + j) ≠ none := by
  rw [freeObject_eq, Option.map_eq_some_iff] at hfree
  obtain ⟨k, hk, rfl⟩ := hfree
  obtain ⟨hnone, hlt, hbefore⟩ := List.find?_range_eq_some.1 hk
  refine ⟨Nat.le_add_left 1 k, by have := List.mem_range.1 hlt; omega, Option.isNone_iff_eq_none.1 hnone, fun j hj hlt hnone => ?_⟩
  obtain ⟨j, rfl⟩ := Nat.exists_eq_add_of_le' hj
  have hused := hbefore j (Nat.lt_of_succ_lt_succ hlt)
  rw [show 4096 * ctx + j + 1 = 4096 * ctx + (j + 1) from rfl, hnone] at hused
  cases hused

/-! ### Releasing an object (R250) -/

/-- The object that OBJREL names: none for an index out of range. -/
def namedObject (s : State) (ctx i : Nat) : Option Obj := if i = 0 ∨ 4096 ≤ i then none else tget s.objs (4096 * ctx + i)

/-- The state in which the pages of an object name none. -/
def objUnstamped (s : State) (ctx i : Nat) (o : Obj) : State :=
  stampObject (purgeFrames s (rangeFrames (rangePages s ctx o.base o.extent)) (some { ctx := ctx, obj := i })) ctx (rangePages s ctx o.base o.extent) 0

theorem exec_objrel (hrun : GroupRuns s v h) : exec (.objrel h) s = .next (
    match namedObject s v.ctx (v.r.kget h.a.toNat).toNat with
    | none => plainTrap s v .perm v.mask
    | some o =>
      let s1 := objUnstamped s v.ctx (v.r.kget h.a.toNat).toNat o
      skip { s1 with objs := terase s1.objs (4096 * v.ctx + (v.r.kget h.a.toNat).toNat) } v 8) :=
  groupWide_of_runs hrun 8 _

end

theorem coherenceObjects : CoherenceObjects := by
  refine ⟨fun s v h slot ps hrun => ?declare, fun w0 w1 slot _ => tileShapeOf_objWord w0 w1 slot, fun s ctx i => freeObject_some, fun s v h hrun => ?release⟩
  case declare =>
    intro base n w0 w1
    obtain ⟨hill, halign, hmapped⟩ := objdcl_law (slot := slot) hrun
    refine ⟨hill, halign, fun hok hn hbase hlen hsplit => ?_⟩
    obtain ⟨hxlat, hdeclare⟩ := hmapped hok hn hbase hlen hsplit
    refine ⟨hxlat, fun hps hgap hframes hslot hover => ?_⟩
    have hexec := hdeclare hgap
    rw [hps, objdclMapped_of_permitted hframes hslot hover] at hexec
    refine ⟨fun hfull => hexec.trans (by rw [hfull]), fun i hfree => ⟨objDeclared s v h slot ps i, { base := base, extent := n }, hexec.trans (by rw [hfree]), rfl, rfl, ?_⟩⟩
    rw [objDeclared, objWord_toNat]
  case release =>
    intro i
    have hexec := exec_objrel hrun
    refine ⟨fun hnone => ?_, fun o hlo hhi ho => ?_⟩
    · have hnamed : namedObject s v.ctx i = none := by
        rw [namedObject, ite_eq_left_iff]
        exact fun hin => (or_assoc.2 hnone).resolve_left hin
      rwa [hnamed] at hexec
    · have hnamed : namedObject s v.ctx i = some o := by
        rw [namedObject, if_neg (by omega), ho]
      rw [hnamed] at hexec
      exact ⟨_, hexec, rfl, tget_terase_same ..⟩

/-- Settles O26: TILE, TILEQ, OBJDCL and OBJREL by their checks in order, the record and the index of an object by their arithmetic. -/
theorem tilesAndObjects : Obligations.TilesAndObjects := ⟨tileTable, coherenceObjects⟩

end Sys2Proof.Machine
end

section
/-! PROOF. Where the rows of a transfer lie, and how a transfer starts, moves rows, stops and fails (spec/08_memory_instructions.md R230, R232, R234, R235,
R237, R246, R247). -/

namespace Sys2Proof.Machine

open Sys2Proof Sys2Proof.Claims

/-! ### The rows (R230) -/

/-- The directions whose source is the dense side. -/
theorem stridedSource_eq_false (d : Dir) : stridedSource d = false ↔ d = .locGlb ∨ d = .abufGlb ∨ d = .zbufGlb ∨ d = .locPeer := by
  cases d <;> simp [stridedSource]

theorem toNat_rowVa (c : BtCmd) (src : Bool) (r : Nat) : (rowVa c src r).toNat = ((if src then c.src else c.dst).toNat +
    (if src == stridedSource c.dir then (shapeFields c.shape).strided r else r * (shapeFields c.shape).pitch)) % 2 ^ 64 := by
  rw [rowVa, BitVec.toNat_add, BitVec.toNat_ofNat, Nat.add_mod_mod]

/-- The offset of the row of three indices. -/
theorem strided_of_indices (x : Shape) {i1 i2 i3 : Nat} (hi1 : i1 < x.n1) (hi2 : i2 < x.n2) :
    x.strided (i1 + x.n1 * (i2 + x.n2 * i3)) = i1 * x.s1 + i2 * x.s2 + i3 * x.s3 := by
  have hdiv1 : (i1 + x.n1 * (i2 + x.n2 * i3)) / x.n1 = i2 + x.n2 * i3 := by
    rw [Nat.add_mul_div_left _ _ (Nat.zero_lt_of_lt hi1), Nat.div_eq_of_lt hi1, Nat.zero_add]
  have hdiv2 : (i2 + x.n2 * i3) / x.n2 = i3 := by
    rw [Nat.add_mul_div_left _ _ (Nat.zero_lt_of_lt hi2), Nat.div_eq_of_lt hi2, Nat.zero_add]
  rw [Shape.strided, ← Nat.div_div_eq_div_mul, hdiv1, hdiv2, Nat.add_mul_mod_self_left, Nat.mod_eq_of_lt hi1, Nat.add_mul_mod_self_left, Nat.mod_eq_of_lt hi2]

theorem transferRows : TransferRows := by
  intro c src r x _ _ _ dense base
  have hdense : stridedSource c.dir = false ↔ dense := stridedSource_eq_false c.dir
  rw [toNat_rowVa]
  constructor
  · intro hside i1 i2 i3 hi1 hi2 _ hr
    have hstrided : (src == stridedSource c.dir) = true := by
      cases src with
      | true => rw [Bool.eq_true_of_not_eq_false (mt hdense.1 hside)]; rfl
      | false => rw [hdense.2 hside]; rfl
    rw [if_pos hstrided, hr, strided_of_indices x hi1 hi2]
    simp only [base, Nat.add_assoc]
  · intro hside
    have hplain : ¬ (src == stridedSource c.dir) = true := by
      cases src with
      | true => rw [hdense.2 hside]; decide
      | false => rw [Bool.eq_true_of_not_eq_false (mt hdense.1 hside)]; decide
    rw [if_neg hplain]
    rfl

/-! ### The command that starts next (R232, R246, R247) -/

theorem FirstLowest.mem {α : Type} {rank : α → Nat} {x : α} {l : List α} (h : FirstLowest rank x l) : x ∈ l := by
  obtain ⟨pre, post, rfl, -, -⟩ := h
  exact List.mem_append_right pre (List.mem_cons_self ..)

/-- The choice of a rotation: of the blocks behind the last the lowest, or the lowest of all. -/
theorem rotNext_eq (last : Nat) (l : List BtCmd) :
    rotNext last l = ((l.filter (fun c => decide (last < c.blk))).foldl (lowerOf BtCmd.blk) none).or (l.foldl (lowerOf BtCmd.blk) none) := by
  have hlow : lowerOf BtCmd.blk = fun b c =>
      match b with
      | none => some c
      | some x => if c.blk < x.blk then some c else some x := by
    funext b c
    cases b <;> rfl
  rw [rotNext, hlow]
  cases (l.filter (fun c => decide (last < c.blk))).foldl _ none <;> rfl

theorem mem_of_rotNext {last : Nat} {l : List BtCmd} {c : BtCmd} (h : rotNext last l = some c) : c ∈ l := by
  rw [rotNext_eq, Option.or_eq_some_iff] at h
  obtain h | ⟨-, h⟩ := h
  · exact (List.mem_filter.1 (foldl_lowerOf h).mem).1
  · exact (foldl_lowerOf h).mem

/-- The only candidate is next. -/
theorem rotNext_of_unique {last : Nat} {l : List BtCmd} {c : BtCmd} (hc : c ∈ l) (hall : ∀ x ∈ l, x = c) : rotNext last l = some c := by
  cases hnext : rotNext last l with
  | some x => rw [hall x (mem_of_rotNext hnext)]
  | none =>
    rw [rotNext_eq, Option.or_eq_none_iff] at hnext
    rw [foldl_lowerOf_none.1 hnext.2] at hc
    exact absurd hc List.not_mem_nil

section

variable {s : State} {core : Nat} {store : Bool} {c : BtCmd}

/-- The commands of a queue that run. -/
def btRunning (s : State) (core : Nat) (store : Bool) : Nat :=
  ((btQueueOf s core store).filter (fun x => x.started && !x.stopped && x.popWait.isNone)).length

/-- Has a command no guard, or one that is true (R247)? -/
def GuardFree (s : State) (c : BtCmd) : Prop := c.guard = none ∨ ∃ n, c.guard = some n ∧ guardValue s c.blk c.grp n = some true

theorem btCan_iff : btCan s core store c = true ↔
    stoppingBlock s c.blk = false ∧ btHead s core c.blk store = some c ∧ GuardFree s c ∧ drainHeld s core c = false := by
  unfold btCan GuardFree
  cases c.guard <;> simp [and_assoc]

/-- What starts next heads its block, is free to start and has room. -/
theorem btNext_some (h : btNext s core store = some c) : btRunning s core store < 2 ∧ btCan s core store c = true := by
  obtain ⟨hroom, hrot⟩ := Option.ite_none_left_eq_some.1 (show (if _ then none else _) = some c from h)
  exact ⟨Nat.not_le.1 hroom, (List.mem_filter.1 (mem_of_rotNext hrot)).2⟩

theorem btNext_of_unique (hc : c ∈ btQueueOf s core store) (hroom : btRunning s core store < 2) (hcan : btCan s core store c = true)
    (hall : ∀ x ∈ btQueueOf s core store, btCan s core store x = true → x = c) : btNext s core store = some c := by
  refine (if_neg (Nat.not_le.2 hroom)).trans (rotNext_of_unique (List.mem_filter.2 ⟨hc, hcan⟩) fun x hx => ?_)
  obtain ⟨hx, hxcan⟩ := List.mem_filter.1 hx
  exact hall x hx hxcan

/-! ### BT_COMMAND_START (R232, R237, R247) -/

/-- The state in which a command has started: its guard left, its block's turn noted, the command marked, and what waits behind it pumped. -/
def btStarted (s : State) (core : Nat) (store : Bool) (c : BtCmd) : State :=
  pumpBt (mapBt (btTurn (leaveGuard s c.blk c.grp c.guard) core store c.blk) core store c.id (fun x => { x with started := true, guard := none, ctrOk := c.btg }))
    core c.blk store

/-- The key of a BTG's counter: the context and the slot. -/
def btgKey (s : State) (c : BtCmd) : Nat := ((tget s.blocks c.blk).map (fun b => b.ctx)).getD 0 * 64 + bitsOf c.key.toNat 63 56

variable {i : Nat}

theorem exec_btCommandStart (hc : (btQueueOf s core store)[i]? = some c) : exec (.btCommandStart core store i) s = happen s (
    if btNext s core store = some c then
      if c.btg && !c.ctrOk then
        if bitsOf c.key.toNat 55 0 ≤ (tget s.ctrs (btgKey s c)).getD 0 then
          some (btFail (btStarted s core store c) core store { c with started := true, guard := none } 2)
        else some { btStarted s core store c with ctrs := tset (btStarted s core store c).ctrs (btgKey s c) (bitsOf c.key.toNat 55 0) }
      else some (btStarted s core store c)
    else none) := by
  change happen s (btCommandStartEvent core store i s) = _
  simp only [btCommandStartEvent, hc]
  rfl

theorem counter_eq (w : Word) : bitsOf w.toNat 55 0 = w.toNat % 2 ^ 56 := by simp [bitsOf]

end

theorem startOfTransfers (s : State) (core i : Nat) (store : Bool) (c : BtCmd) (hc : (btQueueOf s core store)[i]? = some c) :
    (btNext s core store = some c →
      (stoppingBlock s c.blk = false ∧ btHead s core c.blk store = some c ∧ btRunning s core store < 2 ∧ GuardFree s c ∧ drainHeld s core c = false) ∧
      (c.btg = false ∨ c.ctrOk = true → exec (.btCommandStart core store i) s = .next (btStarted s core store c)) ∧
      (∀ bl, tget s.blocks c.blk = some bl → c.btg = true → c.ctrOk = false →
        let key := bl.ctx * 64 + c.key.toNat / 2 ^ 56
        let ctr := c.key.toNat % 2 ^ 56
        (((tget s.ctrs key).getD 0 < ctr) → exec (.btCommandStart core store i) s =
          .next { btStarted s core store c with ctrs := tset (btStarted s core store c).ctrs key ctr }) ∧
        (ctr ≤ (tget s.ctrs key).getD 0 → exec (.btCommandStart core store i) s =
          .next (btFail (btStarted s core store c) core store { c with started := true, guard := none } 2)))) ∧
    (stoppingBlock s c.blk = false → btHead s core c.blk store = some c → btRunning s core store < 2 → GuardFree s c → drainHeld s core c = false →
      (∀ x ∈ btQueueOf s core store, btCan s core store x = true → x = c) → btNext s core store = some c) ∧
    (btNext s core store ≠ some c → exec (.btCommandStart core store i) s = .next s) := by
  have hexec := exec_btCommandStart hc
  refine ⟨fun hnext => ?next, fun hstop hhead hroom hfree hdrain hall => ?unique, fun hother => by rwa [if_neg hother, happen_none] at hexec⟩
  case next =>
    obtain ⟨hroom, hcan⟩ := btNext_some hnext
    obtain ⟨hstop, hhead, hfree, hdrain⟩ := btCan_iff.1 hcan
    rw [if_pos hnext] at hexec
    refine ⟨⟨hstop, hhead, hroom, hfree, hdrain⟩, fun hplain => ?_, fun bl hbl hbtg hctr => ?_⟩
    · rwa [if_neg (by rcases hplain with hplain | hplain <;> simp [hplain]), happen_some] at hexec
    · have hkey : btgKey s c = bl.ctx * 64 + c.key.toNat / 2 ^ 56 := by rw [btgKey, hbl, keySlot_eq]; rfl
      rw [if_pos (by simp [hbtg, hctr]), hkey, counter_eq] at hexec
      refine ⟨fun hnew => ?_, fun hold => ?_⟩
      · rwa [if_neg (Nat.not_le.2 hnew), happen_some] at hexec
      · rwa [if_pos hold, happen_some] at hexec
  case unique => exact btNext_of_unique (List.mem_of_getElem? hc) hroom (btCan_iff.2 ⟨hstop, hhead, hfree, hdrain⟩) hall

/-! ### BT_ROW_WRITE (R234, R235) -/

/-- What becomes of a row whose sides do not wait: the trap, the failure or the move. -/
def rowOutcome (s : State) (core : Nat) (store : Bool) (bl : Block) (c : BtCmd) (n : Nat) (a b : RowSide) : Option State :=
  match sideTrap a b, sideFail a b with
  | some (k, va, d), _ => some (btStop s core store bl.ctx c k va d)
  | none, some st => some (btFail s core store c st)
  | none, none =>
    if peerDir c.dir then peerRow s core store bl c (if store then a else b)
    else some (btRowDone (rowWrite (rowRead s core c n a).1 core c b (rowRead s core c n a).2) core store c)

section

variable {s : State} {core : Nat} {store : Bool} {c : BtCmd} {bl : Block} {i : Nat}

theorem exec_btRowWrite (hc : (btQueueOf s core store)[i]? = some c) (hbl : tget s.blocks c.blk = some bl) (hstarted : c.started = true)
    (hstopped : c.stopped = false) (hpop : c.popWait = none) (hbtg : c.btg = false) (hstop : bl.stopping = false) :
    let n := (shapeFields c.shape).rb
    let a := rowSide s core bl (packetOf s bl) c true n
    let b := rowSide s core bl (packetOf s bl) c false n
    sideWaits s a = false → sideWaits s b = false → exec (.btRowWrite core store i) s = happen s (rowOutcome s core store bl c n a b) := by
  intro n a b ha hb
  change happen s (btRowWriteEvent core store i s) = _
  have hgoes : ¬ (c.started = false ∨ c.stopped = true ∨ c.popWait ≠ none ∨ bl.stopping = true) := by simp [hstarted, hstopped, hpop, hstop]
  have hready : ¬ (sideWaits s a || sideWaits s b) = true := by simp [ha, hb]
  unfold btRowWriteEvent
  simp only [hc, hbl]
  rw [if_neg hgoes, if_neg (by simp [hbtg]), if_neg hready]
  rfl

/-! #### A row from L-space to the A-buffer -/

/-- A byte of the A-buffer is what the block's A-buffer holds. -/
theorem localByte_abuf_congr {t : State} {b : Nat} (h : (tget t.blocks b).map Block.abuf = (tget s.blocks b).map Block.abuf) (fol : Bool) (off : Nat) :
    localByte t .abuf b fol off = localByte s .abuf b fol off := by
  unfold localByte
  cases hs : tget s.blocks b <;> cases ht : tget t.blocks b <;> simp_all [spaceBytes]

/-- A local side of a row is a place of the command's block. -/
theorem rowSide_here {p : Packet} {src : Bool} {n : Nat} {r : Ref} {sp : Space} (hsp : (if src then (sidesOf c.dir).1 else (sidesOf c.dir).2) = .loc sp)
    (hfollower : followerBase sp = none) (h : rowSide s core bl p c src n = .here r) : r.blk = c.blk ∧ r.fol = false := by
  simp only [rowSide, hsp, sideOf, hfollower] at h
  split at h
  · cases h
  · next hside =>
    obtain ⟨-, hplace⟩ := Option.ite_none_right_eq_some.1 hside
    cases hplace
    split at h
    · cases h
    · cases h
      exact ⟨rfl, rfl⟩

/-- What a byte of the A-buffer reads after a write to it. -/
theorem localByte_localWrite_abuf {r : Ref} (hb : tget s.blocks r.blk = some bl) (bs : List Byte) (off : Nat) :
    localByte (localWrite s .abuf r bs) .abuf r.blk false off =
      if r.off ≤ off ∧ off < r.off + bs.length then bs.getD (off - r.off) 0 else localByte s .abuf r.blk false off := by
  have hafter : tget (localWrite s .abuf r bs).blocks r.blk = some { bl with abuf := putBytes bl.abuf r.off bs } := block_mapBlock hb _
  simp only [localByte, hafter, hb, spaceBytes]
  exact sget_putBytes ..

/-! #### What the end of a row leaves -/

/-- An update of a barrier leaves memory. -/
theorem tbUpdate_mem (s : State) (b off : Nat) (who : Note) (f : Tb → Tb) : (tbUpdate s b off who f).mem = s.mem := by
  have hput : (tbPut s b off who (tbNext s.now who f (getTb s b off))).mem = s.mem := by simp [tbPut, putTb]
  rw [tbUpdate_eq, tbRetest, State.mapBlock_mem]
  split
  · rw [tilesReady]
    split
    · exact hput
    · exact (State.mapBlock_mem ..).trans hput
  · exact hput

/-- An update of a barrier leaves the A-buffers. -/
theorem tbUpdate_abuf (s : State) (b k off : Nat) (who : Note) (f : Tb → Tb) :
    (tget (tbUpdate s b off who f).blocks k).map Block.abuf = (tget s.blocks k).map Block.abuf := by
  have hput : (tget (tbPut s b off who (tbNext s.now who f (getTb s b off))).blocks k).map Block.abuf = (tget s.blocks k).map Block.abuf := by
    rw [tbPut, map_blocks_mapBlock (p := Block.abuf) _ b k (by exact fun _ => rfl), putTb, map_blocks_mapBlock (p := Block.abuf) s b k (by exact fun _ => rfl)]
  rw [tbUpdate_eq, map_blocks_tbRetest _ k (fun _ _ => rfl)]
  split
  · exact (map_blocks_tilesReady _ k (fun _ _ => rfl) b off).trans hput
  · exact hput

theorem btSubtract_mem (s : State) (core : Nat) (store : Bool) (c : BtCmd) (n : Nat) : (btSubtract s core store c n).mem = s.mem :=
  (tbUpdate_mem ..).trans (State.mapBlock_mem ..)

theorem btSubtract_abuf (s : State) (core : Nat) (store : Bool) (c : BtCmd) (n k : Nat) :
    (tget (btSubtract s core store c n).blocks k).map Block.abuf = (tget s.blocks k).map Block.abuf :=
  (tbUpdate_abuf ..).trans (map_blocks_mapBlock s c.blk k fun _ => rfl)

/-- A started command that leaves its queue changes the core's record only. -/
theorem btLeave_of_started (hstarted : c.started = true) (s : State) (core : Nat) (store : Bool) : btLeave s core store c = dropBt s core store c.id := by
  rw [btLeave, if_pos hstarted]
  rfl

/-- The end of a row subtracts its sectors or nothing, and changes the queue: memory and the A-buffers stay. -/
theorem btRowDone_keeps (hstarted : c.started = true) (s : State) (core : Nat) (store : Bool) :
    (btRowDone s core store c).mem = s.mem ∧ ∀ k, (tget (btRowDone s core store c).blocks k).map Block.abuf = (tget s.blocks k).map Block.abuf := by
  unfold btRowDone
  dsimp only
  generalize (if (_ : Nat) ≤ _ then _ else 0 : Nat) = due
  have hsub : (if due = 0 then s else btSubtract s core store c due).mem = s.mem ∧
      ∀ k, (tget (if due = 0 then s else btSubtract s core store c due).blocks k).map Block.abuf = (tget s.blocks k).map Block.abuf := by
    split
    · exact ⟨rfl, fun _ => rfl⟩
    · exact ⟨btSubtract_mem .., fun k => btSubtract_abuf ..⟩
  split
  · rw [btLeave_of_started hstarted]
    exact hsub
  · exact hsub

/-- A row from L-space to the A-buffer puts its bytes there and changes no other byte of it. -/
theorem locAbuf_row {n : Nat} {x y : Ref} (hbl : tget s.blocks c.blk = some bl) (hstarted : c.started = true) (hdir : c.dir = .locAbuf)
    (hx : x.blk = c.blk ∧ x.fol = false) (hy : y.blk = c.blk ∧ y.fol = false) :
    let t := btRowDone (rowWrite (rowRead s core c n (.here x)).1 core c (.here y) (rowRead s core c n (.here x)).2) core store c
    t.mem = s.mem ∧ ∀ off, localByte t .abuf c.blk false off =
      if y.off ≤ off ∧ off < y.off + n then localByte s .loc c.blk false (x.off + (off - y.off)) else localByte s .abuf c.blk false off := by
  obtain ⟨hxblk, hxfol⟩ := hx
  obtain ⟨hyblk, -⟩ := hy
  intro t
  have ht : t = btRowDone (localWrite s .abuf y (localBytes s .loc x n)) core store c := by
    simp only [t, rowRead, rowWrite, hdir, sidesOf, localRead_eq]
  obtain ⟨hmem, habuf⟩ := btRowDone_keeps hstarted (localWrite s .abuf y (localBytes s .loc x n)) core store
  rw [← ht] at hmem habuf
  refine ⟨hmem.trans (State.mapBlock_mem ..), fun off => ?_⟩
  rw [localByte_abuf_congr (habuf c.blk), ← hyblk, localByte_localWrite_abuf (hyblk ▸ hbl), hyblk]
  refine if_ctx_congr (by simp [localBytes]) (fun hin => ?_) fun _ => rfl
  have hlt : off - y.off < n := by omega
  simp [localBytes, hlt, hxblk, hxfol]

end

theorem rowsOfTransfers (s : State) (core i : Nat) (store : Bool) (c : BtCmd) (bl : Block) (hc : (btQueueOf s core store)[i]? = some c)
    (hbl : tget s.blocks c.blk = some bl) (hstarted : c.started = true) (hstopped : c.stopped = false) (hpop : c.popWait = none) (hbtg : c.btg = false)
    (hstop : bl.stopping = false) :
    let p := packetOf s bl
    let n := (shapeFields c.shape).rb
    let a := rowSide s core bl p c true n
    let b := rowSide s core bl p c false n
    sideWaits s a = false → sideWaits s b = false →
    (∀ k va d, sideTrap a b = some (k, va, d) → exec (.btRowWrite core store i) s = .next (btStop s core store bl.ctx c k va d)) ∧
    (∀ st, sideTrap a b = none → sideFail a b = some st → exec (.btRowWrite core store i) s = .next (btFail s core store c st)) ∧
    (sideTrap a b = none → sideFail a b = none → peerDir c.dir = false →
      exec (.btRowWrite core store i) s = .next (btRowDone (rowWrite (rowRead s core c n a).1 core c b (rowRead s core c n a).2) core store c)) ∧
    (c.dir = .locAbuf → ∀ x y, a = .here x → b = .here y → ∃ t, exec (.btRowWrite core store i) s = .next t ∧ t.mem = s.mem ∧
      ∀ off, localByte t .abuf c.blk false off = if y.off ≤ off ∧ off < y.off + n then localByte s .loc c.blk false (x.off + (off - y.off)) else localByte s .abuf c.blk false off) := by
  intro p n a b ha hb
  have hexec : exec (.btRowWrite core store i) s = happen s (rowOutcome s core store bl c n a b) := exec_btRowWrite hc hbl hstarted hstopped hpop hbtg hstop ha hb
  have hmoves : sideTrap a b = none → sideFail a b = none → peerDir c.dir = false →
      exec (.btRowWrite core store i) s = .next (btRowDone (rowWrite (rowRead s core c n a).1 core c b (rowRead s core c n a).2) core store c) := by
    intro htrap hfail hpeer
    simpa [rowOutcome, htrap, hfail, hpeer, happen_some] using hexec
  refine ⟨fun k va d htrap => ?trap, fun st htrap hfail => ?fails, hmoves, fun hdir x y hx hy => ?bytes⟩
  case trap => simpa [rowOutcome, htrap, happen_some] using hexec
  case fails => simpa [rowOutcome, htrap, hfail, happen_some] using hexec
  case bytes =>
    have hfrom : x.blk = c.blk ∧ x.fol = false := rowSide_here (sp := .loc) (by rw [hdir]; rfl) rfl hx
    have hto : y.blk = c.blk ∧ y.fol = false := rowSide_here (sp := .abuf) (by rw [hdir]; rfl) rfl hy
    have hmoved := hmoves (by rw [hx, hy]; rfl) (by rw [hx, hy]; rfl) (by rw [hdir]; rfl)
    rw [hx, hy] at hmoved
    exact ⟨_, hmoved, locAbuf_row hbl hstarted hdir hfrom hto⟩

theorem transferProgress : TransferProgress := ⟨startOfTransfers, rowsOfTransfers⟩

/-- Settles O25: the rows by their indices, the start by the rotation of the blocks whose head can start, a row by what its two sides find. -/
theorem blockTransferRows : Obligations.BlockTransferRows := ⟨transferRows, transferProgress⟩

end Sys2Proof.Machine
end

section
/-! PROOF. What local loads and stores leave: the times of their agents, and the bytes of L-space (spec/08_memory_instructions.md R25, R217, 07_ordering.md R178,
R179). -/

namespace Sys2Proof.Machine

open Sys2Proof Sys2Proof.Claims

/-! ### A change of one group's record -/

/-- A change of a group leaves everything but the blocks. -/
theorem device_mapGroup (s : State) (b g : Nat) (f : Group → Group) : { s.mapGroup b g f with blocks := s.blocks } = s := by
  cases hx : s.group? b g with
  | none => rw [State.mapGroup, hx]
  | some x =>
    obtain ⟨bl, hb, hg⟩ := State.block_of_group hx
    rw [State.mapGroup_of hb hg]
    rfl

/-- A field that a function of groups keeps is as before in every group. -/
theorem map_group_mapGroup {α : Type} {p : Group → α} (s : State) (b g b' g' : Nat) {f : Group → Group} (hp : ∀ x, p (f x) = p x) :
    ((s.mapGroup b g f).group? b' g').map p = (s.group? b' g').map p := by
  by_cases hsame : b' = b ∧ g' = g
  · obtain ⟨rfl, rfl⟩ := hsame
    rw [State.group_mapGroup, Option.map_map]
    exact congrArg (fun q => (s.group? b' g').map q) (funext hp)
  · rw [State.group_mapGroup_ne _ _ (not_and_or.1 hsame)]

/-! ### The times of an agent's accesses (R178, R179) -/

/-- A group's record without the times of its accesses. -/
def Group.noTimes (g : Group) : Group := { g with seenT := [], doneT := [] }

/-- A block's record without its groups. -/
def Block.noGroups (b : Block) : Block := { b with groups := [] }

/-- A core's record without its horizons. -/
def Core.noHorizons (c : Core) : Core := { c with hor := [] }

/-- `t` is `s` but for the horizons of the cores and the times of one group's accesses. -/
structure TimesKept (s t : State) (ag : AgentRef) : Prop where
  device : { t with blocks := s.blocks, cores := s.cores } = s
  cores : ∀ k, (t.core k).noHorizons = (s.core k).noHorizons
  blocks : ∀ b, b ≠ ag.blk → tget t.blocks b = tget s.blocks b
  block : (tget t.blocks ag.blk).map Block.noGroups = (tget s.blocks ag.blk).map Block.noGroups
  groups : ∀ g, g ≠ ag.grp → t.group? ag.blk g = s.group? ag.blk g
  group : (t.group? ag.blk ag.grp).map Group.noTimes = (s.group? ag.blk ag.grp).map Group.noTimes

section

variable {s t u : State} {ag : AgentRef}

theorem TimesKept.refl (s : State) (ag : AgentRef) : TimesKept s s ag := ⟨rfl, fun _ => rfl, fun _ _ => rfl, rfl, fun _ _ => rfl, rfl⟩

theorem TimesKept.trans (h1 : TimesKept s t ag) (h2 : TimesKept t u ag) : TimesKept s u ag where
  device := by rw [← h1.device, ← h2.device]
  cores k := (h2.cores k).trans (h1.cores k)
  blocks b hb := (h2.blocks b hb).trans (h1.blocks b hb)
  block := h2.block.trans h1.block
  groups g hg := (h2.groups g hg).trans (h1.groups g hg)
  group := h2.group.trans h1.group

/-- A change of the times of the agent's own group. -/
theorem TimesKept.mapGroup {f : Group → Group} (hf : ∀ g, (f g).noTimes = g.noTimes) (s : State) (ag : AgentRef) : TimesKept s (s.mapGroup ag.blk ag.grp f) ag where
  device := by rw [← device_mapGroup s ag.blk ag.grp f]; simp
  cores k := by rw [State.core, State.mapGroup_cores]; rfl
  blocks _ hb := State.block_mapGroup_ne s f hb
  block := map_blocks_mapGroup s ag.blk ag.blk (fun _ _ => rfl) ag.grp f
  groups _ hg := State.group_mapGroup_ne s f (Or.inr hg)
  group := map_group_mapGroup s ag.blk ag.grp ag.blk ag.grp hf

/-- A horizon that rises. -/
theorem TimesKept.raise (s : State) (core : Nat) (d : Dom) (time : Nat) (ag : AgentRef) : TimesKept s (s.raise core d time) ag where
  device := rfl
  cores k := by
    by_cases hk : k = core
    · rw [hk, State.raise, State.core_mapCore]; rfl
    · rw [State.raise, State.core_mapCore_ne _ _ hk]
  blocks _ _ := rfl
  block := rfl
  groups _ _ := rfl
  group := rfl

theorem TimesKept.timesMoved {v : View} (h : TimesKept s t v.ag) : TimesMoved s t v where
  device := h.device
  cores k := congrArg (fun c : Core => { c with hor := (s.core k).hor }) (h.cores k)
  blocks := h.blocks
  block x y hx hy := by
    have hkept := h.block
    rw [hx, hy] at hkept
    exact congrArg (fun b : Block => { b with groups := x.groups }) (Option.some.inj hkept)
  groups := h.groups
  group x y hx hy := by
    have hkept := h.group
    rw [hx, hy] at hkept
    exact congrArg (fun g : Group => { g with seenT := x.seenT, doneT := x.doneT }) (Option.some.inj hkept)

/-- A load of one order leaves the times and the horizon of its domain. -/
theorem afterLoad_one_domain (s : State) (core : Nat) (me : AgentRef) (mask : Mask) (d : Dom) (sc : Scope) (acq : Bool) (time : Nat) :
    let s1 := s.mapGroup me.blk me.grp (fun g => { g with seenT := raiseTime (raiseTime g.seenT (agNum me) d time) (agNum me) d time })
    afterLoad s core me mask { dom := d, enc := d, sc := sc } acq time = if acq || d == .cau then s1.raise core d time else s1 := by
  simp [afterLoad]

theorem timesKept_afterLoad (s : State) (core : Nat) (v : View) (l : Nat) (mask : Mask) (d : Dom) (sc : Scope) (acq : Bool) (time : Nat) :
    TimesKept s (afterLoad s core (v.lane l) mask { dom := d, enc := d, sc := sc } acq time) v.ag := by
  rw [afterLoad_one_domain]
  have hnoted : TimesKept s (s.mapGroup v.ag.blk v.ag.grp (fun g =>
      { g with seenT := raiseTime (raiseTime g.seenT (agNum (v.lane l)) d time) (agNum (v.lane l)) d time })) v.ag :=
    TimesKept.mapGroup (by exact fun _ => rfl) s v.ag
  split
  · exact hnoted.trans (TimesKept.raise ..)
  · exact hnoted

/-- A load that acquires nothing leaves the cores. -/
theorem afterLoad_cores (s : State) (core : Nat) (me : AgentRef) (mask : Mask) {d : Dom} (sc : Scope) (time : Nat) (hd : d ≠ .cau) :
    (afterLoad s core me mask { dom := d, enc := d, sc := sc } false time).cores = s.cores := by
  rw [afterLoad_one_domain, if_neg (by simpa using hd), State.mapGroup_cores]

end

/-! ### The bytes of L-space (R25, R217) -/

/-- A block's record without its L-space and its groups. -/
def Block.noLoc (b : Block) : Block := { b with loc := [], groups := [] }

/-- A group's record without the times of its writes. -/
def Group.noDone (g : Group) : Group := { g with doneT := [] }

/-- `t` is `s` but for L-space, which has been written by `ws`, and the times of the groups' writes. -/
structure LocWritten (s t : State) (ws : List (Ref × List Byte)) : Prop where
  device : { t with blocks := s.blocks } = s
  blocks : ∀ b, (tget t.blocks b).map Block.noLoc = (tget s.blocks b).map Block.noLoc
  groups : ∀ b g, (t.group? b g).map Group.noDone = (s.group? b g).map Group.noDone
  bytes : ∀ b off, tget s.blocks b ≠ none → localByte t .loc b false off = afterWrites ws b false off (localByte s .loc b false off)

section

variable {s t u : State} {ws us : List (Ref × List Byte)}

theorem LocWritten.refl (s : State) : LocWritten s s [] := ⟨rfl, fun _ => rfl, fun _ _ => rfl, fun _ _ _ => rfl⟩

/-- A block that was there is there. -/
theorem LocWritten.block_ne_none (h : LocWritten s t ws) {b : Nat} (hb : tget s.blocks b ≠ none) : tget t.blocks b ≠ none := by
  intro ht
  have hkept := h.blocks b
  rw [ht, Option.map_none, eq_comm, Option.map_eq_none_iff] at hkept
  exact hb hkept

theorem LocWritten.trans (h1 : LocWritten s t ws) (h2 : LocWritten t u us) : LocWritten s u (ws ++ us) where
  device := by rw [← h1.device, ← h2.device]
  blocks b := (h2.blocks b).trans (h1.blocks b)
  groups b g := (h2.groups b g).trans (h1.groups b g)
  bytes b off hb := by rw [h2.bytes b off (h1.block_ne_none hb), h1.bytes b off hb, afterWrites, afterWrites, afterWrites, List.foldl_append]

theorem localByte_loc_congr (h : ∀ b, (tget t.blocks b).map Block.loc = (tget s.blocks b).map Block.loc) (b : Nat) (fol : Bool) (off : Nat) :
    localByte t .loc b fol off = localByte s .loc b fol off := by
  have hb := h b
  unfold localByte
  cases hs : tget s.blocks b <;> cases ht : tget t.blocks b <;> simp_all [spaceBytes]

/-- Noting an acknowledged write writes no byte. -/
theorem locWritten_noteDone (s : State) (me : AgentRef) (d enc : Dom) : LocWritten s (noteDone s me d enc) [] where
  device := device_mapGroup ..
  blocks b := map_blocks_mapGroup s me.blk b (fun _ _ => rfl) me.grp _
  groups b g := map_group_mapGroup s me.blk me.grp b g fun _ => rfl
  bytes b off _ := localByte_loc_congr (fun b => map_blocks_mapGroup s me.blk b (fun _ _ => rfl) me.grp _) b false off

/-- The groups of a block whose table of groups is as it was. -/
theorem group_of_groups {b g : Nat} (h : (tget t.blocks b).map Block.groups = (tget s.blocks b).map Block.groups) : t.group? b g = s.group? b g := by
  have hgroup : ∀ s : State, s.group? b g = ((tget s.blocks b).map Block.groups).bind (fun gs => tget gs g) := fun s => by
    rw [State.group?]
    cases tget s.blocks b <;> rfl
  rw [hgroup, hgroup, h]

/-- A write to L-space puts its bytes at its place. -/
theorem locWritten_localWrite (s : State) {r : Ref} (hfol : r.fol = false) (bs : List Byte) : LocWritten s (localWrite s .loc r bs) [(r, bs)] where
  device := by
    unfold localWrite State.mapBlock
    split <;> rfl
  blocks b := map_blocks_mapBlock s r.blk b fun _ => rfl
  groups b g := congrArg (Option.map Group.noDone) (group_of_groups (map_blocks_mapBlock (p := Block.groups) s r.blk b (by exact fun _ => rfl)))
  bytes b off hb := by
    have hafter : tget (localWrite s .loc r bs).blocks b = _ := blocks_mapBlock s r.blk b _
    by_cases hblk : b = r.blk
    · subst hblk
      obtain ⟨bl, hbl⟩ := Option.ne_none_iff_exists'.1 hb
      rw [if_pos rfl, hbl] at hafter
      simp only [localByte, hafter, hbl, afterWrites, List.foldl_cons, List.foldl_nil, hfol, true_and]
      exact sget_putBytes ..
    · rw [if_neg hblk] at hafter
      simp [localByte, hafter, afterWrites, Ne.symm hblk]

/-- Two blocks that differ in L-space and groups. -/
theorem LocWritten.block_eq (h : LocWritten s t ws) {b : Nat} {y z : Block} (hy : tget s.blocks b = some y) (hz : tget t.blocks b = some z) : z.noLoc = y.noLoc := by
  have hkept := h.blocks b
  rw [hy, hz] at hkept
  exact Option.some.inj hkept

/-- A byte of another space is what stands outside L-space. -/
theorem localByte_other {sp : Space} (hsp : sp ∈ [Space.loc, .abuf, .zbuf, .wbuf]) (hne : sp ≠ .loc) (s : State) (b : Nat) (fol : Bool) (off : Nat) :
    localByte s sp b fol off = ((tget s.blocks b).map Block.noLoc).elim 0 (fun bl => sget (spaceBytes bl sp fol) off) := by
  have hspace : ∀ bl : Block, spaceBytes bl.noLoc sp fol = spaceBytes bl sp fol := by
    simp only [List.mem_cons, List.not_mem_nil, or_false] at hsp
    rcases hsp with rfl | rfl | rfl | rfl
    · exact absurd rfl hne
    · exact fun _ => rfl
    · exact fun _ => rfl
    · exact fun _ => rfl
  rw [localByte]
  cases tget s.blocks b with
  | none => rfl
  | some bl => rw [Option.map_some, Option.elim_some, hspace]

theorem LocWritten.stored (h : LocWritten s t ws) : Stored s t .loc ws where
  device := h.device
  blocks b := by simpa using congrArg Option.isSome (h.blocks b)
  groups b g := by
    have hkept := h.groups b g
    refine ⟨by simpa using congrArg Option.isSome hkept, fun x y hx hy => ?_⟩
    rw [hx, hy] at hkept
    exact congrArg (fun g : Group => { g with doneT := x.doneT }) (Option.some.inj hkept)
  written b fol off hb := by
    rw [show (fol && Space.loc == .zbuf) = false from Bool.and_false fol]
    exact h.bytes b off hb
  others sp b fol off hsp hne := by rw [localByte_other hsp hne, localByte_other hsp hne, h.blocks]
  poison b y fol e hy z hz := by
    have hpoison : zPoison z.noLoc fol = zPoison y.noLoc fol := by rw [h.block_eq hy hz]
    rw [show zPoison z fol = zPoison y fol from hpoison]
    exact ⟨fun he => ⟨he, fun _ _ hsp => nomatch hsp⟩, And.left⟩
  rest b y z hy hz := congrArg (fun b : Block => { b with loc := y.loc, groups := y.groups, abuf := y.abuf, zbuf := y.zbuf, fz := y.fz, zpoison := y.zpoison, fpoison := y.fpoison })
    (h.block_eq hy hz)

end

end Sys2Proof.Machine
end

section
/-! PROOF. MXLD and MXST: units, scale words, checks and results (spec/08_memory_instructions.md R162, R221). -/

namespace Sys2Proof.Machine

open Sys2Proof Sys2Proof.Claims

/-! ### The units (R162, R221) -/

/-- The address of a lane's codes. -/
def laneCode (v : View) (h : Hdr) (l : Nat) : Word := v.r.kget h.a.toNat + (v.r.vget l h.b.toNat).signExtend 64

theorem effective_plain (v : View) (h : Hdr) (l : Nat) : effective v { h with c := 0 } 1 (some l) = laneCode v h l := by
  simp [effective, laneCode]

/-- The unit of some lanes of which `l0` is the first. -/
def mxUnitAt (v : View) (h : Hdr) (b l0 : Nat) (ls : List Nat) : MxUnit :=
  let u := laneCode v h l0 - BitVec.ofNat 64 (4 * (l0 - 8 * b))
  { b := b, lanes := ls, u := u, sc := v.r.kget (h.a.toNat + 1) + 2 * BitVec.ofInt 64 ((u - v.r.kget h.a.toNat).toInt / 32),
    ok := alignedTo u 32 && alignedTo (v.r.kget h.a.toNat) 32 && alignedTo (v.r.kget (h.a.toNat + 1)) 2 &&
      ls.all (fun l => laneCode v h l == u + BitVec.ofNat 64 (4 * (l - 8 * b))) }

/-- A unit stands for the active lanes of its eight. -/
theorem mem_mxUnits {v : View} {h : Hdr} {x : MxUnit} (hx : x ∈ mxUnits v h) :
    ∃ b l0 ls, b < 8 ∧ (v.active h).filter (fun l => l / 8 == b) = l0 :: ls ∧ x = mxUnitAt v h b l0 (l0 :: ls) := by
  unfold mxUnits at hx
  obtain ⟨b, hb, hx⟩ := List.mem_filterMap.1 hx
  simp only [List.filter_map, effective_plain] at hx
  cases hlanes : (v.active h).filter (fun l => l / 8 == b) with
  | nil =>
    rw [show (v.active h).filter ((fun x => x.1 / 8 == b) ∘ fun l => (l, laneCode v h l)) = [] from hlanes] at hx
    cases hx
  | cons l0 ls =>
    rw [show (v.active h).filter ((fun x => x.1 / 8 == b) ∘ fun l => (l, laneCode v h l)) = l0 :: ls from hlanes] at hx
    refine ⟨b, l0, ls, List.mem_range.1 hb, hlanes, (Option.some.inj hx).symm.trans ?_⟩
    simp [mxUnitAt, Function.comp_def]

theorem mxUnitAt_ok {v : View} {h : Hdr} {b l0 : Nat} {ls : List Nat} : (mxUnitAt v h b l0 ls).ok = true ↔
    (mxUnitAt v h b l0 ls).u.toNat % 32 = 0 ∧ (v.r.kget h.a.toNat).toNat % 32 = 0 ∧ (v.r.kget (h.a.toNat + 1)).toNat % 2 = 0 ∧
      ∀ l ∈ ls, laneCode v h l = (mxUnitAt v h b l0 ls).u + BitVec.ofNat 64 (4 * (l - 8 * b)) := by
  simp [mxUnitAt, alignedTo, and_assoc]

theorem mxUnits_law (v : View) (h : Hdr) : ∀ x ∈ mxUnits v h, x.b < 8 ∧ x.lanes = (v.active h).filter (fun l => l / 8 = x.b) ∧ x.lanes ≠ [] ∧
    (∀ l0, x.lanes.head? = some l0 → x.u = v.r.kget h.a.toNat + (v.r.vget l0 h.b.toNat).signExtend 64 - BitVec.ofNat 64 (4 * (l0 - 8 * x.b))) ∧
    x.sc = v.r.kget (h.a.toNat + 1) + 2 * BitVec.ofInt 64 ((x.u - v.r.kget h.a.toNat).toInt / 32) ∧
    (x.ok = true ↔ x.u.toNat % 32 = 0 ∧ (v.r.kget h.a.toNat).toNat % 32 = 0 ∧ (v.r.kget (h.a.toNat + 1)).toNat % 2 = 0 ∧
      ∀ l ∈ x.lanes, v.r.kget h.a.toNat + (v.r.vget l h.b.toNat).signExtend 64 = x.u + BitVec.ofNat 64 (4 * (l - 8 * x.b))) := by
  intro x hx
  obtain ⟨b, l0, ls, hb, hlanes, rfl⟩ := mem_mxUnits hx
  refine ⟨hb, hlanes.symm, List.cons_ne_nil l0 ls, fun l hl => ?_, rfl, mxUnitAt_ok⟩
  obtain rfl : l0 = l := Option.some.inj hl
  rfl

section

variable {s : State} {v : View} {h : Hdr} {m : MemMod}

/-! ### One unit of MXLD and of MXST (R221) -/

/-- MXLD of L-space reads a unit at once, when what its lanes' loads wait for is performed. -/
def mxReadLoc (v : View) (m : MemMod) (s : State) (x : MxUnit) (c t : LocalLook) : Option (State × Option (List Byte × List Byte) × List Nat) :=
  (beforeUnit s v.core (x.lanes.map v.lane) v.mask [m.dom] m.dom []).map (fun s =>
    (x.lanes.foldl (fun s l => afterLoad s v.core (v.lane l) v.mask { dom := m.dom, enc := m.dom, sc := m.sc } (m.ord == .acq) s.now) s,
     some (localRead s .loc c.ref 32, localRead s .loc t.ref 2), []))

section

variable (hv : view? s = some v) (hej : v.ej = false) (hreg : v.within false (mxRegs h) = true)

include hv hej hreg

theorem exec_mxldGlb : exec (.mxldGlb h m) s = .next (mxLoad s v h m none (glbLook s v m.dom true false (m.rp != 7)) (mxReadGlb v h m)) := by
  refine (collective_of hv hej _).trans ?_
  rw [hreg]
  rfl

theorem exec_mxldLoc : exec (.mxldLoc h m) s = .next (mxLoad s v h m (some .loc) (fun n a => lookLocal s v .loc m.dom n true a) (mxReadLoc v m)) := by
  refine (collective_of hv hej _).trans ?_
  rw [hreg]
  rfl

theorem exec_mxstGlb : exec (.mxstGlb h m) s = .next (mxStore s v h m (glbLook s v m.dom false true false) (mxWriteGlb v h m)) := by
  refine (collective_of hv hej _).trans ?_
  rw [hreg]
  rfl

theorem exec_mxstLoc : exec (.mxstLoc h m) s = .next (mxStore s v h m (fun n a => lookLocal s v .loc m.dom n false a) (mxWriteLoc v h m)) := by
  refine (collective_of hv hej _).trans ?_
  rw [hreg]
  rfl

end

section

variable {sp : Option Space} {look : Nat → Access → LocalLook} {x : MxUnit × LocalLook × LocalLook × List Looked}
  {read : State → MxUnit → LocalLook → LocalLook → Option (State × Option (List Byte × List Byte) × List Nat)}
  {write : State → MxUnit → LocalLook → LocalLook → Option State}

theorem mxLoad_of_trap {t : Trap} (ht : lookedTrap v h m.sc false (((mxUnits v h).map (lookUnit v h look)).flatMap (fun x => x.2.2.2)) = some t) :
    mxLoad s v h m sp look read = takeTrap s v t := by
  unfold mxLoad
  dsimp only
  rw [ht]

theorem mxStore_of_trap {t : Trap} (ht : lookedTrap v h m.sc true (((mxUnits v h).map (lookUnit v h look)).flatMap (fun x => x.2.2.2)) = some t) :
    mxStore s v h m look write = takeTrap s v t := by
  unfold mxStore
  dsimp only
  rw [ht]

/-- The checks of one unit that find no cause. -/
theorem oneUnit_passes {sc : Scope} {wr : Bool} (hpass : ∀ y ∈ x.2.2.2, y.cause = none) : lookedTrap v h sc wr ([x].flatMap (fun x => x.2.2.2)) = none :=
  lookedTrap_none_iff.2 (by simpa using hpass)

/-- MXLD of one unit puts what it has read in a window. -/
theorem mxLoad_of_one {r : State × Option (List Byte × List Byte) × List Nat} (hone : (mxUnits v h).map (lookUnit v h look) = [x])
    (hpass : ∀ y ∈ x.2.2.2, y.cause = none) (hpart : partUnit s v.ag.blk v.ctx sp x.1.u.toNat 32 x.1.sc.toNat 2 = false)
    (hread : read s x.1 x.2.1 x.2.2.1 = some r) :
    mxLoad s v h m sp look read = finishWindow r.1 v h (mxWrites h x.1 (r.2.1.getD ([], [])).1 ((r.2.1.getD ([], [])).2.getD 0 0) ((r.2.1.getD ([], [])).2.getD 1 0) ++
      (if m.rp = 7 then [] else x.1.lanes.map (fun l => .p l m.rp.toNat r.2.1.isNone))) 0 r.2.2 := by
  unfold mxLoad
  dsimp only
  rw [hone, oneUnit_passes hpass]
  simp only [List.any_cons, List.any_nil, hpart, Bool.or_self, Bool.false_eq_true, if_false, List.foldl_cons, List.foldl_nil, Option.bind_some, hread,
    Option.map_some, List.nil_append]

/-- MXST of one unit goes on once the unit is written. -/
theorem mxStore_of_one {s1 : State} (hone : (mxUnits v h).map (lookUnit v h look) = [x]) (hpass : ∀ y ∈ x.2.2.2, y.cause = none)
    (hwrite : write s x.1 x.2.1 x.2.2.1 = some s1) : mxStore s v h m look write = skip s1 v 8 := by
  unfold mxStore
  dsimp only
  rw [hone, oneUnit_passes hpass]
  simp only [List.foldl_cons, List.foldl_nil, Option.bind_some, hwrite]

end

/-! ### MXLD.glb (R162, R214, R221) -/

section

variable {x : MxUnit} {c t : LocalLook}

/-- A unit on a page that is not resident is answered without bytes. -/
theorem mxReadGlb_of_nres (hnres : c.look.nres = true ∨ t.look.nres = true) : mxReadGlb v h m s x c t = some (s, none, []) := by
  have hnone : (c.look.nres || t.look.nres) = true := by simpa using hnres
  rw [mxReadGlb, hnone]
  rfl

/-- A unit that is read at once gives 32 codes and two scale bytes. -/
theorem mxReadGlb_at_once {a b : Nat × Nat × Nat × PageKind} (hc : c.look.nres = false) (ht : t.look.nres = false) (hparts : mxParts c t = some (a, b))
    (hhost : hostWaits s [a.1, b.1] = false) (hlater : ∀ l ∈ x.lanes, isLater s (v.lane l) = false)
    (hbefore : (beforeUnit (touchAll s v.core v.ctx (c.look.spans ++ t.look.spans) false) v.core (x.lanes.map v.lane) v.mask
      [c.look.dom, t.look.dom].eraseDups m.dom [a.1, b.1]).isSome = true) :
    ∃ r codes sb, mxReadGlb v h m s x c t = some r ∧ r.2 = (some (codes, sb), []) ∧ codes.length = 32 ∧ sb.length = 2 := by
  obtain ⟨s1, hs1⟩ := Option.isSome_iff_exists.1 hbefore
  have hnow : (x.lanes.map v.lane).any (isLater s) = false := by
    rw [List.any_map, List.any_eq_false]
    exact fun l hl => by simp [hlater l hl]
  simp only [mxReadGlb, hc, ht, hparts, hhost, hnow, hs1, Bool.or_self, Bool.false_and, Bool.false_eq_true, if_false, Option.map_some]
  split
  · exact ⟨_, _, _, rfl, rfl, length_toBytes .., length_toBytes ..⟩
  · exact ⟨_, _, _, rfl, rfl, length_toBytes .., length_toBytes ..⟩

end

/-! ### MXLD.loc (R162, R178, R184) -/

theorem idClosure_nil (q : List (Nat × List Nat)) : idClosure q [] = [] := by
  rw [idClosure]
  induction q.reverse with
  | nil => rfl
  | cons e q ih => exact ih

/-- With nothing to perform nothing is done. -/
theorem drain_nil (s : State) : drain s [] = some s := by
  simp [drain, performAll, idClosure_nil, hostWaits]

/-- What changes nothing for any member of a list changes nothing in turn. -/
theorem foldl_bind_fixed {α σ : Type} {f : σ → α → Option σ} {s : σ} {l : List α} (hfix : ∀ a ∈ l, f s a = some s) :
    l.foldl (fun o a => o.bind (fun s => f s a)) (some s) = some s := by
  induction l with
  | nil => rfl
  | cons a l ih =>
    obtain ⟨ha, hl⟩ := List.forall_mem_cons.1 hfix
    rw [List.foldl_cons, Option.bind_some, ha, ih hl]

theorem beforeLoad_of_free {core : Nat} {me : AgentRef} {mask : Mask} {d enc : Dom} {secs : List Nat} (hneeds : loadNeeds s core me mask d enc secs = [])
    (hgates : gatesOf s me mask d enc = []) : beforeLoad s core me mask d enc secs = some s := by
  simp [beforeLoad, hneeds, hgates]

/-- A unit of L-space whose lanes have nothing to wait for is read at once. -/
theorem beforeUnit_of_free {core : Nat} {mask : Mask} {d : Dom} {ls : List Nat}
    (hfree : ∀ l ∈ ls, loadNeeds s core (v.lane l) mask d d [] = [] ∧ gatesOf s (v.lane l) mask d d = []) :
    beforeUnit s core (ls.map v.lane) mask [d] d [] = some s := by
  have hstores : storesBefore s core (ls.map v.lane) mask [] = [] := by simp [storesBefore]
  rw [beforeUnit, hstores, drain_nil, List.foldl_cons, List.foldl_nil]
  refine foldl_bind_fixed fun me hme => ?_
  obtain ⟨l, hl, rfl⟩ := List.mem_map.1 hme
  exact beforeLoad_of_free (hfree l hl).1 (hfree l hl).2

/-- The state in which the lanes of a unit have loaded. -/
def lanesLoaded (v : View) (m : MemMod) (ls : List Nat) (s : State) : State :=
  ls.foldl (fun s l => afterLoad s v.core (v.lane l) v.mask { dom := m.dom, enc := m.dom, sc := m.sc } (m.ord == .acq) s.now) s

theorem timesKept_lanesLoaded (v : View) (m : MemMod) (ls : List Nat) (s : State) : TimesKept s (lanesLoaded v m ls s) v.ag := by
  induction ls generalizing s with
  | nil => exact TimesKept.refl ..
  | cons l ls ih => exact (timesKept_afterLoad ..).trans (ih _)

theorem lanesLoaded_cores (v : View) (ls : List Nat) (s : State) (hacq : m.ord ≠ .acq) (hcau : m.dom ≠ .cau) : (lanesLoaded v m ls s).cores = s.cores := by
  induction ls generalizing s with
  | nil => rfl
  | cons l ls ih =>
    refine (ih _).trans ?_
    rw [beq_false_of_ne hacq]
    exact afterLoad_cores _ _ _ _ _ _ hcau

theorem mxReadLoc_of_free {x : MxUnit} {c t : LocalLook}
    (hfree : ∀ l ∈ x.lanes, loadNeeds s v.core (v.lane l) v.mask m.dom m.dom [] = [] ∧ gatesOf s (v.lane l) v.mask m.dom m.dom = []) :
    mxReadLoc v m s x c t = some (lanesLoaded v m x.lanes s, some (localBytes s .loc c.ref 32, localBytes s .loc t.ref 2), []) := by
  rw [mxReadLoc, beforeUnit_of_free hfree, localBytes, ← localBytes, ← localRead_eq, ← localRead_eq]
  rfl

/-! ### MXST.glb (R162, R176, R221) -/

theorem foldl_cores {α : Type} {f : State → α → State} (hf : ∀ s a, (f s a).cores = s.cores) (l : List α) (s : State) : (l.foldl f s).cores = s.cores := by
  induction l generalizing s with
  | nil => rfl
  | cons a l ih => rw [List.foldl_cons, ih, hf]

theorem dropAhead_cores (s : State) (me : AgentRef) (secs : List Nat) : (dropAhead s me secs).cores = s.cores := by
  unfold dropAhead
  dsimp only
  split
  · rfl
  · split
    · exact State.mapGroup_cores ..
    · rfl

theorem dropOwnResv_cores (s : State) (v : View) (a : Access) (secs : List Nat) : (dropOwnResv s v a secs).cores = s.cores := by
  unfold dropOwnResv
  split
  · rfl
  · exact State.mapGroup_cores ..

/-- An entry at the end of a core's queue, under the next free name. -/
def enterQueue (s : State) (core : Nat) (e : StoreEntry) : State := s.newId.2.mapCore core (fun c => { c with sq := c.sq ++ [e] })

theorem sq_enterQueue (s : State) (core : Nat) (e : StoreEntry) : ((enterQueue s core e).core core).sq = (s.core core).sq ++ [e] := by
  rw [enterQueue, State.core_mapCore]
  rfl

/-- What the two parts of a unit's write have in common, and each has of its own. -/
structure UnitEntries (p q : UnitPart) (e1 e2 : StoreEntry) : Prop where
  ent : e1.ent = e2.ent
  unit : e1.unit = e2.unit
  first : e1.sec = p.w.sec ∧ e1.dom = p.w.dom ∧ e1.mask = p.w.mask
  second : e2.sec = q.w.sec ∧ e2.dom = q.w.dom ∧ e2.mask = q.w.mask

/-- The parts of a unit's write that is no release enter the queue in turn, as one entry. -/
theorem storeUnit_eq (s : State) (core : Nat) (mes : List AgentRef) (mask : Mask) (parts : List UnitPart) (enc : Dom) (sc : Scope) (unit : Word × Word) :
    ∃ me ent after wb rt, storeUnit s core mes mask parts enc sc false unit =
      parts.foldl (fun s p => enterQueue s core (pieceEntry s me mask p.kind p.w p.w.dom enc sc false s.ids ent after wb rt (some unit)))
        (mes.foldl (fun s me => dropAhead s me (parts.map (fun p => p.w.sec))) s) :=
  ⟨_, _, _, _, _, rfl⟩

/-- A unit's write, no release, is one entry of two parts at the end of its queue. -/
theorem storeUnit_two (s : State) (core : Nat) (mes : List AgentRef) (mask : Mask) (p q : UnitPart) (enc : Dom) (sc : Scope) (unit : Word × Word) :
    ∃ e1 e2, ((storeUnit s core mes mask [p, q] enc sc false unit).core core).sq = (s.core core).sq ++ [e1, e2] ∧ UnitEntries p q e1 e2 := by
  obtain ⟨me, ent, after, wb, rt, hunit⟩ := storeUnit_eq s core mes mask [p, q] enc sc unit
  have hcores : (mes.foldl (fun s me => dropAhead s me ([p, q].map (fun p => p.w.sec))) s).core core = s.core core := by
    rw [State.core, foldl_cores fun _ _ => dropAhead_cores ..]
    rfl
  rw [hunit, List.foldl_cons, List.foldl_cons, List.foldl_nil, sq_enterQueue, sq_enterQueue, hcores, List.append_assoc]
  exact ⟨_, _, rfl, rfl, rfl, ⟨rfl, rfl, rfl⟩, ⟨rfl, rfl, rfl⟩⟩

/-- A byte of a span's mask is set where the span covers it. -/
theorem getLsbD_spanMask {o n i : Nat} (hi : i < 32) : (spanMask o n).getLsbD i = true ↔ o ≤ i ∧ i < o + n := by
  rw [spanMask, BitVec.getLsbD_ofNat, Nat.testBit_mod_two_pow, Nat.testBit_mul_two_pow, Nat.testBit_two_pow_sub_one]
  simp [hi]
  omega

theorem getLsbD_foldl_or {α : Type} {w : Nat} (f : α → BitVec w) (l : List α) (k : BitVec w) (i : Nat) :
    (l.foldl (fun k a => k ||| f a) k).getLsbD i = true ↔ k.getLsbD i = true ∨ ∃ a ∈ l, (f a).getLsbD i = true := by
  induction l generalizing k with
  | nil => simp
  | cons a l ih => rw [List.foldl_cons, ih]; simp [or_assoc]

/-- The bytes of a unit that MXST writes are the codes of its lanes. -/
theorem mask_mxStoreBytes {x : MxUnit} {i : Nat} (hi : i < 32) : (mxStoreBytes v h x).2.1.getLsbD i = true ↔
    ∃ l ∈ x.lanes, 4 * (l - 8 * x.b) ≤ i ∧ i < 4 * (l - 8 * x.b) + 4 := by
  have hmask : (mxStoreBytes v h x).2.1 = x.lanes.foldl (fun k l => k ||| spanMask (4 * (l - 8 * x.b)) 4) 0 := List.foldl_map ..
  rw [hmask, getLsbD_foldl_or]
  simp [getLsbD_spanMask hi]

section

variable {x : MxUnit} {c t : LocalLook}

/-- The parts of a unit of glb that MXST writes. -/
def unitParts (v : View) (h : Hdr) (x : MxUnit) (c t : LocalLook) (a b : Nat × Nat × Nat × PageKind) : UnitPart × UnitPart :=
  ({ w := { sec := a.1, data := (mxStoreBytes v h x).1, mask := (mxStoreBytes v h x).2.1, dom := c.look.dom }, kind := a.2.2.2 },
   { w := { sec := b.1, data := placeBytes b.2.1 (mxStoreBytes v h x).2.2, mask := spanMask b.2.1 2, dom := t.look.dom }, kind := b.2.2.2 })

theorem mxWriteGlb_of_parts {a b : Nat × Nat × Nat × PageKind} (hparts : mxParts c t = some (a, b)) :
    ∃ s1, mxWriteGlb v h m s x c t = some s1 ∧ (m.ord ≠ .rls → ∃ e1 e2,
      (s1.core v.core).sq = ((touchAll s v.core v.ctx (c.look.spans ++ t.look.spans) true).core v.core).sq ++ [e1, e2] ∧
      UnitEntries (unitParts v h x c t a b).1 (unitParts v h x c t a b).2 e1 e2) := by
  refine ⟨_, by rw [mxWriteGlb, hparts], fun hplain => ?_⟩
  rw [beq_false_of_ne hplain]
  obtain ⟨e1, e2, hsq, hentries⟩ := storeUnit_two (x.lanes.foldl (fun s l => dropOwnResv s v { lane := some l, va := 0 } [a.1, b.1])
    (touchAll s v.core v.ctx (c.look.spans ++ t.look.spans) true)) v.core (x.lanes.map v.lane) v.mask (unitParts v h x c t a b).1 (unitParts v h x c t a b).2
    m.dom m.sc (x.u, x.sc)
  refine ⟨e1, e2, hsq.trans ?_, hentries⟩
  rw [State.core, foldl_cores fun _ _ => dropOwnResv_cores ..]
  rfl

end

/-! ### MXST.loc (R162, R184, R221) -/

/-- A place of L-space is in the block's own allocation. -/
theorem localRef_loc_fol {va : Word} {n : Nat} {r : Ref} (hr : localRef s v .loc va n = some r) : r.fol = false := by
  obtain ⟨y, hy, rfl⟩ := Option.map_eq_some_iff.1 (show (sideOf v.pkt .loc va.toNat n).map _ = some r from hr)
  obtain ⟨-, hplace⟩ := Option.ite_none_right_eq_some.1 (show (if _ then _ else none) = some y from hy)
  cases hplace
  rfl

theorem lookLocal_loc_fol (s : State) (v : View) (d : Dom) (n : Nat) (rd : Bool) (a : Access) : (lookLocal s v .loc d n rd a).ref.fol = false := by
  unfold lookLocal
  dsimp only
  split
  · rfl
  · split
    · rfl
    · next r hr => split <;> exact localRef_loc_fol hr

/-- One store of a lane to L-space. -/
theorem locWritten_store (s : State) {r : Ref} (hfol : r.fol = false) (bs : List Byte) (me : AgentRef) (d : Dom) :
    LocWritten s (noteDone (localWrite s .loc r bs) me d d) [(r, bs)] :=
  (locWritten_localWrite s hfol bs).trans (locWritten_noteDone ..)

/-- The codes of the lanes of a unit, each at its place. -/
def laneCodes (v : View) (h : Hdr) (b : Nat) (ls : List Nat) (r : Ref) : List (Ref × List Byte) :=
  ls.map (fun l => ({ r with off := r.off + 4 * (l - 8 * b) }, toBytes 4 (v.r.vget l h.d.toNat).toNat))

/-- The state in which the lanes of a unit have stored their codes. -/
def lanesStored (v : View) (h : Hdr) (d : Dom) (b : Nat) (ls : List Nat) (r : Ref) (s : State) : State :=
  ls.foldl (fun s l => noteDone (localWrite s .loc { r with off := r.off + 4 * (l - 8 * b) } (toBytes 4 (v.r.vget l h.d.toNat).toNat)) (v.lane l) d d) s

theorem locWritten_lanesStored {r : Ref} (hfol : r.fol = false) (d : Dom) (b : Nat) (ls : List Nat) (s : State) :
    LocWritten s (lanesStored v h d b ls r s) (laneCodes v h b ls r) := by
  induction ls generalizing s with
  | nil => exact LocWritten.refl s
  | cons l ls ih =>
    have hlane := locWritten_store s (r := { r with off := r.off + 4 * (l - 8 * b) }) hfol (toBytes 4 (v.r.vget l h.d.toNat).toNat) (v.lane l) d
    rw [lanesStored, List.foldl_cons, laneCodes, List.map_cons, ← List.singleton_append]
    exact hlane.trans (ih _)

/-- A unit of L-space whose lanes may write is written at once. -/
theorem mxWriteLoc_at_once {x : MxUnit} {c t : LocalLook} {s1 : State} (hpart : partUnit s v.ag.blk v.ctx (some .loc) x.u.toNat 32 x.sc.toNat 2 = false)
    (hcopy : partCopy s v.ag.blk v.ctx (some .loc) x.u.toNat 32 x.sc.toNat 2 = false)
    (hbefore : x.lanes.foldlM (fun s l => beforeAtomic s v.core (v.lane l) v.mask m.dom m.dom (m.ord == .rls) m.sc []) s = some s1) :
    mxWriteLoc v h m s x c t = some (localWrite (lanesStored v h m.dom x.b x.lanes c.ref s1) .loc t.ref
      [(v.r.vget (8 * x.b) h.c.toNat).setWidth 8, (v.r.vget (8 * x.b + 4) h.c.toNat).setWidth 8]) := by
  rw [List.foldlM_eq_foldl] at hbefore
  have hfold : x.lanes.foldl (fun (o : Option State) l => o.bind (fun s => beforeAtomic s v.core (v.lane l) v.mask m.dom m.dom (m.ord == .rls) m.sc [])) (some s) =
      some s1 := hbefore
  simp only [mxWriteLoc, hpart, hcopy, Bool.or_self, Bool.false_eq_true, if_false, hfold, Option.map_some, mxStoreBytes, lanesStored]

end

/-! ### The instructions -/

section

variable {s : State} {v : View} {h : Hdr} {m : MemMod} (hv : view? s = some v) (hej : v.ej = false) (hreg : v.within false (mxRegs h) = true)
  {x : MxUnit × LocalLook × LocalLook × List Looked}

include hv hej hreg

theorem mxldLoc_of_one (hone : (mxUnits v h).map (lookUnit v h (fun n a => lookLocal s v .loc m.dom n true a)) = [x]) (hpass : ∀ y ∈ x.2.2.2, y.cause = none)
    (hpart : partUnit s v.ag.blk v.ctx (some .loc) x.1.u.toNat 32 x.1.sc.toNat 2 = false)
    (hfree : ∀ l ∈ x.1.lanes, loadNeeds s v.core (v.lane l) v.mask m.dom m.dom [] = [] ∧ gatesOf s (v.lane l) v.mask m.dom m.dom = []) :
    ∃ s1, TimesMoved s s1 v ∧ (m.ord ≠ .acq → m.dom ≠ .cau → s1.cores = s.cores) ∧ exec (.mxldLoc h m) s = .next (finishLong s1 v h (mxWrites h x.1
      (localBytes s .loc x.2.1.ref 32) ((localBytes s .loc x.2.2.1.ref 2).getD 0 0) ((localBytes s .loc x.2.2.1.ref 2).getD 1 0) ++
        (if m.rp = 7 then [] else x.1.lanes.map (fun l => .p l m.rp.toNat false))) 0) := by
  refine ⟨lanesLoaded v m x.1.lanes s, (timesKept_lanesLoaded ..).timesMoved, lanesLoaded_cores v x.1.lanes s, ?_⟩
  rw [exec_mxldLoc hv hej hreg, mxLoad_of_one hone hpass hpart (mxReadLoc_of_free hfree)]
  rfl

theorem mxstGlb_of_one (hone : (mxUnits v h).map (lookUnit v h (glbLook s v m.dom false true false)) = [x]) (hpass : ∀ y ∈ x.2.2.2, y.cause = none) :
    ∃ s1, mxWriteGlb v h m s x.1 x.2.1 x.2.2.1 = some s1 ∧ exec (.mxstGlb h m) s = .next (skip s1 v 8) ∧
      ∀ a b, m.ord ≠ .rls → mxParts x.2.1 x.2.2.1 = some (a, b) → ∃ e1 e2,
        (s1.core v.core).sq = ((touchAll s v.core v.ctx (x.2.1.look.spans ++ x.2.2.1.look.spans) true).core v.core).sq ++ [e1, e2] ∧ e1.ent = e2.ent ∧ e1.unit = e2.unit ∧
        e1.sec = a.1 ∧ e1.dom = x.2.1.look.dom ∧ (∀ i, i < 32 → (e1.mask.getLsbD i = true ↔ ∃ l ∈ x.1.lanes, 4 * (l - 8 * x.1.b) ≤ i ∧ i < 4 * (l - 8 * x.1.b) + 4)) ∧
        e2.sec = b.1 ∧ e2.dom = x.2.2.1.look.dom ∧ e2.mask = spanMask b.2.1 2 := by
  have hexec : ∀ {s1}, mxWriteGlb v h m s x.1 x.2.1 x.2.2.1 = some s1 → exec (.mxstGlb h m) s = .next (skip s1 v 8) := fun hwrite => by
    rw [exec_mxstGlb hv hej hreg, mxStore_of_one hone hpass hwrite]
  cases hparts : mxParts x.2.1 x.2.2.1 with
  | none =>
    have hwrite : mxWriteGlb v h m s x.1 x.2.1 x.2.2.1 = some s := by rw [mxWriteGlb, hparts]
    exact ⟨s, hwrite, hexec hwrite, fun _ _ _ hsome => nomatch hsome⟩
  | some ab =>
    obtain ⟨s1, hwrite, hqueue⟩ := mxWriteGlb_of_parts (m := m) (s := s) (v := v) (h := h) (x := x.1) hparts
    refine ⟨s1, hwrite, hexec hwrite, fun a b hplain hsome => ?_⟩
    cases hsome
    obtain ⟨e1, e2, hsq, hent, hunit, ⟨hsec1, hdom1, hmask1⟩, hsec2, hdom2, hmask2⟩ := hqueue hplain
    exact ⟨e1, e2, hsq, hent, hunit, hsec1, hdom1, fun i hi => hmask1 ▸ mask_mxStoreBytes hi, hsec2, hdom2, hmask2⟩

theorem mxstLoc_of_one {s1 : State} (hone : (mxUnits v h).map (lookUnit v h (fun n a => lookLocal s v .loc m.dom n false a)) = [x])
    (hpass : ∀ y ∈ x.2.2.2, y.cause = none) (hpart : partUnit s v.ag.blk v.ctx (some .loc) x.1.u.toNat 32 x.1.sc.toNat 2 = false)
    (hcopy : partCopy s v.ag.blk v.ctx (some .loc) x.1.u.toNat 32 x.1.sc.toNat 2 = false)
    (hbefore : x.1.lanes.foldlM (fun s l => beforeAtomic s v.core (v.lane l) v.mask m.dom m.dom (m.ord == .rls) m.sc []) s = some s1) :
    ∃ t, exec (.mxstLoc h m) s = .next t ∧ ∃ s2, Stored s1 s2 .loc (laneCodes v h x.1.b x.1.lanes x.2.1.ref ++
      [(x.2.2.1.ref, [(v.r.vget (8 * x.1.b) h.c.toNat).setWidth 8, (v.r.vget (8 * x.1.b + 4) h.c.toNat).setWidth 8])]) ∧ t = skip s2 v 8 := by
  have hx : x ∈ (mxUnits v h).map (lookUnit v h (fun n a => lookLocal s v .loc m.dom n false a)) := hone ▸ List.mem_singleton_self x
  obtain ⟨u, -, hu⟩ := List.mem_map.1 hx
  have hcodes : x.2.1.ref.fol = false := hu ▸ lookLocal_loc_fol ..
  have hscale : x.2.2.1.ref.fol = false := hu ▸ lookLocal_loc_fol ..
  refine ⟨_, ?_, _, ((locWritten_lanesStored hcodes m.dom x.1.b x.1.lanes s1).trans (locWritten_localWrite _ hscale _)).stored, rfl⟩
  rw [exec_mxstLoc hv hej hreg, mxStore_of_one hone hpass (mxWriteLoc_at_once hpart hcopy hbefore)]

end

/-- Settles O22: the checks of every unit, one unit of each instruction, and the units by the lanes that they stand for. -/
theorem scaledBlockMoves : Obligations.ScaledBlockMoves := by
  refine ⟨fun s v h m hv hej hreg => ?moves, mxUnits_law⟩
  case moves =>
    intro us ul uw ux
    refine ⟨fun t ht => ?_, fun t ht => ?_, fun t ht => ?_, fun t ht => ?_, fun x r hone hpass hpart hread => ?_, fun x hone => ⟨mxReadGlb_of_nres, ?_⟩,
      fun x hone hpass hpart hfree => mxldLoc_of_one hv hej hreg hone hpass hpart hfree, fun x hone hpass => mxstGlb_of_one hv hej hreg hone hpass,
      fun x s1 hone hpass hpart hcopy hbefore => mxstLoc_of_one hv hej hreg hone hpass hpart hcopy hbefore⟩
    · rw [exec_mxldGlb hv hej hreg, mxLoad_of_trap ht]
    · rw [exec_mxldLoc hv hej hreg, mxLoad_of_trap ht]
    · rw [exec_mxstGlb hv hej hreg, mxStore_of_trap ht]
    · rw [exec_mxstLoc hv hej hreg, mxStore_of_trap ht]
    · rw [exec_mxldGlb hv hej hreg, mxLoad_of_one hone hpass hpart hread]
    · exact fun a b hc ht hparts hhost hlater _ hbefore => mxReadGlb_at_once hc ht hparts hhost hlater hbefore

end Sys2Proof.Machine
end

section
/-! PROOF. CTXCTL in context 0: queues, windows, experts, translations and populated pages (spec/09_fabric.md R262, R268,
10_scheduling.md R281, 13_isolation.md R347, R349, R360). -/

namespace Sys2Proof.Machine

open Sys2Proof Sys2Proof.Claims

section

variable {s s1 s2 s3 : State} {v : View} {h : Hdr} {bs : List Byte}

/-- A form of CTXCTL that the context has a right to, and whose image has been read, ends with its effect and its result (R360). -/
theorem ctxctl_of_read {n r : Nat} {t : State} {rights : View → Word → Word → Bool} {f : State → View → Word → Word → List Byte → State × Option Nat}
    (hrun : GroupRuns s v h) (hread : ImageRead s v h n s2 bs) (hright : rights v (v.r.kget h.a.toNat) (v.r.kget h.b.toNat) = true)
    (heffect : f s2 v (v.r.kget h.a.toNat) (v.r.kget h.b.toNat) bs = (t, some r)) : ctxctl s h n rights f = ctxResult t v h r := by
  obtain ⟨hcause, s1, time, hrel, hload⟩ := hread
  unfold ctxctl
  rw [groupWide_of_runs hrun]
  by_cases hn : n = 0
  · simp only [hn, if_true] at hload
    simp only [hright, hn, hrel, hload, heffect, if_true, Bool.not_true, Bool.false_eq_true, if_false]
    rfl
  · simp only [hn, if_false] at hload
    simp only [hright, hn, hrel, hload, heffect, hcause hn, Bool.not_true, Bool.false_eq_true, if_false]
    rfl

/-! ### The rights of the privileged context (R360) -/

@[simp] theorem actsFor_privileged (s : State) (t : Option Nat) : actsFor s 0 t = true := rfl

@[simp] theorem queueOpen_privileged (s : State) (n : Nat) : queueOpen s 0 n = true := by
  unfold queueOpen
  cases tget s.queues n with
  | none => rfl
  | some q => simp

@[simp] theorem windowOpen_privileged (s : State) (n : Nat) : windowOpen s 0 n = true := rfl

/-! ### Queues (R281) -/

/-- The queue descriptor that a legal image leaves. -/
def queueWritten (s : State) (n : Nat) (bs : List Byte) : Queue := (queueOf s n).writeWords (leAt bs 0 8) (leAt bs 8 8) (leAt bs 24 8)

theorem moveTail_keeps (q : Queue) (t : Nat) :
    (q.moveTail t).ring = q.ring ∧ (q.moveTail t).ctx = q.ctx ∧ (q.moveTail t).en = q.en ∧ (q.moveTail t).head = q.head := by
  unfold Queue.moveTail; split <;> exact ⟨rfl, rfl, rfl, rfl⟩

theorem queueWritten_fields (s : State) (n : Nat) (bs : List Byte) :
    (queueWritten s n bs).ring.toNat = leAt bs 0 8 % 2 ^ 64 ∧ (queueWritten s n bs).ctx = leAt bs 8 8 / 2 ^ 48 % 2 ^ 10 ∧
      (queueWritten s n bs).en = (leAt bs 8 8).testBit 63 ∧ (queueWritten s n bs).head = (queueOf s n).head := by
  unfold queueWritten Queue.writeWords
  refine ⟨?_, ?_, ?_, ?_⟩
  · rw [(moveTail_keeps _ _).1, BitVec.toNat_ofNat]
  · rw [(moveTail_keeps _ _).2.1]; rfl
  · rw [(moveTail_keeps _ _).2.2.1, Nat.testBit_eq_decide_div_mod_eq]; rfl
  · rw [(moveTail_keeps _ _).2.2.2]

section

variable (hrun : GroupRuns s v h) (hctx : v.ctx = 0)

include hrun hctx

theorem exec_ctxctlQueue_refused (hread : ImageRead s v h 32 s2 bs)
    (hbad : 4096 ≤ (v.r.kget h.b.toNat).toNat ∨ tget s2.ctxs (leAt bs 8 8 / 2 ^ 48 % 2 ^ 10) = none ∨ leAt bs 0 8 % 64 ≠ 0) :
    exec (.ctxctlQueue h) s = ctxResult s2 v h 2 := by
  change execCtxctlQueue h s = _
  refine ctxctl_of_read hrun hread (by simp [hctx]) ?effect
  case effect =>
    by_cases hn : 4096 ≤ (v.r.kget h.b.toNat).toNat
    · exact if_pos hn
    · have hrej : ((tget s2.ctxs (bitsOf (leAt bs 8 8) 57 48)).isNone || leAt bs 0 8 % 64 != 0) = true := by simpa [bitsOf] using hbad.resolve_left hn
      simp [hn, hctx, hrej]

theorem exec_ctxctlQueue_accepted (hread : ImageRead s v h 32 s2 bs) (hn : (v.r.kget h.b.toNat).toNat < 4096)
    (hown : tget s2.ctxs (leAt bs 8 8 / 2 ^ 48 % 2 ^ 10) ≠ none) (hal : leAt bs 0 8 % 64 = 0) : exec (.ctxctlQueue h) s =
      ctxResult (tidyMap (setQueue s2 (v.r.kget h.b.toNat).toNat (queueWritten s2 (v.r.kget h.b.toNat).toNat bs))) v h 0 := by
  change execCtxctlQueue h s = _
  refine ctxctl_of_read hrun hread (by simp [hctx]) ?effect
  case effect =>
    have hacc : ((tget s2.ctxs (bitsOf (leAt bs 8 8) 57 48)).isNone || leAt bs 0 8 % 64 != 0) = false := by simpa [hal, bitsOf, Option.isSome_iff_ne_none] using hown
    simp only [hctx, hacc, Nat.not_le.2 hn, actsFor_privileged, if_false, Bool.not_true, Bool.false_eq_true]
    rfl

/-! ### Windows (R262) -/

theorem exec_ctxctlWindow (hread : ImageRead s v h 24 s2 bs) : exec (.ctxctlWindow h) s =
    if 4096 ≤ (v.r.kget h.b.toNat).toNat ∨ windowOk s2 (windowImage bs) = false then ctxResult s2 v h 2
    else ctxResult { s2 with windows := tset s2.windows (v.r.kget h.b.toNat).toNat (windowImage bs) } v h 0 := by
  change execCtxctlWindow h s = _
  by_cases hn : 4096 ≤ (v.r.kget h.b.toNat).toNat
  · rw [if_pos (.inl hn)]
    exact ctxctl_of_read hrun hread (by simp [hctx]) (if_pos hn)
  · cases hok : windowOk s2 (windowImage bs)
    · rw [if_pos (.inr rfl)]
      exact ctxctl_of_read hrun hread (by simp [hctx]) (by simp [hn, hctx, hok])
    · rw [if_neg (by simp [hn])]
      exact ctxctl_of_read hrun hread (by simp [hctx]) (by simp [hn, hctx, hok])

/-! ### Experts (R268) -/

theorem exec_ctxctlExpasg (hread : ImageRead s v h 0 s2 bs) : exec (.ctxctlExpasg h) s =
    if 1024 ≤ (v.r.kget h.b.toNat).toNat ∨ tget s2.ctxs (v.r.kget h.b.toNat).toNat = none then ctxResult s2 v h 2
    else ctxResult { s2 with expCtx := some (v.r.kget h.b.toNat).toNat, experts := [] } v h 0 := by
  change execCtxctlExpasg h s = _
  split
  next hbad => exact ctxctl_of_read hrun hread (by simp [privOnly, hctx]) (if_pos (by simpa using hbad))
  next hgood => exact ctxctl_of_read hrun hread (by simp [privOnly, hctx]) (if_neg (by simpa using hgood))

theorem exec_ctxctlExpwr (hread : ImageRead s v h 16 s2 bs) : exec (.ctxctlExpwr h) s =
    if 4096 ≤ (v.r.kget h.b.toNat).toNat then ctxResult s2 v h 2
    else ctxResult { s2 with experts := tset s2.experts (v.r.kget h.b.toNat).toNat (expertImage (leAt bs 0 8)) } v h 0 := by
  change execCtxctlExpwr h s = _
  split
  next hbad => exact ctxctl_of_read hrun hread (by simp [hctx]) (if_pos hbad)
  next hgood => exact ctxctl_of_read hrun hread (by simp [hctx]) (if_neg hgood)

/-! ### Populated pages and translations (R347, R349) -/

theorem exec_ctxctlPopdone (hread : ImageRead s v h 0 s2 bs) : exec (.ctxctlPopdone h) s =
    ctxResult ((popNames s2 ((v.r.kget h.b.toNat).toNat % 1024) (v.r.kget h.a.toNat)).foldl
      (fun t page => popdone t ((v.r.kget h.b.toNat).toNat % 1024) page) s2) v h 0 := by
  change execCtxctlPopdone h s = _
  exact ctxctl_of_read hrun hread (by simp [hctx]) rfl

theorem exec_ctxctlTlbinv (hrel : releaseAll s v.core v.whole v.mask .dev = some s1)
    (hinv : tlbInvalidate s1 ((v.r.kget h.b.toNat).toNat % 1024) (v.r.kget h.a.toNat) ((v.r.kget h.b.toNat).getLsbD 63) = some s3) :
    exec (.ctxctlTlbinv h) s = ctxResult s3 v h 0 := by
  change execCtxctlTlbinv h s = _
  unfold execCtxctlTlbinv
  rw [groupWide_of_runs hrun]
  simp only [hctx, actsFor_privileged, hrel, hinv, Option.bind_some, Bool.not_true, Bool.false_eq_true, if_false]
  rfl

end

end

/-- Settles O37: each form by its own equation. -/
theorem contextResources : Obligations.ContextResources := by
  intro s s2 v h bs hrun hctx n
  refine ⟨fun hread => ⟨fun hn => ?_, fun _ hbad => ?_, fun hn hown hal => ?_⟩, fun hread => ?_, fun hread => ?_, fun hread => ?_, fun s1 s3 hrel hinv => ?_⟩
  · exact exec_ctxctlQueue_refused hrun hctx hread (.inl hn)
  · exact exec_ctxctlQueue_refused hrun hctx hread (.inr hbad)
  · obtain ⟨hring, hqctx, hen, hhead⟩ := queueWritten_fields s2 n bs
    exact ⟨_, queueWritten s2 n bs, exec_ctxctlQueue_accepted hrun hctx hread hn hown hal, tget_tset_same _ _ _, rfl, hring, hqctx, hen, hhead⟩
  · rw [exec_ctxctlWindow hrun hctx hread]
    exact ⟨fun hn => if_pos (.inl hn), fun _ hok => if_pos (.inr hok), fun hn hok => if_neg (not_or.2 ⟨Nat.not_le.2 hn, by simp [hok]⟩)⟩
  · rw [exec_ctxctlExpasg hrun hctx hread, exec_ctxctlPopdone hrun hctx hread]
    exact ⟨fun hbad => if_pos hbad, fun hn hown => if_neg (not_or.2 ⟨Nat.not_le.2 hn, hown⟩), rfl⟩
  · rw [exec_ctxctlExpwr hrun hctx hread]
    exact ⟨fun hn => if_pos hn, fun hn => if_neg (Nat.not_le.2 hn)⟩
  · exact exec_ctxctlTlbinv hrun hctx hrel hinv

end Sys2Proof.Machine
end

section
/-! PROOF. The passes of remote instructions: their sending, timeouts and interim answers (spec/09_fabric.md R260, R263, R265), and the
checks of an arriving item at this device's windows (R262, R263). -/

namespace Sys2Proof.Machine

open Sys2Proof Sys2Proof.Claims

section

variable {s : State}

/-- An event that occurs under a condition (log 37). -/
theorem happen_ite (c : Prop) [Decidable c] (s t : State) : happen s (if c then some t else none) = .next (if c then t else s) := by
  split <;> rfl

/-! ### Sending (R260, R265) -/

/-- The record of a pass that is sent notes the time and the number of its first flit (R261). -/
def passSent (s : State) (r : RemReq) : State :=
  { s with fab := { s.fab with recs := s.fab.recs.map (fun x => if x.id = r.id then { x with sent := true, since := s.now, flit := { r.flit with seq := nextSeq s r.flit.dst r.flit.net } } else x) } }

variable {r : RemReq}

/-- One pass is sent: failed with 6 for an unreachable peer, served here for this device's own number, queued otherwise. -/
theorem sendPass_eq : sendPass s r =
    if !reachable s r.peer then failRequest (passSent s r) r 6
    else if r.peer = s.mgmt.device then
      applyAnswer (serveItems (passSent s r) { r.flit with arr := s.now }).1 r.id (serveItems (passSent s r) { r.flit with arr := s.now }).2
    else enqueuePacket (passSent s r) { r.flit with seq := nextSeq s r.flit.dst r.flit.net } := rfl

/-- Does the agent's block issue: is it resident, and is no pre-emption about to stop it (R191, R291)? -/
def blockRuns (s : State) (b : Nat) : Bool := (tget s.blocks b).any (fun bl => bl.res == .resident && !bl.stopping)

theorem exec_remotePassSend {ag : AgentRef} (hr : s.fab.recs.find? (fun r => r.ag == ag && !r.sent) = some r) :
    exec (.remotePassSend ag) s = .next (if passRoom s r = true ∧ blockRuns s ag.blk = true then sendPass s r else s) := by
  change happen s (remotePassSendEvent ag s) = _
  simp only [remotePassSendEvent, hr]
  exact happen_ite ..

/-! ### Timeouts and interim answers (R260, R263) -/

theorem answerDue_iff : answerDue s r = true ↔ r.sent = true ∧ r.since + 8 * s.fab.rotation ≤ s.now ∧ heldHere s r = false := by
  simp [answerDue, and_assoc]

theorem exec_remoteAnswerTimeout {i : Nat} (hr : s.fab.recs[i]? = some r) :
    exec (.remoteAnswerTimeout i) s = .next (if answerDue s r = true then failRequest s r 6 else s) := by
  change happen s (remoteAnswerTimeoutEvent i s) = _
  simp only [remoteAnswerTimeoutEvent, hr]
  exact happen_ite ..

theorem exec_interimAnswerRepeat {i : Nat} {x : HeldItem} (hx : s.fab.items[i]? = some x) :
    exec (.interimAnswerRepeat i) s = .next (if x.since + 8 * s.fab.rotation ≤ s.now then
      answerTo { s with fab := { s.fab with items := s.fab.items.set i { x with since := s.now } } } x.flit (x.flit.items.map (fun it => { it with status := 9, data := [] })) else s) := by
  change happen s (interimAnswerRepeatEvent i s) = _
  simp only [interimAnswerRepeatEvent, hx, interimDue, decide_eq_true_eq]
  exact happen_ite ..

end

theorem remoteRequestEvents : RemoteRequestEvents := by
  refine ⟨fun s ag r hr => ?sent, fun s i r hr => ?timeout, fun s i x hx => ?repeats⟩
  case sent =>
    rw [exec_remotePassSend hr]
    refine ⟨fun hno => ?_, fun hhere hreach hown => ?_, fun hhere hfar => ?_, fun hhere hother hreach hroom => ?_⟩
    · rw [if_neg (fun ⟨hroom, hruns⟩ => hno.elim (fun h => by simp [h] at hroom) (fun h => h hruns))]
    · rw [if_pos ⟨by simp [passRoom, hown], hhere⟩, sendPass_eq, if_neg (by simp [hreach]), if_pos hown]; rfl
    · rw [if_pos ⟨by simp [passRoom, hfar], hhere⟩, sendPass_eq, if_pos (by simp [hfar])]; rfl
    · rw [if_pos ⟨by simp [passRoom, hroom], hhere⟩, sendPass_eq, if_neg (by simp [hreach]), if_neg hother]; rfl
  case timeout =>
    rw [exec_remoteAnswerTimeout hr]
    refine ⟨fun hsent hheld hdue => ?_, fun hno => ?_⟩
    · rw [if_pos (answerDue_iff.2 ⟨hsent, hdue, hheld⟩)]; rfl
    · have hidle : ¬ answerDue s r = true := by
        rw [answerDue_iff]
        rintro ⟨hsent, hdue, hheld⟩
        rcases hno with h | h | h
        · simp [h] at hsent
        · simp [h] at hheld
        · omega
      rw [if_neg hidle]
  case repeats =>
    rw [exec_interimAnswerRepeat hx]
    exact ⟨fun hdue => by rw [if_pos hdue], fun hearly => by rw [if_neg (Nat.not_le.2 hearly)]⟩

/-! ### The target (R262, R263) -/

section

variable {s : State} {fl : Flit} {w : Window}

theorem windowOf_some_iff : windowOf s fl = some w ↔ tget s.windows fl.win = some w ∧ fl.win < 4096 ∧ w.v = true ∧ w.key = fl.key ∧ w.ten = fl.ten := by
  unfold windowOf
  cases hw : tget s.windows fl.win with
  | none => simp
  | some x =>
    simp only [Option.ite_none_right_eq_some, Option.some.injEq, Bool.and_eq_true, decide_eq_true_eq, beq_iff_eq]
    constructor
    · rintro ⟨⟨⟨⟨hwin, hv⟩, hkey⟩, hten⟩, rfl⟩
      exact ⟨rfl, hwin, hv, hkey, hten⟩
    · rintro ⟨rfl, hwin, hv, hkey, hten⟩
      exact ⟨⟨⟨⟨hwin, hv⟩, hkey⟩, hten⟩, rfl⟩

theorem postPop_mem (s : State) (ctx : Nat) (va : Word) (kind : Nat) : (postPop s ctx va kind).mem = s.mem := by
  unfold postPop; dsimp only; split <;> rfl

/-- The check of an item's pages in the context of its window (R263). -/
def itemSpans (s : State) (w : Window) (fl : Flit) (it : Item) : Nat × Word × Dom × List Span :=
  remoteSpans s w.ctx (w.base + BitVec.ofNat 64 it.off) (itemSpan it) (opRead fl.opc) (opWrite fl.opc) (flitDom fl)

section

variable {it : Item} (hw : windowOf s fl = some w)

include hw

theorem serveItem_refused (hbad : w.allows fl.opc = false ∨ w.len < it.off + itemSpan it) :
    serveItem s fl it = (s, { it with status := 5, data := [] }) := by
  simp only [serveItem, hw]
  exact if_pos (by simpa using hbad)

variable (hmay : w.allows fl.opc = true) (hlen : it.off + itemSpan it ≤ w.len) {va : Word} {d : Dom} {spans : List Span}

include hmay hlen

theorem serveItem_performed (hx : itemSpans s w fl it = (0, va, d, spans)) :
    serveItem s fl it = ((performItem s fl it d spans).1, { it with status := 0, data := (performItem s fl it d spans).2 }) := by
  unfold itemSpans at hx
  simp only [serveItem, hw, hmay, Nat.not_lt.2 hlen, hx, decide_false, Bool.not_true, Bool.or_self, Bool.false_eq_true, if_false]

theorem serveItem_held (hx : itemSpans s w fl it = (9, va, d, spans)) :
    serveItem s fl it = (postPop { s with fab := { s.fab with items := s.fab.items ++ [{ flit := { fl with items := [it] }, page := popPage s w.ctx va, ctx := w.ctx, since := s.now }] } } w.ctx va 4,
      { it with status := 9, data := [] }) := by
  unfold itemSpans at hx
  simp only [serveItem, hw, hmay, Nat.not_lt.2 hlen, hx, decide_false, Bool.not_true, Bool.or_self, Bool.false_eq_true, if_false]

theorem serveItem_failed {st : Nat} (hx : itemSpans s w fl it = (st, va, d, spans)) (hst : st ≠ 0 ∧ st ≠ 9) :
    serveItem s fl it = (s, { it with status := st, data := [] }) := by
  unfold itemSpans at hx
  simp only [serveItem, hw, hmay, Nat.not_lt.2 hlen, hx, decide_false, Bool.not_true, Bool.or_self, Bool.false_eq_true, if_false]
  split
  next h0 => exact absurd (congrArg Prod.fst h0) hst.1
  next h9 => exact absurd (congrArg Prod.fst h9) hst.2
  next hother => cases hother; rfl

end

end

theorem remoteTargetChecks : RemoteTargetChecks := by
  intro s fl it
  refine ⟨fun hnone => ?_, fun w hw => ?_⟩
  · simp only [serveItem, hnone]
  · obtain ⟨htable, -, hv, hkey, hten⟩ := windowOf_some_iff.1 hw
    refine ⟨⟨hv, hkey, hten, htable⟩, serveItem_refused hw, fun hmay hlen => ?_⟩
    refine ⟨fun h0 => ?_, fun h9 => ?_, fun h0 h9 => ?_⟩
    · exact serveItem_performed hw hmay hlen (Prod.ext h0 rfl)
    · rw [serveItem_held hw hmay hlen (Prod.ext h9 rfl)]
      exact ⟨rfl, postPop_mem ..⟩
    · exact serveItem_failed hw hmay hlen rfl ⟨h0, h9⟩

/-- Settles O31. -/
theorem remoteRequestsAndTargets : Obligations.RemoteRequestsAndTargets := ⟨remoteRequestEvents, remoteTargetChecks⟩

end Sys2Proof.Machine
end

section
/-! PROOF. RMLD, RMST, RMAT, XCH and XEXP: their checks, order and windows (spec/09_fabric.md R264 to R270), and the passes that they
build (R265). -/

namespace Sys2Proof.Machine

open Sys2Proof Sys2Proof.Claims

section

variable {s s1 : State} {v : View} {h : Hdr} {m : FabMod} {op : FOp} {runs : Bool}

/-! ### Issue (R264 to R266, R270) -/

/-- A remote instruction whose lanes are known and whose earlier accesses allow it is numbered, builds its passes and opens its window. -/
theorem remoteIssue_of_ready {ls : List RemLane} {bad : List RemFail} (hslot : v.noSlot (placeHolders op h m.size (ls.map (fun x => x.lane))) = false)
    (hbefore : beforeRemote s v m ((v.r.kget h.c.toNat).toNat % 2 ^ 16) (op != .load) ls = some s1) :
    remoteIssue s v h m op runs ls bad =
      remoteIssued s1 (buildPasses s1 v h m op runs (s1.core v.core).ecsn ls).1 v h m op (ls.map (fun x => x.lane))
        (buildPasses s1 v h m op runs (s1.core v.core).ecsn ls).2 s.word bad := by
  simp only [remoteIssue, hslot, hbefore, Bool.false_eq_true, if_false]
  rfl

/-- The lanes' accesses of an instruction whose peers stand in A (R264). -/
theorem remoteLanes_eq (v : View) (h : Hdr) (data : Nat → List Byte) : remoteLanes v h data = (v.active h).map (fun l => remoteAccess v h (data l) l) := rfl

theorem lanes_remoteLanes (v : View) (h : Hdr) (data : Nat → List Byte) : (remoteLanes v h data).map (fun x => x.lane) = v.active h := by
  simp [remoteLanes, Function.comp_def]

section

variable {dregs : Nat} {data : Nat → List Byte}

theorem remoteInstr_illegal (hreg : v.within false [(h.d, dregs), (h.a, 1), (h.b, 1)] = false) :
    remoteInstr s v h m op runs dregs data = takeTrap s v { cause := .ill, lanes := v.mask } := by
  simp only [remoteInstr, hreg, Bool.not_false, if_true]; rfl

variable (hreg : v.within false [(h.d, dregs), (h.a, 1), (h.b, 1)] = true)

include hreg

theorem remoteInstr_misaligned {x : RemLane} {xs : List RemLane} (hbad : misaligned m.size (remoteLanes v h data) = x :: xs) :
    remoteInstr s v h m op runs dregs data = takeTrap s v
      { cause := .align, lanes := maskOf ((x :: xs).map (fun y => y.lane)), addr := BitVec.ofNat 64 x.off, acc := some (m.dom, .sys), write := op != .load } := by
  simp only [remoteInstr, hreg, hbad, Bool.not_true, Bool.false_eq_true, if_false]

theorem remoteInstr_idle (hact : v.active h = []) : remoteInstr s v h m op runs dregs data = skip s v 8 := by
  simp [remoteInstr, hreg, remoteLanes_eq, hact, misaligned]

theorem remoteInstr_aligned (hgood : misaligned m.size (remoteLanes v h data) = []) (hact : v.active h ≠ []) :
    remoteInstr s v h m op runs dregs data = remoteIssue s v h m op runs (remoteLanes v h data) [] := by
  simp only [remoteInstr, hreg, hgood, Bool.not_true, Bool.false_eq_true, if_false]
  exact if_neg (by simpa [remoteLanes_eq] using hact)

end

/-- The four instructions whose peers stand in A run the operation that they share. -/
theorem exec_remoteForms (m : FabMod) : ∀ e ∈ remoteForms m, ∀ (s : State) (v : View) (h : Hdr), view? s = some v → (e.2.2.1 = true → v.ej = false) →
    exec (e.1 h) s = .next (remoteInstr s v h m e.2.1 e.2.2.1 e.2.2.2.1 (e.2.2.2.2 v h)) := by
  intro e he s v h hv hej
  simp only [remoteForms, List.mem_cons, List.not_mem_nil, or_false] at he
  rcases he with rfl | rfl | rfl | rfl
  · exact withView_of hv _
  · exact withView_of hv _
  · exact collective_of hv (hej rfl) _
  · exact withView_of hv _

end

theorem remoteAccessIssue : RemoteAccessIssue := by
  intro m e he s v h hv hej
  have hexec := exec_remoteForms m e he s v h hv hej
  obtain ⟨mk, op, runs, dregs, data⟩ := e
  dsimp only at hexec ⊢
  rw [hexec]
  simp only [← remoteLanes_eq v h (data v h)]
  refine ⟨fun hill => ?_, fun x xs hok hbad => ?_, fun hok hact => ?_, fun s1 hok hbad hact hslot hbefore => ?_⟩
  · rw [remoteInstr_illegal hill]
  · rw [remoteInstr_misaligned hok hbad, hbad]
  · rw [remoteInstr_idle hok hact]
  · rw [remoteInstr_aligned hok hbad hact, remoteIssue_of_ready (by rwa [lanes_remoteLanes]) hbefore, lanes_remoteLanes]

/-! ### Passes (R265) -/

section

variable {s : State} {v : View} {h : Hdr} {m : FabMod} {op : FOp}

/-- The item of a lane that stands alone. -/
def laneItem (z : Size) (op : AtOp) (x : RemLane) : Item := { off := x.off % 2 ^ 40, size := z, lane := x.lane, op := op, run := 0, status := 0, data := x.data }

/-- Lanes that do not join in runs have one item each, in order (R265). -/
theorem passItems_single (z : Size) (op : AtOp) (ls : List RemLane) : passItems z op false ls = (ls.map (laneItem z op), []) := by
  induction ls using List.reverseRecOn with
  | nil => rfl
  | append_singleton ls x ih =>
    unfold passItems at ih ⊢
    rw [List.foldl_append, ih]
    cases hlast : (ls.map (laneItem z op)).getLast? with
    | none => simp_all [laneItem]
    | some it => simp [hlast, laneItem]

/-- The request of one peer, under the next name of `t`, of the instruction that issued in `s` (R265). -/
def passFor (s : State) (v : View) (h : Hdr) (m : FabMod) (op : FOp) (runs : Bool) (n : Nat) (ls : List RemLane) (t : State) (p : Nat) : RemReq :=
  let k := (v.r.kget h.c.toNat).toNat
  let rls : Bool := m.ord == .rls || m.ord == .ar
  let mine := ls.filter (fun x => x.peer == p)
  let items := passItems m.size m.op runs mine
  let t1 := t.newId.2
  { id := t.ids, instr := s.ids, ag := v.ag, path := v.mask, core := v.core, op := op, peer := p, dom := m.dom, rls := rls,
    flit := flitTo t1 p (.dom m.dom) op (whoOf t1 v.ag) (k % 2 ^ 16) (k / 2 ^ 16 % 2 ^ 16) (((tget s.ctxs v.ctx).bind (fun c => c.tenant)).getD 0) t.ids
      items.1 (rls && m.dom == .rel),
    items := items.1, sent := false, since := t1.now, posted := op == .store, ecsn := n, pc := v.r.pc, iword := s.word, bt := none, dreg := h.d.toNat,
    size := m.size, acq := m.ord == .acq || m.ord == .ar, cover := items.2, experts := mine.filterMap (fun x => x.exp.map (fun e => (x.lane, e.1, e.2))) }

/-- The distinct peers of some lanes, ascending. -/
def peersOf (ls : List RemLane) : List Nat := (List.range 1024).filter (fun p => ls.any (fun x => x.peer == p))

theorem buildPasses_eq (runs : Bool) (n : Nat) (ls : List RemLane) : buildPasses s v h m op runs n ls = (peersOf ls).foldl
    (fun acc p => (acc.1.newId.2, acc.2 ++ [passFor s v h m op runs n ls acc.1 p])) (s, []) := by
  unfold buildPasses
  exact congrArg (fun f => (peersOf ls).foldl f (s, [])) (funext fun acc => funext fun p => rfl)

/-- Numbering a list of records one by one. -/
theorem foldl_newId {α β : Type} (f : State → α → β) (ps : List α) (s : State) :
    ps.foldl (fun (acc : State × List β) p => (acc.1.newId.2, acc.2 ++ [f acc.1 p])) (s, []) =
      ({ s with ids := s.ids + ps.length }, ps.mapIdx (fun i p => f { s with ids := s.ids + i } p)) := by
  induction ps using List.reverseRecOn with
  | nil => rfl
  | append_singleton ps p ih => rw [List.foldl_append, ih]; simp [List.mapIdx_append, State.newId, Nat.add_assoc]

theorem mem_peersOf {ls : List RemLane} (hlt : ∀ x ∈ ls, x.peer < 1024) (p : Nat) : p ∈ peersOf ls ↔ p ∈ ls.map (fun x => x.peer) := by
  simp only [peersOf, List.mem_filter, List.mem_range, List.any_eq_true, beq_iff_eq, List.mem_map]
  exact ⟨And.right, fun ⟨x, hx, hp⟩ => ⟨hp ▸ hlt x hx, x, hx, hp⟩⟩

theorem peersOf_ascending (ls : List RemLane) : (peersOf ls).Pairwise (· < ·) := List.pairwise_lt_range.filter _

end

section

variable {α β γ : Type} {f : Nat → α → β}

theorem map_mapIdx_of_element {g : β → α} (hg : ∀ i p, g (f i p) = p) (ps : List α) : (ps.mapIdx f).map g = ps :=
  List.ext_getElem (by simp) (fun i h1 h2 => by simp [hg])

theorem map_mapIdx_of_index {g : β → γ} {k : Nat → γ} (hg : ∀ i p, g (f i p) = k i) (ps : List α) :
    (ps.mapIdx f).map g = (List.range (ps.mapIdx f).length).map k :=
  List.ext_getElem (by simp) (fun i h1 h2 => by simp [hg])

end

/-- The passes of an instruction: one for each of its distinct peers, ascending, under fresh names (R265). -/
theorem buildPasses_numbered (s : State) (v : View) (h : Hdr) (m : FabMod) (op : FOp) (runs : Bool) (n : Nat) {ls : List RemLane} (hlt : ∀ x ∈ ls, x.peer < 1024) :
    ∃ ps : List Nat, ps.Pairwise (· < ·) ∧ (∀ p, p ∈ ps ↔ p ∈ ls.map (fun x => x.peer)) ∧ buildPasses s v h m op runs n ls =
      ({ s with ids := s.ids + ps.length }, ps.mapIdx (fun i p => passFor s v h m op runs n ls { s with ids := s.ids + i } p)) :=
  ⟨peersOf ls, peersOf_ascending ls, mem_peersOf hlt, (buildPasses_eq runs n ls).trans (foldl_newId (passFor s v h m op runs n ls) _ _)⟩

theorem remotePassesByPeer : RemotePassesByPeer := by
  intro s v h m op n ls hlt
  obtain ⟨ps, hascending, hpeers, hbuilt⟩ := buildPasses_numbered s v h m op false n hlt
  dsimp only
  rw [hbuilt]
  refine ⟨?_, fun p => ?_, ?_, by rw [List.length_mapIdx], fun r hr => ?_⟩
  · rwa [map_mapIdx_of_element (fun _ _ => rfl)]
  · rw [map_mapIdx_of_element (fun _ _ => rfl), hpeers]
  · exact map_mapIdx_of_index (g := fun r : RemReq => r.id) (k := fun i => s.ids + i) (fun _ _ => rfl) ps
  · obtain ⟨i, hi, rfl⟩ := List.mem_mapIdx.1 hr
    exact ⟨congrArg Prod.fst (passItems_single m.size m.op _), rfl, rfl, rfl, rfl, rfl, rfl, rfl, rfl⟩

end Sys2Proof.Machine
end

section
/-! PROOF. XEXP, RFENCE and SLOTQ (spec/09_fabric.md R268, R269, R270, R272, R273). -/

namespace Sys2Proof.Machine

open Sys2Proof Sys2Proof.Claims

/-! ### Experts (R268, R269) -/

/-- The place of the smallest of the first values, the lowest of equals. -/
def leastPlace (load : Nat → Nat) (n : Nat) : Nat := (List.range n).foldl (fun b i => if load i < load b then i else b) 0

theorem leastPlace_succ (load : Nat → Nat) (n : Nat) :
    leastPlace load (n + 1) = if load n < load (leastPlace load n) then n else leastPlace load n := by
  rw [leastPlace, List.range_succ, List.foldl_append]; rfl

theorem leastPlace_law (load : Nat → Nat) (n : Nat) : leastPlace load n ≤ n - 1 ∧ (∀ i, i < n → load (leastPlace load n) ≤ load i) ∧
    ∀ i, i < leastPlace load n → load (leastPlace load n) < load i := by
  induction n with
  | zero => exact ⟨Nat.le_refl 0, fun i hi => absurd hi (Nat.not_lt_zero i), fun i hi => absurd hi (Nat.not_lt_zero i)⟩
  | succ n ih =>
    obtain ⟨hplace, hleast, hfirst⟩ := ih
    rw [leastPlace_succ]
    split
    next hless =>
      have hbelow : ∀ i, i < n → load n < load i := fun i hi => Nat.lt_of_lt_of_le hless (hleast i hi)
      exact ⟨Nat.le_refl n, fun i hi => (Nat.lt_succ_iff_lt_or_eq.1 hi).elim (fun h => (hbelow i h).le) (fun h => h ▸ Nat.le_refl _), hbelow⟩
    next hmore =>
      exact ⟨by omega, fun i hi => (Nat.lt_succ_iff_lt_or_eq.1 hi).elim (hleast i) (fun h => by rw [h]; exact Nat.not_lt.1 hmore), hfirst⟩

theorem leastReplica_law (x : Expert) : leastReplica x ≤ x.nr ∧ (∀ i, i ≤ x.nr → x.load.getD (leastReplica x) 0 ≤ x.load.getD i 0) ∧
    ∀ i, i < leastReplica x → x.load.getD (leastReplica x) 0 < x.load.getD i 0 := by
  obtain ⟨hplace, hleast, hfirst⟩ := leastPlace_law (fun i => x.load.getD i 0) (x.nr + 1)
  exact ⟨hplace, fun i hi => hleast i (Nat.lt_succ_of_le hi), hfirst⟩

section

variable {s s1 : State} {v : View} {h : Hdr} {m : FabMod}

/-- Lanes of an invalid entry fail with 0x0A (R269). -/
theorem expertLanes_failed {f : RemFail} (hf : f ∈ (expertLanes s v h m).2.2) : f.status = 0x0A ∧ f.lane ∈ v.active h := by
  unfold expertLanes at hf
  obtain ⟨l, hl, rfl⟩ := List.mem_map.1 hf
  exact ⟨rfl, (List.mem_filter.1 hl).1⟩

section

variable (hv : view? s = some v) (hej : v.ej = false) (hreg : v.within false [(h.d, sizeRegs m.size), (h.a, 1), (h.b, 1)] = true)
  (hal : misaligned m.size (remoteLanes v h (fun _ => [])) = [])

include hv hej hreg hal

theorem exec_xexp_idle (hact : v.active h = []) : exec (.xexp h m) s = .next (skip s v 8) := by
  refine (collective_of hv hej _).trans ?_
  simp only [hreg, hal, Bool.not_true, Bool.false_eq_true, if_false]
  rw [if_pos (by simp [remoteLanes_eq, hact])]

theorem exec_xexp_unassigned (hact : v.active h ≠ []) (hctx : s.expCtx ≠ some v.ctx) :
    exec (.xexp h m) s = .next (takeTrap s v { cause := .perm, lanes := v.trapLanes h }) := by
  refine (collective_of hv hej _).trans ?_
  simp only [hreg, hal, Bool.not_true, Bool.false_eq_true, if_false]
  rw [if_neg (by simpa [remoteLanes_eq] using hact), if_pos hctx]
  rfl

theorem exec_xexp_assigned (hact : v.active h ≠ []) (hctx : s.expCtx = some v.ctx)
    (hbefore : beforeRemote s v m ((v.r.kget h.c.toNat).toNat % 2 ^ 16) true (expertLanes s v h m).2.1 = some s1) : exec (.xexp h m) s =
      .next (remoteIssue (expertLanes s1 v h m).1 v h m .put true (expertLanes s1 v h m).2.1 (expertLanes s1 v h m).2.2) := by
  refine (collective_of hv hej _).trans ?_
  simp only [hreg, hal, Bool.not_true, Bool.false_eq_true, if_false]
  rw [if_neg (by simpa [remoteLanes_eq] using hact), if_neg (not_not.2 hctx), hbefore]

end

end

theorem misaligned_nil_iff {z : Size} {ls : List RemLane} : misaligned z ls = [] ↔ ∀ x ∈ ls, x.off % sizeBytes z = 0 := by
  simp [misaligned]

theorem expertExchange : ExpertExchange := by
  refine ⟨fun s v h m hv hej hreg hal => ?_, fun s v h m f hf => expertLanes_failed hf, leastReplica_law⟩
  have hal : misaligned m.size (remoteLanes v h (fun _ => [])) = [] := misaligned_nil_iff.2 (by simpa [remoteLanes_eq] using hal)
  refine ⟨exec_xexp_idle hv hej hreg hal, exec_xexp_unassigned hv hej hreg hal, fun s1 s3 hact hctx hbefore => ?_⟩
  intro x lanes hslot hready
  rw [exec_xexp_assigned hv hej hreg hal hact hctx hbefore, remoteIssue_of_ready hslot hready]

/-! ### RFENCE (R272) -/

section

variable {s : State} {v : View} {h : Hdr} {d : Dom}

theorem not_ejected_wide (hej : h.u = true → v.ej = false) : ¬ (v.ej && h.u) = true := by
  intro hboth
  obtain ⟨he, hu⟩ := Bool.and_eq_true_iff.1 hboth
  rw [hej hu] at he
  cases he

section

variable (hv : view? s = some v) (hej : h.u = true → v.ej = false)

include hv hej

theorem exec_rfence_off (hplaces : v.places h = []) : exec (.rfence h d) s = .next (skip s v 8) := by
  refine (withView_of hv _).trans (congrArg _ ?_)
  rw [if_neg (not_ejected_wide hej), if_pos (by simpa using hplaces)]

variable (hplaces : v.places h ≠ [])

include hplaces

theorem exec_rfence_waits (hwait : rfenceWaits s v (if h.u then [v.whole] else (v.active h).map v.lane) d = true) :
    exec (.rfence h d) s = .next (stall s v .rfence) := by
  refine (withView_of hv _).trans (congrArg _ ?_)
  rw [if_neg (not_ejected_wide hej), if_neg (by simpa using hplaces)]
  exact if_pos hwait

variable (hidle : rfenceWaits s v (if h.u then [v.whole] else (v.active h).map v.lane) d = false)

include hidle

theorem exec_rfence_held {x : HeldRemote} (hheld : remHeldReady s v.g v.ag.blk v.ag.grp = some x) :
    exec (.rfence h d) s = .next (raiseRemHeld s v x) := by
  refine (withView_of hv _).trans (congrArg _ ?_)
  rw [if_neg (not_ejected_wide hej), if_neg (by simpa using hplaces), hheld]
  exact if_neg (ne_true_of_eq_false hidle)

theorem exec_rfence_fences (hnone : remHeldReady s v.g v.ag.blk v.ag.grp = none) : exec (.rfence h d) s = .next
    (skip ((fenceAgents v.ag (if h.u then lanesOf v.mask else v.active h) h.u).foldl (fun s a => bridge s v.core a.1 v.mask a.2 d d .sys) s) v 8) := by
  refine (withView_of hv _).trans (congrArg _ ?_)
  rw [if_neg (not_ejected_wide hej), if_neg (by simpa using hplaces), hnone]
  exact if_neg (ne_true_of_eq_false hidle)

end

/-! ### SLOTQ (R273) -/

theorem exec_slotq (hrun : GroupRuns s v h) : exec (.slotq h) s = .next (
    if 1024 ≤ (v.r.kget h.a.toNat).toNat then takeTrap s v { cause := .ill, lanes := v.mask }
    else finishLong { s with free := s.free + 1 } v h [.k h.d.toNat (slotqWord s (v.r.kget h.a.toNat).toNat)] 0) :=
  groupWide_of_runs hrun 8 _

end

section

variable {s : State} {p : Nat}

/-- Flits queued to a peer, as SLOTQ gives them. -/
def queuedField (s : State) (p : Nat) : Nat := min 65535 (queuedFlits s.fab p)

theorem slotqWord_unreachable (hp : p ≠ s.mgmt.device) (hfar : reachable s p = false) : slotqWord s p = 0xFFFFFFFF := by
  simp [slotqWord, hp, hfar]

theorem queuedField_le (s : State) (p : Nat) : queuedField s p ≤ 65535 := Nat.min_le_left ..

theorem slotqWord_own (hslots : s.fab.nslot < 64) : ∃ idx, idx < 64 ∧
    (slotqWord s s.mgmt.device).toNat = queuedField s s.mgmt.device * 2 ^ 48 + idx * 2 ^ 40 + 0x3F * 2 ^ 32 := by
  have hidx : ((s.fab.slotAt s.now).getD 0) % s.fab.slotCount < 64 := Nat.lt_of_lt_of_le (Nat.mod_lt _ (Nat.succ_pos _)) hslots
  have hqueued := queuedField_le s s.mgmt.device
  have hword : slotqWord s s.mgmt.device = BitVec.ofNat 64 (((s.fab.slotAt s.now).getD 0) % s.fab.slotCount * 2 ^ 40 + 0x3F * 2 ^ 32 + queuedField s s.mgmt.device * 2 ^ 48) := by
    simp only [slotqWord, if_true]; rfl
  refine ⟨_, hidx, ?_⟩
  rw [hword, BitVec.toNat_ofNat, Nat.mod_eq_of_lt (by omega)]
  omega

/-- Cycles until a slot that is `k` slots on. -/
def cyclesToSlot (s : State) (k : Nat) : Nat :=
  match s.fab.slotAt s.now with
  | some _ => if k = 0 then 0 else k * s.fab.slotlen - s.fab.slotPos s.now
  | none => s.fab.t0 + k * s.fab.slotlen - s.now

theorem slotqWord_direct {k idx fib : Nat} (hp : p ≠ s.mgmt.device) (hreach : reachable s p = true) (hnext : s.fab.nextDirect s.now p = some (k, idx, fib))
    (hidx : idx < 64) (hfib : fib < 64) : (slotqWord s p).toNat = queuedField s p * 2 ^ 48 + idx * 2 ^ 40 + fib * 2 ^ 32 + cyclesToSlot s k % 2 ^ 32 := by
  have hqueued := queuedField_le s p
  have hword : slotqWord s p = BitVec.ofNat 64 (queuedField s p * 2 ^ 48 + idx * 2 ^ 40 + fib * 2 ^ 32 + cyclesToSlot s k % 2 ^ 32) := by
    simp only [slotqWord, hp, hreach, hnext, if_false, Bool.not_true, Bool.false_eq_true]; rfl
  rw [hword, BitVec.toNat_ofNat, Nat.mod_eq_of_lt (by omega)]

end

theorem remoteFenceAndSlotQuery : RemoteFenceAndSlotQuery := by
  refine ⟨fun s v h d hv hej => ?fence, fun s v h hrun => ?query⟩
  case fence =>
    exact ⟨exec_rfence_off hv hej, exec_rfence_waits hv hej, fun x hplaces hidle => exec_rfence_held hv hej hplaces hidle, exec_rfence_fences hv hej⟩
  case query =>
    intro a
    rw [exec_slotq hrun]
    refine ⟨fun hill => by rw [if_pos hill], fun hlegal => ⟨slotqWord s a, by rw [if_neg (Nat.not_le.2 hlegal)], slotqWord_unreachable, fun hown hslots => ?_, fun k idx fib hp hreach hnext hidx hfib => ?_⟩⟩
    · obtain ⟨idx, hidx, hword⟩ := slotqWord_own hslots
      rw [← hown] at hword
      have hqueued := queuedField_le s a
      rw [hword]
      change _ ∧ _ ∧ _ = queuedField s a
      omega
    · have hqueued := queuedField_le s a
      rw [slotqWord_direct hp hreach hnext hidx hfib]
      change _ = queuedField s a ∧ _
      omega

/-- Settles O30. -/
theorem remoteInstructions : Obligations.RemoteInstructions := ⟨remoteAccessIssue, remotePassesByPeer, expertExchange, remoteFenceAndSlotQuery⟩

end Sys2Proof.Machine
end

section
/-! PROOF. The fabric schedule, slots and fibre stops (spec/09_fabric.md R252, R253, R258, R259; 16 R416). -/

namespace Sys2Proof.Machine

open Sys2Proof Sys2Proof.Claims

/-! ### Tables written entry by entry -/

section

variable {α : Type}

theorem map_fst_zip_sublist {β : Type} : ∀ (as : List α) (bs : List β), ((as.zip bs).map Prod.fst).Sublist as
  | [], _ => by simp
  | a :: as, [] => by simp
  | a :: as, b :: bs => (map_fst_zip_sublist as bs).cons_cons a

/-- The entries of a list with their numbers, below `n`. -/
theorem nodup_numbers (n : Nat) (l : List α) : (((List.range n).zip l).map Prod.fst).Nodup := (map_fst_zip_sublist _ l).nodup List.nodup_range

theorem mem_numbered {n i : Nat} {l : List α} {x : α} (hi : i < n) (hx : l[i]? = some x) : (i, x) ∈ (List.range n).zip l :=
  List.mem_of_getElem? (i := i) (List.getElem?_zip_eq_some.2 ⟨List.getElem?_range hi, hx⟩)

theorem number_lt {n : Nat} {l : List α} {e : Nat × α} (he : e ∈ (List.range n).zip l) : e.1 < n := List.mem_range.1 (List.of_mem_zip he).1

end

/-! ### Loading the schedule (R252, R253, R416) -/

/-- The bits of a fibre field that a write takes (R253). -/
def fibreMask (absent : List Nat) (k : Nat) : BitVec 16 := if absent.contains k then 0x03FF#16 else 0x83FF#16

/-- The port without its two tables. -/
def Fabric.noTables (f : Fabric) : Fabric := { f with slots := [], routes := [] }

section

variable (f : Fabric)

theorem setSlot_noTables (n k : Nat) (x : BitVec 16) : (f.setSlot n k x).noTables = f.noTables := by
  unfold Fabric.setSlot; split <;> rfl

theorem setRoute_noTables (d : Nat) (x : BitVec 16) : (f.setRoute d x).noTables = f.noTables := by
  unfold Fabric.setRoute; split <;> rfl

theorem setRoute_slots (d : Nat) (x : BitVec 16) : (f.setRoute d x).slots = f.slots := by
  unfold Fabric.setRoute; split <;> rfl

theorem absent_of_noTables {f g : Fabric} (h : f.noTables = g.noTables) : f.absent = g.absent := by
  change f.noTables.absent = g.noTables.absent
  rw [h]

theorem setSlot_same {n k : Nat} (hn : n < 64) (hk : k < 48) (x : BitVec 16) :
    sget (f.setSlot n k x).slots (48 * n + k) = x &&& fibreMask f.absent k := by
  rw [Fabric.setSlot, if_pos ⟨hn, hk⟩]
  exact sget_sset_same ..

theorem setSlot_other {n k i : Nat} (hi : i ≠ 48 * n + k) (x : BitVec 16) : sget (f.setSlot n k x).slots i = sget f.slots i := by
  unfold Fabric.setSlot
  split
  · exact sget_sset_ne _ _ hi
  · rfl

theorem setRoute_same {d : Nat} (hd : d < 1024) (x : BitVec 16) : sget (f.setRoute d x).routes d = x &&& 0x83FF#16 := by
  rw [Fabric.setRoute, if_pos hd]
  exact sget_sset_same ..

theorem setRoute_other {d i : Nat} (hi : i ≠ d) (x : BitVec 16) : sget (f.setRoute d x).routes i = sget f.routes i := by
  unfold Fabric.setRoute
  split
  · exact sget_sset_ne _ _ hi
  · rfl

/-- The fields of one slot, written in turn. -/
def Fabric.loadSlot (f : Fabric) (n : Nat) (l : List (BitVec 16)) : Fabric := ((List.range 48).zip l).foldl (fun f x => f.setSlot n x.1 x.2) f

/-- The slot table of an image. -/
def Fabric.loadSlots (f : Fabric) (slots : List (List (BitVec 16))) : Fabric := ((List.range 64).zip slots).foldl (fun f e => f.loadSlot e.1 e.2) f

/-- The route table of an image. -/
def Fabric.loadRoutes (f : Fabric) (routes : List (BitVec 16)) : Fabric := ((List.range 1024).zip routes).foldl (fun f e => f.setRoute e.1 e.2) f

theorem loadSlot_noTables (n : Nat) (l : List (BitVec 16)) : (f.loadSlot n l).noTables = f.noTables :=
  foldl_keeps (g := Fabric.noTables) _ f (fun t e _ => setSlot_noTables t n e.1 e.2)

theorem loadSlots_noTables (slots : List (List (BitVec 16))) : (f.loadSlots slots).noTables = f.noTables :=
  foldl_keeps (g := Fabric.noTables) _ f (fun t e _ => loadSlot_noTables t e.1 e.2)

theorem loadRoutes_noTables (routes : List (BitVec 16)) : (f.loadRoutes routes).noTables = f.noTables :=
  foldl_keeps (g := Fabric.noTables) _ f (fun t e _ => setRoute_noTables t e.1 e.2)

theorem loadRoutes_slots (routes : List (BitVec 16)) : (f.loadRoutes routes).slots = f.slots :=
  foldl_keeps (g := Fabric.slots) _ f (fun t e _ => setRoute_slots t e.1 e.2)

theorem loadRoutes_route {routes : List (BitVec 16)} {d : Nat} {x : BitVec 16} (hd : d < 1024) (hx : routes[d]? = some x) :
    sget (f.loadRoutes routes).routes d = x &&& 0x83FF#16 := by
  obtain ⟨t, -, ht⟩ := foldl_once (f := fun f e => Fabric.setRoute f e.1 e.2) (g := fun f : Fabric => sget f.routes d) f (nodup_numbers 1024 routes)
    (mem_numbered hd hx) (fun t e he => setRoute_other t (Ne.symm he) e.2)
  exact ht.trans (setRoute_same t hd x)

theorem loadSlot_field {l : List (BitVec 16)} {n k : Nat} {x : BitVec 16} (hn : n < 64) (hk : k < 48) (hx : l[k]? = some x) :
    sget (f.loadSlot n l).slots (48 * n + k) = x &&& fibreMask f.absent k := by
  obtain ⟨t, habsent, ht⟩ := foldl_once (f := fun f e => Fabric.setSlot f n e.1 e.2) (g := fun f : Fabric => (f.absent, sget f.slots (48 * n + k))) f
    (nodup_numbers 48 l) (mem_numbered hk hx) (fun t e he => Prod.ext (absent_of_noTables (setSlot_noTables t n e.1 e.2)) (setSlot_other t (by simp only at he; omega) e.2))
  obtain ⟨habsent, -⟩ := Prod.mk.inj habsent
  rw [← habsent, ← setSlot_same t hn hk x]
  exact (Prod.mk.inj ht).2

theorem loadSlot_other {l : List (BitVec 16)} {n m k : Nat} (hk : k < 48) (hm : m ≠ n) :
    sget (f.loadSlot m l).slots (48 * n + k) = sget f.slots (48 * n + k) :=
  foldl_keeps (g := fun f : Fabric => sget f.slots (48 * n + k)) _ f (fun t e he => by
    have hlt := number_lt he
    exact setSlot_other t (by omega) e.2)

theorem loadSlots_field {slots : List (List (BitVec 16))} {l : List (BitVec 16)} {n k : Nat} {x : BitVec 16} (hn : n < 64) (hk : k < 48)
    (hl : slots[n]? = some l) (hx : l[k]? = some x) : sget (f.loadSlots slots).slots (48 * n + k) = x &&& fibreMask f.absent k := by
  obtain ⟨t, habsent, ht⟩ := foldl_once (f := fun f e => Fabric.loadSlot f e.1 e.2) (g := fun f : Fabric => (f.absent, sget f.slots (48 * n + k))) f
    (nodup_numbers 64 slots) (mem_numbered hn hl) (fun t e he => Prod.ext (absent_of_noTables (loadSlot_noTables t e.1 e.2)) (loadSlot_other t hk he))
  obtain ⟨habsent, -⟩ := Prod.mk.inj habsent
  rw [← habsent, ← loadSlot_field t hn hk hx]
  exact (Prod.mk.inj ht).2

/-- The port after the schedule of an image has been loaded. -/
def Fabric.scheduled (f : Fabric) (img : FabricImage) : Fabric :=
  ({ f.setFsched img.fsched with t0 := img.fepoch.toNat, slotNow := 0, loaded := true }.loadSlots img.slots).loadRoutes img.routes

theorem scheduled_noTables (img : FabricImage) : (f.scheduled img).noTables =
    { (f.setFsched img.fsched).noTables with t0 := img.fepoch.toNat, slotNow := 0, loaded := true } :=
  (loadRoutes_noTables _ _).trans (loadSlots_noTables _ _)

theorem exec_fabricScheduleLoad (s : State) (img : FabricImage) : exec (.fabricScheduleLoad img) s =
    .next (if s.fab.quiesced && s.mgmt.powered then { s with fab := s.fab.scheduled img } else s) := happen_ite ..

theorem scheduled_settings (img : FabricImage) : (f.scheduled img).loaded = true ∧ (f.scheduled img).slotNow = 0 ∧ (f.scheduled img).t0 = img.fepoch.toNat ∧
    (f.scheduled img).nslot = img.fsched.toNat % 64 ∧ (f.scheduled img).trimth = max 64 (img.fsched.toNat / 2 ^ 48) ∧
    (f.scheduled img).slotlen = if 2800 ≤ img.fsched.toNat / 2 ^ 32 % 2 ^ 16 ∧ img.fsched.toNat / 2 ^ 32 % 2 ^ 16 ≤ 28000 then img.fsched.toNat / 2 ^ 32 % 2 ^ 16 else f.slotlen := by
  have hkeep := scheduled_noTables f img
  have hlt := img.fsched.isLt
  generalize f.scheduled img = t at hkeep ⊢
  refine ⟨?_, ?_, ?_, ?_, ?_, ?_⟩
  · exact congrArg (fun g : Fabric => g.loaded) hkeep
  · exact congrArg (fun g : Fabric => g.slotNow) hkeep
  · exact congrArg (fun g : Fabric => g.t0) hkeep
  · refine (congrArg (fun g : Fabric => g.nslot) hkeep).trans ?_
    simp [Fabric.noTables, Fabric.setFsched, bitsOf]
  · refine (congrArg (fun g : Fabric => g.trimth) hkeep).trans ?_
    change max 64 (bitsOf img.fsched.toNat 63 48) = _
    rw [bitsOf, Nat.mod_eq_of_lt (by omega)]
  · exact congrArg (fun g : Fabric => g.slotlen) hkeep

theorem scheduled_route (img : FabricImage) {d : Nat} {x : BitVec 16} (hd : d < 1024) (hx : img.routes[d]? = some x) :
    sget (f.scheduled img).routes d = x &&& 0x83FF#16 := loadRoutes_route _ hd hx

theorem scheduled_field (img : FabricImage) {n k : Nat} {l : List (BitVec 16)} {x : BitVec 16} (hn : n < 64) (hk : k < 48) (hl : img.slots[n]? = some l)
    (hx : l[k]? = some x) : sget (f.scheduled img).slots (48 * n + k) = x &&& (if k ∈ f.absent then 0x03FF#16 else 0x83FF#16) := by
  unfold Fabric.scheduled
  rw [loadRoutes_slots, loadSlots_field _ hn hk hl hx]
  simp [fibreMask, Fabric.setFsched]

end

/-! ### Slots and stops (R252, R258, R259) -/

section

variable (s : State)

theorem slotDue_of_time {n : Nat} (hn : s.fab.slotAt s.now = some n) : slotDue s = (s.fab.loaded && s.fab.slotNow != n + 1) := by
  simp only [slotDue, hn]

theorem exec_slotStart {n : Nat} (hn : s.fab.slotAt s.now = some n) : exec .slotStart s = .next (
    if slotDue s then { s with fab := { s.fab with slotNow := n + 1, credit := [], freed := startFreed s.fab, dead := [], heard := [], got := [], stopped := [], ackq := [] } }
    else s) := by
  change happen s (slotStartEvent s) = _
  simp only [slotStartEvent, hn]
  exact happen_ite ..

/-- The port after a fibre has stopped: its unacknowledged flits are back in their queues (R258). -/
def fibreStopped (s : State) (f : Nat) : Fabric :=
  { s.fab with
    sendq := ((fibreList s.fab.replay f).filter (fun x => x.src == s.mgmt.device)).foldl requeue s.fab.sendq,
    relayq := ((fibreList s.fab.replay f).filter (fun x => x.src != s.mgmt.device)).foldl requeueRelay s.fab.relayq,
    replay := terase s.fab.replay f, lost := terase s.fab.lost f, stopped := s.fab.stopped ++ [f] }

theorem exec_fibreStop (f : Nat) : exec (.fibreStop f) s = .next (if stopDue s f then { s with fab := fibreStopped s f } else s) := happen_ite ..

end

/-- An element put before the first that meets a test stands behind none that meets it. -/
theorem insert_before_first {α : Type} (p : α → Bool) (q : List α) (x : α) :
    ∃ a b, q = a ++ b ∧ q.takeWhile (fun y => !p y) ++ x :: q.drop (q.takeWhile (fun y => !p y)).length = a ++ x :: b ∧ ∀ y ∈ a, ¬ p y = true := by
  have hcut : q.takeWhile (fun y => !p y) ++ q.dropWhile (fun y => !p y) = q := List.takeWhile_append_dropWhile
  refine ⟨_, _, hcut.symm, ?_, fun y hy => by simpa using List.mem_takeWhile_imp hy⟩
  have hdrop : q.drop (q.takeWhile (fun y => !p y)).length = q.dropWhile (fun y => !p y) := by
    have hback := congrArg (List.drop (q.takeWhile (fun y => !p y)).length) hcut
    rwa [List.drop_left, eq_comm] at hback
  rw [hdrop]

theorem fabricScheduleAndSlots : FabricScheduleAndSlots := by
  refine ⟨fun s img hquiet hpower => ?load, fun s img hno => ?idle, fun s n hn => ?start, fun s f => ?stop, fun q x => ?requeued, fun q x => ?relayed⟩
  case load =>
    obtain ⟨hloaded, hslot, ht0, hcount, htrim, hlen⟩ := scheduled_settings s.fab img
    exact ⟨{ s with fab := s.fab.scheduled img }, by rw [exec_fabricScheduleLoad, hquiet, hpower]; rfl, rfl, hloaded, hslot, ht0, hcount, htrim, hlen,
      fun d x hd hx => scheduled_route s.fab img hd hx, fun n k l x hn hk hl hx => scheduled_field s.fab img hn hk hl hx⟩
  case idle =>
    rw [exec_fabricScheduleLoad, if_neg (by simpa using fun h => hno.resolve_left (by simp [h]))]
  case start =>
    rw [exec_slotStart s hn, slotDue_of_time s hn]
    exact ⟨fun hloaded hnew => by rw [if_pos (by simpa [hloaded] using hnew)], fun hno => by rw [if_neg (by simpa using fun h => hno.resolve_left (by simp [h]))]⟩
  case stop =>
    rw [exec_fibreStop]
    exact ⟨fun hno => by rw [if_neg (by simp [hno])], fun hdue => by rw [if_pos hdue]; rfl⟩
  case requeued => simpa only [requeue, Bool.and_eq_true] using insert_before_first (fun y => sameFlow x y && seqAfter y.seq x.seq) q x
  case relayed => simpa only [requeueRelay, Bool.and_eq_true] using insert_before_first (fun e : Nat × Flit => sameFlow x e.2 && seqAfter e.2.seq x.seq) q (0, x)

end Sys2Proof.Machine
end

section
/-! PROOF. What a fibre sends (spec/09_fabric.md R255, R256, R258, R259). -/

namespace Sys2Proof.Machine

open Sys2Proof Sys2Proof.Claims

/-! ### Storage and the relay buffer (R251, R258) -/

/-- Answers that enter send storage change the send queue, the answers that wait and the sequence numbers alone. -/
theorem pumpOwed_keeps {γ : Type} {g : Fabric → γ} (hg : ∀ f q o n, g { f with sendq := q, owed := o, txseq := n } = g f) (s : State) :
    g (pumpOwed s).fab = g s.fab := by
  refine (foldl_keeps (g := fun t : State => g t.fab) s.fab.owed _ fun t pk _ => ?step).trans (hg s.fab s.fab.sendq [] s.fab.txseq)
  case step =>
    dsimp only
    split
    · exact hg t.fab _ t.fab.owed _
    · exact hg t.fab t.fab.sendq _ t.fab.txseq

/-- Without an answer that waits, the send queue stays. -/
theorem pumpOwed_of_none {s : State} (howed : s.fab.owed = []) : (pumpOwed s).fab.sendq = s.fab.sendq := by
  unfold pumpOwed; rw [howed]; rfl

/-- Flits that enter the relay buffer change it, the flits that wait and the freed slots alone. -/
theorem relayPump_keeps {γ : Type} {g : Fabric → γ} (hg : ∀ f q w n, g { f with relayq := q, rwait := w, freed := n } = g f) (f : Fabric) :
    g (relayPump f) = g f := by
  refine (foldl_keeps (g := g) f.rwait _ fun t e _ => ?step).trans (hg f f.relayq [] f.freed)
  case step =>
    split
    · exact hg t _ t.rwait _
    · exact hg t t.relayq _ t.freed

/-- Without a flit that waits, the relay buffer stays. -/
theorem relayPump_of_none {f : Fabric} (hwait : f.rwait = []) : (relayPump f).relayq = f.relayq := by
  unfold relayPump; rw [hwait]; rfl

/-! ### The flit on the wire (R256) -/

section

variable (f : Fabric) (fib rr : Nat) (place : FlitPlace) (x : Flit)

/-- The CRC of a flit is that of its bytes, in which its own field is zero. -/
theorem onWire_crc : (onWire f fib x).crc = crc32 (flitImage (onWire f fib x)) := rfl

theorem afterSend_wire : (afterSend f fib rr place x).wire = tset f.wire fib (onWire f fib x) := by
  cases place with
  | lost => rfl
  | own => rfl
  | relay => exact relayPump_keeps (g := Fabric.wire) (fun _ _ _ _ => rfl) _

theorem afterSend_replay : (afterSend f fib rr place x).replay = tset f.replay fib ((fibreList f.replay fib).erase x ++ [x]) := by
  cases place with
  | lost => rfl
  | own => rfl
  | relay => exact relayPump_keeps (g := Fabric.replay) (fun _ _ _ _ => rfl) _

theorem afterSend_owed : (afterSend f fib rr place x).owed = f.owed := by
  cases place with
  | lost => rfl
  | own => rfl
  | relay => exact relayPump_keeps (g := Fabric.owed) (fun _ _ _ _ => rfl) _

theorem afterSend_sendq_of_other (hplace : place ≠ .own) : (afterSend f fib rr place x).sendq = f.sendq := by
  cases place with
  | lost => rfl
  | own => exact absurd rfl hplace
  | relay => exact relayPump_keeps (g := Fabric.sendq) (fun _ _ _ _ => rfl) _

end

section

variable {s : State} {f p rr : Nat} {place : FlitPlace} {x : Flit}

/-- The state after a fibre has sent a flit. -/
def flitSent (s : State) (f rr : Nat) (place : FlitPlace) (x : Flit) : State := pumpOwed { s with fab := afterSend s.fab f rr place x }

theorem exec_fibreFlitSend_dead (hdead : fibreLive s f = false) : exec (.fibreFlitSend f) s = .next s := by
  change happen s (fibreFlitSendEvent f s) = _
  unfold fibreFlitSendEvent
  split <;> simp [hdead, happen]

section

variable (hpeer : s.fab.livePeer s.now f = some p) (hlive : fibreLive s f = true)

include hpeer hlive

theorem exec_fibreFlitSend_idle (hnext : nextFlit s.fab s.now f p = none) : exec (.fibreFlitSend f) s = .next { s with fab := { s.fab with
    wire := tset s.fab.wire f (onWire s.fab f (flitTo s p .idle .idle (0, Ptr.none) 0 0 0 0 [] false)), ackq := terase s.fab.ackq f } } := by
  change happen s (fibreFlitSendEvent f s) = _
  simp only [fibreFlitSendEvent, hpeer, hlive, hnext, if_true]
  rfl

theorem exec_fibreFlitSend_flit (hnext : nextFlit s.fab s.now f p = some (place, x, rr)) : exec (.fibreFlitSend f) s = .next (flitSent s f rr place x) := by
  change happen s (fibreFlitSendEvent f s) = _
  simp only [fibreFlitSendEvent, hpeer, hlive, hnext, if_true]
  rfl

end

theorem flitSent_wire : tget (flitSent s f rr place x).fab.wire f = some (onWire s.fab f x) := by
  rw [flitSent, pumpOwed_keeps (g := Fabric.wire) (fun _ _ _ _ => rfl), afterSend_wire, tget_tset_same]

theorem flitSent_replay : tget (flitSent s f rr place x).fab.replay f = some ((fibreList s.fab.replay f).erase x ++ [x]) := by
  rw [flitSent, pumpOwed_keeps (g := Fabric.replay) (fun _ _ _ _ => rfl), afterSend_replay, tget_tset_same]

theorem flitSent_sendq_of_other (hplace : place ≠ .own) (howed : s.fab.owed = []) : (flitSent s f rr place x).fab.sendq = s.fab.sendq := by
  rw [flitSent, pumpOwed_of_none ((afterSend_owed ..).trans howed), afterSend_sendq_of_other _ _ _ _ _ hplace]

theorem flitSent_credit : (flitSent s f rr place x).fab.credit = (afterSend s.fab f rr place x).credit := pumpOwed_keeps (g := Fabric.credit) (fun _ _ _ _ => rfl) _

theorem flitSent_rr : (flitSent s f rr place x).fab.rr = (afterSend s.fab f rr place x).rr := pumpOwed_keeps (g := Fabric.rr) (fun _ _ _ _ => rfl) _

theorem flitSent_relayq : (flitSent s f rr place x).fab.relayq = (afterSend s.fab f rr place x).relayq := pumpOwed_keeps (g := Fabric.relayq) (fun _ _ _ _ => rfl) _

end

theorem fibreSends : FibreSends := by
  intro s f p hpeer sent kept
  have hwire : ∀ {t : State} {x : Flit}, tget t.fab.wire f = some (onWire s.fab f x) → sent t (onWire s.fab f x) := fun h => ⟨h, rfl, rfl, onWire_crc ..⟩
  refine ⟨exec_fibreFlitSend_dead, fun hlive => ⟨fun hnext => ?idle, fun x rr hnext => ?own, fun x rr hnext => ?relay, fun x rr hnext => ?lost⟩⟩
  case idle =>
    exact ⟨_, _, exec_fibreFlitSend_idle hpeer hlive hnext, hwire (tget_tset_same ..), rfl, rfl, rfl, rfl, rfl, rfl⟩
  case own =>
    refine ⟨_, _, exec_fibreFlitSend_flit hpeer hlive hnext, hwire flitSent_wire, rfl, rfl, rfl, rfl, rfl, rfl, fun howed => ?_, flitSent_replay, ?_, ?_⟩
    · exact pumpOwed_of_none howed
    · rw [flitSent_rr]; exact tget_tset_same ..
    · rw [flitSent_credit]; exact congrArg _ (tget_tset_same ..)
  case relay =>
    refine ⟨_, _, exec_fibreFlitSend_flit hpeer hlive hnext, hwire flitSent_wire, flitSent_sendq_of_other (by decide), flitSent_replay, fun hwait => ?_⟩
    rw [flitSent_relayq]
    exact relayPump_of_none hwait
  case lost =>
    refine ⟨_, _, exec_fibreFlitSend_flit hpeer hlive hnext, hwire flitSent_wire, flitSent_sendq_of_other (by decide), flitSent_replay, ?_⟩
    rw [flitSent_credit]
    rfl

end Sys2Proof.Machine
end

section
/-! PROOF. What an arriving flit does, and how the flits of a packet come together (spec/09_fabric.md R253, R256 to R261). -/

namespace Sys2Proof.Machine

open Sys2Proof Sys2Proof.Claims

/-! ### The checks of an arriving flit (R253, R256, R258, R259) -/

/-- The fibre is not silent in this slot. -/
def heardOn (s : State) (f : Nat) : State :=
  { s with fab := { s.fab with heard := if s.fab.heard.contains f then s.fab.heard else s.fab.heard ++ [f] } }

/-- The counts and acknowledgements that a flit carries are taken. -/
def countsTaken (s : State) (f : Nat) (fl : Flit) : State := { heardOn s f with fab := takeAcks (takeCredit (heardOn s f).fab f fl) f fl.acks }

/-- A flit that came directly: its sender is the fibre's peer (R253, R254, R261). -/
def OneHop (s : State) (fl : Flit) : Prop := fl.net = .fwd ∨ fl.net = .idle ∨ fl.opc = .resend ∨ fl.dst ≠ s.mgmt.device

theorem srcOk_iff {s : State} {p : Nat} {fl : Flit} : srcOk s.mgmt.device p fl = true ↔ (OneHop s fl → fl.src = p) := by
  have hhop : (fl.net == .idle || fl.net == Net.fwd || fl.opc == .resend || fl.dst != s.mgmt.device) = true ↔ OneHop s fl := by
    simp only [OneHop, Bool.or_eq_true, beq_iff_eq, bne_iff_ne, or_assoc, or_left_comm]
  rw [srcOk, Bool.or_eq_true, Bool.not_eq_true', ← Bool.not_eq_true, hhop, beq_iff_eq, imp_iff_not_or]

section

variable {s : State} {f p : Nat} {fl : Flit} {ops : List FOp} {act : State → Flit → State}
  (hpeer : s.fab.livePeer s.now f = some p) (hlive : slotLive s = true) (hf : f < Config.fibres)

include hpeer hlive hf

/-- The checks of an arriving flit, in their order. -/
theorem arrive1_eq (hop : (ops.contains fl.opc || opcReserved fl.opc) = true) : arrive1 s f fl ops act =
    if fl.crc ≠ flitCrc fl ∨ opcReserved fl.opc = true then some (heardOn s f)
    else if !srcOk s.mgmt.device p fl then some { heardOn s f with fab := { (heardOn s f).fab with dead := (heardOn s f).fab.dead ++ [f] } }
    else if fl.opc = .idle then some (countsTaken s f fl)
    else if seqOk (countsTaken s f fl).fab fl then some (acceptFlit (countsTaken s f fl) f fl act)
    else if seqOld (countsTaken s f fl).fab fl then some { countsTaken s f fl with fab := dropOld (countsTaken s f fl).fab f fl }
    else some (countsTaken s f fl) := by
  have hgo : ¬ (!slotLive s || !(ops.contains fl.opc || opcReserved fl.opc) || decide (Config.fibres ≤ f)) = true := by
    rw [hlive, hop]; simpa using hf
  simp only [arrive1, hpeer, hgo, Bool.false_eq_true, if_false, heardOn, countsTaken]
  split_ifs <;> rfl

theorem arrive1_damaged (hop : (ops.contains fl.opc || opcReserved fl.opc) = true) (hbad : fl.crc ≠ crc32 (flitImage fl) ∨ opcReserved fl.opc = true) :
    arrive1 s f fl ops act = some (heardOn s f) := by
  rw [arrive1_eq hpeer hlive hf hop]
  exact if_pos hbad

variable (hop : ops.contains fl.opc = true) (hcrc : fl.crc = crc32 (flitImage fl)) (hlegal : opcReserved fl.opc = false)

include hop hcrc hlegal

theorem arrive1_misdirected (hhop : OneHop s fl) (hsrc : fl.src ≠ p) : arrive1 s f fl ops act =
    some { heardOn s f with fab := { (heardOn s f).fab with dead := (heardOn s f).fab.dead ++ [f] } } := by
  rw [arrive1_eq hpeer hlive hf (by rw [hop]; rfl), if_neg (by rw [hlegal]; simpa using show fl.crc = flitCrc fl from hcrc), if_pos]
  have hbad : ¬ srcOk s.mgmt.device p fl = true := fun hok => hsrc (srcOk_iff.1 hok hhop)
  simpa using hbad

variable (hsrc : OneHop s fl → fl.src = p)

include hsrc

/-- An undamaged flit of a sender that it may have: its counts and acknowledgements are taken before its sequence number is looked at (R258, R259). -/
theorem arrive1_heard : arrive1 s f fl ops act =
    if fl.opc = .idle then some (countsTaken s f fl)
    else if seqOk (countsTaken s f fl).fab fl then some (acceptFlit (countsTaken s f fl) f fl act)
    else if seqOld (countsTaken s f fl).fab fl then some { countsTaken s f fl with fab := dropOld (countsTaken s f fl).fab f fl }
    else some (countsTaken s f fl) := by
  rw [arrive1_eq hpeer hlive hf (by rw [hop]; rfl), if_neg (by rw [hlegal]; simpa using show fl.crc = flitCrc fl from hcrc), if_neg]
  simpa using srcOk_iff.2 hsrc

theorem arrive1_idle (hidle : fl.opc = .idle) : arrive1 s f fl ops act = some (countsTaken s f fl) := by
  rw [arrive1_heard hpeer hlive hf hop hcrc hlegal hsrc, if_pos hidle]

variable (hbusy : fl.opc ≠ .idle)

include hbusy

theorem arrive1_accepted (hseq : seqOk (countsTaken s f fl).fab fl = true) :
    arrive1 s f fl ops act = some (acceptFlit (countsTaken s f fl) f fl act) := by
  rw [arrive1_heard hpeer hlive hf hop hcrc hlegal hsrc, if_neg hbusy, if_pos hseq]

theorem arrive1_repeated (hseq : seqOk (countsTaken s f fl).fab fl = false) (hold : seqOld (countsTaken s f fl).fab fl = true) :
    arrive1 s f fl ops act = some { countsTaken s f fl with fab := dropOld (countsTaken s f fl).fab f fl } := by
  rw [arrive1_heard hpeer hlive hf hop hcrc hlegal hsrc, if_neg hbusy, if_neg (by simp [hseq]), if_pos hold]

theorem arrive1_early (hseq : seqOk (countsTaken s f fl).fab fl = false) (hold : seqOld (countsTaken s f fl).fab fl = false) :
    arrive1 s f fl ops act = some (countsTaken s f fl) := by
  rw [arrive1_heard hpeer hlive hf hop hcrc hlegal hsrc, if_neg hbusy, if_neg (by simp [hseq]), if_neg (by simp [hold])]

end

/-! ### An accepted flit (R258, R261) -/

/-- The fabric after a flit's sequence number is taken: it is acknowledged, and noted as brought by this link. -/
def flitTaken (s : State) (f : Nat) (fl : Flit) : Fabric := noteGot (oweAck (seqTake s.fab fl) f fl) f fl

section

variable {s : State} {f : Nat} {fl : Flit} {act : State → Flit → State}

theorem acceptFlit_relayed (hdst : fl.dst ≠ s.mgmt.device) : acceptFlit s f fl act = { s with fab := relayTake (flitTaken s f fl) f fl } := if_pos hdst

variable (hdst : fl.dst = s.mgmt.device)

include hdst

theorem acceptFlit_trimmed (htr : fl.tr = true) : acceptFlit s f fl act = sendPull { s with fab := flitTaken s f fl } f fl := by
  simp only [acceptFlit, ne_eq, hdst, not_true, if_false, htr, if_true, flitTaken]

theorem acceptFlit_gathered (htr : fl.tr = false) : acceptFlit s f fl act = gather { s with fab := freeSlot (flitTaken s f fl) f fl.net } fl act := by
  simp only [acceptFlit, ne_eq, hdst, not_true, if_false, htr, Bool.false_eq_true, flitTaken]

end

/-! ### The arrival instructions -/

/-- Each arrival is the common checks with its own operation and action. -/
theorem exec_arrival {s : State} {f : Nat} {fl : Flit} {e : Instr × FOp × (State → Flit → State)} (he : e ∈ arrivals f fl) :
    exec e.1 s = happen s (arrive1 s f fl [e.2.1] e.2.2) := by
  simp only [arrivals, List.mem_cons, List.not_mem_nil, or_false] at he
  rcases he with rfl | rfl | rfl | rfl | rfl | rfl | rfl | rfl | rfl | rfl | rfl
  all_goals rfl

theorem exec_idleFlit {s : State} {f : Nat} {fl : Flit} : exec (.idleFlit f fl) s = happen s (arrive1 s f fl [.idle] (fun s _ => s)) := rfl

/-- The operations of the arrivals are neither the idle flit's nor reserved. -/
theorem arrival_op {f : Nat} {fl : Flit} {e : Instr × FOp × (State → Flit → State)} (he : e ∈ arrivals f fl) : e.2.1 ≠ .idle ∧ opcReserved e.2.1 = false := by
  simp only [arrivals, List.mem_cons, List.not_mem_nil, or_false] at he
  rcases he with rfl | rfl | rfl | rfl | rfl | rfl | rfl | rfl | rfl | rfl | rfl
  all_goals exact ⟨nofun, rfl⟩

theorem flitArrival : FlitArrival := by
  intro s f p fl hpeer hlive hf s0 s1 f1 dead good hop
  refine ⟨fun e he hopc => ?_, fun e he n hn => ?_, fun hidle => ?_⟩
  · obtain ⟨hbusy, hlegal⟩ := arrival_op he
    rw [← hopc] at hbusy hlegal
    have hmem : [e.2.1].contains fl.opc = true := by rw [hopc]; exact List.contains_iff_mem.2 (List.mem_singleton.2 rfl)
    have hops : ([e.2.1].contains fl.opc || opcReserved fl.opc) = true := by rw [hmem]; rfl
    rw [exec_arrival he]
    refine ⟨fun hbad => ?_, fun hgood hhop hsrc => ?_, fun hgood hsrc => ⟨fun hseq hold => ?_, fun hseq hold => ?_, fun hseq => ?_⟩⟩
    · exact congrArg (happen s) (arrive1_damaged hpeer hlive hf hops (.inl hbad))
    · exact congrArg (happen s) (arrive1_misdirected hpeer hlive hf hmem hgood hlegal hhop hsrc)
    · exact congrArg (happen s) (arrive1_repeated hpeer hlive hf hmem hgood hlegal hsrc hbusy hseq hold)
    · exact congrArg (happen s) (arrive1_early hpeer hlive hf hmem hgood hlegal hsrc hbusy hseq hold)
    · rw [arrive1_accepted hpeer hlive hf hmem hgood hlegal hsrc hbusy hseq]
      exact ⟨fun hdst => congrArg Host.Outcome.next (acceptFlit_relayed hdst), fun hdst htr => congrArg Host.Outcome.next (acceptFlit_trimmed hdst htr),
        fun hdst htr => congrArg Host.Outcome.next (acceptFlit_gathered hdst htr)⟩
  · have hres : opcReserved fl.opc = true := by rw [hn]; rfl
    rw [exec_arrival he]
    exact congrArg (happen s) (arrive1_damaged hpeer hlive hf (by rw [hres, Bool.or_true]) (.inr hres))
  · have hmem : [FOp.idle].contains fl.opc = true := by rw [hidle]; rfl
    have hlegal : opcReserved fl.opc = false := by rw [hidle]; rfl
    rw [exec_idleFlit]
    refine ⟨fun hbad => ?_, fun hgood hhop hsrc => ?_, fun hgood hsrc => ?_⟩
    · exact congrArg (happen s) (arrive1_damaged hpeer hlive hf (by rw [hmem]; rfl) (.inl hbad))
    · exact congrArg (happen s) (arrive1_misdirected hpeer hlive hf hmem hgood hlegal hhop hsrc)
    · exact congrArg (happen s) (arrive1_idle hpeer hlive hf hmem hgood hlegal hsrc hidle)

/-! ### Packets of one and two flits (R257) -/

theorem gather_single {s : State} {x : Flit} {act : State → Flit → State} (hx : ((x.fst && x.lst) || x.opc == .resend) = true) : gather s x act = act s { x with arr := s.now } := if_pos hx

section

variable {s : State} {x : Flit} {act : State → Flit → State} (hx : ((x.fst && x.lst) || x.opc == .resend) = false)

include hx

theorem gather_waiting (hg : gathered (s.fab.asm ++ [x]) x = none) : gather s x act = { s with fab := { s.fab with asm := s.fab.asm ++ [x] } } := by
  simp only [gather, hx, Bool.false_eq_true, if_false, hg]

theorem gather_complete {h : Flit} {rest : List Flit} (hg : gathered (s.fab.asm ++ [x]) x = some (h :: rest)) : gather s x act =
    act { s with fab := { s.fab with asm := (s.fab.asm ++ [x]).filter (fun y => !(h :: rest).contains y) } }
      { h with items := (h :: rest).flatMap (fun y => y.items), lst := true, arr := s.now } := by
  simp only [gather, hx, Bool.false_eq_true, if_false, hg]

end

theorem sameFlow_self (x : Flit) : sameFlow x x = true := by simp [sameFlow]

/-- The flit that is part `i` of the packet that `h` begins. -/
def partOf (l : List Flit) (h : Flit) (i : Nat) : Option Flit := l.find? (fun y => sameFlow h y && y.seq == (h.seq + i) % 2 ^ 32)

/-- A packet of two flits is gathered when both its parts are there. -/
theorem gathered_of_two {l : List Flit} {h x : Flit} (hl : l.filter (fun y => y.fst && sameFlow y x) = [h]) (hn : h.nflits = 2) :
    gathered l x = if [partOf l h 0, partOf l h 1].all Option.isSome then some ([partOf l h 0, partOf l h 1].filterMap id) else none := by
  have hparts : (List.range h.nflits).map (partOf l h) = [partOf l h 0, partOf l h 1] := by rw [hn]; rfl
  rw [gathered, hl, List.findSome?_singleton, ← hparts]
  rfl

theorem partOf_zero {l : List Flit} {h : Flit} (hseq : h.seq < 2 ^ 32) : partOf (h :: l) h 0 = some h :=
  List.find?_cons_of_pos (by simpa [sameFlow_self] using (Nat.mod_eq_of_lt hseq).symm)

theorem partOf_one_cons {l : List Flit} {h : Flit} (hseq : h.seq < 2 ^ 32) : partOf (h :: l) h 1 = partOf l h 1 := by
  have hne : h.seq ≠ (h.seq + 1) % 2 ^ 32 := by omega
  exact List.find?_cons_of_neg (by simpa [sameFlow_self] using hne)

/-- The first flit of two does not complete its packet. -/
theorem gathered_first {x : Flit} (hfst : x.fst = true) (hn : x.nflits = 2) (hseq : x.seq < 2 ^ 32) : gathered [x] x = none := by
  rw [gathered_of_two (by simp [hfst, sameFlow_self]) hn, partOf_one_cons hseq]
  exact if_neg (by simp [partOf])

/-- The second flit of two completes its packet. -/
theorem gathered_second {h x : Flit} (hfst : h.fst = true) (hn : h.nflits = 2) (hseq : h.seq < 2 ^ 32) (hflow : sameFlow h x = true) (hx : x.fst = false)
    (hnext : x.seq = (h.seq + 1) % 2 ^ 32) : gathered [h, x] x = some [h, x] := by
  have hpart : partOf [x] h 1 = some x := List.find?_cons_of_pos (by simp [hflow, hnext])
  rw [gathered_of_two (by simp [hfst, hx, hflow]) hn, partOf_zero hseq, partOf_one_cons hseq, hpart]
  rfl

theorem packetsGather : PacketsGather := by
  refine ⟨fun s x act hfst hlst => ?_, fun s x act hfst hlst hopc hn hseq hasm => ?_, fun s h x act hasm hfst hn hseq hflow hx hopc hnext => ?_⟩
  · exact gather_single (by rw [hfst, hlst]; rfl)
  · have hpart : ((x.fst && x.lst) || x.opc == .resend) = false := by simp [hlst, hopc]
    rw [gather_waiting hpart (by rw [hasm]; exact gathered_first hfst hn hseq), hasm]
    rfl
  · have hpart : ((x.fst && x.lst) || x.opc == .resend) = false := by simp [hx, hopc]
    rw [gather_complete hpart (by rw [hasm]; exact gathered_second hfst hn hseq hflow hx hnext), hasm]
    simp

/-- Settles O32: the schedule's load, slots and stops, the sends of a fibre, the checks of an arriving flit in their order, and the packets that flits make. -/
theorem fabricPort : Obligations.FabricPort := ⟨fabricScheduleAndSlots, fibreSends, flitArrival, packetsGather⟩

end Sys2Proof.Machine
end

section
/-! PROOF. A group of a block that is being stopped that its quarter still selects (spec/10_scheduling.md R284, R287, R291; 11_divergence.md R321). -/

namespace Sys2Proof.Machine

open Sys2Proof Sys2Proof.Claims

/-! ### A group at a RECALL that is over -/

/-- The group waits at RECALL, and every lane is home. -/
def recallGroup : Group := { Group.start Packet.blank 0 0 0 with run := .waiting .recall 0 }

/-- Its block is resident, and its pre-emption has begun. -/
def recallBlock : Block := { Block.fresh 0 0 0 0 0 with res := .resident, started := true, stopping := true, groups := [(0, recallGroup)] }

/-- The block on core 0, in the active context. -/
def recallState : State := { State.reset with blocks := [(0, recallBlock)], cores := [(0, { Core.fresh with active := some 0 })] }

/-- RECALL completes before a stop (R321), so that the stop does not hold the group. -/
theorem recallGroup_selectable : selectable recallState 0 0 false (0, recallBlock) (0, recallGroup) = true := by decide

/-- Refutes O38, in the part of `GroupsWake` that selects no group of a block that is being stopped: a group that waits in an instruction which completes before a
stop goes on (R321). The group of `recallState` stands at a RECALL whose lanes have all come home; its block's pre-emption has begun, and quarter 0 of its core may select it. -/
theorem not_triggersSleepsAndWakes : ¬ Obligations.TriggersSleepsAndWakes := by
  rintro ⟨-, hwakes⟩
  obtain ⟨-, -, -, -, hstopping, -⟩ := hwakes recallState 0 0 recallBlock recallGroup rfl rfl
  exact Bool.noConfusion (recallGroup_selectable.symm.trans (hstopping 0 0 rfl))

end Sys2Proof.Machine
end

section
/-! PROOF. The end of a mapping quantum where two descriptors have one queue number (spec/10_scheduling.md R281, R282). -/

namespace Sys2Proof.Machine

open Sys2Proof Sys2Proof.Claims

/-! ### A queue number with descriptors of two tenants -/

/-- A valid tenant with one queue slot. -/
def slotTenant : Tenant := { flags := 1, qslots := 1, proto := 0, msixn := 0, keys := 0, sample := 0, popring := 0, wins := [] }

/-- A context of a tenant. -/
def tenantCtx (t : Nat) : Ctx := { Ctx.bare 0 with tenant := some t }

/-- A queue of a context with one packet. -/
def loadedQueue (ctx : Nat) : Queue := { Queue.fresh with en := true, ctx := ctx, tail := 1 }

/-- The first mapping quantum has ended; tenants 0 and 1 have one context and one slot each. Queue number 5 has a descriptor in either context, and queue 6 is the other
one of tenant 1. -/
def doubledState : State :=
  { State.reset with clk := 140000, ctxs := [(0, tenantCtx 0), (1, tenantCtx 1)], tenants := [(0, slotTenant), (1, slotTenant)],
                     queues := [(5, loadedQueue 0), (5, loadedQueue 1), (6, loadedQueue 1)] }

/-- The quantum's end: tenant 0 maps queue 5, which starts its age again, and tenant 1 takes it off its slot for queue 6. -/
theorem doubled_mappingQuantumEnd : ∃ t, exec .mappingQuantumEnd doubledState = .next t ∧ isMapped t 5 = false ∧ tget t.sched.age 5 = none :=
  ⟨(mappingQuantumEndEvent doubledState).getD doubledState, rfl, by decide, by decide⟩

/-- Refutes O41, in the part on the ages at a mapping quantum's end, which asks for tenants listed once but not for queues listed once. In `doubledState` queue number 5 is listed under
two tenants: the first maps it, the second unmaps it in favour of queue 6, and it ends without a slot and without an age, where the statement gives it one quantum more. -/
theorem not_quantaAndSlots : ¬ Obligations.QuantaAndSlots := by
  rintro ⟨hquantum, -⟩
  obtain ⟨t, hexec, -, -, -, -, -, -, hages, -⟩ := (hquantum doubledState).1 (by decide)
  obtain ⟨t', hexec', hunmapped, hage⟩ := doubled_mappingQuantumEnd
  obtain rfl : t = t' := Host.Outcome.next.inj (hexec.symm.trans hexec')
  have haged := hages (by decide) 5 (by decide) hunmapped
  rw [hage] at haged
  cases haged

end Sys2Proof.Machine
end

section
/-! PROOF. What the caches and homes leave of the device: no coherence action changes VTIME, the queues and grids, the vectors sent to the host, the place of a
block or the group slots in use (spec/07_coherence.md R200 to R211, 06_domains.md R177, R425). -/

namespace Sys2Proof.Machine

open Sys2Proof

/-! ### What the accesses of cores leave -/

/-- The core of a block and its place in the scheduler. -/
def Block.place (bl : Block) : Nat × Residency × Nat × Bool := (bl.core, bl.res, bl.placed, bl.stopping)

/-- The part of the device that no access of a core, and nothing that follows from one in caches and homes, changes. -/
structure Fixed where
  vtime   : Word
  queues  : Table Queue
  grids   : Table Grid
  sent    : List (Nat × Nat)
  vectors : Table MsixEntry
  places  : Nat → Option (Nat × Residency × Nat × Bool)
  used    : Nat → Table (Nat × Nat)

/-- That part of a state. -/
def State.fixed (s : State) : Fixed :=
  { vtime := s.vtime, queues := s.queues, grids := s.grids, sent := s.host.msix, vectors := s.host.msixTab,
    places := fun b => (tget s.blocks b).map Block.place, used := fun c => (s.core c).used }

/-- The fixed part after a change of blocks that moves none. -/
theorem fixed_of_places {s t : State} (hrest : { t with blocks := s.blocks } = s) (hplace : ∀ b, (tget t.blocks b).map Block.place = (tget s.blocks b).map Block.place) :
    t.fixed = s.fixed := by
  have hparts : { t.fixed with places := s.fixed.places } = s.fixed := congrArg State.fixed hrest
  have hplaces : t.fixed.places = s.fixed.places := funext hplace
  rw [← hparts, ← hplaces]

/-- The fixed part after a change of a core that leaves its group slots. -/
theorem fixed_mapCore (s : State) (c : Nat) {f : Core → Core} (hused : (f (s.core c)).used = (s.core c).used) : (s.mapCore c f).fixed = s.fixed := by
  have hslots : (s.mapCore c f).fixed.used = s.fixed.used := by
    funext d
    by_cases hd : d = c
    · subst hd; exact (congrArg Core.used (State.core_mapCore s d f)).trans hused
    · exact congrArg Core.used (State.core_mapCore_ne s f hd)
  change { s.fixed with used := (s.mapCore c f).fixed.used } = s.fixed
  rw [hslots]

/-- The fixed part after a change of a core's records that leaves its group slots, in every core. -/
theorem fixed_tmap_cores (s : State) {f : Core → Core} (hused : ∀ c, (f c).used = c.used) :
    { s with cores := tmap f s.cores }.fixed = s.fixed := by
  have hslots : { s with cores := tmap f s.cores }.fixed.used = s.fixed.used := by
    funext d
    simp only [State.fixed, State.core, tget_tmap]
    cases tget s.cores d <;> simp [hused]
  change { s.fixed with used := { s with cores := tmap f s.cores }.fixed.used } = s.fixed
  rw [hslots]

theorem fixed_mapBlock (s : State) (b : Nat) {f : Block → Block} (hplace : ∀ x, (f x).place = x.place) : (s.mapBlock b f).fixed = s.fixed :=
  fixed_of_places (by unfold State.mapBlock; split <;> rfl) fun k => map_blocks_mapBlock s b k hplace

@[simp] theorem fixed_mapGroup (s : State) (b g : Nat) (f : Group → Group) : (s.mapGroup b g f).fixed = s.fixed :=
  fixed_of_places (device_mapGroup s b g f) fun k => map_blocks_mapGroup s b k (fun _ _ => rfl) g f

@[simp] theorem fixed_mapRegs (s : State) (ag : AgentRef) (f : Regs → Regs) : (s.mapRegs ag f).fixed = s.fixed := fixed_mapGroup ..

/-- Steps that each leave the fixed part leave it together. -/
theorem fixed_foldl {α : Type} {f : State → α → State} (hf : ∀ s x, (f s x).fixed = s.fixed) (l : List α) (s : State) : (l.foldl f s).fixed = s.fixed :=
  foldl_keeps l s fun t x _ => hf t x

/-! ### Caches, memory and records -/

@[simp] theorem fixed_setCache (s : State) (c : CacheRef) (t : Table CSector) : (setCache s c t).fixed = s.fixed := by
  cases c with
  | l1 n => exact fixed_mapCore s n rfl
  | cc n => rfl

@[simp] theorem fixed_cachePut (s : State) (c : CacheRef) (x : CSector) : (cachePut s c x).fixed = s.fixed := fixed_setCache ..
@[simp] theorem fixed_cacheDrop (s : State) (c : CacheRef) (secs : List Nat) : (cacheDrop s c secs).fixed = s.fixed := fixed_setCache ..
@[simp] theorem fixed_trkDrop (s : State) (c : CacheRef) (secs : List Nat) : (trkDrop s c secs).fixed = s.fixed := fixed_setCache ..
@[simp] theorem fixed_dirPut (s : State) (h : HomeRef) (d : DirEntry) : (dirPut s h d).fixed = s.fixed := rfl
@[simp] theorem fixed_sendMsg (s : State) (m : Msg) : (sendMsg s m).fixed = s.fixed := rfl

@[simp] theorem fixed_clearResv (s : State) (sec : Nat) (keep : Option AgentRef) : (clearResv s sec keep).fixed = s.fixed :=
  fixed_of_places rfl fun b => by
    refine (congrArg _ (tget_map_key (fun k x => { x with groups := x.groups.map fun q => (q.1, { q.2 with resv := q.2.resv.filter fun r => r.sec != sec || r.keptBy k q.1 keep }) })
      s.blocks b)).trans ?_
    cases tget s.blocks b <;> rfl

@[simp] theorem fixed_trkMap (s : State) (c : CacheRef) (sec : Nat) (f : CSector → CSector) : (trkMap s c sec f).fixed = s.fixed := by
  unfold trkMap
  split
  · split
    · exact fixed_setCache ..
    · rfl
  · rfl

@[simp] theorem fixed_homeWrite (s : State) (w : SecWrite) (t : Nat) : (homeWrite s w t).fixed = s.fixed := by
  unfold homeWrite
  split <;> rfl

@[simp] theorem fixed_clearPoison (s : State) (w : SecWrite) : (clearPoison s w).fixed = s.fixed := by
  unfold clearPoison
  split <;> rfl

@[simp] theorem fixed_noteSent (s : State) (h : HomeRef) (r : HeldReq) : (noteSent s h r).fixed = s.fixed := by
  unfold noteSent
  exact (apply_ite State.fixed _ _ _).trans (ite_self _)

@[simp] theorem fixed_sendReq (s : State) (h : HomeRef) (r : HeldReq) : (sendReq s h r).fixed = s.fixed := fixed_noteSent ..

@[simp] theorem fixed_ccWrite (n : Nat) (s : State) (w : SecWrite) : (ccWrite n s w).fixed = s.fixed := by
  unfold ccWrite
  simp only
  split
  · split <;> simp
  · simp

@[simp] theorem fixed_homeWriter (h : HomeRef) (s : State) (w : SecWrite) : (homeWriter h s w).fixed = s.fixed := by
  cases h <;> simp [homeWriter]

@[simp] theorem fixed_logEntry (s : State) (slot st ev ctx pa : Nat) : (logEntry s slot st ev ctx pa).fixed = s.fixed := by
  have hlog : ∀ kind, (s.logEvent kind slot st ev ctx pa).fixed = s.fixed := fun kind => by
    simp only [State.logEvent]
    split <;> rfl
  unfold logEntry
  split
  · exact hlog 2
  · exact hlog 1

/-! ### Copies taken back (R193, R197) -/

@[simp] theorem fixed_mergeUp (s : State) (n : Nat) (x : CSector) : (mergeUp s n x).fixed = s.fixed := by
  unfold mergeUp
  split <;> simp

@[simp] theorem fixed_ccRecall (s : State) (n : Nat) (piece : List Nat) : (ccRecall s n piece).fixed = s.fixed := by
  unfold ccRecall
  simp only
  split
  any_goals rw [fixed_dirPut]
  all_goals
    refine (fixed_foldl (fun s core => fixed_foldl (fun s sec => ?_) piece s) _ _).trans rfl
    split
    · split
      · split <;> simp
      · rfl
    · rfl

@[simp] theorem fixed_flushNet (s : State) (piece : List Nat) : (flushNet s piece).fixed = s.fixed :=
  fixed_foldl (fun _ _ => fixed_homeWrite ..) _ s

@[simp] theorem fixed_purgePiece (s : State) (piece : List Nat) : (purgePiece s piece).fixed = s.fixed := by
  unfold purgePiece
  simp only
  split
  all_goals
    simp only [fixed_dirPut, fixed_flushNet]
    refine (fixed_foldl (fun s n => fixed_foldl (fun s sec => ?_) piece s) _ _).trans (fixed_foldl (fun s n => fixed_ccRecall ..) _ _)
    split
    · split
      · split <;> simp
      · rfl
    · rfl

@[simp] theorem fixed_devict (s : State) (d : DirEntry) : (devict s d).fixed = s.fixed := by
  unfold devict
  split <;> simp

/-! ### The engine (R200, R203) -/

section

variable {wr : State → SecWrite → State} (hwr : ∀ s w, (wr s w).fixed = s.fixed)
include hwr

theorem fixed_engineFinish (s : State) (h : HomeRef) (old d : DirEntry) (r : HeldReq) (e : PEntry) (n : Nat) :
    (engineFinish wr s h old d r e n).fixed = s.fixed := by
  have hwrite : (if e.wr then r.ws.foldl wr s else s).fixed = s.fixed := by
    split
    · exact fixed_foldl hwr _ _
    · rfl
  unfold engineFinish
  simp only [fixed_dirPut]
  split
  any_goals rw [fixed_sendMsg]
  all_goals split
  any_goals rw [fixed_sendMsg]
  all_goals split
  all_goals simp only [hwr, hwrite]

theorem fixed_engineRun (s : State) (h : HomeRef) (d : DirEntry) (r : HeldReq) : (engineRun wr s h d r).fixed = s.fixed := by
  have hsent : ∀ (l : List Nat) (m : Nat → Msg) (s : State), (l.foldl (fun s x => sendMsg s (m x)) s).fixed = s.fixed :=
    fun l m s => fixed_foldl (fun _ _ => fixed_sendMsg ..) l s
  unfold engineRun
  simp only
  split
  all_goals simp only [apply_ite State.fixed, fixed_engineFinish hwr, fixed_dirPut, hsent, fixed_logEntry, ite_self]

theorem fixed_engineRuns (h : HomeRef) (slot : Nat) (piece : List Nat) (rs : List HeldReq) (s : State) : (engineRuns wr h slot piece s rs).fixed = s.fixed := by
  induction rs generalizing s with
  | nil => rfl
  | cons r rest ih =>
    unfold engineRuns
    simp only
    split
    · rfl
    · rw [ih, fixed_engineRun hwr]

theorem fixed_engineApply (s : State) (h : HomeRef) (slot : Nat) (piece : List Nat) (r : HeldReq) : (engineApply wr s h slot piece r).fixed = s.fixed := by
  unfold engineApply
  simp only
  split
  · exact fixed_engineRuns hwr ..
  · rfl

theorem fixed_engineResume (s : State) (h : HomeRef) (d : DirEntry) : (engineResume wr s h d).fixed = s.fixed := fixed_engineRuns hwr ..

end

/-! ### Requests and messages (R202, R203, R208) -/

@[simp] theorem fixed_l2Request (s : State) (r : HeldReq) : (l2Request s r).fixed = s.fixed := by
  unfold l2Request
  simp only
  split
  · rfl
  · rw [fixed_engineApply (fun _ _ => fixed_homeWrite ..)]
    split
    · rw [fixed_devict, fixed_foldl fixed_devict]
    · exact fixed_foldl fixed_devict _ _

@[simp] theorem fixed_homeRequest (s : State) (h : HomeRef) (r : HeldReq) : (homeRequest s h r).fixed = s.fixed := by
  cases h with
  | l2 => exact fixed_l2Request ..
  | cc n => exact (fixed_engineApply (fun _ _ => fixed_ccWrite ..) ..).trans (fixed_foldl (fun _ _ => fixed_ccRecall ..) _ _)

@[simp] theorem fixed_arriveReq (s : State) (i : Nat) : (arriveReq s i).fixed = s.fixed := by
  unfold arriveReq
  split
  · rfl
  · split
    · exact fixed_homeRequest ..
    · rfl

@[simp] theorem fixed_fillCache (s : State) (c : CacheRef) (m : Msg) (p : Permission) : (fillCache s c m p).fixed = s.fixed := by
  refine fixed_foldl (fun s e => ?_) _ _
  simp only
  split
  · split <;> simp
  · simp

@[simp] theorem fixed_yieldPiece (s : State) (m : Msg) : (yieldPiece s m).1.fixed = s.fixed := by
  unfold yieldPiece
  simp only
  split <;> simp

@[simp] theorem fixed_sinkDirty (s : State) (m : Msg) : (sinkDirty s m).fixed = s.fixed := by
  refine fixed_foldl (fun s e => ?_) _ _
  split <;> simp

@[simp] theorem fixed_pumpSet (s : State) : (pumpSet s).fixed = s.fixed := fixed_foldl fixed_l2Request _ _

@[simp] theorem fixed_homeData (s : State) (m : Msg) : (homeData s m).fixed = s.fixed := by
  unfold homeData
  simp only
  split
  · rw [fixed_pumpSet, fixed_engineResume (fixed_homeWriter _), fixed_sinkDirty]
  · exact fixed_sinkDirty ..

@[simp] theorem fixed_fanAck (s : State) (m : Msg) : (fanAck s m).fixed = s.fixed := by
  unfold fanAck
  simp only
  split
  · rw [fixed_dirPut, fixed_sinkDirty]
  · split
    · rw [fixed_pumpSet, fixed_dirPut, fixed_sinkDirty]
    · rw [fixed_pumpSet, fixed_engineResume (fixed_homeWriter _), fixed_engineFinish (fixed_homeWriter _), fixed_sinkDirty]

@[simp] theorem fixed_closeOutst (s : State) : (closeOutst s).fixed = s.fixed := by
  refine fixed_foldl (fun s o => ?_) _ s
  split <;> rfl

@[simp] theorem fixed_respond (s : State) (m : Msg) : (respond s m).fixed = s.fixed := fixed_closeOutst _
@[simp] theorem fixed_countAck (s : State) (m : Msg) : (countAck s m).fixed = s.fixed := fixed_closeOutst _

@[simp] theorem fixed_freeBack (s : State) (m : Msg) : (freeBack s m).fixed = s.fixed := by
  unfold freeBack
  split
  · rfl
  · simp

/-- An update of the tracked copies of a cache's sectors. -/
theorem fixed_foldl_trkMap {α : Type} (l : List α) (c : CacheRef) (sec : α → Nat) (f : α → CSector → CSector) (s : State) :
    (l.foldl (fun s x => trkMap s c (sec x) (f x)) s).fixed = s.fixed := fixed_foldl (fun _ _ => fixed_trkMap ..) _ _

@[simp] theorem fixed_deliver (s : State) (m : Msg) : (deliver s m).fixed = s.fixed := by
  have hput : ∀ (s : State) (c : CacheRef), (putUpdate m s c).fixed = s.fixed := fun s c => fixed_foldl (fun s e => by split <;> simp) _ _
  cases hk : m.kind with
  | dataS | dataSW | dataE =>
    simp only [deliver, hk]
    split <;> simp
  | ack =>
    simp only [deliver, hk]
    split
    · rw [fixed_respond, fixed_foldl_trkMap]
    · simp
  | wtack | atomr => rw [deliver_answer (by simp [hk]), fixed_respond]
  | inv => rw [deliver_inv hk, fixed_sendMsg, fixed_trkDrop, fixed_yieldPiece]
  | fwdGetx => rw [deliver_fwdGetx hk, fixed_sendMsg, fixed_trkDrop, fixed_yieldPiece]
  | fwdGets =>
    simp only [deliver, hk, fixed_sendMsg]
    rw [fixed_foldl_trkMap, fixed_yieldPiece]
  | invAck =>
    simp only [deliver, hk]
    split <;> simp
  | update =>
    rw [deliver_update s hk, fixed_sendMsg]
    unfold putAll
    split
    · exact (fixed_foldl (fun s core => hput s (.l1 core)) _ _).trans (hput s _)
    · exact hput s _

@[simp] theorem fixed_settle (s : State) (n : Nat) : (settle s n).fixed = s.fixed := by
  induction n generalizing s with
  | zero => rfl
  | succ n ih =>
    unfold settle
    split
    · rw [ih, fixed_arriveReq]
    · split
      · rfl
      · rw [ih, fixed_deliver]; rfl

@[simp] theorem fixed_settled (s : State) : (settled s).fixed = s.fixed := by
  unfold settled
  split <;> simp

/-! ### Writes of the device (R201, R346, R371) -/

@[simp] theorem fixed_devWriteSec (s : State) (w : SecWrite) : (devWriteSec s w).fixed = s.fixed := by
  simp only [devWriteSec, fixed_clearResv]
  split <;> simp

@[simp] theorem fixed_physPut (s : State) (pa : Nat) (bs : List Byte) : (physPut s pa bs).fixed = s.fixed := fixed_foldl (fun _ _ => fixed_devWriteSec ..) _ _

@[simp] theorem fixed_physPutFor (s : State) (ctx pa : Nat) (bs : List Byte) : (physPutFor s ctx pa bs).fixed = s.fixed := by
  unfold physPutFor
  split <;> simp

@[simp] theorem fixed_markPte (s : State) (p : Page) (write : Bool) : (markPte s p write).fixed = s.fixed := by
  unfold markPte
  exact (apply_ite State.fixed _ _ _).trans (by rw [physPutWord, fixed_physPut, ite_self])

theorem fixed_ctxPut {s t : State} {ctx : Nat} {va : Word} {bs : List Byte} (hput : ctxPut s ctx va bs = some t) : t.fixed = s.fixed := by
  obtain ⟨spans, -, rfl⟩ := Option.map_eq_some_iff.1 hput
  exact fixed_foldl (fun s sp => by rw [fixed_physPut, fixed_markPte]) _ s

end Sys2Proof.Machine
end

section
/-! PROOF. The head packet of a queue: its checks, its rejection and its launch (spec/10_scheduling.md R276 to R279, R281, R283). -/

namespace Sys2Proof.Machine

open Sys2Proof Sys2Proof.Claims

/-! ### The head moves on (R281, R283) -/

section

variable (s : State) (qn err : Nat)

/-- The queue whose head has moved on. -/
theorem queue_headOn : tget (headOn s qn err).queues qn = some { queueOf s qn with head := ((queueOf s qn).head + 1) % 2 ^ 48, err := err } := by
  have hqueues : (headOn s qn err).queues = tset s.queues qn { queueOf s qn with head := ((queueOf s qn).head + 1) % 2 ^ 48, err := err } :=
    (apply_ite State.queues _ _ _).trans (ite_self _)
  rw [hqueues, tget_tset_same]

/-- Beside the queues and the map of slots nothing changes. -/
theorem headOn_rest : { headOn s qn err with queues := s.queues, sched := s.sched } = s := by
  simp only [headOn]
  split <;> rfl

theorem headOn_mem : (headOn s qn err).mem = s.mem := (congrArg State.mem (headOn_rest s qn err) :)
theorem headOn_grids : (headOn s qn err).grids = s.grids := (congrArg State.grids (headOn_rest s qn err) :)
theorem headOn_blocks : (headOn s qn err).blocks = s.blocks := (congrArg State.blocks (headOn_rest s qn err) :)
theorem headOn_host : (headOn s qn err).host = s.host := (congrArg State.host (headOn_rest s qn err) :)
theorem headOn_vtime : (headOn s qn err).vtime = s.vtime := (congrArg State.vtime (headOn_rest s qn err) :)

end

/-! ### The completion record (R278, R285) -/

section

variable {s : State} {ctx qn : Nat} {done : Word} {status : Nat}

theorem writeDone_none (hdone : done = 0) : writeDone s ctx qn done status = s := if_pos hdone

/-- A record that is written: its bytes, and notes of the write. -/
theorem writeDone_some {s2 : State} (hdone : done ≠ 0) (hput : ctxPutWord s ctx done (BitVec.ofNat 64 (s.now % 2 ^ 56 * 256 + status)) = some s2) :
    (writeDone s ctx qn done status).mem = s2.mem ∧ (writeDone s ctx qn done status).fixed = s.fixed := by
  rw [writeDone, if_neg hdone, hput]
  exact ⟨foldl_keeps (g := State.mem) _ s2 fun _ _ _ => rfl, (foldl_keeps (f := fun s (sp : Span) => noteWrite s 265 sp.pa sp.len) (g := State.fixed) _ s2 fun _ _ _ => rfl).trans (fixed_ctxPut hput)⟩

/-- A record that cannot be written shows in the queue's ERR only. -/
theorem writeDone_unwritable {q : Queue} (hdone : done ≠ 0) (hput : ctxPutWord s ctx done (BitVec.ofNat 64 (s.now % 2 ^ 56 * 256 + status)) = none)
    (hq : tget s.queues qn = some q) : writeDone s ctx qn done status = { s with queues := tset s.queues qn { q with err := 1 } } := by
  rw [writeDone, if_neg hdone, hput, hq]

/-- Whatever becomes of the record, HEAD, the grids and the messages sent to the host stay. -/
theorem writeDone_keeps {q : Queue} (hq : tget s.queues qn = some q) :
    (tget (writeDone s ctx qn done status).queues qn).map Queue.head = some q.head ∧ (writeDone s ctx qn done status).grids = s.grids ∧
      (writeDone s ctx qn done status).host.msix = s.host.msix ∧ (writeDone s ctx qn done status).host.msixTab = s.host.msixTab := by
  by_cases hdone : done = 0
  · rw [writeDone_none hdone, hq]
    exact ⟨rfl, rfl, rfl, rfl⟩
  · cases hput : ctxPutWord s ctx done (BitVec.ofNat 64 (s.now % 2 ^ 56 * 256 + status)) with
    | some s2 =>
      have hfixed := (writeDone_some (qn := qn) hdone hput).2
      refine ⟨?queue, congrArg Fixed.grids hfixed, congrArg Fixed.sent hfixed, congrArg Fixed.vectors hfixed⟩
      rw [show (writeDone s ctx qn done status).queues = s.queues from congrArg Fixed.queues hfixed, hq]
      rfl
    | none =>
      rw [writeDone_unwritable hdone hput hq]
      exact ⟨by rw [tget_tset_same]; rfl, rfl, rfl, rfl⟩

end

/-! ### Vectors (R352, R418) -/

section

variable (s : State) (tenant : Option Nat) (vector : Nat)

/-- Sending a vector changes what the host link holds only. -/
theorem sendMsix_rest : { sendMsix s tenant vector with host := s.host } = s := by
  simp only [sendMsix]
  split <;> rfl

theorem sendMsix_unmasked (hopen : s.host.masked (tenant.getD 16, vector) = false) :
    (sendMsix s tenant vector).host.msix = s.host.msix ++ [(tenant.getD 16, vector)] := by
  simp [sendMsix, hopen]

theorem sendMsix_masked (hmasked : s.host.masked (tenant.getD 16, vector) = true) : (tenant.getD 16, vector) ∈ (sendMsix s tenant vector).host.msixPend := by
  simp only [sendMsix, hmasked, if_true]
  split
  · next hin => exact List.contains_iff_mem.1 hin
  · simp

end

/-! ### Rejection (R279) -/

/-- The grid of a packet that is rejected: it counts as triggered and completed. -/
def rejectedGrid (s : State) (qn status : Nat) : Grid :=
  { Grid.fresh qn (queueOf s qn).head (queueOf s qn).ctx Packet.blank with done := true, trigged := true, status := status, since := s.now }

/-- The device when a rejected packet has left its queue, before its completion record. -/
def rejectedHead (s : State) (qn status : Nat) : State :=
  headOn { s with grids := tset s.grids (handleOf qn (queueOf s qn).head) (rejectedGrid s qn status) } qn status

/-- The same after the record, where the packet has an aligned address for it. -/
def rejectedDone (s : State) (qn status : Nat) (done : Word) : State :=
  if done.toNat % 8 = 0 then writeDone (rejectedHead s qn status) (queueOf s qn).ctx qn done status else rejectedHead s qn status

section

variable (s : State) (qn status : Nat) (done : Word)

theorem rejectHead_eq : rejectHead s qn status done = sendMsix (rejectedDone s qn status done) (tenantIdx s (queueOf s qn).ctx) 3 := rfl

theorem rejectHead_mem : (rejectHead s qn status done).mem = (rejectedDone s qn status done).mem := (congrArg State.mem (sendMsix_rest ..) :)
theorem rejectHead_queues : (rejectHead s qn status done).queues = (rejectedDone s qn status done).queues := (congrArg State.queues (sendMsix_rest ..) :)
theorem rejectHead_grids : (rejectHead s qn status done).grids = (rejectedDone s qn status done).grids := (congrArg State.grids (sendMsix_rest ..) :)

theorem queue_rejectedHead : tget (rejectedHead s qn status).queues qn =
    some { queueOf s qn with head := ((queueOf s qn).head + 1) % 2 ^ 48, err := status } := queue_headOn ..

theorem rejectedHead_grid : tget (rejectedHead s qn status).grids (handleOf qn (queueOf s qn).head) = some (rejectedGrid s qn status) := by
  rw [rejectedHead, headOn_grids]
  exact tget_tset_same ..

/-- HEAD, the packet's grid and the messages sent, whatever becomes of the record. -/
theorem rejectedDone_keeps :
    (tget (rejectedDone s qn status done).queues qn).map Queue.head = some (((queueOf s qn).head + 1) % 2 ^ 48) ∧
      tget (rejectedDone s qn status done).grids (handleOf qn (queueOf s qn).head) = some (rejectedGrid s qn status) ∧
      (rejectedDone s qn status done).host.msix = s.host.msix ∧ (rejectedDone s qn status done).host.msixTab = s.host.msixTab := by
  have hhost : (rejectedHead s qn status).host = s.host := headOn_host ..
  have hgrid := rejectedHead_grid s qn status
  have hqueue := queue_rejectedHead s qn status
  unfold rejectedDone
  split
  · obtain ⟨hhead, hgrids, hsent, htab⟩ := writeDone_keeps (ctx := (queueOf s qn).ctx) (done := done) (status := status) hqueue
    exact ⟨hhead, by rw [hgrids, hgrid], by rw [hsent, hhost], by rw [htab, hhost]⟩
  · exact ⟨by rw [hqueue]; rfl, hgrid, by rw [hhost], by rw [hhost]⟩

/-- Without a record to write, ERR has the status and memory stays. -/
theorem rejectedDone_unrecorded (hno : done = 0 ∨ done.toNat % 8 ≠ 0) : rejectedDone s qn status done = rejectedHead s qn status := by
  unfold rejectedDone
  split
  · next hal => exact writeDone_none (hno.resolve_right (not_not.2 hal))
  · rfl

/-- With a record that is written, memory is as the write leaves it. -/
theorem rejectedDone_recorded {s2 : State} (hdone : done ≠ 0) (hal : done.toNat % 8 = 0)
    (hput : ctxPutWord (rejectedHead s qn status) (queueOf s qn).ctx done (BitVec.ofNat 64 (s.now % 2 ^ 56 * 256 + status)) = some s2) :
    (rejectedDone s qn status done).queues = (rejectedHead s qn status).queues ∧ (rejectedDone s qn status done).mem = s2.mem := by
  have hnow : (rejectedHead s qn status).now = s.now := congrArg BitVec.toNat (headOn_vtime ..)
  rw [← hnow] at hput
  obtain ⟨hmem, hfixed⟩ := writeDone_some (qn := qn) hdone hput
  rw [rejectedDone, if_pos hal]
  exact ⟨congrArg Fixed.queues hfixed, hmem⟩

/-- Vector 3 of the tenant is sent, or waits where it is masked. -/
theorem rejectHead_vector : let m := ((tenantIdx s (queueOf s qn).ctx).getD 16, 3)
    (s.host.masked m = false → (rejectHead s qn status done).host.msix = s.host.msix ++ [m]) ∧
      (s.host.masked m = true → m ∈ (rejectHead s qn status done).host.msixPend) := by
  intro m
  obtain ⟨-, -, hsent, htab⟩ := rejectedDone_keeps s qn status done
  have hmask : (rejectedDone s qn status done).host.masked m = s.host.masked m := by unfold HostLink.masked HostLink.entry; rw [htab]
  rw [rejectHead_eq, ← hmask, ← hsent]
  exact ⟨sendMsix_unmasked _ _ 3, sendMsix_masked _ _ 3⟩

end

/-! ### GRID_LAUNCH (R279, R283) -/

section

variable {s : State} {slot qn : Nat}

theorem exec_gridLaunch_unmapped (hq : slotQueue s slot = none) : exec (.gridLaunch slot) s = .next s := by
  change happen s (gridLaunchEvent slot s) = _
  rw [gridLaunchEvent, hq, happen_none]

section

variable (hq : slotQueue s slot = some qn)
include hq

theorem exec_gridLaunch_waits (hact : headAct s qn = .wait) : exec (.gridLaunch slot) s = .next s := by
  change happen s (gridLaunchEvent slot s) = _
  simp only [gridLaunchEvent, hq, hact, happen_none]

theorem exec_gridLaunch_rejects {st : Nat} {done : Word} (hact : headAct s qn = .reject st done) : exec (.gridLaunch slot) s = .next (rejectHead s qn st done) := by
  change happen s (gridLaunchEvent slot s) = _
  simp only [gridLaunchEvent, hq, hact, happen_some]

theorem exec_gridLaunch_launches {p : Packet} (hact : headAct s qn = .launch p) : exec (.gridLaunch slot) s = .next (launchHead s qn p) := by
  change happen s (gridLaunchEvent slot s) = _
  simp only [gridLaunchEvent, hq, hact, happen_some]

end

/-- The grid of a packet that is launched. -/
theorem launchHead_grid (s : State) (qn : Nat) (p : Packet) :
    tget (launchHead s qn p).grids (handleOf qn (queueOf s qn).head) = some { Grid.fresh qn (queueOf s qn).head (queueOf s qn).ctx p with since := s.now } := by
  rw [launchHead, headOn_grids]
  exact tget_tset_same ..

end

/-! ### The act for a head packet (R279, R283) -/

section

variable {s : State} {qn : Nat} {x : Word} {bs : List Byte} {p : Packet}

theorem headAct_of_packet (hwaits : headWaits s (queueOf s qn) = false) (hp : headPacket s (queueOf s qn) = some (x, bs, p)) :
    headAct s qn = if packetStatus s (queueOf s qn).ctx x bs p ≠ 0 then .reject (packetStatus s (queueOf s qn).ctx x bs p) p.done
      else if prevMet s qn (queueOf s qn).head && p.depsOn.all (depMet s) && decide (liveGrids s < Config.gridTable) then .launch p else .wait := by
  simp [headAct, hwaits, hp]

theorem trigged_of_prevMet {seq : Nat} (hprev : prevMet s qn seq = true) (hseq : seq ≠ 0) {y : Grid} (hy : tget s.grids (handleOf qn (seq - 1)) = some y) :
    y.trigged = true := by
  simpa [prevMet, hseq, hy] using hprev

/-- What a launch shows of the packet and of the device. -/
theorem launch_conditions (hwaits : headWaits s (queueOf s qn) = false) (hp : headPacket s (queueOf s qn) = some (x, bs, p)) (hact : headAct s qn = .launch p) :
    packetStatus s (queueOf s qn).ctx x bs p = 0 ∧ prevMet s qn (queueOf s qn).head = true ∧ p.depsOn.all (depMet s) = true ∧ liveGrids s < Config.gridTable := by
  rw [headAct_of_packet hwaits hp] at hact
  by_cases hst : packetStatus s (queueOf s qn).ctx x bs p = 0
  · rw [if_neg (not_not.2 hst)] at hact
    split at hact
    · next hmet => simpa [hst, and_assoc] using hmet
    · cases hact
  · rw [if_pos hst] at hact
    cases hact

end

/-! ### The checks of a packet (R276 to R279) -/

section

variable (s : State) (ctx : Nat) (x : Word) (bs : List Byte) (p : Packet)

theorem packetStatus_misaligned (hbad : x.toNat % 64 ≠ 0 ∨ p.entry.toNat % 8 ≠ 0) : packetStatus s ctx x bs p = 1 := if_pos (by simpa using Or.inl hbad)

theorem packetStatus_le : packetStatus s ctx x bs p ≤ 6 := by
  unfold packetStatus
  repeat' split
  all_goals omega

/-- A packet that passes every check has no field out of range, and its blocks fill its clusters. -/
theorem fields_of_packetStatus (hpass : packetStatus s ctx x bs p = 0) : packetBad bs p = false ∧ p.blocks % p.cluster = 0 := by
  unfold packetStatus at hpass
  repeat' split at hpass
  all_goals simp_all

theorem ranges_of_packetBad (hok : packetBad bs p = false) :
    1 ≤ p.gx ∧ 1 ≤ p.gy ∧ 1 ≤ p.gz ∧ 16 ≤ p.regs ∧ p.regs ≤ 256 ∧ p.regs % 8 = 0 ∧ p.kregs ≤ 32 ∧ 1 ≤ p.groups ∧ p.groups ≤ 16 ∧ p.producer < p.groups ∧
      p.prio ≤ 7 ∧ p.ejt ≤ 8 ∧ 1 ≤ p.cluster := by
  simp only [packetBad, Bool.or_eq_false_iff, decide_eq_false_iff_not, beq_eq_false_iff_ne, bne_eq_false_iff_eq] at hok
  omega

end

/-- Settles O42, from what a rejection leaves whatever becomes of its record, what a launch leaves, and the checks of a packet. -/
theorem gridsLaunch : Obligations.GridsLaunch := by
  refine ⟨fun s slot qn hq => ⟨exec_gridLaunch_waits hq, ?rejects, ?launches⟩, fun s slot => exec_gridLaunch_unmapped, ?acts, ?checks⟩
  case rejects =>
    intro st done hact
    obtain ⟨hhead, hgrid, -, -⟩ := rejectedDone_keeps s qn st done
    obtain ⟨q1, hq1, hmoved⟩ := Option.map_eq_some_iff.1 hhead
    refine ⟨_, q1, rejectedGrid s qn st, exec_gridLaunch_rejects hq hact, by rw [rejectHead_queues, hq1], hmoved, by rw [rejectHead_grids, hgrid], rfl, rfl, rfl,
      ⟨fun hno => ?unrecorded, fun s2 hdone hal hput => ?recorded⟩, rejectHead_vector s qn st done⟩
    case unrecorded =>
      rw [rejectedDone_unrecorded s qn st done hno, queue_rejectedHead] at hq1
      rw [rejectHead_mem, rejectedDone_unrecorded s qn st done hno, ← Option.some.inj hq1]
      exact ⟨rfl, headOn_mem ..⟩
    case recorded =>
      obtain ⟨hqueues, hmem⟩ := rejectedDone_recorded s qn st done hdone hal hput
      rw [hqueues, queue_rejectedHead] at hq1
      rw [rejectHead_mem, hmem, ← Option.some.inj hq1]
      exact ⟨rfl, rfl⟩
  case launches =>
    intro p hact
    exact ⟨_, _, exec_gridLaunch_launches hq hact, launchHead_grid s qn p, rfl, rfl, rfl, rfl, rfl, headOn_mem .., headOn_blocks .., congrArg (Option.map Queue.head) (queue_headOn ..)⟩
  case acts =>
    intro s qn x bs p hwaits hp
    have hact := headAct_of_packet hwaits hp
    refine ⟨fun hst => hact.trans (if_pos hst), fun hst => ?passed, fun hlaunch => ?launched⟩
    case passed =>
      rw [hact, if_neg (not_not.2 hst)]
      split
      · exact Or.inl rfl
      · exact Or.inr rfl
    case launched =>
      obtain ⟨hst, hprev, hdeps, hroom⟩ := launch_conditions hwaits hp hlaunch
      exact ⟨hst, fun hseq y => trigged_of_prevMet hprev hseq, fun d hd hon => List.all_eq_true.1 hdeps d (List.mem_filter.2 ⟨hd, hon⟩), hroom⟩
  case checks =>
    intro s ctx x bs p
    refine ⟨packetStatus_misaligned s ctx x bs p, packetStatus_le s ctx x bs p, fun hpass => ?_⟩
    obtain ⟨hok, hblocks⟩ := fields_of_packetStatus s ctx x bs p hpass
    have hranges := ranges_of_packetBad bs p hok
    tauto

end Sys2Proof.Machine
end

section
/-! PROOF. What the accesses of cores leave of the device: loads, stores and their acknowledgement change no queue or grid, move no block and take no group slot
(spec/06_domains.md R159 to R191, R425; 07_coherence.md R192, R193). -/

namespace Sys2Proof.Machine

open Sys2Proof

/-! ### Write-backs of SIV copies (R177, R425) -/

@[simp] theorem fixed_ntWrite (s : State) (child : Nat) (tag : ObjTag) (w : SecWrite) (t : Nat) : (ntWrite s child tag w t).fixed = s.fixed := by
  simp only [ntWrite]
  split
  · exact fixed_homeWrite ..
  · exact (fixed_settled _).trans (fixed_sendReq ..)

@[simp] theorem fixed_sivRefresh (s : State) (c : CacheRef) (sec : Nat) (d : BitVec 256) (fetched stamp : Nat) : (sivRefresh s c sec d fetched stamp).fixed = s.fixed := by
  unfold sivRefresh
  split
  · split <;> simp
  · rfl

@[simp] theorem fixed_sivUp1 (core : Nat) (s : State) (x : CSector) : (sivUp1 core s x).fixed = s.fixed := by
  simp only [sivUp1]
  split
  · split <;> simp
  · simp

@[simp] theorem fixed_sivHome1 (n : Nat) (s : State) (x : CSector) : (sivHome1 n s x).fixed = s.fixed := by simp [sivHome1]

theorem fixed_withMates {one : State → CSector → State} (hone : ∀ s x, (one s x).fixed = s.fixed) (c : CacheRef) (s : State) (sec : Nat) :
    (withMates c one s sec).fixed = s.fixed := by
  refine fixed_foldl (fun s k => ?_) _ s
  split
  · split
    · exact hone ..
    · rfl
  · rfl

@[simp] theorem fixed_sivUp (core : Nat) (s : State) (sec : Nat) : (sivUp core s sec).fixed = s.fixed := fixed_withMates (fixed_sivUp1 core) ..
@[simp] theorem fixed_sivHome (n : Nat) (s : State) (sec : Nat) : (sivHome n s sec).fixed = s.fixed := fixed_withMates (fixed_sivHome1 n) ..

@[simp] theorem fixed_sivLeave (s : State) (c : CacheRef) (sec : Nat) : (sivLeave s c sec).fixed = s.fixed := by
  unfold sivLeave
  split
  · split
    · cases c <;> simp
    · rfl
  · rfl

@[simp] theorem fixed_sivRelease (s : State) (core : Nat) (d : Dom) (sc : Scope) : (sivRelease s core d sc).fixed = s.fixed := by
  have hup : ∀ (l : List Nat) (s : State), (l.foldl (sivUp core) s).fixed = s.fixed := fixed_foldl (fixed_sivUp core)
  cases sc with
  | grp | blk => rfl
  | cls => exact hup ..
  | dev | sys => exact (fixed_foldl (fixed_sivHome _) _ _).trans (hup ..)

@[simp] theorem fixed_sivReleaseAll (s : State) (core : Nat) (sc : Scope) : (sivReleaseAll s core sc).fixed = s.fixed :=
  fixed_foldl (fun _ _ => fixed_sivRelease ..) _ s

/-! ### Tracked copies (R192, R193) -/

@[simp] theorem fixed_l2Ask (s : State) (ev n : Nat) (tag : ObjTag) (sec : Nat) (d : Dom) : (l2Ask s ev n tag sec d).fixed = s.fixed := by simp [l2Ask]

@[simp] theorem fixed_evictPiece (s : State) (h : HomeRef) (child : Nat) (tag : ObjTag) (piece : List Nat) : (evictPiece s h child tag piece).fixed = s.fixed := by
  have hrecalled : (recalledFor s h child piece).fixed = s.fixed := by cases h <;> simp [recalledFor]
  rw [evictPiece_eq]
  unfold giveUp
  split
  · exact hrecalled
  · exact (fixed_sendReq ..).trans ((fixed_cacheDrop ..).trans hrecalled)

/-- A cache asks for a sector when nothing of it is under way. -/
theorem fixed_settledIf (s : State) (c : Bool) : (if c then settled s else s).fixed = s.fixed := by cases c <;> simp

@[simp] theorem fixed_ccEnsure (s : State) (n : Nat) (tag : ObjTag) (sec : Nat) (d : Dom) (own : Bool) (hor : Nat) : (ccEnsure s n tag sec d own hor).fixed = s.fixed := by
  simp only [ccEnsure]
  split
  · split
    · simp [fixed_settledIf]
    · split
      · simp [fixed_settledIf]
      · split <;> simp [fixed_settledIf]
  · simp [fixed_settledIf]

@[simp] theorem fixed_ccAsk (s : State) (n : Nat) (r : HeldReq) (hor : Nat) : (ccAsk s n r hor).fixed = s.fixed := by
  simp only [ccAsk]
  split
  · simp
  · split
    · rw [fixed_sendReq]
      split <;> simp
    · simp

@[simp] theorem fixed_l1Request (s : State) (core : Nat) (tag : ObjTag) (sec : Nat) (d : Dom) (ev hor : Nat) (ws : List SecWrite) :
    (l1Request s core tag sec d ev hor ws).fixed = s.fixed := by simp [l1Request]

@[simp] theorem fixed_l1Evict (s : State) (core : Nat) (x : CSector) : (l1Evict s core x).fixed = s.fixed := by simp [l1Evict]
@[simp] theorem fixed_l1Clear (s : State) (core sec : Nat) : (l1Clear s core sec).fixed = s.fixed := by simp [l1Clear, fixed_settledIf]

@[simp] theorem fixed_trkFill (s : State) (core : Nat) (tag : ObjTag) (sec : Nat) (d : Dom) (hor : Nat) : (trkFill s core tag sec d hor).fixed = s.fixed := by
  simp only [trkFill]
  split
  · split <;> simp
  · simp

@[simp] theorem fixed_trkOwn (s : State) (core : Nat) (tag : ObjTag) (sec : Nat) (d : Dom) : (trkOwn s core tag sec d).fixed = s.fixed := by
  simp only [trkOwn]
  split
  · split <;> simp
  · simp

@[simp] theorem fixed_trkRead (s : State) (core : Nat) (tag : ObjTag) (sec : Nat) (d : Dom) (hor : Nat) : (trkRead s core tag sec d hor).1.fixed = s.fixed :=
  fixed_trkFill ..

@[simp] theorem fixed_trkPut (s : State) (core : Nat) (tag : ObjTag) (w : SecWrite) (t : Nat) : (trkPut s core tag w t).fixed = s.fixed := by
  have hstamped : { s with stamps := sset s.stamps w.sec (BitVec.ofNat 64 t) }.fixed = s.fixed := rfl
  simp only [trkPut]
  split
  · split <;> simp [hstamped]
  · simp [hstamped]

@[simp] theorem fixed_trkWrite (s : State) (core : Nat) (tag : ObjTag) (w : SecWrite) (t : Nat) : (trkWrite s core tag w t).fixed = s.fixed := by
  have hready : (if (throughCopy (l1Clear s core w.sec) core w.sec).isSome then l1Clear s core w.sec
      else trkOwn (l1Clear s core w.sec) core tag w.sec w.dom).fixed = s.fixed := by
    split <;> simp
  have hstamped : ∀ (s : State) st, { s with stamps := st }.fixed = s.fixed := fun _ _ => rfl
  simp only [trkWrite]
  split
  · refine (hstamped _ _).trans ?_
    rw [fixed_l1Request, fixed_cachePut, hready]
  · rw [fixed_trkPut, hready]

/-! ### SIV copies (R177, R179, R180) -/

@[simp] theorem fixed_sivFromCc (s : State) (n sec hor : Nat) : (sivFromCc s n sec hor).1.fixed = s.fixed := by
  simp only [sivFromCc]
  split
  · split
    · rfl
    · split
      · rfl
      · simp
  · simp

@[simp] theorem fixed_homeRead (s : State) (core sec : Nat) : (homeRead s core sec).1.fixed = s.fixed := by simp [homeRead]
@[simp] theorem fixed_clusterRead (s : State) (core sec hor : Nat) : (clusterRead s core sec hor).1.fixed = s.fixed := by simp [clusterRead]

@[simp] theorem fixed_sivRead (s : State) (core sec : Nat) (l : LoadAs) : (sivRead s core sec l).1.fixed = s.fixed := by
  simp only [sivRead]
  split
  · simp
  · split
    · simp
    · split
      · split
        · rfl
        · split
          · rfl
          · simp
      · simp

@[simp] theorem fixed_sivPut (s : State) (c : CacheRef) (w : SecWrite) (t : Nat) (ag : Option AgentRef) (keep alloc : Bool) :
    (sivPut s c w t ag keep alloc).fixed = s.fixed := by
  simp only [sivPut]
  split
  · split
    · simp
    · rfl
  · split
    · simp
    · rfl

@[simp] theorem fixed_sivWrite (s : State) (core : Nat) (w : SecWrite) (sc : Scope) (t : Nat) (ag : Option AgentRef) : (sivWrite s core w sc t ag).fixed = s.fixed := by
  simp only [sivWrite]
  split
  · rw [fixed_sivPut]
    split <;> simp
  · rw [fixed_sivPut]
    split <;> simp
  all_goals simp

@[simp] theorem fixed_tieUnit (s : State) (c : CacheRef) (a b : Nat) : (tieUnit s c a b).fixed = s.fixed := by
  unfold tieUnit
  split
  · split <;> simp
  · rfl

/-! ### Room in the caches (R17) -/

@[simp] theorem fixed_evictSector (s : State) (c : CacheRef) (sec : Nat) : (evictSector s c sec).fixed = s.fixed := by
  unfold evictSector
  split
  · rfl
  · split
    · simp
    · cases c <;> simp

@[simp] theorem fixed_evictLine (s : State) (c : CacheRef) (line : Nat) : (evictLine s c line).fixed = s.fixed := fixed_foldl (fun _ _ => fixed_evictSector ..) _ s

@[simp] theorem fixed_trim (s : State) (c : CacheRef) : (trim s c).fixed = s.fixed := by
  simp only [trim]
  split
  · rfl
  · exact fixed_foldl (fun _ _ => fixed_evictLine ..) _ s

@[simp] theorem fixed_trimCore (s : State) (core : Nat) : (trimCore s core).fixed = s.fixed := by simp [trimCore]

/-! ### One sector of any page mode (R192) -/

@[simp] theorem fixed_coreRead (s : State) (core sec : Nat) (k : PageKind) (l : LoadAs) : (coreRead s core sec k l).1.fixed = s.fixed := by
  unfold coreRead
  split <;> simp

@[simp] theorem fixed_coreWrite (s : State) (core : Nat) (w : SecWrite) (k : PageKind) (sc : Scope) (t : Nat) (ag : Option AgentRef) :
    (coreWrite s core w k sc t ag).fixed = s.fixed := by
  simp only [coreWrite]
  split
  · simp
  · split <;> simp
  · simp

/-! ### Loads (R163 to R165, R179) -/

@[simp] theorem fixed_raise (s : State) (core : Nat) (d : Dom) (t : Nat) : (s.raise core d t).fixed = s.fixed := fixed_mapCore s core rfl

@[simp] theorem fixed_dropAhead (s : State) (me : AgentRef) (secs : List Nat) : (dropAhead s me secs).fixed = s.fixed := by
  unfold dropAhead
  split
  · rfl
  · simp only
    split <;> simp

@[simp] theorem fixed_noteForward (s : State) (core : Nat) (l : LoadAs) (es : List StoreEntry) : (noteForward s core l es).fixed = s.fixed := by
  simp only [noteForward]
  split
  · rfl
  · exact fixed_mapCore s core rfl

@[simp] theorem fixed_loadSector (s : State) (core : Nat) (me : AgentRef) (mask : Mask) (lim sec : Nat) (k : PageKind) (l : LoadAs) :
    (loadSector s core me mask lim sec k l).1.fixed = s.fixed := by
  unfold loadSector
  split <;> simp

@[simp] theorem fixed_placeRead (s : State) (core sec : Nat) (k : PageKind) (l : LoadAs) : (placeRead s core sec k l).1.fixed = s.fixed := by
  unfold placeRead
  split <;> simp

@[simp] theorem fixed_unitRead (s : State) (core : Nat) (parts : List (Nat × PageKind)) (l : LoadAs) : (unitRead s core parts l).1.fixed = s.fixed := by
  unfold unitRead
  refine (foldl_keeps (g := fun a : State × List (BitVec 256 × Nat) => a.1.fixed) parts _ fun a p _ => fixed_placeRead a.1 core p.1 p.2 l).trans
    (fixed_foldl (fun s p => ?_) parts s)
  split <;> simp

@[simp] theorem fixed_bridge (s : State) (core : Nat) (me : AgentRef) (mask : Mask) (lane : Nat) (d1 d2 : Dom) (sc : Scope) :
    (bridge s core me mask lane d1 d2 sc).fixed = s.fixed := by
  simp only [bridge]
  split <;> simp

@[simp] theorem fixed_afterLoad (s : State) (core : Nat) (me : AgentRef) (mask : Mask) (l : LoadAs) (acq : Bool) (t : Nat) :
    (afterLoad s core me mask l acq t).fixed = s.fixed := by
  simp only [afterLoad]
  split <;> split <;> simp

@[simp] theorem fixed_lateGates (s : State) (core : Nat) (x : Late) (t : Nat) : (lateGates s core x t).fixed = s.fixed := by
  unfold lateGates
  split
  · rfl
  · exact fixed_foldl (fun _ _ => fixed_raise ..) _ s

@[simp] theorem fixed_performLate (s : State) (x : Late) : (performLate s x).fixed = s.fixed := by
  unfold performLate
  split
  · rfl
  · next bl _ =>
    have hback : ∀ l : List (Dom × Scope), (l.foldl (fun s y => sivRelease s bl.core y.1 y.2) { s with late := s.late.filter (fun y => y.id != x.id) }).fixed = s.fixed :=
      fun l => fixed_foldl (fun _ _ => fixed_sivRelease ..) l _
    extract_lets core l s1
    split
    next s2 ds hread =>
    have hparts : s2.fixed = s1.fixed := by
      rw [show s2 = (s2, ds).1 from rfl, ← hread]
      split
      · exact fixed_unitRead ..
      · exact foldl_keeps (g := fun a : State × List (BitVec 256 × Nat) => a.1.fixed) x.parts (s1, []) fun a p _ => fixed_loadSector ..
    simp only [fixed_mapGroup]
    exact (fixed_foldl (fun _ _ => fixed_afterLoad ..) _ _).trans ((fixed_lateGates ..).trans (hparts.trans (hback _)))

/-! ### Acknowledgement (R176 to R178) -/

@[simp] theorem fixed_freshen (s : State) (core sec : Nat) (sc : Scope) : (freshen s core sec sc).fixed = s.fixed := by
  cases sc <;> simp [freshen]

@[simp] theorem fixed_ackGates (s : State) (id t : Nat) : (ackGates s id t).fixed = s.fixed := by
  simp only [ackGates]
  split
  · refine fixed_of_places rfl fun b => ?_
    simp only [tget_tmap, Option.map_map]
    rfl
  · rfl

@[simp] theorem fixed_ackOne (core : Nat) (es : List StoreEntry) (s : State) (e : StoreEntry) : (ackOne core es s e).fixed = s.fixed := by
  unfold ackOne
  extract_lets t wait s0 s1 w sc s2 s3 s4
  have h0 : s0.fixed = s.fixed := fixed_tmap_cores s fun c => by split <;> rfl
  have h2 : s2.fixed = s.fixed := (fixed_coreWrite ..).trans ((fixed_foldl (fun _ _ => fixed_sivRelease ..) _ _).trans h0)
  have h3 : s3.fixed = s2.fixed := by
    unfold s3
    split
    · refine fixed_foldl (fun s c => ?_) _ s2
      split <;> simp
    · rfl
  have h4 : s4.fixed = s.fixed := (fixed_mapGroup ..).trans ((fixed_ackGates ..).trans (h3.trans h2))
  split
  · exact h4
  · exact h4

@[simp] theorem fixed_mxTie (s : State) (core a b : Nat) : (mxTie s core a b).fixed = s.fixed := by simp [mxTie]

@[simp] theorem fixed_ackEntry (s : State) (core : Nat) (e : StoreEntry) : (ackEntry s core e).fixed = s.fixed := by
  refine (fixed_foldl (fun s x => fixed_foldl (fun s y => ?_) _ s) _ _).trans (fixed_foldl (fixed_ackOne core _) _ s)
  split <;> simp

@[simp] theorem fixed_performOne (s : State) (id : Nat) : (performOne s id).fixed = s.fixed := by
  unfold performOne
  split <;> simp

@[simp] theorem fixed_performAll (s : State) (ids : List Nat) : (performAll s ids).fixed = s.fixed := fixed_foldl fixed_performOne _ s

theorem fixed_drain {s t : State} {ids : List Nat} (hdrain : drain s ids = some t) : t.fixed = s.fixed := by
  simp only [drain] at hdrain
  split at hdrain
  · cases hdrain
  · rw [← Option.some.inj hdrain, fixed_performAll]

end Sys2Proof.Machine
end

section
/-! PROOF. What the pre-emption of a block leaves: its place in the scheduler and the group slots of its core (spec/10_scheduling.md R290, R291). -/

namespace Sys2Proof.Machine

open Sys2Proof

/-! ### Completed matrix commands (R138, R142, R148) -/

theorem place_setSpace (bl : Block) (sp : Space) (fol : Bool) (m : Sparse 8) : (setSpace bl sp fol m).place = bl.place := by
  cases sp <;> cases fol <;> rfl

theorem place_setZPoison (bl : Block) (fol : Bool) (p : List Nat) : (setZPoison bl fol p).place = bl.place := by cases fol <;> rfl

theorem place_poisonRegion (bl : Block) (c : MCmd) : (poisonRegion bl c).place = bl.place :=
  foldl_keeps (g := Block.place) _ bl fun bl e _ => by
    simp only
    split
    · rfl
    · exact place_setZPoison ..

theorem place_writeResults (bl : Block) (c : MCmd) : (writeResults bl c).place = bl.place := by
  refine (foldl_keeps (g := Block.place) c.bytes _ fun bl r _ => place_setSpace ..).trans (foldl_keeps (g := Block.place) c.res bl fun bl r _ => ?_)
  simp only [apply_ite Block.place, place_setZPoison, place_setSpace, ite_self]

theorem fixed_setTile (s : State) (core n : Nat) (t : Tile) : (setTile s core n t).fixed = s.fixed := fixed_mapCore s core rfl
theorem fixed_dropMtx (s : State) (core id : Nat) : (dropMtx s core id).fixed = s.fixed := fixed_mapCore s core rfl

theorem fixed_undrain (s : State) (core n : Nat) : (undrain s core n).fixed = s.fixed := by
  unfold undrain
  simp only
  split
  · exact fixed_setTile ..
  · rfl

theorem fixed_leaveGuard (s : State) (b g : Nat) (n : Option Nat) : (leaveGuard s b g n).fixed = s.fixed := by
  cases n with
  | none => rfl
  | some n => exact fixed_mapGroup ..

theorem fixed_batchFailed (s : State) (c : MCmd) : (batchFailed s c).fixed = s.fixed := fixed_mapGroup ..

theorem fixed_retireBatches (b g n : Nat) (s : State) : (retireBatches s b g n).fixed = s.fixed := by
  induction n generalizing s with
  | zero => rfl
  | succ n ih =>
    unfold retireBatches
    split
    · split
      · split
        · rw [ih, fixed_mapGroup]
        · rfl
      · rfl
    · rfl

theorem fixed_completeCmd (s : State) (core : Nat) (c : MCmd) : (completeCmd s core c).fixed = s.fixed := by
  rw [completeCmd, fixed_retireBatches, fixed_mapGroup, fixed_dropMtx]

theorem fixed_pumpMtxN (core b g n : Nat) (s : State) : (pumpMtxN s core b g n).fixed = s.fixed := by
  induction n generalizing s with
  | zero => rfl
  | succ n ih =>
    unfold pumpMtxN
    split
    · rfl
    · split
      · rw [ih, fixed_dropMtx]
      · split
        · rw [ih, fixed_leaveGuard, fixed_completeCmd]
        · rfl

theorem fixed_finishCmd (s : State) (core : Nat) (c : MCmd) : (finishCmd s core c).fixed = s.fixed := by
  unfold finishCmd
  extract_lets isMqnt s1 s2 s3 s4
  have h1 : s1.fixed = s.fixed := fixed_mapBlock s c.blk fun x => by
    split
    · exact place_poisonRegion ..
    · exact place_writeResults ..
  have h3 : s3.fixed = s2.fixed := by
    unfold s3
    split
    · rw [fixed_undrain, fixed_undrain]
    · rfl
  have h4 : s4.fixed = s3.fixed := by
    unfold s4
    split
    · exact fixed_batchFailed ..
    · exact fixed_mapGroup ..
  rw [pumpMtx, fixed_pumpMtxN, fixed_completeCmd, h4, h3, fixed_mapRegs, h1]

/-! ### Counted TRIGs (R284, R337) -/

/-- Where the blocks are, and in which state of residency. -/
abbrev State.places (s : State) : Nat → Option (Nat × Residency × Nat × Bool) := s.fixed.places

theorem places_of_fixed {s t : State} (h : t.fixed = s.fixed) : t.places = s.places := congrArg Fixed.places h

theorem places_get (s : State) (b : Nat) : s.places b = (tget s.blocks b).map Block.place := rfl
theorem places_mapCore (s : State) (c : Nat) (f : Core → Core) : (s.mapCore c f).places = s.places := rfl
theorem places_setGrids (s : State) (grids : Table Grid) : { s with grids := grids }.places = s.places := rfl

theorem places_countTrig (s : State) (b g : Nat) : (countTrig s b g).places = s.places := by
  unfold countTrig
  split
  · next bl x _ _ =>
    extract_lets s1
    have h1 : s1.places = s.places := places_of_fixed (fixed_sivReleaseAll s bl.core .dev)
    split
    · exact h1
    · exact (places_of_fixed (fixed_mapGroup ..)).trans ((places_setGrids s1 _).trans h1)
  · rfl

theorem places_countTrigs (b g : Nat) (l : List (List Nat)) (s : State) : (countTrigs s b g l).places = s.places := by
  induction l generalizing s with
  | nil => rfl
  | cons ids rest ih =>
    unfold countTrigs
    split
    · rfl
    · rw [ih, places_countTrig, places_of_fixed (fixed_mapGroup ..)]

theorem places_settleStop (s : State) (b core : Nat) : (settleStop s b core).places = s.places := by
  unfold settleStop
  extract_lets s1
  have h1 : s1.fixed = s.fixed := by
    refine (fixed_mapBlock (sivReleaseAll s core .dev) b ?_).trans (fixed_sivReleaseAll ..)
    exact fun _ => rfl
  exact (foldl_keeps (g := State.places) _ s1 fun s _ _ => places_countTrigs ..).trans (places_of_fixed h1)

/-! ### The records in a save slot (R289, R291) -/

theorem fixed_slotPut (s : State) (b pa : Nat) (bs : List Byte) : (slotPut s b pa bs).fixed = s.fixed := by
  unfold slotPut
  split
  · rfl
  · next bl hb =>
    have hput := fixed_physPutFor s bl.ctx pa bs
    refine (fixed_of_places rfl fun k => ?_).trans hput
    rw [blocks_setBlock]
    split
    · next hk =>
      subst hk
      have hplace : (tget (physPutFor s bl.ctx pa bs).blocks k).map Block.place = (tget s.blocks k).map Block.place := congrFun (places_of_fixed hput) k
      rw [hplace, hb]
      rfl
    · rfl

theorem fixed_fillSlot (s : State) (b pa n : Nat) : (fillSlot s b pa n).fixed = s.fixed := fixed_slotPut ..

theorem fixed_fillRecord (s : State) (b g : Nat) : (fillRecord s b g).fixed = s.fixed := by
  unfold fillRecord
  split
  · rfl
  · exact fixed_fillSlot ..

theorem fixed_writeRecords (s : State) (b : Nat) : (writeRecords s b).fixed = s.fixed := by
  unfold writeRecords
  split
  · rfl
  · split
    · rfl
    · exact (fixed_fillSlot ..).trans (fixed_foldl (fun _ _ => fixed_fillRecord ..) _ s)

/-! ### A pre-empted block (R291) -/

/-- The slots of a core after a block has given its own back. -/
theorem used_freeSlots (s : State) (b : Nat) (bl : Block) : ((freeSlots s b bl).core bl.core).used = (s.core bl.core).used.filter (fun e => e.2.1 != b) :=
  congrArg Core.used (State.core_mapCore ..)

/-- The block stays on its core, pre-empted since now and stopping no more, and has none of the core's group slots. -/
theorem preemptBlock_spec {s : State} {b : Nat} {bl : Block} (hb : tget s.blocks b = some bl) :
    (preemptBlock s b).places b = some (bl.core, .preempted, s.now, false) ∧ ∀ e ∈ ((preemptBlock s b).core bl.core).used, e.2.1 ≠ b := by
  obtain ⟨t, ht⟩ : ∃ t, preemptBlock s b = t := ⟨_, rfl⟩
  rw [ht]
  unfold preemptBlock at ht
  rw [hb] at ht
  dsimp -zeta only at ht
  extract_lets core s1 s2 s3 k mine s4 s5 s6 s7 at ht
  subst ht
  have h1 : s1.fixed = s.fixed := fixed_mapBlock s b fun _ => rfl
  have h2 : s2.places = s.places := by
    refine (places_settleStop ..).trans (places_of_fixed ?_)
    cases hdrain : drain s1 (((s1.core core).sq.filter (fun e => e.ag.blk == b)).map (fun e => e.id)) with
    | none => exact h1
    | some t => exact (fixed_drain hdrain).trans h1
  have h3 : s3.places = s.places := (places_of_fixed (fixed_foldl (fun _ _ => fixed_finishCmd ..) _ s2)).trans h2
  clear_value s3
  have h4 : s4.places b = some (bl.core, .preempted, s.now, false) := by
    have hbefore : (tget s3.blocks b).map Block.place = some bl.place := by rw [← places_get, h3, places_get, hb]; rfl
    obtain ⟨x, hx, hplace⟩ := Option.map_eq_some_iff.1 hbefore
    have hcore : x.core = bl.core := congrArg Prod.fst hplace
    rw [places_get, blocks_mapBlock, if_pos rfl, hx, ← hcore]
    rfl
  have h5 : s5.places b = some (bl.core, .preempted, s.now, false) := (congrFun (places_mapCore ..) b).trans h4
  clear_value s5
  have h6 : s6.places b = some (bl.core, .preempted, s.now, false) ∧ ∀ e ∈ (s6.core bl.core).used, e.2.1 ≠ b := by
    obtain ⟨x, hx, hplace⟩ := Option.map_eq_some_iff.1 h5
    have hcore : x.core = bl.core := congrArg Prod.fst hplace
    have hfreed : s6 = freeSlots s5 b x := by unfold s6; rw [hx]
    rw [hfreed, ← hcore]
    refine ⟨hcore ▸ h5, fun e he => ?_⟩
    rw [used_freeSlots] at he
    simpa using (List.mem_filter.1 he).2
  have h7 : (writeRecords s7 b).fixed = s6.fixed := (fixed_writeRecords ..).trans (fixed_tmap_cores s6 fun _ => rfl)
  have hused : ((writeRecords s7 b).core bl.core).used = (s6.core bl.core).used := congrFun (congrArg Fixed.used h7) bl.core
  rw [places_of_fixed h7, hused]
  exact h6

end Sys2Proof.Machine
end

section
/-! PROOF. The placing, starting, pre-emption and resumption of blocks, and the granule stream engine (spec/10_scheduling.md R280, R286, R289 to R294). -/

namespace Sys2Proof.Machine

open Sys2Proof Sys2Proof.Claims

/-! ### Groups and blocks after an update of a block -/

/-- A function of blocks that keeps the groups leaves every group. -/
theorem group_mapBlock (s : State) (b k g : Nat) {f : Block → Block} (hgroups : ∀ x, (f x).groups = x.groups) : (s.mapBlock b f).group? k g = s.group? k g := by
  have hlist := map_blocks_mapBlock (p := Block.groups) s b k hgroups
  have hof : ∀ o : Option Block, o.bind (fun x => tget x.groups g) = (o.map Block.groups).bind (fun m => tget m g) := fun o => by cases o <;> rfl
  unfold State.group?
  rw [hof, hlist, ← hof]

theorem group_mapCore (s : State) (c b g : Nat) (f : Core → Core) : (s.mapCore c f).group? b g = s.group? b g := rfl

theorem mapBlock_rest (s : State) (b : Nat) (f : Block → Block) : { s.mapBlock b f with blocks := s.blocks } = s := by
  unfold State.mapBlock
  split <;> rfl

theorem mem_mapBlock (s : State) (b : Nat) (f : Block → Block) : (s.mapBlock b f).mem = s.mem := (congrArg State.mem (mapBlock_rest s b f) :)
theorem cores_mapBlock (s : State) (b : Nat) (f : Block → Block) : (s.mapBlock b f).cores = s.cores := (congrArg State.cores (mapBlock_rest s b f) :)

/-! ### BLOCK_PLACE and BLOCK_RESUME (R286, R292, R294) -/

section

variable {s : State} {w : Wait} {b f : Nat} {cores : List Nat}

theorem serveWait_of_mayPlace (h : MayPlace s w b cores f) : serveWait s w.fresh b cores f = some (placeCluster s w cores f) := by
  obtain ⟨hfirst, hserve, hcores⟩ := h
  simp only [serveWait, hfirst, hserve, hcores, Bool.and_self, if_true]

theorem serveWait_eq_none {fresh : Bool} (h : ∀ w, ¬ (MayPlace s w b cores f ∧ w.fresh = fresh)) : serveWait s fresh b cores f = none := by
  unfold serveWait
  split
  · rfl
  · next w hfirst =>
    have hfits := List.find?_some hfirst
    have hfresh : w.fresh = fresh := eq_of_beq (Bool.and_eq_true_iff.1 hfits).1
    refine if_neg fun hroom => h w ⟨⟨?_, Bool.and_eq_true_iff.1 hroom⟩, hfresh⟩
    rw [hfresh]
    exact hfirst

end

/-! ### The groups of a fresh block (R280) -/

/-- The values of an initial part of a register file. -/
theorem sget_foldl_sset_range {w : Nat} (val : Nat → BitVec w) (m n : Nat) :
    sget ((List.range m).foldl (fun t i => sset t i (val i)) []) n = if n < m then val n else 0 := by
  induction m with
  | zero => rfl
  | succ m ih =>
    rw [List.range_succ, List.foldl_append, List.foldl_cons, List.foldl_nil, sget_sset, ih]
    by_cases hlast : n = m
    · simp [hlast]
    · rw [if_neg hlast]
      congr 1
      exact propext ⟨fun h => by omega, fun h => by omega⟩

theorem kget_start (p : Packet) (gi n : Nat) : (Regs.start p gi).kget n = if n < p.kregs ∧ n < 63 then p.params.getD n 0 else 0 := by
  unfold Regs.kget
  by_cases h63 : n = 63
  · rw [if_pos h63, if_neg (by omega)]
  · rw [if_neg h63]
    exact (sget_foldl_sset_range (fun i => p.params.getD i 0) _ n).trans (by simp only [lt_min_iff])

theorem startsAs_start (p : Packet) (gi slot now : Nat) : StartsAs p (Group.start p gi slot now) where
  pc := rfl
  mask := rfl
  k := kget_start p gi
  v _ _ := rfl
  p _ _ _ := BitVec.getLsbD_zero
  q _ _ := BitVec.getLsbD_zero
  guards _ := rfl
  rest := ⟨rfl, rfl, rfl, rfl, rfl⟩

theorem startsAs_slot {p : Packet} {g : Group} (h : StartsAs p g) (n : Nat) : StartsAs p { g with slot := n } :=
  ⟨h.pc, h.mask, h.k, h.v, h.p, h.q, h.guards, h.rest⟩

/-- Group `i` of a block is as at block start, and ready. -/
def StartsIn (p : Packet) (s : State) (b i : Nat) : Prop := ∃ g, s.group? b i = some g ∧ StartsAs p g ∧ g.run = .ready

section

variable {p : Packet} {s : State} {b i : Nat}

/-- A slot of the core's goes to a group, which is ready with it when it had been parked (R293). -/
def State.giveSlot (s : State) (b core i n : Nat) : State :=
  (s.mapCore core (fun c => { c with used := tset c.used n (b, i) })).mapGroup b i (fun g =>
    if g.run = .parkedOff .resumed then { g with slot := n, run := .ready, lastIss := s.now : Group }.settle else { g with slot := n })

/-- The groups take the first free slots of their quarters, one after the other. -/
theorem takeSlots_eq (s : State) (b core f : Nat) (groups : List Nat) :
    takeSlots s b core f groups = groups.foldl (fun s i => match (freeGroupSlots s core ((f + i) % 4)).head? with | none => s | some n => s.giveSlot b core i n) s := rfl

theorem StartsIn.giveSlot (h : StartsIn p s b i) (core j n : Nat) : StartsIn p (s.giveSlot b core j n) b i := by
  obtain ⟨g, hg, hstarts, hready⟩ := h
  by_cases hji : i = j
  · subst hji
    refine ⟨{ g with slot := n }, ?_, startsAs_slot hstarts n, hready⟩
    rw [State.giveSlot, State.group_mapGroup, group_mapCore, hg]
    simp [hready]
  · refine ⟨g, ?_, hstarts, hready⟩
    rw [State.giveSlot, State.group_mapGroup_ne _ _ (.inr hji), group_mapCore, hg]

theorem StartsIn.takeSlots (h : StartsIn p s b i) (core f : Nat) (groups : List Nat) : StartsIn p (takeSlots s b core f groups) b i := by
  rw [takeSlots_eq]
  refine List.foldlRecOn groups _ (motive := fun t => StartsIn p t b i) h fun t ht j _ => ?_
  split
  · exact ht
  · exact ht.giveSlot ..

end

theorem groups_putSlice (bl : Block) (k : Store) (fol : Bool) (order : Nat) (d : Sparse 8) : (putSlice bl k fol order d).groups = bl.groups := by
  cases k <;> cases fol <;> rfl

theorem group_claimOne (s : State) (core i : Nat) (k : Store) (fol : Bool) (b ctx order : Nat) (fresh : Bool) (x g : Nat) :
    (claimOne s core i k fol b ctx order fresh).group? x g = s.group? x g := by
  unfold claimOne
  extract_lets gr live
  split
  · rfl
  · split
    · exact (group_mapBlock _ b x g fun bl => groups_putSlice ..).trans rfl
    · rfl

theorem group_claimKind (s : State) (core : Nat) (p : Packet) (k : Store) (fol : Bool) (b ctx : Nat) (fresh : Bool) (x g : Nat) :
    (claimKind s core p k fol b ctx fresh).group? x g = s.group? x g :=
  (foldl_keeps (g := fun t : State => t.group? x g) _ _ fun _ _ _ => group_claimOne ..).trans (foldl_keeps (g := fun t : State => t.group? x g) _ s fun _ _ _ => rfl)

/-- Claims of granules leave every group. -/
theorem group_claimAll (s : State) (core : Nat) (p : Packet) (b ctx : Nat) (fresh : Bool) (x g : Nat) :
    (claimAll s core p b ctx fresh).group? x g = s.group? x g := by
  have hkinds : ∀ (l : List Store) (c : Nat) (fol : Bool) (t : State), (l.foldl (fun s k => claimKind s c p k fol b ctx fresh) t).group? x g = t.group? x g :=
    fun l c fol t => foldl_keeps (g := fun t : State => t.group? x g) l t fun _ _ _ => group_claimKind ..
  simp only [claimAll]
  split
  · rw [hkinds, hkinds]
  · exact hkinds ..

/-- The group of a number, in a list made from numbers. -/
theorem tget_map_numbers {α : Type} (val : Nat → α) {l : List Nat} {i : Nat} (hi : i ∈ l) : tget (l.map (fun j => (j, val j))) i = some (val i) := by
  induction l with
  | nil => cases hi
  | cons j l ih =>
    rw [List.map_cons, tget]
    by_cases hji : j = i
    · rw [if_pos hji, hji]
    · rw [if_neg hji, ih ((List.mem_cons.1 hi).resolve_left (Ne.symm hji))]

theorem startsIn_placeBlock {s : State} {w : Wait} {i : Nat} (rank key core f : Nat) (hfresh : w.fresh = true) (hi : i < (waitPacket s w).groups) :
    StartsIn (waitPacket s w) (placeBlock s w rank key core f) key i := by
  unfold placeBlock
  extract_lets p bl groups s1 s2
  have h1 : StartsIn p s1 key i := by
    refine ⟨Group.start p i 0 s.now, ?_, startsAs_start .., rfl⟩
    unfold s1
    rw [if_pos hfresh, State.group?, blocks_setBlock, if_pos rfl]
    exact tget_map_numbers (fun j => Group.start p j 0 s.now) (List.mem_range.2 hi)
  have h2 : StartsIn p s2 key i := h1.takeSlots ..
  obtain ⟨g, hg, hstarts⟩ := h2
  exact ⟨g, (group_claimAll ..).trans hg, hstarts⟩

/-! ### PREEMPT (R291, R293, R294) -/

theorem nextVictim_ready {s : State} {b : Nat} (hready : (stoppingClusters s).find? (fun b => (clusterKeys s b).all (canStop s)) = some b) : nextVictim s = some b := by
  rw [nextVictim, hready]

theorem nextVictim_demand {s : State} {d : Demand} (hready : (stoppingClusters s).find? (fun b => (clusterKeys s b).all (canStop s)) = none)
    (hd : nextDemand s = some d) : nextVictim s = d.victims.head? := by
  rw [nextVictim, hready, hd]
  rfl

theorem preemptEvent_stopping {s : State} {b : Nat} (hnext : nextVictim s = some b) (hstopping : b ∈ stoppingClusters s) :
    preemptEvent b s = some (preemptCluster s b) := by
  rw [preemptEvent, if_neg (not_not.2 hnext), if_pos (List.contains_iff_mem.2 hstopping)]

theorem preemptEvent_demand {s : State} {b : Nat} {d : Demand} (hnext : nextVictim s = some b) (hstopping : b ∉ stoppingClusters s) (hd : nextDemand s = some d) :
    preemptEvent b s = some (d.victims.foldl stopCluster s) := by
  rw [preemptEvent, if_neg (not_not.2 hnext), if_neg (fun h => hstopping (List.contains_iff_mem.1 h)), hd]
  rfl

theorem preemptEvent_other {s : State} {b : Nat} (hnext : nextVictim s ≠ some b) : preemptEvent b s = none := if_pos hnext

/-- The blocks of a cluster that is being stopped. -/
theorem tget_foldl_stopping (ks : List Nat) (s : State) (k : Nat) :
    tget (ks.foldl (fun s k => s.mapBlock k (fun bl => { bl with stopping := true })) s).blocks k =
      (tget s.blocks k).map (fun bl => if k ∈ ks then { bl with stopping := true } else bl) := by
  induction ks generalizing s with
  | nil => simp
  | cons j ks ih =>
    rw [List.foldl_cons, ih, blocks_mapBlock]
    by_cases hk : k = j
    · subst hk
      cases tget s.blocks k <;> simp
    · simp [hk]

theorem stopCluster_now {s : State} {b : Nat} (hcan : (clusterKeys s b).all (canStop s) = true) : stopCluster s b = preemptCluster s b := if_pos hcan

theorem stopCluster_later {s : State} {b : Nat} (hcan : (clusterKeys s b).all (canStop s) = false) :
    stopCluster s b = (clusterKeys s b).foldl (fun s k => s.mapBlock k (fun bl => { bl with stopping := true })) s := if_neg (by rw [hcan]; exact Bool.false_ne_true)

/-- A cluster that cannot stop yet is marked, and nothing else changes. -/
theorem stopCluster_marks {s : State} {b : Nat} (hcan : (clusterKeys s b).all (canStop s) = false) :
    (stopCluster s b).mem = s.mem ∧ (stopCluster s b).cores = s.cores ∧
      ∀ k bl, tget s.blocks k = some bl → tget (stopCluster s b).blocks k = some (if k ∈ clusterKeys s b then { bl with stopping := true } else bl) := by
  rw [stopCluster_later hcan]
  refine ⟨foldl_keeps (g := State.mem) _ s fun _ _ _ => mem_mapBlock .., foldl_keeps (g := State.cores) _ s fun _ _ _ => cores_mapBlock .., fun k bl hk => ?_⟩
  rw [tget_foldl_stopping, hk]
  rfl

/-! ### PARKED_GROUP_RELOAD (R293) -/

theorem slot_nextPath (g : Group) (st : List StackEntry) : (nextPath g st).slot = g.slot := by
  induction st with
  | nil => rfl
  | cons e rest ih =>
    unfold nextPath
    split
    · rfl
    · split
      · exact ih
      · rfl

theorem slot_settle (g : Group) : g.settle.slot = g.slot := by
  unfold Group.settle
  split
  · exact slot_nextPath ..
  · rfl

theorem settle_of_mask {g : Group} (h : g.r.mask ≠ 0) : g.settle = g := if_neg fun hc => h hc.1

section

variable {s : State} {b g n : Nat} {bl : Block} {x : Group} {rest : List Nat}

/-- A reload from a record that nobody has altered: a slot for the group, and the record holds nothing more. -/
theorem reloadGroup_unaltered (hkept : ∀ a, bl.save = some a → slotAltered s bl (inRecord a g) = false) :
    reloadGroup s b g bl = (takeSlots s b bl.core bl.first [g]).mapBlock b (fun x => x.loadedGroup g) := by
  simp only [reloadGroup]
  split
  · rfl
  · next a ha => rw [hkept a ha]; rfl

theorem takeSlots_single (hfree : freeGroupSlots s bl.core ((bl.first + g) % 4) = n :: rest) : takeSlots s b bl.core bl.first [g] = s.giveSlot b bl.core g n := by
  rw [takeSlots_eq, List.foldl_cons, List.foldl_nil, hfree]
  rfl

theorem groups_loadedGroup (bl : Block) (g : Nat) : (bl.loadedGroup g).groups = bl.groups := by
  unfold Block.loadedGroup
  split <;> rfl

/-- The group that goes on in a slot. -/
def Group.inSlot (x : Group) (n now : Nat) : Group := { x with slot := n, run := .ready, lastIss := now : Group }.settle

theorem group_giveSlot (hg : s.group? b g = some x) (hrun : x.run = .parkedOff .resumed) (core : Nat) :
    (s.giveSlot b core g n).group? b g = some (x.inSlot n s.now) := by
  rw [State.giveSlot, State.group_mapGroup, group_mapCore, hg, Option.map_some, if_pos hrun]
  rfl

theorem cores_giveSlot (core : Nat) : (s.giveSlot b core g n).cores = (s.mapCore core (fun c => { c with used := tset c.used n (b, g) })).cores :=
  (congrArg State.cores (device_mapGroup (s.mapCore core (fun c => { c with used := tset c.used n (b, g) })) b g _) :)

theorem mem_giveSlot (core : Nat) : (s.giveSlot b core g n).mem = s.mem :=
  (congrArg State.mem (device_mapGroup (s.mapCore core (fun c => { c with used := tset c.used n (b, g) })) b g _) :)

theorem used_of_giveSlot {t : State} {core : Nat} (hcores : t.cores = (s.giveSlot b core g n).cores) : tget (t.core core).used n = some (b, g) := by
  have hcore : t.core core = (s.mapCore core (fun c => { c with used := tset c.used n (b, g) })).core core := by
    unfold State.core
    rw [hcores, cores_giveSlot]
  rw [hcore, State.core_mapCore, tget_tset_same]

theorem reload_due (hb : tget s.blocks b = some bl) (hg : s.group? b g = some x) (hres : bl.res = .resident) (hrun : x.run = .parkedOff .resumed)
    (hkept : ∀ a, bl.save = some a → slotAltered s bl (inRecord a g) = false) (hfree : freeGroupSlots s bl.core ((bl.first + g) % 4) = n :: rest) :
    parkedGroupReloadEvent b g s = some ((s.giveSlot b bl.core g n).mapBlock b (fun x => x.loadedGroup g)) := by
  rw [parkedGroupReloadEvent, hb, hg]
  simp only [hres, hrun, hfree, beq_self_eq_true, Bool.and_self, List.head?_cons]
  rw [reloadGroup_unaltered hkept, takeSlots_single hfree]

theorem reload_idle (hb : tget s.blocks b = some bl) (hg : s.group? b g = some x)
    (hnot : bl.res ≠ .resident ∨ x.run ≠ .parkedOff .resumed ∨ freeGroupSlots s bl.core ((bl.first + g) % 4) = []) : parkedGroupReloadEvent b g s = none := by
  rw [parkedGroupReloadEvent, hb, hg]
  obtain hres | hrun | hfree := hnot
  · simp [hres]
  · simp [hrun]
  · simp [hfree]

/-- What a group that resumes in a slot has. -/
theorem reloaded_group (hg : s.group? b g = some x) (hrun : x.run = .parkedOff .resumed) :
    let t := (s.giveSlot b bl.core g n).mapBlock b (fun x => x.loadedGroup g)
    ∃ y, t.group? b g = some y ∧ y.slot = n ∧ (x.r.mask ≠ 0 → y.run = .ready ∧ y.r = x.r) ∧ tget (t.core bl.core).used n = some (b, g) ∧ t.mem = s.mem := by
  refine ⟨x.inSlot n s.now, ?_, slot_settle _, fun hmask => ?_, used_of_giveSlot (cores_mapBlock ..), (mem_mapBlock ..).trans (mem_giveSlot ..)⟩
  · rw [group_mapBlock _ b b g (fun x => groups_loadedGroup x g), group_giveSlot hg hrun]
  · have hstays : x.inSlot n s.now = { x with slot := n, run := .ready, lastIss := s.now } := settle_of_mask hmask
    rw [hstays]
    exact ⟨rfl, rfl⟩

end

/-! ### The stream engine (R290) -/

theorem streamEvent_of_lt {s : State} {core gr : Nat} {t : State} (hgr : gr < 104) (ht : streamOp s core gr = some t) : granuleStreamOperationEvent core gr s = some t := by
  rw [granuleStreamOperationEvent, if_pos hgr, ht]

theorem streamEvent_none {s : State} {core gr : Nat} (h : 104 ≤ gr ∨ streamOp s core gr = none) : granuleStreamOperationEvent core gr s = none := by
  unfold granuleStreamOperationEvent
  obtain hgr | hop := h
  · rw [if_neg (Nat.not_lt.2 hgr)]
  · rw [hop, ite_self]

/-- A FREE granule that nobody claims is cleared of what it holds. -/
theorem streamOp_clear {s : State} {core gr : Nat} (hclaim : (granOf s core gr).claim = none) (hfree : (granOf s core gr).st = .free) (hlast : (granOf s core gr).last ≠ none) :
    streamOp s core gr = some (setGran s core gr { granOf s core gr with last := none, data := [] }) := by
  simp only [streamOp, hclaim, hfree]
  rw [if_neg (by decide), if_pos (by simp [Option.isSome_iff_ne_none.2 hlast])]

/-- Settles O43: each event is its defining step; a fresh block's groups keep what they start with through slots and claims, and a pre-empted block keeps its core while its
stores, SIV copies and matrix commands drain, since no access of a core moves a block. -/
theorem blocksComeAndGo : Obligations.BlocksComeAndGo := by
  unfold Obligations.BlocksComeAndGo
  refine ⟨fun s w b cores f hmay => ⟨fun hfresh => ?_, fun hfresh => ?_⟩, fun s b cores f => ⟨fun hno => ?_, fun hno => ?_⟩, fun s w rank key core f i hfresh hi => ?_,
    fun s b => ⟨fun hready => ?_, fun w vs hready hstop hd => ?_, fun hready hstop hd => ?_, fun hnext => ?_⟩, fun s b => ⟨stopCluster_now, stopCluster_marks⟩,
    fun s b bl x hb hx => ?_, fun s b g bl x hb hx => ⟨fun n rest hres hrun hkept hfree => ?_, fun hnot => ?_⟩,
    fun s core gr => ⟨fun t hgr ht => congrArg (happen s) (streamEvent_of_lt hgr ht), fun hno => congrArg (happen s) (streamEvent_none hno), fun _ hclaim hfree hlast => streamOp_clear hclaim hfree hlast⟩⟩
  · exact congrArg (happen s) (hfresh ▸ serveWait_of_mayPlace hmay)
  · exact congrArg (happen s) (hfresh ▸ serveWait_of_mayPlace hmay)
  · exact congrArg (happen s) (serveWait_eq_none hno)
  · exact congrArg (happen s) (serveWait_eq_none hno)
  · obtain ⟨g, hg, hstarts, -⟩ := startsIn_placeBlock rank key core f hfresh hi
    exact ⟨g, hg, hstarts⟩
  · exact congrArg (happen s) (preemptEvent_stopping (nextVictim_ready hready) (List.mem_of_find?_eq_some hready))
  · exact congrArg (happen s) (preemptEvent_demand (nextVictim_demand hready hd) hstop hd)
  · exact congrArg (happen s) (preemptEvent_demand (nextVictim_demand hready hd) hstop hd)
  · exact congrArg (happen s) (preemptEvent_other hnext)
  · obtain ⟨hplace, hused⟩ := preemptBlock_spec hb
    rw [places_get, hx] at hplace
    have hparts := Option.some.inj hplace
    simp only [Block.place, Prod.mk.injEq] at hparts
    exact ⟨hparts.2.1, hparts.2.2.1, hparts.2.2.2, hused⟩
  · obtain ⟨y, hy⟩ := reloaded_group (bl := bl) (n := n) hx hrun
    exact ⟨_, y, congrArg (happen s) (reload_due hb hx hres hrun hkept hfree), hy⟩
  · exact congrArg (happen s) (reload_idle hb hx hnot)

end Sys2Proof.Machine
end
